-- ==== Sys2Proof/Word.lean ====
section
/-! DEFINITION. The word types of the ZT8 model and their plainest arithmetic: bytes, 64-bit
registers, 128-bit instruction words, and the field notation NAME[msb:lsb] of R18. -/

namespace Sys2Proof

/-- A byte is 8 bits (R17). -/
abbrev Byte := BitVec 8

/-- A word is 64 bits (R17); scalar registers and 64-bit device registers hold one. -/
abbrev Word := BitVec 64

/-- A 32-bit register or 32-bit tensor element. -/
abbrev Half := BitVec 32

/-- A ZTI-3 instruction is 128 bits (R117). -/
abbrev InstrWord := BitVec 128

/-- A tensor descriptor is 64 bytes (R108). -/
abbrev DescWord := BitVec 512

/-- A SHA-256 digest or measurement register (R534). -/
abbrev Digest := BitVec 256

end Sys2Proof
end

