-- ==== Sys2Proof/Syntax.lean ====
section
/-! DEFINITION. The commands of the ZT8 block: one constructor of `Instr` per row of
spec/opcode_table.json, with the types of the rows' operands. -/

namespace Sys2Proof

/-- The three streams of a context, in the order F, B, U (R101, R127). -/
inductive Strm where
  | F | B | U
  deriving DecidableEq, Repr

/-- One stream: partition, context, stream (R101, Table 0.4). -/
structure StreamId where
  part : Fin 16
  ctx  : Fin 8
  strm : Strm
  deriving DecidableEq, Repr

/-! ### Memory errors -/

/-- Severity report of the HBM dies (Table 7.6). -/
inductive OnDie where
  | none | corrected | uncorrected
  deriving DecidableEq, Repr

/-- Result of a SEC-DED decode (Table 7.6, R299). -/
inductive Secded where
  | clean | corrected | uncorrectable
  deriving DecidableEq, Repr

/-- What a read of storage finds in one 64-bit word of the line (Table 7.6, R299). -/
structure Ecc where
  onDie  : OnDie
  secded : Secded
  word   : Fin 8
  deriving DecidableEq, Repr

/-- A DRAM row as records name it: pseudo-channel, bank, row (Tables 15.3, 15.8). -/
structure DramRow where
  pc   : BitVec 5
  bank : BitVec 6
  row  : BitVec 17
  deriving DecidableEq, Repr

/-- What the stores and reads of a tile meet: an uncorrectable word of a core's stores (R598, 0x0909), or a
block of a die whose checksum failed once and passed at the re-fetch (R304). -/
inductive StoreErr where
  | none | coreStore | accumulator | refetched (die : Fin 8)
  deriving DecidableEq, Repr

/-- Spaces of device state that a D2 session reads and writes (R544). -/
inductive DebugSpace where
  | device | coreStore | accumulator | register
  deriving DecidableEq, Repr

/-! ### Die protocol -/

/-- Header of a die-protocol message, Table 9.2, without TYPE. -/
structure DieHdr where
  vc      : BitVec 2
  src     : BitVec 4
  dst     : BitVec 4
  tag     : BitVec 14
  attr    : BitVec 32
  addr    : BitVec 48
  part    : BitVec 4
  verify  : Bool
  noalloc : Bool
  pois    : Bool
  deriving DecidableEq, Repr

/-- Poison tag fields of a checksum entry (Table 7.9, bytes 20 to 24). -/
structure Tag where
  iseq   : BitVec 32
  ctx    : BitVec 3
  stream : BitVec 2
  agent  : BitVec 3
  deriving DecidableEq, Repr

/-- What an ACCC message reports (R435). -/
inductive AcccKind where
  | credit | completion | abort
  deriving DecidableEq, Repr

/-- What a CNT message updates for the lead cluster (Table 9.3): a barrier counter, or the
reader or release count of a parameter group. -/
inductive CntTarget where
  | barrier (c : Fin 64)
  | readers (g : BitVec 12)
  | releases (g : BitVec 12)
  deriving DecidableEq, Repr

/-! ### Chip-to-chip links -/

/-- A flit of Table 10.3 as received: header fields, payload granules and the FCRC carried. -/
structure Flit where
  nak  : Bool
  seq  : BitVec 12
  ack  : BitVec 12
  crdD : BitVec 16
  crdC : BitVec 16
  pay  : List (BitVec 128)
  fcrc : BitVec 32
  deriving DecidableEq, Repr

/-- Header of an Accord message on a link (Table 10.14), without MTYPE. -/
structure AccHdr where
  pois    : Bool
  gid     : BitVec 16
  srcRank : BitVec 12
  dstRank : BitVec 12
  opseq   : BitVec 8
  len     : BitVec 5
  offset  : BitVec 48
  aux     : BitVec 16
  deriving DecidableEq, Repr

/-- MEMBER of Table 10.15: the sender's capability word, rank, NRANKS, PROFILE and lap, with the
FMT bits ANDed and the generations ORed so far (R422 step 2). -/
structure MemberMsg where
  cap     : BitVec 64
  rank    : BitVec 12
  nranks  : BitVec 13
  canon   : Bool
  lap2    : Bool
  fmt     : BitVec 8
  genMask : BitVec 3
  deriving DecidableEq, Repr

/-- HDR digest of a collective (R428, Table 10.15). -/
structure CollDigest where
  op    : BitVec 8
  fmt   : BitVec 4
  group : BitVec 2
  rank  : BitVec 3
  count : BitVec 64
  d     : BitVec 32
  norm  : Bool
  deriving DecidableEq, Repr

/-! ### Shaonen Link -/

/-- Header of a message from the host (Table 11.3), without TYPE. -/
structure ShlHdr where
  port : Fin 2
  ch   : BitVec 2
  tag  : BitVec 12
  addr : BitVec 48
  deriving DecidableEq, Repr

/-- Who writes a register: the host over the Shaonen Link, or the management controller. -/
inductive RegSrc where
  | host | i3c
  deriving DecidableEq, Repr

/-- Job types of Table 11.8 that are long operations. -/
inductive LongOp where
  | bist | exportOp | replay | scrub | flash
  deriving DecidableEq, Repr

/-- How a long operation ends as seen by its own hardware (R480, R532): its work is done, a source
block is poisoned, the host link failed, or the flash read-back or second read failed. -/
inductive LongEnd where
  | done | poisoned | hostLost | flashReadBack | flashChanged | failed
  deriving DecidableEq, Repr

/-! ### Trust and management -/

/-- Debug ports (R537, Table 13.18). -/
inductive DbgPort where
  | mailbox | jtag
  deriving DecidableEq, Repr

/-- Transports of the SPDM responder (Table 13.9). -/
inductive SpdmPort where
  | mctp | mailbox
  deriving DecidableEq, Repr

/-- I3C targets (Table 16.8). -/
inductive I3cTarget where
  | mctp | reg0 | reg1
  deriving DecidableEq, Repr

/-- The two management buses. -/
inductive I3cBus where
  | i3c0 | i3c1
  deriving DecidableEq, Repr

/-- Who asks for a reset or a Drydown command (Tables 14.10, 14.11). -/
inductive CmdSrc where
  | host | controller
  deriving DecidableEq, Repr

/-- Kind of die found at a media site (Table 9.6 step 2); `needs`: the guest requires a feature outside
Table 9.1, so its edge is not trained (R371). -/
inductive SiteFit where
  | blank | atomizer | guest (vid did : BitVec 16) (rev : BitVec 8) (needs : Bool)
  deriving DecidableEq, Repr

/-- A data lane of a bridge module: edge (R592), module, lane. -/
structure LaneAt where
  edge : Fin 16
  mod  : Fin 8
  lane : BitVec 8
  deriving DecidableEq, Repr

/-- What discovery, boot and HBM initialisation find at a reset (Tables 9.6, 13.5, 14.9): the
hardware facts that the sequences read and the manual leaves to the parts fitted. Dies that send an
identity message; modules of each hub, column and media edge that the interconnect test passes, one bit
each; the numbers that the two dies of each column edge report; kind of each media site and functions of
its Atomizer; lanes that the fused map repairs, and lanes that the field test finds failing besides. -/
structure BoardFacts where
  dies       : BitVec 8
  hubMods    : List (BitVec 8)
  colMods    : List (BitVec 8)
  siteMods   : List (BitVec 4)
  colNums    : List (BitVec 4 × BitVec 4)
  sites      : List SiteFit
  atzFunc    : List (BitVec 4)
  fused      : List LaneAt
  lanes      : List LaneAt
  hbm        : BitVec 16
  links      : BitVec 48
  shlFitted  : BitVec 2
  identityOk : Bool
  addrSel    : BitVec 3
  deriving DecidableEq, Repr

/-! ### Commands -/

/-- One constructor per row of spec/opcode_table.json. An instruction row carries the stream and
the 128-bit instruction word (R117) that stands at its PC; an event row carries what its source
decides; a register row carries the value written. -/
inductive Instr where
  | nop (at_ : StreamId) (w : InstrWord)
  | li (at_ : StreamId) (w : InstrWord)
  | add (at_ : StreamId) (w : InstrWord)
  | addi (at_ : StreamId) (w : InstrWord)
  | sub (at_ : StreamId) (w : InstrWord)
  | mul (at_ : StreamId) (w : InstrWord)
  | logic (at_ : StreamId) (w : InstrWord)
  | rdspr (at_ : StreamId) (w : InstrWord)
  | shift (at_ : StreamId) (w : InstrWord)
  | br (at_ : StreamId) (w : InstrWord)
  | loop (at_ : StreamId) (w : InstrWord)
  | lds (at_ : StreamId) (w : InstrWord)
  | sts (at_ : StreamId) (w : InstrWord)
  | dld (at_ : StreamId) (w : InstrWord)
  | dset (at_ : StreamId) (w : InstrWord)
  | endStream (at_ : StreamId) (w : InstrWord)
  | bcset (at_ : StreamId) (w : InstrWord)
  | bcinc (at_ : StreamId) (w : InstrWord)
  | bcwait (at_ : StreamId) (w : InstrWord)
  | fence (at_ : StreamId) (w : InstrWord)
  | gfence (at_ : StreamId) (w : InstrWord)
  | iflush (at_ : StreamId) (w : InstrWord)
  | event (at_ : StreamId) (w : InstrWord)
  | copy (at_ : StreamId) (w : InstrWord)
  | copyt (at_ : StreamId) (w : InstrWord)
  | fill (at_ : StreamId) (w : InstrWord)
  | gather (at_ : StreamId) (w : InstrWord)
  | scatter (at_ : StreamId) (w : InstrWord)
  | prefetch (at_ : StreamId) (w : InstrWord)
  | mm (at_ : StreamId) (w : InstrWord)
  | mmacc (at_ : StreamId) (w : InstrWord)
  | mmrs (at_ : StreamId) (w : InstrWord)
  | mmag (at_ : StreamId) (w : InstrWord)
  | conv (at_ : StreamId) (w : InstrWord)
  | convg (at_ : StreamId) (w : InstrWord)
  | convbd (at_ : StreamId) (w : InstrWord)
  | convbw (at_ : StreamId) (w : InstrWord)
  | pool (at_ : StreamId) (w : InstrWord)
  | vbin (at_ : StreamId) (w : InstrWord)
  | vfma (at_ : StreamId) (w : InstrWord)
  | vun (at_ : StreamId) (w : InstrWord)
  | vcvt (at_ : StreamId) (w : InstrWord)
  | norm (at_ : StreamId) (w : InstrWord)
  | smax (at_ : StreamId) (w : InstrWord)
  | minv (at_ : StreamId) (w : InstrWord)
  | tfn (at_ : StreamId) (w : InstrWord)
  | tder (at_ : StreamId) (w : InstrWord)
  | tload (at_ : StreamId) (w : InstrWord)
  | rsum (at_ : StreamId) (w : InstrWord)
  | rmax (at_ : StreamId) (w : InstrWord)
  | rmin (at_ : StreamId) (w : InstrWord)
  | rssq (at_ : StreamId) (w : InstrWord)
  | qnt (at_ : StreamId) (w : InstrWord)
  | dqnt (at_ : StreamId) (w : InstrWord)
  | updApply (at_ : StreamId) (w : InstrWord)
  | updNorm (at_ : StreamId) (w : InstrWord)
  | updPack (at_ : StreamId) (w : InstrWord)
  | updFencePass (at_ : StreamId) (iseq : BitVec 32)
  | reqnt (at_ : StreamId) (w : InstrWord)
  | rs (at_ : StreamId) (w : InstrWord)
  | ag (at_ : StreamId) (w : InstrWord)
  | ar (at_ : StreamId) (w : InstrWord)
  | send (at_ : StreamId) (w : InstrWord)
  | recv (at_ : StreamId) (w : InstrWord)
  | pull (at_ : StreamId) (w : InstrWord)
  | rel (at_ : StreamId) (w : InstrWord)
  | amax (at_ : StreamId) (w : InstrWord)
  | fprint (at_ : StreamId) (w : InstrWord)
  | cntrd (at_ : StreamId) (w : InstrWord)
  | flagrd (at_ : StreamId) (w : InstrWord)
  | instructionBlockFetch (at_ : StreamId) (block : Nat)
  | instructionWaitSatisfied (at_ : StreamId)
  | fenceWatchdogExpiry (at_ : StreamId)
  | tileClaim (at_ : StreamId) (iseq : BitVec 32) (cluster : Fin 32) (core : Fin 32)
  | tileEnd (at_ : StreamId) (iseq : BitVec 32) (tile : Nat) (core : Fin 1024) (err : StoreErr)
  | instructionComplete (at_ : StreamId) (iseq : BitVec 32)
  | rd (h : DieHdr) (ecc : Ecc) (row : DramRow)
  | wr (h : DieHdr) (data : BitVec 512) (ecc : Ecc) (row : DramRow)
  | wrp (h : DieHdr) (mask : BitVec 64) (data : BitVec 512) (ecc : Ecc) (row : DramRow)
  | radd (h : DieHdr) (rec : BitVec 384)
  | pois (h : DieHdr) (tag : Tag)
  | inv (h : DieHdr)
  | cnt (h : DieHdr) (target : CntTarget) (ctx : Fin 8) (inc : BitVec 32)
  | evt (h : DieHdr) (rec : BitVec 512)
  | rdata (h : DieHdr) (data : BitVec 512)
  | chk (h : DieHdr) (crc : BitVec 32) (lstate : BitVec 128) (contrib : BitVec 32)
  | ack (h : DieHdr)
  | nack (h : DieHdr)
  | disc (h : DieHdr) (num : BitVec 4)
  | dack (h : DieHdr) (error : BitVec 8)
  | accd (h : DieHdr) (data : BitVec 512)
  | accc (h : DieHdr) (kind : AcccKind) (gid : BitVec 16) (opseq : BitVec 32) (count : BitVec 64)
  | patrolScrub (addr : BitVec 48) (ecc : Ecc) (row : DramRow)
  | rowTrackerClear (stack : Fin 16)
  | meminitGo
  | meminitDone
  | ssWayWrite (die : Fin 8) (mode : Bool) (value : BitVec 64)
  | ssWayChangeDone (die : Fin 8)
  | queuePush (q : Nat) (payload : List (BitVec 64)) (parityBad : BitVec 7) (ptrBad : Bool)
  | queuePop (q : Nat) (parityBad : BitVec 7) (ptrBad : Bool)
  | queueTailTimeout (q : Nat)
  | atzStart (site : Fin 2) (ring : Fin 16)
  | atzStop (site : Fin 2) (ring : Fin 16)
  | pipelineIdle (site : Fin 2) (ring : Fin 16)
  | subTailWrite (site : Fin 2) (ring : Fin 16) (value : BitVec 32)
  | submissionTake (site : Fin 2) (ring : Fin 16)
  | sampleStart (site : Fin 2) (ring : Fin 16) (pos : Nat)
  | workBudgetExceeded (site : Fin 2) (ring : Fin 16) (pos : Nat)
  | sampleResolved (site : Fin 2) (ring : Fin 16) (pos : Nat)
  | reserveAssign (site : Fin 2) (ring : Fin 16) (pos : Nat)
  | batchPublish (site : Fin 2) (ring : Fin 16)
  | eodFlush (site : Fin 2) (ring : Fin 16)
  | liveFrameTake (site : Fin 2) (ring : Fin 16)
  | liveFlushTimeout (site : Fin 2) (ring : Fin 16) (bucket : Fin 64)
  | atomizerDieFault (site : Fin 2) (unit : BitVec 8) (third : Bool)
  | bridgeModuleRetrain (edge : Fin 16) (mod : Fin 8) (lane : BitVec 8)
  | bridgeFlitReplay (edge : Fin 16) (mod : Fin 8) (lane : BitVec 8)
  | guestMessage (site : Fin 2) (type : BitVec 6) (h : DieHdr) (mask : BitVec 64)
      (data : BitVec 512) (sideband rateLimited : Bool)
  | guestTokenRelease (site : Fin 2) (us : Nat)
  | guestWindowWrite (site : Fin 2) (k : Fin 8) (size : Bool) (value : BitVec 64)
  | lnkEnable (l : Fin 48)
  | lnkDisable (l : Fin 48)
  | lnkRetrain (l : Fin 48)
  | basePage (l : Fin 48) (cap : BitVec 64) (serial : BitVec 48) (port : BitVec 6) (ack : Bool)
      (lanes : BitVec 4)
  | trainingStepTimeout (l : Fin 48) (step : BitVec 3)
  | trainingRestart (l : Fin 48)
  | keepaliveSend (l : Fin 48)
  | keepaliveFlit (l : Fin 48) (f : Flit)
  | dataFlit (l : Fin 48) (f : Flit)
  | idleFlit (l : Fin 48) (f : Flit)
  | downFlit (l : Fin 48) (f : Flit)
  | laneFailure (l : Fin 48) (lane : Fin 4)
  | linkRecoveryDone (l : Fin 48)
  | linkRecoveryTimeout (l : Fin 48)
  | keepaliveWindowEnd (l : Fin 48) (seen : Bool)
  | groupActivate (die : Fin 8) (part : Fin 16) (group : BitVec 8)
  | groupDeactivate (die : Fin 8) (part : Fin 16) (group : BitVec 8)
  | groupActivationTimeout (part : Fin 16) (group : BitVec 8)
  | accordMember (h : AccHdr) (m : MemberMsg)
  | accordAbort (h : AccHdr)
  | accordData (h : AccHdr) (data : List (BitVec 128))
  | accordDone (h : AccHdr)
  | hdr (h : AccHdr) (digest : CollDigest)
  | grant (h : AccHdr)
  | nrec (h : AccHdr) (rec : BitVec 384)
  | fpx (h : AccHdr) (tid : BitVec 32) (gstep : BitVec 64) (fp : BitVec 64)
  | blkx (h : AccHdr) (tid : BitVec 32) (gstep : BitVec 64) (crcs : List (BitVec 32))
  | shlPortUp (port : Fin 2) (rate64 x16 reversed : Bool) (failed : Nat)
  | shlPortDown (port : Fin 2) (cause : BitVec 4)
  | hostAccessTimeout (tag : BitVec 12)
  | mrd (h : ShlHdr) (bytes : Nat)
  | mwr (h : ShlHdr) (data : BitVec 512)
  | mwrp (h : ShlHdr) (mask : BitVec 64) (data : BitVec 512)
  | shlData (h : ShlHdr) (pois refused : Bool) (data : BitVec 512)
  | cmp (h : ShlHdr) (refused : Bool)
  | snpi (h : ShlHdr) (bad : Bool)
  | snps (h : ShlHdr) (bad : Bool)
  | jobTake (idx : Fin 4096) (bad : Option (Fin 3))
  | jobTableScan
  | jobStep (idx : Fin 4096)
  | stepStart (part : Fin 16) (ctx : Fin 8)
  | jobBist (idx : Fin 4096)
  | jobExport (idx : Fin 4096)
  | jobReplay (idx : Fin 4096)
  | jobScrub (idx : Fin 4096)
  | jobFlash (idx : Fin 4096) (obj : List Byte)
  | jobAbort (idx : Fin 4096)
  | longOperationStart (op : LongOp)
  | longOperationUnitDone (op : LongOp) (units : Nat)
  | bistClusterDone (cluster : Fin 32) (failed : BitVec 34)
  | longOperationEnd (op : LongOp) (how : LongEnd)
  | jobtabEnable (value : BitVec 32)
  | jobtabDisable (value : BitVec 32)
  | evtRingEnable (value : BitVec 32)
  | evtHeadWrite (value : BitVec 32)
  | quantumExpiry (part : Fin 16)
  | preemptionDrained (part : Fin 16)
  | partitionEnable (part : Fin 16)
  | partitionEnabled (part : Fin 16)
  | partitionDisable (part : Fin 16)
  | partitionDisableDone (part : Fin 16)
  | shlCtlWrite (value : BitVec 32)
  | shlHwinWrite (k : Fin 16) (ctl : Bool) (value : BitVec 64)
  | cluStepWrite (cluster : Fin 32) (value : BitVec 64)
  | cluSeedWrite (cluster : Fin 32) (value : BitVec 64)
  | cluClipWrite (cluster : Fin 32) (value : BitVec 64)
  | sillageEnable (part : Fin 16) (value : BitVec 32)
  | sillageHeadWrite (part : Fin 16) (value : BitVec 32)
  | comparatorGroupEnd (at_ : StreamId)
  | replayRecord
  | getVersion (port : SpdmPort)
  | getCapabilities (port : SpdmPort)
  | negotiateAlgorithms (port : SpdmPort) (asymOk hashOk measOk : Bool)
  | getDigests (port : SpdmPort)
  | getCertificate (port : SpdmPort) (slot : Nat) (offset length : Nat)
  | challenge (port : SpdmPort) (slot : Nat) (nonce : Digest) (summary : Bool)
  | getMeasurements (port : SpdmPort) (index : BitVec 8) (signed : Bool) (nonce : Digest)
  | deploy (port : DbgPort) (len : BitVec 13)
  | revoke (port : DbgPort) (len : BitVec 13)
  | returnLife (port : DbgPort) (len : BitVec 13)
  | debugToken (port : DbgPort) (len : BitVec 13)
  | debugRequest (port : DbgPort) (level : BitVec 2)
  | debugScrubDone
  | newNonce (port : DbgPort)
  | nonceExpiry
  | closeSession (port : DbgPort)
  | sessionDurationExpiry
  | recoveryLoad (obj : List Byte)
  | recoveryLoadDone (readBackOk : Bool)
  | bypass
  | idcode
  | samplePreload (pins : BitVec 64)
  | extest (pins : BitVec 64)
  | dbgMbx (value : BitVec 64) (hostSameCycle : Bool)
  | dbgData (value : BitVec 64)
  | tapReset
  | powerUp (facts : BoardFacts)
  | powerDown
  | warmResetAssert
  | warmResetRelease (facts : BoardFacts)
  | clusterReset (src : CmdSrc) (cluster : Fin 32)
  | clusterResetDone (cluster : Fin 32) (failed : BitVec 33)
  | partitionReset (src : CmdSrc) (part : Fin 16)
  | hubRestart (src : CmdSrc)
  | hubRestartDone (idents : List (Option (BitVec 32)))
  | controlProcessorWatchdog
  | heartbeatTick
  | drydownEnter (src : CmdSrc)
  | drydownExit (src : CmdSrc)
  | drydownWake (port : Fin 2)
  | sensorRead (sensor : Fin 69) (temp : BitVec 12) (present : Bool)
  | clusterThrottle (cluster : Fin 32)
  | clusterUnthrottle (cluster : Fin 32)
  | tripSlowOvercurrent
  | tripFastOvercurrent
  | tripUnderVoltage
  | tripOverVoltage
  | tripPowerStage (stage : Fin 8)
  | tripLatchClear
  | inputRecovery (facts : BoardFacts)
  | coreEngineParity (cluster : Fin 32) (core : Fin 32)
  | tileWatchdog (cluster : Fin 32) (core : Fin 32)
  | sequencerDisagreement (part : Fin 16) (strm : Strm) (pc : BitVec 32)
  | accordUnitFault (die : Fin 8)
  | securityControllerFault (detail : BitVec 64)
  | hubSwitchUncorrectable (vc : BitVec 2) (port : BitVec 4)
  | counterClearSelected
  | counterClearAll
  | thresholdRearm (k : Fin 64)
  | i3cRegisterWrite (bus : I3cBus) (offset : BitVec 16) (data : List Byte)
  | setdasa (t : I3cTarget) (addr : BitVec 7)
  | entdaa (t : I3cTarget) (addr : BitVec 7)
  | setnewda (t : I3cTarget) (addr : BitVec 7)
  | rstdaa (bus : I3cBus)
  | getpid (t : I3cTarget)
  | getbcr (t : I3cTarget)
  | getdcr (t : I3cTarget)
  | getstatus (t : I3cTarget)
  | enec (t : I3cTarget) (enable : Bool)
  | setEndpointId (eid : BitVec 8)
  | getTid
  | getPldmVersion (type : BitVec 8)
  | getPldmTypes
  | getPldmCommands (type : BitVec 8)
  | getPdrRepositoryInfo
  | getPdr (handle : BitVec 32)
  | getSensorReading (sensor : BitVec 16)
  | getFruRecordTableMetadata
  | getFruRecordTable
  | ppsEdge
  | ptpHoldoverTimeout
  | ptpEnable (value : BitVec 32)
  | registerWrite (src : RegSrc) (addr : BitVec 48) (width : Nat) (value : BitVec 64)
  | reservedOpcode (at_ : StreamId) (w : InstrWord)
  | recoveryPattern (l : Fin 48)
  | softRowRepairDone (stack : Fin 16) (row : DramRow)
  | moduleRetrainDone (edge : Fin 16) (mod : Fin 8) (ok : Bool)
  | atomizerDieResetDone (site : Fin 2)
  | debugHalt (part : Fin 16) (ctx : Fin 8)
  | debugResume (part : Fin 16) (ctx : Fin 8)
  | debugMemoryWrite (space : DebugSpace) (addr : BitVec 48) (data : List Byte)
  deriving DecidableEq, Repr

end Sys2Proof
end

