-- ==== Sys2Proof/Config.lean ====
section
/-! DEFINITION. What an implementation fixes and the manual leaves open: free values, as constants
without a body. Nothing can evaluate them, so a claim that mentions one holds for every value. -/

namespace Sys2Proof

/-! ### What a sample's codec delivers (R332 to R341) -/

/-- Coding process of a JPEG stream (Table 8.7). -/
inductive JpegProc where
  | baseline | progressive | other
  deriving DecidableEq, Repr, Inhabited

/-- Coding of a video stream (Table 8.7): codec, profile, level in tenths, bit depth, 4:2:0. -/
inductive VidCodec where
  | h264 | hevc | av1 | other
  deriving DecidableEq, Repr, Inhabited
inductive VidProfile where
  | high | main | main10 | other
  deriving DecidableEq, Repr, Inhabited
structure VidFmt where
  codec   : VidCodec
  profile : VidProfile
  level   : Nat
  depth   : Nat
  c420    : Bool
  deriving DecidableEq, Repr, Inhabited

/-- Sample format of decoded audio (R341). -/
inductive PcmFmt where
  | signed (bits : Nat) | unsigned8 | float32
  deriving DecidableEq, Repr, Inhabited

/-- Coding of an audio stream (Table 8.7). -/
inductive AudForm where
  | pcm (f : PcmFmt) | flac (bits : Nat) | opus | aacLc | mp3 (mpeg layer : Nat) | other
  deriving DecidableEq, Repr, Inhabited

/-- Stream headers of a sample as its codec reads them (R332, Table 8.8): of a JPEG whether its subsampling is 4:4:4, 4:2:2
or 4:2:0; of a video its frames, in display order, and its random-access points. -/
inductive SampleHdr where
  | jpeg (w h comps depth : Nat) (proc : JpegProc) (sub : Bool)
  | png (w h chans depth : Nat) (anim : Bool)
  | video (w h : Nat) (fmt : VidFmt) (frames : Nat) (points : List Nat)
  | audio (channels rate samples : Nat) (form : AudForm)
  | text
  | corrupt
  deriving DecidableEq, Repr, Inhabited

/-- One decoded colour plane: size and codes, row by row. -/
structure Plane where
  w : Nat
  h : Nat
  px : List Nat
  deriving DecidableEq, Repr, Inhabited

/-- Colour coding of a decoded picture (R337); none: no matrix is signalled. -/
inductive Colour where
  | jpeg
  | png (depth : Nat)
  | yuv (depth : Nat) (full : Bool) (matrix : Option (Fin 3))
  deriving DecidableEq, Repr, Inhabited

/-- A decoded picture. -/
structure Pic where
  w : Nat
  h : Nat
  colour : Colour
  planes : List Plane
  deriving DecidableEq, Repr, Inhabited

/-- How a decode ends: pictures, of a video every frame in display order; samples by channel; or not at all. -/
inductive DecodeEnd where
  | pics (ps : List Pic)
  | pcm (fmt : PcmFmt) (rate : Nat) (ch : List (List Int))
  | text
  | unsupported
  | corrupt
  deriving DecidableEq, Repr, Inhabited

/-- What a decode gives, and the events counted until it ended (Table 8.8): `blocks` the 8 x 8 blocks of a JPEG over its
scans, the bytes that a PNG inflates to, or the samples of audio per channel; `bytes` the entropy-coded, compressed or
parsed bytes. -/
structure Decoded where
  blocks : Nat
  bytes  : Nat
  out    : DecodeEnd
  deriving DecidableEq, Repr, Inhabited

/-- Stream headers, by codec and bytes of the sample: of the codecs whose containers the manual takes from their standards
(Table 8.7); a fixed function (R336). -/
opaque Config.headers : Nat → List Byte → SampleHdr

/-- What the decoders that the maker fixes deliver, by codec and bytes (R336): JPEG, video, Ogg, AAC-LC, MP3 and Opus. -/
opaque Config.decode : Nat → List Byte → Decoded

/-! ### Values -/

/-- A fresh unconstrained word: applied to State's counter of free values. -/
opaque Config.freeValue : Nat → Word

/-- Which of the representable results within the bound of Table 2.9 a divide gives: by format and
operand codes. -/
opaque Config.dividePick : Nat → Nat → Nat → Nat

/-- Which of the representable results within the bound of Table 2.9 a square root gives. -/
opaque Config.sqrtPick : Nat → Nat → Nat

/-- FP32 codes of the built-in tables (R237): function of Table 5.10, derivative or value table,
segment, coefficient 0 to 2. -/
opaque Config.tableCoef : Nat → Bool → Nat → Nat → Half

/-- First source sample, phase and tap coefficients of the resampler that the maker publishes (R336,
R341): by input rate, output rate and output index; by rates, phase and tap. -/
opaque Config.resampleFirst : Nat → Nat → Nat → Int
opaque Config.resamplePhase : Nat → Nat → Nat → Nat
opaque Config.resampleCoef : Nat → Nat → Nat → Nat → Half

/-- FP32 code of the window at sample t of a frame (R336, R341): by NFFT. -/
opaque Config.window : Nat → Nat → Half

/-- FP32 codes of the real and imaginary parts of bin k of the FFT of a windowed frame, given as FP32 codes, with the twiddle
factors that the maker publishes (R336, R341): by NFFT. -/
opaque Config.fftRe : Nat → List Nat → Nat → Half
opaque Config.fftIm : Nat → List Nat → Nat → Half

/-- FP32 code of a weight of the mel filter matrix (R336, R341): rate, NFFT, bands, FMIN, FMAX, band,
bin. -/
opaque Config.melWeight : Nat → Nat → Nat → Nat → Nat → Nat → Nat → Half

/-- Part serial of the SERIAL fuse (Table 13.1). -/
opaque Config.serial : BitVec 48

/-- KEYHASH of a Cujor slot, 0 or 1, as provisioned (Table 13.1). -/
opaque Config.factoryHash : Nat → Digest

/-- Contents of the image slot of TYPE 1 to 4 as delivered, none where it is empty (R526). -/
opaque Config.factoryImage : Nat → Option (List Byte)

/-- Digest of the boot ROM, fixed in silicon (Table 13.7). -/
opaque Config.romDigest : Digest

/-- Unique device secret of the UDS fuse, from the hub's entropy at provisioning (Table 13.1). -/
opaque Config.uds : Digest

/-- IV of the wrapped identity key, which the manual does not give (R538). -/
opaque Config.wrapIv : List Byte

/-- Hash of the SPDM transcript that a signature covers, and the salt of the signature: by the counter of free values
(R538, R541). -/
opaque Config.transcript : Nat → Digest
opaque Config.signSalt : Nat → Digest

/-- The three certificates of SPDM slot 0, DER, root first (R539). -/
opaque Config.certificates : List Byte

/-- Provisioned ID, bus and device characteristics of an I3C target: target 0 MCTP, 1 and 2 register
targets; 0 ID, 1 BCR, 2 DCR (R624). -/
opaque Config.i3cId : Nat → Nat → Word

/-- Ordering code that the FRU data carry as part number (Tables 0.1, 16.9). -/
opaque Config.orderingCode : List Byte

/-- SHA-256 of the Cujor root certificate, as the certificate chain carries it (R539). -/
opaque Config.rootHash : Digest

/-- SRAM row of a shared-store address within its slice (R598, Table 15.8). -/
opaque Config.sramRow : Nat → BitVec 16

end Sys2Proof
end

