-- ==== Sys2Proof/Machine/Sparse.lean ====
section
/-! DEFINITION. Sparse maps in one canonical form, bit fields and byte order: the containers that
State is built from. A map lists its keys strictly rising and no entry equal to the default, so
equal maps are equal data. -/

namespace Sys2Proof.Machine

/-- A sparse map from natural numbers: the listed entries; every other key holds the default that
the reader names. -/
abbrev SMap (α : Type) := List (Nat × α)

/-- The value at key `k`, `d` where the key is not listed. -/
def smGet {α : Type} (d : α) : SMap α → Nat → α
  | [], _ => d
  | (j, v) :: m, k => if j = k then v else smGet d m k

/-- The map without key `k`. -/
def smErase {α : Type} (m : SMap α) (k : Nat) : SMap α := m.filter fun p => p.1 ≠ k

/-- The map with `v` listed at key `k`. -/
def smInsert {α : Type} : SMap α → Nat → α → SMap α
  | [], k, v => [(k, v)]
  | (j, u) :: m, k, v =>
    if k < j then (k, v) :: (j, u) :: m
    else if j = k then (k, v) :: m
    else (j, u) :: smInsert m k v

/-- The map with `v` at key `k`, keeping the canonical form: storing the default removes the
entry. -/
def smSet {α : Type} [DecidableEq α] (d : α) (m : SMap α) (k : Nat) (v : α) : SMap α :=
  if v = d then smErase m k else smInsert m k v

/-- The map changed at key `k` by `f`. -/
def smMod {α : Type} [DecidableEq α] (d : α) (m : SMap α) (k : Nat) (f : α → α) : SMap α :=
  smSet d m k (f (smGet d m k))

/-- Keys strictly rising, each above `b`, and no entry at the default. -/
def smAbove {α : Type} [DecidableEq α] (d : α) : Option Nat → SMap α → Bool
  | _, [] => true
  | b, (j, v) :: m => b.all (fun x => decide (x < j)) && decide (v ≠ d) && smAbove d (some j) m

/-- The canonical form of a sparse map with default `d`. -/
def smWf {α : Type} [DecidableEq α] (d : α) (m : SMap α) : Bool := smAbove d none m

/-- The entries of a run of values from key `a` on. -/
def runCells {α : Type} [DecidableEq α] (d : α) : Nat → List α → SMap α
  | _, [] => []
  | a, v :: vs => if v = d then runCells d (a + 1) vs else (a, v) :: runCells d (a + 1) vs

/-- The map with the values `vs` at keys `a`, `a + 1` and on, in one pass. -/
def smPutRun {α : Type} [DecidableEq α] (d : α) (m : SMap α) (a : Nat) (vs : List α) : SMap α :=
  m.filter (fun p => decide (p.1 < a)) ++ (runCells d a vs ++ m.filter (fun p => decide (a + vs.length ≤ p.1)))

/-- `n` values from key `a` on of a map that lists no key below `a`. -/
def runValues {α : Type} (d : α) : Nat → Nat → SMap α → List α
  | 0, _, _ => []
  | n + 1, a, [] => d :: runValues d n (a + 1) []
  | n + 1, a, (k, v) :: m =>
    if k = a then v :: runValues d n (a + 1) m else d :: runValues d n (a + 1) ((k, v) :: m)

/-- The `n` values from key `a` on. -/
def smGetRun {α : Type} (d : α) (m : SMap α) (a n : Nat) : List α :=
  runValues d n a (m.filter fun p => decide (a ≤ p.1))

/-! ### Bit fields (R18) -/

/-- Field `[hi:lo]` of a word as a number. -/
def bits {n : Nat} (w : BitVec n) (hi lo : Nat) : Nat := (w.toNat >>> lo) % 2 ^ (hi - lo + 1)

/-- Bit `i` of a word. -/
def bit {n : Nat} (w : BitVec n) (i : Nat) : Bool := w.getLsbD i

/-- The mask of field `[hi:lo]`. -/
def fieldMask (n hi lo : Nat) : BitVec n := BitVec.ofNat n ((2 ^ (hi - lo + 1) - 1) <<< lo)

/-- The word with field `[hi:lo]` set to `v`. -/
def setBits {n : Nat} (w : BitVec n) (hi lo v : Nat) : BitVec n :=
  (w &&& ~~~ fieldMask n hi lo) ||| (BitVec.ofNat n (v <<< lo) &&& fieldMask n hi lo)

/-- The word with bit `i` set to `b`. -/
def setBit {n : Nat} (w : BitVec n) (i : Nat) (b : Bool) : BitVec n :=
  setBits w i i (if b then 1 else 0)

/-- One word field holding `v` at `lo`. -/
def put (v lo : Nat) : Word := BitVec.ofNat 64 (v <<< lo)

/-- A Bool as a one-bit number. -/
def b2n (b : Bool) : Nat := if b then 1 else 0

/-- Sign extension of an `n`-bit field value to an integer. -/
def sext (n v : Nat) : Int := if v < 2 ^ (n - 1) then (v : Int) else (v : Int) - (2 : Int) ^ n

/-! ### Byte order (R17: little-endian) -/

/-- The low `n` bytes of a number, lowest first. -/
def leBytes : Nat → Nat → List Byte
  | 0, _ => []
  | n + 1, v => BitVec.ofNat 8 v :: leBytes n (v / 256)

/-- The number that bytes spell, lowest first. -/
def leNat : List Byte → Nat
  | [] => 0
  | b :: bs => b.toNat + 256 * leNat bs

/-- A list cut into pieces of `n` (at most `fuel` pieces). -/
def chunks {α : Type} (n : Nat) : Nat → List α → List (List α)
  | 0, _ => []
  | _, [] => []
  | fuel + 1, x :: xs => (x :: xs).take n :: chunks n fuel ((x :: xs).drop n)

/-- The numbers of a list in ascending order, each once. -/
def sortNat (l : List Nat) : List Nat := (l.foldl (fun m k => smInsert m k ()) []).map Prod.fst

/-- Quotient rounded up. -/
def ceilDiv (a b : Nat) : Nat := (a + b - 1) / b

/-- The first element that satisfies `p`. -/
def firstSome {α β : Type} (f : α → Option β) : List α → Option β
  | [] => none
  | a :: as => match f a with
    | some b => some b
    | none => firstSome f as

/-- A list with the element at `i` changed by `f`. -/
def listMod {α : Type} (f : α → α) : List α → Nat → List α
  | [], _ => []
  | a :: as, 0 => f a :: as
  | a :: as, i + 1 => a :: listMod f as i

/-- The list without its first element satisfying `p`. -/
def dropFirst {α : Type} (p : α → Bool) : List α → List α
  | [] => []
  | a :: as => if p a then as else a :: dropFirst p as

/-- The list with every element satisfying `p` changed by `f`. -/
def modWhere {α : Type} (p : α → Bool) (f : α → α) (l : List α) : List α :=
  l.map fun a => if p a then f a else a

end Sys2Proof.Machine
end

