-- ==== Sys2Proof/Machine/Hash.lean ====
section
/-! DEFINITION. SHA-256 and the verification of RSASSA-PSS with RSA-3072, SHA-256, MGF1 and a salt of
32 bytes: the public functions that R524, R534 and R537 name. -/

namespace Sys2Proof.Machine

/-! ### SHA-256 (FIPS 180-4) -/

/-- Round constants. -/
def shaK : List Half :=
  [0x428a2f98, 0x71374491, 0xb5c0fbcf, 0xe9b5dba5, 0x3956c25b, 0x59f111f1, 0x923f82a4, 0xab1c5ed5] ++
  [0xd807aa98, 0x12835b01, 0x243185be, 0x550c7dc3, 0x72be5d74, 0x80deb1fe, 0x9bdc06a7, 0xc19bf174] ++
  [0xe49b69c1, 0xefbe4786, 0x0fc19dc6, 0x240ca1cc, 0x2de92c6f, 0x4a7484aa, 0x5cb0a9dc, 0x76f988da] ++
  [0x983e5152, 0xa831c66d, 0xb00327c8, 0xbf597fc7, 0xc6e00bf3, 0xd5a79147, 0x06ca6351, 0x14292967] ++
  [0x27b70a85, 0x2e1b2138, 0x4d2c6dfc, 0x53380d13, 0x650a7354, 0x766a0abb, 0x81c2c92e, 0x92722c85] ++
  [0xa2bfe8a1, 0xa81a664b, 0xc24b8b70, 0xc76c51a3, 0xd192e819, 0xd6990624, 0xf40e3585, 0x106aa070] ++
  [0x19a4c116, 0x1e376c08, 0x2748774c, 0x34b0bcb5, 0x391c0cb3, 0x4ed8aa4a, 0x5b9cca4f, 0x682e6ff3] ++
  [0x748f82ee, 0x78a5636f, 0x84c87814, 0x8cc70208, 0x90befffa, 0xa4506ceb, 0xbef9a3f7, 0xc67178f2]

/-- Initial hash value. -/
def shaInit : List Half :=
  [0x6a09e667, 0xbb67ae85, 0x3c6ef372, 0xa54ff53a, 0x510e527f, 0x9b05688c, 0x1f83d9ab, 0x5be0cd19]

/-- The number that bytes spell, highest first. -/
def beNat (bs : List Byte) : Nat := bs.foldl (fun n b => 256 * n + b.toNat) 0

/-- The low `n` bytes of a number, highest first. -/
def beBytes (n v : Nat) : List Byte := (leBytes n v).reverse

def shaS0 (x : Half) : Half := x.rotateRight 7 ^^^ x.rotateRight 18 ^^^ (x >>> 3)
def shaS1 (x : Half) : Half := x.rotateRight 17 ^^^ x.rotateRight 19 ^^^ (x >>> 10)

/-- Message schedule: 16 words, newest first, extended by `n`. -/
def shaSched : Nat → List Half → List Half
  | 0, w => w
  | n + 1, w =>
    shaSched n ((shaS1 (w.getD 1 0) + w.getD 6 0 + shaS0 (w.getD 14 0) + w.getD 15 0) :: w)

/-- One round on the working variables a to h. -/
def shaRound (v : List Half) (kw : Half × Half) : List Half :=
  let a := v.getD 0 0
  let e := v.getD 4 0
  let t1 := v.getD 7 0 + (e.rotateRight 6 ^^^ e.rotateRight 11 ^^^ e.rotateRight 25) +
    ((e &&& v.getD 5 0) ^^^ (~~~ e &&& v.getD 6 0)) + kw.1 + kw.2
  let t2 := (a.rotateRight 2 ^^^ a.rotateRight 13 ^^^ a.rotateRight 22) +
    ((a &&& v.getD 1 0) ^^^ (a &&& v.getD 2 0) ^^^ (v.getD 1 0 &&& v.getD 2 0))
  [t1 + t2, a, v.getD 1 0, v.getD 2 0, v.getD 3 0 + t1, e, v.getD 5 0, v.getD 6 0]

/-- One block of 64 bytes. -/
def shaBlock (h : List Half) (b : List Byte) : List Half :=
  let w := (shaSched 48 ((chunks 4 16 b).map fun x => BitVec.ofNat 32 (beNat x)).reverse).reverse
  List.zipWith (· + ·) h ((shaK.zip w).foldl shaRound h)

/-- The padded message. -/
def shaPad (m : List Byte) : List Byte :=
  m ++ 0x80#8 :: List.replicate ((119 - m.length % 64) % 64) 0 ++ beBytes 8 (8 * m.length)

/-- SHA-256 of a byte string, as bytes. -/
def sha256 (m : List Byte) : List Byte :=
  ((chunks 64 (m.length / 64 + 2) (shaPad m)).foldl shaBlock shaInit).flatMap fun w => beBytes 4 w.toNat

/-- A digest as a number, byte 0 lowest. -/
def digestOf (bs : List Byte) : Digest := BitVec.ofNat 256 (leNat bs)
def digestBytes (d : Digest) : List Byte := leBytes 32 d.toNat

/-! ### RSASSA-PSS (RFC 8017) -/

/-- `b` squared `k` times modulo `n`. -/
def sqMod (n : Nat) : Nat → Nat → Nat
  | 0, b => b
  | k + 1, b => sqMod n k (b * b % n)

/-- MGF1 with SHA-256: `n` bytes. -/
def mgf1 (seed : List Byte) (n : Nat) : List Byte :=
  ((List.range (n / 32 + 1)).flatMap fun i => sha256 (seed ++ beBytes 4 i)).take n

/-- EMSA-PSS verification of a 384-byte encoded message against the hash of the message. -/
def pssOk (em hash : List Byte) : Bool :=
  let h := (em.drop 351).take 32
  let db := List.zipWith (· ^^^ ·) (em.take 351) (mgf1 h 351)
  let db := match db with
    | b :: bs => (b &&& 0x7F#8) :: bs
    | [] => []
  em.getLast? = some 0xBC#8 && (em.headD 0x80#8).toNat < 128 && (db.take 318).all (fun b => b = 0) &&
    db.getD 318 0 = 1 && sha256 (List.replicate 8 0#8 ++ hash ++ db.drop 319) = h

/-- Verification of a signature over a message with a modulus of 3,072 bits and exponent 65,537. -/
def rsaPssOk (modulus sig msg : List Byte) : Bool :=
  let n := beNat modulus
  let s := beNat sig
  2 ^ 3071 ≤ n && s < n && pssOk (beBytes 384 (sqMod n 16 s * s % n)) (sha256 msg)

end Sys2Proof.Machine
end

