-- ==== Sys2Proof/Machine/Ident.lean ====
section
/-! DEFINITION. The identity key (R538): HMAC, the HMAC_DRBG of SP 800-90A, the RSA-3072 key pair of FIPS 186-5,
the AES-256-GCM wrap of the provisioning block, and the signatures that the key makes. -/

namespace Sys2Proof.Machine

/-- The bytes of an ASCII text. -/
def asciiBytes (t : String) : List Byte := t.toList.map fun c => BitVec.ofNat 8 c.toNat

/-- Exclusive or, byte by byte. -/
def xorBytes (a b : List Byte) : List Byte := List.zipWith (· ^^^ ·) a b

/-! ### HMAC-SHA-256 (FIPS 198-1), with a key of 32 bytes -/

/-- HMAC with SHA-256 (FIPS 198-1). -/
def hmac256 (key msg : List Byte) : List Byte :=
  let pad := fun (v : Byte) => (key ++ List.replicate (64 - key.length) 0#8).map fun b => b ^^^ v
  sha256 (pad 0x5C ++ sha256 (pad 0x36 ++ msg))

/-! ### HMAC_DRBG with SHA-256 (SP 800-90A, 10.1.2) -/

/-- Working state: Key and V. -/
abbrev Drbg := List Byte × List Byte

/-- HMAC_DRBG_Update. -/
def drbgUpdate (g : Drbg) (data : List Byte) : Drbg :=
  let k := hmac256 g.1 (g.2 ++ 0x00#8 :: data)
  let v := hmac256 k g.2
  if data = [] then (k, v)
  else
    let k1 := hmac256 k (v ++ 0x01#8 :: data)
    (k1, hmac256 k1 v)

/-- The DRBG as a seed instantiates it. -/
def drbgSeed (seed : List Byte) : Drbg := drbgUpdate (List.replicate 32 0#8, List.replicate 32 1#8) seed

/-- Output blocks: V after each, the last first. -/
def drbgBlocks (k : List Byte) : Nat → List Byte → List (List Byte)
  | 0, _ => []
  | n + 1, v => hmac256 k v :: drbgBlocks k n (hmac256 k v)

/-- HMAC_DRBG_Generate of `n` bytes. -/
def drbgTake (g : Drbg) (n : Nat) : List Byte × Drbg :=
  let bs := drbgBlocks g.1 (ceilDiv n 32) g.2
  (bs.flatten.take n, drbgUpdate (g.1, bs.getLastD g.2) [])

/-! ### RSA-3072 key pairs (FIPS 186-5, A.1.3)

Candidates of 1,536 bits come from the DRBG, and Miller-Rabin tests with four bases of the same DRBG decide. The manual
names FIPS 186-5 only; the method, the number of bases and their source are PRESUMED. -/

/-- `b` to the power `e` modulo `n`, `e` of at most `fuel` bits. -/
def powMod (n b : Nat) : Nat → Nat → Nat
  | 0, _ => 1 % n
  | fuel + 1, e =>
    if e = 0 then 1 % n
    else
      let h := powMod n b fuel (e / 2)
      if e % 2 = 1 then h * h % n * b % n else h * h % n

/-- `n = 2^a m`, `m` odd: (a, m), of at most `fuel` steps. -/
def twosOf : Nat → Nat → Nat × Nat
  | 0, n => (0, n)
  | fuel + 1, n => if n % 2 = 0 then ((twosOf fuel (n / 2)).1 + 1, (twosOf fuel (n / 2)).2) else (0, n)

/-- One Miller-Rabin test of an odd number with a base. -/
def millerRabin (w b : Nat) : Bool :=
  let am := twosOf 1536 (w - 1)
  let z := powMod w b 1536 am.2
  z = 1 || (List.range am.1).any fun j => powMod w z 1536 (2 ^ j) = w - 1

/-- A DRBG output of 1,536 bits as a number. -/
def drbgNum (g : Drbg) : Nat × Drbg := ((beNat (drbgTake g 192).1), (drbgTake g 192).2)

/-- Tests with `k` bases. -/
def probPrime (w : Nat) : Nat → Drbg → Bool × Drbg
  | 0, g => (true, g)
  | k + 1, g =>
    let b := drbgNum g
    if millerRabin w (2 + b.1 % (w - 3)) then probPrime w k b.2 else (false, b.2)

/-- Public exponent. -/
def rsaE : Nat := 65537

/-- A prime of the pair that meets `ok`; none where `fuel` candidates have failed. -/
def findPrime (ok : Nat → Bool) : Nat → Drbg → Option Nat × Drbg
  | 0, g => (none, g)
  | fuel + 1, g =>
    let c := drbgNum g
    let p := if c.1 % 2 = 0 then c.1 + 1 else c.1
    if p * p < 2 ^ 3071 ∨ ok p = false ∨ Nat.gcd (p - 1) rsaE ≠ 1 then findPrime ok fuel c.2
    else
      let t := probPrime p 4 c.2
      if t.1 then (some p, t.2) else findPrime ok fuel t.2

/-- A private key: the two primes. -/
abbrev RsaKey := Nat × Nat

/-- Inverse of the public exponent modulo lcm(p − 1, q − 1). -/
def rsaD (k : RsaKey) : Nat :=
  let l := Nat.lcm (k.1 - 1) (k.2 - 1)
  match (List.range rsaE).find? fun i => (i * l + 1) % rsaE = 0 with
  | some i => (i * l + 1) / rsaE
  | none => 0

/-- The modulus of a key. -/
def rsaN (k : RsaKey) : Nat := k.1 * k.2

/-- Primes are far enough apart. -/
def farApart (p q : Nat) : Bool := decide (2 ^ 1436 < p - q) || decide (2 ^ 1436 < q - p)

/-- A key pair, made again while d is too small, at most `fuel` times. -/
def rsaPair : Nat → Drbg → Option RsaKey
  | 0, _ => none
  | fuel + 1, g =>
    let a := findPrime (fun _ => true) 7680 g
    match a.1 with
    | none => none
    | some p =>
      let b := findPrime (farApart p) 7680 a.2
      match b.1 with
      | none => none
      | some q => if 2 ^ 1536 < rsaD (p, q) then some (p, q) else rsaPair fuel b.2

/-- The identity key of a module with a given UDS. -/
def identityKeyOf (uds : Digest) : Option RsaKey :=
  rsaPair 16 (drbgSeed (hmac256 (digestBytes uds) (asciiBytes "ZT8 identity 1")))

/-! ### AES-256 (FIPS 197) -/

/-- Multiplication by x in the field of AES. -/
def xtime (a : Byte) : Byte := if a.msb then (a <<< 1) ^^^ 0x1B else a <<< 1

/-- Product in GF(2^8). -/
def gfMul (a b : Byte) : Byte :=
  (List.range 8).reverse.foldl (fun r i => xtime r ^^^ (if b.getLsbD i then a else 0)) 0

/-- `a` to the power 254: the inverse, 0 of 0. -/
def gfInv (a : Byte) : Byte := (List.range 7).foldl (fun r _ => gfMul (gfMul r r) a) 1 |> fun r => gfMul r r

/-- The S-box of AES at one byte. -/
def sboxOf (a : Byte) : Byte :=
  let b := gfInv a
  b ^^^ b.rotateLeft 1 ^^^ b.rotateLeft 2 ^^^ b.rotateLeft 3 ^^^ b.rotateLeft 4 ^^^ 0x63

/-- Key words, newest first, from word `i` on. -/
def aesExpand : Nat → Nat → Byte → List (List Byte) → List (List Byte)
  | 0, _, _, w => w
  | n + 1, i, rc, w =>
    let t := w.headD []
    let t1 := if i % 8 = 0 then xorBytes ((t.drop 1 ++ t.take 1).map sboxOf) [rc, 0, 0, 0]
      else if i % 8 = 4 then t.map sboxOf else t
    aesExpand n (i + 1) (if i % 8 = 0 then xtime rc else rc) (xorBytes (w.getD 7 []) t1 :: w)

/-- The 15 round keys. -/
def aesKeys (key : List Byte) : List (List Byte) :=
  let w := (aesExpand 52 8 1 (chunks 4 8 key).reverse).reverse
  (List.range 15).map fun r => ((w.drop (4 * r)).take 4).flatten

/-- ShiftRows of AES. -/
def shiftRows (b : List Byte) : List Byte :=
  (List.range 16).map fun i => b.getD (i % 4 + 4 * ((i / 4 + i % 4) % 4)) 0

/-- MixColumns of AES, one column. -/
def mixColumn (c : List Byte) : List Byte :=
  (List.range 4).map fun i =>
    gfMul 2 (c.getD i 0) ^^^ gfMul 3 (c.getD ((i + 1) % 4) 0) ^^^ c.getD ((i + 2) % 4) 0 ^^^ c.getD ((i + 3) % 4) 0

/-- MixColumns of AES. -/
def mixColumns (b : List Byte) : List Byte := (chunks 4 4 b).flatMap mixColumn

/-- One block enciphered. -/
def aes256 (key b : List Byte) : List Byte :=
  let ks := aesKeys key
  let mid := (List.range 13).foldl (fun b r => xorBytes (mixColumns (shiftRows (b.map sboxOf))) (ks.getD (r + 1) []))
    (xorBytes b (ks.getD 0 []))
  xorBytes (shiftRows (mid.map sboxOf)) (ks.getD 14 [])

/-! ### GCM (SP 800-38D), with an IV of 96 bits and no additional data -/

/-- Product in GF(2^128), blocks as numbers, first byte highest. -/
def ghashMul (x y : Nat) : Nat :=
  ((List.range 128).foldl (fun (zv : Nat × Nat) i =>
    (if x.testBit (127 - i) then zv.1 ^^^ zv.2 else zv.1, if zv.2 % 2 = 1 then (zv.2 / 2) ^^^ (0xE1 * 2 ^ 120) else zv.2 / 2))
    (0, y)).1

/-- GHASH of whole blocks. -/
def ghash (h : Nat) (b : List Byte) : Nat :=
  (chunks 16 (b.length / 16) b).foldl (fun y x => ghashMul (y ^^^ beNat x) h) 0

/-- Key stream of counter values from 2 on. -/
def gcmStream (key iv : List Byte) (n : Nat) : List Byte :=
  ((List.range (ceilDiv n 16)).flatMap fun i => aes256 key (iv ++ beBytes 4 (i + 2))).take n

/-- The tag of a ciphertext. -/
def gcmTag (key iv ct : List Byte) : List Byte :=
  let h := beNat (aes256 key (List.replicate 16 0#8))
  let s := ghash h (ct ++ List.replicate (ceilDiv ct.length 16 * 16 - ct.length) 0#8 ++ beBytes 8 0 ++ beBytes 8 (8 * ct.length))
  xorBytes (beBytes 16 s) (aes256 key (iv ++ beBytes 4 1))

/-- Ciphertext and tag. -/
def gcmSeal (key iv msg : List Byte) : List Byte × List Byte :=
  let ct := xorBytes msg (gcmStream key iv msg.length)
  (ct, gcmTag key iv ct)

/-- The message, where the tag is right. -/
def gcmOpen (key iv ct tag : List Byte) : Option (List Byte) :=
  if tag = gcmTag key iv ct then some (xorBytes ct (gcmStream key iv ct.length)) else none

/-! ### The provisioning block (R526, R538) -/

/-- UDS as the security controller reads it: all ones once UDS_KILL is blown (Table 13.1). -/
def udsRead (killed : Bool) : Digest := if killed then BitVec.allOnes 256 else Config.uds

/-- The key that wraps the identity key. -/
def wrapKey (uds : Digest) : List Byte := hmac256 (digestBytes uds) (asciiBytes "ZT8 wrap 1")

/-- The private key as it is wrapped: p and q, 192 bytes each, highest first. The manual gives no form. DESIGN CHOICE. -/
def keyBytes (k : RsaKey) : List Byte := beBytes 192 k.1 ++ beBytes 192 k.2

/-- The IV of the wrapped key as 12 bytes. -/
def wrapIv : List Byte := (Config.wrapIv ++ List.replicate 12 0#8).take 12

/-- What provisioning writes to the boot flash: IV, tag, wrapped key, certificate chain, in this order, which the manual
does not give. DESIGN CHOICE. -/
def provisioningBlock (uds : Digest) : List Byte :=
  let m := ((identityKeyOf uds).map keyBytes).getD []
  let c := gcmSeal (wrapKey uds) wrapIv m
  wrapIv ++ c.2 ++ c.1 ++ Config.certificates

/-- The private key that a block unwraps to under a UDS. -/
def unwrapKey (uds : Digest) (block : List Byte) : Option RsaKey :=
  (gcmOpen (wrapKey uds) (block.take 12) ((block.drop 28).take 384) ((block.drop 12).take 16)).map fun m =>
    (beNat (m.take 192), beNat (m.drop 192))

/-! ### Signatures (RFC 8017) -/

/-- EMSA-PSS encoding of a hash with a salt of 32 bytes. -/
def pssEncode (hash salt : List Byte) : List Byte :=
  let h := sha256 (List.replicate 8 0#8 ++ hash ++ salt)
  let db := xorBytes (List.replicate 318 0#8 ++ 0x01#8 :: salt) (mgf1 h 351)
  (match db with
    | b :: bs => (b &&& 0x7F#8) :: bs
    | [] => []) ++ h ++ [0xBC#8]

/-- RSASSA-PSS with the identity key: 384 bytes. -/
def rsaPssSign (k : RsaKey) (hash salt : List Byte) : List Byte :=
  beBytes 384 (powMod (rsaN k) (beNat (pssEncode hash salt)) 3072 (rsaD k))

end Sys2Proof.Machine
end

