-- ==== Sys2Proof/Machine/Codec.lean ====
section
/-! DEFINITION. The lossless codecs of Table 8.7 as functions of a sample's bytes: PNG (ISO/IEC 15948 with RFC 1950 and
1951), WAV, and native FLAC (RFC 9639); and the choice of the decoder by codec (R334, R336). That the syntax errors of
these standards, their check codes included, are cause 4 is PRESUMED. -/

namespace Sys2Proof.Machine

/-! ### Bits -/

/-- Bits of bytes, the lowest of each byte first. -/
def bitsLow (bs : List Byte) : List Bool := bs.flatMap fun b => (List.range 8).map b.getLsbD

/-- Bits of bytes, the highest of each byte first. -/
def bitsHigh (bs : List Byte) : List Bool := bs.flatMap fun b => (List.range 8).map fun i => b.getLsbD (7 - i)

/-- A value read from bits, with the bits that follow. -/
abbrev Reading (α : Type) := Option (α × List Bool)

/-- `n` bits, the lowest first. -/
def takeLow : Nat → List Bool → Reading Nat
  | 0, bs => some (0, bs)
  | _ + 1, [] => none
  | n + 1, b :: bs => (takeLow n bs).map fun r => (b2n b + 2 * r.1, r.2)

/-- `n` bits, the highest first, below those of `acc`. -/
def takeHigh : Nat → Nat → List Bool → Reading Nat
  | acc, 0, bs => some (acc, bs)
  | _, _ + 1, [] => none
  | acc, n + 1, b :: bs => takeHigh (2 * acc + b2n b) n bs

/-- Bytes from bits, the highest first. -/
def bytesHigh : Nat → List Bool → List Byte
  | 0, _ => []
  | n + 1, bs => BitVec.ofNat 8 (((takeHigh 0 8 bs).map Prod.fst).getD 0) :: bytesHigh n (bs.drop 8)

/-- A value of `n` bits in two's complement. -/
def asSigned (n v : Nat) : Int := if n ≠ 0 ∧ 2 ^ (n - 1) ≤ v then (v : Int) - (2 ^ n : Nat) else v

/-! ### Inflate (RFC 1951) -/

/-- A prefix code: number of codes by length, symbols by length and value. -/
abbrev Huff := List Nat × List Nat

/-- The canonical code of a list of code lengths. -/
def huffOf (lens : List Nat) : Huff :=
  ((List.range 16).map fun l => (lens.filter fun k => k = l).length,
    (List.range 15).flatMap fun l => (List.range lens.length).filter fun i => lens.getD i 0 = l + 1)

/-- The code is not over-subscribed. -/
def huffOk (h : Huff) : Bool :=
  decide ((List.range 15).foldl (fun n l => n + h.1.getD (l + 1) 0 * 2 ^ (14 - l)) 0 ≤ 2 ^ 15)

/-- One symbol: `n` bits may still follow, those read are of length `len`. -/
def huffSym (h : Huff) : Nat → Nat → Nat → Nat → Nat → List Bool → Reading Nat
  | 0, _, _, _, _, _ => none
  | _ + 1, _, _, _, _, [] => none
  | n + 1, len, code, first, idx, b :: bs =>
    let c := code + b2n b
    let k := h.1.getD len 0
    if c < first + k then some (h.2.getD (idx + (c - first)) 0, bs)
    else huffSym h n (len + 1) (2 * c) (2 * (first + k)) (idx + k) bs

/-- The next symbol of a code. -/
def symbolOf (h : Huff) (bs : List Bool) : Reading Nat := huffSym h 15 1 0 0 0 bs

/-- Base and extra bits of a length symbol. -/
def lenBase (c : Nat) : Nat × Nat :=
  if c < 265 then (c - 254, 0) else if c = 285 then (258, 0)
  else (3 + (4 + (c - 261) % 4) * 2 ^ ((c - 261) / 4), (c - 261) / 4)

/-- Base and extra bits of a distance symbol. -/
def distBase (c : Nat) : Nat × Nat := if c < 4 then (c + 1, 0) else (1 + (2 + c % 2) * 2 ^ (c / 2 - 1), c / 2 - 1)

/-- `n` bytes repeated from `d` back; the output is held last byte first. -/
def copyBack (d : Nat) : Nat → List Byte → List Byte
  | 0, out => out
  | n + 1, out => copyBack d n (out.getD (d - 1) 0 :: out)

/-- What inflating gives: the output, last byte first, the bits that are left, and whether no error was met. -/
abbrev Inflated := List Byte × List Bool × Bool

/-- Length and distance of a match, after its length symbol. -/
def takeMatch (dist : Huff) (c : Nat) (bs : List Bool) : Reading (Nat × Nat) :=
  if 285 < c then none
  else match takeLow (lenBase c).2 bs with
    | none => none
    | some (x, r1) => match symbolOf dist r1 with
      | none => none
      | some (d, r2) =>
        if 29 < d then none
        else (takeLow (distBase d).2 r2).map fun y => (((lenBase c).1 + x, (distBase d).1 + y.1), y.2)

/-- The symbols of a block, up to its end. -/
def inflateCodes (lit dist : Huff) : Nat → List Byte → List Bool → Inflated
  | 0, out, bs => (out, bs, false)
  | fuel + 1, out, bs =>
    match symbolOf lit bs with
    | none => (out, bs, false)
    | some (c, r) =>
      if c < 256 then inflateCodes lit dist fuel (BitVec.ofNat 8 c :: out) r
      else if c = 256 then (out, r, true)
      else match takeMatch dist c r with
        | none => (out, bs, false)
        | some ((n, back), r1) =>
          if out.length < back then (out, bs, false) else inflateCodes lit dist fuel (copyBack back n out) r1

/-- Code lengths of a dynamic block, `n` in all. -/
def readLens (h : Huff) (n : Nat) : Nat → List Nat → List Bool → Reading (List Nat)
  | 0, _, _ => none
  | fuel + 1, ls, bs =>
    if ls.length = n then some (ls, bs)
    else if n < ls.length then none
    else match symbolOf h bs with
      | none => none
      | some (c, r) =>
        if c < 16 then readLens h n fuel (ls ++ [c]) r
        else
          let k := if c = 16 then (2, 3) else if c = 17 then (3, 3) else (7, 11)
          match takeLow k.1 r, if c = 16 then ls.getLast? else some 0 with
          | some (x, r1), some v => readLens h n fuel (ls ++ List.replicate (k.2 + x) v) r1
          | _, _ => none

/-- Codes of a dynamic block. -/
def dynCodes (bs : List Bool) : Reading (Huff × Huff) :=
  match takeLow 14 bs with
  | none => none
  | some (v, r) =>
    let nl := v % 32 + 257
    let nd := v / 32 % 32 + 1
    let nc := v / 1024 + 4
    match takeLow (3 * nc) r with
    | none => none
    | some (cs, r1) =>
      let order := [16, 17, 18, 0, 8, 7, 9, 6, 10, 5, 11, 4, 12, 3, 13, 2, 14, 1, 15]
      let cl := (List.range 19).map fun i =>
        match order.findIdx? fun k => k = i with
        | some j => if j < nc then cs / 2 ^ (3 * j) % 8 else 0
        | none => 0
      let h := huffOf cl
      if huffOk h = false ∨ 286 < nl then none
      else match readLens h (nl + nd) 400 [] r1 with
        | none => none
        | some (ls, r2) =>
          let a := huffOf (ls.take nl)
          let b := huffOf (ls.drop nl)
          if huffOk a && huffOk b && ls.getD 256 0 ≠ 0 then some ((a, b), r2) else none

/-- The fixed codes. -/
def fixedCodes : Huff × Huff :=
  (huffOf (List.replicate 144 8 ++ List.replicate 112 9 ++ List.replicate 24 7 ++ List.replicate 8 8),
    huffOf (List.replicate 30 5))

/-- A stored block. -/
def storedBlock (out : List Byte) (bs : List Bool) : Inflated :=
  let r := bs.drop (bs.length % 8)
  match takeLow 32 r with
  | none => (out, bs, false)
  | some (k, r1) =>
    let n := k % 65536
    if n + k / 65536 ≠ 65535 ∨ r1.length < 8 * n then (out, bs, false)
    else
      let bytes := (List.range n).map fun i => BitVec.ofNat 8 (((takeLow 8 (r1.drop (8 * i))).map Prod.fst).getD 0)
      (bytes.reverse ++ out, r1.drop (8 * n), true)

/-- One block of type `ty`, of at most `fuel` symbols. -/
def inflateBlock (fuel ty : Nat) (out : List Byte) (bs : List Bool) : Inflated :=
  match ty with
  | 0 => storedBlock out bs
  | 1 => inflateCodes fixedCodes.1 fixedCodes.2 fuel out bs
  | 2 => match dynCodes bs with
    | some (h, r) => inflateCodes h.1 h.2 fuel out r
    | none => (out, bs, false)
  | _ => (out, bs, false)

/-- The blocks of a stream. -/
def inflateBlocks (total : Nat) : Nat → List Byte → List Bool → Inflated
  | 0, out, bs => (out, bs, false)
  | fuel + 1, out, bs =>
    match takeLow 3 bs with
    | none => (out, bs, false)
    | some (v, r) =>
      let one := inflateBlock total (v / 2) out r
      if one.2.2 = false ∨ v % 2 = 1 then one else inflateBlocks total fuel one.1 one.2.1

/-- Adler-32. -/
def adler32 (bs : List Byte) : Nat :=
  let r := bs.foldl (fun (p : Nat × Nat) b => let a := (p.1 + b.toNat) % 65521; (a, (p.2 + a) % 65521)) (1, 0)
  r.2 * 65536 + r.1

/-- A zlib stream (RFC 1950): its bytes, how many of the stream were read, and whether it is right. -/
def zlib (z : List Byte) : List Byte × Nat × Bool :=
  let cmf := (z.getD 0 0).toNat
  if z.length < 6 ∨ beNat (z.take 2) % 31 ≠ 0 ∨ cmf % 16 ≠ 8 ∨ 7 < cmf / 16 ∨ (z.getD 1 0).getLsbD 5 then ([], min 2 z.length, false)
  else
    let bs := bitsLow (z.drop 2)
    let r := inflateBlocks bs.length bs.length [] bs
    let b := r.1.reverse
    let tail := (z.drop (z.length - r.2.1.length / 8)).take 4
    if r.2.2 then (b, z.length, decide (tail.length = 4) && beNat tail = adler32 b) else (b, z.length - r.2.1.length / 8, false)

/-! ### PNG -/

/-- CRC-32 of a chunk. -/
def crc32 (bs : List Byte) : Nat :=
  let step := fun (r : Half) (_ : Nat) => if r.getLsbD 0 then (r >>> 1) ^^^ 0xEDB88320#32 else r >>> 1
  ((bs.foldl (fun (r : Half) b => (List.range 8).foldl step (r ^^^ b.setWidth 32)) 0xFFFFFFFF#32) ^^^ 0xFFFFFFFF#32).toNat

/-- The bytes of an ASCII text as a big-endian number. -/
def asciiNat (t : String) : Nat := t.toList.foldl (fun n c => 256 * n + c.toNat) 0

/-- The chunks of a PNG as (type, data), up to IEND. -/
def pngChunks : Nat → List Byte → Option (List (Nat × List Byte))
  | 0, _ => none
  | fuel + 1, b =>
    let n := beNat (b.take 4)
    let body := (b.drop 4).take (4 + n)
    if b.length < 12 + n ∨ crc32 body ≠ beNat ((b.drop (8 + n)).take 4) then none
    else
      let ty := beNat (body.take 4)
      if ty = asciiNat "IEND" then some [(ty, [])]
      else (pngChunks fuel (b.drop (12 + n))).map fun cs => (ty, body.drop 4) :: cs

/-- Samples per pixel of a colour type. -/
def pngChans (ct : Nat) : Nat := match ct with | 2 => 3 | 4 => 2 | 6 => 4 | _ => 1

/-- Depths that a colour type allows. -/
def pngDepths (ct : Nat) : List Nat :=
  match ct with | 0 => [1, 2, 4, 8, 16] | 2 => [8, 16] | 3 => [1, 2, 4, 8] | 4 => [8, 16] | 6 => [8, 16] | _ => []

/-- IHDR: width, height, depth, colour type, interlaced; none where it is wrong. -/
def pngHead (cs : List (Nat × List Byte)) : Option (Nat × Nat × Nat × Nat × Bool) :=
  match cs with
  | (ty, d) :: _ =>
    let f := fun i => (d.getD i 0).toNat
    if ty = asciiNat "IHDR" ∧ d.length = 13 ∧ beNat (d.take 4) ≠ 0 ∧ beNat ((d.drop 4).take 4) ≠ 0 ∧
        (pngDepths (f 9)).contains (f 8) = true ∧ f 10 = 0 ∧ f 11 = 0 ∧ f 12 ≤ 1 then
      some (beNat (d.take 4), beNat ((d.drop 4).take 4), f 8, f 9, f 12 = 1)
    else none
  | [] => none

/-- The chunks of a PNG after its signature; none where the signature or a check code is wrong. -/
def pngParts (b : List Byte) : Option (List (Nat × List Byte)) :=
  if beNat (b.take 8) = 0x89504E470D0A1A0A then pngChunks b.length (b.drop 8) else none

/-- What the header of a PNG declares: size, depth and channels; a palette counts as one. -/
def pngHeaders (b : List Byte) : SampleHdr :=
  match pngParts b with
  | none => .corrupt
  | some cs => match pngHead cs with
    | none => .corrupt
    | some (w, h, d, ct, _) => .png w h (pngChans ct) d (cs.any fun c => c.1 = asciiNat "acTL")

/-- The Paeth predictor. -/
def paeth (a b c : Nat) : Nat :=
  let p : Int := (a : Int) + b - c
  let pa := (p - a).natAbs
  let pb := (p - b).natAbs
  let pc := (p - c).natAbs
  if pa ≤ pb ∧ pa ≤ pc then a else if pb ≤ pc then b else c

/-- A filtered row reversed, byte by byte: `done` holds the bytes before, the last first. -/
def unfilterRow (ft bpp : Nat) (up : List Byte) : List Byte → Nat → List Byte → List Byte
  | [], _, done => done.reverse
  | x :: xs, i, done =>
    let a := if i < bpp then 0 else (done.getD (bpp - 1) 0).toNat
    let b := (up.getD i 0).toNat
    let c := if i < bpp then 0 else (up.getD (i - bpp) 0).toNat
    let p := match ft with | 0 => 0 | 1 => a | 2 => b | 3 => (a + b) / 2 | _ => paeth a b c
    unfilterRow ft bpp up xs (i + 1) (BitVec.ofNat 8 (x.toNat + p) :: done)

/-- `n` rows of `k` bytes, each after its filter type. -/
def unfilter (bpp k : Nat) : Nat → List Byte → List Byte → Option (List (List Byte))
  | 0, _, _ => some []
  | n + 1, up, b =>
    match b with
    | [] => none
    | ft :: r =>
      if 4 < ft.toNat ∨ r.length < k then none
      else
        let row := unfilterRow ft.toNat bpp up (r.take k) 0 []
        (unfilter bpp k n row (r.drop k)).map fun rs => row :: rs

/-- Sample `i` of a row at a depth. -/
def rowSample (row : List Byte) (d i : Nat) : Nat :=
  if d = 16 then beNat ((row.drop (2 * i)).take 2)
  else (row.getD (i * d / 8) 0).toNat / 2 ^ (8 - d - i * d % 8) % 2 ^ d

/-- One pass: columns x0, x0 + dx, ...; rows y0, y0 + dy, ... -/
structure PngPass where
  x0 : Nat
  y0 : Nat
  dx : Nat
  dy : Nat

/-- The passes of a PNG: one, or the seven of Adam7. -/
def pngPasses (adam : Bool) : List PngPass :=
  if adam then [⟨0, 0, 8, 8⟩, ⟨4, 0, 8, 8⟩, ⟨0, 4, 4, 8⟩, ⟨2, 0, 4, 4⟩, ⟨0, 2, 2, 4⟩, ⟨1, 0, 2, 2⟩, ⟨0, 1, 1, 2⟩]
  else [⟨0, 0, 1, 1⟩]

/-- Columns or rows of a pass. -/
def passLen (n o d : Nat) : Nat := if n ≤ o then 0 else ceilDiv (n - o) d

/-- The rows of every pass, and the bytes that they take. -/
def pngRows (w h bitsPx : Nat) : List PngPass → List Byte → Option (List (List (List Byte)))
  | [], b => if b = [] then some [] else none
  | p :: ps, b =>
    let k := ceilDiv (passLen w p.x0 p.dx * bitsPx) 8
    let n := if passLen w p.x0 p.dx = 0 then 0 else passLen h p.y0 p.dy
    match unfilter (max 1 (bitsPx / 8)) k n [] b with
    | none => none
    | some rs => (pngRows w h bitsPx ps (b.drop (n * (k + 1)))).map fun q => rs :: q

/-- Sample `c` of the pixel at a row and column: of the pass that holds it. -/
def pngSample (ps : List PngPass) (rows : List (List (List Byte))) (chans d y x c : Nat) : Nat :=
  let one := fun (q : PngPass × List (List Byte)) =>
    if q.1.x0 ≤ x ∧ q.1.y0 ≤ y ∧ (x - q.1.x0) % q.1.dx = 0 ∧ (y - q.1.y0) % q.1.dy = 0 then
      some (rowSample (q.2.getD ((y - q.1.y0) / q.1.dy) []) d ((x - q.1.x0) / q.1.dx * chans + c))
    else none
  ((ps.zip rows).findSome? one).getD 0

/-- The planes of a PNG: a palette is expanded, alpha stays for the preparation to drop. -/
def pngPlanes (w h ct : Nat) (pal : List Byte) (get : Nat → Nat → Nat → Nat) : List Plane :=
  let plane := fun (f : Nat → Nat → Nat) =>
    (⟨w, h, (List.range h).flatMap fun y => (List.range w).map fun x => f y x⟩ : Plane)
  if ct = 3 then (List.range 3).map fun k => plane fun y x => (pal.getD (3 * get y x 0 + k) 0).toNat
  else (List.range (pngChans ct)).map fun k => plane fun y x => get y x k

/-- A PNG decoded. -/
def pngDecode (b : List Byte) : Decoded :=
  match pngParts b with
  | none => ⟨0, 0, .corrupt⟩
  | some cs => match pngHead cs with
    | none => ⟨0, 0, .corrupt⟩
    | some (w, h, d, ct, adam) =>
      let z := (cs.filter fun c => c.1 = asciiNat "IDAT").flatMap Prod.snd
      let pal := ((cs.find? fun c => c.1 = asciiNat "PLTE").map Prod.snd).getD []
      let raw := zlib z
      let ps := pngPasses adam
      let n := pngChans ct
      let out := match pngRows w h (n * d) ps raw.1 with
        | none => DecodeEnd.corrupt
        | some rows =>
          let get := pngSample ps rows n d
          let bad := ct = 3 && (pal.length % 3 ≠ 0 ||
            (List.range h).any fun y => (List.range w).any fun x => decide (pal.length ≤ 3 * get y x 0))
          if bad then .corrupt else .pics [⟨w, h, .png (if ct = 3 then 8 else d), pngPlanes w h ct pal get⟩]
      ⟨raw.1.length, raw.2.1, if raw.2.2 then out else .corrupt⟩

/-! ### WAV -/

/-- The chunks of a RIFF file as (type, data), the last one cut where the bytes end. -/
def riffChunks : Nat → List Byte → List (Nat × Nat × List Byte)
  | 0, _ => []
  | fuel + 1, b =>
    if b.length < 8 then []
    else
      let n := leNat ((b.drop 4).take 4)
      (beNat (b.take 4), n, (b.drop 8).take n) :: riffChunks fuel (b.drop (8 + n + n % 2))

/-- Channels, rate, bits of a sample, coding, declared bytes and data of a WAV. -/
def wavParts (b : List Byte) : Option (Nat × Nat × Nat × AudForm × Nat × List Byte) :=
  if beNat (b.take 4) ≠ asciiNat "RIFF" ∨ beNat ((b.drop 8).take 4) ≠ asciiNat "WAVE" then none
  else
    let cs := riffChunks b.length (b.drop 12)
    match cs.find? (fun c => c.1 = asciiNat "fmt "), cs.find? fun c => c.1 = asciiNat "data" with
    | some (_, k, f), some (_, n, d) =>
      let u := fun o w => leNat ((f.drop o).take w)
      if f.length < 16 ∨ f.length < k then none
      else
        let tag := if u 0 2 = 0xFFFE then u 24 2 else u 0 2
        let form := match tag, u 14 2 with
          | 1, 8 => AudForm.pcm .unsigned8
          | 1, 16 => .pcm (.signed 16)
          | 1, 24 => .pcm (.signed 24)
          | 1, 32 => .pcm (.signed 32)
          | 3, 32 => .pcm .float32
          | _, _ => .other
        if u 2 2 = 0 then none else some (u 2 2, u 4 4, u 14 2, form, n, d)
    | _, _ => none

/-- What the header of a WAV declares: channels, rate, frames and coding. -/
def wavHeaders (b : List Byte) : SampleHdr :=
  match wavParts b with
  | none => .corrupt
  | some (ch, rate, bits, form, n, _) => .audio ch rate (n / max 1 (ch * (bits / 8))) form

/-- A WAV decoded; data that its chunk declares beyond the sample's end are corrupt. -/
def wavDecode (b : List Byte) : Decoded :=
  match wavParts b with
  | none => ⟨0, b.length, .corrupt⟩
  | some (ch, rate, bits, form, n, d) =>
    let k := bits / 8
    let len := min n d.length / max 1 (ch * k)
    if d.length < n then ⟨len, b.length, .corrupt⟩
    else match form with
      | .pcm f =>
        let at_ := fun i c =>
          let v := leNat ((d.drop ((i * ch + c) * k)).take k)
          match f with
          | .signed m => asSigned m v
          | _ => (v : Int)
        ⟨len, b.length, .pcm f rate ((List.range ch).map fun c => (List.range len).map fun i => at_ i c)⟩
      | _ => ⟨0, b.length, .unsupported⟩

/-! ### FLAC -/

/-- A zigzag code. -/
def unzig (v : Nat) : Int := if v % 2 = 0 then (v / 2 : Nat) else -((v / 2 + 1 : Nat) : Int)

/-- A unary count of zeros before a one. -/
def takeUnary : Nat → List Bool → Reading Nat
  | _, [] => none
  | n, b :: bs => if b then some (n, bs) else takeUnary (n + 1) bs

/-- `n` Rice codes of parameter `k`; with `raw`, `n` values of that width. -/
def takeRice (k : Nat) (raw : Option Nat) : Nat → List Bool → Reading (List Int)
  | 0, bs => some ([], bs)
  | n + 1, bs =>
    let one : Reading Int := match raw with
      | some w => (takeHigh 0 w bs).map fun r => (asSigned w r.1, r.2)
      | none => match takeUnary 0 bs with
        | none => none
        | some (q, r) => (takeHigh q k r).map fun x => (unzig x.1, x.2)
    match one with
    | none => none
    | some (v, r) => (takeRice k raw n r).map fun x => (v :: x.1, x.2)

/-- The partitions of a residual: `left` partitions of `size` values, the first one shorter by `order`. -/
def takeParts (pb size : Nat) : Nat → Nat → List Bool → Reading (List Int)
  | 0, _, bs => some ([], bs)
  | n + 1, order, bs =>
    match takeHigh 0 pb bs with
    | none => none
    | some (k, r) =>
      let esc : Reading (Option Nat) := if k = 2 ^ pb - 1 then (takeHigh 0 5 r).map fun x => (some x.1, x.2) else some (none, r)
      match esc with
      | none => none
      | some (raw, r1) => match takeRice k raw (size - order) r1 with
        | none => none
        | some (vs, r2) => (takeParts pb size n 0 r2).map fun x => (vs ++ x.1, x.2)

/-- The residual of a subframe of `n` values under a predictor of an order. -/
def takeResidual (n order : Nat) (bs : List Bool) : Reading (List Int) :=
  match takeHigh 0 6 bs with
  | none => none
  | some (v, r) =>
    let po := v % 16
    if 1 < v / 16 ∨ n % 2 ^ po ≠ 0 ∨ n / 2 ^ po < order then none
    else takeParts (4 + v / 16) (n / 2 ^ po) (2 ^ po) order r

/-- Samples that a predictor restores; `done` holds those before, the last first. -/
def predict (coefs : List Int) (shift : Nat) : List Int → List Int → List Int
  | [], done => done.reverse
  | e :: es, done =>
    let s := (coefs.zip done).foldl (fun (a : Int) p => a + p.1 * p.2) 0
    predict coefs shift es ((e + s / (2 ^ shift : Nat)) :: done)

/-- Coefficients of the fixed predictors. -/
def fixedCoefs (order : Nat) : List Int :=
  match order with | 0 => [] | 1 => [1] | 2 => [2, -1] | 3 => [3, -3, 1] | _ => [4, -6, 4, -1]

/-- `n` signed values of a width. -/
def takeSigned (w : Nat) : Nat → List Bool → Reading (List Int)
  | 0, bs => some ([], bs)
  | n + 1, bs =>
    match takeHigh 0 w bs with
    | none => none
    | some (v, r) => (takeSigned w n r).map fun x => (asSigned w v :: x.1, x.2)

/-- One subframe of `n` samples of a width. -/
def takeSubframe (n w : Nat) (bs : List Bool) : Reading (List Int) :=
  match takeHigh 0 8 bs with
  | none => none
  | some (v, r) =>
    let ty := v / 2 % 64
    let wasted : Reading Nat := if v % 2 = 1 then (takeUnary 0 r).map fun x => (x.1 + 1, x.2) else some (0, r)
    match wasted with
    | none => none
    | some (k, r1) =>
      let m := w - k
      let sub : Reading (List Int) :=
        if 128 ≤ v ∨ w ≤ k then none
        else if ty = 0 then (takeHigh 0 m r1).map fun x => (List.replicate n (asSigned m x.1), x.2)
        else if ty = 1 then takeSigned m n r1
        else if 8 ≤ ty ∧ ty ≤ 12 then
          let o := ty - 8
          if n < o then none
          else match takeSigned m o r1 with
            | none => none
            | some (warm, r2) => (takeResidual n o r2).map fun x => (predict (fixedCoefs o) 0 x.1 warm.reverse, x.2)
        else if 32 ≤ ty then
          let o := ty - 31
          if n < o then none
          else match takeSigned m o r1 with
            | none => none
            | some (warm, r2) => match takeHigh 0 9 r2 with
              | none => none
              | some (q, r3) =>
                let prec := q / 32 + 1
                if prec = 16 ∨ 16 ≤ q % 32 then none
                else match takeSigned prec o r3 with
                  | none => none
                  | some (cs, r4) => (takeResidual n o r4).map fun x => (predict cs (q % 32) x.1 warm.reverse, x.2)
        else none
      sub.map fun x => (x.1.map fun i => i * (2 ^ k : Nat), x.2)

/-- A CRC of `n` bits over bytes, highest bit first, from 0. -/
def crcHigh (n poly : Nat) (bs : List Byte) : Nat :=
  bs.foldl (fun r b => (List.range 8).foldl (fun r i =>
    let t := (r / 2 ^ (n - 1) + b2n (b.getLsbD (7 - i))) % 2
    (2 * r % 2 ^ n) ^^^ (if t = 1 then poly else 0)) r) 0

/-- Bits of the coded number of a frame that follow its first byte. -/
def numberRest (b : Nat) : Option Nat :=
  if b < 0x80 then some 0 else if b < 0xC0 then none else if b < 0xE0 then some 1 else if b < 0xF0 then some 2
  else if b < 0xF8 then some 3 else if b < 0xFC then some 4 else if b < 0xFE then some 5 else if b = 0xFE then some 6 else none

/-- Subframes of widths `ws`. -/
def takeSubs (n : Nat) : List Nat → List Bool → Reading (List (List Int))
  | [], bs => some ([], bs)
  | w :: ws, bs =>
    match takeSubframe n w bs with
    | none => none
    | some (x, r) => (takeSubs n ws r).map fun y => (x :: y.1, y.2)

/-- Channels from the subframes of a channel assignment. -/
def decorrelate (assign : Nat) (subs : List (List Int)) : List (List Int) :=
  let a := subs.getD 0 []
  let b := subs.getD 1 []
  match assign with
  | 8 => [a, List.zipWith (· - ·) a b]
  | 9 => [List.zipWith (· + ·) a b, b]
  | 10 =>
    let m := List.zipWith (fun (x y : Int) => 2 * x + y % 2) a b
    [List.zipWith (fun (x y : Int) => (x + y) / 2) m b, List.zipWith (fun (x y : Int) => (x - y) / 2) m b]
  | _ => subs

/-- Samples of a frame by its block size code, and the bytes that give them. -/
def blockSize (c : Nat) : Nat × Nat :=
  if c = 1 then (192, 0) else if 2 ≤ c ∧ c ≤ 5 then (576 * 2 ^ (c - 2), 0) else if c = 6 then (0, 1) else if c = 7 then (0, 2)
  else (256 * 2 ^ (c - 8), 0)

/-- One frame: its channels, and the bytes after it. -/
def flacFrame (chans bps : Nat) (b : List Byte) : Option (List (List Int) × List Byte) :=
  let f := fun i => (b.getD i 0).toNat
  match numberRest (f 4) with
  | none => none
  | some k =>
    let bs := blockSize (f 2 / 16)
    let o := 5 + k
    let o1 := o + bs.2
    let rc := f 2 % 16
    let o2 := o1 + if rc = 12 then 1 else if rc = 13 ∨ rc = 14 then 2 else 0
    let n := if bs.2 = 0 then bs.1 else beNat ((b.drop o).take bs.2) + 1
    let assign := f 3 / 16
    let sz := [0, 8, 12, 99, 16, 20, 24, 32].getD (f 3 / 2 % 8) 99
    let w := if sz = 0 then bps else sz
    let nch := if 8 ≤ assign then 2 else assign + 1
    if f 0 ≠ 0xFF ∨ f 1 / 2 ≠ 0x7C ∨ f 2 / 16 = 0 ∨ rc = 15 ∨ f 3 % 2 = 1 ∨ 10 < assign ∨ nch ≠ chans ∨ w ≠ bps ∨
        b.length ≤ o2 ∨ crcHigh 8 0x07 (b.take o2) ≠ f o2 then none
    else
      let ws := (List.range nch).map fun c =>
        if (assign = 8 ∧ c = 1) ∨ (assign = 9 ∧ c = 0) ∨ (assign = 10 ∧ c = 1) then w + 1 else w
      match takeSubs n ws (bitsHigh (b.drop (o2 + 1))) with
      | none => none
      | some (subs, r) =>
        let e := b.length - r.length / 8
        if b.length < e + 2 ∨ crcHigh 16 0x8005 (b.take e) ≠ beNat ((b.drop e).take 2) then none
        else some (decorrelate assign subs, b.drop (e + 2))

/-- Every frame up to the end of the bytes or an error; the second part is true without one. -/
def flacFrames (chans bps : Nat) : Nat → List (List Int) → List Byte → List (List Int) × Bool
  | 0, acc, _ => (acc, false)
  | fuel + 1, acc, b =>
    if b = [] then (acc, true)
    else match flacFrame chans bps b with
      | none => (acc, false)
      | some (xs, r) => flacFrames chans bps fuel (List.zipWith (· ++ ·) acc xs) r

/-- The metadata blocks: STREAMINFO, and the bytes after the last one. -/
def flacMeta : Nat → List Byte → Option (List Byte)
  | 0, _ => none
  | fuel + 1, b =>
    let n := beNat ((b.drop 1).take 3)
    if b.length < 4 + n then none
    else if (b.getD 0 0).toNat < 128 then flacMeta fuel (b.drop (4 + n)) else some (b.drop (4 + n))

/-- STREAMINFO: rate, channels, bits, samples. -/
def flacInfo (b : List Byte) : Option (Nat × Nat × Nat × Nat) :=
  if beNat (b.take 4) ≠ asciiNat "fLaC" ∨ (b.getD 4 0).toNat % 128 ≠ 0 ∨ beNat ((b.drop 5).take 3) ≠ 34 ∨ b.length < 42 then none
  else
    let v := beNat ((b.drop 18).take 8)
    some (v / 2 ^ 44, v / 2 ^ 41 % 8 + 1, v / 2 ^ 36 % 32 + 1, v % 2 ^ 36)

/-- What STREAMINFO of a FLAC declares: channels, rate, frames and bits of a sample. -/
def flacHeaders (b : List Byte) : SampleHdr :=
  match flacInfo b with
  | none => .corrupt
  | some (rate, ch, bits, n) => .audio ch rate n (.flac bits)

/-- A FLAC stream decoded. -/
def flacDecode (b : List Byte) : Decoded :=
  match flacInfo b, flacMeta b.length (b.drop 4) with
  | some (rate, ch, bits, n), some r =>
    let x := flacFrames ch bits (b.length + 1) (List.replicate ch []) r
    let len := (x.1.headD []).length
    ⟨len, b.length, if x.2 && (n = 0 || len = n) then .pcm (.signed bits) rate x.1 else .corrupt⟩
  | _, _ => ⟨0, b.length, .corrupt⟩

/-! ### The decoder of a codec (Table 8.7) -/

/-- Stream headers of a sample, by CODEC. -/
def headersOf (codec : Nat) (b : List Byte) : SampleHdr :=
  match codec with
  | 1 => pngHeaders b
  | 4 => wavHeaders b
  | 5 => flacHeaders b
  | 11 => .text
  | _ => Config.headers codec b

/-- What the decode of a sample gives, by CODEC. -/
def decodeOf (codec : Nat) (b : List Byte) : Decoded :=
  match codec with
  | 1 => pngDecode b
  | 4 => wavDecode b
  | 5 => flacDecode b
  | 11 => ⟨0, b.length, .text⟩
  | _ => Config.decode codec b

end Sys2Proof.Machine
end

