-- ==== Sys2Proof/Machine/Num.lean ====
section
/-! DEFINITION. Numbers: the formats of Table 2.1, exact values, the three rounding sites, special
values and the cause of a non-finite result (R63 to R98, R644). -/

namespace Sys2Proof.Machine

/-- An exact value: NaN, an infinity, or ± m × 2^e; m = 0 is a signed zero. -/
inductive Val where
  | nan
  | inf (neg : Bool)
  | fin (neg : Bool) (m : Nat) (e : Int)
  deriving DecidableEq, Repr

/-! ### Formats (Table 2.1) -/

def isWide (f : Nat) : Bool := f ≤ 2
def isMx (f : Nat) : Bool := 3 ≤ f && f ≤ 8
def isE8m0 (f : Nat) : Bool := f = 9

/-- Element width in bits. -/
def fmtBits (f : Nat) : Nat :=
  match f with
  | 0 => 32 | 1 => 16 | 2 => 16 | 3 => 8 | 4 => 8 | 5 => 6 | 6 => 6 | 7 => 4 | _ => 8

/-- Mantissa width. -/
def fmtMan (f : Nat) : Nat :=
  match f with
  | 0 => 23 | 1 => 7 | 2 => 10 | 3 => 3 | 4 => 2 | 5 => 2 | 6 => 3 | 7 => 1 | _ => 0

/-- Exponent width. -/
def fmtExp (f : Nat) : Nat :=
  match f with
  | 0 => 8 | 1 => 8 | 2 => 5 | 3 => 4 | 4 => 5 | 5 => 3 | 6 => 2 | 7 => 2 | _ => 8

def fmtBias (f : Nat) : Int :=
  match f with
  | 0 => 127 | 1 => 127 | 2 => 15 | 3 => 7 | 4 => 15 | 5 => 3 | 6 => 1 | 7 => 1 | _ => 127

/-- EMAX of R83. -/
def fmtEmax (f : Nat) : Int :=
  match f with
  | 3 => 8 | 4 => 15 | 5 => 4 | 6 => 2 | 7 => 2 | _ => 0

/-- Code of the largest finite magnitude of an MX element format (Table 2.2). -/
def fmtMaxCode (f : Nat) : Nat :=
  match f with
  | 3 => 0x7E | 4 => 0x7B | 5 => 0x1F | 6 => 0x1F | 7 => 0x7 | _ => 0x7F

/-- The canonical NaN of a format (R87). -/
def canonNan (f : Nat) : Nat :=
  match f with
  | 0 => 0x7FC00000 | 1 => 0x7FC0 | 2 => 0x7E00 | 3 => 0x7F | 4 => 0x7F | 9 => 0xFF | _ => 0

/-- Code of an infinity of a wide format. -/
def infCode (f : Nat) (neg : Bool) : Nat :=
  (2 ^ fmtExp f - 1) * 2 ^ fmtMan f + if neg then 2 ^ (fmtBits f - 1) else 0

/-- Exponent-all-ones codes: infinity or NaN in FP32, BF16, FP16 and E5M2. -/
def topVal (f m : Nat) (neg : Bool) : Val :=
  if f = 3 then if m = 7 then .nan else .fin neg (8 + m) (8 - 3)
  else if f ≥ 5 then .fin neg (2 ^ fmtMan f + m) (2 ^ fmtExp f - 1 - fmtBias f - fmtMan f)
  else if m = 0 then .inf neg else .nan

/-- The value of an element code (Tables 2.1, 2.2; R65 to R67). Subnormals of the wide formats read
as zeros of their sign. -/
def decodeVal (f c : Nat) : Val :=
  if f = 8 then
    let v := sext 8 (c % 256)
    .fin (decide (v < 0)) v.natAbs (-6)
  else if f = 9 then if c % 256 = 255 then .nan else .fin false 1 ((c % 256 : Nat) - 127)
  else
    let m := c % 2 ^ fmtMan f
    let e := c / 2 ^ fmtMan f % 2 ^ fmtExp f
    let neg := decide (c / 2 ^ (fmtMan f + fmtExp f) % 2 = 1)
    if e = 2 ^ fmtExp f - 1 then topVal f m neg
    else if e = 0 then
      if isWide f then .fin neg 0 0 else .fin neg m (1 - fmtBias f - fmtMan f)
    else .fin neg (2 ^ fmtMan f + m) ((e : Int) - fmtBias f - fmtMan f)

/-! ### Exact arithmetic -/

/-- Signed integer of a value at exponent `e0` not above its own. -/
def Val.toIntAt (e0 : Int) : Val → Int
  | .fin neg m e => let v := (m : Int) * 2 ^ (e - e0).toNat; if neg then -v else v
  | _ => 0

def Val.isNan : Val → Bool
  | .nan => true
  | _ => false

def Val.isInf : Val → Bool
  | .inf _ => true
  | _ => false

def Val.isFin : Val → Bool
  | .fin _ _ _ => true
  | _ => false

def Val.isZero : Val → Bool
  | .fin _ m _ => m = 0
  | _ => false

/-- The sign bit; false for a NaN. -/
def Val.sign : Val → Bool
  | .nan => false
  | .inf n => n
  | .fin n _ _ => n

def Val.neg : Val → Val
  | .nan => .nan
  | .inf n => .inf !n
  | .fin n m e => .fin (!n) m e

def Val.abs : Val → Val
  | .nan => .nan
  | .inf _ => .inf false
  | .fin _ m e => .fin false m e

/-- Exact sum under IEEE 754 (R75). A zero sum of unlike signs is +0. -/
def Val.add : Val → Val → Val
  | .nan, _ => .nan
  | _, .nan => .nan
  | .inf a, .inf b => if a = b then .inf a else .nan
  | .inf a, _ => .inf a
  | _, .inf b => .inf b
  | .fin na ma ea, .fin nb mb eb =>
    let e0 := min ea eb
    let v := Val.toIntAt e0 (.fin na ma ea) + Val.toIntAt e0 (.fin nb mb eb)
    if v = 0 then .fin (na && nb) 0 0 else .fin (decide (v < 0)) v.natAbs e0

def Val.sub (a b : Val) : Val := a.add b.neg

/-- Exact product under IEEE 754. -/
def Val.mul : Val → Val → Val
  | .nan, _ => .nan
  | _, .nan => .nan
  | .inf a, .inf b => .inf (a != b)
  | .inf a, .fin b m _ => if m = 0 then .nan else .inf (a != b)
  | .fin a m _, .inf b => if m = 0 then .nan else .inf (a != b)
  | .fin na ma ea, .fin nb mb eb => .fin (na != nb) (ma * mb) (ea + eb)

/-- The value scaled by 2^k. -/
def Val.scale (k : Int) : Val → Val
  | .fin n m e => .fin n m (e + k)
  | v => v

/-- Numerical order of finite and infinite values; NaN is below nothing. -/
def Val.lt : Val → Val → Bool
  | .nan, _ => false
  | _, .nan => false
  | .inf a, .inf b => a && !b
  | .inf a, _ => a
  | _, .inf b => !b
  | .fin na ma ea, .fin nb mb eb =>
    let e0 := min ea eb
    decide (Val.toIntAt e0 (.fin na ma ea) < Val.toIntAt e0 (.fin nb mb eb))

/-- Numerical equality; the zeros are equal. -/
def Val.eq (a b : Val) : Bool := !a.isNan && !b.isNan && !a.lt b && !b.lt a

/-- Maximum under R88. -/
def Val.max (a b : Val) : Val :=
  if a.isNan || b.isNan then .nan
  else if a.isZero && b.isZero then .fin (a.sign && b.sign) 0 0
  else if a.lt b then b else a

/-- Minimum under R88. -/
def Val.min (a b : Val) : Val :=
  if a.isNan || b.isNan then .nan
  else if a.isZero && b.isZero then .fin (a.sign || b.sign) 0 0
  else if b.lt a then b else a

/-- An integer as a value. -/
def Val.ofInt (i : Int) : Val := .fin (decide (i < 0)) i.natAbs 0

def Val.ofNat (n : Nat) : Val := .fin false n 0

/-- Floor of log2 of a nonzero finite magnitude. -/
def Val.log2 : Val → Int
  | .fin _ m e => (Nat.log2 m : Int) + e
  | _ => 0

/-! ### Rounding (Table 2.4) -/

/-- `m` divided by 2^k, nearest, ties to even. -/
def shiftRne (m k : Nat) : Nat :=
  if k = 0 then m
  else
    let q := m / 2 ^ k
    let r := m % 2 ^ k
    if 2 ^ (k - 1) < r ∨ (r = 2 ^ (k - 1) ∧ q % 2 = 1) then q + 1 else q

/-- `m` divided by 2^k, nearest, ties away from zero. -/
def shiftRna (m k : Nat) : Nat := if k = 0 then m else (m + 2 ^ (k - 1)) / 2 ^ k

/-- Code of a rounded magnitude `q × 2^e` with at most M + 1 significant bits in a wide format:
flush below the smallest normal (R66), infinity above the largest finite (R85). -/
def wideCode (f : Nat) (neg : Bool) (q : Nat) (e : Int) : Nat :=
  let s := if neg then 2 ^ (fmtBits f - 1) else 0
  if q = 0 then s
  else
    let x := (Nat.log2 q : Int) + e
    let be := x + fmtBias f
    if be < 1 then s
    else if be ≥ 2 ^ fmtExp f - 1 then infCode f neg
    else
      let man := if (fmtMan f : Int) ≥ Nat.log2 q then q * 2 ^ (fmtMan f - Nat.log2 q)
        else q / 2 ^ (Nat.log2 q - fmtMan f)
      s + be.toNat * 2 ^ fmtMan f + (man - 2 ^ fmtMan f)

/-- Rounding site 1: an exact value to the code of a wide format, nearest, ties to even, with the
flush of R66 and the overflow of R85. -/
def roundWide (f : Nat) : Val → Nat
  | .nan => canonNan f
  | .inf n => infCode f n
  | .fin n m e =>
    let l := Nat.log2 m + 1
    let k := l - (fmtMan f + 1)
    wideCode f n (shiftRne m k) (e + k)

/-- Rounding to a wide format, as a value. -/
def rnd (f : Nat) (v : Val) : Val := decodeVal f (roundWide f v)

/-- FP32 rounding of an exact value. -/
def r32 (v : Val) : Val := rnd 0 v

/-- Code of an exact value in FP32. -/
def code32 (v : Val) : Nat := roundWide 0 v

/-- Magnitude code of `m × 2^e` on the grid of an MX element format, nearest, ties away from zero,
subnormal codes included (R82). May exceed the largest code. -/
def mxMag (f m : Nat) (e : Int) : Nat :=
  if m = 0 then 0
  else if f = 8 then
    if e ≥ -6 then m * 2 ^ (e + 6).toNat else shiftRna m (-6 - e).toNat
  else
    let x := (Nat.log2 m : Int) + e
    let emin := 1 - fmtBias f
    let ex := max x emin
    let q := ex - fmtMan f
    let r := if e ≥ q then m * 2 ^ (e - q).toNat else shiftRna m (q - e).toNat
    (ex - emin).toNat * 2 ^ fmtMan f + r

/-- Element code from sign and magnitude code; MXINT8 is two's complement without a negative
zero. -/
def mxSigned (f : Nat) (neg : Bool) (mag : Nat) : Nat :=
  if f = 8 then if neg then (256 - mag) % 256 else mag
  else mag + if neg then 2 ^ (fmtBits f - 1) else 0

/-! ### Non-finite results and flags (R86, R89, R644) -/

/-- What an element written asks of the flag record. -/
inductive Mark where
  | none
  | nonFinite (cause : Nat)
  | saturated
  deriving DecidableEq, Repr

/-- NF_CAUSE of a result written from the operands `ops` (R644, lines 2 to 4). -/
def causeOf (ops : List Val) (res : Val) : Mark :=
  match res with
  | .fin _ _ _ => .none
  | .nan => if ops.any Val.isNan then .nonFinite 0 else .nonFinite 2
  | .inf _ => if ops.any Val.isInf then .nonFinite 0 else .nonFinite 1

/-- An element to write: its code and its mark. -/
structure Elem where
  code : Nat
  mark : Mark
  deriving DecidableEq, Repr

/-- Site-1 result of an exact value formed from operands. -/
def elemWide (f : Nat) (ops : List Val) (v : Val) : Elem :=
  let c := roundWide f v
  ⟨c, causeOf ops (decodeVal f c)⟩

/-- The quantiser's code of one element under scale code `x`, with the overflow of Table 2.5. -/
def quantElem (f x : Nat) (sat : Bool) (v : Val) : Elem :=
  match v with
  | .fin neg m e =>
    let mag := mxMag f m (e - ((x : Int) - 127))
    if mag ≤ fmtMaxCode f then ⟨mxSigned f neg mag, .none⟩
    else if sat = false ∧ f = 3 then ⟨0x7F, .nonFinite 1⟩
    else if sat = false ∧ f = 4 then ⟨if neg then 0xFC else 0x7C, .nonFinite 1⟩
    else ⟨mxSigned f neg (fmtMaxCode f), .saturated⟩
  | _ => ⟨0, .none⟩

/-- The derived scale code of a group of finite values (R83). -/
def derivedScale (f : Nat) (vs : List Val) : Nat :=
  let amax := vs.foldl (fun a v => Val.max a v.abs) (.fin false 0 0)
  match amax with
  | .fin _ m e =>
    if m = 0 then 0
    else
      let x0 := amax.log2 - fmtEmax f
      let x1 := if fmtMaxCode f < mxMag f m (e - x0) then x0 + 1 else x0
      ((max (min x1 127) (-127)) + 127).toNat
  | _ => 255

/-- Marks the first element that satisfies `p`. -/
def markFirst (p : Val → Bool) (mk : Mark) : List Val → List Elem
  | [] => []
  | v :: vs => if p v then ⟨0, mk⟩ :: vs.map (fun _ => ⟨0, .none⟩) else ⟨0, .none⟩ :: markFirst p mk vs

/-- The quantiser on one group (R82 to R86): scale code and elements. `given` is the supplied scale
code of given mode; 0xFF there writes a NaN group whatever the values. -/
def quantGroup (f : Nat) (given : Option Nat) (sat : Bool) (vs : List Val) : Nat × List Elem :=
  if given = some 255 then (255, markFirst (fun _ => true) (.nonFinite 3) vs)
  else if vs.any fun v => !v.isFin then (255, markFirst (fun v => !v.isFin) (.nonFinite 3) vs)
  else
    match given with
    | some x => (x, vs.map (quantElem f x sat))
    | none => let x := derivedScale f vs; (x, vs.map (quantElem f x sat))

/-- The value of an MX element under its scale code, exactly (R72). -/
def mxVal (f code scale : Nat) : Val :=
  if scale = 255 then .nan else (decodeVal f code).scale ((scale : Int) - 127)

/-! ### Quotient and root for one rounding -/

/-- A value that rounds at site 1 as the exact quotient does: 64 bits or more, and a sticky bit. -/
def Val.quot : Val → Val → Val
  | .nan, _ => .nan
  | _, .nan => .nan
  | .inf _, .inf _ => .nan
  | .inf x, .fin y _ _ => .inf (x != y)
  | .fin x _ _, .inf y => .fin (x != y) 0 0
  | .fin x ma ea, .fin y mb eb =>
    if mb = 0 then if ma = 0 then .nan else .inf (x != y)
    else
      let k := 64 + Nat.log2 mb
      let n := ma * 2 ^ k
      .fin (x != y) (2 * (n / mb) + b2n (n % mb ≠ 0)) (ea - eb - k - 1)

/-- Integer square root by bits, `n` bits left. -/
def isqrtAux : Nat → Nat → Nat → Nat
  | 0, _, r => r
  | n + 1, v, r => let t := r + 2 ^ n; isqrtAux n v (if t * t ≤ v then t else r)

def isqrt (v : Nat) : Nat := isqrtAux (Nat.log2 v / 2 + 1) v 0

/-- A value that rounds at site 1 as the exact square root does. −0 stays −0; a negative number has
none. -/
def Val.root : Val → Val
  | .nan => .nan
  | .inf n => if n then .nan else .inf false
  | .fin neg m e =>
    if m = 0 then .fin neg 0 0
    else if neg then .nan
    else
      let m1 := if e % 2 = 0 then m else 2 * m
      let e1 := if e % 2 = 0 then e else e - 1
      let n := m1 * 4 ^ 64
      let r := isqrt n
      .fin false (2 * r + b2n (r * r ≠ n)) (e1 / 2 - 64 - 1)

/-! ### Divide and square root (R225, Table 2.9): within one unit in the last place -/

/-- The representable magnitudes `q × 2^e`, q of `p` bits, within one unit in the last place of n/d. -/
def nearQuot (p n d : Nat) : List (Nat × Int) :=
  let sh : Int := (p : Int) + Nat.log2 d - Nat.log2 n
  let scaled := fun (k : Int) => if k ≥ 0 then n * 2 ^ k.toNat / d else n / (d * 2 ^ (-k).toNat)
  let k := if scaled sh ≥ 2 ^ p then sh - 1 else sh
  let q := scaled k
  -- |c − (n/d)·2^j| ≤ 2^(j−k), both sides times d and cleared of negative powers
  let ok := fun (c : Nat × Int) =>
    let x : Nat := if c.2 ≥ 0 then c.1 * d else c.1 * d * 2 ^ (-c.2).toNat
    let y : Nat := if c.2 ≥ 0 then n * 2 ^ c.2.toNat else n
    let u : Nat := d * 2 ^ (c.2 - k).toNat * (if c.2 ≥ 0 then 1 else 2 ^ (-c.2).toNat)
    decide (((x : Int) - (y : Int)).natAbs ≤ u)
  let low := if q = 2 ^ (p - 1) then [(2 * q - 1, k + 1)] else []
  (([(q, k), (q + 1, k), (q - 1, k)] ++ low).filter ok).map fun c => (c.1, -c.2)

/-- Divide class: the result code of a / b in a wide format. Where the exact result is finite and
nonzero, one of the representable values within the bound. -/
def divWide (f : Nat) (a b : Val) : Nat :=
  match a, b with
  | .nan, _ => canonNan f
  | _, .nan => canonNan f
  | .inf _, .inf _ => canonNan f
  | .inf x, .fin y _ _ => infCode f (x != y)
  | .fin x _ _, .inf y => wideCode f (x != y) 0 0
  | .fin x ma ea, .fin y mb eb =>
    if mb = 0 then if ma = 0 then canonNan f else infCode f (x != y)
    else if ma = 0 then wideCode f (x != y) 0 0
    else
      let cs := nearQuot (fmtMan f + 1) ma mb
      let i := Config.dividePick f (roundWide f a) (roundWide f b) % cs.length
      let c := cs.getD i (1, 0)
      wideCode f (x != y) c.1 (c.2 + ea - eb)

/-- Square-root class in a wide format: one of the representable values within the bound. -/
def sqrtWide (f : Nat) (a : Val) : Nat :=
  match a with
  | .nan => canonNan f
  | .inf n => if n then canonNan f else infCode f false
  | .fin neg m e =>
    if m = 0 then wideCode f neg 0 0
    else if neg then canonNan f
    else
      let p := fmtMan f + 1
      let m1 := if e % 2 = 0 then m else 2 * m
      let e1 := if e % 2 = 0 then e else e - 1
      let w := Nat.log2 m1
      let k := p - w / 2 + 1
      let big := m1 * 4 ^ k
      let r := isqrt big
      let drop := Nat.log2 r + 1 - p
      let q := r / 2 ^ drop
      -- |c·2^j − √big| ≤ 2^drop
      let ok := fun (c : Nat × Nat) =>
        decide ((c.1 * 2 ^ c.2 - 2 ^ drop) ^ 2 ≤ big) && decide (big ≤ (c.1 * 2 ^ c.2 + 2 ^ drop) ^ 2)
      let low := if q = 2 ^ (p - 1) then [(2 * q - 1, drop - 1)] else []
      let cs := ([(q, drop), (q + 1, drop), (q - 1, drop)] ++ low).filter ok
      let c := cs.getD (Config.sqrtPick f (roundWide f a) % cs.length) (q, drop)
      wideCode f false c.1 (e1 / 2 - k + c.2)

/-! ### Strict accumulation (R94 to R98) -/

/-- The exact record: A in units of 2^(−173), state bits, term count (R97). -/
structure Rec where
  a     : Int
  pinf  : Bool
  ninf  : Bool
  bad   : Bool
  count : Nat
  deriving DecidableEq, Repr

def Rec.zero : Rec := ⟨0, false, false, false, 0⟩

/-- Combination of two records (R97). -/
def Rec.add (x y : Rec) : Rec :=
  ⟨x.a + y.a, x.pinf || y.pinf, x.ninf || y.ninf, x.bad || y.bad, min (x.count + y.count) 0xFFFFFF⟩

/-- An exact magnitude m × 2^e is at least 2^k. -/
def magGe (m : Nat) (e k : Int) : Bool := m ≠ 0 && decide (k ≤ (Nat.log2 m : Int) + e)

/-- A term into the accumulator: `prod` marks a product, whose range R95 limits. -/
def Rec.term (r : Rec) (prod : Bool) (v : Val) : Rec :=
  let c := min (r.count + 1) 0xFFFFFF
  match v with
  | .nan => { r with bad := true, count := c }
  | .inf n => if n then { r with ninf := true, count := c } else { r with pinf := true, count := c }
  | .fin n m e =>
    if prod && magGe m e 128 then
      if n then { r with ninf := true, count := c } else { r with pinf := true, count := c }
    else if prod && !magGe m e (-126) then { r with count := c }
    else
      let u : Int := if e ≥ -173 then ((m * 2 ^ (e + 173).toNat : Nat) : Int)
        else ((m / 2 ^ (-173 - e).toNat : Nat) : Int)
      { r with a := r.a + (if n then -u else u), count := c }

/-- The record's value (R98). -/
def Rec.val (r : Rec) : Val :=
  if r.bad || (r.pinf && r.ninf) then .nan
  else if r.pinf then .inf false
  else if r.ninf then .inf true
  else if r.a = 0 then .fin false 0 0
  else .fin (decide (r.a < 0)) r.a.natAbs (-173)

/-- Operands that a record's state bits stand for when it is rounded (R644). -/
def Rec.ops (r : Rec) : List Val :=
  (if r.bad then [Val.nan] else []) ++ (if r.pinf then [Val.inf false] else []) ++
    (if r.ninf then [Val.inf true] else [])

/-- The 48 bytes of a record as one number, little-endian (R97). -/
def Rec.toNat48 (r : Rec) : Nat :=
  (r.a % (2 ^ 320 : Int)).toNat + (b2n r.pinf + 2 * b2n r.ninf + 4 * b2n r.bad) * 2 ^ 320 + r.count * 2 ^ 328

def Rec.ofNat48 (n : Nat) : Rec :=
  let a : Nat := n % (2 ^ 320 : Nat)
  ⟨if a < 2 ^ 319 then (a : Int) else (a : Int) - (2 : Int) ^ 320,
   n / 2 ^ 320 % 2 = 1, n / 2 ^ 321 % 2 = 1, n / 2 ^ 322 % 2 = 1, n / 2 ^ 328 % 2 ^ 24⟩

end Sys2Proof.Machine
end

