-- ==== Sys2Proof/Machine/Crc.lean ====
section
/-! DEFINITION. The check codes the manual names: CRC-32C of block images (R301), formed from
contributions by its affine law, and CRC-64/XZ of fingerprints (R441). -/

namespace Sys2Proof.Machine

/-- One bit of the reflected CRC-32C register, polynomial 0x1EDC_6F41. -/
def crcBit (r : Half) : Half :=
  if r.getLsbD 0 then (r >>> 1) ^^^ 0x82F63B78#32 else r >>> 1

/-- One byte into the CRC-32C register. -/
def crcStep (r : Half) (b : Byte) : Half :=
  crcBit (crcBit (crcBit (crcBit (crcBit (crcBit (crcBit (crcBit (r ^^^ b.setWidth 32))))))))

/-- Product of two reflected polynomials modulo the CRC-32C polynomial: `n` bits of `a` left. -/
def crcMul : Nat → Half → Half → Half → Half
  | 0, _, _, p => p
  | n + 1, a, b, p =>
    crcMul n (a <<< 1) (crcBit b) (if a.getLsbD 31 then p ^^^ b else p)

/-- `x ^ (8 * 2 ^ j)` modulo the polynomial, j = 0 to 12. -/
def crcPow : List Half :=
  [0x800000#32, 0x8000#32, 0x82f63b78#32, 0x6ea2d55c#32, 0x18b8ea18#32, 0x510ac59a#32,
   0xb82be955#32, 0xb8fdb1e7#32, 0x88e56f72#32, 0x74c360a4#32, 0xe4172b16#32, 0x0d65762a#32,
   0x35d73a62#32]

/-- The register advanced through `n` zero bytes. -/
def crcZerosAux : List Half → Nat → Half → Half
  | [], _, r => r
  | x :: xs, n, r => crcZerosAux xs (n / 2) (if n % 2 = 1 then crcMul 32 x r 0 else r)

/-- The register advanced through `n` zero bytes, `n` below 8,192. -/
def crcZeros (n : Nat) (r : Half) : Half := if r = 0 then 0 else crcZerosAux crcPow n r

/-- CRC-32C of a byte string (R301). -/
def crc32c (bs : List Byte) : Half := (bs.foldl crcStep 0xFFFFFFFF#32) ^^^ 0xFFFFFFFF#32

/-- Contribution of the bytes `bs` at offset `o` of a 4,096-byte image: the change of the image's
CRC when they replace zero bytes. -/
def crcContrib (o : Nat) (bs : List Byte) : Half :=
  crcZeros (4096 - (o + bs.length)) (bs.foldl crcStep 0)

/-- Z: CRC-32C of 4,096 zero bytes (R301). -/
def crcZ : Half := 0x98F94189#32

/-- One byte into the reflected CRC-64 register, polynomial 0x42F0_E1EB_A9EA_3693. -/
def crc64Bit (r : Word) : Word :=
  if r.getLsbD 0 then (r >>> 1) ^^^ 0xC96C5795D7870F42#64 else r >>> 1

def crc64Step (r : Word) (b : Byte) : Word :=
  crc64Bit (crc64Bit (crc64Bit (crc64Bit
    (crc64Bit (crc64Bit (crc64Bit (crc64Bit (r ^^^ b.setWidth 64))))))))

/-- CRC-64/XZ of a byte string (R441). -/
def crc64xz (bs : List Byte) : Word :=
  (bs.foldl crc64Step 0xFFFFFFFFFFFFFFFF#64) ^^^ 0xFFFFFFFFFFFFFFFF#64

end Sys2Proof.Machine
end

