-- ==== Sys2Proof/Machine/RegMap.lean ====
section
/-! DEFINITION. The register space (Table 7.2): addresses of the register blocks, and for every
register its width, its software-writable bits, its write-1-to-clear bits and its reset value
(Tables 1.7 to 1.12, 2.6, 3.8, 4.8, 5.11, 6.7, 7.14, 7.15, 8.18, 9.9, 10.18, 10.23, 11.18, 11.19,
12.11, 13.16, 14.14, 15.12, 15.13, 16.14). Write-only command fields hold nothing and so appear in
no mask (R19). -/

namespace Sys2Proof.Machine

/-! ### Blocks -/

def hubR (o : Nat) : Nat := 0x200000000000 + o
def shlR (o : Nat) : Nat := 0x200000010000 + o
def secR (o : Nat) : Nat := 0x200000020000 + o
def pwrR (o : Nat) : Nat := 0x200000030000 + o
def cluR (c o : Nat) : Nat := 0x200000100000 + c * 0x10000 + o
def dieR (d o : Nat) : Nat := 0x200000300000 + d * 0x10000 + o
def accR (d o : Nat) : Nat := 0x200000400000 + d * 0x10000 + o
def lnkR (l o : Nat) : Nat := 0x200000500000 + l * 0x1000 + o
/-- Register of the Atomizer block of site 9 + `m`. -/
def atzR (m o : Nat) : Nat := 0x200000600000 + m * 0x100000 + o

/-! ### Named registers -/

def rCap0 : Nat := hubR 0x0000
def rCap1 : Nat := hubR 0x0008
def rCap2 : Nat := hubR 0x0010
def rCap3 : Nat := hubR 0x0018
def rAcv : Nat := hubR 0x0020
def rCapEpoch : Nat := hubR 0x0028
def rCluState : Nat := hubR 0x0030
def rMeminitBase : Nat := hubR 0x0100
def rMeminitSize : Nat := hubR 0x0108
def rMeminitCtl : Nat := hubR 0x0110
def rFabStat : Nat := hubR 0x0800
def rHubLaneMap : Nat := hubR 0x0880
/-- HUB_FW registers of site 9 + `m`. -/
def rFwCtl (m : Nat) : Nat := hubR (0x0900 + 0x100 * m)
def rFwRate (m : Nat) : Nat := hubR (0x0908 + 0x100 * m)
def rFwViol (m : Nat) : Nat := hubR (0x0910 + 0x100 * m)
def rFwBase (m k : Nat) : Nat := hubR (0x0940 + 0x100 * m + 16 * k)
def rFwSize (m k : Nat) : Nat := hubR (0x0948 + 0x100 * m + 16 * k)
def rJobtabBase : Nat := hubR 0x1000
def rJobtabCtl : Nat := hubR 0x1008
def rJobStat : Nat := hubR 0x1010
def rEvtBase : Nat := hubR 0x1020
def rEvtCtl : Nat := hubR 0x1028
def rEvtHead : Nat := hubR 0x1030
def rEvtStat : Nat := hubR 0x1038
def rPartCtl (p : Nat) : Nat := hubR (0x2000 + 0x100 * p)
def rPartClu (p : Nat) : Nat := hubR (0x2008 + 0x100 * p)
def rPartSave (p : Nat) : Nat := hubR (0x2010 + 0x100 * p)
def rPartSlice (p : Nat) : Nat := hubR (0x2018 + 0x100 * p)
def rPartHbm (p k : Nat) : Nat := hubR (0x2040 + 0x100 * p + 8 * k)
def rSlgBase (p : Nat) : Nat := hubR (0x3000 + 0x80 * p)
def rSlgCtl (p : Nat) : Nat := hubR (0x3008 + 0x80 * p)
def rSlgHead (p : Nat) : Nat := hubR (0x3010 + 0x80 * p)
def rSlgTail (p : Nat) : Nat := hubR (0x3018 + 0x80 * p)
def rSlgOldest (p : Nat) : Nat := hubR (0x3020 + 0x80 * p)
def rSlgStat (p : Nat) : Nat := hubR (0x3028 + 0x80 * p)
def rSlgDivStep (p : Nat) : Nat := hubR (0x3030 + 0x80 * p)
def rSlgDivKey (p : Nat) : Nat := hubR (0x3038 + 0x80 * p)
def rElogIdx : Nat := hubR 0x4000
def rCntSel : Nat := hubR 0x4800
def rCntData : Nat := hubR 0x4808
def rCntClr : Nat := hubR 0x4810
def rRasCtl : Nat := hubR 0x4818
def rThrSel (k : Nat) : Nat := hubR (0x5000 + 16 * k)
def rThrVal (k : Nat) : Nat := hubR (0x5008 + 16 * k)
def rShlStat (n : Nat) : Nat := shlR (8 * n)
def rShlCtl : Nat := shlR 0x0010
def rShlRefuse : Nat := shlR 0x0040
def rHwinBase (k : Nat) : Nat := shlR (0x0100 + 16 * k)
def rHwinCtl (k : Nat) : Nat := shlR (0x0108 + 16 * k)
def rSecId : Nat := secR 0x0000
def rSecState : Nat := secR 0x0008
def rSecSvn : Nat := secR 0x0010
def rSecKslot : Nat := secR 0x0018
def rMbxCtl : Nat := secR 0x0040
def rRcvSrc : Nat := secR 0x0050
def rRcvCtl : Nat := secR 0x0058
def rPwrStat : Nat := pwrR 0x0000
def rDdCtl : Nat := pwrR 0x0008
def rRstCtl : Nat := pwrR 0x0010
def rTrip : Nat := pwrR 0x0018
def rPwrIn : Nat := pwrR 0x0020
def rAlert : Nat := pwrR 0x0028
def rTsel : Nat := pwrR 0x0030
def rTdata : Nat := pwrR 0x0038
def rHb : Nat := pwrR 0x0040
def rFatal : Nat := pwrR 0x0048
def rPtpCtl : Nat := pwrR 0x0080
def rPtpNext : Nat := pwrR 0x0088
def rPtpNow : Nat := pwrR 0x0090
def rStrap : Nat := pwrR 0x00A0
/-- Stream registers of cluster `c`, stream number `k` (0 F, 1 B, 2 U). -/
def rSstat (c k : Nat) : Nat := cluR c (0x0200 + 8 * k)
def rSfault (c k : Nat) : Nat := cluR c (0x0220 + 8 * k)
def rFenceWdog (c : Nat) : Nat := cluR c 0x0240
def rCluBc (c n : Nat) : Nat := cluR c (0x0300 + 4 * n)
def rAflag (c k : Nat) : Nat := cluR c (0x0400 + 16 * k)
def rAflagPos (c k : Nat) : Nat := cluR c (0x0408 + 16 * k)
def rAccAlloc (c : Nat) : Nat := cluR c 0x0500
def rCsAlloc (c : Nat) : Nat := cluR c 0x0508
def rStage (c x : Nat) : Nat := cluR c (0x0510 + 8 * x)
def rTileCnt (c : Nat) : Nat := cluR c 0x0550
def rSmisId (c : Nat) : Nat := cluR c 0x0558
def rSmisTag (c : Nat) : Nat := cluR c 0x0560
def rSing (c k : Nat) : Nat := cluR c (0x0600 + 16 * k)
def rSingIdx (c k : Nat) : Nat := cluR c (0x0608 + 16 * k)
def rTslot (c : Nat) : Nat := cluR c 0x0630
def rPgBase (c : Nat) : Nat := cluR c 0x0700
def rStep (c : Nat) : Nat := cluR c 0x0708
def rSeed (c : Nat) : Nat := cluR c 0x0710
def rUpdNorm (c : Nat) : Nat := cluR c 0x0718
def rClip (c : Nat) : Nat := cluR c 0x0720
def rRcSel (c : Nat) : Nat := cluR c 0x0730
def rRcData (c : Nat) : Nat := cluR c 0x0738
def rSsOwner (d : Nat) : Nat := dieR d 0x0100
def rSsMode (d : Nat) : Nat := dieR d 0x0108
def rScrubCtl (d : Nat) : Nat := dieR d 0x0110
def rPoisAddr (d : Nat) : Nat := dieR d 0x0120
def rPoisInfo (d : Nat) : Nat := dieR d 0x0128
def rHbmRepair (d : Nat) : Nat := dieR d 0x0180
def rHbmTrain (d : Nat) : Nat := dieR d 0x0188
def rDieIdent (d : Nat) : Nat := dieR d 0x0200
def rEdgeStat (d : Nat) : Nat := dieR d 0x0208
def rDieLaneMap (d : Nat) : Nat := dieR d 0x0280
def rGtab (d p : Nat) : Nat := accR d (8 * p)
def rGcmd (d : Nat) : Nat := accR d 0x0100
def rAccFault (d : Nat) : Nat := accR d 0x0108
def rRchk (d p : Nat) : Nat := accR d (0x0180 + 8 * p)
def rFpmisId (d : Nat) : Nat := accR d 0x0200
def rFpmisRanks (d : Nat) : Nat := accR d 0x0208
def rFpmisStep (d : Nat) : Nat := accR d 0x0210
def rLnkCtl (l : Nat) : Nat := lnkR l 0x000
def rLnkStat (l : Nat) : Nat := lnkR l 0x008
def rLnkLocal (l : Nat) : Nat := lnkR l 0x010
def rLnkPartner (l : Nat) : Nat := lnkR l 0x018
def rLnkPid (l : Nat) : Nat := lnkR l 0x020
def rLnkEvent (l : Nat) : Nat := lnkR l 0x028
def rLnkEq (l : Nat) : Nat := lnkR l 0x100
def rLnkSpareThr (l : Nat) : Nat := lnkR l 0x108
def rAtzId (m : Nat) : Nat := atzR m 0x0000
def rAtzStat (m : Nat) : Nat := atzR m 0x0008
def rRingDesc (m n : Nat) : Nat := atzR m (0x1000 + 0x100 * n)
def rRingCtl (m n : Nat) : Nat := atzR m (0x1008 + 0x100 * n)
def rRingTail (m n : Nat) : Nat := atzR m (0x1010 + 0x100 * n)
def rRingHead (m n : Nat) : Nat := atzR m (0x1018 + 0x100 * n)
def rRingEmit (m n : Nat) : Nat := atzR m (0x1020 + 0x100 * n)
def rRingPos (m n : Nat) : Nat := atzR m (0x1028 + 0x100 * n)
def rRingRes (m n : Nat) : Nat := atzR m (0x1030 + 0x100 * n)
def rRingFail (m n : Nat) : Nat := atzR m (0x1038 + 0x100 * n)

/-! ### Access and reset -/

/-- What the register tables give for one register: width in bits, software-writable bits,
write-1-to-clear bits, reset value, and whether only firmware or the security controller writes
it (R315, R399, R446, R555). -/
structure RegSpec where
  width  : Nat
  rw     : Word
  w1c    : Word
  reset  : Word
  closed : Bool
  deriving DecidableEq, Repr

def spec32 (rw w1c reset : Word) : Option RegSpec := some ⟨32, rw, w1c, reset, false⟩
def spec64 (rw w1c reset : Word) : Option RegSpec := some ⟨64, rw, w1c, reset, false⟩
def specFw (reset : Word) : Option RegSpec := some ⟨64, 0, 0, reset, true⟩

/-- A bit as a mask. -/
def m1 (i : Nat) : Word := BitVec.ofNat 64 (2 ^ i)

/-- Fields `[hi:lo]` as a mask. -/
def mk (hi lo : Nat) : Word := fieldMask 64 hi lo

/-- Capability, memory and fabric registers of the hub below 0x1000; firewall registers are
HUB_FW9 and HUB_FW10 (R399). -/
def hubLowSpec (o : Nat) : Option RegSpec :=
  match o with
  | 0x000 => spec64 0 0 0x0011FFFFFFFF07FF
  | 0x008 => spec64 0 0 0x0004024C4024FFFF
  | 0x010 => spec64 0 0 0x0011108703FF3FFF
  | 0x018 => spec64 0 0 0x3FF3FFFFFFFFFFFF
  | 0x020 => spec32 0 0 0x00010001
  | 0x028 => spec32 0 0 1
  | 0x030 => spec32 0 0 0xFFFFFFFF
  | 0x100 => spec64 (mk 47 12) 0 0
  | 0x108 => spec32 (mk 23 0) 0 0
  | 0x110 => spec32 0 (m1 2 ||| m1 3) 0
  | 0x800 => spec64 0 0 0
  | 0x880 => specFw 0
  | _ =>
    let j := (o - 0x900) % 0x100
    if o < 0x900 ∨ 0xB00 ≤ o then none
    else if j = 0x00 then spec32 (mk 9 2) (m1 18) 0x4
    else if j = 0x08 then spec64 (mk 42 0) 0 0x0000004000400401
    else if j = 0x10 then spec64 0 (m1 63) 0
    else if 0x40 ≤ j ∧ j < 0xC0 ∧ j % 16 = 0 then spec64 (mk 47 12 ||| m1 63) 0 0
    else if 0x40 ≤ j ∧ j < 0xC0 ∧ j % 16 = 8 then spec64 (mk 38 0) 0 0
    else none

/-- Registers of the hub block (Tables 1.7, 7.15, 9.9, 11.19, 12.11, 15.12). -/
def hubSpec (o : Nat) : Option RegSpec :=
  if o < 0x1000 then hubLowSpec o
  else if o < 0x2000 then
    match o with
    | 0x1000 => spec64 (mk 46 12) 0 0
    | 0x1008 => spec32 (mk 13 0) (m1 15) 0
    | 0x1010 => spec32 0 0 0
    | 0x1020 => spec64 (mk 46 12) 0 0
    | 0x1028 => spec32 (mk 5 0) (mk 7 6) 0x0C
    | 0x1030 => spec32 (mk 31 0) 0 0
    | 0x1038 => spec64 0 0 0
    | _ => none
  else if o < 0x3000 then
    let j := o % 0x100
    if j = 0x00 then spec32 (mk 31 16) (m1 11) 0x000A0000
    else if j = 0x08 then spec32 (mk 31 0) 0 0
    else if j = 0x10 then spec64 (mk 47 20) 0 0
    else if j = 0x18 then spec64 (mk 63 0) 0 0x0A0A0A0A0A0A0A0A
    else if 0x40 ≤ j ∧ j < 0x80 ∧ j % 8 = 0 then spec64 (mk 52 0 ||| m1 63) 0 0
    else none
  else if o < 0x3800 then
    let j := o % 0x80
    if j = 0x00 then spec64 (mk 47 20) (m1 63) 0
    else if j = 0x08 then spec32 (mk 20 0) 0 0x2200
    else if j = 0x10 then spec32 (mk 31 0) 0 0
    else if j = 0x18 then spec64 0 0 0
    else if j = 0x20 then spec64 0 0 0
    else if j = 0x28 then spec64 0 (m1 32) 0
    else if j = 0x30 then spec64 0 0 0
    else if j = 0x38 then spec64 0 (m1 63) 0
    else none
  else if o < 0x5000 then
    match o with
    | 0x4000 => spec32 (mk 31 0) 0 0
    | 0x4800 => spec32 (mk 19 0) 0 0
    | 0x4808 => spec64 0 0 0
    | 0x4810 => spec32 0 0 0
    | 0x4818 => spec32 (m1 0 ||| mk 15 8) 0 0x0801
    | _ => if 0x4040 ≤ o ∧ o < 0x4080 ∧ o % 8 = 0 then spec64 0 0 0 else none
  else if o < 0x5400 then
    if o % 16 = 0 then spec32 (mk 20 0) (m1 21) 0
    else if o % 16 = 8 then spec64 (mk 63 0) 0 0
    else none
  else none

/-- Registers of the Shaonen Link block (Table 11.18). The reset values of the port states are 0
(Table 11.20). -/
def shlSpec (o : Nat) : Option RegSpec :=
  match o with
  | 0x00 => spec64 0 0 0
  | 0x08 => spec64 0 0 0
  | 0x10 => spec32 (mk 3 0) 0 0xF
  | 0x40 => spec64 0 (m1 63) 0
  | _ =>
    if 0x100 ≤ o ∧ o < 0x200 ∧ o % 16 = 0 then spec64 (mk 46 12 ||| m1 63) 0 0
    else if 0x100 ≤ o ∧ o < 0x200 ∧ o % 16 = 8 then spec64 (mk 50 0) (m1 63) 0
    else none

/-- Registers of the security block (Table 13.16). SEC_STATE.LIFECYCLE, SEC_ID.SERIAL, SEC_SVN and
SEC_KSLOT are views of the fuses. The mailbox, measurement and log windows are 64-bit words. -/
def secSpec (o : Nat) : Option RegSpec :=
  match o with
  | 0x00 => spec64 0 0 0
  | 0x08 => spec64 (m1 10) 0 0
  | 0x10 => spec64 0 0 0
  | 0x18 => spec32 0 0 0
  | 0x20 => spec64 0 0 0
  | 0x28 => spec64 0 0 0
  | 0x30 => spec64 0 0 0
  | 0x38 => spec64 0 0 0
  | 0x40 => spec64 (mk 18 2) (m1 20) 0
  | 0x50 => spec64 (mk 46 12) 0 0
  | 0x58 => spec32 0 (m1 2) 0
  | _ =>
    if o % 8 ≠ 0 then none
    else if 0x100 ≤ o ∧ o < 0x200 then spec64 0 0 0
    else if 0x1000 ≤ o ∧ o < 0x2000 then spec64 (mk 63 0) 0 0
    else if 0x2000 ≤ o ∧ o < 0x4000 then spec64 0 0 0
    else if 0x8000 ≤ o ∧ o < 0x9000 then specFw 0
    else none

/-- Registers of the power block (Tables 14.14, 15.13, 16.14). CLU_POWERED follows the clusters
that are powered; the other reset values are those of the tables. -/
def pwrSpec (o : Nat) : Option RegSpec :=
  match o with
  | 0x00 => spec64 0 0 2
  | 0x08 => spec32 (m1 9) (m1 8) 0x200
  | 0x10 => spec32 (mk 10 2) (m1 12) 0
  | 0x18 => spec32 0 (m1 11) 0
  | 0x20 => spec64 0 0 0
  | 0x28 => spec32 0 (mk 1 0) 0
  | 0x30 => spec32 (mk 6 0) 0 0
  | 0x38 => spec32 0 0 0
  | 0x40 => spec32 0 0 0
  | 0x48 => spec32 0 (m1 8) 0
  | 0x80 => spec32 (m1 0) (m1 3) 0
  | 0x88 => spec64 (mk 47 0) 0 0
  | 0x90 => spec64 0 0 0
  | 0xA0 => spec32 0 0 0
  | _ => none

/-- Registers of a cluster block (Tables 2.6, 3.8, 4.8, 5.11, 6.7). -/
def cluSpec (o : Nat) : Option RegSpec :=
  match o with
  | 0x200 => spec32 0 0 0
  | 0x208 => spec32 0 0 0
  | 0x210 => spec32 0 0 0
  | 0x220 => spec64 0 0 0
  | 0x228 => spec64 0 0 0
  | 0x230 => spec64 0 0 0
  | 0x240 => spec32 (mk 23 0) 0 0x186A0
  | 0x500 => spec64 (mk 47 0) (m1 63) 0x20
  | 0x508 => spec64 (mk 39 0) (m1 63) 0x10
  | 0x550 => spec64 0 0 0
  | 0x558 => spec64 0 0 0
  | 0x560 => spec64 0 (m1 63) 0
  | 0x630 => spec32 0 0 0
  | 0x700 => spec64 (mk 47 6) (m1 63) 0
  | 0x708 => spec64 (mk 63 0) 0 0
  | 0x710 => spec64 (mk 63 0) 0 0
  | 0x718 => spec64 (mk 47 6) (m1 63) 0
  | 0x720 => spec64 (mk 31 0) (m1 63) 0
  | 0x730 => spec32 (mk 14 0) 0 0
  | 0x738 => spec64 0 0 0
  | _ =>
    if 0x300 ≤ o ∧ o < 0x400 ∧ o % 4 = 0 then spec32 0 0 0
    else if 0x400 ≤ o ∧ o < 0x430 ∧ o % 16 = 0 then spec64 0 (mk 1 0) 0
    else if 0x400 ≤ o ∧ o < 0x430 ∧ o % 16 = 8 then spec64 0 0 0
    else if 0x510 ≤ o ∧ o < 0x550 ∧ o % 8 = 0 then spec64 (mk 13 0 ||| mk 29 16) (m1 63) 0
    else if 0x600 ≤ o ∧ o < 0x630 ∧ o % 16 = 0 then spec64 0 (m1 0) 0
    else if 0x600 ≤ o ∧ o < 0x630 ∧ o % 16 = 8 then spec64 0 0 0
    else none

/-- DIE_IDENT after discovery: die number, column, row, latched (Table 9.10). -/
def dieIdent (d : Nat) : Word := put d 0 ||| put (d / 4) 4 ||| put (d % 4) 5 ||| put 1 7

/-- DIE_EDGE_STAT of a fully working die: 8 modules per edge it has (Table 9.10, R26). -/
def edgeStatFull (d : Nat) : Word :=
  put 8 0 ||| put (if d % 4 = 0 then 0 else 8) 4 ||| put (if d % 4 = 3 then 0 else 8) 8

/-- Registers of a die (Tables 7.14, 9.9). -/
def dieSpec (o : Nat) : Option RegSpec :=
  match o with
  | 0x100 => spec64 (mk 47 0) (m1 63) 0
  | 0x108 => spec64 (mk 11 0 ||| mk 27 16) (m1 63) 0
  | 0x110 => spec32 (mk 8 0) 0 0x118
  | 0x120 => spec64 0 (m1 63) 0
  | 0x128 => spec64 0 0 0
  | 0x180 => specFw 0
  | 0x188 => specFw 0
  | 0x200 => spec32 0 0 0xF
  | 0x208 => spec32 0 0 0
  | 0x280 => specFw 0
  | _ => none

/-- Registers of an Accord block (Table 10.23). -/
def accSpec (o : Nat) : Option RegSpec :=
  if o < 0x80 ∧ o % 8 = 0 then spec64 (mk 47 6 ||| mk 56 48) (m1 63) 0
  else if 0x180 ≤ o ∧ o < 0x200 ∧ o % 8 = 0 then
    spec64 (mk 8 0 ||| mk 31 16) (m1 63) 0x10000
  else
    match o with
    | 0x100 => spec32 (mk 13 2) (m1 15) 0
    | 0x108 => spec64 0 (m1 63) 0
    | 0x200 => spec64 0 0 0
    | 0x208 => spec64 0 (m1 63) 0
    | 0x210 => spec64 0 0 0
    | _ => none

/-- Registers of a link block (Table 10.18). -/
def lnkSpec (o : Nat) : Option RegSpec :=
  match o with
  | 0x000 => spec32 (mk 8 0) (m1 10) 0x7F
  | 0x008 => spec64 0 0 0
  | 0x010 => spec64 0 0 0x407FFFFF
  | 0x018 => spec64 0 0 0
  | 0x020 => spec64 0 0 0
  | 0x028 => spec32 0 (mk 2 0) 0
  | 0x100 => specFw 0
  | 0x108 => specFw 0
  | _ => none

/-- Registers of an Atomizer block (Table 8.18). -/
def atzSpec (o : Nat) : Option RegSpec :=
  if o = 0 then spec32 0 0 0xF01
  else if o = 8 then spec32 0 0 0x101
  else if o < 0x1000 ∨ 0x2000 ≤ o then none
  else
    match o % 0x100 with
    | 0x00 => spec64 (mk 47 6) 0 0
    | 0x08 => spec32 0 (m1 10) 0
    | 0x10 => spec32 (mk 31 0) 0 0
    | 0x18 => spec32 0 0 0
    | 0x20 => spec64 0 0 0
    | 0x28 => spec64 0 0 0
    | 0x30 => spec32 0 0 0
    | 0x38 => spec64 0 (m1 63) 0
    | _ => none

/-- The register at an address, if the address names one (Table 7.2). -/
def regSpec (a : Nat) : Option RegSpec :=
  let o := a - 0x200000000000
  if a < 0x200000000000 then none
  else if o < 0x10000 then hubSpec o
  else if o < 0x20000 then shlSpec (o - 0x10000)
  else if o < 0x30000 then secSpec (o - 0x20000)
  else if o < 0x40000 then pwrSpec (o - 0x30000)
  else if o < 0x100000 then none
  else if o < 0x300000 then cluSpec (o % 0x10000)
  else if o < 0x380000 then dieSpec (o % 0x10000)
  else if o < 0x400000 then none
  else if o < 0x480000 then accSpec (o % 0x10000)
  else if o < 0x500000 then none
  else if o < 0x530000 then lnkSpec (o % 0x1000)
  else if o < 0x600000 then none
  else if o < 0x800000 then atzSpec (o % 0x100000)
  else none

/-- The reset value of a register; 0 where the address names none. -/
def regDefault (a : Nat) : Word :=
  match regSpec a with
  | some r => r.reset
  | none => 0

end Sys2Proof.Machine
end

