-- ==== Sys2Proof/Machine/State.lean ====
section
/-! DEFINITION. The state of the ZT8 block as plain data. Registers of the register space live in
one sparse map keyed by address (RegMap.lean gives widths, access and reset values); the rest is
what the manual gives the machine beside its registers. -/

namespace Sys2Proof.Machine

/-! ### Memory -/

/-- Checksum entry of one 4 KiB block (Table 7.9). PTAG_STREAM 3 and PTAG_AGENT 0 mean empty. -/
structure Entry where
  lstate : BitVec 128
  crc    : BitVec 32
  tag    : Tag
  deriving DecidableEq, Repr

/-- A 64-byte HBM line that a slice holds in a cache way (R296): its line number, way, and whether it is
dirty. The bytes of the address are those that every agent sees, so a line has no second copy here. -/
structure CLine where
  line  : Nat
  way   : Nat
  dirty : Bool
  deriving DecidableEq, Repr

/-! ### Streams -/

/-- STATE of a stream (Table 3.9). -/
inductive RunSt where
  | ended | issuing | waiting | faulted
  deriving DecidableEq, Repr

/-- What a waiting stream waits for (R138, Table 3.9): a counter at or past a threshold, a batch of
an intake ring (PULL), or the fence of an update (R273). -/
inductive Wait where
  | none
  | counter (c : Nat) (thr : BitVec 32)
  | intake (site ring : Nat)
  | fence (group : Nat)
  deriving DecidableEq, Repr

/-- Where the accumulators of an open tile lie: in a unit of the core's accumulator memory (R166), in a
spill slot of its core store (R169), or past the core: at the output, with Accord, or at an edge engine. -/
inductive AccHome where
  | unit | spill | out
  deriving DecidableEq, Repr

/-- The accumulators of an open tile: the package core, their home and its number there. `words` holds,
beside FP32 values in a unit or slot, whether a NaN or an infinite operand entered each (R644); past the
core, the accumulator words themselves. -/
structure AccTile where
  core  : Nat
  home  : AccHome
  slot  : Nat
  words : List Nat
  deriving DecidableEq, Repr

/-- No accumulators. -/
def AccTile.none_ : AccTile := ⟨0, .out, 0, []⟩

/-- An issued instruction that has not completed (R105, R110, R115): its word, the descriptors
TDA, TDB, TDC, TDD and scalars sA, sB captured at issue, its tile progress, whether it passed its fence, the fabric time of its
issue, and the accumulators of its open tiles. `granted` lists the items granted so far. -/
structure InFlight where
  iseq   : BitVec 32
  pc     : Nat
  w      : InstrWord
  tds    : List DescWord
  sa     : Word
  sb     : Word
  aux    : List Nat
  nTiles : Nat
  granted : List Nat
  claims : List (Nat × Nat)
  done   : List Nat
  bad    : List Nat
  seen   : List Nat
  nf     : Bool
  sat    : Bool
  passed : Bool
  t0     : Nat
  accs   : SMap AccTile
  deriving DecidableEq, Repr

/-- A stream (R105, R106, R112): program counter, scalar registers, issue count, program window,
instruction buffer (block number and its 64 words, most recently used first), instructions in
flight (oldest first), whether it is held at a comparator group end (R516), its fault record
(Table 3.10), the fabric time at which its wait began, and the instructions of the comparator group
under way that wrote a TDC: ISEQ, OP, descriptor (R516). -/
structure Stream where
  st    : RunSt
  wait  : Wait
  pc    : Nat
  iseq  : BitVec 32
  pbase : Nat
  plen  : Nat
  regs  : SMap Word
  ibuf  : List (Nat × List InstrWord)
  infl  : List InFlight
  hold  : Bool
  fault : Word
  since : Nat
  wrote : List (Nat × Nat × DescWord)
  deriving DecidableEq, Repr

/-- Fence fields and counts of one parameter group in one context (R252, R270). -/
structure FenceG where
  fence  : Bool
  vstage : Nat
  nmb    : Nat
  wq     : Nat
  wqt    : Nat
  g      : Nat
  rc     : Nat
  rel    : Nat
  lock   : Bool
  deriving DecidableEq, Repr

/-- A context of a partition (R105, R111, R236, R270, R487); `saved` while its state lies in its save area (R486). -/
structure Ctx where
  td      : SMap DescWord
  bc      : SMap Half
  pend    : SMap Half
  sF      : Stream
  sB      : Stream
  sU      : Stream
  started : Bool
  fault   : Nat
  job     : Option Nat
  tslot   : List (Nat × List Byte)
  fences  : List (Nat × FenceG)
  saved   : Bool
  deriving DecidableEq, Repr

/-- Least capture key of one kind in a flag record: ISEQ, TILE, ROW, COL, and the cause of a
non-finite element (R89, R644). -/
structure FlagKey where
  iseq  : Nat
  tile  : Nat
  row   : Nat
  col   : Nat
  cause : Nat
  deriving DecidableEq, Repr

/-- Arithmetic flag record of one stream in one cluster: the least key of each kind, none while its
flag bit is clear (R89, R92). CLU_AFLAG and CLU_AFLAG_POS are its views. -/
structure FlagRec where
  nf  : Option FlagKey
  sat : Option FlagKey
  deriving DecidableEq, Repr

/-! ### What the block sends -/

/-- A message that leaves the block, in the order sent: a die-protocol message (Table 9.3), a
Shaonen message (Table 11.4), a flit of a type on a link (Table 10.3), a training action on a link, an Accord
message (Table 10.15) on a link, which the data flits after it carry, a response on a management interface, the
JTAG data captured. -/
inductive OutMsg where
  | die (ty : Nat) (h : DieHdr) (data : List Nat)
  | shl (port ty ch tag addr : Nat) (pois refused : Bool) (data : List Byte)
  | flit (l ty : Nat) (f : Flit)
  | link (l kind : Nat) (data : List Nat)
  | accord (l mtype : Nat) (h : AccHdr) (data : List Nat)
  | mgmt (kind : Nat) (data : List Nat)
  | spdm (port : SpdmPort) (code : Nat) (data : List Nat)
  | jtag (data : Word)
  deriving DecidableEq, Repr

/-! ### Hub: events, host lines, jobs -/

/-- An event or error record before it has a SEQ (Table 11.11). -/
structure EvRec where
  code : Nat
  cls  : Nat
  die  : Nat
  part : Option Nat
  ctx  : Nat
  pay  : List Word
  deriving DecidableEq, Repr

/-- State of a host line in the hub's coherent cache (Table 11.5); Invalid lines are not listed. -/
inductive LineSt where
  | modified | exclusive | shared
  deriving DecidableEq, Repr

/-- A host line that the hub holds: line number (host address div 64), data, pinned as a watch. -/
structure HostLine where
  line   : Nat
  st     : LineSt
  data   : List Byte
  pinned : Bool
  deriving DecidableEq, Repr

/-- A request of the hub to the host that awaits its response (Table 11.4); on port 2, one that is not sent yet: no
port is UP, or no tag is free there (R460 to R462). -/
structure HostReq where
  port : Nat
  tag  : Nat
  ty   : Nat
  line : Nat
  data : List Byte
  deriving DecidableEq, Repr

/-- A write of the device to host memory that waits for its line, in order; of a status word, the
record that it belongs to; of a die or a guest, the request that its last byte acknowledges. -/
structure HostWr where
  addr : Nat
  data : List Byte
  job  : Option Nat
  req  : Option DieHdr
  deriving DecidableEq, Repr

/-- STATE of a job (Table 11.9). -/
inductive JobSt where
  | queued | running | partial_
  deriving DecidableEq, Repr

/-- A job that the engine has taken and that is not final (R471, R473): its record index, the 16
words as read, state and progress, whether its record has passed its checks, whether a replay started
it (its status then stays inside, R514), and the clusters that a BIST found failing. -/
structure Job where
  idx      : Nat
  words    : List Word
  st       : JobSt
  progress : Nat
  checked  : Bool
  replay   : Bool
  failed   : Bool
  deriving DecidableEq, Repr

/-- A replay in progress (R513 to R517): its job, partition, record array and reference array, first and
next record and end of the span, steps, comparator group size, STOP, the records that the replayed work
has produced and that are not compared yet, and whether it has diverged. -/
structure Replay where
  idx      : Nat
  part     : Nat
  src      : Nat
  first    : Nat
  next     : Nat
  stop     : Nat
  from_    : Nat
  to_      : Nat
  refBase  : Nat
  refCount : Nat
  every    : Nat
  stopDiv  : Bool
  seen     : List (List Word)
  diverged : Bool
  deriving DecidableEq, Repr

/-- A statistics counter (R602). -/
structure Cnt where
  val : Word
  ovf : Bool
  deriving DecidableEq, Repr

/-- State of the hub beside its registers: event records held, host lines cached, requests to the host,
waiting host writes, jobs, counters, COUNT of record codes, the flash error log with its number of
entries, last times and withheld counts, first halves of split 64-bit writes, re-armed threshold
slots, sites whose Atomizer stays out of service after a third fault, whether the host link is lost,
the replay in progress, and the object of the FLASH job in progress. -/
structure Hub where
  held    : List EvRec
  hlines  : List HostLine
  hreqs   : List HostReq
  hwrites : List HostWr
  jobs    : List Job
  cnts    : SMap Cnt
  recs    : SMap Nat
  elog    : SMap (List Word)
  elogN   : Nat
  elogAt  : SMap Nat
  elogCut : SMap Nat
  half    : SMap Half
  rearm   : List Nat
  dead    : List Nat
  lost    : Bool
  rep     : Option Replay
  obj     : List Byte
  deriving DecidableEq, Repr

/-! ### Partitions -/

/-- A partition beside its registers (R485, R487): the scheduled context, the one scheduled last,
and whether a pre-emption or a disable is draining its tiles. `cause` is the ERR code that the
draining disable gives to the partition's jobs; `leave` marks a cluster that left service. Of the
Sillage recorder: first record of each step still held, records lost since the last LOST record,
and the step whose loss event 0x0601 has reported (R508, R512). -/
structure Part where
  sched    : Option Nat
  last     : Option Nat
  draining : Bool
  cause    : Nat
  leave    : Bool
  slgSteps : List (Nat × Nat)
  slgLost  : Nat
  slgEvt   : Option Nat
  deriving DecidableEq, Repr

/-! ### Links and Accord -/

/-- A data flit that an end keeps for replay (R410): SEQ and payload granules; and whose data it carries: the die
of the Accord unit that sent them (none: they acknowledge nothing here), partition, GID and OPSEQ. -/
structure TxFlit where
  seq   : Nat
  pay   : List Nat
  unit  : Option Nat
  part  : Nat
  gid   : Nat
  opseq : Nat
  deriving DecidableEq, Repr

/-- State of a module link beside its registers: step of training reached; LNK_CTL as the training took it (R447);
the rate at which failures count, failures in a row at it, rates removed, and whether none was left (R415); last
data flit received in order and last acknowledged; whether NAK is owed, and whether data flits are discarded until
a replay (R410); consecutive missed windows (R417); working lanes; credits returned; identical base pages, whether
the own ones are acknowledged (R414), and whether a keepalive of step 6 was sent and came; next SEQ and the last
1,024 data flits (R410). -/
structure Lnk where
  step  : Nat
  ctl   : Word
  rate  : Nat
  fails : Nat
  gone  : Nat
  dead  : Bool
  rxSeq : Nat
  ackRx : Nat
  nak   : Bool
  gap   : Bool
  miss  : Nat
  lanes : Nat
  crdD  : Nat
  crdC  : Nat
  pages : Nat
  page  : Nat
  acked : Bool
  kaOut : Bool
  kaIn  : Bool
  txSeq : Nat
  sent  : List TxFlit
  deriving DecidableEq, Repr

/-- An Accord message that waits for the collective it belongs to. -/
structure AccMsg where
  ty   : Nat
  h    : AccHdr
  data : List Nat
  dig  : Option CollDigest
  deriving DecidableEq, Repr

/-- What a collective has done so far, each step once: windows granted and computed, inputs and
partial sums sent, the own shard final, shards sent and written, DONE and norm records sent, norm
records added. -/
inductive CollAct where
  | hdr
  | grant (w : Nat)
  | window (w : Nat)
  | input (dst w : Nat)
  | partial_ (shard : Nat)
  | final
  | sendShard (dst shard : Nat)
  | writeShard (shard : Nat)
  | done_ (dst : Nat)
  | nrec
  | norm
  deriving DecidableEq, Repr

/-- A collective in flight on this part (R428 to R431): the instruction it belongs to, its group,
rank and number, the sources whose HDR has come, the bytes received (source times 2^48 plus offset; the byte plus 1,
plus 512 where poisoned), the windows that owners granted, its progress, the own shard of an AR with what is poisoned
in it, the norm records received, the sources that are done, and granules sent and not acknowledged, by link or,
from 64 on, by partition of this module. -/
structure Coll where
  part   : Nat
  ctx    : Nat
  strm   : Nat
  iseq   : BitVec 32
  op     : Nat
  grp    : Nat
  gid    : Nat
  n      : Nat
  my     : Nat
  canon  : Bool
  opseq  : Nat
  peer   : Nat
  tag    : Nat
  norm   : Bool
  hdrs   : List Nat
  rx     : SMap Nat
  grants : List (Nat × Nat)
  did    : List CollAct
  own    : List (Nat × Bool)
  nrecs  : SMap Nat
  done   : List Nat
  owed   : SMap Nat
  deriving DecidableEq, Repr

/-- A held fingerprint of a replica check (R442): the rank's own, or the predecessor's. -/
structure FpRec where
  part  : Nat
  own   : Bool
  rank  : Nat
  tid   : Nat
  gstep : Nat
  fp    : Word
  crcs  : List Half
  deriving DecidableEq, Repr

/-- State of Accord beside its registers: collectives in flight, messages that wait, lap 1 of group
activations held (partition × 256 + group), fingerprints held, mismatches with the predecessor's block CRCs come so
far, own block CRCs of the last check of each tensor; of the ACCD streams, by source and destination die: bytes
received, granules credited and sent, and messages that wait for a credit. -/
structure AccSt where
  colls  : List Coll
  early  : List AccMsg
  laps   : List (Nat × AccHdr × MemberMsg)
  held   : List FpRec
  wrong  : List (FpRec × List Half)
  last   : List FpRec
  inbuf  : SMap (List Byte)
  credit : SMap Nat
  sent   : SMap Nat
  hold   : List (DieHdr × Nat)
  deriving DecidableEq, Repr

/-! ### Hardware queues and the intake pipelines -/

/-- An entry of a hardware queue (R310): payload words 0 to 6, POISON bits, SEQ. -/
structure QEntry where
  words : List Word
  pois  : Nat
  seq   : Half
  deriving DecidableEq, Repr

/-- A hardware queue (Table 7.12, R311): class, middle (SPILL_BASE, DEPTH), TAIL_TMO, the 16-entry
tail and head, entries read from and written to the middle since the configuration, and next SEQ. -/
structure Queue where
  cls   : Nat
  base  : Nat
  depth : Nat
  tmo   : Nat
  tail  : List QEntry
  mrd   : Nat
  mwr   : Nat
  head  : List QEntry
  seq   : Half
  deriving DecidableEq, Repr

/-- Stage of a position that has begun: its sample is admitted and decoding, has failed and waits for
its reserve entry, has a replacement that has not begun, is prepared, or is dropped. -/
inductive Stage where
  | decoding | failed | assigned | ready | dropped
  deriving DecidableEq, Repr

/-- The sample of one position (R330, R331, R348, R356, R360): where its bytes lie, identity, label,
stage, failures, and what preparation made of it: bucket key, VALID, ORIG, TRUNC, UTF8_FIXED, element
codes. `units` is its work budget; STREAM, CAPTURE_NS and the fabric time it took its position are of
live frames. -/
structure Sample where
  pos   : Nat
  shard : Nat
  idx   : Nat
  addr  : Nat
  size  : Nat
  codec : Nat
  crc   : Option Half
  sid   : Nat
  label : Nat
  epoch : Nat
  stage : Stage
  fails : Nat
  first : Nat
  cause : Nat
  units : Nat
  key   : Nat
  valid : Nat
  orig  : Nat
  trunc : Bool
  fixed : Bool
  strm  : Nat
  capt  : Nat
  took  : Nat
  data  : List Nat
  deriving DecidableEq, Repr

/-- Samples of one submission entry that have positions (R331): first position, count, shard, first
index entry, epoch, and whether they are permuted. -/
structure Sub where
  p0      : Nat
  count   : Nat
  shard   : Nat
  first   : Nat
  epoch   : Nat
  shuffle : Bool
  deriving DecidableEq, Repr

/-- A batch that is closed (R353, R354): bucket, members ascending, END marker, PARTIAL, EPOCH, first
and closing position. -/
structure Batch where
  bucket  : Nat
  members : List Sample
  marker  : Bool
  part    : Bool
  epoch   : Nat
  first   : Nat
  close   : Nat
  deriving DecidableEq, Repr

/-- A pipeline beside its registers: the descriptor's words and the vocabulary as START read them,
positions given, samples begun, positions at which an EOD entry stands, members of each open bucket,
closed batches in emission order, published batches not yet pulled, entries pushed, the entry the
consumer holds, batches pulled and released, alarms, live decisions of a replay, and the words of the
INTAKE_FAIL records since START. -/
structure Pipe where
  desc    : List Word
  vocab   : List Byte
  subs    : List Sub
  nextPos : Nat
  samples : List Sample
  eods    : List Nat
  members : SMap (List Sample)
  closed  : List Batch
  ready   : List Batch
  pushed  : Nat
  taken   : Option QEntry
  pulled  : Nat
  freed   : Nat
  armed   : Bool
  warned  : Bool
  live    : List (List Word)
  fails   : List (List Word)
  deriving DecidableEq, Repr

/-! ### The PTP time base (R632 to R635) -/

/-- The time base: target and previous count at the last accepted edge, always-on cycle of that edge,
P in nominal ns, edges accepted (2 stands for two or more), and whether the next edge is the first
since EN was set. -/
structure Ptp where
  target : Nat
  was    : Nat
  at_    : Nat
  per    : Nat
  edges  : Nat
  first  : Bool
  deriving DecidableEq, Repr

/-! ### Power, reset and repair -/

/-- Where the module stands (Tables 14.4, 14.9, 15.5): unpowered; MOD_RST_N asserted or a reset under
way; the ROM in recovery; MOD_READY asserted; held after a fatal error; Drydown. -/
inductive Phase where
  | off | reset | recovery | up | halted | drydown
  deriving DecidableEq, Repr

/-- A core fault whose handling waits for the end of its cluster's reset: cluster, physical core, CAUSE
(R608). -/
structure CoreFault where
  clu   : Nat
  core  : Nat
  cause : Nat
  deriving DecidableEq, Repr

/-- Power and reset beside the PWR_ registers: the phase, whether the reset under way follows a fatal
error (R595), the cause that the trip latch holds (0 none), each sensor's last reading (code, VALID in
bit 12), clusters at 720 MHz, clusters in reset, core faults that wait for a second reset, package cores that met an uncorrectable store word since their cluster's last reset, partitions under reset, the
command of PWR_RST_CTL in progress (CMD and its cluster or partition; 0 none), cause of the hub restart
in progress and times of the restarts, and the payload of event 0x0802 while it is owed. -/
structure Mod where
  phase   : Phase
  auto    : Bool
  latch   : Nat
  sensors : SMap Nat
  slow    : List Nat
  crst    : List Nat
  again   : List CoreFault
  coreErr : List Nat
  prst    : List Nat
  cmd     : Nat × Nat
  hubFor  : Nat
  hubAt   : List Nat
  wake    : Option (List Word)
  deriving DecidableEq, Repr

/-- A copy of the repair record (Table 15.8): GEN, the words of clusters, and the words in use of row
repairs, retired pages, lane repairs and shared-store row repairs. -/
structure Repair where
  gen    : Nat
  clus   : SMap Word
  rows   : List Nat
  pages  : List Nat
  lanes  : List Nat
  ssRows : List Nat
  deriving DecidableEq, Repr

/-! ### The fabric between dies -/

/-- An outstanding request of a die (R374): its header and type, the reader's tag, read data, whether
they came POISONED, and whether it is the re-fetch (R304). -/
structure DieReq where
  ty   : Nat
  h    : DieHdr
  tag  : Tag
  data : Option (BitVec 512)
  pois : Bool
  again : Bool
  deriving DecidableEq, Repr

/-- A guest's read or write at the firewall. -/
structure GuestMsg where
  ty   : Nat
  h    : DieHdr
  mask : BitVec 64
  data : BitVec 512
  deriving DecidableEq, Repr

/-- A guest site beside its HUB_FW registers (R389 to R394): FLAGS of the matched entry, bytes taken
from the read and the write bucket and not refilled, messages that wait for tokens, accesses to the
host that wait for their line, and EVT messages discarded since the last accepted one. -/
structure GSite where
  flags : Nat
  rdUse : Nat
  wrUse : Nat
  waits : List GuestMsg
  outs  : List GuestMsg
  lost  : Nat
  deriving DecidableEq, Repr

/-- The fabric and the memory controllers beside their registers: whether a start of HUB_MEMINIT is under
way, dies that a hub restart put out of service, outstanding requests, accesses of dies to the host that wait for their line, requests
that wait for room in their die's pool (R42), messages in flight per VC and logical link and messages that wait for a
credit (R377), the input edge served last per VC and link (R376), numbers that
dies have acknowledged, corrected errors counted per DRAM row (R599), rows under soft repair and rows
repaired since the last reset, uncorrectable words per SRAM row, modules (edge × 8 + module: 1 in
retraining, 2 out of service), redundant lanes in use per module, times of the flit replays of each module
within the last millisecond (R379), guest sites, sites whose rail is off (R389), and both copies of the
repair record. -/
structure Fab where
  init   : Bool
  gone   : List Nat
  reqs   : List DieReq
  hostq  : List DieReq
  waits  : List Instr
  credit : SMap Nat
  held   : List OutMsg
  turn   : SMap Nat
  acked  : SMap Nat
  rows   : SMap Nat
  fixing : List Nat
  soft   : List Nat
  sram   : SMap Nat
  mods   : SMap Nat
  lanes  : SMap Nat
  replays : SMap (List Nat)
  sites  : SMap GSite
  rails  : List Nat
  repA   : Option Repair
  repB   : Option Repair
  deriving DecidableEq, Repr

/-! ### Trust, debug and management -/

/-- A debug session (R546 to R549): level, port (1 mailbox, 2 JTAG), FLAGS, the first 20 bytes of the
token's SHA-256, DURATION, whether it opens without scrub, and whether its DURATION has expired before it
opened. -/
structure Session where
  level : Nat
  port  : Nat
  flags : Nat
  tok   : List Byte
  dur   : Nat
  keep  : Bool
  late  : Bool
  deriving DecidableEq, Repr

/-- The fuses that commands and boot blow (Table 13.1): LIFECYCLE, UDS_KILL, the slots in the layout
of SEC_KSLOT, the hashes of slots programmed in the field, and the version counters of TYPE 1 to 4. -/
structure Fuses where
  life : Nat
  kill : Bool
  slot : BitVec 32
  hash : SMap Digest
  svn  : SMap Nat
  deriving DecidableEq, Repr

/-- The security controller beside its registers: fuses, image slots written in the field (none:
erased), M0 to M7, the measurement log, the current nonce, the open session, a session that waits for a
FLASH job or a scrub, halted contexts (partition × 8 + context), SPDM connection states, the object of a
recovery load, of the TAP its instruction, word pointer and boundary register, and the provisioning block erased. -/
structure Sec where
  fuses : Fuses
  flash : SMap (Option (List Byte))
  meas  : SMap Digest
  log   : List (List Byte)
  nonce : Option (List Byte)
  sess  : Option Session
  next  : Option Session
  halted : List Nat
  spdm  : SMap Nat
  load  : List Byte
  ir    : Nat
  ptr   : Nat
  pins  : Word
  erased : Bool
  deriving DecidableEq, Repr

/-- The management endpoints (R624 to R627): dynamic addresses by target (0 MCTP, 1 and 2 register
targets; 0 none), in-band interrupts enabled, and the endpoint ID. -/
structure Mgmt where
  dyn : SMap Nat
  ibi : Bool
  eid : Nat
  deriving DecidableEq, Repr

/-! ### The whole machine -/

/-- The machine: all that the manual gives it, the commands that wait, and what it has sent. `cache` lists the lines
that each slice (die × 64 + slice) holds in cache ways, most recently used first; `cstore` and `accm` are the core
stores and accumulator memories, by package core. -/
structure State where
  pending : List Instr
  regs    : SMap Word
  mem     : SMap Byte
  ent     : SMap Entry
  cache   : SMap (List CLine)
  cstore  : SMap Byte
  accm    : SMap Byte
  ctxs    : SMap Ctx
  parts   : SMap Part
  trace   : SMap (List Nat)
  flags   : SMap FlagRec
  ringOwn : SMap (Option Nat)
  hub     : Hub
  acc     : AccSt
  lnks    : SMap Lnk
  queues  : SMap Queue
  pipes   : SMap Pipe
  ptp     : Ptp
  mod     : Mod
  fabr    : Fab
  sec     : Sec
  mgmt    : Mgmt
  out     : List OutMsg
  clk     : Nat
  fab     : Nat
  fresh   : Nat
  deriving DecidableEq, Repr

/-- The hub's own state at reset: nothing held, cached, asked for or counted. -/
def Hub.reset : Hub := ⟨[], [], [], [], [], [], [], [], 0, [], [], [], [], [], false, none, []⟩

/-- Accord at reset: nothing in flight or held. -/
def AccSt.reset : AccSt := ⟨[], [], [], [], [], [], [], [], [], []⟩

/-- The time base before an edge: count 0, P 10^9 (R634). -/
def Ptp.reset : Ptp := ⟨0, 0, 0, 1000000000, 0, true⟩

/-- A module that has powered up and asserts MOD_READY. -/
def Mod.reset : Mod := ⟨.up, false, 0, [], [], [], [], [], [], (0, 0), 0, [], none⟩

/-- A repair record that firmware has begun: GEN 1, no repair (R597). -/
def Repair.fresh : Repair := ⟨1, [], [], [], [], []⟩

/-- The fabric of a full module with an empty repair record. -/
def Fab.reset : Fab :=
  ⟨false, [], [], [], [], [], [], [], [], [], [], [], [], [], [], [], [], [], some .fresh, none⟩

/-- Fuses of a provisioned module: Cujor slots 0 and 1 programmed for every usage, no counter
advanced. -/
def Fuses.reset : Fuses := ⟨1, false, 0x0000FDFD, [], []⟩

/-- The security controller after a reset, nothing measured yet (R534). -/
def Sec.reset : Sec := ⟨.reset, [], [], [], none, none, none, [], [], [], 1, 0, 0, false⟩

/-- The management endpoints without dynamic addresses or endpoint ID. -/
def Mgmt.reset : Mgmt := ⟨[], false, 0⟩

/-- What discovery of a fully fitted module leaves in registers that a reset clears: modules in service
(Table 9.11), and each die's number and edges (Table 9.10). -/
def discoveredRegs : SMap Word :=
  (rFabStat, 0x4488888888) :: (List.range 8).flatMap fun d => [(rDieIdent d, dieIdent d), (rEdgeStat d, edgeStatFull d)]

/-- The machine at the end of a cold power-up of a fully fitted module: every register at its reset
value but for what discovery has found, memory unwritten, nothing running, nothing sent. -/
def State.reset : State := ⟨[], discoveredRegs, [], [], [], [], [], [], [], [], [], [], Hub.reset, .reset, [], [], [],
  .reset, .reset, { Fab.reset with acked := (List.range 8).map fun d => (d, d + 1) }, .reset, .reset, [], 0, 0, 0⟩

/-- Reasons for a stop with a fault. -/
inductive Fault where
  /-- A command to which the manual gives no effect. Raised by no command: each has its effect, or changes
  nothing where what it reports cannot happen. Safe: the model would stop. -/
  | noEffectGiven (row : String)
  deriving DecidableEq, Repr

/-- Reasons for a refusal. -/
inductive Refusal where
  /-- Raised by an arm of `exec` whose command has no meaning; no arm is left. Safe: the model stops. -/
  | notModelled (mnemonic : String)
  deriving DecidableEq, Repr

end Sys2Proof.Machine
end

