-- ==== Sys2Proof/Machine/Ops.lean ====
section
/-! DEFINITION. The named operations over registers, events, counters, host lines and device
memory. Every meaning reads and writes State through these. -/

namespace Sys2Proof.Machine

/-! ### Registers -/

/-- The stored value of a register. -/
def State.reg (s : State) (a : Nat) : Word := smGet (regDefault a) s.regs a

/-- The state with register `a` holding `v`. -/
def State.setReg (s : State) (a : Nat) (v : Word) : State :=
  { s with regs := smSet (regDefault a) s.regs a v }

/-- The state with field `[hi:lo]` of register `a` set to `v`. -/
def State.setFld (s : State) (a hi lo v : Nat) : State := s.setReg a (setBits (s.reg a) hi lo v)

/-- Field `[hi:lo]` of register `a`. -/
def State.fld (s : State) (a hi lo : Nat) : Nat := bits (s.reg a) hi lo

/-- Bit `i` of register `a`. -/
def State.rbit (s : State) (a i : Nat) : Bool := bit (s.reg a) i

/-- The state with bit `i` of register `a` set to `b`. -/
def State.setRBit (s : State) (a i : Nat) (b : Bool) : State := s.setReg a (setBit (s.reg a) i b)

/-- What a write of `v` by software leaves in a register with writable bits `rw` and
write-1-to-clear bits `w1c` (R19, R20). -/
def mergeWrite (rw w1c old v : Word) : Word :=
  (old &&& ~~~ rw &&& ~~~ (w1c &&& v)) ||| (v &&& rw)

/-- A software write under the access types of its fields (R19, R20). -/
def State.softWrite (s : State) (a : Nat) (v : Word) : State :=
  match regSpec a with
  | some r => s.setReg a (mergeWrite r.rw r.w1c (s.reg a) v)
  | none => s

/-- A capture register is written only while its VALID bit (`vbit` of `av`) is 0 (R594). -/
def State.capture (s : State) (av vbit : Nat) (f : State → State) : State :=
  if s.rbit av vbit then s else f s

/-! ### Messages sent and free values -/

/-- The state with a message sent. -/
def State.send (s : State) (m : OutMsg) : State := { s with out := s.out ++ [m] }

/-- The state with messages sent, in order. -/
def State.sends (s : State) (ms : List OutMsg) : State := { s with out := s.out ++ ms }

/-- The state with the counter of free values advanced. -/
def State.nextFresh (s : State) : State := { s with fresh := s.fresh + 1 }

/-- The fabric time base in ns (R552). -/
def timeNs (s : State) : Nat := s.fab

/-- One cycle of the always-on clock of 25 MHz with no command: time passes (R552, R632). -/
def idle (s : State) : State := { s with clk := s.clk + 1, fab := s.fab + 40 }

/-- The module asserts MOD_READY. -/
def State.up (s : State) : Bool := s.mod.phase = .up

/-- PWR_STAT.HUB_RESTART: the control processors restart (R580). -/
def hubRestarting (s : State) : Bool := s.rbit rPwrStat 3

/-! ### Host memory through the hub's lines (R463, R465) -/

/-- A Shaonen port is UP (Table 11.20). -/
def portUp (s : State) (n : Nat) : Bool := s.fld (rShlStat n) 2 0 = 2

def anyPortUp (s : State) : Bool := portUp s 0 || portUp s 1

/-- The port that carries a request for host address `a` (R460). -/
def hostPort (s : State) (a : Nat) : Nat :=
  if portUp s 0 && portUp s 1 then a / 4096 % 2 else if portUp s 0 then 0 else 1

/-- The lowest free tag on a port, up to `n` tried (R462). -/
def freeTag (rs : List HostReq) (port : Nat) : Nat → Nat → Option Nat
  | 0, _ => none
  | n + 1, t => if rs.any fun r => r.port = port ∧ r.tag = t then freeTag rs port n (t + 1) else some t

def findLine (s : State) (line : Nat) : Option HostLine := s.hub.hlines.find? fun h => h.line = line

/-- A request that waits goes to the port for its address, under a tag that is free there. -/
def sendReq (s : State) (r : HostReq) : State :=
  let port := hostPort s (r.line * 64)
  match freeTag s.hub.hreqs port 4096 0 with
  | none => s
  | some tag =>
    let s1 := { s with hub := { s.hub with
      hreqs := modWhere (fun q => q = r) (fun q => { q with port := port, tag := tag }) s.hub.hreqs } }
    s1.send (.shl port r.ty 0 tag (r.line * 64) false false r.data)

/-- Requests that wait go, oldest first, while a port is UP. -/
def sendHeld (s : State) : State :=
  if anyPortUp s then (s.hub.hreqs.filter fun r => r.port = 2).foldl sendReq s else s

/-- A request of the hub to the host is sent and awaits its response; it is kept while no port is UP or no tag is free
(R460 to R462). -/
def hostRequest (s : State) (ty line : Nat) (data : List Byte) : State :=
  if s.hub.hreqs.any fun r => r.line = line ∧ r.ty = ty then s
  else sendHeld { s with hub := { s.hub with hreqs := s.hub.hreqs ++ [⟨2, 0, ty, line, data⟩] } }

/-- Moves a line to the front of the recency order. -/
def touchLine (hs : List HostLine) (h : HostLine) : List HostLine :=
  h :: hs.filter fun g => g.line ≠ h.line

/-- A line that is used becomes the most recently used (Table 11.5). -/
def useLine (s : State) (line : Nat) : State :=
  match findLine s line with
  | some h => { s with hub := { s.hub with hlines := touchLine s.hub.hlines h } }
  | none => s

/-! ### The hub's coherent cache (R465, Table 11.5) -/

/-- A line of the hub's cache is given up: HWB where it is modified, else HEVC (Table 11.4). -/
def giveUp (s : State) (h : HostLine) : State :=
  if h.st = .modified then hostRequest s 0x13 h.line h.data else hostRequest s 0x14 h.line []

/-- Sets of the cache: 64 MiB of 16 ways. -/
def cacheSets : Nat := 65536

/-- The least recently used unpinned line of a set that holds 16 lines. -/
def victim (s : State) (line : Nat) : Option HostLine :=
  let mine := s.hub.hlines.filter fun h => h.line % cacheSets = line % cacheSets ∧ h.line ≠ line
  if mine.length < 16 then none else mine.reverse.find? fun h => !h.pinned

def dropLine (s : State) (line : Nat) : State :=
  { s with hub := { s.hub with hlines := s.hub.hlines.filter fun h => h.line ≠ line } }

/-- A line enters the cache, in place of the least recently used one of a full set. -/
def cacheFill (s : State) (h : HostLine) : State :=
  let s1 := match victim s h.line with
    | some v => giveUp (dropLine s v.line) v
    | none => s
  { s1 with hub := { s1.hub with hlines := touchLine s1.hub.hlines h } }

/-! ### Responses and host writes -/

/-- Header of a response. -/
def respHdr (h : DieHdr) (vc attr : Nat) (pois : Bool) : DieHdr :=
  ⟨BitVec.ofNat 2 vc, h.dst, h.src, h.tag, BitVec.ofNat 32 attr, h.addr, h.part, false, false, pois⟩

def sendAck (s : State) (h : DieHdr) : State := s.send (.die 0x23 (respHdr h 1 0 false) [])
def sendNack (s : State) (h : DieHdr) (attr : Nat) : State := s.send (.die 0x24 (respHdr h 1 attr false) [])

/-- The bytes of a list from `o` replaced by `bs`. -/
def overlay (old : List Byte) (o : Nat) (bs : List Byte) : List Byte :=
  old.take o ++ bs ++ old.drop (o + bs.length)

/-- Applies the waiting host writes in order, while the line of the first is owned; asks for the
line otherwise. At most `fuel` writes. A write of a die or a guest is acknowledged once it is applied. -/
def hostPump : Nat → State → State
  | 0, s => s
  | fuel + 1, s =>
    match s.hub.hwrites with
    | [] => s
    | w :: ws =>
      match findLine s (w.addr / 64) with
      | some h =>
        if h.st = .shared then hostRequest s 0x12 (w.addr / 64) []
        else
          let h' := { h with st := .modified, data := overlay h.data (w.addr % 64) w.data }
          let s1 := { s with hub := { s.hub with hwrites := ws, hlines := touchLine s.hub.hlines h' } }
          hostPump fuel (match w.req with
            | some r => sendAck s1 r
            | none => s1)
      | none => hostRequest s 0x12 (w.addr / 64) []

/-- A write within one host line, applied when the hub owns the line and does not restart; `rec` names the record whose
status word it is. -/
def hostWriteFor (s : State) (a : Nat) (bs : List Byte) (rec : Option Nat) (req : Option DieHdr := none) : State :=
  let s1 := { s with hub := { s.hub with hwrites := s.hub.hwrites ++ [⟨a, bs, rec, req⟩] } }
  if hubRestarting s then s1 else hostPump s1.hub.hwrites.length s1

/-- A write within one host line. -/
def hostWrite (s : State) (a : Nat) (bs : List Byte) : State := hostWriteFor s a bs none

/-- Bytes of host memory that the hub holds; none where a line is missing. -/
def hostRead (s : State) (a n : Nat) : Option (List Byte) :=
  match findLine s (a / 64) with
  | none => none
  | some h =>
    if a % 64 + n ≤ 64 then some ((h.data.drop (a % 64)).take n)
    else match findLine s (a / 64 + 1) with
      | none => none
      | some g => some ((h.data.drop (a % 64) ++ g.data).take n)

/-! ### The event ring (R481, R482) -/

/-- Word 0 of a record, Table 11.11. -/
def evHead (e : EvRec) (seq : Nat) : Word :=
  put (e.code % 65536) 0 ||| put (e.cls % 16) 16 ||| put (e.die % 16) 20 |||
    put ((e.part.getD 0) % 16) 24 ||| put (e.ctx % 8) 28 |||
    put (if e.part.isSome then 1 else 0) 31 ||| put (seq % 2 ^ 32) 32

/-- The eight words of a record. -/
def evWords (e : EvRec) (seq : Nat) : List Word :=
  (evHead e seq :: (e.pay ++ List.replicate 7 0)).take 8

/-- The ring takes a record now: it is enabled, a port is UP and a slot is free. -/
def evtSpace (s : State) : Bool :=
  s.rbit rEvtCtl 5 && anyPortUp s && !hubRestarting s &&
    decide ((s.fld rEvtStat 31 0 + 2 ^ 32 - s.fld rEvtHead 31 0) % 2 ^ 32 < 2 ^ s.fld rEvtCtl 4 0)

def setHeldCount (s : State) : State := s.setFld rEvtStat 40 32 s.hub.held.length

/-- Writes a record to its slot of the ring. -/
def evtStore (s : State) (e : EvRec) : State :=
  let k := s.fld rEvtStat 31 0
  let a := s.fld rEvtBase 46 12 * 4096 + (k % 2 ^ s.fld rEvtCtl 4 0) * 64
  let s1 := s.setFld rEvtStat 31 0 ((k + 1) % 2 ^ 32)
  hostWrite s1 a ((evWords e ((k + 1) % 2 ^ 32)).flatMap fun w => leBytes 8 w.toNat)

/-! ### Statistics counters (R602 to R604) -/

/-- The key of a counter: its index, and the partition for group 0 (R603). -/
def cntKey (idx part : Nat) : Nat := if idx < 0x1000 then idx + 0x10000 * part else idx

def cntGet (s : State) (idx part : Nat) : Cnt := smGet ⟨0, false⟩ s.hub.cnts (cntKey idx part)

def cntPut (s : State) (idx part : Nat) (c : Cnt) : State :=
  { s with hub := { s.hub with cnts := smSet ⟨0, false⟩ s.hub.cnts (cntKey idx part) c } }

/-- A counter after `n` increments, saturating with OVF (R602). -/
def cntBump (c : Cnt) (n : Nat) : Cnt :=
  if c.val.toNat + n < 2 ^ 64 then ⟨BitVec.ofNat 64 (c.val.toNat + n), c.ovf⟩
  else ⟨BitVec.allOnes 64, true⟩

/-- The counter has kind E in Table 15.6. -/
def cntKindE (idx : Nat) : Bool :=
  idx = 1 || idx = 0x19 || (0x1000 ≤ idx && idx < 0x4000) ||
    (0x5000 ≤ idx && idx < 0x5003) ||
    (0x6000 ≤ idx && idx < 0x7000)

/-- The index lies in Table 15.6. -/
def cntValid (idx : Nat) : Bool :=
  idx < 8 || (0x10 ≤ idx && idx < 0x1C) || idx = 0x20 || (0x1000 ≤ idx && idx < 0x1060) ||
    (0x2000 ≤ idx && idx < 0x2020) || (0x3000 ≤ idx && idx < 0x3030) ||
    (0x3040 ≤ idx && idx < 0x3070) || (0x3080 ≤ idx && idx < 0x30B0) ||
    (0x30C0 ≤ idx && idx < 0x30F0) || (0x4000 ≤ idx && idx < 0x4200 && idx % 16 < 15) ||
    (0x5000 ≤ idx && idx < 0x5004) || (0x6000 ≤ idx && idx < 0x6040)

/-- Adds a record to the hold buffer of 256; when it is full the oldest held record of class 0 or 2
gives way, and where none is held the new record is dropped (R481). Each loss counts. -/
def evtHold (s : State) (e : EvRec) : State :=
  if s.hub.held.length < 256 then
    setHeldCount { s with hub := { s.hub with held := s.hub.held ++ [e] } }
  else
    let s1 := (s.setRBit rEvtCtl 6 true).setFld rEvtStat 63 41
      (min (s.fld rEvtStat 63 41 + 1) (2 ^ 23 - 1))
    let s2 := cntPut s1 0x5003 0 (cntBump (cntGet s1 0x5003 0) 1)
    if s2.hub.held.any fun h => h.cls = 0 ∨ h.cls = 2 then
      { s2 with hub := { s2.hub with
        held := dropFirst (fun h => h.cls = 0 ∨ h.cls = 2) s2.hub.held ++ [e] } }
    else s2

/-- Writes an event record: to the ring when nothing is held and a slot is free, to the hold buffer
otherwise (R481). -/
def emitRaw (s : State) (e : EvRec) : State :=
  if s.hub.held.isEmpty && evtSpace s then evtStore s e else evtHold s e

/-- Moves held records to the ring while it has space, then reports DROPPED with event 0x0508. -/
def evtDrain : Nat → State → State
  | 0, s => s
  | fuel + 1, s =>
    match s.hub.held with
    | e :: es =>
      if evtSpace s then
        evtDrain fuel (setHeldCount (evtStore { s with hub := { s.hub with held := es } } e))
      else s
    | [] =>
      if s.fld rEvtStat 63 41 ≠ 0 ∧ evtSpace s then
        (evtStore s ⟨0x0508, 0, 8, none, 0, [put (s.fld rEvtStat 63 41) 0]⟩).setFld rEvtStat 63 41 0
      else s

/-! ### Error records (R592, R593, R596) -/

/-- Fields of an error record (Table 15.2). -/
structure ErrRec where
  code  : Nat
  cls   : Nat
  die   : Nat := 8
  part  : Option Nat := none
  ctx   : Nat := 0
  unit  : Nat
  index : Nat := 0
  cause : Nat := 0
  addr  : Nat := 0
  tid   : Nat := 0xFFFFFFFF
  blk   : Nat := 0xFFFFFFFF
  iseq  : Nat := 0
  strm  : Nat := 3
  d0    : Nat := 0
  d1    : Nat := 0
  deriving DecidableEq, Repr

/-- Key of the COUNT of a code and unit. -/
def recKey (r : ErrRec) : Nat := r.code * 2 ^ 32 + r.unit * 2 ^ 16 + r.index

/-- Payload of an error record with COUNT `n` at time `t`. -/
def errPay (r : ErrRec) (n t : Nat) : List Word :=
  [put r.unit 0 ||| put (r.index % 65536) 8 ||| put (r.cause % 256) 24 ||| put (n % 2 ^ 32) 32,
   put (r.addr % 2 ^ 48) 0,
   put (r.tid % 2 ^ 32) 0 ||| put (r.blk % 2 ^ 32) 32,
   put (r.iseq % 2 ^ 32) 0 ||| put (r.strm % 4) 32 ||| put (r.ctx % 8) 34,
   put (r.d0 % 2 ^ 64) 0, put (r.d1 % 2 ^ 64) 0, put (t % 2 ^ 64) 0]

/-- The log of R596 takes a record: class 4 always, class 3 at most one per code per 10 ms, class 2
only as a threshold record. -/
def elogTakes (s : State) (e : EvRec) : Bool :=
  e.cls = 4 || (e.cls = 2 && e.code = 0x0920) ||
    (e.cls = 3 && (smGet 0 s.hub.elogAt e.code = 0 ||
      decide (smGet 0 s.hub.elogAt e.code + 10000000 ≤ s.fab + 1)))

/-- Appends to the flash error log; a record that the limit withholds is counted for the next one
of its code. Crossing a sector boundary loses the oldest 1,024 entries (R596). -/
def elogWrite (s : State) (e : EvRec) : State :=
  if elogTakes s e then
    let cut := smGet 0 s.hub.elogCut e.code
    let ws := listMod (fun w => setBits w 63 48 (min (bits w 63 48 + cut) 0xFFFF))
      (evWords e (s.hub.elogN % 2 ^ 32)) 0
    let m := smSet [] s.hub.elog s.hub.elogN ws
    let m := if s.hub.elogN % 1024 = 0 ∧ 67 * 1024 ≤ s.hub.elogN then
      m.filter fun p => s.hub.elogN < p.1 + 67 * 1024 + 1 else m
    { s with hub := { s.hub with
        elog := m
        elogN := s.hub.elogN + 1
        elogAt := smSet 0 s.hub.elogAt e.code (s.fab + 1)
        elogCut := smSet 0 s.hub.elogCut e.code 0 } }
  else if e.cls = 3 then
    { s with hub := { s.hub with elogCut := smMod 0 s.hub.elogCut e.code (fun n => min (n + 1) 0xFFFF) } }
  else s

/-- Writes an error record: counts it for its code and unit, to the ring and to the flash log. -/
def errRaw (s : State) (r : ErrRec) : State :=
  let n := min (smGet 0 s.hub.recs (recKey r) + 1) 0xFFFFFFFF
  let s1 := { s with hub := { s.hub with recs := smSet 0 s.hub.recs (recKey r) n } }
  let e : EvRec := ⟨r.code, r.cls, r.die, r.part, r.ctx, errPay r n (timeNs s)⟩
  elogWrite (emitRaw s1 e) e

/-! ### Threshold slots (R604) -/

/-- Slot `k` fires when a counter passes from `old` to `new`: the counter passes from below T to T
or above; with T = 0, OVF becomes 1; a slot re-armed while its counter was there already fires at
the next increment (R604). -/
def thrHit (s : State) (k : Nat) (old new : Cnt) : Bool :=
  let t := (s.reg (rThrVal k)).toNat
  let was := if t = 0 then old.ovf else decide (t ≤ old.val.toNat)
  let now := if t = 0 then new.ovf else decide (t ≤ new.val.toNat)
  now && (!was || s.hub.rearm.contains k)

/-- Threshold slot `k` judges counter `idx` of partition `part` passing from `old` to `new`. The
record carries the index and the partition in ADDR, the value and T in the DETAIL words. -/
def thrSlot (idx part : Nat) (old new : Cnt) (s : State) (k : Nat) : State :=
  let sel := s.reg (rThrSel k)
  if bit sel 20 && !bit sel 21 && decide (bits sel 15 0 = idx) &&
      (decide (0x1000 ≤ idx) || decide (bits sel 19 16 = part)) && thrHit s k old new then
    let s1 := s.setRBit (rThrSel k) 21 true
    errRaw { s1 with hub := { s1.hub with rearm := s1.hub.rearm.filter fun j => j ≠ k } }
      { code := 0x0920, cls := if cntKindE idx then 2 else 0, unit := 8
        addr := idx + (if idx < 0x1000 then part * 65536 else 0)
        d0 := new.val.toNat, d1 := (s.reg (rThrVal k)).toNat }
  else s

/-- The 64 slots judge a counter. -/
def thrJudge (s : State) (idx part : Nat) (old new : Cnt) : State :=
  (List.range 64).foldl (thrSlot idx part old new) s

/-- Adds `n` to a counter and lets the threshold slots judge it (R602, R604). -/
def cntInc (s : State) (idx part n : Nat) : State :=
  if n = 0 then s
  else
    let old := cntGet s idx part
    let new := cntBump old n
    thrJudge (cntPut s idx part new) idx part old new

/-- Slots watching the loss counter 0x5003 judge what a record's arrival did to it. -/
def lossJudge (s s1 : State) : State :=
  if cntGet s1 0x5003 0 = cntGet s 0x5003 0 then s1
  else thrJudge s1 0x5003 0 (cntGet s 0x5003 0) (cntGet s1 0x5003 0)

/-- Writes an event record (R481). -/
def emit (s : State) (e : EvRec) : State := lossJudge s (emitRaw s e)

/-- Writes an error record (R592, R596). -/
def errRecord (s : State) (r : ErrRec) : State := lossJudge s (errRaw s r)

/-- Event of the device: class 0, payload words given. -/
def event0 (s : State) (code die : Nat) (part : Option Nat) (pay : List Word) : State :=
  emit s ⟨code, 0, die, part, 0, pay⟩

/-! ### The device address map (Tables 7.1, 7.3, 7.8) -/

/-- Offset below which a stack window holds data. -/
def hbmDataBytes : Nat := 0x8EE000000

def ssBase : Nat := 0x100000000000
def hostAperture : Nat := 0x800000000000

def isHbm (a : Nat) : Bool := a < 0x10000000000
def hbmStack (a : Nat) : Nat := a / 0x1000000000
def hbmOff (a : Nat) : Nat := a % 0x1000000000
def isSs (a : Nat) : Bool := ssBase ≤ a && a < ssBase + 0x800000000
def ssDie (a : Nat) : Nat := (a - ssBase) / 0x100000000
def ssOff (a : Nat) : Nat := (a - ssBase) % 0x100000000

/-- The stack is mapped (HUB_CAP1.HBM_PRESENT). -/
def stackPresent (s : State) (k : Nat) : Bool := s.rbit rCap1 k

/-- Compute die `d` is present (HUB_CAP0.DIE_PRESENT). -/
def diePresent (s : State) (d : Nat) : Bool := decide (d < 8) && s.rbit rCap0 d && !s.fabr.gone.contains d

/-- The address lies in the data range of a present stack (Table 7.3). -/
def inHbmData (s : State) (a : Nat) : Bool :=
  isHbm a && decide (hbmOff a < hbmDataBytes) && stackPresent s (hbmStack a)

/-- Way `w` of die `d` is assigned as scratchpad (Table 7.17). -/
def wayScratch (s : State) (d w : Nat) : Bool :=
  s.rbit (rSsMode d) w && !s.rbit (rSsMode d) (16 + w)

/-- The way of a shared-store address. -/
def ssWay (a : Nat) : Nat := ssOff a / 0x4000000

/-- The address lies in an assigned scratchpad way (R294, R295). -/
def inScratch (s : State) (a : Nat) : Bool :=
  isSs a && decide (ssOff a < 0x30000000) && diePresent s (ssDie a) && wayScratch s (ssDie a) (ssWay a)

/-- The address names storage with a checksum entry. -/
def inStore (s : State) (a : Nat) : Bool := inHbmData s a || inScratch s a

/-- The address lies in a shadow region or a check array (Tables 7.3, 7.8). -/
def inShadow (a : Nat) : Bool :=
  (isHbm a && decide (hbmDataBytes ≤ hbmOff a) && decide (hbmOff a < 0x900000000)) ||
  (isSs a && decide (0x80000000 ≤ ssOff a) && decide (ssOff a < 0x80600000))

/-- Home die of a block: of its stack, or of its slice (R304). -/
def homeDie (a : Nat) : Nat := if isHbm a then hbmStack a / 2 else ssDie a

/-- UNIT and INDEX that name the holder of a block in a poisoning record (R593). -/
def holderUnit (a : Nat) : Nat × Nat :=
  if isHbm a then (3, hbmStack a) else (2, ssDie a * 64 + ssOff a / 4096 % 64)

/-- Range `k` of partition `p` covers the address (Table 11.23). -/
def hbmRange (s : State) (p k a : Nat) : Bool :=
  s.rbit (rPartHbm p k) 63 &&
    decide (s.fld (rPartHbm p k) 26 0 * 0x200000 ≤ a) &&
    decide (a < (s.fld (rPartHbm p k) 26 0 + s.fld (rPartHbm p k) 52 27) * 0x200000)

/-- The address lies in one of the partition's HBM ranges. -/
def inPartHbm (s : State) (p a : Nat) : Bool := (List.range 8).any fun k => hbmRange s p k a

/-- The address lies in the partition's scratchpad (R295). -/
def inPartScratch (s : State) (p a : Nat) : Bool :=
  inScratch s a && decide (s.fld (rSsOwner (ssDie a)) (4 * ssWay a + 3) (4 * ssWay a) = p)

/-- A partition's program may name the byte (R285). -/
def inPart (s : State) (p a : Nat) : Bool := inPartHbm s p a || inPartScratch s p a

/-- Every byte from `a`, `n` of them, lies in the partition: checked at the start, the end and
each 2 MiB step between, which no range or way boundary is finer than. -/
def rangeInPart (s : State) (p a n : Nat) : Bool :=
  decide (0 < n) && inPart s p a && inPart s p (a + n - 1) &&
    (List.range ((a + n - 1) / 0x200000 - a / 0x200000)).all fun i =>
      inPart s p ((a / 0x200000 + i + 1) * 0x200000)

/-- NACK ATTR of a request for an address (R378): 3 its die is out of service, 1 no storage there, 0
storage. -/
def addrNack (s : State) (a : Nat) : Nat :=
  if isHbm a then
    if 0x900000000 ≤ hbmOff a then 1 else if !diePresent s (homeDie a) then 3
    else if stackPresent s (hbmStack a) then 0 else 1
  else if isSs a then
    if !diePresent s (ssDie a) then (if ssDie a < 8 then 3 else 1)
    else if inScratch s a || inShadow a then 0 else 1
  else 1

/-! ### The cache ways of the shared store (R296, R297) -/

/-- Way `w` of die `d` is assigned as cache. -/
def wayCache (s : State) (d w : Nat) : Bool := s.rbit (rSsMode d) w && s.rbit (rSsMode d) (16 + w)

/-- Cache ways of partition `p` on die `d`. -/
def cacheWays (s : State) (d p : Nat) : List Nat :=
  (List.range 12).filter fun w => wayCache s d w && decide (s.fld (rSsOwner d) (4 * w + 3) (4 * w) = p)

/-- Slice that caches an HBM line, on its home die: blocks of 4 KiB go round the slices. The manual gives no index. DESIGN
CHOICE. -/
def cacheKey (a : Nat) : Nat := hbmStack a / 2 * 64 + a / 4096 % 64

/-- Lines of 64 bytes in 1 MiB, a way's part of a slice. -/
def waySlots : Nat := 16384

/-- The cached line that holds an address. -/
def cachedLine (s : State) (a : Nat) : Option CLine :=
  (smGet [] s.cache (cacheKey a)).find? fun c => c.line = a / 64

/-- The partition that owns an HBM address. -/
def hbmOwner (s : State) (a : Nat) : Option Nat :=
  (List.range 16).find? fun p => decide (s.fld (rPartCtl p) 3 2 ≠ 0) && inPartHbm s p a

def setCacheLines (s : State) (a : Nat) (ls : List CLine) : State :=
  { s with cache := smSet [] s.cache (cacheKey a) ls }

/-- One access to the line at `a`. A hit makes it the most recently used, and a write makes it dirty; a miss of an
allocating access takes a free slot of its partition's cache ways in the slice, or the slot of the least
recently used line there, which is written back if it is dirty. -/
def cacheAccess (s : State) (alloc wr : Bool) (a : Nat) : State :=
  let ls := smGet [] s.cache (cacheKey a)
  match ls.find? fun c => c.line = a / 64 with
  | some c => setCacheLines s a ({ c with dirty := c.dirty || wr } :: ls.filter fun x => x.line ≠ c.line)
  | none =>
    let ws := if alloc then ((hbmOwner s a).map (cacheWays s (homeDie a))).getD [] else []
    match ws.find? fun w => decide ((ls.filter fun c => c.way = w).length < waySlots) with
    | some w => setCacheLines s a (⟨a / 64, w, wr⟩ :: ls)
    | none => match (ls.filter fun c => ws.contains c.way).getLast? with
      | some v => setCacheLines s a (⟨a / 64, v.way, wr⟩ :: ls.filter fun x => x.line ≠ v.line)
      | none => s

/-- Some way of the module is cache, or some line is cached. -/
def cachesUsed (s : State) : Bool :=
  !s.cache.isEmpty || (List.range 8).any fun d => decide (s.fld (rSsMode d) 27 16 ≠ 0)

/-- Accesses to the bytes at the addresses, each HBM line once. Only a partition's own accesses allocate. -/
def cacheUse (s : State) (alloc wr : Bool) (as : List Nat) : State :=
  if cachesUsed s then
    (((as.filter isHbm).map fun a => a / 64).dedup).foldl (fun s l => cacheAccess s alloc wr (l * 64)) s
  else s

/-! ### Blocks, lines and their entries (R300 to R305) -/

def emptyTag : Tag := ⟨0, 0, 3, 0⟩

/-- An entry that was never written: every line INVALID, CRC Z, empty tag. -/
def emptyEntry : Entry := ⟨0, crcZ, emptyTag⟩

def entryOf (s : State) (a : Nat) : Entry := smGet emptyEntry s.ent (a / 4096)

def setEntry (s : State) (a : Nat) (e : Entry) : State :=
  { s with ent := smSet emptyEntry s.ent (a / 4096) e }

/-- State of line `j` of a block: 0 INVALID, 1 VALID, 2 POISONED. -/
def lineState (e : Entry) (j : Nat) : Nat := bits e.lstate (2 * j + 1) (2 * j)

def setLine (l : BitVec 128) (j v : Nat) : BitVec 128 := setBits l (2 * j + 1) (2 * j) v

/-- Line state at an address. -/
def lstAt (s : State) (a : Nat) : Nat := lineState (entryOf s a) (a / 64 % 64)

/-- The stored byte. -/
def rawByte (s : State) (a : Nat) : Byte := smGet 0 s.mem a

/-- A read of one byte: a byte of an INVALID line reads 0 (R301). -/
def readByte (s : State) (a : Nat) : Byte := if lstAt s a = 0 then 0 else rawByte s a

def readBytes (s : State) (a n : Nat) : List Byte := (List.range n).map fun i => readByte s (a + i)

def rawBytes (s : State) (a n : Nat) : List Byte := (List.range n).map fun i => rawByte s (a + i)

def readNat (s : State) (a n : Nat) : Nat := leNat (readBytes s a n)

/-- The state with bytes stored from `a`, entries untouched. -/
def storeBytes : List Byte → Nat → State → State
  | [], _, s => s
  | b :: bs, a, s => storeBytes bs (a + 1) { s with mem := smSet 0 s.mem a b }

/-- CRC of the block's image (R301): Z changed by the contribution of each VALID line. -/
def imageCrc (s : State) (a : Nat) : Half :=
  (List.range 64).foldl (fun c j =>
    if lineState (entryOf s a) j = 1 then
      c ^^^ crcContrib (64 * j) (rawBytes s (a / 4096 * 4096 + 64 * j) 64)
    else c) crcZ

/-- A writer matches the entry's poison tag (R302). -/
def tagMatch (e : Entry) (w : Option Tag) : Bool :=
  match w with
  | some t => e.tag.agent = 1 && decide (t.agent = 1) && decide (t.ctx = e.tag.ctx) &&
      decide (t.stream = e.tag.stream) && decide (t.iseq = e.tag.iseq)
  | none => false

/-- The 64 bytes of a line after the masked bytes replace `old`. -/
def maskLine (old : List Byte) (mask : Nat → Option Byte) : List Byte :=
  (List.range 64).map fun i => (mask i).getD (old.getD i 0)

/-- One write to the line that holds `a` (R302): line state, bytes and CRC as one action. `mask`
gives the byte written at each offset of the line; `w` is the writing stream instruction. -/
def putLine (s : State) (a : Nat) (mask : Nat → Option Byte) (w : Option Tag) : State :=
  let base := a / 64 * 64
  let j := a / 64 % 64
  let e := entryOf s a
  let full := (List.range 64).all fun i => (mask i).isSome
  let st := lineState e j
  let old := if st = 0 then List.replicate 64 0 else rawBytes s base 64
  let new := maskLine old mask
  let image := if st = 1 then old else List.replicate 64 0
  let diff := List.zipWith (fun x y => x ^^^ y) image new
  if st = 2 ∧ (full = false ∨ tagMatch e w = true) then storeBytes new base s
  else
    setEntry (storeBytes new base s) a
      { e with lstate := setLine e.lstate j 1, crc := e.crc ^^^ crcContrib (64 * j) diff }

/-- A line write with its use of the cache ways (R296, R302). -/
def writeLine (s : State) (a : Nat) (mask : Nat → Option Byte) (w : Option Tag) : State :=
  putLine (cacheUse s (w.any fun t => t.agent = 1) true [a]) a mask w

/-- A write of a set of bytes, line by line: the bytes of one line are one write. At most `fuel`
lines. Later entries of the list win. -/
def writeSet : Nat → List (Nat × Byte) → Option Tag → State → State
  | 0, _, _, s => s
  | _, [], _, s => s
  | fuel + 1, (a, b) :: ws, w, s =>
    let line := a / 64
    let mine := ((a, b) :: ws).filter fun p => p.1 / 64 = line
    let rest := ws.filter fun p => p.1 / 64 ≠ line
    let mask := fun i => (mine.reverse.find? fun p => p.1 % 64 = i).map Prod.snd
    writeSet fuel rest w (writeLine s a mask w)

/-- A write of consecutive bytes. -/
def writeBytes (s : State) (a : Nat) (bs : List Byte) (w : Option Tag) : State :=
  let ws := (List.range bs.length).zip bs |>.map fun p => (a + p.1, p.2)
  writeSet (bs.length / 64 + 2) ws w s

/-- A write of bytes at the addresses they name. -/
def writeAll (s : State) (ws : List (Nat × Byte)) (w : Option Tag) : State :=
  writeSet ws.length ws w s

/-- Every VALID line becomes POISONED, CRC becomes Z, the tag becomes `t` (R304, R645). -/
def poisonValid (s : State) (a : Nat) (t : Tag) : State :=
  let e := entryOf s a
  let l := (List.range 64).foldl (fun l j => if lineState e j = 1 then setLine l j 2 else l) e.lstate
  setEntry s a ⟨l, crcZ, t⟩

/-- All 64 lines POISONED, CRC Z, tag `t` (R305). -/
def poisonAll (s : State) (a : Nat) (t : Tag) : State :=
  setEntry s a ⟨BitVec.ofNat 128 0xAAAAAAAAAAAAAAAAAAAAAAAAAAAAAAAA, crcZ, t⟩

/-- All 64 lines INVALID, CRC Z, empty tag (R305). -/
def invalidate (s : State) (a : Nat) : State := setEntry s a emptyEntry

/-- Invalidates every block from `lo` below `hi` (block numbers): the entries fall to empty. -/
def invalidateRange (s : State) (lo hi : Nat) : State :=
  { s with ent := s.ent.filter fun p => p.1 < lo ∨ hi ≤ p.1 }

/-- The agent tag of the memory agent (R645). -/
def memTag : Tag := ⟨0, 0, 3, 2⟩

/-- DIE_POIS_ADDR and DIE_POIS_INFO capture the first poisoning on the home die (R319). -/
def captPoison (s : State) (a : Nat) (t : Tag) (cause tid blk : Nat) : State :=
  let d := homeDie a
  s.capture (rPoisAddr d) 63 fun s =>
    (s.setReg (rPoisAddr d)
      (put (a / 4096 * 4096) 0 ||| put t.agent.toNat 48 ||| put t.stream.toNat 51 |||
        put t.ctx.toNat 53 ||| put cause 56 ||| put 1 63)).setReg (rPoisInfo d)
      (put (tid % 2 ^ 32) 0 ||| put (blk % 2 ^ 32) 32)

/-- Who reads or writes in a poisoning record: tag, partition, tensor id and tensor base. -/
structure Reader where
  tag  : Tag
  part : Option Nat
  tid  : Nat
  base : Nat
  deriving DecidableEq, Repr

/-- Block index of R304. -/
def blockIndex (a base : Nat) : Nat := (a / 4096 * 4096 - base / 4096 * 4096) / 4096

/-- A mismatch that remains after the re-fetch poisons the block; the agent whose action changes
the tag writes the record (R304). -/
def poisonMismatch (s : State) (a : Nat) (r : Reader) (code cause : Nat) : State :=
  let e := entryOf s a
  let s1 := poisonValid s a r.tag
  let blk := if r.tid = 0xFFFFFFFF then 0xFFFFFFFF else blockIndex a r.base
  if e.tag.agent = 0 ∨ e.tag ≠ r.tag then
    let u := holderUnit a
    captPoison (errRecord s1
      { code := code, cls := 3, die := homeDie a, part := r.part, ctx := r.tag.ctx.toNat
        unit := u.1, index := u.2, cause := cause, addr := a / 4096 * 4096
        tid := r.tid, blk := blk
        iseq := r.tag.iseq.toNat, strm := r.tag.stream.toNat }) a r.tag cause r.tid blk
  else s1

/-- Own-tag read of R640: the line is POISONED with the tag of the reading instruction. -/
def ownPoison (s : State) (a : Nat) (t : Tag) : Bool :=
  lstAt s a = 2 && tagMatch (entryOf s a) (some t)

/-- Blocks touched by the bytes at the addresses, each once, in the order met. -/
def blocksOf (as : List Nat) : List Nat := (as.map fun a => a / 4096).dedup

/-- Checks one block that a verifying read touches, at the byte addresses `as` that lie in it
(R303, R304, R640). Answers the state and whether the read is a poisoned input: a NACK is one (R378). The bytes and
the check response of the re-fetch are those of the first reading, since storage has not changed between.
`own` marks reads of elements that the instruction also writes. -/
def verifyBlock (s : State) (as : List Nat) (blk : Nat) (r : Reader) (own : Bool) : State × Bool :=
  let mine := as.filter fun a => a / 4096 = blk
  let bad := mine.any fun a => lstAt s a = 2 && !(own && ownPoison s a r.tag)
  let ownHit := mine.any fun a => lstAt s a = 2
  if addrNack s (blk * 4096) ≠ 0 then (s, true)
  else if bad then (s, true)
  else if ownHit then (s, false)
  else if imageCrc s (blk * 4096) = (entryOf s (blk * 4096)).crc then (s, false)
  else (poisonMismatch s (blk * 4096) r 0x0901 0, true)

/-- A verifying read of the bytes at the addresses: checks each block once. -/
def verifyRead (s : State) (as : List Nat) (r : Reader) (own : Bool) : State × Bool :=
  (blocksOf as).foldl (fun acc blk =>
    let v := verifyBlock acc.1 as blk r own
    (v.1, acc.2 || v.2)) (cacheUse s (r.tag.agent = 1) false as, false)

/-- Addresses `a` to `a + n - 1`. -/
def span (a n : Nat) : List Nat := (List.range n).map fun i => a + i

/-- A verifying read of `n` bytes at `a`: the bytes, or none for a poisoned input. -/
def vread (s : State) (a n : Nat) (r : Reader) : State × Option (List Byte) :=
  let v := verifyRead s (span a n) r false
  (v.1, if v.2 then none else some (readBytes v.1 a n))

/-- A non-verifying read: poisoned only where a line is POISONED (Table 7.10), or where no storage answers (R378). -/
def nread (s : State) (a n : Nat) : Option (List Byte) :=
  if (span a n).any fun x => lstAt s x = 2 || addrNack s x ≠ 0 then none else some (readBytes s a n)

/-- Device memory, the checksum entries beside it, the cores' stores and the accumulator memories are
each in canonical form: addresses strictly rising, and no entry equal to what an unlisted address reads as. -/
def Memory.wf (s : State) : Bool :=
  smWf 0#8 s.mem && smWf emptyEntry s.ent && smWf 0#8 s.cstore && smWf 0#8 s.accm

end Sys2Proof.Machine
end

