-- ==== Sys2Proof/Machine/Flags.lean ====
section
/-! DEFINITION. The arithmetic flag records (R89 to R93, R644): capture keys, the views of
CLU_AFLAG and CLU_AFLAG_POS, and the partition's combined record. -/

namespace Sys2Proof.Machine

/-- Stream number: 0 F, 1 B, 2 U. -/
def strmNo : Strm → Nat
  | .F => 0
  | .B => 1
  | .U => 2

def strmOf (k : Nat) : Strm := if k = 0 then .F else if k = 1 then .B else .U

/-- Lexicographic order of keys of one kind. -/
def keyLt (a b : FlagKey) : Bool :=
  if a.iseq ≠ b.iseq then a.iseq < b.iseq
  else if a.tile ≠ b.tile then a.tile < b.tile
  else if a.row ≠ b.row then a.row < b.row
  else a.col < b.col

/-- The lesser of a held key and a new one. -/
def keyMin (o : Option FlagKey) (k : FlagKey) : Option FlagKey :=
  match o with
  | none => some k
  | some h => if keyLt k h then some k else some h

def noFlags : FlagRec := ⟨none, none⟩

/-- The flag record of stream `k` in cluster `c`. -/
def flagRec (s : State) (c k : Nat) : FlagRec := smGet noFlags s.flags (c * 4 + k)

def setFlagRec (s : State) (c k : Nat) (r : FlagRec) : State :=
  { s with flags := smSet noFlags s.flags (c * 4 + k) r }

/-- Records one mark at a key. -/
def flagMark (r : FlagRec) (m : Mark) (iseq tile row col : Nat) : FlagRec :=
  match m with
  | .none => r
  | .nonFinite c => { r with nf := keyMin r.nf ⟨iseq, tile, row, col, c⟩ }
  | .saturated => { r with sat := keyMin r.sat ⟨iseq, tile, row, col, 0⟩ }

/-- The captured key of a record: the least, KIND first. -/
def recKey? (r : FlagRec) : Option (Nat × FlagKey) :=
  match r.nf, r.sat with
  | some k, _ => some (0, k)
  | none, some k => some (1, k)
  | none, none => none

/-- The flag word of Table 2.7. -/
def flagWord (r : FlagRec) : Word :=
  put (b2n r.nf.isSome) 0 ||| put (b2n r.sat.isSome) 1 |||
    (match recKey? r with
     | none => 0
     | some (kind, k) => put 1 2 ||| put kind 3 ||| put (if kind = 0 then k.cause else 0) 4 |||
         put (k.iseq % 2 ^ 32) 32)

/-- The position word of Table 2.8. -/
def flagPos (r : FlagRec) : Word :=
  match recKey? r with
  | none => 0
  | some (_, k) => put (k.tile % 2 ^ 32) 0 ||| put (k.row % 65536) 32 ||| put (k.col % 65536) 48

/-- A software write of CLU_AFLAG: NF and SAT are W1C, each clearing its own kind (R90, R92). -/
def flagClear (r : FlagRec) (v : Word) : FlagRec :=
  ⟨if bit v 0 then none else r.nf, if bit v 1 then none else r.sat⟩

def optMin (a b : Option FlagKey) : Option FlagKey :=
  match b with
  | none => a
  | some k => keyMin a k

/-- Combination of two clusters' records (R93). -/
def flagJoin (a b : FlagRec) : FlagRec := ⟨optMin a.nf b.nf, optMin a.sat b.sat⟩

/-- Clusters of partition `p`, ascending (Table 11.23). -/
def partClusters (s : State) (p : Nat) : List Nat :=
  (List.range 32).filter fun c => s.rbit (rPartClu p) c

/-- Lead cluster: the lowest (R102). -/
def leadCluster (s : State) (p : Nat) : Nat := (partClusters s p).headD 0

/-- The partition that holds cluster `c` and is not DISABLED. -/
def partOf (s : State) (c : Nat) : Option Nat :=
  (List.range 16).find? fun p => s.rbit (rPartClu p) c && decide (s.fld (rPartCtl p) 3 2 ≠ 0)

/-- The partition whose registers name cluster `c`: the one that holds it, else the lowest that is to. -/
def partNamed (s : State) (c : Nat) : Option Nat :=
  (partOf s c).or ((List.range 16).find? fun p => s.rbit (rPartClu p) c)

/-- The partition's combined flag record of stream `k` (R93). -/
def partFlags (s : State) (p k : Nat) : FlagRec :=
  (partClusters s p).foldl (fun r c => flagJoin r (flagRec s c k)) noFlags

/-- Clears NF and SAT of stream `k` in every cluster of the partition (R149). -/
def clearPartFlags (s : State) (p k : Nat) : State :=
  (partClusters s p).foldl (fun s c => setFlagRec s c k noFlags) s

end Sys2Proof.Machine
end

