-- ==== Sys2Proof/Machine/Operands.lean ====
section
/-! DEFINITION. Operand forms: fields of the instruction word (Table 3.4) and of tensor descriptors
(Table 3.2), the layouts (Table 5.1), element addresses and packing (Table 2.3), scale blocks
(Table 4.7), and the descriptor checks of R63, R69, R109, R122 and R199. -/

namespace Sys2Proof.Machine

/-! ### The instruction word -/

def iOp (w : InstrWord) : Nat := bits w 7 0
def iWbc (w : InstrWord) : Nat := bits w 13 8
def iWen (w : InstrWord) : Bool := bit w 14
def iSbc (w : InstrWord) : Nat := bits w 20 15
def iSen (w : InstrWord) : Bool := bit w 21
def iSat (w : InstrWord) : Bool := bit w 22
def iStrict (w : InstrWord) : Bool := bit w 23
def iSpill (w : InstrWord) : Bool := bit w 24
def iDist (w : InstrWord) : Bool := bit w 25
def iWsrc (w : InstrWord) : Nat := bits w 30 26
def iTd (w : InstrWord) (k : Nat) : Nat := bits w (39 + 8 * k) (32 + 8 * k)
def iSd (w : InstrWord) : Nat := bits w 68 64
def iSa (w : InstrWord) : Nat := bits w 73 69
def iSb (w : InstrWord) : Nat := bits w 78 74
/-- The 48-bit class field. -/
def iX (w : InstrWord) : Nat := bits w 127 80
/-- Field `[hi:lo]` of the class field. -/
def xF (w : InstrWord) (hi lo : Nat) : Nat := bits w (80 + hi) (80 + lo)

/-! ### Descriptors -/

def dW (d : DescWord) (i : Nat) : Word := (d >>> (64 * i)).setWidth 64
def dBase (d : DescWord) : Nat := bits d 47 0
def dFmt (d : DescWord) : Nat := bits d 51 48
def dGroup (d : DescWord) : Nat := bits d 53 52
/-- Group size in elements (R69). -/
def dGs (d : DescWord) : Nat := 32 * 2 ^ dGroup d
def dRank (d : DescWord) : Nat := bits d 56 54
def dLayout (d : DescWord) : Nat := bits d 60 57
def dRO (d : DescWord) : Bool := bit d 62
def dValid (d : DescWord) : Bool := bit d 63
/-- DIMk. -/
def dDim (d : DescWord) (k : Nat) : Nat := bits d (64 + 32 * k + 31) (64 + 32 * k)
def dTid (d : DescWord) : Nat := bits d 255 224
/-- STRIDEk, k = 1 to 4. -/
def dStride (d : DescWord) (k : Nat) : Nat := bits d (224 + 32 * k + 31) (224 + 32 * k)
def dScaleBase (d : DescWord) : Nat := bits d 431 384
def dStag (d : DescWord) : Nat := bits d 447 432
def dPgroup (d : DescWord) : Nat := bits d 459 448

def dIsMx (d : DescWord) : Bool := isMx (dFmt d)
def dIsFmc (d : DescWord) : Bool := dLayout d = 3 || dLayout d = 4

/-- Bytes that a DIM0 row occupies (Table 2.3, R201). -/
def dRowBytes (d : DescWord) : Nat :=
  if dLayout d = 3 then 32 else if dLayout d = 4 then 16 else ceilDiv (dDim d 0 * fmtBits (dFmt d)) 8

/-- Number of DIM0 rows. -/
def dRows (d : DescWord) : Nat := dDim d 1 * dDim d 2 * dDim d 3 * dDim d 4

/-- Number of elements. -/
def dCount (d : DescWord) : Nat := dDim d 0 * dRows d

/-- DIM0 to DIM4. -/
def dDims (d : DescWord) : List Nat := (List.range 5).map (dDim d)

/-- Address of DIM0 row `r`, rows counted with DIM1 fastest. -/
def dRowAddr (d : DescWord) (r : Nat) : Nat :=
  let i1 := r % dDim d 1
  let r2 := r / dDim d 1
  let i2 := r2 % dDim d 2
  let r3 := r2 / dDim d 2
  let i3 := r3 % dDim d 3
  let i4 := r3 / dDim d 3
  dBase d + (if 2 ≤ dRank d then i1 * dStride d 1 else 0) +
    (if 3 ≤ dRank d then i2 * dStride d 2 else 0) +
    (if 4 ≤ dRank d then i3 * dStride d 3 else 0) +
    (if 5 ≤ dRank d then i4 * dStride d 4 else 0)

/-- Groups per row (R185). -/
def dGroups (d : DescWord) : Nat := ceilDiv (dDim d 0) (dGs d)

/-- Bytes of the scale region (R185). -/
def dScaleBytes (d : DescWord) : Nat := 80 * ceilDiv (dRows d * dGroups d) 64

/-- Highest byte of the tensor's elements (R115). -/
def dTop (d : DescWord) : Nat :=
  dBase d + ((List.range 4).foldl (fun n k =>
    if k + 2 ≤ dRank d then n + (dDim d (k + 1) - 1) * dStride d (k + 1) else n) 0) + dRowBytes d - 1

/-- Byte ranges `(lo, hi)` of a descriptor operand, scale blocks included (R115). -/
def dRanges (d : DescWord) : List (Nat × Nat) :=
  (dBase d, dTop d) ::
    if dIsMx d then [(dScaleBase d, dScaleBase d + dScaleBytes d - 1)] else []

/-! ### Elements -/

/-- Address and length of the bytes that hold element `i` of row `r`, and the bit offset of the
element in them. An FMC element lies in its block of 32 or 16 bytes. -/
def elemSpan (d : DescWord) (r i : Nat) : Nat × Nat × Nat :=
  let a := dRowAddr d r
  if dIsFmc d then (a, dRowBytes d, 32 + i * (if dLayout d = 3 then 7 else 3))
  else
    let b := fmtBits (dFmt d)
    let bit0 := i * b
    (a + bit0 / 8, ceilDiv (bit0 % 8 + b) 8, bit0 % 8)

/-- Scale index of group `g` of row `r` (R185). -/
def scaleIdx (d : DescWord) (r g : Nat) : Nat := r * dGroups d + g

/-- Address of the scale code with index `q` (Table 4.7). -/
def scaleAddr (d : DescWord) (q : Nat) : Nat := dScaleBase d + 80 * (q / 64) + 16 + q % 64

/-- Address of scale block `b`. -/
def scaleBlock (d : DescWord) (b : Nat) : Nat := dScaleBase d + 80 * b

/-- The bits of an element as stored. -/
def elemCode (s : State) (d : DescWord) (r i : Nat) : Nat :=
  let p := elemSpan d r i
  readNat s p.1 p.2.1 / 2 ^ p.2.2 % 2 ^ (if dLayout d = 3 then 7 else if dLayout d = 4 then 3 else fmtBits (dFmt d))

/-- Scale code of group `g` of row `r`. -/
def scaleCode (s : State) (d : DescWord) (r g : Nat) : Nat := readNat s (scaleAddr d (scaleIdx d r g)) 1

/-- Value of an FMC value field under exponent `E` (R202). -/
def fmcVal (layout e field : Nat) : Val :=
  let b : Nat := if layout = 3 then 6 else 2
  if e = 255 then .nan
  else
    let v := Val.fin (decide (field / 2 ^ b % 2 = 1)) (field % 2 ^ b) ((e : Int) - 126 - b)
    decodeVal 1 (roundWide 1 v)

/-- The decoded value of element `i` of row `r` of a tensor (Tables 2.1, 5.2, R72). -/
def elemVal (s : State) (d : DescWord) (r i : Nat) : Val :=
  if dIsFmc d then fmcVal (dLayout d) (readNat s (dRowAddr d r) 1) (elemCode s d r i)
  else if dIsMx d then mxVal (dFmt d) (elemCode s d r i) (scaleCode s d r (i / dGs d))
  else decodeVal (dFmt d) (elemCode s d r i)

/-- Value at linear index `e`, DIM0 fastest. -/
def elemLin (s : State) (d : DescWord) (e : Nat) : Val := elemVal s d (e / dDim d 0) (e % dDim d 0)

/-- Byte addresses that a read of element `i` of row `r` touches, its scale code and scale header
included. -/
def elemAddrs (d : DescWord) (r i : Nat) : List Nat :=
  let p := elemSpan d r i
  span p.1 p.2.1 ++
    if dIsMx d then
      let q := scaleIdx d r (i / dGs d)
      scaleAddr d q :: span (scaleBlock d (q / 64)) 16
    else []

/-- A set of elements of one tensor: (row, position). -/
abbrev ElemSet := List (Nat × Nat)

/-- Elements of linear indices `lo` to `lo + n − 1` that exist. -/
def linElems (d : DescWord) (lo n : Nat) : ElemSet :=
  (List.range (min n (dCount d - lo))).map fun k => ((lo + k) / dDim d 0, (lo + k) % dDim d 0)

/-- Byte addresses of a set of elements. -/
def setAddrs (d : DescWord) (es : ElemSet) : List Nat :=
  (es.flatMap fun e => elemAddrs d e.1 e.2).dedup

/-- Scale blocks that a set of elements reads. -/
def setScaleBlocks (d : DescWord) (es : ElemSet) : List Nat :=
  if dIsMx d then (es.map fun e => scaleIdx d e.1 (e.2 / dGs d) / 64).dedup else []

/-- Scale block `b` fails its header check against the reading descriptor (R186). -/
def scaleHeaderBad (s : State) (d : DescWord) (b : Nat) : Bool :=
  let h := readNat s (scaleBlock d b) 16
  h ≠ dStag d + (b % 16) * 65536

/-- An FMC block whose KIND or bytes 2 to 3 are wrong is a poisoned input (R202). -/
def fmcBad (s : State) (d : DescWord) (r : Nat) : Bool :=
  dIsFmc d &&
    (readNat s (dRowAddr d r + 1) 3 ≠ (if dLayout d = 3 then 2 else 4))

/-! ### Writing elements -/

/-- Bytes that hold a set of codes of row `r` of a tensor whose elements are not FMC: for each byte
touched its new value, formed from the codes given and the old bits of neighbours. -/
def codeBytes (s : State) (d : DescWord) (r : Nat) (cs : List (Nat × Nat)) : List (Nat × Byte) :=
  let b := fmtBits (dFmt d)
  if b % 8 = 0 then
    cs.flatMap fun c =>
      (List.range (b / 8)).map fun j =>
        (dRowAddr d r + c.1 * (b / 8) + j, BitVec.ofNat 8 (c.2 / 256 ^ j))
  else
    let a := dRowAddr d r
    let bytes := (cs.flatMap fun c => let p := elemSpan d r c.1; span p.1 p.2.1).dedup
    bytes.map fun y =>
      let bitOf := fun (k : Nat) =>
        let pos := (y - a) * 8 + k
        let i := pos / b
        match cs.find? fun c => c.1 = i with
        | some c => c.2 / 2 ^ (pos % b) % 2
        | none => if i < dDim d 0 then (readByte s y).toNat / 2 ^ k % 2 else 0
      (y, BitVec.ofNat 8 ((List.range 8).foldl (fun n k => n + bitOf k * 2 ^ k) 0))

/-- Bytes of a scale code written by an instruction: the code, the header of its block, and zeros in
the unused slots of the last block (R185, R186). -/
def scaleBytes (d : DescWord) (q code : Nat) : List (Nat × Byte) :=
  let b := q / 64
  let last := dRows d * dGroups d
  let hdr := leBytes 16 (dStag d + (b % 16) * 65536)
  (List.range 16).zip hdr |>.map (fun p => (scaleBlock d b + p.1, p.2)) |>.append
    ((scaleAddr d q, BitVec.ofNat 8 code) ::
      if (last - 1) / 64 = b then
        (List.range (64 - ((last - 1) % 64 + 1))).map fun k =>
          (scaleBlock d b + 16 + (last - 1) % 64 + 1 + k, (0 : Byte))
      else [])

/-- FMC value field of a magnitude. -/
def fmcField (b e : Nat) (v : Val) : Nat :=
  match v with
  | .fin neg m x =>
    let k := x - ((e : Int) - 126 - b)
    let q := if k ≥ 0 then m * 2 ^ k.toNat else shiftRna m (-k).toNat
    q + if neg then 2 ^ b else 0
  | _ => 0

/-- BF16 exponent field of a value that BF16 holds. -/
def bfExp (v : Val) : Nat := roundWide 1 v / 128 % 256

/-- The FMC encoder on one row of BF16 values (R203): exponent, fields, and the mark of each
position. DESIGN CHOICE: a NaN block carries one flag, at the first value of the row that is not finite,
or at the row's first element when the exponent correction reaches 0xFF; the spec gives its cause only. -/
def fmcEncode (layout : Nat) (vs : List Val) : Nat × List Elem :=
  let b : Nat := if layout = 3 then 6 else 2
  if vs.any fun v => !v.isFin then (255, markFirst (fun v => !v.isFin) (.nonFinite 3) vs)
  else
    let e0 := vs.foldl (fun n v => max n (bfExp v)) 0
    let top := vs.foldl (fun n v => max n (fmcField b e0 v.abs)) 0
    let e := if 0 < e0 ∧ 2 ^ b - 1 < top then e0 + 1 else e0
    if e = 255 then (255, markFirst (fun _ => true) (.nonFinite 1) vs)
    else (e, vs.map fun v => ⟨fmcField b e v, .none⟩)

/-- The bytes of an FMC block (Table 5.2). -/
def fmcBytes (d : DescWord) (r e : Nat) (fields : List Nat) : List (Nat × Byte) :=
  let w := if dLayout d = 3 then 7 else 3
  let n := (List.range fields.length).zip fields |>.foldl (fun n p => n + p.2 * 2 ^ (w * p.1)) 0
  let bs := leBytes 4 (e + 256 * (if dLayout d = 3 then 2 else 4)) ++ leBytes (dRowBytes d - 4) n
  (List.range bs.length).zip bs |>.map fun p => (dRowAddr d r + p.1, p.2)

/-! ### Descriptor checks (R123 step 4) -/

/-- A stream fault to report: code, kind, operand (Tables 3.7, 3.10). -/
structure SFault where
  code    : Nat
  kind    : Nat
  operand : Nat
  deriving DecidableEq, Repr

/-- HUB_CAP2 bits of the descriptor's format and group (Table 1.10); FMC layouts need bit 7. -/
def fmtCap (s : State) (d : DescWord) : Bool :=
  let f := dFmt d
  let fb := if f = 0 then s.rbit rCap2 18 else if f = 1 then s.rbit rCap2 16
    else if f = 2 then s.rbit rCap2 17 else if f ≤ 8 then s.rbit rCap2 (8 + (f - 3)) else true
  fb && (!isMx f || s.rbit rCap2 (19 + dGroup d)) && (!dIsFmc d || s.rbit rCap2 7)

/-- The layout suits RANK, DIM0 and format (Table 5.1). -/
def layoutOk (d : DescWord) : Bool :=
  match dLayout d with
  | 0 => true
  | 1 => dRank d = 5 && dDim d 0 = 16 && isWide (dFmt d)
  | 2 => dRank d = 5 && dDim d 0 = 32 && (!dIsMx d || dGroup d = 0)
  | 3 => dRank d = 5 && dDim d 0 = 32 && dFmt d = 1
  | 4 => dRank d = 5 && dDim d 0 = 32 && dFmt d = 1
  | _ => false

/-- The conditions of R109 on any descriptor. -/
def descOk (d : DescWord) : Bool :=
  dValid d && 1 ≤ dRank d && dRank d ≤ 5 &&
    ((List.range 5).all fun k => if k < dRank d then dDim d k ≠ 0 else dDim d k = 1) &&
    dBase d % 16 = 0 &&
    ((List.range 4).all fun k => !decide (k + 1 < dRank d) || dStride d (k + 1) % 16 = 0) &&
    layoutOk d && !bit d 61 && bits d 511 460 = 0 &&
    (dIsMx d || (dGroup d = 0 && dScaleBase d = 0 && dStag d = 0))

/-- The conditions of R109 on a descriptor that is written. -/
def descWriteOk (d : DescWord) : Bool :=
  (!decide (2 ≤ dRank d) || decide (dRowBytes d ≤ dStride d 1)) &&
    ((List.range 3).all fun j =>
      let k := j + 2
      !decide (k < dRank d) || decide (dStride d (k - 1) * dDim d (k - 1) ≤ dStride d k))

/-- R63, R69, R109 and the capability bits of one descriptor operand (R123 step 4). -/
def descCheck (s : State) (d : DescWord) (operand : Nat) (written : Bool) : Option SFault :=
  if 10 ≤ dFmt d then some ⟨0x04, 1, operand⟩
  else if dIsMx d && dGroup d = 3 then some ⟨0x07, 1, operand⟩
  else if !descOk d then some ⟨0x0B, 1, operand⟩
  else if written && !descWriteOk d then some ⟨0x0B, 1, operand⟩
  else if written && dRO d then some ⟨0x1A, 1, operand⟩
  else if !fmtCap s d then some ⟨0x03, 1, operand⟩
  else none

/-- The operand's ranges lie in the partition (R285). -/
def descRange (s : State) (p : Nat) (d : DescWord) (operand : Nat) : Option SFault :=
  if (dRanges d).all fun r => rangeInPart s p r.1 (r.2 + 1 - r.1) then none
  else some ⟨0x0C, 1, operand⟩

/-- The first fault of a list of checks. -/
def firstFault : List (Option SFault) → Option SFault
  | [] => none
  | some f :: _ => some f
  | none :: fs => firstFault fs

/-- A check that faults when `ok` is false. -/
def need (ok : Bool) (code kind operand : Nat) : Option SFault :=
  if ok then none else some ⟨code, kind, operand⟩

/-! ### Overlap of ranges (R115) -/

def rangesMeet (xs ys : List (Nat × Nat)) : Bool :=
  xs.any fun x => ys.any fun y => decide (x.1 ≤ y.2) && decide (y.1 ≤ x.2)

end Sys2Proof.Machine
end

