-- ==== Sys2Proof/Machine/Queue.lean ====
section
/-! DEFINITION. The hardware queues as shared operations (R309 to R312): configuration, the passage
from tail through middle to head, pushes, pops and the release of a stranded group. -/

namespace Sys2Proof.Machine

/-! ### Numbers (R593)

0 job intake, 0x10 + p barrier and token, 0x20 + d Accord control. The manual gives the intake queues and the step
queues no number: 0x40 + 16 m + n is the queue of ring n of site 9 + m, and 0x100 + 8 p + x the step queue of context x
of partition p. DESIGN CHOICE. -/

def qIntake (m n : Nat) : Nat := 0x40 + 16 * m + n

def qStep (p x : Nat) : Nat := 0x100 + 8 * p + x

/-- A queue that nothing has configured: a control queue without a middle. -/
def emptyQueue : Queue := ⟨3, 0, 0, 0, [], 0, 0, [], 0⟩

def getQueue (s : State) (q : Nat) : Queue := smGet emptyQueue s.queues q
def setQueue (s : State) (q : Nat) (v : Queue) : State := { s with queues := smSet emptyQueue s.queues q v }

/-- A queue as its configuration leaves it: empty, SEQ 0. -/
def freshQueue (cls base depth tmo : Nat) : Queue := ⟨cls, base, depth, tmo, [], 0, 0, [], 0⟩

/-- Entries in the middle. -/
def Queue.midLen (v : Queue) : Nat := v.mwr - v.mrd

def Queue.len (v : Queue) : Nat := v.tail.length + v.midLen + v.head.length

/-- The 64 bytes of an entry (R310). -/
def entryBytes (e : QEntry) : List Byte :=
  ((List.range 7).flatMap fun i => leBytes 8 (e.words.getD i 0).toNat) ++
    leBytes 8 (e.pois % 128 + e.seq.toNat * 256)

/-- Address of entry `i` of the middle. -/
def midAddr (v : Queue) (i : Nat) : Nat := v.base + 64 * (i % v.depth)

/-- Writes the first `n` entries of the tail to the middle. -/
def spillTail (s : State) (q n : Nat) : State :=
  let v := getQueue s q
  let n := min n v.tail.length
  let s1 := (List.range n).foldl (fun s i =>
    writeBytes s (midAddr v (v.mwr + i)) (entryBytes (v.tail.getD i ⟨[], 0, 0⟩)) none) s
  setQueue s1 q { v with tail := v.tail.drop n, mwr := v.mwr + n }

/-- Reads an entry of the middle, a non-verifying read; words of a POISONED line are delivered as they
stand with every POISON bit set (R312). -/
def readMid (s : State) (v : Queue) : QEntry :=
  let a := midAddr v v.mrd
  let n := leNat (rawBytes s a 64)
  let w := BitVec.ofNat 512 n
  ⟨(List.range 7).map (dW w), if lstAt s a = 2 then 127 else bits (dW w 7) 6 0,
    BitVec.ofNat 32 (bits (dW w 7) 39 8)⟩

/-- One passage of R311, if one is possible: from the middle to the head, from the tail to the head
while the middle is empty, or of a group from the tail to the middle. -/
def queueMove (s : State) (q : Nat) : Option State :=
  let v := getQueue s q
  let group := if v.cls = 3 then 1 else 16
  if v.head.length < 16 ∧ v.midLen ≠ 0 then
    some (setQueue s q { v with head := v.head ++ [readMid s v], mrd := v.mrd + 1 })
  else if v.head.length < 16 ∧ v.tail ≠ [] then
    some (setQueue s q { v with head := v.head ++ v.tail.take 1, tail := v.tail.drop 1 })
  else if group ≤ v.tail.length ∧ v.midLen + group ≤ v.depth then some (spillTail s q group)
  else none

/-- Passages until none is possible; at most `fuel`. -/
def queueFlow : Nat → Nat → State → State
  | 0, _, s => s
  | fuel + 1, q, s => match queueMove s q with
    | some s1 => queueFlow fuel q s1
    | none => s

def flow (s : State) (q : Nat) : State := queueFlow 100 q s

/-- A producer that finds the tail full, or DEPTH + 32 entries held, stalls (R311). -/
def queueStalls (v : Queue) : Bool := decide (16 ≤ v.tail.length) || decide (v.depth + 32 ≤ v.len)

/-- Adds an entry; a stalled producer adds none. -/
def queuePut (s : State) (q : Nat) (words : List Word) (pois : Nat) : State :=
  let v := getQueue s q
  if queueStalls v then s
  else flow (setQueue s q { v with tail := v.tail ++ [⟨words, pois, v.seq⟩], seq := v.seq + 1 }) q

/-- Releases a stranded group to the middle (R311). -/
def queueRelease (s : State) (q : Nat) : State :=
  let v := getQueue s q
  if v.tail.length < 16 ∧ v.midLen + v.tail.length ≤ v.depth then flow (spillTail s q v.tail.length) q else s

/-- Takes the entry at the head; parity found bad on the way sets POISON bits (R312). -/
def queueTake (s : State) (q : Nat) (bad : Nat) : Option (QEntry × State) :=
  let v := getQueue s q
  match v.head with
  | [] => none
  | e :: es => some ({ e with pois := e.pois ||| bad }, flow (setQueue s q { v with head := es }) q)

/-- Entries that the queue holds, oldest first. -/
def queueAll (s : State) (q : Nat) : List QEntry :=
  let v := getQueue s q
  v.head ++ ((List.range v.midLen).map fun i => readMid s { v with mrd := v.mrd + i }) ++ v.tail

end Sys2Proof.Machine
end

