-- ==== Sys2Proof/Machine/Sched.lean ====
section
/-! DEFINITION. Contexts, jobs and scheduling as shared operations: access to contexts and streams,
the status word (R479), the end of a job, the choice of the scheduled context (R485) and the save
area (R486). -/

namespace Sys2Proof.Machine

/-! ### Contexts and streams -/

def emptyStream : Stream :=
  ⟨.ended, .none, 0, 0, 0, 0, [], [], [], false, 0, 0, []⟩

def emptyCtx : Ctx :=
  ⟨[], [], [], emptyStream, emptyStream, emptyStream, false, 0, none, [], [], false⟩

def emptyPart : Part := ⟨none, none, false, 0, false, [], 0, none⟩

def ctxKey (p x : Nat) : Nat := p * 8 + x

def getCtx (s : State) (p x : Nat) : Ctx := smGet emptyCtx s.ctxs (ctxKey p x)

def setCtx (s : State) (p x : Nat) (c : Ctx) : State :=
  { s with ctxs := smSet emptyCtx s.ctxs (ctxKey p x) c }

def modCtx (s : State) (p x : Nat) (f : Ctx → Ctx) : State := setCtx s p x (f (getCtx s p x))

def getPart (s : State) (p : Nat) : Part := smGet emptyPart s.parts p

def setPart (s : State) (p : Nat) (q : Part) : State :=
  { s with parts := smSet emptyPart s.parts p q }

def Ctx.strm (c : Ctx) (k : Strm) : Stream :=
  match k with
  | .F => c.sF
  | .B => c.sB
  | .U => c.sU

def Ctx.setStrm (c : Ctx) (k : Strm) (t : Stream) : Ctx :=
  match k with
  | .F => { c with sF := t }
  | .B => { c with sB := t }
  | .U => { c with sU := t }

def Ctx.mapStrms (c : Ctx) (f : Stream → Stream) : Ctx :=
  { c with sF := f c.sF, sB := f c.sB, sU := f c.sU }

def Ctx.allStrms (c : Ctx) : List Stream := [c.sF, c.sB, c.sU]

def ctxAt (s : State) (a : StreamId) : Ctx := getCtx s a.part a.ctx

def strmAt (s : State) (a : StreamId) : Stream := (ctxAt s a).strm a.strm

def setStrmAt (s : State) (a : StreamId) (t : Stream) : State :=
  modCtx s a.part a.ctx fun c => c.setStrm a.strm t

def modStrmAt (s : State) (a : StreamId) (f : Stream → Stream) : State :=
  setStrmAt s a (f (strmAt s a))

/-- Scalar register n; s0 reads 0 (R106). -/
def sregOf (t : Stream) (n : Nat) : Word := if n = 0 then 0 else smGet 0 t.regs n

/-- The stream with scalar register n written; writes to s0 are discarded (R106). -/
def setSreg (t : Stream) (n : Nat) (v : Word) : Stream :=
  if n = 0 then t else { t with regs := smSet 0 t.regs n v }

/-- Barrier counter c of a context (R111). -/
def bcOf (c : Ctx) (n : Nat) : Half := smGet 0 c.bc n

/-- The wait on a counter with threshold T is satisfied (R111). -/
def waitMet (v t : Half) : Bool := decide ((v - t).toNat < 2 ^ 31)

/-- STATE of a partition: 0 DISABLED, 1 ENABLING, 2 ENABLED, 3 DISABLING (Table 11.23). -/
def partState (s : State) (p : Nat) : Nat := s.fld (rPartCtl p) 3 2

/-- An increment of a counter: at once for the scheduled context, to the pending word of a context
that is out while it holds started streams (R487). -/
def bcAdd (s : State) (p x n inc : Nat) : State :=
  if (getPart s p).sched = some x then
    modCtx s p x fun c => { c with bc := smSet 0 c.bc n (bcOf c n + BitVec.ofNat 32 inc) }
  else if (getCtx s p x).started then
    modCtx s p x fun c =>
      { c with pend := smSet 0 c.pend n (smGet 0 c.pend n + BitVec.ofNat 32 inc) }
  else s

/-- A context of partition `p` has started streams. -/
def anyStarted (s : State) (p : Nat) : Bool := (List.range 8).any fun x => (getCtx s p x).started

/-! ### Jobs and the status word (Tables 11.6, 11.9) -/

def jw (j : Job) (i : Nat) : Word := j.words.getD i 0
def jType (j : Job) : Nat := bits (jw j 0) 3 0
def jPart (j : Job) : Nat := bits (jw j 0) 7 4
def jCtx (j : Job) : Nat := bits (jw j 0) 10 8
def jPrio (j : Job) : Nat := bits (jw j 0) 13 12
def jServe (j : Job) : Bool := bit (jw j 0) 14
def jSubmit (j : Job) : Nat := bits (jw j 0) 63 32
/-- STATUS_ADDR, a multiple of 8 (Table 11.6). -/
def jStatus (j : Job) : Nat := bits (jw j 1) 46 3 * 8

/-- The status word (Table 11.9). -/
def statusWord (st progress err seq : Nat) : Word :=
  put st 0 ||| put (min progress 0xFFFFF) 4 ||| put err 24 ||| put seq 32

def jobStNo : JobSt → Nat
  | .queued => 1
  | .running => 2
  | .partial_ => 3

/-- Writes a job's status word, one 64-bit write (R479); that of a replayed job stays inside (R514). -/
def writeStatus (s : State) (j : Job) (st progress err : Nat) : State :=
  if j.replay then s
  else hostWriteFor s (jStatus j) (leBytes 8 (statusWord st progress err (jSubmit j)).toNat) (some j.idx)

def findJob (s : State) (idx : Nat) : Option Job := s.hub.jobs.find? fun j => j.idx = idx

def setJob (s : State) (j : Job) : State :=
  { s with hub := { s.hub with jobs := modWhere (fun k => k.idx = j.idx) (fun _ => j) s.hub.jobs } }

/-- JOB_STAT.INFLIGHT counts the jobs taken and not final (Table 11.22); those that a replay starts are
not taken from the table. -/
def countJobs (s : State) : State := s.setFld rJobStat 12 0 (s.hub.jobs.filter fun j => !j.replay).length

/-- A job reaches a final state: 4 DONE, 5 FAILED, 6 ABORTED (R479). -/
def jobEnd (s : State) (j : Job) (st progress err : Nat) : State :=
  let s1 := writeStatus s j st progress err
  countJobs { s1 with hub := { s1.hub with jobs := s1.hub.jobs.filter fun k => k.idx ≠ j.idx } }

/-- A job moves to another state or progress and its status is written. -/
def jobMove (s : State) (j : Job) (st : JobSt) (progress : Nat) : State :=
  writeStatus (setJob s { j with st := st, progress := progress }) j (jobStNo st) progress 0

/-! ### Scheduling (R485) -/

/-- The STEP that a context runs. -/
def runningStep (s : State) (p x : Nat) : Option Job :=
  s.hub.jobs.find? fun j => jType j = 1 && jPart j = p && jCtx j = x && j.st != .queued

/-- A STEP of a context that waits in its step queue; those that a replay starts are in no queue. -/
def stepWaits (p x : Nat) (j : Job) : Bool :=
  jType j = 1 && jPart j = p && jCtx j = x && j.st == .queued && !j.replay

/-- Words of a step queue's entry: the record's index and SUBMIT. The manual gives its payload no layout. DESIGN CHOICE. -/
def stepWords (j : Job) : List Word := [put j.idx 0, put (jSubmit j) 0, 0, 0, 0, 0, 0]

/-- An entry of a step queue names a job. -/
def entryIs (e : QEntry) (j : Job) : Bool := e.words.take 2 == [put j.idx 0, put (jSubmit j) 0]

/-- The job at the head of a context's step queue; none where a word of the entry is poisoned, or its job has ended. -/
def stepHead (s : State) (p x : Nat) : Option Job :=
  match (getQueue s (qStep p x)).head with
  | e :: _ => if e.pois = 0 then s.hub.jobs.find? fun j => stepWaits p x j && entryIs e j else none
  | [] => none

/-- The engine forgets the waiting jobs of a context that no entry of its step queue names: their status reads QUEUED, so
that a later scan takes them again (R471). -/
def forgetSteps (s : State) (p x : Nat) : State :=
  let es := queueAll s (qStep p x)
  { s with hub := { s.hub with jobs := s.hub.jobs.filter fun j => !stepWaits p x j || es.any fun e => e.pois = 0 && entryIs e j } }

/-- Entries at the head of a step queue whose job waits no longer leave it, at most `fuel`; one with a poisoned word takes
its job along (R312, R475). The manual does not say what the engine does with a poisoned entry. DESIGN CHOICE. -/
def trimSteps (p x : Nat) : Nat → State → State
  | 0, s => s
  | fuel + 1, s =>
    match queueTake s (qStep p x) 0 with
    | none => s
    | some (e, t) =>
      if (stepHead s p x).isSome then s
      else trimSteps p x fuel (if e.pois = 0 then t else countJobs (forgetSteps t p x))

/-- A step queue as it stands once its head waits. -/
def trimQueue (s : State) (p x : Nat) : State := trimSteps p x (getQueue s (qStep p x)).len s

/-- The QUEUED STEP that a context starts next, its checks passed: one of a replay, else the head of the step queue. -/
def queuedStep (s : State) (p x : Nat) : Option Job :=
  match s.hub.jobs.find? fun j => jType j = 1 && jPart j = p && jCtx j = x && j.st == .queued && j.checked && j.replay with
  | some j => some j
  | none => (stepHead s p x).filter fun j => j.checked

/-- The step queues of a partition as it is enabled: class 2, DEPTH 1,024, the middle in the save areas, TAIL_TMO from
TAIL_US, 0 acting as 1; what waits is in them (R309, R475, Table 11.13). -/
def configSteps (s : State) (p : Nat) : State :=
  (List.range 8).foldl (fun s x =>
    let base := s.fld (rPartSave p) 47 20 * 0x100000 + x * 0x20000 + 0x10000
    let t := setQueue s (qStep p x) (freshQueue 2 base 1024 (max 1 (s.fld (rPartCtl p) 31 16)))
    (t.hub.jobs.filter (stepWaits p x)).foldl (fun s j => queuePut s (qStep p x) (stepWords j) 0) t) s

/-- The step queues of a partition that is no longer enabled: empty, not configured. -/
def dropSteps (s : State) (p : Nat) : State :=
  (List.range 8).foldl (fun s x => setQueue s (qStep p x) emptyQueue) s

/-- HUB_SLGp_STAT.HOLDING keeps STEP jobs waiting (R512). -/
def slgHolding (s : State) (p : Nat) : Bool := s.rbit (rSlgStat p) 33

/-- Priority of a runnable context: it holds a RUNNING STEP, or a QUEUED one whose streams can
start; none otherwise. -/
def runnablePrio (s : State) (p x : Nat) : Option Nat :=
  match runningStep s p x with
  | some j => some (jPrio j)
  | none => if slgHolding s p then none else (queuedStep s p x).map jPrio

/-- The runnable context of highest PRIO; among equals the first in ascending order after the one
last scheduled, wrapping from 7 to 0. -/
def pickCtx (s : State) (p : Nat) : Option Nat :=
  let first := ((getPart s p).last.map fun x => x + 1).getD 0
  let order := (List.range 8).map fun i => (first + i) % 8
  order.foldl (fun best x =>
    match runnablePrio s p x, best with
    | none, b => b
    | some _, none => some x
    | some n, some b => if (runnablePrio s p b).getD 0 < n then some x else some b) none

/-- Pending increments join the restored counters (R487). -/
def restorePend (c : Ctx) : Ctx :=
  { c with bc := c.pend.foldl (fun m q => smSet 0 m q.1 (smGet 0 m q.1 + q.2)) c.bc, pend := [] }

/-- Address of the save area of a context (Table 11.13). -/
def saveArea (s : State) (p x : Nat) : Nat := s.fld (rPartSave p) 47 20 * 0x100000 + x * 0x20000

/-- A stream as its part of the save area gives it; one that has faulted while its context was out stays as it is. -/
def loadStream (b : List Byte) (t : Stream) : Stream :=
  if t.st = .faulted then t
  else
    let st := match leNat ((b.drop 4).take 1) % 4 with
      | 0 => RunSt.ended | 1 => .issuing | 2 => .waiting | _ => .faulted
    { t with
      pc := leNat (b.take 4), st := st, iseq := BitVec.ofNat 32 (leNat ((b.drop 8).take 4))
      regs := (List.range 31).foldl (fun m i => smSet 0 m (i + 1) (BitVec.ofNat 64 (leNat ((b.drop (16 + 8 * i)).take 8)))) [] }

/-- The state of a context that was saved is read back (R486): streams, barrier counters, descriptors. In-flight
instructions and tile progress, whose format is the ACV's, are the model's own. -/
def loadCtx (s : State) (p x : Nat) (c : Ctx) : Ctx :=
  if c.saved then
    let b := rawBytes s (saveArea s p x) 0x5000
    { c with
      sF := loadStream (b.take 0x400) c.sF, sB := loadStream ((b.drop 0x400).take 0x400) c.sB
      sU := loadStream ((b.drop 0x800).take 0x400) c.sU
      bc := (List.range 64).foldl (fun m n => smSet 0 m n (BitVec.ofNat 32 (leNat ((b.drop (0xC00 + 4 * n)).take 4)))) []
      td := (List.range 256).foldl (fun m n => smSet 0 m n (BitVec.ofNat 512 (leNat ((b.drop (0x1000 + 64 * n)).take 64)))) []
      saved := false }
  else c

/-- Context `x` becomes the scheduled one: what was saved of it is read back, and pending increments join its counters. -/
def scheduleCtx (s : State) (p x : Nat) : State :=
  modCtx (setPart s p { getPart s p with sched := some x, last := some x, draining := false }) p x fun c =>
    restorePend (loadCtx s p x c)

/-- Every started stream of the scheduled context waits under R138. -/
def allWait (c : Ctx) : Bool :=
  c.started && (c.allStrms.all fun t => t.st = .waiting || t.st = .ended) &&
    c.allStrms.any fun t => t.st = .waiting

/-- A decision point of partition `p` (R485). With no context scheduled the pick is scheduled at
once; otherwise another pick starts the pre-emption of the scheduled context (Table 11.14). -/
def decide_ (s : State) (p : Nat) : State :=
  let q := getPart s p
  if q.draining ∨ partState s p ≠ 2 then s
  else
    match q.sched, pickCtx s p with
    | none, some x => scheduleCtx s p x
    | some y, some x => if x = y then s else setPart s p { q with draining := true }
    | _, none => s

/-- A stream in the save area (Table 11.13). -/
def saveStream (t : Stream) : List Byte :=
  let st := match t.st with
    | .ended => 0 | .issuing => 1 | .waiting => 2 | .faulted => 3
  leBytes 8 (t.pc + st * 2 ^ 32) ++ leBytes 8 t.iseq.toNat ++
    (List.range 31).flatMap (fun i => leBytes 8 (sregOf t (i + 1)).toNat) ++ List.replicate 760 0

/-- The save area of a context (Table 11.13): streams, barrier counters, descriptors, and 44 KiB of in-flight
instructions and tile progress, whose format the manual does not give: free values. -/
def saveCtx (s : State) (p x : Nat) : State :=
  let a := saveArea s p x
  let c := getCtx s p x
  let s1 := writeBytes s a (saveStream c.sF) none
  let s2 := writeBytes s1 (a + 0x400) (saveStream c.sB) none
  let s3 := writeBytes s2 (a + 0x800) (saveStream c.sU) none
  let s4 := writeBytes s3 (a + 0xC00) ((List.range 64).flatMap fun n => leBytes 4 (bcOf c n).toNat) none
  let s5 := writeBytes s4 (a + 0x1000) ((List.range 256).flatMap fun n => leBytes 64 (smGet 0 c.td n).toNat) none
  let s6 := writeBytes { s5 with fresh := s5.fresh + 5632 } (a + 0x5000)
    ((List.range 5632).flatMap fun i => leBytes 8 (Config.freeValue (s5.fresh + i)).toNat) none
  modCtx s6 p x fun c => { c with saved := c.started }

end Sys2Proof.Machine
end

