-- ==== Sys2Proof/Machine/Slg.lean ====
section
/-! DEFINITION. The Sillage recorder (R508 to R512): writing one record to a partition's ring. -/

namespace Sys2Proof.Machine

/-- A Sillage record before it has a SEQ: TYPE, SRC, context, stream, payload words 2 to 7. -/
structure SlgRec where
  ty   : Nat
  src  : Nat
  ctx  : Option Nat
  strm : Nat
  pay  : List Word
  deriving DecidableEq, Repr

/-- CLU_STEP of the partition (its lead cluster's). -/
def partStep (s : State) (p : Nat) : Nat := (s.reg (rStep (leadCluster s p))).toNat

def slgOn (s : State) (p : Nat) : Bool := s.rbit (rSlgCtl p) 0

/-- Slots of the ring: SIZE_MIB × 16,384, SIZE_MIB 0 acts as 1 (R508, Table 12.12). -/
def slgSlots (s : State) (p : Nat) : Nat := max 1 (s.fld (rSlgCtl p) 12 3) * 16384

/-- k − HEAD, modulo 2^32 (R512). -/
def slgUsed (s : State) (p : Nat) : Nat :=
  ((s.reg (rSlgTail p)).toNat + 2 ^ 32 - s.fld (rSlgHead p) 31 0) % 2 ^ 32

def slgFull (s : State) (p : Nat) : Bool := slgSlots s p ≤ slgUsed s p

/-- HOLDING: hold mode with fewer than 65,536 free slots (R512). -/
def slgHoldUpdate (s : State) (p : Nat) : State :=
  s.setRBit (rSlgStat p) 33
    (slgOn s p && s.rbit (rSlgCtl p) 1 && decide (slgSlots s p - slgUsed s p < 65536))

/-- The record's words (Table 12.4). -/
def slgWords (s : State) (p : Nat) (r : SlgRec) (seq : Nat) : List Word :=
  ((put r.ty 0 ||| put r.src 8 ||| put (r.ctx.getD 0) 12 ||| put (b2n r.ctx.isSome) 15 |||
      put r.strm 16 ||| put (seq % 2 ^ 32) 32) ::
    put (partStep s p) 0 :: (r.pay ++ List.replicate 6 0)).take 8

/-- Stores a record in its slot and advances TAIL and OLDEST. -/
def slgStore (s : State) (p : Nat) (r : SlgRec) : State :=
  let k := (s.reg (rSlgTail p)).toNat
  let n := slgSlots s p
  let a := s.fld (rSlgBase p) 47 20 * 0x100000 + k % n * 64
  let s1 := writeBytes s a ((slgWords s p r (k + 1)).flatMap fun w => leBytes 8 w.toNat) none
  let q := getPart s p
  let st := partStep s p
  let steps := if (q.slgSteps.getLast?.map Prod.fst) = some st then q.slgSteps
    else q.slgSteps ++ [(st, k)]
  let kept := steps.filter fun e => k + 1 ≤ e.2 + n
  let s2 := setPart (s1.setReg (rSlgTail p) (BitVec.ofNat 64 (k + 1))) p { q with slgSteps := kept }
  slgHoldUpdate (s2.setReg (rSlgOldest p) (put ((kept.head?.map Prod.fst).getD st) 0)) p

/-- A LOST record follows once space returns (R512). -/
def slgLostFlush (s : State) (p : Nat) : State :=
  let q := getPart s p
  if q.slgLost ≠ 0 ∧ slgOn s p = true ∧ slgFull s p = false then
    slgStore (setPart s p { q with slgLost := 0 }) p ⟨0x3F, 1, none, 0, [put q.slgLost 0]⟩
  else s

/-- A record that finds the ring full in hold mode is lost: LOST, LOSTF, and event 0x0601 once per
step (R512, R519). -/
def slgLose (s : State) (p : Nat) : State :=
  let n := min (s.fld (rSlgStat p) 31 0 + 1) 0xFFFFFFFF
  let s1 := (s.setFld (rSlgStat p) 31 0 n).setRBit (rSlgStat p) 32 true
  let q := getPart s1 p
  let st := partStep s p
  let s2 := setPart s1 p { q with slgLost := q.slgLost + 1, slgEvt := some st }
  if q.slgEvt = some st then s2
  else event0 s2 0x0601 8 (some p) [put p 0 ||| put n 32, put st 0]

/-- A replay of the partition keeps the records that its work produces and that it compares (R514). -/
def replaySee (s : State) (p : Nat) (r : SlgRec) : State :=
  match s.hub.rep with
  | some q =>
    if q.part = p ∧ (r.ty = 0x07 ∨ r.ty = 0x10 ∨ r.ty = 0x14) then
      { s with hub := { s.hub with rep := some { q with seen := q.seen ++ [slgWords s p r 0] } } }
    else s
  | none => s

/-- Writes a record to the ring of partition `p` while EN is 1 (R508 to R512). -/
def slgWrite (s : State) (p : Nat) (r : SlgRec) : State :=
  let s := replaySee s p r
  if slgOn s p = false then s
  else
    let s1 := slgLostFlush s p
    if slgFull s1 p ∧ s1.rbit (rSlgCtl p) 1 then slgHoldUpdate (slgLose s1 p) p
    else slgStore s1 p r

end Sys2Proof.Machine
end

