-- ==== Sys2Proof/Machine/Streams.lean ====
section
/-! DEFINITION. What every instruction shares: acceptance, waits, the decode checks of R123 that the
word alone decides, stream faults, issue and completion, and the end of a context. -/

namespace Sys2Proof.Machine

/-! ### The end of a context -/

/-- Every stream of a started context has stopped and nothing is in flight. -/
def ctxDone (c : Ctx) : Bool :=
  c.started &&
    (c.allStrms.all fun t => t.infl.isEmpty && !t.hold && (t.st = .ended || t.st = .faulted || c.fault ≠ 0))

/-- The context that ends: streams stopped, fence counts and user tables gone, the fault records
kept until the next start. -/
def closeCtx (c : Ctx) : Ctx :=
  { c.mapStrms (fun t => { t with st := if t.st = .faulted then .faulted else .ended, wait := .none, hold := false }) with
    started := false, job := none, fences := [], pend := [], saved := false }

/-- JOB_END record of Sillage (Table 12.5). -/
def slgJobEnd (s : State) (p x idx : Nat) (w : Word) : State :=
  slgWrite s p ⟨0x07, 1, some x, 0, [w, put (idx % 4096) 0]⟩

/-- A running STEP of context `x` reaches a final state. -/
def stepEnd (s : State) (p x st progress err : Nat) : State :=
  match runningStep s p x with
  | none => s
  | some j =>
    let s1 := slgJobEnd s p x j.idx (statusWord st progress err (jSubmit j))
    jobEnd s1 j st progress err

/-- A context whose three streams have ended, or that has faulted and drained, ends: its STEP ends
DONE or FAILED and the partition takes a decision (R125, R132, R475, R485). While the partition
disables, the disable sequence ends its jobs (R489). -/
def settle (s : State) (p x : Nat) : State :=
  let c := getCtx s p x
  if ctxDone c && partState s p ≠ 3 then
    let s1 := if c.fault = 0 then stepEnd s p x 4 0 0 else stepEnd s p x 5 0 c.fault
    let s2 := setCtx s1 p x (closeCtx c)
    let q := getPart s2 p
    let s3 := if q.sched = some x then setPart s2 p { q with sched := none, draining := false } else s2
    decide_ s3 p
  else s

/-! ### Stream faults (R124 to R127) -/

/-- The fault record of Table 3.10. -/
def faultWord (f : SFault) (x op pc : Nat) : Word :=
  put f.code 0 ||| put f.kind 8 ||| put 1 10 ||| put f.operand 12 ||| put (op % 256) 16 |||
    put x 24 ||| put (pc % 2 ^ 32) 32

/-- A stream stops with a fault: the first fault of the context is recorded, its other streams issue
no further instruction, what has issued runs to completion (R125 to R127). -/
def streamFaultAt (s : State) (a : StreamId) (f : SFault) (op pc : Nat) : State :=
  let c := ctxAt s a
  let t := c.strm a.strm
  let t1 := { t with st := .faulted, wait := .none, pc := pc
                     fault := if c.fault = 0 then faultWord f a.ctx op pc else t.fault }
  let c1 := { c.setStrm a.strm t1 with fault := if c.fault = 0 then f.code else c.fault }
  settle (setCtx s a.part a.ctx c1) a.part a.ctx

/-- A fault at the instruction at the PC. -/
def streamFault (s : State) (a : StreamId) (f : SFault) (op : Nat) : State :=
  streamFaultAt s a f op (strmAt s a).pc

/-! ### Acceptance -/

/-- The word that the stream's instruction buffer holds at its PC (R112, R113). -/
def bufferWord (t : Stream) : Option InstrWord :=
  (t.ibuf.find? fun b => b.1 = t.pc / 64).bind fun b => b.2[t.pc % 64]?

/-- A debug session halts the context (R544). -/
def haltedCtx (s : State) (p x : Nat) : Bool := s.sec.halted.contains (ctxKey p x)

/-- The sequencer takes the word at the PC now: the context is scheduled, neither halted nor being
pre-empted, has no fault, the stream is issuing or waiting, is not held, and its buffer holds `w` at the PC. -/
def accepts (s : State) (a : StreamId) (w : InstrWord) : Bool :=
  let c := ctxAt s a
  let t := c.strm a.strm
  let q := getPart s a.part
  c.started && c.fault = 0 && (t.st = .issuing || t.st = .waiting) && !t.hold && !haltedCtx s a.part a.ctx &&
    q.sched = some a.ctx.val && !q.draining && decide (t.pc < t.plen) && bufferWord t = some w

/-- The block that the PC lies in becomes the most recently used (R112). -/
def touchBlock (t : Stream) : Stream :=
  match t.ibuf.find? fun b => b.1 = t.pc / 64 with
  | some b => { t with ibuf := b :: t.ibuf.filter fun c => c.1 ≠ t.pc / 64 }
  | none => t

/-- The stream holds at a wait (R138): a wait of every stream while another context is runnable is
a decision point (R485). -/
def waitOn (s : State) (a : StreamId) (w : Wait) : State :=
  let s1 := modStrmAt s a fun t =>
    { t with st := .waiting, wait := w, since := if t.st = .waiting ∧ t.wait = w then t.since else timeNs s }
  if allWait (ctxAt s1 a) then decide_ s1 a.part else s1

/-- The wait of WEN is satisfied (R133). -/
def wenMet (s : State) (a : StreamId) (w : InstrWord) : Bool :=
  !iWen w || waitMet (bcOf (ctxAt s a) (iWbc w)) ((sregOf (strmAt s a) (iWsrc w)).setWidth 32)

/-! ### Issue -/

/-- Trace entry of R552: PC, ISEQ, OP, context, stream, issue time. -/
def traceEntry (s : State) (a : StreamId) (w : InstrWord) : Nat :=
  let t := strmAt s a
  t.pc % 2 ^ 32 + t.iseq.toNat * 2 ^ 32 + iOp w * 2 ^ 64 + a.ctx.val * 2 ^ 72 +
    strmNo a.strm * 2 ^ 75 + (timeNs s % 2 ^ 48) * 2 ^ 80

/-- Every cluster of the partition records the issue while a session of D1 or above is open. -/
def traceIssue (s : State) (a : StreamId) (w : InstrWord) : State :=
  if s.fld rSecState 3 2 = 0 then s
  else (partClusters s a.part).foldl (fun s c =>
    { s with trace := smMod [] s.trace (c * 4 + strmNo a.strm) fun l => (traceEntry s a w :: l).take 4096 }) s

/-- CMP_EVERY of the comparator in a normal run, or 0 while it is off (R516). -/
def cmpNormal (s : State) (p : Nat) : Nat :=
  if s.rbit (rSlgCtl p) 2 then max 1 (s.fld (rSlgCtl p) 20 13) else 0

/-- The comparator group size of the partition: its replay's, or that of a normal run (R516). -/
def cmpEvery (s : State) (p : Nat) : Nat :=
  match s.hub.rep with
  | some q => if q.part = p then q.every else cmpNormal s p
  | none => cmpNormal s p

/-- A comparator group ends at this instruction (R516). -/
def groupEnds (s : State) (a : StreamId) (w : InstrWord) : Bool :=
  let n := cmpEvery s a.part
  n ≠ 0 && (((strmAt s a).iseq.toNat + 1) % n = 0 || iOp w = 0x0F)

/-- The instruction at the PC issues: ISEQ counts it (R92), the PC becomes `npc`, the stream
issues on; a PC at the end of the window without END stops the stream with code 0x0F (R112). -/
def advance (s : State) (a : StreamId) (w : InstrWord) (npc : Nat) : State :=
  let hold := groupEnds s a w
  let s1 := modStrmAt (traceIssue s a w) a fun t =>
    { touchBlock t with st := .issuing, wait := .none, pc := npc, iseq := t.iseq + 1, hold := hold }
  if (strmAt s1 a).plen ≤ npc then streamFault s1 a ⟨0x0F, 1, 0⟩ 0 else s1

/-- The signal of SEN (R133). -/
def signal (s : State) (a : StreamId) (w : InstrWord) : State :=
  if iSen w then bcAdd s a.part a.ctx (iSbc w) 1 else s

/-- An instruction that completes in order at once: its effect, its signal, the next PC. -/
def completeNow (s : State) (a : StreamId) (w : InstrWord) (npc : Nat) : State :=
  advance (signal s a w) a w npc

/-- A new in-flight record (R105, R110). -/
def newInFlight (s : State) (t : Stream) (w : InstrWord) (tds : List DescWord) (aux : List Nat)
    (n : Nat) : InFlight :=
  ⟨t.iseq, t.pc, w, tds, sregOf t (iSa w), sregOf t (iSb w), aux, n, [], [], [], [], [], false, false,
    false, timeNs s, []⟩

/-- Issues an instruction that stays in flight. -/
def issueFlight (s : State) (a : StreamId) (w : InstrWord) (tds : List DescWord) (aux : List Nat)
    (n : Nat) : State :=
  let s1 := modStrmAt s a fun t => { t with infl := t.infl ++ [newInFlight s t w tds aux n] }
  advance s1 a w ((strmAt s a).pc + 1)

/-- The in-flight instruction with issue count `i`. -/
def findFlight (t : Stream) (i : BitVec 32) : Option InFlight := t.infl.find? fun f => f.iseq = i

def setFlight (s : State) (a : StreamId) (f : InFlight) : State :=
  modStrmAt s a fun t => { t with infl := modWhere (fun g => g.iseq = f.iseq) (fun _ => f) t.infl }

/-- Removes a completed instruction from flight. -/
def dropFlight (s : State) (a : StreamId) (i : BitVec 32) : State :=
  modStrmAt s a fun t => { t with infl := t.infl.filter fun f => f.iseq ≠ i }

/-! ### Checks of the word alone (R123 steps 1 and 2; R118, R121) -/

/-- Operand fields that an opcode uses (Table 3.5): the four descriptors, SD, SA, SB, and X. -/
structure Uses where
  tds : List Nat
  sd  : Bool := false
  sa  : Bool := false
  sb  : Bool := false
  /-- Mask of the bits of X that the definition assigns (R119). -/
  x   : Nat := 0
  deriving DecidableEq, Repr

/-- Classes that accept each header bit (R118). -/
def satOk (op : Nat) : Bool := op / 16 = 3 || op / 16 = 4 || op / 16 = 8
def strictOk (op : Nat) : Bool := op / 16 = 3 || op / 16 = 4 || op / 16 = 7
def spillOk (op : Nat) : Bool := op / 16 = 3 || op / 16 = 4
def distOk (op : Nat) : Bool := 3 ≤ op / 16 && op / 16 ≤ 8

/-- Header bits and reserved bits (R118, R121): operand 10 is the header. -/
def headerCheck (w : InstrWord) : Option SFault :=
  let op := iOp w
  need ((!iSat w || satOk op) && (!iStrict w || strictOk op) && (!iSpill w || spillOk op) &&
    (!iDist w || distOk op) && !bit w 31 && !bit w 79 &&
    (iWen w || iWbc w = 0) && (iSen w || iSbc w = 0)) 0x02 0 10

/-- Unused operand fields and unassigned bits of X must be 0 (R119, R121); WSRC is operand 8. DESIGN CHOICE:
of several bad fields of one word, the OPERAND of the fault record (Table 3.10) names the first in this order:
header, WSRC, TDA to TDD, SD, SA, SB, X, then the class's own values; R123 orders its steps only. -/
def fieldCheck (w : InstrWord) (u : Uses) : Option SFault :=
  firstFault ([headerCheck w, need (iWen w || iWsrc w = 0) 0x02 0 8] ++
    ((List.range 4).map fun k => need (u.tds.contains k || iTd w k = 0) 0x02 0 (k + 1)) ++
    [need (u.sd || iSd w = 0) 0x02 0 5, need (u.sa || iSa w = 0) 0x02 0 6,
     need (u.sb || iSb w = 0) 0x02 0 7, need (iX w &&& (2 ^ 48 - 1 - u.x) = 0) 0x02 0 9])

/-- Mask of X bits `[hi:lo]`. -/
def xm (hi lo : Nat) : Nat := (2 ^ (hi - lo + 1) - 1) * 2 ^ lo

/-- An instruction at the head of its stream: not accepted, the command changes nothing; its WEN
wait holds the stream; then the wait `r115` for earlier instructions; then a failed check of the
word stops it; otherwise `k` goes on. `extra` are the class's own checks of the word (R123). -/
def withWordAfter (s : State) (a : StreamId) (w : InstrWord) (r115 : Bool) (op : Nat) (u : Uses)
    (extra : List (Option SFault)) (k : State → State) : State :=
  if accepts s a w && iOp w = op then
    if wenMet s a w then
      if r115 then s
      else match firstFault (fieldCheck w u :: extra) with
      | some f => streamFault s a f op
      | none => k s
    else waitOn s a (.counter (iWbc w) ((sregOf (strmAt s a) (iWsrc w)).setWidth 32))
  else s

/-- An instruction that waits for no earlier one. -/
def withWord (s : State) (a : StreamId) (w : InstrWord) (op : Nat) (u : Uses)
    (extra : List (Option SFault)) (k : State → State) : State := withWordAfter s a w false op u extra k

/-- Every earlier instruction of the stream has completed. -/
def drained (s : State) (a : StreamId) : Bool := (strmAt s a).infl.isEmpty

/-- sA, sB of the instruction. -/
def vA (s : State) (a : StreamId) (w : InstrWord) : Word := sregOf (strmAt s a) (iSa w)
def vB (s : State) (a : StreamId) (w : InstrWord) : Word := sregOf (strmAt s a) (iSb w)

/-- Writes sD. -/
def putD (s : State) (a : StreamId) (w : InstrWord) (v : Word) : State :=
  modStrmAt s a fun t => setSreg t (iSd w) v

/-- The descriptor operand `k` of the instruction: 0 TDA, 1 TDB, 2 TDC, 3 TDD. -/
def opDesc (s : State) (a : StreamId) (w : InstrWord) (k : Nat) : DescWord :=
  smGet 0 (ctxAt s a).td (iTd w k)

/-- The tag of a stream instruction (Table 7.9). -/
def strmTag (a : StreamId) (iseq : BitVec 32) : Tag :=
  ⟨iseq, BitVec.ofNat 3 a.ctx.val, BitVec.ofNat 2 (strmNo a.strm), 1⟩

/-- The instruction as a reader of the tensor of `d` (R304). -/
def rdr (a : StreamId) (iseq : BitVec 32) (d : DescWord) : Reader :=
  ⟨strmTag a iseq, some a.part, dTid d, dBase d⟩

/-! ### Hazards (R115) -/

/-- Descriptor operands that an instruction reads and writes: bit k of each mask is operand k, bit 4
a container that X names. -/
def roles (w : InstrWord) : Nat × Nat :=
  let op := iOp w
  if op = 0x22 then (0, 4)
  else if op = 0x25 ∨ op = 0x62 ∨ op = 0xA3 ∨ op = 0xC1 then (1, 0)
  else if op = 0x31 then (15, 4)
  else if op = 0x24 then (5, 4)
  else if op = 0x43 then (7, 4)
  else if op = 0x44 then if xF w 1 1 = 1 then (9, 4) else (1, if xF w 2 0 = 4 then 12 else 4)
  else if op = 0x56 ∨ op = 0x60 then (1, 20)
  else if op = 0x90 then
    if xF w 1 0 = 0 then (15, 14) else if xF w 1 0 = 1 then (1, 0) else (3, 6)
  else if op = 0xA4 then (0, 4)
  else (11, 4)

/-- Ranges of the operands in a mask. -/
def maskRanges (tds : List DescWord) (m : Nat) : List (Nat × Nat) :=
  (List.range 5).flatMap fun k => if m / 2 ^ k % 2 = 1 then
    (let d := tds.getD k 0; if dValid d then dRanges d else []) else []

/-- A user table slot as a memory range: TLOAD writes it, TFN and TDER read it (R236). Ranges from
2^50 name no memory. -/
def slotRange (w : InstrWord) (read : Bool) : List (Nat × Nat) :=
  let r := fun n => [(2 ^ 50 + n, 2 ^ 50 + n)]
  if read then
    if (iOp w = 0x60 ∨ iOp w = 0x61) ∧ 0x10 ≤ xF w 7 0 ∧ xF w 7 0 ≤ 0x13 then r (xF w 7 0 - 0x10) else []
  else if iOp w = 0x62 then r (xF w 1 0) else []

/-- The norm record at `adr` that UPD APPLY reads, and that UPD NORM and Accord add to. -/
def normRange (w : InstrWord) (adr : Option Nat) (read : Bool) : List (Nat × Nat) :=
  match adr with
  | none => []
  | some n => if (iOp w = 0x90 ∧ xF w 1 0 = 0) = read then [(n, n + 47)] else []

/-- Norm record address of an instruction in flight: `aux` entry 1 holds it plus 1, or 0. -/
def flightNorm (f : InFlight) : Option Nat :=
  if 0x90 ≤ iOp f.w ∧ iOp f.w ≤ 0xA2 ∧ f.aux.getD 1 0 ≠ 0 then some (f.aux.getD 1 0 - 1) else none

/-- Ranges read and written by an instruction in flight: its descriptors by their roles, table slots
and the norm record. -/
def flightReads (f : InFlight) : List (Nat × Nat) :=
  maskRanges f.tds (roles f.w).1 ++ slotRange f.w true ++ normRange f.w (flightNorm f) true
def flightWrites (f : InFlight) : List (Nat × Nat) :=
  maskRanges f.tds (roles f.w).2 ++ slotRange f.w false ++ normRange f.w (flightNorm f) false

/-- An instruction with these ranges waits for an earlier one in flight (R115). -/
def hazard (s : State) (a : StreamId) (rd wr : List (Nat × Nat)) : Bool :=
  (strmAt s a).infl.any fun j =>
    rangesMeet (flightWrites j) (rd ++ wr) || rangesMeet (flightReads j) wr

/-- The descriptors TDA to TDD as captured: an operand that the opcode does not use is 0. -/
def capture4 (s : State) (a : StreamId) (w : InstrWord) (used : List Nat) : List DescWord :=
  (List.range 4).map fun k => if used.contains k then opDesc s a w k else 0

end Sys2Proof.Machine
end

