-- ==== Sys2Proof/Machine/Fence.lean ====
section
/-! DEFINITION. Parameter-group records and the fence unit: reader counts, release counts, locks
(R251, R252, R270 to R274). -/

namespace Sys2Proof.Machine

/-! ### Group records (Table 6.2) -/

/-- Address of record `g` of the partition's table (R251). -/
def pgAddr (s : State) (p g : Nat) : Nat :=
  s.fld (rPgBase (leadCluster s p)) 47 6 * 64 + 64 * g

/-- The 64 bytes of a group record as one number; none when a line is POISONED (R252). -/
def pgRecord (s : State) (p g : Nat) : Option (BitVec 512) :=
  (nread s (pgAddr s p g) 64).map fun bs => BitVec.ofNat 512 (leNat bs)

/-- Field `[hi:lo]` of word `i` of a record. -/
def pgF (r : BitVec 512) (i hi lo : Nat) : Nat := bits r (64 * i + hi) (64 * i + lo)

/-- Fence fields of a record: FENCE, VSTAGE, NMB, WQ_ID, WQT_ID, G_ID, counts 0. -/
def pgFence (r : BitVec 512) : FenceG :=
  ⟨pgF r 0 7 7 = 1, pgF r 0 10 8, pgF r 0 31 16, pgF r 6 31 0, pgF r 6 63 32, pgF r 7 31 0, 0, 0, false⟩

/-! ### The fence unit -/

/-- Fence fields and counts of group `g` that the context holds. -/
def fenceOf (c : Ctx) (g : Nat) : Option FenceG := (c.fences.find? fun q => q.1 = g).map Prod.snd

def setFence (c : Ctx) (g : Nat) (f : FenceG) : Ctx :=
  { c with fences := (c.fences.filter fun q => q.1 ≠ g) ++ [(g, f)] }

def modFence (s : State) (p x g : Nat) (h : FenceG → FenceG) : State :=
  modCtx s p x fun c => match fenceOf c g with
    | some f => setFence c g (h f)
    | none => c

/-- Reads the fence fields of a group the first time the context needs them; none when the record
is poisoned (R252). -/
def loadFence (s : State) (p x g : Nat) : Option State :=
  match fenceOf (getCtx s p x) g with
  | some _ => some s
  | none => (pgRecord s p g).map fun r =>
    modCtx (cacheUse s true false [pgAddr s p g]) p x fun c => setFence c g (pgFence r)

/-- Loads a list of groups. -/
def loadFences (s : State) (p x : Nat) : List Nat → Option State
  | [] => some s
  | g :: gs => (loadFence s p x g).bind fun s1 => loadFences s1 p x gs

/-- Descriptors of the captured operands in a mask that are valid. -/
def maskDescs (tds : List DescWord) (m : Nat) : List DescWord :=
  (List.range 5).flatMap fun k =>
    if m / 2 ^ k % 2 = 1 ∧ dValid (tds.getD k 0) = true then [tds.getD k 0] else []

/-- The instruction reads the group's working copy through one of these descriptors (R271). -/
def readsWq (f : FenceG) (g : Nat) (ds : List DescWord) : Bool :=
  f.fence && ds.any fun d => decide (dPgroup d = g) && (decide (dTid d = f.wq) ||
    (decide (dTid d = f.wqt) && decide (f.wqt ≠ 0xFFFFFFFF)))

/-- Groups that an instruction of stream F counts in. -/
def countGroups (c : Ctx) (ds : List DescWord) : List Nat :=
  (ds.map dPgroup).dedup.filter fun g => match fenceOf c g with
    | some f => readsWq f g ds
    | none => false

/-- Counts one reader of each group (R271). -/
def countReaders (s : State) (p x : Nat) (gs : List Nat) : State :=
  gs.foldl (fun s g => modFence s p x g fun f => { f with rc := f.rc + 1 }) s

/-- Groups whose records the issue of an instruction needs: stream F, of the descriptors read;
stream B, of TDC (R271, R272). -/
def fenceNeeds (a : StreamId) (tds : List DescWord) (w : InstrWord) : List Nat :=
  match a.strm with
  | .F => ((maskDescs tds (roles w).1).map dPgroup).dedup
  | .B => (maskDescs tds 4).map dPgroup
  | .U => []

/-- What the fence unit does at issue: a poisoned record stops the stream with 0x18; while a LOCK is
set the stream waits; a count beyond 65,535 stops it with 0x1C; otherwise the readers count and `k`
goes on (R252, R271, R272). -/
def withFence (s : State) (a : StreamId) (w : InstrWord) (tds : List DescWord) (op : Nat)
    (k : State → State) : State :=
  match loadFences s a.part a.ctx (fenceNeeds a tds w) with
  | none => streamFault s a ⟨0x18, 2, 0⟩ op
  | some s1 =>
    let c := ctxAt s1 a
    let gs := if a.strm = .F then countGroups c (maskDescs tds (roles w).1) else []
    match gs.find? fun g => ((fenceOf c g).map FenceG.lock).getD false with
    | some g => waitOn s1 a (.fence g)
    | none =>
      if gs.any fun g => decide (65535 ≤ ((fenceOf c g).map FenceG.rc).getD 0) then
        streamFault s1 a ⟨0x1C, 2, 0⟩ op
      else k (countReaders s1 a.part a.ctx gs)

/-- Instructions of the context that come before `f` of stream number `k`: earlier issued, ties in the order
F, B, U (R181, R274). -/
def olderOf (c : Ctx) (k : Nat) (f : InFlight) : List InFlight :=
  [(0, c.sF), (1, c.sB), (2, c.sU)].flatMap fun q => q.2.infl.filter fun g =>
    if q.1 = k then decide (g.pc ≠ f.pc ∨ g.iseq ≠ f.iseq) && decide ((f.iseq - g.iseq).toNat < 2 ^ 31)
    else decide (g.t0 < f.t0) || (decide (g.t0 = f.t0) && decide (q.1 < k))

/-- Condition of Table 6.5: `rel` also asks for the releases of the step. -/
def fenceOpen (f : FenceG) (rel : Bool) : Bool :=
  !f.fence || (f.rc = 0 && !f.lock && (!rel || f.nmb = 0 || f.rel = f.nmb))

/-- The release of an instruction of stream B at completion: RC down, REL up; the second part is the
fault of R272. -/
def fenceRelease (s : State) (a : StreamId) (d : DescWord) : State × Bool :=
  match fenceOf (ctxAt s a) (dPgroup d) with
  | none => (s, false)
  | some f =>
    if f.fence ∧ dTid d = f.g then
      if f.rc = 0 ∨ (f.nmb ≠ 0 ∧ f.nmb ≤ f.rel) then (s, true)
      else (modFence s a.part a.ctx (dPgroup d) fun f =>
        { f with rc := f.rc - 1, rel := (f.rel + 1) % 65536 }, false)
    else (s, false)

end Sys2Proof.Machine
end

