-- ==== Sys2Proof/Machine/Fabric.lean ====
section
/-! DEFINITION. What a die sends another: die-protocol headers, logical links and credits (R370, R374 to R377), and the
Accord messages between the units of two dies (R435). -/

namespace Sys2Proof.Machine

/-! ### Headers (R374, R375) -/

/-- Bits [63:0] of a header with its TYPE. -/
def headerWord (ty : Nat) (h : DieHdr) : Nat :=
  ty + h.vc.toNat * 64 + h.src.toNat * 256 + h.dst.toNat * 4096 + h.tag.toNat * 65536 + h.attr.toNat * 2 ^ 32

/-- UNIT and INDEX that name a die as the receiver of a message: the hub, a media site, or the bridge
modules of a compute die's hub edge. -/
def dieUnit (d : Nat) : Nat × Nat := if d = 8 then (8, 0) else if 9 ≤ d then (7, d) else (4, d * 8)

/-- A message that its receiver discards writes one contained record (R375, R434). -/
def discardRecord (s : State) (ty : Nat) (h : DieHdr) : State :=
  let d := h.dst.toNat
  errRecord s { code := 0x0907, cls := 3, die := min d 10, unit := (dieUnit d).1, index := (dieUnit d).2
                cause := ty, d0 := headerWord ty h }

/-- A compute die has latched its number and is in service; the hub; or a media site in service (R8, R372, R383). -/
def dieReady (s : State) (d : Nat) : Bool :=
  if d < 8 then diePresent s d && s.rbit (rDieIdent d) 7 else d = 8 || s.rbit rCap0 (d - 1)

/-- Media site `d` holds a guest die. -/
def guestAt (s : State) (d : Nat) : Bool := decide (9 ≤ d) && s.fld rCap0 11 10 = 2

/-! ### Logical links and credits (R370, R376, R377) -/

/-- Edge on which a message leaves a die: the direct edge to a column neighbour, else the die's edge to the hub, or the
hub's edge to the destination (R27). -/
def outEdge (src dst : Nat) : Nat :=
  let e := fun d => if d < 8 then d else d + 5
  if src = 8 then e dst
  else if src < 8 ∧ dst < 8 ∧ src / 4 = dst / 4 ∧ (src + 1 = dst ∨ dst + 1 = src) then
    8 + (if src < dst then src - src / 4 else dst - dst / 4)
  else e src

/-- The type concerns the 4 KiB block at ADDR. -/
def aboutBlock (ty : Nat) : Bool := (1 ≤ ty && ty ≤ 6) || (0x21 ≤ ty && ty ≤ 0x24)

/-- Logical link of an edge on which a message travels (R370). -/
def logicalLink (ty : Nat) (h : DieHdr) : Nat :=
  if 14 ≤ outEdge h.src.toNat h.dst.toNat ∨ aboutBlock ty = false then 0 else h.addr.toNat / 4096 % 2

/-- Key of the credits of one VC on one logical link. -/
def creditKey (ty : Nat) (h : DieHdr) : Nat :=
  (outEdge h.src.toNat h.dst.toNat * 2 + logicalLink ty h) * 4 + h.vc.toNat

/-- Credits of a VC on a logical link: one for each request tag (Table 9.2). The manual gives no number. DESIGN CHOICE. -/
def vcCredits : Nat := 16384

/-- The VC of a message's logical link has a credit left. -/
def hasCredit (s : State) (ty : Nat) (h : DieHdr) : Bool := decide (smGet 0 s.fabr.credit (creditKey ty h) < vcCredits)

/-- A message is sent with a credit, or waits for one. Responses find the room that their requester reserved. -/
def sendDie (s : State) (ty : Nat) (h : DieHdr) (data : List Nat) : State :=
  if h.vc = 1 then s.send (.die ty h data)
  else if hasCredit s ty h then
    let t := s.send (.die ty h data)
    { t with fabr := { t.fabr with credit := smMod 0 t.fabr.credit (creditKey ty h) (· + 1) } }
  else { s with fabr := { s.fabr with held := s.fabr.held ++ [.die ty h data] } }

/-- Input edge of the hub, or of a die, by which a held message came. -/
def heldFrom : OutMsg → Nat
  | .die _ h _ => h.src.toNat
  | _ => 0

/-- The held message that has the next turn on a VC and link: its source follows, round robin, the one served last;
of one source the oldest. -/
def nextHeld (s : State) (key : Nat) : Option OutMsg :=
  let ms := s.fabr.held.filter fun m => match m with
    | .die ty h _ => creditKey ty h = key
    | _ => false
  let last := smGet 0 s.fabr.turn key
  firstSome (fun i => ms.find? fun m => heldFrom m = (last + 1 + i) % 11) (List.range 11)

/-- A message has reached its receiver: its credit returns, and a message held for it goes. -/
def creditBack (s : State) (ty : Nat) (h : DieHdr) : State :=
  let key := creditKey ty h
  if h.vc = 1 then s
  else
    let s1 := { s with fabr := { s.fabr with credit := smMod 0 s.fabr.credit key (· - 1) } }
    match nextHeld s1 key with
    | some (.die ty' h' data) =>
      sendDie { s1 with fabr := { s1.fabr with
        held := dropFirst (fun m => m = .die ty' h' data) s1.fabr.held
        turn := smSet 0 s1.fabr.turn key h'.src.toNat } } ty' h' data
    | _ => s1

/-! ### Accord messages between dies (R435) -/

/-- Key of the stream from one Accord unit to another. -/
def accKey (h : DieHdr) : Nat := h.src.toNat * 16 + h.dst.toNat

/-- Header of ACCD and ACCC for a rank of partition `p`. -/
def unitHdr (src dst p : Nat) : DieHdr :=
  ⟨3, BitVec.ofNat 4 src, BitVec.ofNat 4 dst, 0, 0, 0, BitVec.ofNat 4 p, false, false, false⟩

/-- Granules of one ACCD. -/
def accdGrans : Nat := 4

/-- Granules that a unit may send another before a credit comes. The manual gives no number. DESIGN CHOICE. -/
def accWindow : Nat := 1024

/-- A credit is left for one ACCD on the stream. -/
def accRoom (s : State) (key : Nat) : Bool :=
  decide (smGet 0 s.acc.sent key + accdGrans ≤ accWindow + smGet 0 s.acc.credit key)

/-- ACCD goes with a credit, or waits for one behind those that wait. -/
def sendAccd (s : State) (h : DieHdr) (v : Nat) : State :=
  if accRoom s (accKey h) && !(s.acc.hold.any fun q => accKey q.1 = accKey h) then
    sendDie { s with acc := { s.acc with sent := smMod 0 s.acc.sent (accKey h) (· + accdGrans) } } 0x38 h [v]
  else { s with acc := { s.acc with hold := s.acc.hold ++ [(h, v)] } }

/-- ACCD that waited for a credit go, oldest first; at most `fuel`. -/
def accRelease (key : Nat) : Nat → State → State
  | 0, s => s
  | fuel + 1, s =>
    match s.acc.hold.find? fun q => accKey q.1 = key with
    | some q =>
      if accRoom s key then
        accRelease key fuel (sendDie { s with acc := { s.acc with
          sent := smMod 0 s.acc.sent key (· + accdGrans), hold := dropFirst (fun x => x = q) s.acc.hold } } 0x38 q.1 [q.2])
      else s
    | none => s

/-- The granules of a message as the stream between two units carries them: whole pieces of 64 bytes, the last one
filled with zero granules. -/
def accPieces (gs : List Nat) : List Nat :=
  (chunks accdGrans (gs.length + 1) gs).map fun c => ((List.range accdGrans).zip c).foldl (fun v q => v + q.2 % 2 ^ 128 * 2 ^ (128 * q.1)) 0

/-- A message from one Accord unit to another. -/
def sendAccds (s : State) (src dst p : Nat) (gs : List Nat) : State :=
  (accPieces gs).foldl (fun s v => sendAccd s (unitHdr src dst p) v) s

/-- ACCC: kind 1 credit, 2 completion, 3 abort. -/
def sendAccc (s : State) (h : DieHdr) (kind gid opseq count : Nat) : State :=
  sendDie s 0x39 h [kind, gid, opseq, count]

/-- Header of a link message as a granule (Table 10.14). -/
def accGranule (ty : Nat) (h : AccHdr) : Nat :=
  ty + b2n h.pois * 2 ^ 4 + h.gid.toNat * 2 ^ 8 + h.srcRank.toNat * 2 ^ 24 + h.dstRank.toNat * 2 ^ 36 + h.opseq.toNat * 2 ^ 48 +
    h.len.toNat * 2 ^ 56 + h.offset.toNat * 2 ^ 64 + h.aux.toNat * 2 ^ 112

end Sys2Proof.Machine
end

