-- ==== Sys2Proof/Machine/Lnk.lean ====
section
/-! DEFINITION. One link: its state, the selection of rate, protocol and width (R412, R413), and the flits that it
sends (R406 to R410). -/

namespace Sys2Proof.Machine

/-! ### State of a link -/

/-- A link that has not trained: no data flit received or acknowledged. -/
def emptyLnk : Lnk := ⟨0, 0, 0, 0, 0, false, 0xFFF, 0xFFF, false, false, 0, 0, 0, 0, 0, 0, false, false, false, 0, []⟩

def getLnk (s : State) (l : Nat) : Lnk := smGet emptyLnk s.lnks l
def setLnk (s : State) (l : Nat) (k : Lnk) : State := { s with lnks := smSet emptyLnk s.lnks l k }

/-- STATE of LNK_STAT (Table 10.20). -/
def lnkState (s : State) (l : Nat) : Nat := s.fld (rLnkStat l) 2 0
def setLnkState (s : State) (l v : Nat) : State := s.setFld (rLnkStat l) 2 0 v

def lnkPresent (s : State) (l : Nat) : Bool := decide (l < 48) && s.rbit rCap3 l
def lnkEn (s : State) (l : Nat) : Bool := s.rbit (rLnkCtl l) 0

/-- The link carries or recovers traffic. -/
def lnkLive (s : State) (l : Nat) : Bool := lnkState s l = 4 || lnkState s l = 5

/-! ### Selection (R412, R413) -/

/-- Rates that the port offers under a value of LNK_CTL: those of the capability word, permitted and not removed (R415). -/
def offered (s : State) (l : Nat) (ctl : Word) : Nat :=
  (BitVec.ofNat 3 (s.fld (rLnkLocal l) 2 0) &&& BitVec.ofNat 3 (bits ctl 3 1) &&& ~~~ BitVec.ofNat 3 (getLnk s l).gone).toNat

/-- Rates that the port offers in this training. -/
def ownRates (s : State) (l : Nat) : Nat := offered s l (getLnk s l).ctl

/-- The capability word that the port sends, masked as LNK_CTL stood when training began (R447). -/
def sentCap (s : State) (l : Nat) : Word :=
  setBits (setBits (s.reg (rLnkLocal l)) 2 0 (ownRates s l)) 5 3
    (BitVec.ofNat 3 (s.fld (rLnkLocal l) 5 3) &&& BitVec.ofNat 3 (bits (getLnk s l).ctl 6 4)).toNat

def bothCap (s : State) (l : Nat) : Word := sentCap s l &&& s.reg (rLnkPartner l)

/-- Highest of three bits as 1 to 3, 0 for none. -/
def topBit3 (n : Nat) : Nat := if 4 ≤ n % 8 then 3 else if 2 ≤ n % 8 then 2 else n % 2

/-- RATE code of the selection. -/
def selRate (s : State) (l : Nat) : Nat := topBit3 (bits (bothCap s l) 2 0)

/-- The selection stands: a rate, its protocol and a width are in both words. -/
def selOk (s : State) (l : Nat) : Bool :=
  let r := selRate s l
  r ≠ 0 && bit (bothCap s l) (r + 2) && bits (bothCap s l) 8 6 ≠ 0

/-- Number of lanes in a mask. -/
def laneCount (m : Nat) : Nat := ((List.range 4).filter fun i => m / 2 ^ i % 2 = 1).length

/-- Widest WIDTH code that both words and `n` working lanes allow; 0 for none. -/
def widthFor (s : State) (l n : Nat) : Nat :=
  ((List.range 3).filter fun i => bit (bothCap s l) (6 + i) && decide (i + 2 ≤ n)).foldl (fun _ i => i + 1) 0

/-- The WIDTH is at least WIDTH_MIN. -/
def widthOk (s : State) (l w : Nat) : Bool := decide (bits (getLnk s l).ctl 8 7 + 1 ≤ w)

/-- The lanes that carry traffic: the lowest working ones. -/
def useLanes (m w : Nat) : Nat :=
  (((List.range 4).filter fun i => m / 2 ^ i % 2 = 1).take (w + 1)).foldl (fun n i => n + 2 ^ i) 0

/-! ### Flits (R406 to R410) -/

/-- Payload granules of a flit of the protocol in use (Table 10.2). -/
def payGranules (proto : Nat) : Nat := if proto = 3 then 19 else 15

/-- FCRC of a flit of type `ty` (Table 10.3). -/
def flitCrc (proto ty : Nat) (f : Flit) : Half :=
  crc32c (leBytes 1 ty ++ leBytes 1 (b2n f.nak) ++ leBytes 2 f.seq.toNat ++ leBytes 2 f.ack.toNat ++
    leBytes 2 f.crdD.toNat ++ leBytes 2 f.crdC.toNat ++ leBytes 6 0 ++
    (f.pay.flatMap fun g => leBytes 16 g.toNat) ++
    List.replicate (16 * (payGranules proto - f.pay.length)) 0)

/-- Protocol of the link: selected by the rate. -/
def lnkProto (s : State) (l : Nat) : Nat := if lnkLive s l then s.fld (rLnkStat l) 11 10 else selRate s l

def flitOk (s : State) (l ty : Nat) (f : Flit) : Bool := flitCrc (lnkProto s l) ty f = f.fcrc

/-- The flit of type `ty` that the port sends: ACK 0xFFF until the link is UP, NAK where it is owed; the credits
returned are those that the receive buffers have freed, which the manual does not count for a reader. -/
def ownFlit (s : State) (l ty seq : Nat) (pay : List Nat) : Flit :=
  let k := getLnk s l
  let v := Config.freeValue s.fresh
  let f : Flit := ⟨k.nak, BitVec.ofNat 12 seq, BitVec.ofNat 12 (if lnkLive s l then k.rxSeq else 0xFFF), v.setWidth 16,
    (v >>> 16).setWidth 16, pay.map (BitVec.ofNat 128), 0⟩
  { f with fcrc := flitCrc (lnkProto s l) ty f }

/-- Sends a flit. NAK goes in one header (R410). -/
def sendFlit (s : State) (l ty seq : Nat) (pay : List Nat) : State :=
  (setLnk s.nextFresh l { getLnk s l with nak := false }).send (.flit l ty (ownFlit s l ty seq pay))

/-- A data flit is numbered and kept; it goes now, or after the recovery under way. -/
def sendData (s : State) (l : Nat) (t : TxFlit) : State :=
  let k := getLnk s l
  let t1 := { t with seq := k.txSeq }
  let s1 := setLnk s l { k with txSeq := (k.txSeq + 1) % 4096, sent := (k.sent ++ [t1]).drop (k.sent.length + 1 - 1024) }
  if lnkState s l = 4 then sendFlit s1 l 1 t1.seq t1.pay else s1

/-- A message on a link: its granules in data flits of its own. -/
def linkSend (s : State) (l : Nat) (t : TxFlit) (ty : Nat) (h : AccHdr) (data : List Nat) : State :=
  let gs := accGranule ty h :: data
  (chunks (payGranules (lnkProto s l)) (gs.length + 1) gs).foldl (fun s c => sendData s l { t with pay := c })
    (s.send (.accord l ty h data))

/-- Data flits after SEQ `ack`, as they were numbered. -/
def afterSeq (k : Lnk) (ack : Nat) : List TxFlit := k.sent.filter fun t => (t.seq + 4095 + 4096 - ack) % 4096 < 2048

/-- Replay from the SEQ after `ack` on, counted (R410). -/
def replayFrom (s : State) (l ack : Nat) : State :=
  cntInc ((afterSeq (getLnk s l) ack).foldl (fun s t => sendFlit s l 1 t.seq t.pay) s) (0x3000 + l) 0 1

end Sys2Proof.Machine
end

