-- ==== Sys2Proof/Machine/Ctl.lean ====
section
/-! DEFINITION. The CTL instructions (R128 to R132): scalar arithmetic, branches, scalar loads and
stores, descriptors, END. -/

namespace Sys2Proof.Machine

/-- What a step answers. -/
abbrev Res := Host.Outcome State Fault Refusal

/-- A scalar instruction that writes sD and goes on (R128). -/
def scalarOp (a : StreamId) (w : InstrWord) (op : Nat) (u : Uses) (extra : List (Option SFault))
    (f : State → Word) (s : State) : State :=
  withWord s a w op u extra fun s => completeNow (putD s a w (f s)) a w ((strmAt s a).pc + 1)

/-- Sign-extended X (48 bits). -/
def xSext (w : InstrWord) : Word := (w.extractLsb 127 80).signExtend 64

def uSD_X : Uses := { tds := [], sd := true, x := xm 47 0 }
def uSD_SA_SB : Uses := { tds := [], sd := true, sa := true, sb := true }

/-- NOP: no operation. -/
def doNop (a : StreamId) (w : InstrWord) (s : State) : State :=
  withWord s a w 0x00 { tds := [] } [] fun s => completeNow s a w ((strmAt s a).pc + 1)
def execNop (a : StreamId) (w : InstrWord) (s : State) : Res := .next (doNop a w s)

/-- LI: sD := sign-extended X. -/
def doLi (a : StreamId) (w : InstrWord) (s : State) : State :=
  scalarOp a w 0x01 uSD_X [] (fun _ => xSext w) s
def execLi (a : StreamId) (w : InstrWord) (s : State) : Res := .next (doLi a w s)

/-- ADD: sD := sA + sB modulo 2^64. -/
def doAdd (a : StreamId) (w : InstrWord) (s : State) : State :=
  scalarOp a w 0x02 uSD_SA_SB [] (fun s => vA s a w + vB s a w) s
def execAdd (a : StreamId) (w : InstrWord) (s : State) : Res := .next (doAdd a w s)

/-- ADDI: sD := sA + sign-extended X. -/
def doAddi (a : StreamId) (w : InstrWord) (s : State) : State :=
  scalarOp a w 0x03 { uSD_X with sa := true } [] (fun s => vA s a w + xSext w) s
def execAddi (a : StreamId) (w : InstrWord) (s : State) : Res := .next (doAddi a w s)

/-- SUB: sD := sA − sB. -/
def doSub (a : StreamId) (w : InstrWord) (s : State) : State :=
  scalarOp a w 0x04 uSD_SA_SB [] (fun s => vA s a w - vB s a w) s
def execSub (a : StreamId) (w : InstrWord) (s : State) : Res := .next (doSub a w s)

/-- MUL: sD := low 64 bits of sA × sB. -/
def doMul (a : StreamId) (w : InstrWord) (s : State) : State :=
  scalarOp a w 0x05 uSD_SA_SB [] (fun s => vA s a w * vB s a w) s
def execMul (a : StreamId) (w : InstrWord) (s : State) : Res := .next (doMul a w s)

/-- The bitwise function of LOGIC (Table 3.5). -/
def logicFn (n : Nat) (x y : Word) : Word :=
  if n = 0 then x &&& y else if n = 1 then x ||| y else if n = 2 then x ^^^ y else x &&& ~~~ y

/-- LOGIC: bitwise function X[1:0]. -/
def doLogic (a : StreamId) (w : InstrWord) (s : State) : State :=
  scalarOp a w 0x06 { uSD_SA_SB with x := xm 1 0 } []
    (fun s => logicFn (xF w 1 0) (vA s a w) (vB s a w)) s
def execLogic (a : StreamId) (w : InstrWord) (s : State) : Res := .next (doLogic a w s)

/-- The special values of Table 3.1. -/
def sprValue (s : State) (a : StreamId) (i : Nat) : Word :=
  match i with
  | 0 => put a.part.val 0
  | 1 => put a.ctx.val 0
  | 2 => put (strmNo a.strm) 0
  | 3 => put (partClusters s a.part).length 0
  | 4 => put (leadCluster s a.part) 0
  | 5 => s.reg (rStep (leadCluster s a.part))
  | 6 => s.reg (rSeed (leadCluster s a.part))
  | 7 => (strmAt s a).iseq.setWidth 64
  | _ => s.reg rAcv

/-- RDSPR: sD := special value X[7:0]; an index not listed faults with 0x02 (R107). -/
def doRdspr (a : StreamId) (w : InstrWord) (s : State) : State :=
  scalarOp a w 0x07 { tds := [], sd := true, x := xm 7 0 } [need (xF w 7 0 ≤ 8) 0x02 0 9]
    (fun s => sprValue s a (xF w 7 0)) s
def execRdspr (a : StreamId) (w : InstrWord) (s : State) : Res := .next (doRdspr a w s)

/-- The shift of SHIFT: 0 left, 1 right logical, 2 right arithmetic. -/
def shiftFn (k n : Nat) (x : Word) : Word :=
  if k = 0 then x <<< n else if k = 1 then x >>> n else x.sshiftRight n

/-- SHIFT by X[5:0]; X[7:6] = 3 faults with 0x02 (R128). -/
def doShift (a : StreamId) (w : InstrWord) (s : State) : State :=
  scalarOp a w 0x08 { tds := [], sd := true, sa := true, x := xm 7 0 } [need (xF w 7 6 ≠ 3) 0x02 0 9]
    (fun s => shiftFn (xF w 7 6) (xF w 5 0) (vA s a w)) s
def execShift (a : StreamId) (w : InstrWord) (s : State) : Res := .next (doShift a w s)

/-- The condition of BR (R129). -/
def brCond (n : Nat) (x y : Word) : Bool :=
  match n with
  | 0 => true
  | 1 => x = y
  | 2 => x ≠ y
  | 3 => x.toNat < y.toNat
  | 4 => y.toNat ≤ x.toNat
  | 5 => x.toInt < y.toInt
  | _ => y.toInt ≤ x.toInt

/-- Target of a branch by sign-extended X[47:16]. -/
def brTarget (t : Stream) (w : InstrWord) : Int := (t.pc : Int) + sext 32 (xF w 47 16)

/-- The target lies in the program window (R129). -/
def targetOk (t : Stream) (w : InstrWord) : Bool :=
  decide (0 ≤ brTarget t w) && decide (brTarget t w < t.plen)

/-- BR: conditional relative branch; a target outside the window faults with 0x0F (R129). -/
def doBr (a : StreamId) (w : InstrWord) (s : State) : State :=
  withWord s a w 0x09 { tds := [], sa := true, sb := true, x := xm 3 0 ||| xm 47 16 }
    [need (xF w 3 0 ≤ 6) 0x02 0 9] fun s =>
      let t := strmAt s a
      if brCond (xF w 3 0) (vA s a w) (vB s a w) then
        if targetOk t w then completeNow s a w (brTarget t w).toNat
        else streamFault s a ⟨0x0F, 1, 9⟩ 0x09
      else completeNow s a w (t.pc + 1)
def execBr (a : StreamId) (w : InstrWord) (s : State) : Res := .next (doBr a w s)

/-- LOOP: sA := sA − 1, branch by X[47:16] if nonzero; SA = 0 faults with 0x02 (R129). -/
def doLoop (a : StreamId) (w : InstrWord) (s : State) : State :=
  withWord s a w 0x0A { tds := [], sa := true, x := xm 47 16 } [need (iSa w ≠ 0) 0x02 0 6] fun s =>
    let t := strmAt s a
    let v := vA s a w - 1
    let s1 := modStrmAt s a fun t => setSreg t (iSa w) v
    if v = 0 then completeNow s1 a w (t.pc + 1)
    else if targetOk t w then completeNow s1 a w (brTarget t w).toNat
    else streamFault s a ⟨0x0F, 1, 9⟩ 0x0A
def execLoop (a : StreamId) (w : InstrWord) (s : State) : Res := .next (doLoop a w s)

/-- Address of LDS and STS: sA + sign-extended X, modulo 2^64. -/
def ldsAddr (s : State) (a : StreamId) (w : InstrWord) : Nat := (vA s a w + xSext w).toNat

/-- The address is a multiple of 8 in the partition (R130). -/
def ldsOk (s : State) (a : StreamId) (ad : Nat) : Bool := ad % 8 = 0 && rangeInPart s a.part ad 8

/-- LDS: loads the 64-bit word, once for the partition; a poisoned word stops the stream with 0x18
(R130). It waits for earlier instructions that write the word (R115). -/
def doLds (a : StreamId) (w : InstrWord) (s : State) : State :=
  let ad := ldsAddr s a w
  withWordAfter s a w (hazard s a [(ad, ad + 7)] []) 0x0B
    { tds := [], sd := true, sa := true, x := xm 47 0 } [] fun s =>
    if !ldsOk s a ad then streamFault s a ⟨0x0E, 1, 6⟩ 0x0B
    else match nread s ad 8 with
      | none => streamFault s a ⟨0x18, 2, 6⟩ 0x0B
      | some bs =>
        completeNow (putD (cacheUse s true false [ad]) a w (BitVec.ofNat 64 (leNat bs))) a w ((strmAt s a).pc + 1)
def execLds (a : StreamId) (w : InstrWord) (s : State) : Res := .next (doLds a w s)

/-- STS: stores sB, once for the partition (R130). -/
def doSts (a : StreamId) (w : InstrWord) (s : State) : State :=
  let ad := ldsAddr s a w
  withWordAfter s a w (hazard s a [] [(ad, ad + 7)]) 0x0C
    { tds := [], sa := true, sb := true, x := xm 47 0 } [] fun s =>
    if !ldsOk s a ad then streamFault s a ⟨0x0E, 1, 6⟩ 0x0C
    else
      let s1 := writeBytes s ad (leBytes 8 (vB s a w).toNat) (some (strmTag a (strmAt s a).iseq))
      completeNow s1 a w ((strmAt s a).pc + 1)
def execSts (a : StreamId) (w : InstrWord) (s : State) : Res := .next (doSts a w s)

/-- Count of DLD: X[16:8], 0 read as 256 (R131). -/
def dldCount (w : InstrWord) : Nat := if xF w 16 8 = 0 then 256 else xF w 16 8

/-- Descriptors of 64 bytes each put into td[first] onward. -/
def putDescs (m : SMap DescWord) (first : Nat) (bs : List Byte) (n : Nat) : SMap DescWord :=
  (List.range n).foldl (fun m i =>
    smSet 0 m (first + i) (BitVec.ofNat 512 (leNat ((bs.drop (64 * i)).take 64)))) m

/-- DLD: loads descriptors; a verifying read, and a poisoned block stops the stream with 0x18 and
changes no descriptor (R131). -/
def doDld (a : StreamId) (w : InstrWord) (s : State) : State :=
  let ad := (vA s a w).toNat
  let n := dldCount w
  withWordAfter s a w (hazard s a [(ad, ad + 64 * n - 1)] []) 0x0D
    { tds := [], sa := true, x := xm 16 0 } [need (xF w 7 0 + dldCount w ≤ 256) 0x02 0 9] fun s =>
      if ad % 64 ≠ 0 ∨ rangeInPart s a.part ad (64 * n) = false then
        streamFault s a ⟨0x0E, 1, 6⟩ 0x0D
      else
        match vread s ad (64 * n) ⟨strmTag a (strmAt s a).iseq, some a.part, 0xFFFFFFFF, 0⟩ with
        | (s1, none) => streamFault s1 a ⟨0x18, 2, 6⟩ 0x0D
        | (s1, some bs) =>
          completeNow (modCtx s1 a.part a.ctx fun c => { c with td := putDescs c.td (xF w 7 0) bs n })
            a w ((strmAt s a).pc + 1)
def execDld (a : StreamId) (w : InstrWord) (s : State) : Res := .next (doDld a w s)

/-- Field of a descriptor that DSET selects: low bit and width (R131). -/
def dsetField (n : Nat) : Nat × Nat :=
  if n = 0 then (0, 48)
  else if n ≤ 5 then (64 + 32 * (n - 1), 32)
  else if n ≤ 9 then (256 + 32 * (n - 6), 32)
  else if n = 10 then (384, 48)
  else if n = 11 then (224, 32)
  else if n = 12 then (432, 16)
  else (448, 12)

/-- DSET: sets one field of TDC from the low bits of sA; bits above the field must be 0 (R131). DESIGN CHOICE:
the descriptor that it changes is not checked under R109, since R131 has it checked at each use. -/
def doDset (a : StreamId) (w : InstrWord) (s : State) : State :=
  withWord s a w 0x0E { tds := [2], sa := true, x := xm 3 0 } [need (xF w 3 0 ≤ 13) 0x02 0 9] fun s =>
    let f := dsetField (xF w 3 0)
    let v := (vA s a w).toNat
    if 2 ^ f.2 ≤ v then streamFault s a ⟨0x02, 1, 6⟩ 0x0E
    else
      completeNow (modCtx s a.part a.ctx fun c =>
        { c with td := smMod 0 c.td (iTd w 2) fun d => setBits d (f.1 + f.2 - 1) f.1 v })
        a w ((strmAt s a).pc + 1)
def execDset (a : StreamId) (w : InstrWord) (s : State) : Res := .next (doDset a w s)

/-- END: once every earlier instruction has completed the stream ends; the context completes when
its three streams have ended (R132). -/
def doEnd (a : StreamId) (w : InstrWord) (s : State) : State :=
  withWord s a w 0x0F { tds := [] } [] fun s =>
    if drained s a then
      let hold := groupEnds s a w
      let s1 := modStrmAt (traceIssue (signal s a w) a w) a fun t =>
        { t with st := .ended, wait := .none, iseq := t.iseq + 1, hold := hold }
      settle s1 a.part a.ctx
    else s
def execEndStream (a : StreamId) (w : InstrWord) (s : State) : Res := .next (doEnd a w s)

end Sys2Proof.Machine
end

