-- ==== Sys2Proof/Machine/Sync.lean ====
section
/-! DEFINITION. The SYNC instructions (R133 to R138) and the STAT instructions that read counters
and flags (R148, R149). -/

namespace Sys2Proof.Machine

/-- An instruction that acts once every earlier instruction of the stream has completed, without
holding the stream: at once when nothing is in flight, else as an in-flight instruction without
tiles that INSTRUCTION_COMPLETE applies in order. -/
def orderedOp (s : State) (a : StreamId) (w : InstrWord) (f : State → State) : State :=
  if drained s a then completeNow (f s) a w ((strmAt s a).pc + 1)
  else if 16 ≤ (strmAt s a).infl.length then s
  else issueFlight s a w [0, 0, 0, 0] [] 0

/-- Effect of BCSET: bc[X[5:0]] := sA[31:0] (R135). -/
def bcsetEffect (s : State) (a : StreamId) (w : InstrWord) (va : Word) : State :=
  modCtx s a.part a.ctx fun c => { c with bc := smSet 0 c.bc (xF w 5 0) (va.setWidth 32) }

/-- BCSET. -/
def doBcset (a : StreamId) (w : InstrWord) (s : State) : State :=
  withWord s a w 0x10 { tds := [], sa := true, x := xm 5 0 } [] fun s =>
    orderedOp s a w fun s => bcsetEffect s a w (vA s a w)
def execBcset (a : StreamId) (w : InstrWord) (s : State) : Res := .next (doBcset a w s)

/-- Effect of BCINC: adds X[23:8] to bc[X[5:0]] (R135). -/
def bcincEffect (s : State) (a : StreamId) (w : InstrWord) : State :=
  bcAdd s a.part a.ctx (xF w 5 0) (xF w 23 8)

/-- BCINC; an increment of 0 faults with 0x02. -/
def doBcinc (a : StreamId) (w : InstrWord) (s : State) : State :=
  withWord s a w 0x11 { tds := [], x := xm 5 0 ||| xm 23 8 } [need (xF w 23 8 ≠ 0) 0x02 0 9] fun s =>
    orderedOp s a w fun s => bcincEffect s a w
def execBcinc (a : StreamId) (w : InstrWord) (s : State) : Res := .next (doBcinc a w s)

/-- BCWAIT: holds the stream until the wait on bc[X[5:0]] with threshold sA[31:0] is satisfied. -/
def doBcwait (a : StreamId) (w : InstrWord) (s : State) : State :=
  withWord s a w 0x12 { tds := [], sa := true, x := xm 5 0 } [] fun s =>
    let t := (vA s a w).setWidth 32
    if waitMet (bcOf (ctxAt s a) (xF w 5 0)) t then completeNow s a w ((strmAt s a).pc + 1)
    else waitOn s a (.counter (xF w 5 0) t)
def execBcwait (a : StreamId) (w : InstrWord) (s : State) : Res := .next (doBcwait a w s)

/-- FENCE: holds the stream until every earlier instruction has completed. -/
def doFence (a : StreamId) (w : InstrWord) (s : State) : State :=
  withWord s a w 0x13 { tds := [] } [] fun s =>
    if drained s a then completeNow s a w ((strmAt s a).pc + 1) else s
def execFence (a : StreamId) (w : InstrWord) (s : State) : Res := .next (doFence a w s)

/-- GFENCE: as FENCE; memory is one copy (R296), so every earlier write is visible to the host and
to other partitions once it has been made. -/
def doGfence (a : StreamId) (w : InstrWord) (s : State) : State :=
  withWord s a w 0x14 { tds := [] } [] fun s =>
    if drained s a then completeNow s a w ((strmAt s a).pc + 1) else s
def execGfence (a : StreamId) (w : InstrWord) (s : State) : Res := .next (doGfence a w s)

/-- IFLUSH: discards the stream's instruction buffer. -/
def doIflush (a : StreamId) (w : InstrWord) (s : State) : State :=
  withWord s a w 0x15 { tds := [] } [] fun s =>
    modStrmAt (completeNow s a w ((strmAt s a).pc + 1)) a fun t => { t with ibuf := [] }
def execIflush (a : StreamId) (w : InstrWord) (s : State) : Res := .next (doIflush a w s)

/-- The program event record of EVENT: class 1, payload sA, ISEQ, stream (Table 11.11). -/
def eventEffect (s : State) (a : StreamId) (w : InstrWord) (va : Word) (iseq : BitVec 32) : State :=
  emit s ⟨xF w 15 0, 1, leadCluster s a.part / 4, some a.part, a.ctx,
    [va, iseq.setWidth 64, put (strmNo a.strm) 0]⟩

/-- EVENT. -/
def doEvent (a : StreamId) (w : InstrWord) (s : State) : State :=
  withWord s a w 0x16 { tds := [], sa := true, x := xm 15 0 } [] fun s =>
    orderedOp s a w fun s => eventEffect s a w (vA s a w) (strmAt s a).iseq
def execEvent (a : StreamId) (w : InstrWord) (s : State) : Res := .next (doEvent a w s)

/-- The owner partition of a ring as the last accepted START read it (R145). -/
def ringOwner (s : State) (m n : Nat) : Option Nat := smGet none s.ringOwn (m * 16 + n)

/-- CNTRD of a group 4 counter needs the ring's owner to be the issuing partition (R603). -/
def cntOwned (s : State) (p idx : Nat) : Bool :=
  !(0x4000 ≤ idx && idx < 0x5000) || ringOwner s ((idx - 0x4000) / 0x100) (idx / 16 % 16) = some p

/-- CNTRD: sD := counter X[15:0], or its OVF for the index + 0x8000 (R148, R603). -/
def doCntrd (a : StreamId) (w : InstrWord) (s : State) : State :=
  let i := xF w 15 0
  withWord s a w 0xC2 { tds := [], sd := true, x := xm 15 0 } [need (cntValid (i % 0x8000)) 0x02 0 9]
    fun s =>
      if !cntOwned s a.part (i % 0x8000) then streamFault s a ⟨0x02, 1, 9⟩ 0xC2
      else
        let c := cntGet s (i % 0x8000) a.part
        completeNow (putD s a w (if i < 0x8000 then c.val else put (b2n c.ovf) 0)) a w ((strmAt s a).pc + 1)
def execCntrd (a : StreamId) (w : InstrWord) (s : State) : Res := .next (doCntrd a w s)

/-- FLAGRD: once every earlier instruction has completed, the partition's combined flag word to sD
and the position word to s[SD + 1]; X[0] then clears NF and SAT in every cluster (R149). -/
def doFlagrd (a : StreamId) (w : InstrWord) (s : State) : State :=
  withWord s a w 0xC3 { tds := [], sd := true, x := 1 } [need (1 ≤ iSd w && iSd w ≤ 30) 0x02 0 5]
    fun s =>
      if drained s a then
        let r := partFlags s a.part (strmNo a.strm)
        let s1 := modStrmAt s a fun t => setSreg (setSreg t (iSd w) (flagWord r)) (iSd w + 1) (flagPos r)
        let s2 := if xF w 0 0 = 1 then clearPartFlags s1 a.part (strmNo a.strm) else s1
        completeNow s2 a w ((strmAt s a).pc + 1)
      else s
def execFlagrd (a : StreamId) (w : InstrWord) (s : State) : Res := .next (doFlagrd a w s)

end Sys2Proof.Machine
end

