-- ==== Sys2Proof/Machine/Tile.lean ====
section
/-! DEFINITION. What every tile shares: verification of its inputs, scale misalignment and
containment (R186, R187, R305, R306, R640), output writes, flags, and the grid of cores (R173 to
R177, R192). -/

namespace Sys2Proof.Machine

/-! ### Cores of a partition (R173) -/

/-- Number of clusters and of cores of a partition. -/
def nClusters (s : State) (p : Nat) : Nat := (partClusters s p).length
def nCores (s : State) (p : Nat) : Nat := 32 * nClusters s p

/-- Partition core number p = 32 × rank + q of package core `core`; none outside the partition. -/
def coreNo (s : State) (p core : Nat) : Option Nat :=
  ((partClusters s p).idxOf? (core / 32)).map fun r => 32 * r + core % 32

/-! ### Scale misalignment (R187, R198) -/

/-- Records one misaligned block: the error record once per block and instruction, the capture in
the detecting cluster (R187, R198, 0x0905). -/
def scaleMisaligned (s : State) (a : StreamId) (f : InFlight) (d : DescWord) (cluster b : Nat) : State :=
  let h := readNat s (scaleBlock d b) 16
  let found := h % 65536
  let fseq := h / 65536 % 16
  let zbad := b2n (h / 2 ^ 20 ≠ 0)
  let s1 := s.capture (rSmisTag cluster) 63 fun s =>
    (s.setReg (rSmisId cluster) (put (dTid d) 0 ||| put (b % 2 ^ 32) 32)).setReg (rSmisTag cluster)
      (put found 0 ||| put fseq 16 ||| put (dStag d) 20 ||| put (b % 16) 36 |||
        put (strmNo a.strm) 40 ||| put zbad 42 ||| put 1 63)
  if f.seen.contains (scaleBlock d b) then s1
  else errRecord s1
    { code := 0x0905, cls := 3, die := cluster / 4, part := some a.part, ctx := a.ctx
      unit := 1, index := cluster, tid := dTid d, blk := b, iseq := f.iseq.toNat
      strm := strmNo a.strm, d0 := dStag d + (b % 16) * 65536, d1 := found + fseq * 65536 }

/-! ### Inputs of a tile -/

/-- One tensor read by a tile: its descriptor, the elements read, and whether the instruction also
writes them (R640). -/
structure TileRead where
  d   : DescWord
  es  : ElemSet
  own : Bool
  deriving DecidableEq, Repr

/-- What verification found: poisoned input, scale misalignment, misaligned blocks. -/
structure Checked where
  s    : State
  pois : Bool
  mis  : Bool
  seen : List Nat

/-- Verifies one tensor's elements and checks its FMC headers, and the header of every scale block that came
whole: a tile that meets both faults reports both (R187). -/
def checkRead (a : StreamId) (f : InFlight) (cluster : Nat) (c : Checked) (r : TileRead) : Checked :=
  let v := verifyRead c.s (setAddrs r.d r.es) (rdr a f.iseq r.d) r.own
  let fmc := (r.es.map Prod.fst).dedup.any fun row => fmcBad v.1 r.d row
  let tag := (rdr a f.iseq r.d).tag
  let badBlocks := (setScaleBlocks r.d r.es).filter fun b =>
    let ad := scaleBlock r.d b
    addrNack v.1 ad = 0 && (lstAt v.1 ad ≠ 2 || (r.own && ownPoison v.1 ad tag)) && scaleHeaderBad v.1 r.d b
  let s1 := badBlocks.foldl (fun s b =>
    scaleMisaligned s a { f with seen := f.seen ++ c.seen } r.d cluster b) v.1
  ⟨s1, c.pois || v.2 || fmc, c.mis || !badBlocks.isEmpty, c.seen ++ badBlocks.map (scaleBlock r.d)⟩

/-- Verifies every tensor that a tile reads. -/
def checkReads (s : State) (a : StreamId) (f : InFlight) (cluster : Nat) (rs : List TileRead) : Checked :=
  rs.foldl (checkRead a f cluster) ⟨s, false, false, []⟩

/-! ### Outputs of a tile -/

/-- Poisons the 4 KiB blocks that hold the bytes at the addresses (R187, R305, R319). -/
def poisonOut (s : State) (a : StreamId) (f : InFlight) (as : List Nat) (d : DescWord) : State :=
  let t := strmTag a f.iseq
  (blocksOf as).foldl (fun s blk =>
    captPoison (poisonAll s (blk * 4096) t) (blk * 4096) t 4 (dTid d) (blockIndex (blk * 4096) (dBase d))) s

/-- Poisons what a tile writes in each of its tensors. -/
def poisonOuts (s : State) (a : StreamId) (f : InFlight) (outs : List (DescWord × List Nat)) : State :=
  outs.foldl (fun s o => poisonOut s a f o.2 o.1) s

/-- A flag to record: mark, TILE, ROW, COL. -/
structure TileMark where
  m    : Mark
  tile : Nat
  row  : Nat
  col  : Nat
  deriving DecidableEq, Repr

/-- What a tile writes: bytes, and flags. -/
structure TileOut where
  ws    : List (Nat × Byte)
  marks : List TileMark
  deriving DecidableEq, Repr

/-- Records the flags of a tile in the cluster that ran it (R89). -/
def recordMarks (s : State) (a : StreamId) (f : InFlight) (cluster : Nat) (ms : List TileMark) : State :=
  let ms := ms.filter fun m => m.m ≠ .none
  if ms.isEmpty then s
  else setFlagRec s cluster (strmNo a.strm)
    (ms.foldl (fun r m => flagMark r m.m f.iseq.toNat m.tile m.row m.col) (flagRec s cluster (strmNo a.strm)))

def hasNf (ms : List TileMark) : Bool := ms.any fun m => match m.m with
  | .nonFinite _ => true
  | _ => false

def hasSat (ms : List TileMark) : Bool := ms.any fun m => m.m = .saturated

/-- The in-flight record with tile `t` ended once more. -/
def markDone (f : InFlight) (t : Nat) (bad : Bool) (seen : List Nat) (ms : List TileMark) : InFlight :=
  { f with
    done := f.done ++ [t]
    bad := if bad && !f.bad.contains t then f.bad ++ [t] else f.bad
    seen := (f.seen ++ seen).dedup
    nf := f.nf || hasNf ms
    sat := f.sat || hasSat ms }

/-- An uncorrectable word of a core's stores: the tile is contained. -/
def storeLost : StoreErr → Bool
  | .coreStore => true
  | .accumulator => true
  | .none => false
  | .refetched _ => false

/-- The record of an uncorrectable word of a core's stores (R598, 0x0909), or the count of a read that passed
at its re-fetch (R304). -/
def storeErrRecord (s : State) (a : StreamId) (f : InFlight) (core : Nat) (e : StoreErr) : State :=
  match e with
  | .none => s
  | .refetched d => cntInc s (0x1040 + d.val) 0 1
  | e => errRecord s
      { code := 0x0909, cls := 3, die := core / 128, part := some a.part, ctx := a.ctx
        unit := 0, index := core, cause := if e = .coreStore then 0 else 1
        iseq := f.iseq.toNat, strm := strmNo a.strm }

/-- Addresses of a tile's output that no storage answers, and the record of their NACK (R378, 0x0906). -/
def outNack (s : State) (outs : List (DescWord × List Nat)) : Option Nat :=
  (outs.flatMap Prod.snd).find? fun a => addrNack s a ≠ 0

def nackRecord (s : State) (a : StreamId) (f : InFlight) (core ad : Nat) : State :=
  errRecord s
    { code := 0x0906, cls := 3, die := core / 128, part := some a.part, ctx := a.ctx, unit := 0, index := core
      cause := addrNack s ad, iseq := f.iseq.toNat, strm := strmNo a.strm, d0 := ad % 2 ^ 48 }

/-- One tile: its inputs are verified; contained, its output blocks are poisoned; otherwise its
output is written and its flags recorded. Each tile that a poisoned input contains counts once
(R187, R306). An output that no storage answers contains the tile (R378). `outs` gives each tensor written with
the addresses written in it. -/
def runTiles (s : State) (a : StreamId) (f : InFlight) (t core : Nat) (err : StoreErr)
    (reads : List TileRead) (outs : List (DescWord × List Nat)) (compute : State → TileOut) : State :=
  let c := checkReads s a f (core / 32) reads
  let s0 := storeErrRecord c.s a f core err
  let nack := outNack s0 outs
  let s1 := match nack with
    | some ad => nackRecord s0 a f core ad
    | none => s0
  if c.pois || c.mis || storeLost err || nack.isSome then
    let s2 := if c.pois then cntInc s1 0x0001 a.part 1 else s1
    setFlight (poisonOuts s2 a f outs) a (markDone f t true c.seen [])
  else
    let o := compute s1
    let s2 := writeAll s1 o.ws (some (strmTag a f.iseq))
    setFlight (recordMarks s2 a f (core / 32) o.marks) a (markDone f t false c.seen o.marks)

/-- One tile that writes one tensor. -/
def runTile (s : State) (a : StreamId) (f : InFlight) (t core : Nat) (err : StoreErr)
    (reads : List TileRead) (dOut : DescWord) (outs : List Nat) (compute : State → TileOut) : State :=
  runTiles s a f t core err reads [(dOut, outs)] compute

/-! ### Element tiles (R192, R641) -/

/-- Number of element tiles of a tensor. -/
def elemTiles (d : DescWord) : Nat := ceilDiv (dCount d) 16384

/-- Flag position of linear index `e`. -/
def linMark (m : Mark) (e : Nat) : TileMark := ⟨m, e / 16384, e % 16384 / 128, e % 128⟩

/-- Addresses of the element bytes and, for an MX tensor, of the scale codes of the groups that the set
touches. -/
def outAddrs (d : DescWord) (es : ElemSet) : List Nat :=
  (es.flatMap fun e => (let p := elemSpan d e.1 e.2; span p.1 p.2.1)).dedup ++
    if dIsMx d then
      (es.map fun e => scaleIdx d e.1 (e.2 / dGs d)).dedup.map (scaleAddr d)
    else []

/-- Bytes of a set of element codes with their coordinates, row by row. -/
def elemBytes (s : State) (d : DescWord) (cs : List ((Nat × Nat) × Nat)) : List (Nat × Byte) :=
  (cs.map fun c => c.1.1).dedup.flatMap fun r =>
    codeBytes s d r ((cs.filter fun c => c.1.1 = r).map fun c => (c.1.2, c.2))

/-- An element tile whose elements are computed one by one into a wide tensor. -/
def wideOut (s : State) (d : DescWord) (es : ElemSet) (f : Nat → Nat → Elem) : TileOut :=
  let cs := es.map fun e => (e, f e.1 e.2)
  ⟨elemBytes s d (cs.map fun c => (c.1, c.2.code)),
   cs.map fun c => linMark c.2.mark (c.1.1 * dDim d 0 + c.1.2)⟩

/-- Whole rows of BF16 values into an FMC tensor (R203). -/
def fmcOut (d : DescWord) (rows : List Nat) (v : Nat → Nat → Val) : TileOut :=
  let rs := rows.map fun r => (r, fmcEncode (dLayout d) ((List.range 32).map (v r)))
  ⟨rs.flatMap fun r => fmcBytes d r.1 r.2.1 (r.2.2.map Elem.code),
   rs.flatMap fun r => (List.range 32).zip r.2.2 |>.map fun p => linMark p.2.mark (r.1 * 32 + p.1)⟩

/-- An element tile of results at site 1 into a wide tensor, or into an FMC tensor through its
encoder, which flags a row that holds a NaN or an infinity (R203, R644 line 1). -/
def outTile (s : State) (d : DescWord) (es : ElemSet) (f : Nat → Nat → Elem) : TileOut :=
  if dIsFmc d then fmcOut d (es.map Prod.fst).dedup fun r i => decodeVal 1 (f r i).code
  else wideOut s d es f

/-- Core `core` may end tile `t`, which has not ended yet: DIST = 0, core t mod P; DIST = 1, the core that holds
the item's claim (R176, R192, R228, R641). -/
def mayEnd (s : State) (a : StreamId) (f : InFlight) (t core : Nat) : Bool :=
  decide (t < f.nTiles) && !f.done.contains t &&
    match coreNo s a.part core with
    | none => false
    | some n =>
      if iDist f.w then f.claims.contains (t, core)
      else t % nCores s a.part = n

end Sys2Proof.Machine
end

