-- ==== Sys2Proof/Machine/Group.lean ====
section
/-! DEFINITION. Collective groups: records, routes, membership, and the Accord messages a rank sends
(R419 to R424, R433, R434). -/

namespace Sys2Proof.Machine

/-! ### Group records (Table 10.8) -/

/-- Die of the lead cluster of a partition. -/
def leadDie (s : State) (p : Nat) : Nat := leadCluster s p / 4

def gtabCount (s : State) (p : Nat) : Nat := s.fld (rGtab (leadDie s p) p) 56 48

/-- Address of record `k` of partition `p`. -/
def grpAddr (s : State) (p k : Nat) : Nat := s.fld (rGtab (leadDie s p) p) 47 6 * 64 + 64 * k

def grpRec (s : State) (p k : Nat) : BitVec 512 := BitVec.ofNat 512 (readNat s (grpAddr s p k) 64)

def gGid (r : BitVec 512) : Nat := pgF r 0 15 0
def gRanks (r : BitVec 512) : Nat := pgF r 0 28 16
def gMy (r : BitVec 512) : Nat := pgF r 0 43 32
def gCanon (r : BitVec 512) : Bool := pgF r 0 44 44 = 1
def gValid (r : BitVec 512) : Bool := pgF r 0 45 45 = 1
def gState (r : BitVec 512) : Nat := pgF r 7 1 0
def gFmt (r : BitVec 512) : Nat := pgF r 7 23 16
def gGens (r : BitVec 512) : Nat := pgF r 7 26 24
def gOpseq (r : BitVec 512) : Nat := pgF r 7 63 32

/-- Writes field `[hi:lo]` of word 7 of a record. -/
def setW7 (s : State) (p k hi lo v : Nat) : State :=
  let a := grpAddr s p k + 56
  writeBytes s a (leBytes 8 (setBits (BitVec.ofNat 64 (readNat s a 8)) hi lo v).toNat) none

/-! ### Routes (R421) -/

def routeEntry (s : State) (p k r : Nat) : BitVec 32 :=
  BitVec.ofNat 32 (readNat s (pgF (grpRec s p k) 1 47 0 + 4 * r) 4)

/-- The route to rank `r`: a link number, 64 plus the partition for a rank of this module, 255 for
none. -/
def routeOf (s : State) (p k r : Nat) : Nat :=
  let e := routeEntry s p k r
  if bit e 15 then 64 + bits e 19 16
  else if bit e 6 && lnkLive s (bits e 5 0) then bits e 5 0
  else if bit e 14 && lnkLive s (bits e 13 8) then bits e 13 8
  else 255

/-- Header of a message from this rank. -/
def accHdr (r : BitVec 512) (dst opseq len off aux : Nat) (pois : Bool) : AccHdr :=
  ⟨pois, BitVec.ofNat 16 (gGid r), BitVec.ofNat 12 (gMy r), BitVec.ofNat 12 dst, BitVec.ofNat 8 opseq,
   BitVec.ofNat 5 len, BitVec.ofNat 48 off, BitVec.ofNat 16 aux⟩

/-- Dies that hold clusters of a partition, ascending: their Accord units share a rank's work (R436). -/
def partDies (s : State) (p : Nat) : List Nat := sortNat ((partClusters s p).map fun c => c / 4)

/-- The unit of a partition that has part `i` of `n` of a rank's work: equal contiguous parts, dies ascending (R436). -/
def unitOf (s : State) (p i n : Nat) : Nat := (partDies s p).getD (i * (partDies s p).length / max 1 n) (leadDie s p)

/-- Messages of a collective: those that its completion waits for (R429). -/
def collType (ty : Nat) : Bool := ty = 1 || ty = 2 || ty = 5 || ty = 8 || ty = 9

/-- Sends a message of type `ty` from the Accord unit of die `u` to rank `dst` of a group: on a link of that die, or to
the unit of the die that owns the link; to a rank of this module through the hub (R419, R435). Without a route it goes
nowhere. -/
def accSend (s : State) (p k u dst ty opseq off aux : Nat) (pois : Bool) (data : List Nat) : State :=
  let r := routeOf s p k dst
  let g := grpRec s p k
  let h := accHdr g dst opseq data.length off aux pois
  if r = 255 then s
  else if r < 48 ∧ r / 6 = u then
    linkSend s r ⟨0, [], if collType ty then some u else none, p, gGid g, opseq⟩ ty h data
  else sendAccds s u (if r < 48 then r / 6 else leadDie s (r - 64)) p (accGranule ty h :: data)

/-- Sends a message from the unit of the lead die. -/
def leadSend (s : State) (p k dst ty opseq : Nat) (data : List Nat) : State :=
  accSend s p k (leadDie s p) dst ty opseq 0 0 false data

/-! ### Membership (R422 to R424, Table 10.17) -/

/-- Words of a MEMBER record for the present state of a group (Table 12.5). -/
def memberWords (s : State) (p k : Nat) : List Word :=
  let r := grpRec s p k
  [put (gGid r) 0 ||| put (gRanks r) 16 ||| put (gMy r) 32 ||| put (b2n (gCanon r)) 44 |||
     put (gState r) 46 ||| put (pgF r 7 15 8) 48 ||| put (gGens r) 56, put k 0]

/-- MEMBER record of Sillage for the present state of a group. -/
def slgMember (s : State) (p k : Nat) : State := slgWrite s p ⟨0x20, 2, none, 0, memberWords s p k⟩

/-- The record of a group that becomes FAILED. -/
def groupDown (s : State) (p k cause rank : Nat) : State :=
  let s1 := setW7 (setW7 s p k 1 0 3) p k 15 8 cause
  let r := grpRec s1 p k
  slgMember (event0 s1 0x0406 (leadDie s p) (some p)
    [put p 0 ||| put k 4 ||| put (gGid r) 12 ||| put cause 28, put rank 0]) p k

/-! ### Collectives in flight -/

def setColl (s : State) (c : Coll) : State :=
  { s with acc := { s.acc with colls := modWhere (fun d =>
      d.part = c.part ∧ d.ctx = c.ctx ∧ d.strm = c.strm ∧ d.iseq = c.iseq) (fun _ => c) s.acc.colls } }

def dropColl (s : State) (c : Coll) : State :=
  { s with acc := { s.acc with colls := s.acc.colls.filter fun d =>
      !(d.part = c.part ∧ d.ctx = c.ctx ∧ d.strm = c.strm ∧ d.iseq = c.iseq) } }

/-- The stream of a collective, for a partition and context that exist. -/
def collAt (c : Coll) : StreamId :=
  ⟨Fin.ofNat 16 c.part, Fin.ofNat 8 c.ctx, strmOf c.strm⟩

/-- Ranks that this rank exchanges with: all others under EXACT, its two neighbours under CANON, the
peer of a transfer. -/
def collPeers (c : Coll) : List Nat :=
  if c.op = 0xA3 ∨ c.op = 0xA4 then [c.peer]
  else if c.canon then ([(c.my + 1) % c.n, (c.my + c.n - 1) % c.n]).dedup
  else (List.range c.n).filter fun r => r ≠ c.my

/-- Ranks that this rank sends to. -/
def collDsts (c : Coll) : List Nat :=
  if c.op = 0xA3 then [c.peer] else if c.op = 0xA4 then [] else if c.canon then [(c.my + 1) % c.n] else collPeers c

/-- Granules of a collective's message go on link, or to partition, `r`. -/
def Coll.owe (c : Coll) (r n : Nat) : Coll := if r = 255 then c else { c with owed := smMod 0 c.owed r (· + n) }

/-- `n` granules are acknowledged among the places that `at_` names; none is left over where that many were sent. -/
def Coll.credit (c : Coll) (at_ : Nat → Bool) (n : Nat) : Coll × Nat :=
  (c.owed.filter fun q => at_ q.1).foldl (fun x q =>
    let m := min x.2 q.2
    ({ x.1 with owed := smSet 0 x.1.owed q.1 (q.2 - m) }, x.2 - m)) (c, n)

/-- Granules of a partition's group and number are acknowledged: of the oldest collective first. -/
def collsAcked (s : State) (at_ : Nat → Bool) (p gid : Nat) (seq : Nat → Bool) (n : Nat) : State :=
  let x := s.acc.colls.foldl (fun (x : List Coll × Nat) c =>
    if c.part = p ∧ c.gid = gid ∧ seq c.opseq = true then
      let y := c.credit at_ x.2
      (x.1 ++ [y.1], y.2)
    else (x.1 ++ [c], x.2)) ([], n)
  { s with acc := { s.acc with colls := x.1 } }

/-- OPSEQ of a collective in flight, of which messages carry 8 bits (Table 10.14). -/
def fullOpseq (s : State) (p gid q : Nat) : Nat :=
  ((s.acc.colls.find? fun c => decide (c.part = p) && decide (c.gid = gid) && decide (c.opseq % 256 = q)).map Coll.opseq).getD q

/-- ACC_FAULT captures the first collective fault on the die (R455). -/
def captAccFault (s : State) (d p k cause rank link strm ctx : Nat) : State :=
  s.capture (rAccFault d) 63 fun s => s.setReg (rAccFault d)
    (put k 0 ||| put p 8 ||| put cause 12 ||| put rank 16 ||| put link 28 ||| put strm 34 |||
      put ctx 36 ||| put 1 63)

/-- A collective fails on die `d`: ABORT to the ranks it exchanged with and to the other units that share its work, the
capture, the counter, and code 0x19 as an execution fault of its stream (R433, R435). -/
def collFailAt (s : State) (d : Nat) (c : Coll) (cause rank link : Nat) : State :=
  let s1 := dropColl s c
  let lead := leadDie s c.part
  let s2 := (collPeers c).foldl (fun s r => accSend s c.part c.grp lead r 3 (c.opseq % 256) 0
    (if c.op = 0xA3 ∨ c.op = 0xA4 then c.tag else 0) false []) s1
  let s3 := ((partDies s c.part).filter fun e => e ≠ lead).foldl (fun s e =>
    sendAccc s (unitHdr lead e c.part) 3 c.gid c.opseq 0) s2
  let s4 := cntInc (captAccFault s3 d c.part c.grp cause rank link c.strm c.ctx) 0x0019 c.part 1
  let a := collAt c
  match findFlight (strmAt s4 a) c.iseq with
  | some f => streamFaultAt (dropFlight s4 a c.iseq) a ⟨0x19, 2, 0⟩ (iOp f.w) f.pc
  | none => s4

/-- A collective fails, on its partition's lead die. -/
def collFail (s : State) (c : Coll) (cause rank link : Nat) : State := collFailAt s (leadDie s c.part) c cause rank link

/-- Collectives in flight on a group fail. -/
def failColls (s : State) (p k cause rank link : Nat) : State :=
  (s.acc.colls.filter fun c => c.part = p ∧ c.grp = k).foldl (fun s c => collFail s c cause rank link) s

/-- An ACTIVE group fails (R423): its record, and its collectives in flight. -/
def groupFail (s : State) (p k cause rank link : Nat) : State :=
  failColls (groupDown s p k cause rank) p k cause rank link

/-- Every group of every partition with its record. -/
def allGroups (s : State) : List (Nat × Nat) :=
  (List.range 16).flatMap fun p => (List.range (gtabCount s p)).map fun k => (p, k)

/-- The group of this module in which the message's destination rank is ours, and that is ACTIVATING
or ACTIVE. -/
def groupFor (s : State) (gid rank : Nat) : Option (Nat × Nat) :=
  (allGroups s).find? fun q =>
    let r := grpRec s q.1 q.2
    decide (gGid r = gid) && decide (gMy r = rank) && (gState r = 1 || gState r = 2)

/-- Records of a group under which a message may go on: the sender's own, which its link's die sends for it, before
another's; MEMBER and ABORT need no ACTIVE group (R421, R422). -/
def forwarders (s : State) (ty : Nat) (h : AccHdr) : List (Nat × Nat) :=
  let qs := (allGroups s).filter fun q =>
    let r := grpRec s q.1 q.2
    decide (gGid r = h.gid.toNat) && gValid r && (gState r = 2 || ty = 3 || ty = 4)
  let own := fun q => decide (gMy (grpRec s q.1 q.2) = h.srcRank.toNat)
  qs.filter own ++ qs.filter fun q => !own q

/-- A message for another rank of a group that this module belongs to goes on under our route entry: on a link, or to
the partition that is the rank (R419, R421). A message of an own rank is acknowledged to the unit `u` that sent it. -/
def accForward (s : State) (u : Option Nat) (ty : Nat) (h : AccHdr) (data : List Nat) : State :=
  match forwarders s ty h with
  | [] => s
  | q :: _ =>
    let g := grpRec s q.1 q.2
    let r := routeOf s q.1 q.2 h.dstRank.toNat
    if r < 48 then linkSend s r ⟨0, [], if collType ty then u else none, q.1, gGid g, h.opseq.toNat⟩ ty h data else s

/-- An ACTIVE group whose route to a rank that it must send to has gone fails with cause 2 (R423). -/
def checkRoute (s : State) (p k link : Nat) : State :=
  let r := grpRec s p k
  if gState r ≠ 2 then s
  else
    let must := if gCanon r then [(gMy r + 1) % gRanks r] else (List.range (gRanks r)).filter fun x => x ≠ gMy r
    match must.find? fun x => routeOf s p k x = 255 with
    | some x => groupFail s p k 2 x link
    | none => s

/-- Every group of every partition is held against its routes. -/
def checkRoutes (s : State) (link : Nat) : State := (allGroups s).foldl (fun s q => checkRoute s q.1 q.2 link) s

/-- A group becomes ACTIVE with its final format and generation masks; without a route that it needs it fails at once. -/
def groupActive (s : State) (p k fmt gens : Nat) : State :=
  let s1 := setW7 (setW7 (setW7 (setW7 s p k 1 0 2) p k 15 8 0) p k 23 16 fmt) p k 26 24 gens
  let r := grpRec s1 p k
  checkRoute (slgMember (event0 s1 0x0405 (leadDie s p) (some p)
    [put p 0 ||| put k 4 ||| put (gGid r) 12, put (gRanks r) 0 ||| put (gMy r) 16]) p k) p k 0x3F

/-- Every group of a partition that is ACTIVE fails with cause 2, as its partition is disabled. -/
def failPartGroups (s : State) (p : Nat) : State :=
  (List.range (gtabCount s p)).foldl (fun s k =>
    if gState (grpRec s p k) = 2 then groupFail s p k 2 0xFFF 0x3F else s) s

end Sys2Proof.Machine
end

