-- ==== Sys2Proof/Machine/Issue.lean ====
section
/-! DEFINITION. Issue of a tensor instruction: the order of R123 over what each class supplies. -/

namespace Sys2Proof.Machine

/-- What a class supplies to the issue of one of its instructions. -/
structure TOp where
  op     : Nat
  uses   : Uses
  /-- Checks of the word (R123 step 2). -/
  word   : List (Option SFault) := []
  /-- Units and capabilities (R123 step 3). -/
  unit   : State → Option SFault
  /-- Operands written. -/
  wr     : List Nat
  /-- Number of a container that X names. -/
  aux    : List Nat := []
  /-- Steps 5 to 7 on the captured descriptors. -/
  checks : State → List DescWord → List (Option SFault)
  /-- Class values fixed at issue, and the number of tiles. -/
  plan   : State → List DescWord → List Nat × Nat

/-- Step 4: each descriptor operand in the order TDA, TDB, TDC, TDD. -/
def descChecks (s : State) (tds : List DescWord) (used wr : List Nat) : List (Option SFault) :=
  ((List.range 4).map fun k =>
    if used.contains k then descCheck s (tds.getD k 0) (k + 1) (wr.contains k) else none) ++
  (tds.drop 4).map fun d => descCheck s d 9 true

/-- Ranges of every used operand (step 6). -/
def rangeChecks (s : State) (p : Nat) (tds : List DescWord) (used : List Nat) : List (Option SFault) :=
  ((List.range 4).map fun k =>
    if used.contains k then descRange s p (tds.getD k 0) (k + 1) else none) ++
  (tds.drop 4).map fun d => descRange s p d 9

/-- The descriptors that an instruction captures at issue (R110). -/
def TOp.capture (o : TOp) (s : State) (a : StreamId) (w : InstrWord) : List DescWord :=
  capture4 s a w o.uses.tds ++ (o.aux.map fun n => smGet 0 (ctxAt s a).td n)

/-- The wait of R115: 16 in flight, or a range that an earlier one writes or reads. -/
def tensorWait (s : State) (a : StreamId) (w : InstrWord) (tds : List DescWord) : Bool :=
  decide (16 ≤ (strmAt s a).infl.length) ||
    hazard s a (maskRanges tds (roles w).1 ++ slotRange w true) (maskRanges tds (roles w).2 ++ slotRange w false)

/-- Issues a tensor instruction: held while 16 are in flight or a hazard stands (R115), stopped by
the first check that fails (R123), otherwise in flight with its captured operands (R110). -/
def issueTensor (o : TOp) (a : StreamId) (w : InstrWord) (s : State) : State :=
  withWordAfter s a w (tensorWait s a w (o.capture s a w)) o.op o.uses o.word fun s =>
    let tds := o.capture s a w
    match firstFault (o.unit s :: descChecks s tds o.uses.tds o.wr ++ o.checks s tds) with
    | some f => streamFault s a f o.op
    | none =>
      let p := o.plan s tds
      withFence s a w tds o.op fun s => issueFlight s a w tds p.1 p.2

/-- A unit's bit of HUB_CAP2 (Table 3.6). -/
def unitBit (i : Nat) (s : State) : Option SFault := need (s.rbit rCap2 i) 0x03 0 0

/-- Equal RANK and equal DIM0 to DIM4. -/
def sameShape (x y : DescWord) : Bool := dRank x = dRank y && dDims x = dDims y


/-- The checks of an instruction: its own of step 5, its ranges (step 6), then the format rules and the
shapes that its class defines (step 7). DEDUCED: R123 lists R70, R71, R94 and R96 alone at step 5, and R425
has the formats of its class at step 7. -/
def withRanges (o : TOp) (p : Nat) (fmt shape : State → List DescWord → List (Option SFault)) : TOp :=
  { o with checks := fun s tds =>
      o.checks s tds ++ rangeChecks s p tds o.uses.tds ++ fmt s tds ++ shape s tds }

end Sys2Proof.Machine
end

