-- ==== Sys2Proof/Machine/Prod.lean ====
section
/-! DEFINITION. The matrix-product engine that MM and CONV share: tile levels, the static grid,
dynamic items, live accumulators, footprint, accumulation and output (R158 to R187, R191, R73 to
R79, R95 to R98). -/

namespace Sys2Proof.Machine

/-! ### Geometry (R160 to R163) -/

/-- Sizes and fields of one product. `ks` is 2^KSPLIT. -/
structure Geo where
  m : Nat
  n : Nat
  k : Nat
  l0m : Nat
  l0n : Nat
  l1m : Nat
  l1n : Nat
  k1  : Nat
  l2m : Nat
  l2n : Nat
  l2k : Nat
  ord2 : Nat
  ord3 : Nat
  ks  : Nat
  /-- ACCN, accumulator tiles per core. -/
  accn : Nat := 1
  dist : Bool
  deriving DecidableEq, Repr

def Geo.m1 (g : Geo) : Nat := g.l0m * g.l1m
def Geo.n1 (g : Geo) : Nat := g.l0n * g.l1n
def Geo.m2 (g : Geo) : Nat := g.m1 * g.l2m
def Geo.n2 (g : Geo) : Nat := g.n1 * g.l2n
def Geo.k2 (g : Geo) : Nat := g.k1 * g.l2k
def Geo.bm (g : Geo) : Nat := ceilDiv g.m g.m1
def Geo.bn (g : Geo) : Nat := ceilDiv g.n g.n1
def Geo.bm2 (g : Geo) : Nat := ceilDiv g.m g.m2
def Geo.bn2 (g : Geo) : Nat := ceilDiv g.n g.n2
/-- Loop indices from outer to inner in an order of Table 4.6. -/
def loopKey (ord m n k : Nat) : List Nat :=
  match ord with
  | 0 => [m, n, k]
  | 1 => [n, m, k]
  | 2 => [m, k, n]
  | 3 => [n, k, m]
  | 4 => [k, m, n]
  | _ => [k, n, m]

/-- Lexicographic order. -/
def lexLt : List Nat → List Nat → Bool
  | x :: xs, y :: ys => decide (x < y) || (x = y && lexLt xs ys)
  | _, _ => false

/-- Place of extent `x` of block `b` in the walk that ORD3 and ORD2 give (R163, R174). -/
def Geo.walkKey (g : Geo) (b : Nat × Nat) (x : Nat) : List Nat :=
  loopKey g.ord3 (b.1 / g.l2m) (b.2 / g.l2n) (x / g.l2k) ++
    loopKey g.ord2 (b.1 % g.l2m) (b.2 % g.l2n) (x % g.l2k)

/-- Number of K extents. -/
def Geo.e (g : Geo) : Nat := ceilDiv g.k g.k1
/-- Number of K slabs. -/
def Geo.e2 (g : Geo) : Nat := ceilDiv g.k g.k2
/-- L0 tiles per column and per row of the output (R191). -/
def Geo.tm (g : Geo) : Nat := ceilDiv g.m g.l0m
def Geo.tn (g : Geo) : Nat := ceilDiv g.n g.l0n
def Geo.tiles (g : Geo) : Nat := g.tm * g.tn

/-- L0 tile sizes of Table 4.4: strict 32, a pair with FP32 64, else 128. -/
def l0Size (strict : Bool) (fa fb : Nat) : Nat :=
  if strict then 32 else if fa = 0 ∨ fb = 0 then 64 else 128

/-! ### Static grid and items (R174, R176, R178) -/

/-- Divisors of `p`, descending. -/
def divisorsDown (p : Nat) : List Nat := ((List.range (p + 1)).filter fun d => d ≠ 0 ∧ p % d = 0).reverse

/-- PN: the divisor with the fewest blocks per core, the largest among equals. -/
def gridPN (p bm bn : Nat) : Nat :=
  let cost := fun d => ceilDiv bm (p / d) * ceilDiv bn d
  (divisorsDown p).foldl (fun b d => if cost d < cost b then d else b) p

/-- Owner of block (i, j) under the static grid (R174). -/
def gridOwner (p bm bn i j : Nat) : Nat :=
  let pn := gridPN p bm bn
  i % (p / pn) * pn + j % pn

/-- Index pairs below (a, b), M outer for order 0 and N outer for order 1. -/
def pairsIn (ord a b : Nat) : List (Nat × Nat) :=
  if ord = 1 then (List.range b).flatMap fun j => (List.range a).map fun i => (i, j)
  else (List.range a).flatMap fun i => (List.range b).map fun j => (i, j)

/-- Blocks in the traversal order of R176. -/
def Geo.blocks (g : Geo) : List (Nat × Nat) :=
  (pairsIn g.ord3 g.bm2 g.bn2).flatMap fun l2 =>
    ((pairsIn g.ord2 g.l2m g.l2n).map fun b => (l2.1 * g.l2m + b.1, l2.2 * g.l2n + b.2)).filter
      fun b => b.1 < g.bm ∧ b.2 < g.bn

/-- Block and K part of item `t`. -/
def Geo.item (g : Geo) (t : Nat) : Option ((Nat × Nat) × Nat) :=
  (g.blocks[t / g.ks]?).map fun b => (b, t % g.ks)

def Geo.items (g : Geo) : Nat := g.bm * g.bn * g.ks

/-- K extents of part `j`: from the first to below the second (R178). -/
def Geo.part (g : Geo) (j : Nat) : Nat × Nat := (j * g.e / g.ks, (j + 1) * g.e / g.ks)

/-- Block of L0 tile `t`. -/
def Geo.blockOf (g : Geo) (t : Nat) : Nat × Nat := (t / g.tn / g.l1m, t % g.tn / g.l1n)

/-- Blocks of core number `n` among `p` under the static grid. -/
def Geo.coreBlocks (g : Geo) (p n : Nat) : List (Nat × Nat) :=
  (pairsIn 0 g.bm g.bn).filter fun b => gridOwner p g.bm g.bn b.1 b.2 = n

/-- L0 tiles of a block that hold an output element (R183). -/
def Geo.blockTiles (g : Geo) (b : Nat × Nat) : List Nat :=
  (List.range g.tiles).filter fun t => g.blockOf t = b

/-! ### Live accumulators and footprint (R167 to R172) -/

/-- Table 4.6: the M loop, or the N loop, lies inside the K loop. -/
def insideM (o : Nat) : Bool := o = 3 || o = 4 || o = 5
def insideN (o : Nat) : Bool := o = 2 || o = 4 || o = 5

/-- NEED (R167), with `p` cores. -/
def Geo.held (g : Geo) (p : Nat) : Nat :=
  let o := if g.dist then 1
    else
      let spanM := if insideM g.ord3 || insideN g.ord3 then (if insideM g.ord3 then g.bm2 else 1) * g.l2m
        else if 1 < g.e2 then g.l2m else if insideM g.ord2 then g.l2m else 1
      let spanN := if insideM g.ord3 || insideN g.ord3 then (if insideN g.ord3 then g.bn2 else 1) * g.l2n
        else if 1 < g.e2 then g.l2n else if insideN g.ord2 then g.l2n else 1
      let pn := gridPN p g.bm g.bn
      ceilDiv (min spanM g.bm) (p / pn) * ceilDiv (min spanN g.bn) pn
  o * g.l1m * g.l1n

/-- ALLOC, CS, and OFF, SIZE of the staging window of context `x` (Tables 4.9 to 4.11). -/
def accAlloc (s : State) (p x : Nat) : Nat := s.fld (rAccAlloc (leadCluster s p)) (6 * x + 5) (6 * x)
def csAlloc (s : State) (p x : Nat) : Nat := s.fld (rCsAlloc (leadCluster s p)) (5 * x + 4) (5 * x)
def stageOff (s : State) (p x : Nat) : Nat := s.fld (rStage (leadCluster s p) x) 13 0
def stageSize (s : State) (p x : Nat) : Nat := s.fld (rStage (leadCluster s p) x) 29 16

/-- Bytes of `rows × cols` elements of a format, times 2,560: w(f) + s(f) in units of 1/2,560. -/
def footUnits (d : DescWord) (n : Nat) : Nat :=
  n * (fmtBits (dFmt d) * 320 + if dIsMx d then 3200 / dGs d else 0)

/-- The staging window lies in the partition's scratchpad on every die that holds a cluster of it
(R172). -/
def stageOk (s : State) (p x : Nat) : Bool :=
  stageSize s p x = 0 ||
    (((partClusters s p).map fun c => c / 4).dedup.all fun d =>
      let lo := ssBase + d * 0x100000000 + stageOff s p x * 65536
      (List.range (stageSize s p x)).all fun i => inPartScratch s p (lo + i * 65536))

/-- R168, R172, R170 in their order. -/
def Geo.spaceChecks (g : Geo) (s : State) (a : StreamId) (w : InstrWord) (da db : DescWord) :
    List (Option SFault) :=
  let alloc := accAlloc s a.part a.ctx
  let need_ := g.held (nCores s a.part)
  let spill := if alloc < g.accn then need_ * 65536 else 0
  let split := if 1 < g.ks then g.bm * g.m1 * g.bn * g.n1 * 48 else 0
  [need (need_ ≤ g.accn && (g.accn ≤ alloc || iSpill w) && alloc ≠ 0) 0x10 1 9,
   need (stageOk s a.part a.ctx) 0x0C 1 0,
   need (2 * (footUnits da (g.m1 * g.k1) + footUnits db (g.n1 * g.k1)) + spill * 2560 ≤
     csAlloc s a.part a.ctx * 262144 * 2560) 0x11 1 0,
   need (2 * (footUnits da (g.m2 * g.k2) + footUnits db (g.n2 * g.k2)) + split * 2560 ≤
     stageSize s a.part a.ctx * 65536 * 2560) 0x11 1 0]

/-! ### Accumulation (R73 to R75, R95, R158) -/

/-- A product: its geometry, operands, and the terms of each output element by reduction index; a
masked lane or padding tap is none. -/
structure Prod where
  g    : Geo
  da   : DescWord
  db   : DescWord
  dc   : DescWord
  dt   : Option DescWord
  acc  : Bool
  strict : Bool
  term : Nat → Nat → Nat → Option ((Nat × Nat) × (Nat × Nat))
  out  : Nat → Nat → Nat × Nat
  /-- Placed on the edge engines (R217). -/
  edge : Bool
  /-- The accumulators are kept for Accord instead of being written (MMRS). -/
  keep : Bool := false
  /-- The tensor that operand A is read from in memory, and the place of element (r, i) in it; none
  for elements that Accord gathered (MMAG). -/
  dsrc : DescWord := da
  aown : Nat → Nat → Option (Nat × Nat) := fun r i => some (r, i)
  aval : State → Nat → Nat → Val := fun s r i => elemVal s da r i
  apois : Nat → Nat → Bool := fun _ _ => false

/-- An accumulator word: FP32 code, and whether a NaN or an infinite operand entered; or a record
(R97). -/
def encFast (v : Val) (nan inf : Bool) : Nat := code32 v + b2n nan * 2 ^ 32 + b2n inf * 2 ^ 33
def decFast (n : Nat) : Val := decodeVal 0 (n % 2 ^ 32)
def fastOps (n : Nat) : List Val :=
  (if n / 2 ^ 32 % 2 = 1 then [Val.nan] else []) ++ (if n / 2 ^ 33 % 2 = 1 then [Val.inf false] else [])

/-- One group sum, or one fused product, into a fast accumulator. `skip` drops an exact zero (R73). -/
def accFast (skip : Bool) (acc : Nat) (ts : List (Val × Val)) : Nat :=
  let sum := ts.foldl (fun v t => v.add (t.1.mul t.2)) (.fin true 0 0)
  let nan := acc / 2 ^ 32 % 2 = 1 || ts.any fun t => t.1.isNan || t.2.isNan
  let inf := acc / 2 ^ 33 % 2 = 1 || ts.any fun t => t.1.isInf || t.2.isInf
  let v := if skip && sum.isZero then decFast acc else r32 ((decFast acc).add sum)
  encFast v nan inf

/-- The runs of terms that share both scale codes, in ascending order, each with its last reduction
index: one run is one group sum (R73). -/
def scaleRuns (p : Prod) : List (Nat × ((Nat × Nat) × (Nat × Nat))) →
    List (Nat × List ((Nat × Nat) × (Nat × Nat)))
  | [] => []
  | (k, t) :: ts =>
    let key := fun (u : (Nat × Nat) × (Nat × Nat)) =>
      (scaleIdx p.da u.1.1 (u.1.2 / dGs p.da), scaleIdx p.db u.2.1 (u.2.2 / dGs p.db))
    match scaleRuns p ts with
    | (k2, u :: us) :: rs => if key t = key u then (k2, t :: u :: us) :: rs else (k, [t]) :: (k2, u :: us) :: rs
    | rs => (k, [t]) :: rs

/-- Terms of output (m, n), with their indices. -/
def Prod.terms (p : Prod) (m n : Nat) : List (Nat × ((Nat × Nat) × (Nat × Nat))) :=
  (List.range p.g.k).filterMap fun k => (p.term m n k).map fun t => (k, t)

/-- Values of a term. -/
def Prod.vals (p : Prod) (s : State) (t : (Nat × Nat) × (Nat × Nat)) : Val × Val :=
  (p.aval s t.1.1 t.1.2, elemVal s p.db t.2.1 t.2.2)

/-- The accumulator of (m, n) after the terms of reduction indices `lo` to below `hi`. A group sum
belongs to the extent of its last term. -/
def Prod.accumulate (p : Prod) (s : State) (m n lo hi acc : Nat) : Nat :=
  if p.strict then
    (((p.terms m n).filter fun t => lo ≤ t.1 ∧ t.1 < hi).foldl (fun r t =>
      let v := p.vals s t.2
      r.term true (v.1.mul v.2)) (Rec.ofNat48 acc)).toNat48
  else if dIsMx p.da then
    ((scaleRuns p (p.terms m n)).filter fun r => lo ≤ r.1 ∧ r.1 < hi).foldl
      (fun acc r => accFast true acc (r.2.map (p.vals s))) acc
  else
    ((p.terms m n).filter fun t => lo ≤ t.1 ∧ t.1 < hi).foldl
      (fun acc t => accFast false acc [p.vals s t.2]) acc

/-- The accumulator that a tile starts from: +0, an empty record, or the existing element of C
(R158). -/
def Prod.start (p : Prod) (s : State) (m n : Nat) (withC : Bool) : Nat :=
  let c := p.out m n
  let v := if withC then elemVal s p.dc c.1 c.2 else .fin false 0 0
  if p.strict then (if withC then Rec.zero.term false v else Rec.zero).toNat48
  else encFast v v.isNan v.isInf

/-! ### Output (R77 to R79, R98) -/

/-- Final value and operands of an accumulator word. -/
def Prod.final (p : Prod) (acc : Nat) : Val × List Val :=
  if p.strict then let r := Rec.ofNat48 acc; (r.val, r.ops) else (decFast acc, fastOps acc)

/-- The value of output column `n` after the rescale table, exactly, and its operands. -/
def Prod.rescaled (p : Prod) (s : State) (n acc : Nat) : Val × List Val :=
  let f := p.final acc
  match p.dt with
  | none => f
  | some d =>
    let m := elemVal s d 0 (2 * n)
    let b := elemVal s d 0 (2 * n + 1)
    ((f.1.mul m).add b, f.2 ++ [m, b])

/-- Output elements of L0 tile `t` as (m, n). -/
def Geo.elems (g : Geo) (t : Nat) : List (Nat × Nat) :=
  let i0 := t / g.tn
  let j0 := t % g.tn
  (List.range (min g.l0m (g.m - i0 * g.l0m))).flatMap fun i =>
    (List.range (min g.l0n (g.n - j0 * g.l0n))).map fun j => (i0 * g.l0m + i, j0 * g.l0n + j)

/-- Flag position of output (m, n) (R191). -/
def Geo.mark (g : Geo) (m n : Nat) (k : Mark) : TileMark :=
  ⟨k, m / g.l0m * g.tn + n / g.l0n, m % g.l0m, n % g.l0n⟩

/-- Columns of the MX output group, or FMC row, that holds column `n`. -/
def Prod.groupCols (p : Prod) (n : Nat) : List Nat :=
  let gs := if dIsFmc p.dc then 32 else dGs p.dc
  (List.range (min gs (p.g.n - n / gs * gs))).map fun i => n / gs * gs + i

/-- Output elements that poisoning a tile covers: for an MX output, its whole groups (R187). -/
def Prod.cover (p : Prod) (t : Nat) : List (Nat × Nat) :=
  if dIsMx p.dc then ((p.g.elems t).flatMap fun e => (p.groupCols e.2).map fun n => (e.1, n)).dedup
  else p.g.elems t

def Prod.coverAddrs (p : Prod) (t : Nat) : List Nat :=
  let es := (p.cover t).map fun e => p.out e.1 e.2
  outAddrs p.dc es ++ if dIsMx p.dc then (setScaleBlocks p.dc es).map (scaleBlock p.dc) else []

/-! ### Accumulator memory and spill slots (R166, R169, R194, R195)

DESIGN CHOICE: a region's units, and the spill slots from the start of a context's core-store region, are taken
lowest free number first; an accumulator tile lies in its unit as the values of its elements in row order. The
spec gives no layout inside a region. -/

/-- First unit of a context in each core's accumulator memory, and first byte of its core-store region. -/
def accBase (s : State) (p x : Nat) : Nat := ((List.range x).map (accAlloc s p)).sum
def csBase (s : State) (p x : Nat) : Nat := 262144 * ((List.range x).map (csAlloc s p)).sum

/-- Bytes of an accumulator: FP32, or a 48-byte record in strict mode. -/
def accWidth (strict : Bool) : Nat := if strict then 48 else 4

/-- Address of the accumulators of an open tile in the cores' accumulator memories or core stores. -/
def accAddr (s : State) (a : StreamId) (q : AccTile) : Nat :=
  match q.home with
  | .spill => q.core * 0x400000 + csBase s a.part a.ctx + 65536 * q.slot
  | _ => q.core * 0x200000 + 65536 * (accBase s a.part a.ctx + q.slot)

/-- Stores the accumulators of a tile where they lie. -/
def putAcc (s : State) (a : StreamId) (strict : Bool) (q : AccTile) (acc : List Nat) : State :=
  let bs := acc.flatMap fun n => leBytes (accWidth strict) n
  match q.home with
  | .unit => { s with accm := smPutRun 0#8 s.accm (accAddr s a q) bs }
  | .spill => { s with cstore := smPutRun 0#8 s.cstore (accAddr s a q) bs }
  | .out => s

/-- The `n` accumulators of a tile, read where they lie. -/
def getAcc (s : State) (a : StreamId) (strict : Bool) (q : AccTile) (n : Nat) : List Nat :=
  let b := accWidth strict
  let vs := fun (m : SMap Byte) => (chunks b n (smGetRun 0#8 m (accAddr s a q) (n * b))).map leNat
  let whole := fun (m : SMap Byte) => if strict then vs m else ((vs m).zip q.words).map fun u => u.1 + u.2 * 2 ^ 32
  match q.home with
  | .unit => whole s.accm
  | .spill => whole s.cstore
  | .out => q.words

/-- What the instruction keeps beside accumulators that lie at `h`. -/
def accWords (strict : Bool) (h : AccHome) (acc : List Nat) : List Nat :=
  match h with
  | .out => acc
  | _ => if strict then [] else acc.map fun n => n / 2 ^ 32

/-- Numbers at home `h` of a core that the context's open tiles hold. -/
def slotsHeld (c : Ctx) (core : Nat) (h : AccHome) : List Nat :=
  c.allStrms.flatMap fun t => t.infl.flatMap fun f =>
    f.accs.filterMap fun q => if q.2.core = core ∧ q.2.home = h then some q.2.slot else none

/-- The accumulator words of tile `t` that have left the core. -/
def accOf (f : InFlight) (g : Geo) (key t m n : Nat) : Nat :=
  let l := (smGet .none_ f.accs key).words
  let i0 := t / g.tn
  let j0 := t % g.tn
  l.getD ((m - i0 * g.l0m) * min g.l0n (g.n - j0 * g.l0n) + (n - j0 * g.l0n)) 0

/-- Output of a tile into a wide tensor or an FMC tensor; `acc m n` gives the final accumulators. -/
def Prod.outWide (p : Prod) (s : State) (es : List (Nat × Nat)) (acc : Nat → Nat → Nat) : TileOut :=
  let val := fun (m n : Nat) =>
    let v := p.rescaled s n (acc m n)
    elemWide (dFmt p.dc) v.2 v.1
  if dIsFmc p.dc then
    let rows := (es.map fun e => ((p.out e.1 e.2).1, e.1, e.2 / 32 * 32)).dedup
    let enc := rows.map fun r =>
      (r, fmcEncode (dLayout p.dc) ((List.range 32).map fun i => decodeVal 1 (val r.2.1 (r.2.2 + i)).code))
    ⟨enc.flatMap fun r => fmcBytes p.dc r.1.1 r.2.1 (r.2.2.map Elem.code),
     enc.flatMap fun r => (List.range 32).zip r.2.2 |>.map fun q => p.g.mark r.1.2.1 (r.1.2.2 + q.1) q.2.mark⟩
  else
    let cs := es.map fun e => (e, val e.1 e.2)
    ⟨elemBytes s p.dc (cs.map fun c => (p.out c.1.1 c.1.2, c.2.code)),
     cs.map fun c => p.g.mark c.1.1 c.1.2 c.2.mark⟩

/-- Output of one MX group: FP32 values quantised in derived mode along DIM0 (R79, R83). -/
def Prod.outGroup (p : Prod) (s : State) (sat : Bool) (m : Nat) (cols : List Nat)
    (acc : Nat → Nat → Nat) : TileOut :=
  let vs := cols.map fun n => r32 (p.rescaled s n (acc m n)).1
  let q := quantGroup (dFmt p.dc) none sat vs
  let n0 := cols.headD 0
  let c0 := p.out m n0
  let cs := cols.zip q.2
  ⟨codeBytes s p.dc c0.1 (cs.map fun c => ((p.out m c.1).2, c.2.code)) ++
     scaleBytes p.dc (scaleIdx p.dc c0.1 (c0.2 / dGs p.dc)) q.1,
   cs.map fun c => p.g.mark m c.1 c.2.mark⟩

/-- Groups of the output that tile `t` touches and whose covering tiles have all finished. -/
def Prod.readyGroups (p : Prod) (f : InFlight) (t : Nat) : List (Nat × List Nat) :=
  (((p.g.elems t).map fun e => (e.1, p.groupCols e.2)).dedup).filter fun r =>
    r.2.all fun n =>
      let u := r.1 / p.g.l0m * p.g.tn + n / p.g.l0n
      decide (f.done.count u = p.g.e) && !f.bad.contains u

/-- Writes a tile's output and flags in the cluster of `core`. -/
def putOut (s : State) (a : StreamId) (f : InFlight) (core : Nat) (o : TileOut) : State × InFlight :=
  (recordMarks (writeAll s o.ws (some (strmTag a f.iseq))) a f (core / 32) o.marks,
   { f with nf := f.nf || hasNf o.marks, sat := f.sat || hasSat o.marks })

/-- Output of a tile after its last extent. -/
def Prod.writeTile (p : Prod) (s : State) (a : StreamId) (f : InFlight) (t core : Nat) :
    State × InFlight :=
  if dIsMx p.dc then
    (p.readyGroups f t).foldl (fun sf r =>
      putOut sf.1 a sf.2 core (p.outGroup sf.1 (iSat f.w) r.1 r.2 fun m n =>
        let u := m / p.g.l0m * p.g.tn + n / p.g.l0n
        accOf f p.g u u m n)) (s, f)
  else
    let r := putOut s a f core (p.outWide s (p.g.elems t) fun m n => accOf f p.g t t m n)
    (r.1, { r.2 with accs := smErase r.2.accs t })

/-! ### K-split (R180) -/

/-- Address of the record of (m, n) in the split area, at the start of the staging window of the
lead cluster's die, records row-major over the padded output. -/
def Geo.splitAddr (g : Geo) (s : State) (a : StreamId) (m n : Nat) : Nat :=
  ssBase + leadCluster s a.part / 4 * 0x100000000 + stageOff s a.part a.ctx * 65536 +
    48 * (m * (g.bn * g.n1) + n)

/-- Zeroes the split area (R180). DESIGN CHOICE: the other bytes of the staging window keep their values, since
the spec lays out no staged slab (R172, R298). -/
def Geo.clearSplit (g : Geo) (s : State) (a : StreamId) (iseq : BitVec 32) : State :=
  if 1 < g.ks then
    writeBytes s (g.splitAddr s a 0 0) (List.replicate (g.bm * g.m1 * g.bn * g.n1 * 48) 0)
      (some (strmTag a iseq))
  else s

/-- Adds the records of a finished part of tile `t` into the split area. -/
def Prod.addSplit (p : Prod) (s : State) (a : StreamId) (f : InFlight) (t : Nat) (acc : List Nat) : State :=
  writeAll s (((p.g.elems t).zip acc).flatMap fun u =>
    let ad := p.g.splitAddr s a u.1.1 u.1.2
    let r := (Rec.ofNat48 (readNat s ad 48)).add (Rec.ofNat48 u.2)
    (List.range 48).zip (leBytes 48 r.toNat48) |>.map fun b => (ad + b.1, b.2))
    (some (strmTag a f.iseq))

/-- Elements of the rescale table that the columns of a tile read. -/
def Prod.tableReads (p : Prod) (t : Nat) : List TileRead :=
  match p.dt with
  | none => []
  | some d => [⟨d, (((p.g.elems t).map Prod.snd).dedup.flatMap fun n => [(0, 2 * n), (0, 2 * n + 1)]), false⟩]

/-- Extent of tile `t` reads gathered data that came poisoned. -/
def Prod.gatherPois (p : Prod) (t lo hi : Nat) : Bool :=
  (p.g.elems t).any fun e => (p.terms e.1 e.2).any fun u =>
    decide (lo ≤ u.1) && decide (u.1 < hi) && p.apois u.2.1.1 u.2.1.2

/-- A contained tile: its inputs' faults have been reported; its accumulators go, and its output blocks are
poisoned. -/
def Prod.contain (p : Prod) (s : State) (a : StreamId) (f : InFlight) (t : Nat) (pois : Bool) :
    State × InFlight :=
  let s1 := if pois && !f.bad.contains t then cntInc s 0x0001 a.part 1 else s
  (if p.keep then s1 else poisonOut s1 a f (p.coverAddrs t) p.dc, 
    { f with bad := (f.bad ++ [t]).dedup, accs := f.accs.filter fun q => q.1 / p.g.ks ≠ t })

/-- Output of a whole block from its records, once every part has finished. -/
def Prod.writeBlock (p : Prod) (s : State) (a : StreamId) (f : InFlight) (b : Nat × Nat) (core : Nat) :
    State × InFlight :=
  (p.g.blockTiles b).foldl (fun sf t =>
    if sf.2.bad.contains t then sf
    else if p.keep then
      (sf.1, { sf.2 with accs := smSet .none_ sf.2.accs (t * p.g.ks) ⟨core, .out, 0, (p.g.elems t).map fun e =>
        readNat sf.1 (p.g.splitAddr sf.1 a e.1 e.2) 48⟩ })
    else
      let c := checkReads sf.1 a sf.2 (core / 32) (p.tableReads t)
      if c.pois || c.mis then p.contain c.s a sf.2 t c.pois
      else putOut c.s a sf.2 core (p.outWide c.s (p.g.elems t) fun m n =>
        readNat c.s (p.g.splitAddr c.s a m n) 48)) (s, f)

/-! ### TILE_END of a product -/

/-- The K part that core `core` computes of tile `t`: 0 under the static grid where it owns the
block, or at the edge engine of its cluster; of the claimed item under dynamic claims. -/
def Prod.partFor (p : Prod) (s : State) (a : StreamId) (f : InFlight) (t core : Nat) : Option Nat :=
  let b := p.g.blockOf t
  match coreNo s a.part core with
  | none => none
  | some n =>
    if p.edge then if n / 32 = t % nClusters s a.part then some 0 else none
    else if p.g.dist then
      (f.claims.find? fun c => c.2 = core ∧ ((p.g.item c.1).map Prod.fst) = some b).map fun c => c.1 % p.g.ks
    else if gridOwner (nCores s a.part) p.g.bm p.g.bn b.1 b.2 = n then some 0 else none

/-- A core works through its blocks in the order that ORD3 and ORD2 give: every tile that comes before
extent `x` of tile `t` on core number `n` has ended (R174). -/
def Prod.inTurn (p : Prod) (s : State) (a : StreamId) (f : InFlight) (t x n : Nat) : Bool :=
  p.edge || p.g.dist || (p.g.coreBlocks (nCores s a.part) n).all fun b => (List.range p.g.e).all fun y =>
    !lexLt (p.g.walkKey b y) (p.g.walkKey (p.g.blockOf t) x) ||
      (p.g.blockTiles b).all fun u => decide (y < f.done.count u)

/-- Where the accumulators of the next extent of tile `t` lie: where they are; for a tile that opens, a free
unit of the context, or a free spill slot where ACCN exceeds ALLOC; none while none is free. -/
def Prod.homeFor (p : Prod) (s : State) (a : StreamId) (f : InFlight) (key t core : Nat) : Option AccTile :=
  match f.accs.find? fun q => q.1 = key with
  | some q => some q.2
  | none =>
    let alloc := accAlloc s a.part a.ctx
    if p.edge || f.bad.contains t then some ⟨core, .out, 0, []⟩
    else
      let h : AccHome × Nat := if alloc < p.g.accn then (.spill, p.g.held (nCores s a.part)) else (.unit, alloc)
      ((List.range h.2).find? fun k => !(slotsHeld (ctxAt s a) core h.1).contains k).map fun k => ⟨core, h.1, k, []⟩

/-- Elements that extent `x` of tile `t` reads. -/
def Prod.reads (p : Prod) (t lo hi : Nat) : List TileRead :=
  let ts := (p.g.elems t).flatMap fun e =>
    ((p.terms e.1 e.2).filter fun u => lo ≤ u.1 ∧ u.1 < hi).map Prod.snd
  [⟨p.dsrc, (ts.filterMap fun t => p.aown t.1.1 t.1.2).dedup, false⟩, ⟨p.db, (ts.map Prod.snd).dedup, false⟩]

/-- Item numbers whose every tile has ended: their claims are released (R176). -/
def Prod.release (p : Prod) (f : InFlight) : InFlight :=
  { f with claims := f.claims.filter fun c =>
      match p.g.item c.1 with
      | none => false
      | some (b, j) =>
        let n := (p.g.part j).2 - (p.g.part j).1
        !((p.g.blockTiles b).all fun t => decide (f.done.count (t * p.g.ks + j) = n)) }

/-- TILE_END: tile `t` ends for its next K extent on `core` (R165, R187). Progress is kept under
`t × 2^KSPLIT + part`. -/
def Prod.tileEnd (p : Prod) (s : State) (a : StreamId) (f : InFlight) (t core : Nat) (err : StoreErr) :
    State :=
  match p.partFor s a f t core with
  | none => s
  | some j =>
    let key := t * p.g.ks + j
    let e0 := (p.g.part j).1
    let x := e0 + f.done.count key
    if p.g.tiles ≤ t ∨ (p.g.part j).2 ≤ x ∨ p.inTurn s a f t x ((coreNo s a.part core).getD 0) = false then s
    else match p.homeFor s a f key t core with
    | none => s
    | some q =>
      let lo := x * p.g.k1
      let hi := min p.g.k (lo + p.g.k1)
      let withC := p.acc && j = 0
      let last := x + 1 = (p.g.part j).2
      let es := p.g.elems t
      let c := checkReads s a f (core / 32) (p.reads t lo hi ++
        (if withC && x = e0 then [⟨p.dc, es.map fun e => p.out e.1 e.2, true⟩] else []) ++
        (if last && p.g.ks = 1 && !p.keep then p.tableReads t else []))
      let s0 := storeErrRecord c.s a f core err
      let nack := if last && !p.keep then outNack s0 [(p.dc, p.coverAddrs t)] else none
      let s1 := match nack with
        | some ad => nackRecord s0 a f core ad
        | none => s0
      let f1 := { f with done := f.done ++ [key], seen := (f.seen ++ c.seen).dedup }
      let r :=
        let pois := c.pois || p.gatherPois t lo hi
        if pois || c.mis || storeLost err || nack.isSome then p.contain s1 a f1 t pois
        else if f1.bad.contains t then (s1, f1)
        else
          let old := if x = e0 then es.map fun e => p.start s1 e.1 e.2 withC else getAcc s1 a p.strict q es.length
          let acc := (es.zip old).map fun u => p.accumulate s1 u.1.1 u.1.2 lo hi u.2
          let s2 := putAcc s1 a p.strict q acc
          if !last then
            (s2, { f1 with accs := smSet .none_ f1.accs key { q with words := accWords p.strict q.home acc } })
          else if 1 < p.g.ks then (p.addSplit s2 a f1 t acc, { f1 with accs := smErase f1.accs key })
          else
            let f2 := { f1 with accs := smSet .none_ f1.accs key ⟨core, .out, 0, acc⟩ }
            if p.keep then (s2, f2) else p.writeTile s2 a f2 t core
      let b := p.g.blockOf t
      let r :=
        if 1 < p.g.ks && (p.g.blockTiles b).all fun u => (List.range p.g.ks).all fun j =>
            decide (r.2.done.count (u * p.g.ks + j) = (p.g.part j).2 - (p.g.part j).1) then
          p.writeBlock r.1 a r.2 b core
        else r
      setFlight r.1 a (p.release r.2)

end Sys2Proof.Machine
end

