-- ==== Sys2Proof/Machine/Mm.lean ====
section
/-! DEFINITION. MM and MMACC (R155 to R192). MMRS and MMAG add Accord's part in Col.lean. -/

namespace Sys2Proof.Machine

/-- TA, TB, RST of the class field (Table 4.5). -/
def mmTa (w : InstrWord) : Bool := xF w 28 28 = 1
def mmTb (w : InstrWord) : Bool := xF w 29 29 = 1
def mmRst (w : InstrWord) : Bool := xF w 30 30 = 1

/-- Geometry of an MM-class instruction (R156, R160, R161). -/
def mmGeo (w : InstrWord) (x y : DescWord) : Geo where
  m := if mmTa w then dDim x 0 else dDim x 1
  n := if mmTb w then dDim y 0 else dDim y 1
  k := if mmTa w then dDim x 1 else dDim x 0
  l0m := l0Size (iStrict w) (dFmt x) (dFmt y)
  l0n := l0Size (iStrict w) (dFmt x) (dFmt y)
  l1m := xF w 10 9 + 1
  l1n := xF w 12 11 + 1
  k1 := 128 * (xF w 15 13 + 1)
  l2m := xF w 19 16 + 1
  l2n := xF w 23 20 + 1
  l2k := xF w 27 24 + 1
  ord2 := xF w 5 3
  ord3 := xF w 8 6
  ks := 2 ^ xF w 33 31
  accn := xF w 39 34
  dist := iDist w

/-- The product of an MM-class instruction: element (m, k) of A by element (n, k) of B. -/
def mmProd (w : InstrWord) (tds : List DescWord) (acc : Bool) : Prod where
  g := mmGeo w (tds.getD 0 0) (tds.getD 1 0)
  da := tds.getD 0 0
  db := tds.getD 1 0
  dc := tds.getD 2 0
  dt := if mmRst w then some (tds.getD 3 0) else none
  acc := acc
  strict := iStrict w
  term := fun m n k => some (if mmTa w then (k, m) else (m, k), if mmTb w then (k, n) else (n, k))
  out := fun m n => (m, n)
  edge := false

/-- Step 2 of R123: loop orders, K-split, dynamic orders, and RST of MMACC. -/
def mmWord (w : InstrWord) (acc : Bool) : List (Option SFault) :=
  [need (xF w 2 0 ≤ 5 && xF w 5 3 ≤ 5 && xF w 8 6 ≤ 5) 0x02 0 9,
   need (!(acc && mmRst w)) 0x02 0 9,
   need (xF w 33 31 = 0 || (iDist w && iStrict w)) 0x02 0 9,
   need (!iDist w || (xF w 5 3 ≤ 1 && xF w 8 6 ≤ 1)) 0x02 0 9]

/-- Step 3 of R123 for MM and CONV: the matrix engine, and strict mode. -/
def meUnits (w : InstrWord) (s : State) : Option SFault :=
  firstFault [unitBit 0 s, need (!iStrict w || s.rbit rCap2 6) 0x03 0 10]

/-- Formats of A and B (R71, R94, R96): `len` is the declared reduction length. -/
def pairChecks (w : InstrWord) (x y z : DescWord) (len : Nat) : List (Option SFault) :=
  [need ((dIsMx x || isWide (dFmt x))) 0x05 1 1,
   need ((dIsMx y || isWide (dFmt y)) && dIsMx x = dIsMx y) 0x05 1 2,
   need (!dIsMx x || dGroup x = dGroup y) 0x06 1 2,
   need (!iStrict w || (!dIsMx x && !dIsMx y && !dIsMx z)) 0x08 1 (if dIsMx x then 1 else if dIsMx y then 2 else 3),
   need (!iStrict w || len ≤ 131072) 0x09 1 1]

/-- Step 5 of R123 on the operands of an MM-class instruction. -/
def mmPair (w : InstrWord) (acc : Bool) (tds : List DescWord) : List (Option SFault) :=
  let k := (mmGeo w (tds.getD 0 0) (tds.getD 1 0)).k
  pairChecks w (tds.getD 0 0) (tds.getD 1 0) (tds.getD 2 0) (if acc then k + 1 else k)

/-- Format rules of Table 4.2, R188, R205 and the rescale table (step 7). -/
def mmFmt (w : InstrWord) (acc : Bool) (tds : List DescWord) : List (Option SFault) :=
  let x := tds.getD 0 0
  let y := tds.getD 1 0
  let z := tds.getD 2 0
  [need (isWide (dFmt z) || (dIsMx z && !acc)) 0x05 1 3,
   need (!dIsMx x || (!mmTa w && !mmTb w)) 0x05 1 9,
   need (!dIsFmc x) 0x05 1 1, need (!dIsFmc y) 0x05 1 2, need (!dIsFmc z) 0x05 1 3,
   need (!mmRst w || (dFmt (tds.getD 3 0) = 0 && !dIsFmc (tds.getD 3 0))) 0x05 1 4]

/-- Shapes of Table 4.1, the K-split and the dynamic item (R156, R178, R179). -/
def mmShape (w : InstrWord) (tds : List DescWord) : List (Option SFault) :=
  let x := tds.getD 0 0
  let y := tds.getD 1 0
  let z := tds.getD 2 0
  let d := tds.getD 3 0
  let g := mmGeo w x y
  [need (dRank x = 2) 0x0D 1 1,
   need (dRank y = 2 && (if mmTb w then dDim y 1 else dDim y 0) = g.k) 0x0D 1 2,
   need (dRank z = 2 && dDim z 0 = g.n && dDim z 1 = g.m) 0x0D 1 3,
   need (!mmRst w || (dRank d = 1 && dDim d 0 = 2 * g.n)) 0x0D 1 4,
   need (g.ks ≤ g.e) 0x0D 1 9,
   need (!iDist w || ceilDiv g.e g.ks ≤ g.l2k) 0x0D 1 9]

/-- Operands of MM: TDD only with RST = 1. `x` is the mask of the class field. -/
def mmUses (w : InstrWord) (x : Nat) : Uses :=
  { tds := if mmRst w then [0, 1, 2, 3] else [0, 1, 2], x := x }

/-- Issue of an MM-class instruction. `unit` adds to step 3, `extra` to step 7. -/
def mmOp (op : Nat) (acc : Bool) (xmask : Nat) (unit : State → Option SFault)
    (extra : State → List DescWord → List (Option SFault)) (a : StreamId) (w : InstrWord) : TOp where
  op := op
  uses := mmUses w xmask
  word := mmWord w acc
  unit := fun s => firstFault [meUnits w s, unit s]
  wr := [2]
  checks := fun s tds =>
    let g := mmGeo w (tds.getD 0 0) (tds.getD 1 0)
    mmPair w acc tds ++ rangeChecks s a.part tds (mmUses w xmask).tds ++
      g.spaceChecks s a w (tds.getD 0 0) (tds.getD 1 0) ++ mmFmt w acc tds ++ mmShape w tds ++ extra s tds
  plan := fun _ tds =>
    let g := mmGeo w (tds.getD 0 0) (tds.getD 1 0)
    ([], g.tiles * g.e)

/-- A product that issues clears its split area (R180). -/
def issueProd (o : TOp) (g : List DescWord → Geo) (a : StreamId) (w : InstrWord) (s : State) : State :=
  let s1 := issueTensor o a w s
  match (strmAt s1 a).infl.getLast? with
  | some f =>
    if f.iseq = (strmAt s a).iseq ∧ (strmAt s a).infl.length < (strmAt s1 a).infl.length then
      (g f.tds).clearSplit s1 a f.iseq
    else s1
  | none => s1

def mmGeoOf (w : InstrWord) (tds : List DescWord) : Geo := mmGeo w (tds.getD 0 0) (tds.getD 1 0)

/-- MM: C := A × Bᵀ through rescale and output. -/
def doMm (a : StreamId) (w : InstrWord) (s : State) : State :=
  issueProd (mmOp 0x30 false (xm 39 0) (fun _ => none) (fun _ _ => []) a w) (mmGeoOf w) a w s
def execMm (a : StreamId) (w : InstrWord) (s : State) : Res := .next (doMm a w s)

/-- MMACC: starts each accumulator from the existing C (R158). -/
def doMmacc (a : StreamId) (w : InstrWord) (s : State) : State :=
  issueProd (mmOp 0x31 true (xm 39 0) (fun _ => none) (fun _ _ => []) a w) (mmGeoOf w) a w s
def execMmacc (a : StreamId) (w : InstrWord) (s : State) : Res := .next (doMmacc a w s)

/-- A tile of MM or MMACC. -/
def tileMm (s : State) (a : StreamId) (f : InFlight) (t core : Nat) (e : StoreErr) : State :=
  (mmProd f.w f.tds (iOp f.w = 0x31)).tileEnd s a f t core e

end Sys2Proof.Machine
end

