-- ==== Sys2Proof/Machine/Conv.lean ====
section
/-! DEFINITION. CONV, CONVG, CONVBD, CONVBW (R199 to R219) and POOL (R220 to R224). -/

namespace Sys2Proof.Machine

/-! ### Feature maps (Table 5.1, R200) -/

def fmW (d : DescWord) : Nat := if dLayout d = 0 then dDim d 0 else dDim d 1
def fmH (d : DescWord) : Nat := if dLayout d = 0 then dDim d 1 else dDim d 2
def fmC (d : DescWord) : Nat := if dLayout d = 0 then dDim d 2 else dDim d 0 * dDim d 3
def fmN (d : DescWord) : Nat := if dLayout d = 0 then dDim d 3 else dDim d 4

/-- Row and position of element (n, c, h, w). -/
def fmAt (d : DescWord) (n c h w : Nat) : Nat × Nat :=
  if dLayout d = 0 then (h + dDim d 1 * (c + dDim d 2 * n), w)
  else (w + dDim d 1 * (h + dDim d 2 * (c / dDim d 0 + dDim d 3 * n)), c % dDim d 0)

/-- Coordinates (n, c, h, w) of position `i` of row `r`. -/
def fmOf (d : DescWord) (r i : Nat) : Nat × Nat × Nat × Nat :=
  if dLayout d = 0 then
    (r / dDim d 1 / dDim d 2, r / dDim d 1 % dDim d 2, r % dDim d 1, i)
  else
    let h := r / dDim d 1
    (h / dDim d 2 / dDim d 3, h / dDim d 2 % dDim d 3 * dDim d 0 + i, h % dDim d 2, r % dDim d 1)

/-- A blocked map or an FMC map: layouts 1 to 4. -/
def blocked (d : DescWord) : Bool := 1 ≤ dLayout d && dLayout d ≤ 4

/-! ### Windows (R208, R209) -/

/-- Strides, dilations, pads and window of a sliding operation. -/
structure Win where
  sh : Nat
  sw : Nat
  dh : Nat
  dw : Nat
  pt : Nat
  pb : Nat
  pl : Nat
  pr : Nat
  fh : Nat
  fw : Nat
  deriving DecidableEq, Repr

/-- Output length along one axis (R208). -/
def outLen (h p0 p1 dil f st : Nat) : Nat :=
  if dil * (f - 1) + 1 ≤ h + p0 + p1 then (h + p0 + p1 - dil * (f - 1) - 1) / st + 1 else 0

def Win.p (v : Win) (h : Nat) : Nat := outLen h v.pt v.pb v.dh v.fh v.sh
def Win.q (v : Win) (w : Nat) : Nat := outLen w v.pl v.pr v.dw v.fw v.sw

/-- Input position of tap `f` of output `p` on one axis; none for a padding tap (R209). -/
def tapPos (p st p0 f dil h : Nat) : Option Nat :=
  if p0 ≤ p * st + f * dil ∧ p * st + f * dil - p0 < h then some (p * st + f * dil - p0) else none

def Win.tap (v : Win) (p q fr fs h w : Nat) : Option (Nat × Nat) :=
  (tapPos p v.sh v.pt fr v.dh h).bind fun y => (tapPos q v.sw v.pl fs v.dw w).map fun x => (y, x)

/-- Output position that reads input `h` through tap `f`; none where no output does (Table 5.5). -/
def backPos (h st p0 f dil n : Nat) : Option Nat :=
  if f * dil ≤ h + p0 ∧ (h + p0 - f * dil) % st = 0 ∧ (h + p0 - f * dil) / st < n then
    some ((h + p0 - f * dil) / st) else none

/-! ### The convolution class field (Table 5.3) -/

def cvWin (w : InstrWord) (filt : DescWord) : Win :=
  ⟨xF w 3 0 + 1, xF w 7 4 + 1, xF w 11 8 + 1, xF w 15 12 + 1, xF w 19 16, xF w 23 20, xF w 27 24,
   xF w 31 28, dDim filt 2, dDim filt 1⟩
def cvRst (w : InstrWord) : Bool := xF w 32 32 = 1
def cvEe (w : InstrWord) : Bool := iOp w = 0x40 && xF w 33 33 = 1
def cvAcc (w : InstrWord) : Bool := iOp w = 0x43 && xF w 34 34 = 1

/-- Geometry with the fixed fields of R212. -/
def cvGeo (w : InstrWord) (fa fb m n k : Nat) : Geo :=
  let l0 := l0Size (iStrict w) fa fb
  ⟨m, n, k, l0, l0, 1, 1, 1024, 1, 1, min (ceilDiv k 1024) 16, 0, 0, 1, 1, iDist w⟩

/-- The implicit product of CONV and CONVG (R209, R210). -/
def cvFwd (w : InstrWord) (tds : List DescWord) : Prod :=
  let x := tds.getD 0 0
  let f := tds.getD 1 0
  let y := tds.getD 2 0
  let v := cvWin w f
  let cg := dDim f 0
  let kg := dDim f 3 / (fmC x / cg)
  let p := v.p (fmH x)
  let q := v.q (fmW x)
  let pix := fun (m : Nat) => (m / q / p, m / q % p, m % q)
  { g := cvGeo w (dFmt x) (dFmt f) (fmN x * p * q) (dDim f 3) (cg * v.fh * v.fw)
    da := x, db := f, dc := y
    dt := if cvRst w then some (tds.getD 3 0) else none
    acc := false, strict := iStrict w, edge := cvEe w
    term := fun m n k =>
      let c := k % cg
      let fs := k / cg % v.fw
      let fr := k / cg / v.fw
      let o := pix m
      (v.tap o.2.1 o.2.2 fr fs (fmH x) (fmW x)).map fun hw =>
        (fmAt x o.1 (n / kg * cg + c) hw.1 hw.2, (fs + v.fw * (fr + v.fh * n), c))
    out := fun m n => let o := pix m; fmAt y o.1 n o.2.1 o.2.2 }

/-- The implicit product of CONVBD (Table 5.5): TDA is dy, TDC is dx. -/
def cvData (w : InstrWord) (tds : List DescWord) : Prod :=
  let y := tds.getD 0 0
  let f := tds.getD 1 0
  let x := tds.getD 2 0
  let v := cvWin w f
  let kg := dDim f 0
  let cg := dDim f 3 / (fmC y / kg)
  let pix := fun (m : Nat) => (m / fmW x / fmH x, m / fmW x % fmH x, m % fmW x)
  { g := cvGeo w (dFmt y) (dFmt f) (fmN x * fmH x * fmW x) (dDim f 3) (kg * v.fh * v.fw)
    da := y, db := f, dc := x, dt := none, acc := false, strict := iStrict w, edge := false
    term := fun m n k =>
      let c := k % kg
      let fs := k / kg % v.fw
      let fr := k / kg / v.fw
      let o := pix m
      (backPos o.2.1 v.sh v.pt fr v.dh (fmH y)).bind fun p =>
        (backPos o.2.2 v.sw v.pl fs v.dw (fmW y)).map fun q =>
          (fmAt y o.1 (n / cg * kg + c) p q, (fs + v.fw * (fr + v.fh * n), c))
    out := fun m n => let o := pix m; fmAt x o.1 n o.2.1 o.2.2 }

/-- The implicit product of CONVBW (Table 5.5): TDA is x, TDB is dy, TDC is dw. -/
def cvFilt (w : InstrWord) (tds : List DescWord) : Prod :=
  let x := tds.getD 0 0
  let y := tds.getD 1 0
  let f := tds.getD 2 0
  let v := cvWin w f
  let cg := dDim f 0
  let kg := dDim f 3 / (fmC x / cg)
  { g := cvGeo w (dFmt x) (dFmt y) (dDim f 3) (cg * v.fh * v.fw) (fmN y * fmH y * fmW y)
    da := x, db := y, dc := f, dt := none, acc := cvAcc w, strict := iStrict w, edge := false
    term := fun m n k =>
      let c := n % cg
      let fs := n / cg % v.fw
      let fr := n / cg / v.fw
      let q := k % fmW y
      let p := k / fmW y % fmH y
      let im := k / fmW y / fmH y
      (v.tap p q fr fs (fmH x) (fmW x)).map fun hw =>
        (fmAt x im (m / kg * cg + c) hw.1 hw.2, fmAt y im m p q)
    out := fun m n => (n / cg % v.fw + v.fw * (n / cg / v.fw + v.fh * m), n % cg) }

def cvProd (w : InstrWord) (tds : List DescWord) : Prod :=
  if iOp w = 0x42 then cvData w tds else if iOp w = 0x43 then cvFilt w tds else cvFwd w tds

/-! ### Checks -/

/-- A map that the matrix engine takes (R214, R217): MX in NCHWc32 with GROUP 0, wide blocked or
FMC, dense only for the edge engine. -/
def mapOk (ee : Bool) (d : DescWord) : Bool :=
  if dIsMx d then dLayout d = 2 && dGroup d = 0
  else isWide (dFmt d) && (blocked d || (ee && dLayout d = 0))

/-- Step 5 of R123 on the operands of a convolution. -/
def cvPair (w : InstrWord) (tds : List DescWord) : List (Option SFault) :=
  let g := (cvProd w tds).g
  pairChecks w (tds.getD 0 0) (tds.getD 1 0) (tds.getD 2 0) (if cvAcc w then g.k + 1 else g.k)

/-- Format rules of the class in their order (step 7). -/
def cvFmt (w : InstrWord) (tds : List DescWord) : List (Option SFault) :=
  let x := tds.getD 0 0
  let y := tds.getD 1 0
  let z := tds.getD 2 0
  if iOp w = 0x43 then
    [need (mapOk false x && !dIsMx x) 0x05 1 1, need (mapOk false y && !dIsMx y) 0x05 1 2,
     need (isWide (dFmt z)) 0x05 1 3]
  else
    [need (mapOk (cvEe w) x && !(cvEe w && dIsMx x)) 0x05 1 1,
     need (!dIsMx y || dGroup y = 0) 0x05 1 2,
     need (mapOk (cvEe w) z && !(cvEe w && dIsMx z)) 0x05 1 3,
     need (!cvRst w || (dFmt (tds.getD 3 0) = 0 && !dIsFmc (tds.getD 3 0))) 0x05 1 4]

/-- The filter is dense of RANK 4, and divides the channels as the opcode asks (R207). -/
def filterOk (op : Nat) (f : DescWord) (chan other : Nat) : Bool :=
  dRank f = 4 && dLayout f = 0 && dDim f 0 ≠ 0 && chan % dDim f 0 = 0 &&
    (if op = 0x40 then chan = dDim f 0 else if op = 0x41 then dDim f 0 < chan else true) &&
    other % (chan / dDim f 0) = 0

/-- A feature map has RANK 5, or RANK 4 when dense. -/
def mapRank (d : DescWord) : Bool := if dLayout d = 0 then dRank d = 4 else dRank d = 5

/-- The forward shapes agree: input `x`, window `v`, output `y` with `k` channels (R208). -/
def fwdShape (v : Win) (x y : DescWord) (k : Nat) : Bool :=
  v.p (fmH x) ≠ 0 && v.q (fmW x) ≠ 0 && fmH y = v.p (fmH x) && fmW y = v.q (fmW x) &&
    fmN y = fmN x && fmC y = k

/-- Shape rules in their order. -/
def cvShape (w : InstrWord) (tds : List DescWord) : List (Option SFault) :=
  let x := tds.getD 0 0
  let y := tds.getD 1 0
  let z := tds.getD 2 0
  let d := tds.getD 3 0
  let op := iOp w
  let g := (cvProd w tds).g
  (if op = 0x42 then
    [need (mapRank x) 0x0D 1 1, need (filterOk op y (fmC x) (dDim y 3)) 0x0D 1 2,
     need (mapRank z && fwdShape (cvWin w y) z x (fmC x) && fmC z = dDim y 3) 0x0D 1 3]
  else if op = 0x43 then
    [need (mapRank x) 0x0D 1 1,
     need (mapRank y && fwdShape (cvWin w z) x y (dDim z 3)) 0x0D 1 2,
     need (filterOk op z (fmC x) (dDim z 3)) 0x0D 1 3]
  else
    [need (mapRank x) 0x0D 1 1, need (filterOk op y (fmC x) (dDim y 3)) 0x0D 1 2,
     need (mapRank z && fwdShape (cvWin w y) x z (dDim y 3)) 0x0D 1 3,
     need (!cvRst w || (dRank d = 1 && dDim d 0 = 2 * dDim y 3)) 0x0D 1 4,
     need (!cvEe w || ((fmC x ≤ 8 || dDim y 3 ≤ 8) && fmC x * dDim y 2 * dDim y 1 ≤ 392)) 0x0D 1 1]) ++
  [need (!iDist w || g.e ≤ 16) 0x0D 1 9]

/-- Mask of the class field: RST for CONV and CONVG, EE for CONV, ACC for CONVBW. -/
def cvMask (op : Nat) : Nat :=
  xm 31 0 ||| (if op = 0x40 then xm 33 32 else if op = 0x41 then xm 32 32 else if op = 0x43 then xm 34 34 else 0)

def cvUses (op : Nat) (w : InstrWord) : Uses :=
  { tds := if op ≤ 0x41 ∧ cvRst w = true then [0, 1, 2, 3] else [0, 1, 2], x := cvMask op }

/-- Issue of a convolution. -/
def cvOp (op : Nat) (a : StreamId) (w : InstrWord) : TOp where
  op := op
  uses := cvUses op w
  word := [need (!(cvEe w && iStrict w)) 0x02 0 10]
  unit := fun s => firstFault [meUnits w s, need (!cvEe w || s.rbit rCap2 4) 0x03 0 9]
  wr := [2]
  checks := fun s tds =>
    cvPair w tds ++ rangeChecks s a.part tds (cvUses op w).tds ++
      (cvProd w tds).g.spaceChecks s a w (tds.getD 0 0) (tds.getD 1 0) ++ cvFmt w tds ++ cvShape w tds
  plan := fun _ tds => let g := (cvProd w tds).g; ([], g.tiles * g.e)

/-- CONV (R206 to R218). -/
def doConv (a : StreamId) (w : InstrWord) (s : State) : State := issueTensor (cvOp 0x40 a w) a w s
def execConv (a : StreamId) (w : InstrWord) (s : State) : Res := .next (doConv a w s)

/-- CONVG: grouped and depth-wise. -/
def doConvg (a : StreamId) (w : InstrWord) (s : State) : State := issueTensor (cvOp 0x41 a w) a w s
def execConvg (a : StreamId) (w : InstrWord) (s : State) : Res := .next (doConvg a w s)

/-- CONVBD: data gradient (R219). -/
def doConvbd (a : StreamId) (w : InstrWord) (s : State) : State := issueTensor (cvOp 0x42 a w) a w s
def execConvbd (a : StreamId) (w : InstrWord) (s : State) : Res := .next (doConvbd a w s)

/-- CONVBW: filter gradient (R219). -/
def doConvbw (a : StreamId) (w : InstrWord) (s : State) : State := issueTensor (cvOp 0x43 a w) a w s
def execConvbw (a : StreamId) (w : InstrWord) (s : State) : Res := .next (doConvbw a w s)

/-- A tile of a convolution. -/
def tileConv (s : State) (a : StreamId) (f : InFlight) (t core : Nat) (e : StoreErr) : State :=
  (cvProd f.w f.tds).tileEnd s a f t core e

/-! ### POOL (R220 to R224) -/

def plMax (w : InstrWord) : Bool := xF w 0 0 = 0
def plBwd (w : InstrWord) : Bool := xF w 1 1 = 1
def plSave (w : InstrWord) : Bool := xF w 2 2 = 1
def plCpad (w : InstrWord) : Bool := xF w 3 3 = 1
/-- TDD is used: the indices that a max pool saves or reads. -/
def plTdd (w : InstrWord) : Bool := plMax w && (plBwd w || plSave w)

def plWin (w : InstrWord) : Win :=
  ⟨xF w 15 12 + 1, xF w 19 16 + 1, 1, 1, xF w 23 20, xF w 27 24, xF w 31 28, xF w 35 32,
   xF w 7 4 + 1, xF w 11 8 + 1⟩

/-- Valid taps of an output in window order: (fr × FW + fs, h, w). -/
def plTaps (v : Win) (p q h w : Nat) : List (Nat × Nat × Nat) :=
  (List.range (v.fh * v.fw)).filterMap fun i =>
    (v.tap p q (i / v.fw) (i % v.fw) h w).map fun hw => (i, hw.1, hw.2)

/-- The pairwise order of R226 over FP32 values. -/
def pairStep : List Val → List Val
  | x :: y :: vs => r32 (x.add y) :: pairStep vs
  | vs => vs

def pairSum : Nat → List Val → Val
  | 0, vs => vs.headD (.fin false 0 0)
  | fuel + 1, vs => if vs.length ≤ 1 then vs.headD (.fin false 0 0) else pairSum fuel (pairStep vs)

/-- S(·) of R226. -/
def sumPairs (vs : List Val) : Val := pairSum (vs.length + 1) vs

/-- Divisor of a window. -/
def plDiv (w : InstrWord) (v : Win) (taps : Nat) : Nat := if plCpad w then v.fh * v.fw else taps

/-- First tap whose value compares equal to the maximum; for a NaN result the first NaN (R222). -/
def plIndex (vs : List (Nat × Val)) (m : Val) : Nat :=
  ((vs.find? fun x => if m.isNan then x.2.isNan else x.2.eq m).map Prod.fst).getD 0

/-- Element of a pooled output: its value and operands (R222, R223). -/
def plForward (w : InstrWord) (v : Win) (vs : List (Nat × Val)) : Val × List Val :=
  let xs := vs.map Prod.snd
  if plMax w then (xs.tail.foldl Val.max (xs.headD .nan), xs)
  else
    let s := sumPairs xs
    (r32 (s.quot (.ofNat (plDiv w v xs.length))), xs)

/-- Window index saved for output element `e` (R222). -/
def plSaved (s : State) (d : DescWord) (e : Nat) : Nat :=
  readNat s (dBase d + 4 * (e / 8)) 4 / 2 ^ (4 * (e % 8)) % 16

/-- Outputs whose window covers input (h, w), ascending, with the tap: (p, q, fr × FW + fs). -/
def plCovers (v : Win) (h w pn qn : Nat) : List (Nat × Nat × Nat) :=
  (List.range pn).flatMap fun p => (List.range qn).filterMap fun q =>
    if p * v.sh ≤ h + v.pt ∧ h + v.pt - p * v.sh < v.fh ∧ q * v.sw ≤ w + v.pl ∧ w + v.pl - q * v.sw < v.fw
    then some (p, q, (h + v.pt - p * v.sh) * v.fw + (w + v.pl - q * v.sw)) else none

/-- Linear index of an element, DIM0 fastest. -/
def linOf (d : DescWord) (e : Nat × Nat) : Nat := e.1 * dDim d 0 + e.2

/-- Terms of an input element in the backward form, in ascending output linear index (R224). -/
def plTerms (s : State) (w : InstrWord) (v : Win) (dy dx ix : DescWord) (n c h x : Nat) : List Val :=
  ((plCovers v h x (fmH dy) (fmW dy)).filterMap fun o =>
    let e := fmAt dy n c o.1 o.2.1
    let y := elemVal s dy e.1 e.2
    if plMax w then if plSaved s ix (linOf dy e) = o.2.2 then some y else none
    else some (r32 (y.quot (.ofNat
      (plDiv w v (plTaps v o.1 o.2.1 (fmH dx) (fmW dx)).length)))))

/-- Format and shape rules. -/
def plFmt (w : InstrWord) (tds : List DescWord) : List (Option SFault) :=
  let ok := fun d => isWide (dFmt d) && blocked d
  [need (ok (tds.getD 0 0)) 0x05 1 1, need (ok (tds.getD 2 0)) 0x05 1 3,
   need (!plTdd w || (dFmt (tds.getD 3 0) = 0 && dLayout (tds.getD 3 0) = 0)) 0x05 1 4]

def plShape (w : InstrWord) (tds : List DescWord) : List (Option SFault) :=
  let v := plWin w
  let x := if plBwd w then tds.getD 2 0 else tds.getD 0 0
  let y := if plBwd w then tds.getD 0 0 else tds.getD 2 0
  [need (v.pt < v.fh && v.pb < v.fh && v.pl < v.fw && v.pr < v.fw) 0x0D 1 9,
   need (fwdShape v x y (fmC x)) 0x0D 1 3,
   need (!(plTdd w && !plBwd w) || v.fh * v.fw ≤ 16) 0x0D 1 9,
   need (!plTdd w || (dRank (tds.getD 3 0) = 1 && dDim (tds.getD 3 0) 0 = ceilDiv (dCount y) 8)) 0x0D 1 4]

/-- Checks and operands of POOL. DESIGN CHOICE: it needs the matrix engine, as Table 3.6 asks of every
instruction of class CONV, and the vector engine that does its work; its output is cut into element tiles of
16,384 with the flag positions of R192, since R191 speaks of a matrix product. -/
def poolOp (a : StreamId) (w : InstrWord) : TOp :=
  withRanges
    { op := 0x44
      uses := { tds := if plTdd w then [0, 2, 3] else [0, 2], x := xm 35 0 }
      word := [need (!iStrict w && !iSat w && !iSpill w) 0x02 0 10]
      unit := fun s => firstFault [unitBit 0 s, unitBit 1 s], wr := if plBwd w then [2] else [2, 3]
      checks := fun _ _ => [], plan := fun _ tds => ([], elemTiles (tds.getD 2 0)) } a.part
    (fun _ tds => plFmt w tds) (fun _ tds => plShape w tds)
/-- POOL. SAVE acts in the max forward form only and CPAD in the average forms only. -/
def doPool (a : StreamId) (w : InstrWord) (s : State) : State := issueTensor (poolOp a w) a w s
def execPool (a : StreamId) (w : InstrWord) (s : State) : Res := .next (doPool a w s)

/-- Input elements of a forward output element. -/
def plReads (v : Win) (x y : DescWord) (e : Nat × Nat) : List (Nat × Nat × Nat) :=
  let o := fmOf y e.1 e.2
  (plTaps v o.2.2.1 o.2.2.2 (fmH x) (fmW x)).map fun t => (t.1, fmAt x o.1 o.2.1 t.2.1 t.2.2)

/-- Addresses and bytes of saved indices: whole words whose elements lie in the tile. -/
def plIndexBytes (s : State) (w : InstrWord) (x y ix : DescWord) (es : ElemSet) : List (Nat × Byte) :=
  let v := plWin w
  let nib := es.map fun e =>
    let vs := (plReads v x y e).map fun t => (t.1, elemVal s x t.2.1 t.2.2)
    (linOf y e, plIndex vs (plForward w v vs).1)
  ((nib.map fun p => p.1 / 8).dedup).flatMap fun q =>
    let n := (nib.filter fun p => p.1 / 8 = q).foldl (fun n p => n + p.2 * 2 ^ (4 * (p.1 % 8))) 0
    (List.range 4).zip (leBytes 4 n) |>.map fun b => (dBase ix + 4 * q + b.1, b.2)

/-- A tile of POOL. DESIGN CHOICE: the FP32 sum of a backward element starts from +0, so a single term of −0
gives +0; R224 gives the order of the terms only. -/
def tilePool (s : State) (a : StreamId) (f : InFlight) (t core : Nat) (err : StoreErr) : State :=
  let w := f.w
  let v := plWin w
  let x := f.tds.getD 0 0
  let y := f.tds.getD 2 0
  let ix := f.tds.getD 3 0
  let es := linElems y (t * 16384) 16384
  if plBwd w then
    let cov := fun (e : Nat × Nat) =>
      let o := fmOf y e.1 e.2
      (plCovers v o.2.2.1 o.2.2.2 (fmH x) (fmW x)).map fun c => fmAt x o.1 o.2.1 c.1 c.2.1
    let rd : ElemSet := (es.flatMap cov).dedup
    let ixr : ElemSet := (rd.map fun e => (0, linOf x e / 8)).dedup
    runTile s a f t core err
      (⟨x, rd, false⟩ :: if plTdd w then [⟨ix, ixr, false⟩] else []) y (outAddrs y es) fun s =>
      outTile s y es fun r i =>
        let o := fmOf y r i
        let ts := plTerms s w v x y ix o.1 o.2.1 o.2.2.1 o.2.2.2
        elemWide (dFmt y) ts (ts.foldl (fun acc t => r32 (acc.add t)) (.fin false 0 0))
  else
    let rd : ElemSet := (es.flatMap fun e => (plReads v x y e).map fun t => t.2).dedup
    let ixAddrs := if plTdd w then
      (es.map fun e => dBase ix + 4 * (linOf y e / 8)).dedup.flatMap fun b => span b 4 else []
    runTiles s a f t core err [⟨x, rd, false⟩] [(y, outAddrs y es), (ix, ixAddrs)] fun s =>
      let o := outTile s y es fun r i =>
        let vs := (plReads v x y (r, i)).map fun t => (t.1, elemVal s x t.2.1 t.2.2)
        let r := plForward w v vs
        elemWide (dFmt y) r.2 r.1
      if plTdd w then ⟨o.ws ++ plIndexBytes s w x y ix es, o.marks⟩ else o

end Sys2Proof.Machine
end

