-- ==== Sys2Proof/Machine/Move.lean ====
section
/-! DEFINITION. The MOVE instructions (R139 to R142, R641). -/

namespace Sys2Proof.Machine

/-! ### COPY and COPYT -/

/-- The bits are copied: equal formats and equal groups; an FMC tensor in the same layout. -/
def bitCopy (x y : DescWord) : Bool :=
  dFmt x = dFmt y && dGroup x = dGroup y && (dIsFmc x || dIsFmc y) = (dIsFmc x && dIsFmc y && dLayout x = dLayout y)

/-- A pair that COPY accepts (R139). -/
def copyPair (x y : DescWord) : Bool :=
  (dFmt x = dFmt y && dGroup x = dGroup y) || (isWide (dFmt x) && isWide (dFmt y)) ||
    (dIsMx x && isWide (dFmt y))

/-- Code of an element copied with exact or site-1 conversion: from `x` at (r, i) to the format of
`y` (R139). -/
def copyElem (s : State) (x y : DescWord) (r i : Nat) : Elem :=
  let v := elemVal s x r i
  if dFmt x = dFmt y && !dIsFmc x then ⟨elemCode s x r i, causeOf [v] v⟩
  else elemWide (dFmt y) [v] v

/-- Scale code and header of the groups whose first element lies in the set, as the source has
them: headers are copied bit for bit (R186). -/
def copyScales (s : State) (x y : DescWord) (es : ElemSet) : List (Nat × Byte) :=
  (es.filter fun e => e.2 % dGs y = 0).flatMap fun e =>
    let q := scaleIdx y e.1 (e.2 / dGs y)
    let hdr := readBytes s (scaleBlock x (q / 64)) 16
    ((List.range 16).zip hdr |>.map fun p => (scaleBlock y (q / 64) + p.1, p.2)) ++
      (scaleBytes y q (readNat s (scaleAddr x q) 1)).drop 16

/-- Elements of one tile as written by COPY. -/
def copyOut (s : State) (x y : DescWord) (es : ElemSet) : TileOut :=
  if dIsFmc y && bitCopy x y then
    let rows := (es.map Prod.fst).dedup
    ⟨rows.flatMap fun r => (List.range (dRowBytes y)).map fun k =>
        (dRowAddr y r + k, readByte s (dRowAddr x r + k)),
     es.map fun e => linMark (causeOf [elemVal s x e.1 e.2] (elemVal s x e.1 e.2)) (e.1 * dDim y 0 + e.2)⟩
  else if dIsMx y then
    let o := wideOut s y es (copyElem s x y)
    ⟨o.ws ++ copyScales s x y es, o.marks⟩
  else outTile s y es (copyElem s x y)

def opCopy : TOp where
  op := 0x20
  uses := { tds := [0, 2] }
  unit := unitBit 3
  wr := [2]
  checks := fun _ _ => []
  plan := fun _ tds => ([], elemTiles (tds.getD 2 0))

/-- Checks and operands of COPY. -/
def copyOp (a : StreamId) (w : InstrWord) : TOp :=
  withRanges opCopy a.part
    (fun _ tds => [need (copyPair (tds.getD 0 0) (tds.getD 2 0)) 0x05 1 3])
    (fun _ tds => [need (sameShape (tds.getD 0 0) (tds.getD 2 0)) 0x0D 1 3])
/-- COPY (R139). -/
def doCopy (a : StreamId) (w : InstrWord) (s : State) : State := issueTensor (copyOp a w) a w s
def execCopy (a : StreamId) (w : InstrWord) (s : State) : Res := .next (doCopy a w s)

/-- A tile of COPY. -/
def tileCopy (s : State) (a : StreamId) (f : InFlight) (t core : Nat) (e : StoreErr) : State :=
  let x := f.tds.getD 0 0
  let y := f.tds.getD 2 0
  let es := linElems y (t * 16384) 16384
  runTile s a f t core e [⟨x, es, false⟩] y (outAddrs y es) fun s => copyOut s x y es

/-- Shapes of COPYT: DIM0 and DIM1 exchanged. -/
def transShape (x y : DescWord) : Bool :=
  dRank x = dRank y && dDim x 0 = dDim y 1 && dDim x 1 = dDim y 0 && dDim x 2 = dDim y 2 &&
    dDim x 3 = dDim y 3 && dDim x 4 = dDim y 4

/-- Source coordinates of element (r, i) of TDC under COPYT. -/
def transCoord (x y : DescWord) (r i : Nat) : Nat × Nat :=
  (i + dDim x 1 * (r / dDim y 1), r % dDim y 1)

/-- Checks and operands of COPYT. -/
def copytOp (a : StreamId) (w : InstrWord) : TOp :=
  withRanges { opCopy with op := 0x21 } a.part
    (fun _ tds => [need (dFmt (tds.getD 0 0) = dFmt (tds.getD 2 0) && isWide (dFmt (tds.getD 0 0))) 0x05 1 3])
    (fun _ tds => [need (transShape (tds.getD 0 0) (tds.getD 2 0)) 0x0D 1 3])
/-- COPYT (R140). -/
def doCopyt (a : StreamId) (w : InstrWord) (s : State) : State := issueTensor (copytOp a w) a w s
def execCopyt (a : StreamId) (w : InstrWord) (s : State) : Res := .next (doCopyt a w s)

/-- A tile of COPYT. -/
def tileCopyt (s : State) (a : StreamId) (f : InFlight) (t core : Nat) (e : StoreErr) : State :=
  let x := f.tds.getD 0 0
  let y := f.tds.getD 2 0
  let es := linElems y (t * 16384) 16384
  runTile s a f t core e [⟨x, es.map fun e => transCoord x y e.1 e.2, false⟩] y (outAddrs y es)
    fun s => outTile s y es fun r i => let c := transCoord x y r i; copyElem s x y c.1 c.2

/-! ### FILL -/

/-- Checks and operands of FILL. -/
def fillOp (a : StreamId) (w : InstrWord) : TOp :=
  withRanges
    { op := 0x22, uses := { tds := [2], sa := true, sb := true }, unit := unitBit 3, wr := [2]
      checks := fun _ _ => [], plan := fun _ tds => ([], elemTiles (tds.getD 2 0)) } a.part
    (fun _ _ => [])
    (fun s tds => [need ((vA s a w).toNat < 2 ^ fmtBits (dFmt (tds.getD 2 0))) 0x02 1 6,
      need ((vB s a w).toNat < 256) 0x02 1 7])
/-- FILL: sA[w−1:0] to every element, sB[7:0] to every scale code; higher bits fault with 0x02
(R140). -/
def doFill (a : StreamId) (w : InstrWord) (s : State) : State := issueTensor (fillOp a w) a w s
def execFill (a : StreamId) (w : InstrWord) (s : State) : Res := .next (doFill a w s)

/-- What FILL writes in a tile. -/
def fillOut (s : State) (y : DescWord) (es : ElemSet) (code scale : Nat) : TileOut :=
  let v := if dIsMx y then mxVal (dFmt y) code scale else decodeVal (dFmt y) code
  let o := outTile s y es fun _ _ => ⟨code, causeOf [v] v⟩
  if dIsMx y then
    ⟨o.ws ++ (es.filter fun e => e.2 % dGs y = 0).flatMap fun e =>
      scaleBytes y (scaleIdx y e.1 (e.2 / dGs y)) scale, o.marks⟩
  else o

/-- A tile of FILL. -/
def tileFill (s : State) (a : StreamId) (f : InFlight) (t core : Nat) (e : StoreErr) : State :=
  let y := f.tds.getD 2 0
  let es := linElems y (t * 16384) 16384
  runTile s a f t core e [] y (outAddrs y es) fun s => fillOut s y es f.sa.toNat f.sb.toNat

/-! ### GATHER and SCATTER (R141) -/

/-- Format and shape rules of GATHER and SCATTER in their order. -/
def rowsFmt (x y : DescWord) : List (Option SFault) :=
  [need (dFmt x = dFmt y && dGroup x = dGroup y) 0x05 1 3,
   need (!dIsMx x || dDim x 0 % dGs x = 0) 0x05 1 1]

def rowsShape (x y : DescWord) : List (Option SFault) :=
  [need (dRank x = 2) 0x0D 1 1, need (dRank y = 2 && dDim x 0 = dDim y 0) 0x0D 1 3]

/-- The index list of `n` entries at `ad` as stored. -/
def idxList (s : State) (ad n : Nat) : List Nat := (List.range n).map fun i => readNat s (ad + 4 * i) 4

/-- The index list's address: a multiple of 4, in the partition (0x0E). -/
def listOk (s : State) (p ad n : Nat) : Option SFault :=
  need (ad % 4 = 0 && rangeInPart s p ad (4 * n)) 0x0E 1 6

/-- Checks and operands of GATHER or SCATTER; `x1` is the mask of X, `mv` the moved tensor's operand. The index list
is a class value. -/
def rowsOp (op x1 mv : Nat) (a : StreamId) (w : InstrWord) : TOp where
  op := op
  uses := { tds := [0, 2], sa := true, x := x1 }
  unit := unitBit 3
  wr := [2]
  checks := fun s tds =>
    let x := tds.getD 0 0
    let y := tds.getD 2 0
    rangeChecks s a.part tds [0, 2] ++ [listOk s a.part (vA s a w).toNat (dDim (tds.getD mv 0) 1)] ++
      rowsFmt x y ++ [need (xF w 0 0 = 0 || x1 = 0 || isWide (dFmt x)) 0x05 1 3] ++ rowsShape x y
  plan := fun s tds => (idxList s (vA s a w).toNat (dDim (tds.getD mv 0) 1), elemTiles (tds.getD mv 0))

/-- Issue of GATHER or SCATTER: both read the whole list, verified, before any row; a poisoned list
stops the stream with 0x18, an index beyond the rows of operand `ix` with 0x17. Readers count once the
instruction issues (R271). -/
def issueRows (op : Nat) (x1 : Nat) (mv ix : Nat) (a : StreamId) (w : InstrWord) (s : State) : State :=
  let o := rowsOp op x1 mv a w
  let tds := o.capture s a w
  let ad := (vA s a w).toNat
  let n := dDim (tds.getD mv 0) 1
  withWordAfter s a w (tensorWait s a w tds || hazard s a [(ad, ad + 4 * n - 1)] []) o.op o.uses o.word fun s =>
      match firstFault (o.unit s :: descChecks s tds o.uses.tds o.wr ++ o.checks s tds) with
      | some f => streamFault s a f op
      | none =>
        match vread s ad (4 * n) ⟨strmTag a (strmAt s a).iseq, some a.part, 0xFFFFFFFF, 0⟩ with
        | (s1, none) => streamFault s1 a ⟨0x18, 2, 6⟩ op
        | (s1, some _) =>
          let p := o.plan s1 tds
          if p.1.all fun i => decide (i < dDim (tds.getD ix 0) 1) then
            withFence s1 a w tds op fun s => issueFlight s a w tds p.1 p.2
          else streamFault s1 a ⟨0x17, 1, 6⟩ op

/-- GATHER. -/
def doGather (a : StreamId) (w : InstrWord) (s : State) : State := issueRows 0x23 0 2 0 a w s
def execGather (a : StreamId) (w : InstrWord) (s : State) : Res := .next (doGather a w s)

/-- SCATTER. -/
def doScatter (a : StreamId) (w : InstrWord) (s : State) : State := issueRows 0x24 1 0 2 a w s
def execScatter (a : StreamId) (w : InstrWord) (s : State) : Res := .next (doScatter a w s)

/-- Rows copied by code: element (r, i) of `y` from element (src r, i) of `x`, scale codes with
it. -/
def rowsOut (s : State) (x y : DescWord) (es : ElemSet) (src : Nat → Nat) : TileOut :=
  let o := wideOut s y es fun r i =>
    let v := elemVal s x (src r) i
    ⟨elemCode s x (src r) i, causeOf [v] v⟩
  if dIsMx y then
    ⟨o.ws ++ (es.filter fun e => e.2 % dGs y = 0).flatMap fun e =>
      scaleBytes y (scaleIdx y e.1 (e.2 / dGs y)) (scaleCode s x (src e.1) (e.2 / dGs y)), o.marks⟩
  else o

/-- A tile of GATHER. -/
def tileGather (s : State) (a : StreamId) (f : InFlight) (t core : Nat) (e : StoreErr) : State :=
  let x := f.tds.getD 0 0
  let y := f.tds.getD 2 0
  let es := linElems y (t * 16384) 16384
  let src := fun r => f.aux.getD r 0
  runTile s a f t core e [⟨x, es.map fun e => (src e.1, e.2), false⟩] y (outAddrs y es)
    fun s => rowsOut s x y es src

/-- Row `i` of the list is the one kept: no later entry names the same row. -/
def lastOf (l : List Nat) (i : Nat) : Bool := !(l.drop (i + 1)).contains (l.getD i 0)

/-- List positions that name the same row as position `i`. -/
def sameRow (l : List Nat) (i : Nat) : List Nat :=
  (List.range l.length).filter fun j => l.getD j 0 = l.getD i 0

/-- Tile of element (r, k) of the moved tensor. -/
def tileOfElem (d : DescWord) (r k : Nat) : Nat := (r * dDim d 0 + k) / 16384

/-- A destination element of a scatter-add is formed once every tile that adds into it has ended,
so that the source rows enter in ascending list position; `t` is the tile that ends now. -/
def addReady (f : InFlight) (x : DescWord) (t i k : Nat) : Bool :=
  (sameRow f.aux i).all fun j =>
    let u := tileOfElem x j k
    (u = t || f.done.contains u) && !f.bad.contains u

/-- The sum of a destination element: the stored value, then each source row with one rounding. Its operands
are the stored element and every element added (R644). -/
def addElem (s : State) (x y : DescWord) (l : List Nat) (i k : Nat) : Elem :=
  let c0 := elemVal s y (l.getD i 0) k
  let vs := (sameRow l i).map fun j => elemVal s x j k
  let c := vs.foldl (fun c v => roundWide (dFmt y) ((decodeVal (dFmt y) c).add v)) (roundWide (dFmt y) c0)
  ⟨c, causeOf (c0 :: vs) (decodeVal (dFmt y) c)⟩

/-- Elements of DIM0 row `r`. -/
def rowSet (d : DescWord) (r : Nat) : ElemSet := (List.range (dDim d 0)).map fun i => (r, i)

/-- Every element of the destination rows of a tile of SCATTER: the blocks that its containment poisons (R641).
DESIGN CHOICE: they include the rows of list entries that a later entry supersedes. -/
def scatterRows (y : DescWord) (dst : Nat → Nat) (es : ElemSet) : ElemSet :=
  ((es.map fun e => dst e.1).dedup).flatMap (rowSet y)

/-- A tile of SCATTER: X[0] = 0 stores the kept rows, X[0] = 1 adds (R141, R640, R641). -/
def tileScatter (s : State) (a : StreamId) (f : InFlight) (t core : Nat) (e : StoreErr) : State :=
  let x := f.tds.getD 0 0
  let y := f.tds.getD 2 0
  let es := linElems x (t * 16384) 16384
  let dst := fun i => f.aux.getD i 0
  if xF f.w 0 0 = 0 then
    let kept := es.filter fun e => lastOf f.aux e.1
    runTile s a f t core e [⟨x, es, false⟩] y (outAddrs y (scatterRows y dst es)) fun s =>
      let o := wideOut s y (kept.map fun e => (dst e.1, e.2)) fun r k =>
        let i := ((List.range f.aux.length).filter fun j => dst j = r).getLastD 0
        let v := elemVal s x i k
        ⟨elemCode s x i k, causeOf [v] v⟩
      if dIsMx y then
        ⟨o.ws ++ (kept.filter fun e => e.2 % dGs y = 0).flatMap fun e =>
          scaleBytes y (scaleIdx y (dst e.1) (e.2 / dGs y)) (scaleCode s x e.1 (e.2 / dGs y)), o.marks⟩
      else o
  else
    let outs := (es.map fun e => (dst e.1, e.2)).dedup
    runTile s a f t core e [⟨x, es, false⟩, ⟨y, outs, true⟩] y (outAddrs y (scatterRows y dst es)) fun s =>
      let ready := es.filter fun e => addReady f x t e.1 e.2
      let firsts := ready.filter fun e => (sameRow f.aux e.1).filter (fun j =>
        tileOfElem x j e.2 = t) |>.head? |> (· = some e.1)
      wideOut s y (firsts.map fun e => (dst e.1, e.2)) fun r k =>
        let i := ((List.range f.aux.length).filter fun j => dst j = r).headD 0
        addElem s x y f.aux i k

/-! ### PREFETCH (R142) -/

/-- The partition has a cache way on some die. -/
def hasCacheWays (s : State) (p : Nat) : Bool :=
  (List.range 8).any fun d => (List.range 12).any fun w =>
    s.rbit (rSsMode d) w && s.rbit (rSsMode d) (16 + w) &&
      decide (s.fld (rSsOwner d) (4 * w + 3) (4 * w) = p)

/-- Checks and operands of PREFETCH. -/
def prefetchOp (a : StreamId) : TOp :=
  withRanges
    { op := 0x25, uses := { tds := [0] }, unit := unitBit 3, wr := []
      checks := fun _ _ => [], plan := fun _ _ => ([], 0) } a.part (fun _ _ => []) (fun _ _ => [])

/-- PREFETCH: no architectural effect; in a partition without cache ways it completes at once. -/
def doPrefetch (a : StreamId) (w : InstrWord) (s : State) : State :=
  let o := prefetchOp a
  if hasCacheWays s a.part then issueTensor o a w s
  else
    let tds := o.capture s a w
    withWordAfter s a w (hazard s a (maskRanges tds 1) []) o.op o.uses o.word fun s =>
      match firstFault (o.unit s :: descChecks s tds o.uses.tds o.wr ++ o.checks s tds) with
        | some f => streamFault s a f o.op
        | none => withFence s a w tds o.op fun s => completeNow s a w ((strmAt s a).pc + 1)
def execPrefetch (a : StreamId) (w : InstrWord) (s : State) : Res := .next (doPrefetch a w s)

end Sys2Proof.Machine
end

