-- ==== Sys2Proof/Machine/Vec.lean ====
section
/-! DEFINITION. The VEC instructions VBIN, VFMA, VUN, VCVT, NORM and MINV (R225, R228, R230, R231)
and the reductions (R226, R227). -/

namespace Sys2Proof.Machine

/-! ### Element-wise operations (R225) -/

/-- A wide or FMC operand. -/
def wideOp (d : DescWord) : Bool := isWide (dFmt d)

/-- An element-wise instruction whose operands have the shape of TDC. -/
def elemOp (op : Nat) (tds : List Nat) (x : Nat) (word : List (Option SFault)) (a : StreamId) : TOp :=
  withRanges
    { op := op, uses := { tds := tds, x := x }, word := word, unit := unitBit 1, wr := [2]
      checks := fun _ _ => [], plan := fun _ d => ([], elemTiles (d.getD 2 0)) } a.part
    (fun _ d => tds.map fun k => need (wideOp (d.getD k 0)) 0x05 1 (k + 1))
    (fun _ d => tds.map fun k => need (sameShape (d.getD k 0) (d.getD 2 0)) 0x0D 1 (k + 1))

/-- A tile of an element-wise instruction: `f r i` from the operands at the same coordinates. -/
def elemTile (s : State) (a : StreamId) (f : InFlight) (t core : Nat) (err : StoreErr) (rd : List Nat)
    (fn : State → Nat → Nat → Elem) : State :=
  let y := f.tds.getD 2 0
  let es := linElems y (t * 16384) 16384
  runTile s a f t core err (rd.map fun k => ⟨f.tds.getD k 0, es, false⟩) y (outAddrs y es)
    fun s => outTile s y es (fn s)

/-- Sign bit of the code of an element. -/
def codeSign (s : State) (d : DescWord) (r i : Nat) : Bool :=
  if dIsFmc d then (elemVal s d r i).sign
  else decide (elemCode s d r i / 2 ^ (fmtBits (dFmt d) - 1) % 2 = 1)

def Val.setSign (n : Bool) : Val → Val
  | .nan => .nan
  | .inf _ => .inf n
  | .fin _ m e => .fin n m e

def valOne : Val := .fin false 1 0
def valZero : Val := .fin false 0 0

/-- Truth as 1.0 or +0. -/
def Val.ofBool (b : Bool) : Val := if b then valOne else valZero

/-- VBIN functions 0 to 8 but divide (Table 5.7). -/
def vbinVal (n : Nat) (x y : Val) : Val :=
  if n = 0 then x.add y else if n = 1 then x.sub y else if n = 2 then x.mul y
  else if n = 4 then x.max y else if n = 5 then x.min y
  else if n = 6 then .ofBool (x.eq y) else if n = 7 then .ofBool (x.lt y)
  else .ofBool (x.lt y || x.eq y)

/-- Element of VBIN. -/
def vbinElem (s : State) (w : InstrWord) (x y z : DescWord) (r i : Nat) : Elem :=
  let va := elemVal s x r i
  let vb := elemVal s y r i
  let n := xF w 3 0
  if n = 3 then
    let c := divWide (dFmt z) va vb
    ⟨c, causeOf [va, vb] (decodeVal (dFmt z) c)⟩
  else if n = 9 then elemWide (dFmt z) [va] (va.setSign (codeSign s y r i))
  else elemWide (dFmt z) [va, vb] (vbinVal n va vb)

/-- Checks and operands of VBIN. -/
def vbinOp (a : StreamId) (w : InstrWord) : TOp :=
  elemOp 0x50 [0, 1, 2] (xm 3 0) [need (xF w 3 0 ≤ 9) 0x02 0 9] a
/-- VBIN: element-wise binary operation; a function above 9 faults with 0x02. -/
def doVbin (a : StreamId) (w : InstrWord) (s : State) : State := issueTensor (vbinOp a w) a w s
def execVbin (a : StreamId) (w : InstrWord) (s : State) : Res := .next (doVbin a w s)
def tileVbin (s : State) (a : StreamId) (f : InFlight) (t core : Nat) (e : StoreErr) : State :=
  elemTile s a f t core e [0, 1] fun s => vbinElem s f.w (f.tds.getD 0 0) (f.tds.getD 1 0) (f.tds.getD 2 0)

/-- Checks and operands of VFMA. -/
def vfmaOp (a : StreamId) (w : InstrWord) : TOp :=
  elemOp 0x51 [0, 1, 2, 3] 0 [] a
/-- VFMA: a × b + d with one rounding. -/
def doVfma (a : StreamId) (w : InstrWord) (s : State) : State := issueTensor (vfmaOp a w) a w s
def execVfma (a : StreamId) (w : InstrWord) (s : State) : Res := .next (doVfma a w s)
def tileVfma (s : State) (a : StreamId) (f : InFlight) (t core : Nat) (e : StoreErr) : State :=
  elemTile s a f t core e [0, 1, 3] fun s r i =>
    let x := elemVal s (f.tds.getD 0 0) r i
    let y := elemVal s (f.tds.getD 1 0) r i
    let d := elemVal s (f.tds.getD 3 0) r i
    elemWide (dFmt (f.tds.getD 2 0)) [x, y, d] ((x.mul y).add d)

/-- Element of VUN; `i` is the FP32 value in X[47:16] (Table 5.7). -/
def vunElem (w : InstrWord) (fmt : Nat) (x : Val) : Elem :=
  let n := xF w 3 0
  let i := decodeVal 0 (xF w 47 16)
  if n = 0 then elemWide fmt [x] x.neg
  else if n = 1 then elemWide fmt [x] x.abs
  else if n = 2 then let c := sqrtWide fmt x; ⟨c, causeOf [x] (decodeVal fmt c)⟩
  else if n = 3 then let c := divWide fmt valOne x; ⟨c, causeOf [x] (decodeVal fmt c)⟩
  else if n = 4 then elemWide fmt [x] (x.mul x)
  else if n = 5 then elemWide fmt [x, i] (x.add i)
  else if n = 6 then elemWide fmt [x, i] (x.mul i)
  else if n = 7 then elemWide fmt [x, i] (x.max i)
  else elemWide fmt [x, i] (x.min i)

/-- Checks and operands of VUN. -/
def vunOp (a : StreamId) (w : InstrWord) : TOp :=
  elemOp 0x52 [0, 2] (xm 3 0 ||| xm 47 16)
    [need (xF w 3 0 ≤ 8) 0x02 0 9, need (5 ≤ xF w 3 0 || xF w 47 16 = 0) 0x02 0 9] a
/-- VUN: element-wise unary operation; codes above 8, and an immediate where none is used, fault with
0x02. -/
def doVun (a : StreamId) (w : InstrWord) (s : State) : State := issueTensor (vunOp a w) a w s
def execVun (a : StreamId) (w : InstrWord) (s : State) : Res := .next (doVun a w s)
def tileVun (s : State) (a : StreamId) (f : InFlight) (t core : Nat) (e : StoreErr) : State :=
  elemTile s a f t core e [0] fun s r i =>
    vunElem f.w (dFmt (f.tds.getD 2 0)) (elemVal s (f.tds.getD 0 0) r i)

/-- Checks and operands of VCVT. -/
def vcvtOp (a : StreamId) (w : InstrWord) : TOp :=
  elemOp 0x53 [0, 2] 0 [] a
/-- VCVT: conversion between wide formats, with the bits of COPY. -/
def doVcvt (a : StreamId) (w : InstrWord) (s : State) : State := issueTensor (vcvtOp a w) a w s
def execVcvt (a : StreamId) (w : InstrWord) (s : State) : Res := .next (doVcvt a w s)
def tileVcvt (s : State) (a : StreamId) (f : InFlight) (t core : Nat) (e : StoreErr) : State :=
  let x := f.tds.getD 0 0
  let y := f.tds.getD 2 0
  let es := linElems y (t * 16384) 16384
  runTile s a f t core e [⟨x, es, false⟩] y (outAddrs y es) fun s => copyOut s x y es

/-! ### Rows -/

/-- Values of DIM0 row `r`. -/
def rowVals (s : State) (d : DescWord) (r : Nat) : List Val :=
  (List.range (dDim d 0)).map fun i => elemVal s d r i

/-- Element-by-element combination of lists. -/
def zipV (f : Val → Val → Val) (xs ys : List Val) : List Val := List.zipWith f xs ys

/-! ### NORM (R228) -/

def nmBwd (w : InstrWord) : Bool := xF w 0 0 = 1
def nmRms (w : InstrWord) : Bool := xF w 1 1 = 1

/-- Descriptors that NORM uses: γ with TDB not 0, β with TDD not 0, dy always in the backward form. -/
def nmUses (w : InstrWord) : Uses :=
  { tds := [0] ++ (if iTd w 1 = 0 then [] else [1]) ++ [2] ++
      (if nmBwd w || iTd w 3 ≠ 0 then [3] else [])
    x := xm 1 0 ||| xm 47 16 }

/-- Mean of a row: S(v) / n. -/
def meanOf (vs : List Val) : Val := r32 ((sumPairs vs).quot (.ofNat vs.length))

/-- d, r and x̂ of a row. -/
def nmRow (w : InstrWord) (xs : List Val) : Val × List Val :=
  let mu := meanOf xs
  let d := if nmRms w then xs else xs.map fun x => r32 (x.sub mu)
  let var := meanOf (d.map fun x => r32 (x.mul x))
  let eps := decodeVal 0 (xF w 47 16)
  let r := r32 (valOne.quot (r32 (r32 (var.add eps)).root))
  (r, d.map fun x => r32 (x.mul r))

/-- The row of exact results before the output rounding. -/
def nmOut (w : InstrWord) (xs gam bd : List Val) : List Val :=
  let rx := nmRow w xs
  if nmBwd w then
    let g := zipV (fun dy g => r32 (dy.mul g)) bd gam
    let m1 := if nmRms w then valZero else meanOf g
    let m2 := meanOf (zipV (fun g x => r32 (g.mul x)) g rx.2)
    (zipV (fun g x => r32 ((r32 (g.sub m1)).sub (x.mul m2))) g rx.2).map fun t => rx.1.mul t
  else zipV (fun gx b => gx.add b) (zipV Val.mul gam rx.2) bd

/-- Checks and operands of NORM. -/
def normOp (a : StreamId) (w : InstrWord) : TOp :=
  let u := nmUses w
  let eps := decodeVal 0 (xF w 47 16)
  withRanges
    { op := 0x54, uses := u
      word := [need (eps.isFin && (!eps.sign || eps.isZero)) 0x02 0 9]
      unit := unitBit 1, wr := [2], checks := fun _ _ => []
      plan := fun _ d => ([], dRows (d.getD 2 0)) } a.part
    (fun _ d => u.tds.map fun k => need (wideOp (d.getD k 0)) 0x05 1 (k + 1))
    (fun _ d =>
      let n := dDim (d.getD 0 0) 0
      let vec := fun (k : Nat) => dRank (d.getD k 0) = 1 && dDim (d.getD k 0) 0 = n
      [need (n ≤ 65536) 0x0D 1 1, need (!u.tds.contains 1 || vec 1) 0x0D 1 2,
       need (sameShape (d.getD 0 0) (d.getD 2 0)) 0x0D 1 3,
       need (!u.tds.contains 3 || (if nmBwd w then sameShape (d.getD 3 0) (d.getD 0 0) else vec 3))
         0x0D 1 4])
/-- NORM: normalisation of DIM0 rows, forward or backward. -/
def doNorm (a : StreamId) (w : InstrWord) (s : State) : State := issueTensor (normOp a w) a w s
def execNorm (a : StreamId) (w : InstrWord) (s : State) : Res := .next (doNorm a w s)

/-- Row `t` of NORM. -/
def tileNorm (s : State) (a : StreamId) (f : InFlight) (t core : Nat) (e : StoreErr) : State :=
  let w := f.w
  let x := f.tds.getD 0 0
  let z := f.tds.getD 2 0
  let used := (nmUses w).tds
  let dt := f.tds.getD 3 0
  let n := dDim x 0
  let vecSet : ElemSet := (List.range n).map fun i => (0, i)
  runTile s a f t core e
    ([⟨x, rowSet x t, false⟩] ++
      (if used.contains 1 then [⟨f.tds.getD 1 0, vecSet, false⟩] else []) ++
      (if used.contains 3 then [⟨dt, if nmBwd w then rowSet dt t else vecSet, false⟩] else []))
    z (outAddrs z (rowSet z t)) fun s =>
    let xs := rowVals s x t
    let gam := if used.contains 1 then rowVals s (f.tds.getD 1 0) 0 else List.replicate n valOne
    let bd := if used.contains 3 then rowVals s dt (if nmBwd w then t else 0) else List.replicate n valZero
    let ys := nmOut w xs gam bd
    outTile s z (rowSet z t) fun _ i =>
      let ops := if nmBwd w then xs ++ gam ++ bd else xs ++ [gam.getD i valOne, bd.getD i valZero]
      elemWide (dFmt z) ops (ys.getD i valZero)

/-! ### MINV (R230, R231, R242) -/

abbrev Mat := List (List Val)

def Mat.at_ (m : Mat) (i j : Nat) : Val := (m.getD i []).getD j valZero

/-- Row with the largest magnitude in column `j` from row `j` on; the lowest on ties. -/
def pivotRow (m : Mat) (n j : Nat) : Nat :=
  (List.range (n - j)).foldl (fun p k =>
    if (m.at_ p j).abs.lt (m.at_ (j + k) j).abs then j + k else p) j

def swapRows (m : Mat) (i j : Nat) : Mat :=
  (List.range m.length).map fun r => if r = i then m.getD j [] else if r = j then m.getD i [] else m.getD r []

/-- One column of the elimination; none for a singular problem. -/
def invStep (n j : Nat) (ay : Mat × Mat) : Option (Mat × Mat) :=
  let p := pivotRow ay.1 n j
  let m := swapRows ay.1 p j
  let y := swapRows ay.2 p j
  let rowmax := (List.range (n - j)).foldl (fun v k => Val.max v (m.at_ j (j + k)).abs) valZero
  let d := (m.at_ j j).abs
  if d.lt (rowmax.scale (-24)) || d.eq (rowmax.scale (-24)) then none
  else
    let dv := r32 (valOne.quot (m.at_ j j))
    let scaleRow := fun (r : List Val) => r.map fun v => r32 (v.mul dv)
    let m1 := (List.range n).map fun i => if i = j then scaleRow (m.getD i []) else m.getD i []
    let y1 := (List.range n).map fun i => if i = j then scaleRow (y.getD i []) else y.getD i []
    let elim := fun (q : Mat) (i : Nat) =>
      if i = j then q.getD i []
      else zipV (fun v u => r32 (v.sub ((Mat.at_ m1 i j).mul u))) (q.getD i []) (q.getD j [])
    some ((List.range n).map (elim m1), (List.range n).map (elim y1))

/-- Columns `j` to `n − 1`. -/
def invLoop (n : Nat) : Nat → Nat → Mat × Mat → Option Mat
  | 0, _, ay => some ay.2
  | fuel + 1, j, ay => (invStep n j ay).bind (invLoop n fuel (j + 1))

def identMat (n : Nat) : Mat :=
  (List.range n).map fun i => (List.range n).map fun j => if i = j then valOne else valZero

/-- The inverse of an n × n matrix; none when it is singular. -/
def invert (n : Nat) (m : Mat) : Option Mat := invLoop n n 0 (m, identMat n)

/-- Problems per work unit. -/
def mvUnit (n : Nat) : Nat := 16384 / (n * n)

/-- The matrix of problem `b`. -/
def mvMat (s : State) (x : DescWord) (n b : Nat) : Mat :=
  (List.range n).map fun i => (List.range n).map fun j => elemVal s x (b * n + i) j

/-- Status of a problem: 0 normal, 1 singular, 2 non-finite. -/
def mvStatus (n : Nat) (m : Mat) : Nat :=
  if m.any fun r => r.any fun v => !v.isFin then 2 else if (invert n m).isNone then 1 else 0

/-- Elements and codes of one problem's output (R231). -/
def mvElems (z : DescWord) (n b : Nat) (m : Mat) : List ((Nat × Nat) × Elem) :=
  let ops := m.flatten
  (List.range n).flatMap fun i => (List.range n).map fun j =>
    ((b * n + i, j),
      if m.any fun r => r.any fun v => !v.isFin then elemWide (dFmt z) ops .nan
      else match invert n m with
        | none => ⟨0, .none⟩
        | some y => elemWide (dFmt z) ops (y.at_ i j))

/-- The singular record of a stream in a cluster keeps the least key (ISEQ, problem) (R242). -/
def mvSingular (s : State) (a : StreamId) (cluster iseq b : Nat) : State :=
  let k := strmNo a.strm
  let old := (s.fld (rSing cluster k) 63 32, s.fld (rSingIdx cluster k) 31 0)
  if s.rbit (rSing cluster k) 0 && (old.1 < iseq || (old.1 = iseq && old.2 ≤ b)) then s
  else (s.setReg (rSing cluster k) (put 1 0 ||| put (iseq % 2 ^ 32) 32)).setReg (rSingIdx cluster k) (put b 0)

/-- Checks and operands of MINV. -/
def minvOp (a : StreamId) (w : InstrWord) : TOp :=
  let st := xF w 8 8 = 1
  withRanges
    { op := 0x56, uses := { tds := [0, 2], x := xm 8 0 }
      word := [need (st || xF w 7 0 = 0) 0x02 0 9]
      unit := unitBit 1, wr := [2], aux := if st then [xF w 7 0] else [], checks := fun _ _ => []
      plan := fun _ d => let x := d.getD 0 0; ([], ceilDiv (dDim x 2) (mvUnit (dDim x 0))) } a.part
    (fun _ d => [need (wideOp (d.getD 0 0)) 0x05 1 1, need (wideOp (d.getD 2 0)) 0x05 1 3,
      need (!st || (dFmt (d.getD 4 0) = 0 && dLayout (d.getD 4 0) = 0)) 0x05 1 9])
    (fun _ d =>
      let x := d.getD 0 0
      [need (1 ≤ dDim x 0 && dDim x 0 ≤ 16 && dDim x 1 = dDim x 0 && dDim x 3 = 1 && dDim x 4 = 1) 0x0D 1 1,
       need (sameShape x (d.getD 2 0)) 0x0D 1 3,
       need (!st || (dRank (d.getD 4 0) = 1 && dDim (d.getD 4 0) 0 = dDim x 2)) 0x0D 1 9])
/-- MINV: batched small-matrix inverse, with an optional status container td[X[7:0]]. -/
def doMinv (a : StreamId) (w : InstrWord) (s : State) : State := issueTensor (minvOp a w) a w s
def execMinv (a : StreamId) (w : InstrWord) (s : State) : Res := .next (doMinv a w s)

/-- A work unit of MINV. -/
def tileMinv (s : State) (a : StreamId) (f : InFlight) (t core : Nat) (e : StoreErr) : State :=
  let x := f.tds.getD 0 0
  let z := f.tds.getD 2 0
  let n := dDim x 0
  let st := xF f.w 8 8 = 1
  let ps := (List.range (min (mvUnit n) (dDim x 2 - t * mvUnit n))).map fun i => t * mvUnit n + i
  let es : ElemSet := ps.flatMap fun b => (List.range n).flatMap fun i => (List.range n).map fun j => (b * n + i, j)
  let stBase := dBase (f.tds.getD 4 0)
  let stAddrs := if st then ps.flatMap fun b => span (stBase + 4 * b) 4 else []
  let s1 := runTiles s a f t core e [⟨x, es, false⟩] [(z, outAddrs z es), (f.tds.getD 4 0, stAddrs)] fun s =>
    let cs := ps.flatMap fun b => mvElems z n b (mvMat s x n b)
    ⟨elemBytes s z (cs.map fun c => (c.1, c.2.code)) ++
       (if st then ps.flatMap fun b =>
         (List.range 4).zip (leBytes 4 (mvStatus n (mvMat s x n b))) |>.map fun q => (stBase + 4 * b + q.1, q.2)
        else []),
     cs.map fun c => ⟨c.2.mark, t, c.1.1 % n, c.1.2⟩⟩
  match findFlight (strmAt s1 a) f.iseq with
  | some g =>
    if g.bad.contains t then s1
    else match ps.find? fun b => mvStatus n (mvMat s x n b) = 1 with
      | some b => mvSingular s1 a (core / 32) f.iseq.toNat b
      | none => s1
  | none => s1

/-! ### Reductions (R227) -/

/-- Indices DIM0 to DIM4 of element (r, i), and back. -/
def idxOf (d : DescWord) (r i : Nat) : List Nat :=
  [i, r % dDim d 1, r / dDim d 1 % dDim d 2, r / dDim d 1 / dDim d 2 % dDim d 3,
   r / dDim d 1 / dDim d 2 / dDim d 3]

def ofIdx (d : DescWord) (ix : List Nat) : Nat × Nat :=
  (ix.getD 1 0 + dDim d 1 * (ix.getD 2 0 + dDim d 2 * (ix.getD 3 0 + dDim d 3 * ix.getD 4 0)), ix.getD 0 0)

/-- Input elements of output element (r, i), in ascending index along the reduced dimension, or in
linear order over the whole tensor. -/
def redSet (k : Nat) (x z : DescWord) (r i : Nat) : ElemSet :=
  if k = 5 then linElems x 0 (dCount x)
  else
    let ix := idxOf z r i
    (List.range (dDim x k)).map fun j => ofIdx x (ix.set k j)

/-- Value and operands of a reduction over values. -/
def redVal (op : Nat) (strict : Bool) (vs : List Val) : Val × List Val :=
  if op = 0x71 then (vs.tail.foldl Val.max (vs.headD .nan), vs)
  else if op = 0x72 then (vs.tail.foldl Val.min (vs.headD .nan), vs)
  else if strict then
    let r := vs.foldl (fun (r : Rec) v => if op = 0x73 then r.term true (v.mul v) else r.term false v) .zero
    (r.val, vs ++ r.ops)
  else if op = 0x73 then (sumPairs (vs.map fun v => r32 (v.mul v)), vs)
  else (sumPairs (vs.map r32), vs)

/-- Reduced shape: dimension k, or all, set to 1. -/
def redShape (k : Nat) (x z : DescWord) : Bool :=
  dDims z = (List.range 5).map fun j => if k = 5 || j = k then 1 else dDim x j

/-- Checks and operands of a reduction. DESIGN CHOICE: a STRICT RMAX or RMIN, whose result R227 leaves the
same, still needs HUB_CAP2.STRICT (0x03) and a tensor that is not MX (0x08), but not the length limit of
R96 (0x09), which bounds a sum. -/
def redOp (op : Nat) (a : StreamId) (w : InstrWord) : TOp :=
  let k := xF w 2 0
  let sums := op = 0x70 || op = 0x73
  withRanges
    { op := op, uses := { tds := [0, 2], x := xm 2 0 }, word := [need (k ≤ 5) 0x02 0 9]
      unit := fun s => firstFault [unitBit 1 s, need (!iStrict w || s.rbit rCap2 6) 0x03 0 10]
      wr := [2]
      checks := fun _ d =>
        let x := d.getD 0 0
        let len := if k = 5 then dCount x else dDim x k
        [need (!iStrict w || (!dIsMx x && !dIsMx (d.getD 2 0))) 0x08 1 1,
         need (!(iStrict w && sums) || len ≤ 131072) 0x09 1 1]
      plan := fun _ d => ([], elemTiles (d.getD 2 0)) } a.part
    (fun _ d =>
      [need (isWide (dFmt (d.getD 0 0)) || dIsMx (d.getD 0 0)) 0x05 1 1, need (wideOp (d.getD 2 0)) 0x05 1 3])
    (fun _ d => [need (redShape k (d.getD 0 0) (d.getD 2 0)) 0x0D 1 3])

/-- RSUM. -/
def doRsum (a : StreamId) (w : InstrWord) (s : State) : State := issueTensor (redOp 0x70 a w) a w s
def execRsum (a : StreamId) (w : InstrWord) (s : State) : Res := .next (doRsum a w s)
/-- RMAX. -/
def doRmax (a : StreamId) (w : InstrWord) (s : State) : State := issueTensor (redOp 0x71 a w) a w s
def execRmax (a : StreamId) (w : InstrWord) (s : State) : Res := .next (doRmax a w s)
/-- RMIN. -/
def doRmin (a : StreamId) (w : InstrWord) (s : State) : State := issueTensor (redOp 0x72 a w) a w s
def execRmin (a : StreamId) (w : InstrWord) (s : State) : Res := .next (doRmin a w s)
/-- RSSQ. -/
def doRssq (a : StreamId) (w : InstrWord) (s : State) : State := issueTensor (redOp 0x73 a w) a w s
def execRssq (a : StreamId) (w : InstrWord) (s : State) : Res := .next (doRssq a w s)

/-- A tile of a reduction. -/
def tileRed (s : State) (a : StreamId) (f : InFlight) (t core : Nat) (e : StoreErr) : State :=
  let x := f.tds.getD 0 0
  let z := f.tds.getD 2 0
  let k := xF f.w 2 0
  let es := linElems z (t * 16384) 16384
  runTile s a f t core e [⟨x, (es.flatMap fun e => redSet k x z e.1 e.2).dedup, false⟩] z (outAddrs z es)
    fun s => outTile s z es fun r i =>
      let v := redVal (iOp f.w) (iStrict f.w) ((redSet k x z r i).map fun e => elemVal s x e.1 e.2)
      elemWide (dFmt z) v.2 v.1

end Sys2Proof.Machine
end

