-- ==== Sys2Proof/Machine/Qnt.lean ====
section
/-! DEFINITION. QNT and DQNT (R82 to R86, R642), AMAX and FPRINT (R146, R147, R441), and the
reserved opcodes (R120). -/

namespace Sys2Proof.Machine

/-! ### MX groups of an output by tiles -/

/-- Elements of group `g` of row `r`. -/
def groupElems (d : DescWord) (r g : Nat) : ElemSet :=
  (List.range (min (dGs d) (dDim d 0 - g * dGs d))).map fun i => (r, g * dGs d + i)

/-- Groups that a set of elements touches. -/
def groupsOf (d : DescWord) (es : ElemSet) : List (Nat × Nat) := (es.map fun e => (e.1, e.2 / dGs d)).dedup

/-- Groups that element tile `t` touches and whose every element's tile has ended, none of them
contained. -/
def tileGroups (d : DescWord) (f : InFlight) (t : Nat) (es : ElemSet) : List (Nat × Nat) :=
  (groupsOf d es).filter fun q => (groupElems d q.1 q.2).all fun e =>
    let u := linOf d e / 16384
    (u = t || f.done.contains u) && !f.bad.contains u

/-- Elements of every group that a set touches. -/
def wholeGroups (d : DescWord) (es : ElemSet) : ElemSet :=
  (groupsOf d es).flatMap fun q => groupElems d q.1 q.2

/-- Bytes and flags of groups of an MX tensor, each from its values and its supplied scale. -/
def groupsOut (s : State) (d : DescWord) (sat : Bool) (given : Nat → Nat → Option Nat)
    (qs : List (Nat × Nat)) (val : Nat → Nat → Val) : TileOut :=
  let out := qs.map fun q =>
    let es := groupElems d q.1 q.2
    (q, es, quantGroup (dFmt d) (given q.1 q.2) sat (es.map fun e => val e.1 e.2))
  ⟨elemBytes s d (out.flatMap fun o => o.2.1.zip (o.2.2.2.map Elem.code)) ++
     out.flatMap (fun o => scaleBytes d (scaleIdx d o.1.1 o.1.2) o.2.2.1),
   out.flatMap fun o => (o.2.1.zip o.2.2.2).map fun p => linMark p.2.mark (linOf d p.1)⟩

/-! ### QNT -/

def qnGiven (w : InstrWord) : Bool := xF w 0 0 = 1
def qnTds (w : InstrWord) : List Nat := if qnGiven w then [0, 2, 3] else [0, 2]

/-- Checks and operands of QNT. -/
def qntOp (a : StreamId) (w : InstrWord) : TOp :=
  withRanges
    { op := 0x80, uses := { tds := qnTds w, x := 1 }
      word := [need (!qnGiven w || iTd w 3 ≠ 0) 0x02 0 4]
      unit := unitBit 1, wr := [2], checks := fun _ _ => []
      plan := fun _ d => ([], elemTiles (d.getD 2 0)) } a.part
    (fun _ d =>
      let x := d.getD 0 0
      let y := d.getD 2 0
      let z := d.getD 3 0
      [need (isWide (dFmt x) && !dIsFmc x) 0x05 1 1,
       need (dIsMx y && (dLayout y = 0 || (dLayout y = 2 && dGroup y = 0))) 0x05 1 3,
       need (!qnGiven w || (isE8m0 (dFmt z) && dLayout z = 0)) 0x05 1 4])
    (fun _ d =>
      let y := d.getD 2 0
      let z := d.getD 3 0
      [need (sameShape (d.getD 0 0) y) 0x0D 1 3,
       need (!qnGiven w || (dRank z = dRank y && dDims z = dGroups y :: (dDims y).drop 1)) 0x0D 1 4])
/-- QNT: quantises a wide tensor into an MX tensor, with derived or given scales (R642). -/
def doQnt (a : StreamId) (w : InstrWord) (s : State) : State := issueTensor (qntOp a w) a w s
def execQnt (a : StreamId) (w : InstrWord) (s : State) : Res := .next (doQnt a w s)

/-- A tile of QNT. -/
def tileQnt (s : State) (a : StreamId) (f : InFlight) (t core : Nat) (err : StoreErr) : State :=
  let x := f.tds.getD 0 0
  let y := f.tds.getD 2 0
  let z := f.tds.getD 3 0
  let es := linElems y (t * 16384) 16384
  runTile s a f t core err (⟨x, es, false⟩ :: if qnGiven f.w then [⟨z, groupsOf y es, false⟩] else []) y
    (outAddrs y (wholeGroups y es)) fun s =>
      groupsOut s y (iSat f.w) (fun r g => if qnGiven f.w then some (elemCode s z r g) else none)
        (tileGroups y f t es) fun r i => r32 (elemVal s x r i)

/-! ### DQNT -/

/-- Checks and operands of DQNT. -/
def dqntOp (a : StreamId) (w : InstrWord) : TOp :=
  withRanges
    { op := 0x81, uses := { tds := [0, 2] }, unit := unitBit 1, wr := [2], checks := fun _ _ => []
      plan := fun _ d => ([], elemTiles (d.getD 2 0)) } a.part
    (fun _ d => [need (dIsMx (d.getD 0 0)) 0x05 1 1, need (wideOp (d.getD 2 0)) 0x05 1 3])
    (fun _ d => [need (sameShape (d.getD 0 0) (d.getD 2 0)) 0x0D 1 3])
/-- DQNT: expands an MX tensor into a wide tensor. -/
def doDqnt (a : StreamId) (w : InstrWord) (s : State) : State := issueTensor (dqntOp a w) a w s
def execDqnt (a : StreamId) (w : InstrWord) (s : State) : Res := .next (doDqnt a w s)

/-- A tile of DQNT. -/
def tileDqnt (s : State) (a : StreamId) (f : InFlight) (t core : Nat) (err : StoreErr) : State :=
  elemTile s a f t core err [0] fun s r i =>
    let v := elemVal s (f.tds.getD 0 0) r i
    elemWide (dFmt (f.tds.getD 2 0)) [v] v

/-! ### AMAX (R146) -/

/-- Group size of mode 1: 32 for a wide tensor. -/
def amGs (d : DescWord) : Nat := if dIsMx d then dGs d else 32

/-- Number of results. -/
def amCount (w : InstrWord) (x : DescWord) : Nat :=
  if xF w 1 0 = 0 then 1 else if xF w 1 0 = 1 then dRows x * ceilDiv (dDim x 0) (amGs x) else dDim x 1

/-- Elements that enter result `q`. -/
def amSet (w : InstrWord) (x : DescWord) (q : Nat) : ElemSet :=
  if xF w 1 0 = 0 then linElems x 0 (dCount x)
  else if xF w 1 0 = 1 then
    let n := ceilDiv (dDim x 0) (amGs x)
    let g := q % n
    (List.range (min (amGs x) (dDim x 0 - g * amGs x))).map fun i => (q / n, g * amGs x + i)
  else ((List.range (dRows x)).filter fun r => r % dDim x 1 = q).flatMap fun r => rowSet x r

/-- Checks and operands of AMAX. -/
def amaxOp (a : StreamId) (w : InstrWord) : TOp :=
  withRanges
    { op := 0xC0, uses := { tds := [0, 2], x := xm 1 0 }, word := [need (xF w 1 0 ≤ 2) 0x02 0 9]
      unit := unitBit 1, wr := [2], checks := fun _ _ => []
      plan := fun _ d => ([], elemTiles (d.getD 2 0)) } a.part
    (fun _ d => let y := d.getD 2 0
      [need (isWide (dFmt (d.getD 0 0)) || dIsMx (d.getD 0 0)) 0x05 1 1,
       need (dFmt y = 0 && dLayout y = 0) 0x05 1 3])
    (fun _ d => [need (dCount (d.getD 2 0) = amCount w (d.getD 0 0)) 0x0D 1 3])
/-- AMAX: FP32 largest magnitudes of the tensor, of its groups or of each index of DIM1. -/
def doAmax (a : StreamId) (w : InstrWord) (s : State) : State := issueTensor (amaxOp a w) a w s
def execAmax (a : StreamId) (w : InstrWord) (s : State) : Res := .next (doAmax a w s)

/-- A tile of AMAX. -/
def tileAmax (s : State) (a : StreamId) (f : InFlight) (t core : Nat) (err : StoreErr) : State :=
  let x := f.tds.getD 0 0
  let y := f.tds.getD 2 0
  let es := linElems y (t * 16384) 16384
  runTile s a f t core err [⟨x, (es.flatMap fun e => amSet f.w x (linOf y e)).dedup, false⟩] y (outAddrs y es)
    fun s => wideOut s y es fun r i =>
      let vs := (amSet f.w x (linOf y (r, i))).map fun e => elemVal s x e.1 e.2
      elemWide 0 vs (vs.foldl (fun m v => Val.max m v.abs) valZero)

/-! ### FPRINT (R441) -/

/-- Blocks that hold a byte of the elements of a tensor, ascending. -/
def elemBlocks (d : DescWord) : List Nat :=
  sortNat ((List.range (dRows d)).flatMap fun r =>
    let lo := dRowAddr d r / 4096
    let hi := (dRowAddr d r + dRowBytes d - 1) / 4096
    (List.range (hi + 1 - lo)).map fun i => lo + i)

/-- Blocks that hold a byte of the scale region, ascending. -/
def scaleBlocks4k (d : DescWord) : List Nat :=
  if dIsMx d then
    let lo := dScaleBase d / 4096
    let hi := (dScaleBase d + dScaleBytes d - 1) / 4096
    (List.range (hi + 1 - lo)).map fun i => lo + i
  else []

/-- The fingerprint of a tensor. -/
def fingerprint (s : State) (d : DescWord) : Word :=
  crc64xz ((elemBlocks d ++ scaleBlocks4k d).flatMap fun b => leBytes 4 (smGet emptyEntry s.ent b).crc.toNat)

/-- Checks and operands of FPRINT. -/
def fprintOp (a : StreamId) : TOp :=
  withRanges { op := 0xC1, uses := { tds := [0], sd := true }, unit := unitBit 3, wr := []
               checks := fun _ _ => [], plan := fun _ _ => ([], 0) } a.part (fun _ _ => []) (fun _ _ => [])

/-- FPRINT: sD := the fingerprint of TDA (R147). It waits for earlier writers of the tensor (R115). -/
def doFprint (a : StreamId) (w : InstrWord) (s : State) : State :=
  let o := fprintOp a
  let tds := o.capture s a w
  withWordAfter s a w (tensorWait s a w tds) o.op o.uses o.word fun s =>
    match firstFault (o.unit s :: descChecks s tds o.uses.tds o.wr ++ o.checks s tds) with
    | some f => streamFault s a f o.op
    | none => withFence s a w tds o.op fun s =>
        completeNow (putD s a w (fingerprint s (tds.getD 0 0))) a w ((strmAt s a).pc + 1)
def execFprint (a : StreamId) (w : InstrWord) (s : State) : Res := .next (doFprint a w s)

/-! ### Reserved opcodes -/

/-- The opcodes of Table 3.5. -/
def opcodes : List Nat :=
  (List.range 16) ++ [0x10, 0x11, 0x12, 0x13, 0x14, 0x15, 0x16, 0x20, 0x21, 0x22, 0x23, 0x24, 0x25,
    0x30, 0x31, 0x32, 0x33, 0x40, 0x41, 0x42, 0x43, 0x44, 0x50, 0x51, 0x52, 0x53, 0x54, 0x55, 0x56,
    0x60, 0x61, 0x62, 0x70, 0x71, 0x72, 0x73, 0x80, 0x81, 0x90, 0x91, 0xA0, 0xA1, 0xA2, 0xA3, 0xA4,
    0xB0, 0xB1, 0xC0, 0xC1, 0xC2, 0xC3]

/-- An instruction whose opcode is none of Table 3.5 stops its stream with 0x01 (R120, R123). -/
def doReserved (a : StreamId) (w : InstrWord) (s : State) : State :=
  if accepts s a w && !opcodes.contains (iOp w) then
    if wenMet s a w then streamFault s a ⟨0x01, 0, 0⟩ (iOp w)
    else waitOn s a (.counter (iWbc w) ((sregOf (strmAt s a) (iWsrc w)).setWidth 32))
  else s
def execReservedOpcode (a : StreamId) (w : InstrWord) (s : State) : Res := .next (doReserved a w s)

end Sys2Proof.Machine
end

