-- ==== Sys2Proof/Machine/Tab.lean ====
section
/-! DEFINITION. The table engine: TFN, TDER, TLOAD (R232 to R241), the counter-based generator
(R268), and SMAX (R229), which reads the built-in exp table. -/

namespace Sys2Proof.Machine

/-! ### Tables (R232 to R234) -/

/-- A table: mode, PEXP, LO, W, K, tails and coefficients as FP32 codes. -/
structure Table where
  mode : Nat
  pexp : Int
  lo   : Val
  w    : Int
  k    : Val
  al   : Val
  bl   : Val
  ah   : Val
  bh   : Val
  coef : Nat → Nat → Val

/-- Segment arithmetic: poly(i, t) (R232). -/
def Table.poly (tb : Table) (i : Nat) (t : Val) : Val :=
  let h := r32 (((tb.coef i 2).mul t).add (tb.coef i 1))
  r32 ((h.mul t).add (tb.coef i 0))

/-- Floor of a finite value as an integer. -/
def Val.floor : Val → Int
  | .fin neg m e =>
    let v : Int := if neg then -(m : Int) else m
    if 0 ≤ e then v * (2 : Int) ^ e.toNat else v / (2 : Int) ^ (-e).toNat
  | _ => 0

/-- LO + i × 2^W, exactly. -/
def segStart (lo : Val) (w : Int) (i : Nat) : Val := lo.add (.fin false i w)

/-- Segment and t of argument `x`: poly at x (R232). -/
def Table.seg (tb : Table) (lo : Val) (w : Int) (x : Val) : Val :=
  let i := ((x.sub lo).scale (-w)).floor.toNat
  tb.poly i (r32 (x.sub (segStart lo w i)))

/-- A tail A + B × x; B = 0 gives A on the whole side (R233). -/
def tailVal (a b x : Val) : Val := if b.isZero then a else r32 (a.add (b.mul x))

/-- Mode 0. -/
def Table.direct (tb : Table) (x : Val) : Val :=
  let hi := segStart tb.lo tb.w 256
  if x.lt tb.lo then tailVal tb.al tb.bl x
  else if !x.lt hi then tailVal tb.ah tb.bh x
  else tb.seg tb.lo tb.w x

/-- Mode 1. -/
def Table.expo (tb : Table) (x : Val) : Val :=
  match x with
  | .inf n => if n then valZero else .inf false
  | _ =>
    let z := r32 (x.mul tb.k)
    match z with
    | .inf n => if n then valZero else .inf false
    | .nan => .nan
    | _ =>
      let n := z.floor
      if 128 ≤ n then .inf false
      else if n < -126 then valZero
      else r32 ((tb.seg valZero (-8) (z.sub (Val.ofInt n))).scale n)

/-- x = 2^e × m of a finite nonzero magnitude, m in [1, 2), or in [1, 4) with e even. -/
def splitExp (even : Bool) (x : Val) : Int × Val :=
  let l := x.abs.log2
  let e := if even && l % 2 ≠ 0 then l - 1 else l
  (e, x.abs.scale (-e))

/-- Mode 2. -/
def Table.power (tb : Table) (x : Val) : Val :=
  let odd := tb.pexp % 2 ≠ 0
  let neg := x.sign && !odd && (tb.pexp / 2) % 2 ≠ 0
  let below := x.lt valZero
  if x.isZero then if tb.pexp < 0 then .inf neg else valZero
  else if below && odd then .nan
  else match x with
    | .inf _ => if tb.pexp < 0 then .fin neg 0 0 else .inf neg
    | _ =>
      let em := splitExp odd x
      let y := tb.seg valOne (if odd then -6 else -8) em.2
      let v := r32 (y.scale (em.1 * tb.pexp / 2))
      if neg then v.neg else v

/-- Mode 3. -/
def Table.log (tb : Table) (x : Val) : Val :=
  if x.isZero then .inf true
  else if x.lt valZero then .nan
  else match x with
    | .inf _ => .inf false
    | _ =>
      let em := splitExp false x
      r32 ((tb.seg valOne (-8) em.2).add ((Val.ofInt em.1).mul tb.k))

/-- Value of a table at x, an FP32 result (R232, R233). -/
def Table.eval (tb : Table) (x : Val) : Val :=
  if x.isNan then .nan
  else if tb.mode = 0 then tb.direct x
  else if tb.mode = 1 then tb.expo x
  else if tb.mode = 2 then tb.power x
  else tb.log x

/-! ### Built-in tables (R237, Table 5.10) -/

def intVal (i : Int) : Val := Val.ofInt i

/-- A built-in table of mode 0 on [−r, r), r = 2^k, with its tails. -/
def direct0 (fn : Nat) (der : Bool) (k : Int) (al bl ah bh : Int) : Table :=
  ⟨0, 0, (intVal (-1)).scale k, k - 7, valZero, intVal al, intVal bl, intVal ah, intVal bh,
   fun i c => decodeVal 0 (Config.tableCoef fn der i c).toNat⟩

def modeTable (fn : Nat) (der : Bool) (mode : Nat) (pexp : Int) (k : Nat) : Table :=
  ⟨mode, pexp, valZero, 0, decodeVal 0 k, valZero, valZero, valZero, valZero,
   fun i c => decodeVal 0 (Config.tableCoef fn der i c).toNat⟩

/-- Value (`der` false) or derivative table of built-in function `fn`. -/
def builtin (fn : Nat) (der : Bool) : Table :=
  if fn = 0x00 then direct0 0 der 3 0 0 (if der then 1 else 0) (if der then 0 else 1)
  else if fn = 0x01 then direct0 1 der 4 0 0 (if der then 1 else 0) (if der then 0 else 1)
  else if fn = 0x02 then direct0 2 der 3 (if der then 0 else -1) 0 (if der then 0 else 1) 0
  else if fn = 0x03 then direct0 3 der 4 0 0 (if der then 0 else 1) 0
  else if fn = 0x04 then modeTable 4 false 1 0 0x3FB8AA3B
  else if fn = 0x05 then if der then modeTable 5 true 2 (-2) 0 else modeTable 5 false 3 0 0x3F317218
  else if fn = 0x06 then modeTable 6 der 2 (if der then -3 else -1) 0
  else if fn = 0x07 then if der then direct0 3 false 4 0 0 1 0 else direct0 7 false 4 0 0 0 1
  else direct0 8 der 2 (if der then 0 else -1) 0 (if der then 0 else 1) 0

/-! ### Table images (R234, R235) -/

def imgByte (b : List Byte) (o : Nat) : Nat := (b.getD o 0).toNat
def imgWord (b : List Byte) (o : Nat) : Nat := leNat ((b.drop o).take 4)
def imgF (b : List Byte) (o : Nat) : Val := decodeVal 0 (imgWord b o)

/-- The table at offset `o` of a pair image. -/
def imgTable (img : List Byte) (o : Nat) : Table :=
  let b := (img.drop o).take 3136
  ⟨imgByte b 2, sext 8 (imgByte b 3), imgF b 4, sext 8 (imgByte b 8), imgF b 12, imgF b 16, imgF b 20,
   imgF b 24, imgF b 28, fun i c => imgF b (64 + 12 * i + 4 * c)⟩

def finW (b : List Byte) (o : Nat) : Bool := (imgF b o).isFin

/-- The checks of R235 on one table of 3,136 bytes. -/
def imgOk (b : List Byte) : Bool :=
  let mode := imgByte b 2
  let pexp := imgByte b 3
  let lo := imgF b 4
  let w := sext 8 (imgByte b 8)
  let hi := segStart lo w 256
  let zero := fun (os : List Nat) => os.all fun o => imgByte b o = 0
  imgByte b 0 = 1 && imgByte b 1 = 0 && mode ≤ 3 && zero [9, 10, 11] &&
    zero ((List.range 32).map fun i => 32 + i) &&
    (if mode = 2 then pexp ≠ 0 else pexp = 0) &&
    (if mode = 1 ∨ mode = 3 then finW b 12 else imgWord b 12 = 0) &&
    (if mode = 0 then finW b 16 && finW b 20 && finW b 24 && finW b 28
     else zero ((List.range 16).map fun i => 16 + i)) &&
    decide (-24 ≤ w) && decide (w ≤ 24) && lo.isFin &&
    (if mode = 0 then
      ((segStart valZero w 1).isFin && (lo.scale (-w)).eq (Val.ofInt (lo.scale (-w)).floor)) &&
        (r32 hi).isFin
     else if mode = 1 then lo.isZero && w = -8
     else if mode = 2 then lo.eq valOne && w = (if pexp % 2 = 0 then -8 else -6)
     else lo.eq valOne && w = -8) &&
    (List.range 768).all fun i => finW b (64 + 4 * i)

/-- A pair image passes its checks. -/
def imgPairOk (img : List Byte) : Bool := imgOk (img.take 3136) && imgOk ((img.drop 3136).take 3136)

/-! ### The generator (R268) -/

def genMix (z : Word) : Word :=
  let z := z + 0x9E3779B97F4A7C15
  let z := (z ^^^ (z >>> 30)) * 0xBF58476D1CE4E5B9
  let z := (z ^^^ (z >>> 27)) * 0x94D049BB133111EB
  z ^^^ (z >>> 31)

def gen (seed : Word) (tid e : Nat) (step : Word) : Nat :=
  let z := genMix (seed ^^^ put tid 0)
  let z := genMix (z + step)
  bits (genMix (z + put e 0)) 63 48

/-! ### TFN and TDER -/

def tfFn (w : InstrWord) : Nat := xF w 7 0
def tfKeep (w : InstrWord) : Nat := xF w 31 16
def tfMasked (w : InstrWord) : Bool := tfFn w = 0x20 || tfFn w = 0x21
def tfUser (w : InstrWord) : Bool := 0x10 ≤ tfFn w && tfFn w ≤ 0x13

/-- Checks of the word: the function code, and KEEP (R238, R239). -/
def tfWord (w : InstrWord) : List (Option SFault) :=
  [need (tfFn w ≤ 8 || tfUser w || tfMasked w) 0x02 0 9,
   need (if tfFn w = 0x21 then tfKeep w ≠ 0 else tfKeep w = 0) 0x02 0 9]

/-- Image of user slot `k` of the context; none while it is not loaded. -/
def slotOf (c : Ctx) (k : Nat) : Option (List Byte) := (c.tslot.find? fun q => q.1 = k).map Prod.snd

/-- The user slot that the function names is loaded (R238). -/
def slotCheck (s : State) (a : StreamId) (w : InstrWord) : Option SFault :=
  need (!tfUser w || (slotOf (ctxAt s a) (tfFn w - 0x10)).isSome) 0x1B 1 9

/-- The table that the function evaluates. -/
def tfTable (s : State) (a : StreamId) (w : InstrWord) (der : Bool) : Table :=
  if tfUser w then
    imgTable ((slotOf (ctxAt s a) (tfFn w - 0x10)).getD []) (if der then 3136 else 0)
  else builtin (tfFn w) der

/-- A mask container of `n` elements (R240). -/
def maskOk (d : DescWord) (n : Nat) : Bool := dRank d = 1 && dDim d 0 = ceilDiv n 32
def containerFmt (d : DescWord) : Bool := dFmt d = 0 && dLayout d = 0

/-- sc of dropout: round(65,536 / KEEP). -/
def dropScale (keep : Nat) : Val := r32 ((Val.ofNat 65536).quot (.ofNat keep))

/-- Checks and operands of TFN. -/
def tfnOp (a : StreamId) (w : InstrWord) : TOp :=
  withRanges
    { op := 0x60, uses := { tds := [0, 2], x := xm 31 0 }
      word := tfWord w ++ [need (tfMasked w || xF w 15 8 = 0) 0x02 0 9]
      unit := unitBit 2, wr := [2], aux := if tfMasked w then [xF w 15 8] else [], checks := fun _ _ => []
      plan := fun s d => ([(s.reg (rSeed (leadCluster s a.part))).toNat, (s.reg (rStep (leadCluster s a.part))).toNat],
        elemTiles (d.getD 2 0)) } a.part
    (fun _ d => [need (wideOp (d.getD 0 0)) 0x05 1 1, need (wideOp (d.getD 2 0)) 0x05 1 3,
      need (!tfMasked w || containerFmt (d.getD 4 0)) 0x05 1 9])
    (fun s d => [need (sameShape (d.getD 0 0) (d.getD 2 0)) 0x0D 1 3,
      need (!tfMasked w || maskOk (d.getD 4 0) (dCount (d.getD 2 0))) 0x0D 1 9, slotCheck s a w])
/-- TFN: f(x) for each element, with the mask of ReLU and dropout saved to td[X[15:8]]. The seed and
the step of dropout are those at issue. -/
def doTfn (a : StreamId) (w : InstrWord) (s : State) : State := issueTensor (tfnOp a w) a w s
def execTfn (a : StreamId) (w : InstrWord) (s : State) : Res := .next (doTfn a w s)

/-- The mask bit of element `e` with value `x`. -/
def tfBit (f : InFlight) (x : Val) (e : Nat) : Bool :=
  if tfFn f.w = 0x20 then valZero.lt x
  else decide (gen (put (f.aux.getD 0 0) 0) (dTid (f.tds.getD 2 0)) e (put (f.aux.getD 1 0) 0) < tfKeep f.w)

/-- Element of TFN. -/
def tfElem (tb : Table) (f : InFlight) (x : Val) (e : Nat) : Elem :=
  let fmt := dFmt (f.tds.getD 2 0)
  if tfFn f.w = 0x20 then elemWide fmt [x] (x.max valZero)
  else if tfFn f.w = 0x21 then
    if tfBit f x e then elemWide fmt [x] (x.mul (dropScale (tfKeep f.w))) else ⟨0, .none⟩
  else elemWide fmt [x] (tb.eval x)

/-- Words of the mask container that elements `lo` to `lo + n − 1` fill. -/
def tfMask (s : State) (f : InFlight) (lo n : Nat) : List (Nat × Byte) :=
  let m := f.tds.getD 4 0
  (List.range (ceilDiv n 32)).flatMap fun q =>
    let v := (List.range (min 32 (n - 32 * q))).foldl (fun v i =>
      let e := lo + 32 * q + i
      if tfBit f (elemLin s (f.tds.getD 0 0) e) e then v + 2 ^ i else v) 0
    (List.range 4).zip (leBytes 4 v) |>.map fun b => (dBase m + 4 * (lo / 32 + q) + b.1, b.2)

/-- A tile of TFN. -/
def tileTfn (s : State) (a : StreamId) (f : InFlight) (t core : Nat) (err : StoreErr) : State :=
  let x := f.tds.getD 0 0
  let z := f.tds.getD 2 0
  let es := linElems z (t * 16384) 16384
  let maskAddrs := if tfMasked f.w then
    span (dBase (f.tds.getD 4 0) + 4 * (t * 512)) (4 * ceilDiv es.length 32) else []
  runTiles s a f t core err [⟨x, es, false⟩] [(z, outAddrs z es), (f.tds.getD 4 0, maskAddrs)] fun s =>
    let tb := tfTable s a f.w false
    let o := outTile s z es fun r i => tfElem tb f (elemVal s x r i) (linOf z (r, i))
    if tfMasked f.w then ⟨o.ws ++ tfMask s f (t * 16384) es.length, o.marks⟩ else o

/-- Checks and operands of TDER. -/
def tderOp (a : StreamId) (w : InstrWord) : TOp :=
  withRanges
    { op := 0x61, uses := { tds := [0, 1, 2], x := xm 7 0 ||| xm 31 16 }
      word := tfWord w, unit := unitBit 2, wr := [2], checks := fun _ _ => []
      plan := fun _ d => ([], elemTiles (d.getD 2 0)) } a.part
    (fun _ d => [need (if tfMasked w then containerFmt (d.getD 0 0) else wideOp (d.getD 0 0)) 0x05 1 1,
      need (wideOp (d.getD 1 0)) 0x05 1 2, need (wideOp (d.getD 2 0)) 0x05 1 3])
    (fun s d => [need (if tfMasked w then maskOk (d.getD 0 0) (dCount (d.getD 2 0))
        else sameShape (d.getD 0 0) (d.getD 2 0)) 0x0D 1 1,
      need (sameShape (d.getD 1 0) (d.getD 2 0)) 0x0D 1 2, slotCheck s a w])
/-- TDER: dy × d(x), from the saved input or the saved mask (R241). -/
def doTder (a : StreamId) (w : InstrWord) (s : State) : State := issueTensor (tderOp a w) a w s
def execTder (a : StreamId) (w : InstrWord) (s : State) : Res := .next (doTder a w s)

/-- A tile of TDER. -/
def tileTder (s : State) (a : StreamId) (f : InFlight) (t core : Nat) (err : StoreErr) : State :=
  let x := f.tds.getD 0 0
  let y := f.tds.getD 1 0
  let z := f.tds.getD 2 0
  let es := linElems z (t * 16384) 16384
  let xs : ElemSet := if tfMasked f.w then (es.map fun e => (0, linOf z e / 32)).dedup else es
  runTile s a f t core err [⟨x, xs, false⟩, ⟨y, es, false⟩] z (outAddrs z es) fun s =>
    let tb := tfTable s a f.w true
    outTile s z es fun r i =>
      let dy := elemVal s y r i
      if tfMasked f.w then
        let e := linOf z (r, i)
        let set := elemCode s x 0 (e / 32) / 2 ^ (e % 32) % 2 = 1
        let d := if set then (if tfFn f.w = 0x20 then valOne else dropScale (tfKeep f.w)) else valZero
        elemWide (dFmt z) [dy] (dy.mul d)
      else
        let v := elemVal s x r i
        elemWide (dFmt z) [v, dy] (dy.mul (tb.eval v))

/-- Checks and operands of TLOAD. -/
def tloadOp (a : StreamId) (w : InstrWord) : TOp :=
  withRanges
    { op := 0x62, uses := { tds := [0], x := xm 1 0 }, unit := unitBit 2, wr := [], checks := fun _ _ => []
      plan := fun _ _ => ([], 1) } a.part (fun _ _ => [])
    (fun _ d => let x := d.getD 0 0
      [need (dFmt x = 0 && dRank x = 1 && dDim x 0 = 1568) 0x0D 1 1])
/-- TLOAD: loads a user table pair; it runs as one tile that reads the image. -/
def doTload (a : StreamId) (w : InstrWord) (s : State) : State := issueTensor (tloadOp a w) a w s
def execTload (a : StreamId) (w : InstrWord) (s : State) : Res := .next (doTload a w s)

/-- Slot `k` of the context holds `img`, or nothing. -/
def putSlot (s : State) (a : StreamId) (k : Nat) (img : Option (List Byte)) : State :=
  modCtx s a.part a.ctx fun c => { c with tslot := (c.tslot.filter fun q => q.1 ≠ k) ++
    (match img with
     | some b => [(k, b)]
     | none => []) }

/-- The tile of TLOAD: a poisoned image leaves the slot unloaded; an image that fails its checks
stops the stream with 0x1B and leaves the slot unloaded (R235). -/
def tileTload (s : State) (a : StreamId) (f : InFlight) (t core : Nat) (err : StoreErr) : State :=
  let x := f.tds.getD 0 0
  let k := xF f.w 1 0
  let es : ElemSet := (List.range 1568).map fun i => (0, i)
  let c := checkReads s a f (core / 32) [⟨x, es, false⟩]
  let s1 := storeErrRecord c.s a f core err
  if c.pois || storeLost err then
    setFlight (putSlot (if c.pois then cntInc s1 0x0001 a.part 1 else s1) a k none) a
      (markDone f t true c.seen [])
  else
    let img := readBytes s1 (dBase x) 6272
    if imgPairOk img then setFlight (putSlot s1 a k (some img)) a (markDone f t false c.seen [])
    else streamFaultAt (dropFlight (putSlot s1 a k none) a f.iseq) a ⟨0x1B, 2, 1⟩ 0x62 f.pc

/-! ### SMAX (R229) -/

def smBwd (w : InstrWord) : Bool := xF w 0 0 = 1

/-- Element (row r, column j) is masked. -/
def smMasked (w : InstrWord) (d : DescWord) (r j : Nat) : Bool :=
  xF w 1 1 = 1 && decide (((r % dDim d 1 : Nat) : Int) + sext 16 (xF w 31 16) < j)

/-- A softmax row: for each column its exact result and operands; masked columns are +0. -/
def smFwdRow (tb : Table) (fmt : Nat) (xs : List (Val × Bool)) : List Elem :=
  let un := (xs.filter fun x => !x.2).map Prod.fst
  let mx := un.tail.foldl Val.max (un.headD (.inf true))
  if un.isEmpty || mx = .inf true then xs.map fun _ => ⟨0, .none⟩
  else if mx.isNan || mx = .inf false then
    xs.map fun x => if x.2 then ⟨0, .none⟩ else elemWide fmt un .nan
  else
    let e := xs.map fun x => if x.2 then valZero else tb.eval (r32 (x.1.sub mx))
    let sum := sumPairs e
    (xs.zip e).map fun p =>
      if p.1.2 then ⟨0, .none⟩
      else
        let c := divWide fmt p.2 sum
        ⟨c, causeOf un (decodeVal fmt c)⟩

/-- The backward row. DESIGN CHOICE: a masked element enters the pairwise sum of R229 as +0, so that the pairing
is that of the whole row. -/
def smBwdRow (fmt : Nat) (ys : List (Val × Val × Bool)) : List Elem :=
  let sum := sumPairs (ys.map fun y => if y.2.2 then valZero else r32 (y.1.mul y.2.1))
  let ops := (ys.filter fun y => !y.2.2).flatMap fun y => [y.1, y.2.1]
  ys.map fun y => if y.2.2 then ⟨0, .none⟩
    else elemWide fmt ops (y.1.mul (r32 (y.2.1.sub sum)))

/-- Checks and operands of SMAX. -/
def smaxOp (a : StreamId) (w : InstrWord) : TOp :=
  let tds := if smBwd w then [0, 2, 3] else [0, 2]
  withRanges
    { op := 0x55, uses := { tds := tds, x := xm 1 0 ||| xm 31 16 }, unit := unitBit 1, wr := [2]
      checks := fun _ _ => [], plan := fun _ d => ([], elemTiles (d.getD 2 0)) } a.part
    (fun _ d => tds.map fun k => need (wideOp (d.getD k 0)) 0x05 1 (k + 1))
    (fun _ d => need (dDim (d.getD 0 0) 0 ≤ 65536) 0x0D 1 1 ::
      tds.map fun k => need (sameShape (d.getD k 0) (d.getD 2 0)) 0x0D 1 (k + 1))
/-- SMAX: softmax of DIM0 rows, forward or backward. -/
def doSmax (a : StreamId) (w : InstrWord) (s : State) : State := issueTensor (smaxOp a w) a w s
def execSmax (a : StreamId) (w : InstrWord) (s : State) : Res := .next (doSmax a w s)

/-- A tile of SMAX: it reads every row that it writes a part of. -/
def tileSmax (s : State) (a : StreamId) (f : InFlight) (t core : Nat) (err : StoreErr) : State :=
  let x := f.tds.getD 0 0
  let z := f.tds.getD 2 0
  let dy := f.tds.getD 3 0
  let es := linElems z (t * 16384) 16384
  let rows := (es.map Prod.fst).dedup
  let rd : ElemSet := rows.flatMap fun r =>
    (rowSet x r).filter fun e => !smMasked f.w z e.1 e.2
  runTile s a f t core err (⟨x, rd, false⟩ :: if smBwd f.w then [⟨dy, rd, false⟩] else []) z (outAddrs z es)
    fun s =>
    let tb := builtin 4 false
    let out := rows.map fun r =>
      (r, if smBwd f.w then
          smBwdRow (dFmt z) ((List.range (dDim z 0)).map fun j =>
            (elemVal s x r j, elemVal s dy r j, smMasked f.w z r j))
        else smFwdRow tb (dFmt z) ((List.range (dDim z 0)).map fun j =>
          (elemVal s x r j, smMasked f.w z r j)))
    outTile s z es fun r i =>
      match out.find? fun q => q.1 = r with
      | some q => q.2.getD i ⟨0, .none⟩
      | none => ⟨0, .none⟩

end Sys2Proof.Machine
end

