-- ==== Sys2Proof/Machine/Upd.lean ====
section
/-! DEFINITION. UPD and REQNT (R246 to R269): checks and issue, and the execution that
UPD_FENCE_PASS starts. -/

namespace Sys2Proof.Machine

/-! ### Group record and checks (R251 to R256) -/

/-- Function of UPD (Table 6.3): 0 APPLY, 1 NORM, 2 PACK. -/
def upFn (w : InstrWord) : Nat := xF w 1 0

/-- Descriptors that the function names; V is named by a nonzero TDD. -/
def upTds (w : InstrWord) : List Nat :=
  if upFn w = 0 then if iTd w 3 = 0 then [0, 1, 2] else [0, 1, 2, 3]
  else if upFn w = 1 then [0] else [0, 1, 2]

/-- Descriptors written. -/
def upWr (w : InstrWord) : List Nat := if upFn w = 0 then [1, 2, 3] else if upFn w = 1 then [] else [1, 2]

def pgRule (r : BitVec 512) : Nat := pgF r 0 3 0
def pgFrozen (r : BitVec 512) : Bool := pgF r 0 4 4 = 1
def pgClipX (r : BitVec 512) : Bool := pgF r 0 5 5 = 1
def pgFzFault (r : BitVec 512) : Bool := pgF r 0 6 6 = 1
def pgGstep (r : BitVec 512) : Nat := pgF r 1 63 0

/-- AdamW and LAMB keep a second moment. -/
def pgAdam (r : BitVec 512) : Bool := pgRule r = 1 || pgRule r = 3

/-- Reserved fields of Table 6.2 are 0, and LR, WD, BETA1, BETA2, EPS, BC1, BC2 are finite. -/
def pgClean (r : BitVec 512) : Bool :=
  pgF r 0 15 11 = 0 && pgF r 0 63 32 = 0 && pgF r 5 63 32 = 0 && pgF r 7 63 32 = 0 &&
    ([pgF r 2 31 0, pgF r 2 63 32, pgF r 3 31 0, pgF r 3 63 32, pgF r 4 31 0, pgF r 4 63 32, pgF r 5 31 0].all
      fun c => decide (c / 2 ^ 23 % 256 ≠ 255))

/-- Address of the norm record (R281). -/
def normAddr (s : State) (p : Nat) : Nat := s.fld (rUpdNorm (leadCluster s p)) 47 6 * 64

/-- APPLY and NORM of a group that is not clip-exempt use the norm record. -/
def usesNorm (w : InstrWord) (r : BitVec 512) : Bool := upFn w ≤ 1 && !pgClipX r

/-- The record of the group that TDA names, 0 where it cannot be read. -/
def upRecord (s : State) (p : Nat) (tds : List DescWord) : BitVec 512 :=
  (pgRecord s p (dPgroup (tds.getD 0 0))).getD 0

/-- R255 between steps 4 and 5, with the poisoned record of R252. -/
def upRecChecks (s : State) (p : Nat) (tds : List DescWord) : List (Option SFault) :=
  let g := dPgroup (tds.getD 0 0)
  let r := upRecord s p tds
  [need (rangeInPart s p (pgAddr s p g) 64) 0x0C 1 0, need (pgRecord s p g).isSome 0x18 2 0,
   need (pgRule r ≤ 3) 0x02 1 0, need (s.rbit rCap2 (22 + pgRule r)) 0x03 1 0]

/-- Formats of Table 6.1. -/
def isGp (d : DescWord) : Bool := dFmt d = 4 && dGroup d = 0
def isE4m3 (d : DescWord) : Bool := dFmt d = 3 && dGroup d = 0
def isGl (d : DescWord) : Bool := dFmt d = 0 || dFmt d = 1

/-- Formats of Table 6.1 and the TDD that the rule asks for (R246, R254), at step 7. -/
def upFmt (w : InstrWord) (r : BitVec 512) (tds : List DescWord) : List (Option SFault) :=
  if upFn w = 0 then
    [need (pgAdam r || iTd w 3 = 0) 0x02 1 4, need (!pgAdam r || iTd w 3 ≠ 0) 0x05 1 4, need (isGp (tds.getD 0 0) || isGl (tds.getD 0 0)) 0x05 1 1,
     need (isE4m3 (tds.getD 1 0)) 0x05 1 2, need (dFmt (tds.getD 2 0) = 1) 0x05 1 3,
     need (!pgAdam r || isE4m3 (tds.getD 3 0)) 0x05 1 4]
  else if upFn w = 1 then [need (isGp (tds.getD 0 0) || isGl (tds.getD 0 0)) 0x05 1 1]
  else
    [need (isGl (tds.getD 0 0)) 0x05 1 1, need (isE4m3 (tds.getD 1 0)) 0x05 1 2, need (isGp (tds.getD 2 0)) 0x05 1 3]

/-- Step 7: the norm record's address, shapes and groups, then R255's three checks. -/
def upClass (s : State) (p : Nat) (w : InstrWord) (r : BitVec 512) (tds : List DescWord) : List (Option SFault) :=
  let x := tds.getD 0 0
  [need (!usesNorm w r || rangeInPart s p (normAddr s p) 48) 0x0C 1 0] ++
    ((upTds w).map fun k =>
      let d := tds.getD k 0
      need (sameShape d x && dLayout d = 0 && dPgroup d = dPgroup x) 0x0D 1 (k + 1)) ++
    [need (pgClean r) 0x02 1 0, need (!(pgFrozen r && pgFzFault r)) 0x14 1 0,
     need (upFn w ≠ 0 || pgFrozen r || pgGstep r = (s.reg (rStep (leadCluster s p))).toNat) 0x13 1 0]

/-- A UPD of the stream waits for one in flight that writes the norm record that it uses, and the
reverse (R115). -/
def normWait (s : State) (a : StreamId) (w : InstrWord) (r : BitVec 512) : Bool :=
  let n := if usesNorm w r then some (normAddr s a.part) else none
  hazard s a (normRange w n true) (normRange w n false)

/-- Checks and operands of a UPD. `aux` holds the record as read and the address of the norm record. -/
def updOp (a : StreamId) (w : InstrWord) : TOp :=
  { op := 0x90, uses := { tds := upTds w, x := xm 1 0 }, unit := unitBit 1, wr := upWr w
    checks := fun s tds =>
      let r := upRecord s a.part tds
      upRecChecks s a.part tds ++ rangeChecks s a.part tds (upTds w) ++ upFmt w r tds ++
        upClass s a.part w r tds
    plan := fun s tds =>
      let r := upRecord s a.part tds
      ([r.toNat, if usesNorm w r then normAddr s a.part + 1 else 0], 0) }

/-- Issue of a UPD: it stays in flight until it passes the fence. -/
def issueUpd (fn : Nat) (a : StreamId) (w : InstrWord) (s : State) : State :=
  let o := updOp a w
  let blocked := accepts s a w && wenMet s a w && normWait s a w (upRecord s a.part (o.capture s a w))
  if upFn w = fn && !blocked then issueTensor o a w s else s

/-- UPD APPLY; X[1:0] = 3 names no function and faults here. -/
def doUpdApply (a : StreamId) (w : InstrWord) (s : State) : State :=
  if upFn w = 3 then withWord s a w 0x90 { tds := [0, 1, 2, 3], x := xm 1 0 } [some ⟨0x02, 0, 9⟩] id
  else issueUpd 0 a w s
def execUpdApply (a : StreamId) (w : InstrWord) (s : State) : Res := .next (doUpdApply a w s)

/-- UPD NORM. -/
def doUpdNorm (a : StreamId) (w : InstrWord) (s : State) : State := issueUpd 1 a w s
def execUpdNorm (a : StreamId) (w : InstrWord) (s : State) : Res := .next (doUpdNorm a w s)

/-- UPD PACK. -/
def doUpdPack (a : StreamId) (w : InstrWord) (s : State) : State := issueUpd 2 a w s
def execUpdPack (a : StreamId) (w : InstrWord) (s : State) : Res := .next (doUpdPack a w s)

/-! ### REQNT (R248) -/

def rqTr (w : InstrWord) : Bool := xF w 0 0 = 1
def rqFence (w : InstrWord) : Bool := xF w 1 1 = 1

/-- Checks and operands of REQNT. -/
def reqntOp (a : StreamId) (w : InstrWord) : TOp :=
  withRanges
    { op := 0x91, uses := { tds := [0, 2], x := xm 1 0 }, unit := unitBit 1, wr := [2]
      checks := fun _ _ => [], plan := fun _ _ => ([], 0) } a.part
    (fun _ d => [need (dFmt (d.getD 0 0) = 1) 0x05 1 1, need (dIsMx (d.getD 2 0)) 0x05 1 3])
    (fun _ d =>
      let x := d.getD 0 0
      let y := d.getD 2 0
      [need (dLayout x = 0) 0x0D 1 1,
       need (dLayout y = 0 && if rqTr w then dRank x = 2 && transShape x y else sameShape x y) 0x0D 1 3])
/-- REQNT: the working copy from the master, transposed with TR. -/
def doReqnt (a : StreamId) (w : InstrWord) (s : State) : State := issueTensor (reqntOp a w) a w s
def execReqnt (a : StreamId) (w : InstrWord) (s : State) : Res := .next (doReqnt a w s)

/-! ### Clip factor and hyperparameters (R258, R259, R261) -/

/-- A square as a term of a norm record: 2^96 or above is infinite. -/
def normTerm (r : Rec) (v : Val) : Rec :=
  let q := v.mul v
  match q with
  | .fin _ m e => if magGe m e 96 then r.term true (.inf false) else r.term true q
  | _ => r.term true q

/-- The record at the norm address; a POISONED line counts as state bit 2. -/
def readNorm (s : State) (n : Nat) : Rec :=
  let r := Rec.ofNat48 (readNat s n 48)
  if (nread s n 48).isSome then r else { r with bad := true }

/-- Adds to the norm record. -/
def addNorm (s : State) (n : Nat) (r : Rec) (t : Tag) : State :=
  writeBytes s n (leBytes 48 ((readNorm s n).add r).toNat48) (some t)

/-- The clip factor; none for a norm that is not finite. -/
def clipFactor (s : State) (p : Nat) (n : Nat) : Option Val :=
  let n2 := r32 (readNorm s n).val
  let clip := decodeVal 0 (s.fld (rClip (leadCluster s p)) 31 0)
  if !n2.isFin then none
  else if clip.isZero || clip.isInf then some valOne
  else
    let nrm := decodeVal 0 (sqrtWide 0 n2)
    some (if clip.lt nrm then decodeVal 0 (divWide 0 clip nrm) else valOne)

/-- What an APPLY computes with: rule, hyperparameters, clip factor, seed, tensor id and step. -/
structure Hyper where
  rule : Nat
  lr   : Val
  wd   : Val
  b1   : Val
  b2   : Val
  eps  : Val
  bc1  : Val
  bc2  : Val
  c    : Val
  seed : Word
  tid  : Nat
  step : Nat

def hyperOf (s : State) (p : Nat) (r : BitVec 512) (c : Val) (w : DescWord) : Hyper :=
  let v := fun i hi lo => decodeVal 0 (pgF r i hi lo)
  ⟨pgRule r, v 2 31 0, v 2 63 32, v 3 31 0, v 3 63 32, v 4 31 0, v 4 63 32, v 5 31 0, c,
   s.reg (rSeed (leadCluster s p)), dTid w, pgGstep r⟩

/-! ### The update rules (R262 to R265) -/

/-- One FP32 rounding of a × b + c. -/
def fma32 (a b c : Val) : Val := r32 ((a.mul b).add c)
def div32 (a b : Val) : Val := decodeVal 0 (divWide 0 a b)
def sqrt32 (a : Val) : Val := decodeVal 0 (sqrtWide 0 a)
def ob (b : Val) : Val := r32 (valOne.sub b)

/-- New first moment before it is stored. -/
def newM (h : Hyper) (w g m : Val) : Val :=
  if h.rule = 0 then fma32 h.b1 m (fma32 h.wd w g)
  else if h.rule = 2 then fma32 h.b2 m (r32 ((ob h.b2).mul g))
  else fma32 h.b1 m (r32 ((ob h.b1).mul g))

/-- New second moment before it is stored. -/
def newV (h : Hyper) (g v : Val) : Val := fma32 h.b2 v (r32 ((ob h.b2).mul (r32 (g.mul g))))

/-- round(round(m′ × BC1) / den) of AdamW and LAMB. -/
def adamU (h : Hyper) (m v : Val) : Val :=
  div32 (r32 (m.mul h.bc1)) (r32 ((sqrt32 (r32 (v.mul h.bc2))).add h.eps))

/-- u of LAMB. -/
def lambU (h : Hyper) (w m v : Val) : Val := fma32 h.wd w (adamU h m v)

/-- Sign of Lion. -/
def lionSign (cc : Val) : Val :=
  if cc.isNan then .nan else if cc.isZero then valZero else .setSign cc.sign valOne

/-- round(w − a × b), fused. -/
def subMul (w a b : Val) : Val := r32 (w.sub (a.mul b))

/-- New master value in FP32: old moment `m`, stored moments `m'`, `v'`, and the LAMB ratio. -/
def newW (h : Hyper) (w g m m' v' r : Val) : Val :=
  if h.rule = 0 then subMul w h.lr m'
  else if h.rule = 1 then subMul w h.lr (fma32 h.wd w (adamU h m' v'))
  else if h.rule = 2 then
    subMul w h.lr (fma32 h.wd w (lionSign (fma32 h.b1 m (r32 ((ob h.b1).mul g)))))
  else subMul w (r32 (h.lr.mul r)) (lambU h w m' v')

/-- The master write of R81 of FP32 value `v` at linear index `e`. -/
def site3 (h : Hyper) (e : Nat) (v : Val) : Nat :=
  if v.isFin then
    let c := roundWide 0 v
    c / 65536 + if gen h.seed h.tid e (put h.step 0) < c % 65536 then 1 else 0
  else roundWide 1 v

/-- A master element: cause 0 when an input is not finite, else 2 for a NaN and 1 for an infinity
(R261). -/
def masterElem (h : Hyper) (e : Nat) (v : Val) (ins : List Val) : Elem :=
  let c := site3 h e v
  ⟨c, match decodeVal 1 c with
    | .fin _ _ _ => .none
    | r => .nonFinite (if ins.any fun x => !x.isFin then 0 else if r.isNan then 2 else 1)⟩

/-! ### Tiles of the update -/

/-- Bytes of one MX group with its scale code. -/
def mxGroupBytes (s : State) (d : DescWord) (q : Nat × Nat) (o : Nat × List Elem) : List (Nat × Byte) :=
  elemBytes s d ((groupElems d q.1 q.2).zip (o.2.map Elem.code)) ++ scaleBytes d (scaleIdx d q.1 q.2) o.1

/-- Flags of the elements of a group. -/
def groupMarks (d : DescWord) (q : Nat × Nat) (es : List Elem) : List TileMark :=
  ((groupElems d q.1 q.2).zip es).map fun p => linMark p.2.mark (linOf d p.1)

/-- Values that the written codes of a group decode to. -/
def storedVals (d : DescWord) (o : Nat × List Elem) : List Val := o.2.map fun e => mxVal (dFmt d) e.code o.1

def TileOut.join (os : List TileOut) : TileOut := ⟨os.flatMap TileOut.ws, os.flatMap TileOut.marks⟩

/-- One group of APPLY in a single pass, or of pass 1 of LAMB: moments, and the master except for
LAMB. -/
def applyGroup (s : State) (f : InFlight) (h : Hyper) (q : Nat × Nat) : TileOut :=
  let dw := f.tds.getD 2 0
  let dm := f.tds.getD 1 0
  let dv := f.tds.getD 3 0
  let es := groupElems dm q.1 q.2
  let val := fun d => es.map fun e => elemVal s d e.1 e.2
  let ws := val dw
  let gs := (val (f.tds.getD 0 0)).map fun g => r32 (g.mul h.c)
  let ms := val dm
  let om := quantGroup 3 none false ((ws.zip (gs.zip ms)).map fun x => newM h x.1 x.2.1 x.2.2)
  let m' := storedVals dm om
  let mOut : TileOut := ⟨mxGroupBytes s dm q om, groupMarks dm q om.2⟩
  let adam := h.rule = 1 ∨ h.rule = 3
  let ov := if adam then quantGroup 3 none false ((gs.zip (val dv)).map fun x => newV h x.1 x.2) else (0, [])
  let v' := if adam then storedVals dv ov else es.map fun _ => valZero
  let vOut : TileOut := if adam then ⟨mxGroupBytes s dv q ov, groupMarks dv q ov.2⟩ else ⟨[], []⟩
  let wOut : TileOut :=
    if h.rule = 3 then ⟨[], []⟩
    else
      let el := (List.range es.length).map fun i =>
        let at_ := fun (l : List Val) => l.getD i valZero
        masterElem h (linOf dw (es.getD i (0, 0)))
          (newW h (at_ ws) (at_ gs) (at_ ms) (at_ m') (at_ v') valOne)
          ([at_ ws, at_ gs, at_ m', h.c] ++ if adam then [at_ v'] else [])
      ⟨elemBytes s dw (es.zip (el.map Elem.code)), groupMarks dw q el⟩
  .join [wOut, mOut, vOut]

/-- Address sets of whole groups in each tensor that a tile writes. -/
def upOuts (f : InFlight) (ks : List Nat) (es : ElemSet) : List (DescWord × List Nat) :=
  let m := f.tds.getD 1 0
  ks.map fun k => let d := f.tds.getD k 0; (d, outAddrs d (wholeGroups m es))

/-- A tile of APPLY. -/
def tileApply (s : State) (a : StreamId) (f : InFlight) (h : Hyper) (t core : Nat) : State :=
  let m := f.tds.getD 1 0
  let es := linElems m (t * 16384) 16384
  let adam := h.rule = 1 ∨ h.rule = 3
  runTiles s a f t core .none
    ([⟨f.tds.getD 2 0, es, true⟩, ⟨f.tds.getD 0 0, es, false⟩, ⟨m, es, true⟩] ++
      if adam then [⟨f.tds.getD 3 0, es, true⟩] else [])
    (upOuts f (if h.rule = 3 then [1, 3] else if adam then [2, 1, 3] else [2, 1]) es)
    fun s => .join ((tileGroups m f t es).map (applyGroup s f h))

/-- NW and NU of LAMB, kept with the instruction. -/
def lambRecs (f : InFlight) : Rec × Rec :=
  let l := (smGet .none_ f.accs 0).words
  (Rec.ofNat48 (l.getD 0 0), Rec.ofNat48 (l.getD 1 0))

/-- Terms of a tile's elements, from the moments as stored; state bit 2 for a contained tile. -/
def lambTerms (s : State) (a : StreamId) (f : InFlight) (h : Hyper) (t : Nat) : State :=
  let m := f.tds.getD 1 0
  let es := linElems m (t * 16384) 16384
  let r := lambRecs f
  let r2 : Rec × Rec :=
    if f.bad.contains t then ({ r.1 with bad := true }, { r.2 with bad := true })
    else (tileGroups m f t es).foldl (fun r q => (groupElems m q.1 q.2).foldl (fun r e =>
      let w := elemVal s (f.tds.getD 2 0) e.1 e.2
      (normTerm r.1 w, normTerm r.2 (lambU h w (elemVal s m e.1 e.2) (elemVal s (f.tds.getD 3 0) e.1 e.2)))) r) r
  setFlight s a { f with accs := smSet .none_ f.accs 0 ⟨0, .out, 0, [r2.1.toNat48, r2.2.toNat48]⟩ }

/-- The ratio r of LAMB. -/
def lambRatio (f : InFlight) : Val :=
  let r := lambRecs f
  let nw2 := r32 r.1.val
  let nu2 := r32 r.2.val
  if !nw2.isFin || !nu2.isFin then .nan
  else
    let nw := sqrt32 nw2
    let nu := sqrt32 nu2
    if nw.isZero || nu.isZero then valOne else div32 nw nu

/-- Groups of a tile whose last element lies in it: each group of the tensor belongs to one tile. -/
def ownGroups (d : DescWord) (f : InFlight) (t : Nat) (es : ElemSet) : List (Nat × Nat) :=
  (tileGroups d f t es).filter fun q => ((groupElems d q.1 q.2).getLast?.map fun e => linOf d e / 16384) = some t

/-- A tile of pass 2 of LAMB: a tile that pass 1 contained is contained again. A group is written once, with
its last tile. -/
def tileLamb2 (s : State) (a : StreamId) (f : InFlight) (h : Hyper) (r : Val) (t core : Nat) : State :=
  let dw := f.tds.getD 2 0
  let dm := f.tds.getD 1 0
  let dv := f.tds.getD 3 0
  let es := linElems dm (t * 16384) 16384
  if f.bad.contains t then poisonOuts s a f (upOuts f [2] es)
  else
    runTiles s a f t core .none [⟨dw, es, true⟩, ⟨dm, es, true⟩, ⟨dv, es, true⟩] (upOuts f [2] es) fun s =>
      .join ((ownGroups dm f t es).map fun q =>
        let ge := groupElems dm q.1 q.2
        let el := ge.map fun e =>
          let w := elemVal s dw e.1 e.2
          let m' := elemVal s dm e.1 e.2
          let v' := elemVal s dv e.1 e.2
          masterElem h (linOf dw e) (newW h w valZero valZero m' v' r) [w, m', v', h.c, r]
        ⟨elemBytes s dw (ge.zip (el.map Elem.code)), groupMarks dw q el⟩)

/-- A tile of PACK (R257). -/
def tilePack (s : State) (a : StreamId) (f : InFlight) (t core : Nat) : State :=
  let x := f.tds.getD 0 0
  let ef := f.tds.getD 1 0
  let gp := f.tds.getD 2 0
  let es := linElems gp (t * 16384) 16384
  runTiles s a f t core .none [⟨x, es, false⟩, ⟨ef, es, true⟩] (upOuts f [2, 1] es) fun s =>
    .join ((tileGroups gp f t es).map fun q =>
      let ge := groupElems gp q.1 q.2
      let ss := ge.map fun e => r32 ((elemVal s x e.1 e.2).add (elemVal s ef e.1 e.2))
      let o := quantGroup 4 none false ss
      let o2 := if o.1 = 255 then (0, ge.map fun _ => Elem.mk 0 .none)
        else quantGroup 3 none false (List.zipWith (fun v q => r32 (v.sub q)) ss (storedVals gp o))
      ⟨mxGroupBytes s gp q o ++ mxGroupBytes s ef q o2, groupMarks gp q o.2 ++ groupMarks ef q o2.2⟩)

/-- A tile of NORM: it adds its squares, or state bit 2 where it is contained (R258). -/
def tileNormAdd (s : State) (a : StreamId) (f : InFlight) (n t core : Nat) : State :=
  let x := f.tds.getD 0 0
  let es := linElems x (t * 16384) 16384
  let s1 := runTiles s a f t core .none [⟨x, es, false⟩] [] fun _ => ⟨[], []⟩
  let bad := ((findFlight (strmAt s1 a) f.iseq).map fun g => g.bad.contains t).getD true
  let r := if bad then { Rec.zero with bad := true }
    else es.foldl (fun r e => normTerm r (elemVal s1 x e.1 e.2)) Rec.zero
  addNorm s1 n r (strmTag a f.iseq)

/-- A tile of REQNT (R248). -/
def tileReqnt (s : State) (a : StreamId) (f : InFlight) (t core : Nat) : State :=
  let x := f.tds.getD 0 0
  let y := f.tds.getD 2 0
  let es := linElems y (t * 16384) 16384
  let src := fun (e : Nat × Nat) => if rqTr f.w then transCoord x y e.1 e.2 else e
  runTiles s a f t core .none [⟨x, es.map src, false⟩] [(y, outAddrs y (wholeGroups y es))] fun s =>
    groupsOut s y false (fun _ _ => none) (tileGroups y f t es) fun r i =>
      let c := src (r, i); elemVal s x c.1 c.2

/-! ### Execution past the fence -/

/-- Package core of element tile `t`: core t mod P of the partition (R267). -/
def tileCore (s : State) (p t : Nat) : Nat :=
  let n := t % nCores s p
  32 * (partClusters s p).getD (n / 32) 0 + n % 32

/-- Runs every element tile of an instruction in flight. -/
def allTiles (a : StreamId) (iseq : BitVec 32) (n : Nat) (g : State → InFlight → Nat → Nat → State)
    (s : State) : State :=
  (List.range n).foldl (fun s t => match findFlight (strmAt s a) iseq with
    | some f => g s f t (tileCore s a.part t)
    | none => s) s

/-- A skip: it counts, and changes no tensor (R256). -/
def upSkip (s : State) (a : StreamId) : State := cntInc s 0x0000 a.part 1

/-- The skip of a group whose norm is not finite: flag NF, cause 0, key (ISEQ, 0, 0, 0) (R259). -/
def normSkip (s : State) (a : StreamId) (f : InFlight) : State :=
  let s1 := recordMarks s a f (leadCluster s a.part) [⟨.nonFinite 0, 0, 0, 0⟩]
  upSkip (setFlight s1 a { f with nf := true }) a

/-- APPLY past its fence with clip factor `c`. -/
def runApply (s : State) (a : StreamId) (f : InFlight) (r : BitVec 512) (c : Val) : State :=
  let h := hyperOf s a.part r c (f.tds.getD 2 0)
  let n := elemTiles (f.tds.getD 2 0)
  let s1 := allTiles a f.iseq n (fun s f t core =>
    let s1 := tileApply s a f h t core
    if h.rule = 3 then match findFlight (strmAt s1 a) f.iseq with
      | some g => lambTerms s1 a g h t
      | none => s1
    else s1) s
  if h.rule = 3 then
    let ratio := ((findFlight (strmAt s1 a) f.iseq).map lambRatio).getD .nan
    allTiles a f.iseq n (fun s f t core => tileLamb2 s a f h ratio t core) s1
  else s1

/-- A UPD or REQNT executes, its fence passed. Answers whether an APPLY wrote its master. -/
def updRun (s : State) (a : StreamId) (f : InFlight) : State × Bool :=
  if iOp f.w = 0x91 then
    (allTiles a f.iseq (elemTiles (f.tds.getD 2 0)) (fun s f t core => tileReqnt s a f t core) s, false)
  else
    let r : BitVec 512 := BitVec.ofNat 512 (f.aux.getD 0 0)
    let n := elemTiles (f.tds.getD 0 0)
    if pgFrozen r then (upSkip s a, false)
    else if upFn f.w = 2 then (allTiles a f.iseq n (fun s f t core => tilePack s a f t core) s, false)
    else if upFn f.w = 1 then
      if pgClipX r then (s, false)
      else (allTiles a f.iseq n (fun s f t core => tileNormAdd s a f (f.aux.getD 1 1 - 1) t core) s, false)
    else if pgClipX r then (runApply s a f r valOne, true)
    else match clipFactor s a.part (f.aux.getD 1 1 - 1) with
      | none => (normSkip s a f, false)
      | some c => (runApply s a f r c, true)

/-- Whether the instruction waits at the fence of its group, whether for releases, and whether it
locks (Table 6.5). -/
def fenceUse (w : InstrWord) : Option (Bool × Bool) :=
  if iOp w = 0x90 then
    if upFn w = 0 then some (true, true) else if upFn w = 2 then some (true, false) else none
  else if iOp w = 0x91 ∧ rqFence w = true then some (false, true) else none

/-- Group of the fence (R255, R273). -/
def fenceGroup (f : InFlight) : Nat :=
  dPgroup (f.tds.getD (if iOp f.w = 0x90 then 0 else 2) 0)

/-- A held UPD or REQNT finds its condition true: the stall counts for the group's VSTAGE and the
lock is set. None while the condition is false (R273). -/
def fenceTry (s : State) (a : StreamId) (f : InFlight) : Option State :=
  match fenceUse f.w with
  | none => some s
  | some (rel, lock) =>
    match fenceOf (ctxAt s a) (fenceGroup f) with
    | none => some s
    | some g =>
      if !g.fence then some s
      else if fenceOpen g rel then
        let s1 := cntInc s (0x10 + g.vstage) a.part (timeNs s - f.t0)
        some (if lock then modFence s1 a.part a.ctx (fenceGroup f) fun g => { g with lock := true } else s1)
      else none

/-- At completion: the lock is cleared, and APPLY resets the releases (Table 6.5). -/
def fenceDone (s : State) (a : StreamId) (f : InFlight) : State :=
  match fenceUse f.w with
  | some (rel, true) => modFence s a.part a.ctx (fenceGroup f) fun g =>
      { g with lock := false, rel := if rel then 0 else g.rel }
  | _ => s

end Sys2Proof.Machine
end

