-- ==== Sys2Proof/Machine/Coll.lean ====
section
/-! DEFINITION. How a collective advances (R426 to R440): shards, the byte streams between ranks,
windows and partial sums, results, gathered shards and norm records. -/

namespace Sys2Proof.Machine

/-! ### Tensors and shards (R426) -/

/-- A dense descriptor without a memory place: RANK 2, format `f`, sizes `d0` and `d1`. -/
def shapeDesc (f d0 d1 : Nat) : DescWord :=
  BitVec.ofNat 512 (f * 2 ^ 48 + 2 * 2 ^ 54 + d0 * 2 ^ 64 + d1 * 2 ^ 96 + 2 ^ 128 + 2 ^ 160 + 2 ^ 192)

/-- A descriptor with its outermost size set to `v`. -/
def withOuter (d : DescWord) (v : Nat) : DescWord :=
  setBits d (64 + 32 * (dRank d - 1) + 31) (64 + 32 * (dRank d - 1)) v

/-- Outermost size. -/
def dOuter (d : DescWord) : Nat := dDim d (dRank d - 1)

def collMm (c : Coll) : Bool := c.op = 0x32 || c.op = 0x33

/-- Geometry of a fused product on its full operand A (R190, R431). -/
def collGeo (w : InstrWord) (tds : List DescWord) : Geo := mmGeo w (tds.getD 0 0) (tds.getD 1 0)

/-- Full operand A of MMAG: the rows of every rank, or its reduction steps with TA = 1. -/
def fullA (w : InstrWord) (tds : List DescWord) : DescWord :=
  withOuter (tds.getD 0 0) (if mmTa w then (if mmTb w then dDim (tds.getD 1 0) 1 else dDim (tds.getD 1 0) 0)
    else dDim (tds.getD 2 0) 1)

/-- The full tensor whose shards are exchanged. -/
def collFull (c : Coll) (f : InFlight) : DescWord :=
  if c.op = 0xA1 ∨ c.op = 0xA4 then f.tds.getD 2 0
  else if c.op = 0x32 then let g := collGeo f.w f.tds; shapeDesc 0 g.n g.m
  else if c.op = 0x33 then fullA f.w f.tds
  else f.tds.getD 0 0

/-- Elements per index of the outermost dimension. -/
def dInner (d : DescWord) : Nat := dCount d / max 1 (dOuter d)

/-- First linear index of shard `r`, and its number of elements. -/
def shardLo (c : Coll) (d : DescWord) (r : Nat) : Nat := r * dOuter d / c.n * dInner d
def shardN (c : Coll) (d : DescWord) (r : Nat) : Nat := shardLo c d (r + 1) - shardLo c d r

/-- Windows of 65,536 elements of shard `r` (R437). -/
def shardWins (c : Coll) (d : DescWord) (r : Nat) : Nat := ceilDiv (shardN c d r) 65536

/-! ### Segments of a stream -/

/-- Scale index of linear element `e`. -/
def linScale (d : DescWord) (e : Nat) : Nat := scaleIdx d (e / dDim d 0) (e % dDim d 0 / dGs d)

/-- Bytes of elements `lo` to `lo + n − 1` in a stream: their codes packed, then the scale codes of
their groups. -/
def segLen (d : DescWord) (lo n : Nat) : Nat :=
  if n = 0 then 0
  else ceilDiv (n * fmtBits (dFmt d)) 8 + if dIsMx d then linScale d (lo + n - 1) - linScale d lo + 1 else 0

/-- The bytes, each with whether it is poisoned. -/
def segBytes (d : DescWord) (lo n : Nat) (code scale : Nat → Nat) (pois : Nat → Bool) : List (Nat × Bool) :=
  if n = 0 then []
  else
    let b := fmtBits (dFmt d)
    let body := (List.range (ceilDiv (n * b) 8)).map fun j =>
      let es := (List.range (8 * j + 7 + 1 - 8 * j)).map fun k => (8 * j + k) / b
      let v := (List.range 8).foldl (fun v k =>
        let i := (8 * j + k) / b
        if i < n then v + code (lo + i) / 2 ^ ((8 * j + k) % b) % 2 * 2 ^ k else v) 0
      (v, es.dedup.any fun i => decide (i < n) && pois (lo + i))
    body ++ if dIsMx d then
      (List.range (linScale d (lo + n - 1) - linScale d lo + 1)).map fun g =>
        let q := linScale d lo + g
        (scale q, (List.range n).any fun i => decide (linScale d (lo + i) = q) && pois (lo + i))
    else []

/-- Code, scale code and poison of element `e` of a segment whose bytes `get` gives. -/
def segCode (d : DescWord) (lo e : Nat) (get : Nat → Nat) : Nat :=
  let b := fmtBits (dFmt d)
  let p := (e - lo) * b
  ((List.range (ceilDiv (p % 8 + b) 8)).foldl (fun v j => v + get (p / 8 + j) % 256 * 256 ^ j) 0) / 2 ^ (p % 8) % 2 ^ b
def segScaleAt (d : DescWord) (lo n e : Nat) : Nat := ceilDiv (n * fmtBits (dFmt d)) 8 + (linScale d e - linScale d lo)
def segPois (d : DescWord) (lo n e : Nat) (pois : Nat → Bool) : Bool :=
  let b := fmtBits (dFmt d)
  let p := (e - lo) * b
  ((List.range (ceilDiv (p % 8 + b) 8)).any fun j => pois (p / 8 + j)) || (dIsMx d && pois (segScaleAt d lo n e))
def segVal (d : DescWord) (lo n e : Nat) (get : Nat → Nat) : Val :=
  if dIsMx d then mxVal (dFmt d) (segCode d lo e get) (get (segScaleAt d lo n e) % 256)
  else decodeVal (dFmt d) (segCode d lo e get)

/-- Bytes that `n` take in a stream: each segment begins at a granule, so no granule holds bytes of two. -/
def segRoom (n : Nat) : Nat := (n + 15) / 16 * 16

/-! ### Received bytes -/

def rxGet (c : Coll) (src off i : Nat) : Nat := smGet 0 c.rx (src * 2 ^ 48 + off + i) - 1
def rxPois (c : Coll) (src off i : Nat) : Bool := decide (512 < smGet 0 c.rx (src * 2 ^ 48 + off + i))
def rxHas (c : Coll) (src off n : Nat) : Bool :=
  (List.range n).all fun i => decide (smGet 0 c.rx (src * 2 ^ 48 + off + i) ≠ 0)

/-- Stores the bytes of a DATA message. -/
def rxStore (c : Coll) (src off : Nat) (pois : Bool) (data : List Nat) : Coll :=
  let bs := data.flatMap fun g => (List.range 16).map fun i => g / 256 ^ i % 256
  { c with rx := ((List.range bs.length).zip bs).foldl (fun m q =>
      smSet 0 m (src * 2 ^ 48 + off + q.1) (q.2 + 1 + if pois then 512 else 0)) c.rx }

/-! ### Offsets in the stream from rank `r` to rank `d` (Table 10.14) -/

/-- FP32 partial sums of `n` elements. -/
def fp32Desc : DescWord := shapeDesc 0 1 1

/-- EXACT: the inputs of window `w` of shard `s`. -/
def winOff (c : Coll) (d : DescWord) (s w : Nat) : Nat :=
  (List.range w).foldl (fun o v =>
    let lo := shardLo c d s + 65536 * v
    o + segRoom (segLen d lo (min 65536 (shardN c d s - 65536 * v)))) 0

/-- CANON: the partial sum of shard `s` sent by rank `r`; a rank sends shards r − 1, r − 2, … in
turn. -/
def partOff (c : Coll) (d : DescWord) (r s : Nat) : Nat :=
  (List.range ((r + c.n - s - 1) % c.n)).foldl (fun o k =>
    o + segRoom (4 * shardN c d ((r + 2 * c.n - 1 - k) % c.n))) 0

/-- Bytes of inputs or partial sums that go before the gathered shards. -/
def sumBytes (c : Coll) (d : DescWord) (r dst : Nat) : Nat :=
  if c.op ≠ 0xA2 then 0
  else if c.canon then partOff c d r r
  else winOff c d dst (shardWins c d dst)

/-- The tensor whose bits are gathered: the output of AR, the full tensor of AG, full A of MMAG. -/
def gatherDesc (c : Coll) (f : InFlight) : DescWord := if c.op = 0xA2 then f.tds.getD 2 0 else collFull c f

/-- Elements of shard `s` of the gathered tensor; a transfer has one shard. -/
def gatLo (c : Coll) (f : InFlight) (s : Nat) : Nat :=
  if c.op = 0xA3 ∨ c.op = 0xA4 then 0 else shardLo c (gatherDesc c f) s
def gatN (c : Coll) (f : InFlight) (s : Nat) : Nat :=
  if c.op = 0xA3 ∨ c.op = 0xA4 then dCount (collFull c f) else shardN c (gatherDesc c f) s

/-- Bytes of a gathered shard: those of an MX tensor end with the STAG of its scale blocks (R139, R427). -/
def gatLen (c : Coll) (f : InFlight) (s : Nat) : Nat :=
  let n := segLen (gatherDesc c f) (gatLo c f s) (gatN c f s)
  if n = 0 then 0 else n + if dIsMx (gatherDesc c f) then 2 else 0

/-- Offset of shard `s` in the stream from rank `r` to rank `dst`. -/
def gatOff (c : Coll) (f : InFlight) (r dst s : Nat) : Nat :=
  sumBytes c (collFull c f) r dst +
    if c.canon && !(c.op = 0xA3 || c.op = 0xA4) then
      (List.range ((r + c.n - s) % c.n)).foldl (fun o k => o + segRoom (gatLen c f ((r + c.n - k) % c.n))) 0
    else 0

/-- The rank that shard `s` arrives from. -/
def gatSrc (c : Coll) (s : Nat) : Nat :=
  if c.op = 0xA4 then c.peer else if c.canon then (c.my + c.n - 1) % c.n else s

/-! ### Own inputs -/

/-- The Accord unit as a reader for an instruction (Table 7.9: agent 4). -/
def accTag (c : Coll) : Tag := ⟨c.iseq, BitVec.ofNat 3 c.ctx, BitVec.ofNat 2 c.strm, 4⟩

/-- Own shard of the tensor read: AG and MMAG hold only it. -/
def ownBase (c : Coll) (f : InFlight) : Nat :=
  if c.op = 0xA1 ∨ c.op = 0x33 then gatLo c f c.my else 0

/-- The collective's flight record changes. -/
def modFlight (s : State) (c : Coll) (k : InFlight → InFlight) : State :=
  match findFlight (strmAt s (collAt c)) c.iseq with
  | some f => setFlight s (collAt c) (k f)
  | none => s

/-- Verifies elements `lo` to `lo + n − 1` of this rank's tensor `d`, and the header of every scale block of theirs that
came whole (R186). -/
def accVerify (s : State) (c : Coll) (d : DescWord) (lo n : Nat) : State :=
  let es := linElems d lo n
  let s1 := (verifyRead s (setAddrs d es) ⟨accTag c, some c.part, dTid d, dBase d⟩ false).1
  let bad := (setScaleBlocks d es).filter fun b => lstAt s1 (scaleBlock d b) ≠ 2 && scaleHeaderBad s1 d b
  match findFlight (strmAt s1 (collAt c)) c.iseq with
  | none => s1
  | some f =>
    let s2 := bad.foldl (fun s b => scaleMisaligned s (collAt c) f d (leadCluster s c.part) b) s1
    modFlight s2 c fun f => { f with seen := (f.seen ++ bad.map (scaleBlock d)).dedup }

/-- An element is a poisoned input: it lies in a POISONED line, or its scale block fails the header check. -/
def elemPois (s : State) (d : DescWord) (e : Nat) : Bool :=
  ((elemAddrs d (e / dDim d 0) (e % dDim d 0)).any fun a => lstAt s a = 2) ||
    (dIsMx d && scaleHeaderBad s d (linScale d e / 64))

/-- L0 tile of output element `e` of a fused product. -/
def mmTileOf (g : Geo) (e : Nat) : Nat := e / g.n / g.l0m * g.tn + e % g.n / g.l0n

/-- Own value of input element `e` of a sum: a decoded element, or the FP32 accumulator of MMRS. -/
def ownVal (s : State) (c : Coll) (f : InFlight) (e : Nat) : Val :=
  if c.op = 0x32 then
    let g := collGeo f.w f.tds
    let p := mmProd f.w f.tds false
    r32 (p.final (accOf f g (mmTileOf g e * g.ks) (mmTileOf g e) (e / g.n) (e % g.n))).1
  else elemLin s (f.tds.getD 0 0) e

def ownPois (s : State) (c : Coll) (f : InFlight) (e : Nat) : Bool :=
  if c.op = 0x32 then f.bad.contains (mmTileOf (collGeo f.w f.tds) e) else elemPois s (f.tds.getD 0 0) e

/-- The accumulators of MMRS are final. -/
def ownReady (c : Coll) (f : InFlight) : Bool := c.op ≠ 0x32 || f.nTiles ≤ f.done.length

/-! ### Sending -/

/-- Sends a message of a collective from the unit of die `u`; its granules await acknowledgement. -/
def collSend (s : State) (c : Coll) (u dst ty off aux : Nat) (pois : Bool) (data : List Nat) : State × Coll :=
  (accSend s c.part c.grp u dst ty (c.opseq % 256) off aux pois data,
   c.owe (routeOf s c.part c.grp dst) (1 + data.length))

/-- Sends a control message of a collective to each of several ranks, from the lead die. -/
def collTell (s : State) (c : Coll) (dsts : List Nat) (ty aux : Nat) (data : List Nat) : State × Coll :=
  dsts.foldl (fun sc r => collSend sc.1 sc.2 (leadDie s c.part) r ty 0 aux false data) (s, c)

/-- Granules of a run of bytes, each with whether a byte of it is poisoned. -/
def granules (bs : List (Nat × Bool)) : List (Nat × Bool) :=
  (chunks 16 (bs.length + 1) bs).map fun b =>
    (((List.range 16).zip b).foldl (fun v q => v + q.2.1 * 256 ^ q.1) 0, b.any Prod.snd)

/-- Runs of at most 16 granules that are all poisoned or all not: one DATA message each (R432, Table 10.14). -/
def granRuns (gs : List (Nat × Bool)) : List (List (Nat × Bool)) :=
  (gs.foldl (fun acc g => match acc with
    | (x :: xs) :: ls => if (x :: xs).length < 16 && x.2 == g.2 then (g :: x :: xs) :: ls else [g] :: (x :: xs) :: ls
    | _ => [g] :: acc) []).reverse.map List.reverse

/-- Sends bytes as DATA messages, POIS set on those that hold poisoned bytes. They are those of `n` elements from
element `i` on of a shard of `m`; each message goes from the unit that has the part of its first byte (R436). -/
def sendBytes (s : State) (c : Coll) (dst off aux : Nat) (i n m : Nat) (bs : List (Nat × Bool)) : State × Coll :=
  ((granRuns (granules bs)).foldl (fun (x : (State × Coll) × Nat) gs =>
    let u := unitOf s c.part (i + n * (16 * x.2) / max 1 bs.length) m
    (collSend x.1.1 x.1.2 u dst 1 (off + 16 * x.2) aux (gs.any Prod.snd) (gs.map Prod.fst), x.2 + gs.length)) ((s, c), 0)).1

/-- The shard number that a DATA message of a sum carries in AUX, and the tag of a transfer. -/
def dataAux (c : Coll) (shard : Nat) : Nat :=
  if c.op = 0xA3 then c.tag else if c.op = 0xA0 ∨ c.op = 0xA2 ∨ c.op = 0x32 then shard else 0

/-- Digest of a collective on this rank (Table 10.15). -/
def collDigest (c : Coll) (f : InFlight) : CollDigest :=
  let d := collFull c f
  ⟨BitVec.ofNat 8 (if c.op = 0xA4 then 0xA3 else c.op), BitVec.ofNat 4 (dFmt d), BitVec.ofNat 2 (dGroup d),
   BitVec.ofNat 3 (dRank d), BitVec.ofNat 64 (dCount d), BitVec.ofNat 32 (dOuter d), c.norm⟩

/-- A digest as the data granule of HDR. -/
def digestNat (g : CollDigest) : Nat :=
  g.op.toNat + g.fmt.toNat * 2 ^ 8 + g.group.toNat * 2 ^ 12 + g.rank.toNat * 2 ^ 14 + b2n g.norm * 2 ^ 17 +
    g.d.toNat * 2 ^ 32 + g.count.toNat * 2 ^ 64

/-! ### Results (R437, R438, R431) -/

/-- The exact sum of element `e`: the record of all ranks' values, and whether one is poisoned. -/
def exactSum (s : State) (c : Coll) (f : InFlight) (e : Nat) : Rec × List Val × Bool :=
  let d := collFull c f
  let lo0 := shardLo c d c.my
  let w := (e - lo0) / 65536
  let lo := lo0 + 65536 * w
  let n := min 65536 (shardN c d c.my - 65536 * w)
  let off := winOff c d c.my w
  (List.range c.n).foldl (fun acc r =>
    if r = c.my then
      let v := ownVal s c f e
      (acc.1.term true v, acc.2.1 ++ [v], acc.2.2 || ownPois s c f e)
    else
      let v := segVal d lo n e (rxGet c r off)
      (acc.1.term true v, acc.2.1 ++ [v], acc.2.2 || segPois d lo n e (rxPois c r off)))
    (Rec.zero, [], false)

/-- The partial sum of element `e` of shard `sh` after this rank's value (R438), and its poison. -/
def canonSum (s : State) (c : Coll) (f : InFlight) (sh e : Nat) : Val × Bool :=
  let d := collFull c f
  let own := r32 (ownVal s c f e)
  let p0 := ownPois s c f e
  if (sh + 1) % c.n = c.my then (own, p0)
  else
    let r := (c.my + c.n - 1) % c.n
    let off := partOff c d r sh
    let lo := shardLo c d sh
    let acc := decodeVal 0 (segCode fp32Desc lo e (rxGet c r off))
    (r32 (acc.add own), p0 || segPois fp32Desc lo (shardN c d sh) e (rxPois c r off))

/-- The operands of the last sum of CANON: the partial sum received and this rank's value. A partial sum that
overflowed at an earlier rank arrives as an infinity. -/
def canonOps (s : State) (c : Coll) (f : InFlight) (sh e : Nat) : List Val :=
  let d := collFull c f
  let own := ownVal s c f e
  if (sh + 1) % c.n = c.my then [own]
  else
    let r := (c.my + c.n - 1) % c.n
    [decodeVal 0 (segCode fp32Desc (shardLo c d sh) e (rxGet c r (partOff c d r sh))), own]

/-- The value of element `e` of the own shard before output, its operands and its poison. -/
def ownSum (s : State) (c : Coll) (f : InFlight) (e : Nat) : Val × List Val × Bool :=
  if c.canon then
    let r := canonSum s c f c.my e
    (r.1, canonOps s c f c.my e, r.2)
  else
    let r := exactSum s c f e
    (r.1.val, r.2.1 ++ r.1.ops, r.2.2)

/-- Output tensor and the place of element `e` of the own shard in it. -/
def outPlace (c : Coll) (f : InFlight) (e : Nat) : Nat × Nat :=
  let z := f.tds.getD 2 0
  let i := if c.op = 0xA2 then e else e - shardLo c (collFull c f) c.my
  (i / dDim z 0, i % dDim z 0)

/-- Through the rescale table of MMRS, exactly. -/
def mmrsOut (s : State) (c : Coll) (f : InFlight) (e : Nat) (v : Val × List Val × Bool) : Val × List Val × Bool :=
  if c.op = 0x32 && mmRst f.w then
    let n := (collGeo f.w f.tds).n
    let d := f.tds.getD 3 0
    let m := elemVal s d 0 (2 * (e % n))
    let b := elemVal s d 0 (2 * (e % n) + 1)
    ((v.1.mul m).add b, v.2.1 ++ [m, b], v.2.2 || elemPois s d (2 * (e % n)) || elemPois s d (2 * (e % n) + 1))
  else v

/-- Flag position of an output element: that of the product for MMRS, of its linear index else. -/
def collMark (c : Coll) (f : InFlight) (e : Nat) (m : Mark) : TileMark :=
  if c.op = 0x32 then let g := collGeo f.w f.tds; g.mark (e / g.n) (e % g.n) m
  else let p := outPlace c f e; linMark m (p.1 * dDim (f.tds.getD 2 0) 0 + p.2)

/-- The own shard into the output: its bytes and flags, the addresses that poisoned inputs touch, and its bytes with
what is poisoned among them as an AR holds them inside (R429). -/
def shardOut (s : State) (c : Coll) (f : InFlight) : TileOut × List Nat × List (Nat × Bool) :=
  let d := collFull c f
  let z := f.tds.getD 2 0
  let es := (List.range (shardN c d c.my)).map fun i => shardLo c d c.my + i
  let vs := es.map fun e => (e, mmrsOut s c f e (ownSum s c f e))
  if dIsMx z then
    let qs := (es.map fun e => let p := outPlace c f e; (p.1, p.2 / dGs z)).dedup
    let out := qs.map fun q =>
      let mine := vs.filter fun v => let p := outPlace c f v.1; (p.1, p.2 / dGs z) = q
      (q, mine, quantGroup (dFmt z) none (iSat f.w) (mine.map fun v => r32 v.2.1))
    let good := out.filter fun o => !(o.2.1.any fun v => v.2.2.2)
    let bad := out.filter fun o => o.2.1.any fun v => v.2.2.2
    (⟨good.flatMap fun o => mxGroupBytes s z o.1 o.2.2,
      good.flatMap fun o => (o.2.1.zip o.2.2.2).map fun q => collMark c f q.1.1 q.2.mark⟩,
     outAddrs z (bad.flatMap fun o => groupElems z o.1.1 o.1.2), [])
  else
    let all := vs.map fun v => (v.1, elemWide (dFmt z) v.2.2.1 v.2.1, v.2.2.2)
    let good := all.filter fun v => !v.2.2
    let lo := shardLo c d c.my
    let cs := all.toArray
    (⟨elemBytes s z (good.map fun g => (outPlace c f g.1, g.2.1.code)),
      good.map fun g => collMark c f g.1 g.2.1.mark⟩,
     outAddrs z ((all.filter fun v => v.2.2).map fun v => outPlace c f v.1),
     if c.op = 0xA2 then segBytes z lo (shardN c d c.my) (fun e => ((cs[e - lo]?).map fun v => v.2.1.code).getD 0) (fun _ => 0)
       fun e => ((cs[e - lo]?).map fun v => v.2.2).getD false
     else [])

/-- Poisons the blocks that poisoned data touches, with PTAG_AGENT 4 (R432). -/
def accPoison (s : State) (c : Coll) (d : DescWord) (as : List Nat) : State :=
  (blocksOf as).foldl (fun s blk =>
    captPoison (poisonAll s (blk * 4096) (accTag c)) (blk * 4096) (accTag c) 4 (dTid d)
      (blockIndex (blk * 4096) (dBase d))) s

/-- Writes bytes, flags and poison for a collective. -/
def accWrite (s : State) (c : Coll) (f : InFlight) (o : TileOut) (bad : List Nat) : State :=
  let a := collAt c
  let s1 := accPoison (writeAll s o.ws (some (accTag c))) c (f.tds.getD 2 0) bad
  let s2 := recordMarks s1 a f (leadCluster s c.part) o.marks
  modFlight s2 c fun f => { f with nf := f.nf || hasNf o.marks, sat := f.sat || hasSat o.marks }

/-- The exact sum of squares of what this rank has written (R440): zero for a clip-exempt group,
state bit 2 for a poisoned element (R432). -/
def normOwn (s : State) (c : Coll) (f : InFlight) : Rec :=
  if f.aux.getD 1 0 = 0 then Rec.zero
  else
    let d := collFull c f
    let z := f.tds.getD 2 0
    (List.range (shardN c d c.my)).foldl (fun (r : Rec) i =>
      let e := shardLo c d c.my + i
      if (ownSum s c f e).2.2 then { r with bad := true }
      else let p := outPlace c f e; normTerm r (elemVal s z p.1 p.2)) Rec.zero

/-! ### Gathered shards -/

/-- Bytes of shard `sh` as this rank sends them: its own from memory, that of an AR as held inside, another as
received. -/
def gatBytes (s : State) (c : Coll) (f : InFlight) (sh : Nat) : List (Nat × Bool) :=
  let g := gatherDesc c f
  let lo := gatLo c f sh
  if sh = c.my ∧ c.op = 0xA2 then c.own
  else if sh = c.my ∨ c.op = 0xA3 then
    let x := f.tds.getD 0 0
    let b := ownBase c f
    let bs := segBytes g lo (gatN c f sh) (fun e => let i := e - b; elemCode s x (i / dDim x 0) (i % dDim x 0))
      (fun q => readNat s (scaleAddr x (q - linScale g b)) 1) (fun e => elemPois s x (e - b))
    if dIsMx g && !bs.isEmpty then bs ++ [(dStag x % 256, false), (dStag x / 256, false)] else bs
  else
    let r := gatSrc c sh
    let off := gatOff c f r c.my sh
    (List.range (gatLen c f sh)).map fun i => (rxGet c r off i, rxPois c r off i)

/-- A gathered shard into the output tensor, bits unchanged, scale headers included (R139, R427). -/
def gatWrite (s : State) (c : Coll) (f : InFlight) (sh : Nat) : State :=
  if c.op = 0x33 then s
  else
    let z := f.tds.getD 2 0
    let lo := gatLo c f sh
    let n := gatN c f sh
    let bs := gatBytes s c f sh
    let get := fun i => (bs.getD i (0, false)).1
    let pois := fun i => (bs.getD i (0, false)).2
    let es := (List.range n).map fun i => lo + i
    let good := es.filter fun e => !segPois z lo n e pois
    let at_ := fun e => (e / dDim z 0, e % dDim z 0)
    let qs := (good.map (linScale z)).dedup
    let codes := segLen z lo n
    let y := setBits z 447 432 (get codes + 256 * get (codes + 1))
    let ws := elemBytes s z (good.map fun e => (at_ e, segCode z lo e get)) ++
      if dIsMx z then qs.flatMap fun q =>
        scaleBytes y q (get (ceilDiv (n * fmtBits (dFmt z)) 8 + (q - linScale z lo)) % 256) else []
    let marks := good.map fun e =>
      let v := segVal z lo n e get
      linMark (causeOf [v] v) e
    accWrite s c f ⟨ws, marks⟩ (outAddrs z ((es.filter fun e => segPois z lo n e pois).map at_))

/-! ### Progress -/

def others (c : Coll) : List Nat := (List.range c.n).filter fun r => r ≠ c.my

/-- Everything that this rank does for the collective, in an order in which each can follow those
before it. -/
def collPlan (c : Coll) (f : InFlight) : List CollAct :=
  let d := collFull c f
  let gat := c.op = 0xA1 || c.op = 0xA2 || c.op = 0x33
  let sum := c.op = 0xA0 || c.op = 0xA2 || c.op = 0x32
  if c.op = 0xA3 then [.hdr, .sendShard c.peer 0, .done_ c.peer]
  else if c.op = 0xA4 then [.writeShard 0]
  else
    [CollAct.hdr] ++
    (if sum then
      if c.canon then (others c).map .partial_ ++ [.final]
      else
        (List.range (shardWins c d c.my)).map .grant ++
        (others c).flatMap (fun r => (List.range (shardWins c d r)).map fun w => .input r w) ++
        (List.range (shardWins c d c.my)).map .window ++ [.final]
    else []) ++
    (if c.norm then [.nrec, .norm] else []) ++
    (if gat then
      (if c.op = 0xA2 then [] else [.writeShard c.my]) ++
      (if c.canon then
        ((List.range c.n).filter fun sh => sh ≠ (c.my + 1) % c.n).map fun sh => .sendShard ((c.my + 1) % c.n) sh
       else (others c).map fun r => .sendShard r c.my) ++
      (others c).map .writeShard
    else []) ++ (collDsts c).map .done_

/-- An action's condition. -/
def collReady (c : Coll) (f : InFlight) (x : CollAct) : Bool :=
  let d := collFull c f
  let pred := (c.my + c.n - 1) % c.n
  match x with
  | .hdr => true
  | .grant w => decide (w < 2) || c.did.contains (.window (w - 2))
  | .window w =>
    c.did.contains (.grant w) && ownReady c f && (others c).all fun r =>
      rxHas c r (winOff c d c.my w)
        (segLen d (shardLo c d c.my + 65536 * w) (min 65536 (shardN c d c.my - 65536 * w)))
  | .input r w => c.grants.contains (r, w) && ownReady c f
  | .partial_ sh =>
    ownReady c f && ((sh + 1) % c.n = c.my || rxHas c pred (partOff c d pred sh) (4 * shardN c d sh))
  | .final =>
    if c.canon then ownReady c f && rxHas c pred (partOff c d pred c.my) (4 * shardN c d c.my)
    else (List.range (shardWins c d c.my)).all fun w => c.did.contains (.window w)
  | .sendShard _ sh =>
    if c.op = 0xA3 then true
    else if sh = c.my then c.op ≠ 0xA2 || c.did.contains .final
    else rxHas c (gatSrc c sh) (gatOff c f (gatSrc c sh) c.my sh) (gatLen c f sh)
  | .writeShard sh =>
    if sh = c.my && c.op ≠ 0xA4 then true
    else rxHas c (gatSrc c sh) (gatOff c f (gatSrc c sh) c.my sh) (gatLen c f sh)
  | .done_ r =>
    (collPlan c f).all fun y => match y with
      | .hdr | .partial_ _ | .nrec => c.did.contains y
      | .input q _ => q ≠ r || c.did.contains y
      | .sendShard q _ => q ≠ r || c.did.contains y
      | _ => true
  | .nrec => c.did.contains .final
  | .norm => (others c).all fun r => decide (smGet 0 c.nrecs r ≠ 0)

/-- An action's effect. -/
def collAct (s : State) (c : Coll) (f : InFlight) (x : CollAct) : State × Coll :=
  let d := collFull c f
  let sum := c.op = 0xA0 ∨ c.op = 0xA2 ∨ c.op = 0x32
  let p2p := if c.op = 0xA3 then c.tag else 0
  match x with
  | .hdr => collTell s c (collDsts c) 8 p2p [digestNat (collDigest c f)]
  | .grant w => collTell s c (others c) 9 w []
  | .window _ => (s, c)
  | .input r w =>
    let lo := shardLo c d r + 65536 * w
    let n := min 65536 (shardN c d r - 65536 * w)
    let x := f.tds.getD 0 0
    let s1 := if c.op = 0x32 then s else accVerify s c x lo n
    let code := fun e => if c.op = 0x32 then roundWide 0 (ownVal s1 c f e) else elemCode s1 x (e / dDim x 0) (e % dDim x 0)
    sendBytes s1 c r (winOff c d r w) (dataAux c r) (65536 * w) n (shardN c d r)
      (segBytes d lo n code (fun q => readNat s1 (scaleAddr x q) 1) (ownPois s1 c f))
  | .partial_ sh =>
    let s1 := if c.op = 0x32 then s else accVerify s c (f.tds.getD 0 0) (shardLo c d sh) (shardN c d sh)
    sendBytes s1 c ((c.my + 1) % c.n) (partOff c d c.my sh) (dataAux c sh) 0 (shardN c d sh) (shardN c d sh)
      (segBytes fp32Desc (shardLo c d sh) (shardN c d sh) (fun e => roundWide 0 (canonSum s1 c f sh e).1) (fun _ => 0)
        fun e => (canonSum s1 c f sh e).2)
  | .final =>
    let s1 := if c.op = 0x32 then
        (if mmRst f.w then accVerify s c (f.tds.getD 3 0) 0 (2 * (collGeo f.w f.tds).n) else s)
      else accVerify s c (f.tds.getD 0 0) (shardLo c d c.my) (shardN c d c.my)
    let o := shardOut s1 c f
    (accWrite s1 c f o.1 o.2.1, { c with own := o.2.2 })
  | .sendShard r sh =>
    let s1 := if (sh = c.my ∧ c.op ≠ 0xA2) ∨ c.op = 0xA3 then accVerify s c (f.tds.getD 0 0) 0 (gatN c f sh) else s
    sendBytes s1 c r (gatOff c f c.my r sh) (if sum then 0 else dataAux c sh) 0 (gatN c f sh) (gatN c f sh) (gatBytes s1 c f sh)
  | .writeShard sh =>
    let s1 := if sh = c.my ∧ c.op ≠ 0xA4 then accVerify s c (f.tds.getD 0 0) 0 (gatN c f sh) else s
    (gatWrite s1 c f sh, c)
  | .done_ r => collTell s c [r] 2 p2p []
  | .nrec =>
    let n := (normOwn s c f).toNat48
    collTell s c (others c) 5 0 [n % 2 ^ 128, n / 2 ^ 128 % 2 ^ 128, n / 2 ^ 256]
  | .norm =>
    if f.aux.getD 1 0 = 0 then (s, c)
    else
      let t := (others c).foldl (fun (t : Rec) r => t.add (Rec.ofNat48 (smGet 0 c.nrecs r - 1))) (normOwn s c f)
      (addNorm s (f.aux.getD 1 0 - 1) t (accTag c), c)

/-- The collective of stream instruction `i`. -/
def findColl (s : State) (a : StreamId) (i : BitVec 32) : Option Coll :=
  s.acc.colls.find? fun c => c.part = a.part.val ∧ c.ctx = a.ctx.val ∧ c.strm = strmNo a.strm ∧ c.iseq = i

/-- Does whatever the collective can do now, one action after another. -/
def collPump (a : StreamId) (i : BitVec 32) : Nat → State → State
  | 0, s => s
  | fuel + 1, s =>
    match findColl s a i, findFlight (strmAt s a) i with
    | some c, some f =>
      match (collPlan c f).find? fun x => !c.did.contains x && collReady c f x with
      | some x =>
        let r := collAct s c f x
        collPump a i fuel (setColl r.1 { r.2 with did := r.2.did ++ [x] })
      | none => s
    | _, _ => s

/-- Advances a collective as far as it can go. -/
def collGo (s : State) (a : StreamId) (i : BitVec 32) : State :=
  match findColl s a i, findFlight (strmAt s a) i with
  | some c, some f => collPump a i (collPlan c f).length s
  | _, _ => s

/-- The collective has done everything, and all that it sent is acknowledged (R429). -/
def collFinished (c : Coll) (f : InFlight) : Bool :=
  (collPlan c f).all (fun x => c.did.contains x) && c.owed.isEmpty

end Sys2Proof.Machine
end

