-- ==== Sys2Proof/Machine/Col.lean ====
section
/-! DEFINITION. The COL instructions and the fused products (R425 to R431): checks, issue, and the
tiles of MMRS and MMAG. -/

namespace Sys2Proof.Machine

/-! ### Checks (R425, R426, Table 10.12) -/

/-- Bit of FMT (Table 10.6) that a tensor's format uses. -/
def fmtBit (d : DescWord) : Nat :=
  if dIsMx d && dGroup d ≠ 0 then 7
  else if dFmt d ≤ 4 then dFmt d else if dFmt d = 8 then 5 else 6

def collGroup (w : InstrWord) : Nat := if iOp w / 16 = 3 then xF w 47 40 else xF w 7 0
def colNorm (w : InstrWord) : Bool := iOp w = 0xA0 && xF w 8 8 = 1
def colPeer (w : InstrWord) : Nat := xF w 19 8
def colTag (w : InstrWord) : Nat := xF w 35 20

/-- Operands of a COL instruction by opcode. -/
def colTds (op : Nat) : List Nat := if op = 0xA3 then [0] else if op = 0xA4 then [2] else [0, 2]

/-- A tensor of Accord: a wide or MX format in a layout other than FMC (R205, Table 10.12). -/
def colPlain (d : DescWord) : Bool := (isWide (dFmt d) || dIsMx d) && !dIsFmc d

/-- Table 10.12. -/
def colFmt (op : Nat) (canon : Bool) (tds : List DescWord) : List (Option SFault) :=
  let x := tds.getD 0 0
  let z := tds.getD 2 0
  if op = 0xA0 ∨ op = 0xA2 then
    [need (colPlain x && (!canon || isWide (dFmt x) || ((dFmt x = 3 || dFmt x = 4) && dGroup x = 0))) 0x05 1 1,
     need (isWide (dFmt z) && !dIsFmc z) 0x05 1 3]
  else if op = 0xA1 then
    [need (colPlain x) 0x05 1 1,
     need (colPlain z && dFmt z = dFmt x && dGroup z = dGroup x) 0x05 1 3]
  else if op = 0xA3 then [need (colPlain x) 0x05 1 1]
  else if op = 0xA4 then [need (colPlain z) 0x05 1 3]
  else []

/-- Tensors whose formats the exchange uses: its inputs and output; the FP32 accumulators of MMRS,
the rows of MMAG. -/
def colUsed (op : Nat) (tds : List DescWord) : List DescWord :=
  if op = 0x32 then [shapeDesc 0 1 1] else if op = 0x33 then [tds.getD 0 0]
  else (colTds op).map fun k => tds.getD k 0

/-- Steps 1 to 7 of R425. -/
def colChecks (s : State) (p : Nat) (w : InstrWord) (tds : List DescWord) (used : List Nat) :
    List (Option SFault) :=
  let op := iOp w
  let k := collGroup w
  let r := grpRec s p k
  let p2p := op = 0xA3 || op = 0xA4
  [need (k < gtabCount s p) 0x02 1 9, need (gValid r) 0x02 1 9,
   need (!(colNorm w && gCanon r)) 0x02 1 9] ++
  colFmt op (gCanon r) tds ++
  [need (gState r = 2) 0x19 2 0,
   need ((colUsed op tds).all fun d => gFmt r / 2 ^ fmtBit d % 2 = 1) 0x05 1 9,
   need (!p2p || (colPeer w < gRanks r && colPeer w ≠ gMy r)) 0x02 1 9,
   need (gGens r % 4 = 0 || used.all fun j => !(dIsMx (tds.getD j 0) && dGroup (tds.getD j 0) ≠ 0)) 0x0A 1 9]

/-- Outer size of this rank's shard of `D` indices. -/
def shardSize (r : BitVec 512) (d : Nat) : Nat := (gMy r + 1) * d / gRanks r - gMy r * d / gRanks r

/-- `y` has the shape of this rank's shard of `x`. -/
def shardShape (r : BitVec 512) (x y : DescWord) : Bool :=
  dRank y = dRank x && dOuter y = shardSize r (dOuter x) &&
    ((List.range (dRank x - 1)).all fun i => dDim y i = dDim x i)

/-- R426, and the shapes of R429. -/
def colShape (s : State) (p : Nat) (w : InstrWord) (tds : List DescWord) : List (Option SFault) :=
  let op := iOp w
  let r := grpRec s p (collGroup w)
  let x := tds.getD 0 0
  let z := tds.getD 2 0
  let full := if op = 0xA1 then z else x
  let fo := if op = 0xA1 then 3 else 1
  if op = 0xA3 ∨ op = 0xA4 then []
  else
    [need (gRanks r ≤ dOuter full) 0x0D 1 fo, need (!(dIsMx x && dRank x = 1)) 0x0D 1 1,
     need (!(dIsMx z && dRank z = 1)) 0x0D 1 3,
     if op = 0xA0 then need (shardShape r x z) 0x0D 1 3
     else if op = 0xA1 then need (shardShape r z x) 0x0D 1 1
     else need (sameShape x z) 0x0D 1 3]

/-- Norm record and parameter group of an RS with NORM (R440, R252, R281). -/
def colNormChecks (s : State) (p : Nat) (w : InstrWord) (tds : List DescWord) : List (Option SFault) :=
  let g := dPgroup (tds.getD 2 0)
  [need (!colNorm w || rangeInPart s p (pgAddr s p g) 64) 0x0C 1 0,
   need (!colNorm w || (pgRecord s p g).isSome) 0x18 2 0,
   need (!colNorm w || rangeInPart s p (normAddr s p) 48) 0x0C 1 0]

/-- Address of the norm record plus 1 that the RS adds to, or 0. -/
def colNormAt (s : State) (p : Nat) (w : InstrWord) (tds : List DescWord) : Nat :=
  if colNorm w && !pgClipX ((pgRecord s p (dPgroup (tds.getD 2 0))).getD 0) then normAddr s p + 1 else 0

/-! ### Issue -/

/-- The collective record of the instruction that has just issued, and its number on the group. -/
def startColl (s : State) (a : StreamId) (f : InFlight) : State :=
  let p := a.part.val
  let w := f.w
  let k := collGroup w
  let r := grpRec s p k
  let p2p := iOp w = 0xA3 || iOp w = 0xA4
  let s1 := if p2p then s else setW7 s p k 63 32 ((gOpseq r + 1) % 2 ^ 32)
  let c : Coll := ⟨p, a.ctx.val, strmNo a.strm, f.iseq, iOp w, k, gGid r, gRanks r, gMy r, gCanon r,
    if p2p then 0 else gOpseq r, if p2p then colPeer w else 0, if p2p then colTag w else 0, colNorm w,
    [], [], [], [], [], [], [], []⟩
  { s1 with acc := { s1.acc with colls := s1.acc.colls ++ [c] } }

/-- A transfer of this rank. -/
def isTransfer (op : Nat) : Bool := op = 0xA3 || op = 0xA4

/-- Partition, group and number of a message, or peer and tag of a transfer, are those of a collective. -/
def collNamed (c : Coll) (p k : Nat) (h : AccHdr) : Bool :=
  c.part = p && c.grp = k &&
    if isTransfer c.op then h.srcRank.toNat = c.peer && h.aux.toNat = c.tag else h.opseq.toNat = c.opseq % 256

/-- A collective takes a message now: the HDR of its kind, once from each source; any other after it, and of a transfer
until DONE (R428, R430, R439). -/
def collTakes (c : Coll) (p k : Nat) (m : AccMsg) : Bool :=
  let src := m.h.srcRank.toNat
  collNamed c p k m.h &&
    if m.ty = 8 then !c.hdrs.contains src && m.dig.all fun d => isTransfer d.op.toNat == isTransfer c.op
    else c.hdrs.contains src && !(isTransfer c.op && c.done.contains src)

/-- The collective that takes a message: a numbered one before a transfer. -/
def collFor (s : State) (p k : Nat) (m : AccMsg) : Option Coll :=
  match s.acc.colls.find? fun c => !isTransfer c.op && collTakes c p k m with
  | some c => some c
  | none => s.acc.colls.find? fun c => collTakes c p k m

/-- What a message does to its collective; none where it fails it with the cause given. -/
def collMsg (c : Coll) (f : InFlight) (m : AccMsg) : Except Nat Coll :=
  let src := m.h.srcRank.toNat
  match m.ty with
  | 1 => .ok (rxStore c src m.h.offset.toNat m.h.pois m.data)
  | 2 => .ok { c with done := (c.done ++ [src]).dedup }
  | 3 => .error 2
  | 5 => .ok { c with nrecs := smSet 0 c.nrecs src (((m.data.zip (List.range 3)).foldl
      (fun n q => n + q.1 % 2 ^ 128 * 2 ^ (128 * q.2)) 0) + 1) }
  | 8 => if m.dig = some (collDigest c f) then .ok { c with hdrs := c.hdrs ++ [src] } else .error 3
  | 9 => .ok { c with grants := (c.grants ++ [(src, m.h.aux.toNat)]).dedup }
  | _ => .ok c

/-- A message reaches a collective in flight. -/
def collDeliver (s : State) (c : Coll) (m : AccMsg) : State :=
  let a := collAt c
  match findFlight (strmAt s a) c.iseq with
  | none => s
  | some f =>
    match collMsg c f m with
    | .ok d => collGo (setColl s d) a c.iseq
    | .error cause => collFail s c cause m.h.srcRank.toNat 0x3F

/-- The messages that waited for a collective reach it, in the order in which they came; at most `fuel`. -/
def replayEarly (a : StreamId) (i : BitVec 32) : Nat → State → State
  | 0, s => s
  | fuel + 1, s =>
    match findColl s a i with
    | none => s
    | some c =>
      match s.acc.early.find? fun m => m.h.gid.toNat = c.gid ∧ m.h.dstRank.toNat = c.my ∧ collTakes c c.part c.grp m = true with
      | none => s
      | some m => replayEarly a i fuel
          (collDeliver { s with acc := { s.acc with early := dropFirst (fun x => x = m) s.acc.early } } c m)

/-- Issues an Accord instruction: the fault of an inactive group is captured (R425, R433). -/
def issueColl (o : TOp) (clear : List DescWord → Option Geo) (a : StreamId) (w : InstrWord) (s : State) : State :=
  let tds := o.capture s a w
  let n := colNormAt s a.part w tds
  let nw := hazard s a [] (normRange w (if n = 0 then none else some (n - 1)) false)
  withWordAfter s a w (tensorWait s a w tds || nw) o.op o.uses o.word fun s =>
    match firstFault (o.unit s :: descChecks s tds o.uses.tds o.wr ++ o.checks s tds) with
    | some f =>
      streamFault (if f.code = 0x19 then
        cntInc (captAccFault s (leadDie s a.part) a.part (collGroup w) 1 0xFFF 0x3F (strmNo a.strm) a.ctx) 0x0019 a.part 1 else s) a f o.op
    | none =>
      let p := o.plan s tds
      withFence s a w tds o.op fun s =>
        let f := newInFlight s (strmAt s a) w tds p.1 p.2
        let s0 := match clear tds with
          | some g => g.clearSplit s a f.iseq
          | none => s
        let s1 := issueFlight (startColl s0 a f) a w tds p.1 p.2
        collGo (replayEarly a f.iseq s1.acc.early.length s1) a f.iseq

/-- Checks and operands of RS, AG, AR, SEND and RECV. -/
def colOp (op x : Nat) (a : StreamId) (w : InstrWord) : TOp where
  op := op
  uses := { tds := colTds op, x := x }
  unit := unitBit 5
  wr := if op = 0xA3 then [] else [2]
  checks := fun s tds =>
    rangeChecks s a.part tds (colTds op) ++ colChecks s a.part w tds (colTds op) ++
      colNormChecks s a.part w tds ++ colShape s a.part w tds
  plan := fun s tds => ([collGroup w, colNormAt s a.part w tds], 0)

def doRs (a : StreamId) (w : InstrWord) (s : State) : State :=
  issueColl (colOp 0xA0 (xm 8 0) a w) (fun _ => none) a w s
/-- RS: this rank's shard of the sum (R429, R437, R438, R440). -/
def execRs (a : StreamId) (w : InstrWord) (s : State) : Res := .next (doRs a w s)

def doAg (a : StreamId) (w : InstrWord) (s : State) : State :=
  issueColl (colOp 0xA1 (xm 7 0) a w) (fun _ => none) a w s
/-- AG: the full tensor from every rank's shard. -/
def execAg (a : StreamId) (w : InstrWord) (s : State) : Res := .next (doAg a w s)

def doAr (a : StreamId) (w : InstrWord) (s : State) : State :=
  issueColl (colOp 0xA2 (xm 7 0) a w) (fun _ => none) a w s
/-- AR: the sum on every rank. -/
def execAr (a : StreamId) (w : InstrWord) (s : State) : Res := .next (doAr a w s)

def doSend (a : StreamId) (w : InstrWord) (s : State) : State :=
  issueColl (colOp 0xA3 (xm 35 0) a w) (fun _ => none) a w s
/-- SEND: the bytes of TDA to the peer rank (R430). -/
def execSend (a : StreamId) (w : InstrWord) (s : State) : Res := .next (doSend a w s)

def doRecv (a : StreamId) (w : InstrWord) (s : State) : State :=
  issueColl (colOp 0xA4 (xm 35 0) a w) (fun _ => none) a w s
/-- RECV: the peer's bytes into TDC (R430). -/
def execRecv (a : StreamId) (w : InstrWord) (s : State) : Res := .next (doRecv a w s)

/-! ### MMRS and MMAG (R190, R431) -/

/-- The operands as the product sees them: full A of MMAG, full C of MMRS; an operand that is not
this rank's shard gets outer size 0, which no shape check passes. -/
def fusedTds (s : State) (p : Nat) (w : InstrWord) (tds : List DescWord) : List DescWord :=
  let r := grpRec s p (collGroup w)
  if iOp w = 0x32 then
    let z := tds.getD 2 0
    let m := (mmGeo w (tds.getD 0 0) (tds.getD 1 0)).m
    tds.set 2 (withOuter z (if dOuter z = shardSize r m ∧ gRanks r ≤ m then m else 0))
  else
    let x := tds.getD 0 0
    let y := fullA w tds
    tds.set 0 (withOuter x (if dOuter x = shardSize r (dOuter y) ∧ gRanks r ≤ dOuter y then dOuter y else 0))

/-- Geometry of a fused product. -/
def fusedGeo (w : InstrWord) (tds : List DescWord) : Geo :=
  if iOp w = 0x33 then mmGeo w (fullA w tds) (tds.getD 1 0) else mmGeo w (tds.getD 0 0) (tds.getD 1 0)

/-- Checks and operands of MMRS and MMAG. -/
def fusedOp (op : Nat) (a : StreamId) (w : InstrWord) : TOp :=
  let u := mmUses w (xm 47 40 ||| xm 39 0)
  { op := op, uses := u, word := mmWord w false
    unit := fun s => firstFault [meUnits w s, unitBit 5 s], wr := [2]
    checks := fun s tds =>
      let g := fusedGeo w tds
      let full := if op = 0x33 then tds.set 0 (fullA w tds) else tds
      mmPair w false full ++ rangeChecks s a.part tds u.tds ++ g.spaceChecks s a w (tds.getD 0 0) (tds.getD 1 0) ++
        mmFmt w false full ++ colChecks s a.part w tds u.tds ++ mmShape w (fusedTds s a.part w tds)
    plan := fun _ tds => let g := fusedGeo w tds; ([], g.tiles * g.e) }

def doMmrs (a : StreamId) (w : InstrWord) (s : State) : State :=
  issueColl (fusedOp 0x32 a w) (fun tds => some (fusedGeo w tds)) a w s
/-- MMRS: the product, its accumulators reduce-scattered before rescale. -/
def execMmrs (a : StreamId) (w : InstrWord) (s : State) : Res := .next (doMmrs a w s)

def doMmag (a : StreamId) (w : InstrWord) (s : State) : State :=
  issueColl (fusedOp 0x33 a w) (fun tds => some (fusedGeo w tds)) a w s
/-- MMAG: the product on the rows of A of every rank. -/
def execMmag (a : StreamId) (w : InstrWord) (s : State) : Res := .next (doMmag a w s)

/-- The product of MMAG: own rows from memory, the others as received. -/
def mmagProd (c : Coll) (f : InFlight) : Prod :=
  let x := f.tds.getD 0 0
  let y := fullA f.w f.tds
  let lo := c.my * dOuter y / c.n
  let hi := (c.my + 1) * dOuter y / c.n
  let shard := fun r => ((List.range c.n).find? fun q => decide (r < (q + 1) * dOuter y / c.n)).getD 0
  let seg := fun (r i : Nat) =>
    let sh := shard r
    let src := gatSrc c sh
    (gatLo c f sh, gatN c f sh, r * dDim y 0 + i, src, gatOff c f src c.my sh)
  { mmProd f.w (f.tds.set 0 y) false with
    dsrc := x
    aown := fun r i => if lo ≤ r ∧ r < hi then some (r - lo, i) else none
    aval := fun s r i =>
      if lo ≤ r ∧ r < hi then elemVal s x (r - lo) i
      else let q := seg r i; segVal y q.1 q.2.1 q.2.2.1 (rxGet c q.2.2.2.1 q.2.2.2.2)
    apois := fun r i =>
      !(lo ≤ r ∧ r < hi) && (let q := seg r i; segPois y q.1 q.2.1 q.2.2.1 (rxPois c q.2.2.2.1 q.2.2.2.2)) }

/-- The rows of A that a tile reads have arrived. -/
def mmagReady (c : Coll) (f : InFlight) (t : Nat) : Bool :=
  let y := fullA f.w f.tds
  let p := mmProd f.w (f.tds.set 0 y) false
  let rows := ((p.g.elems t).flatMap fun e => (p.terms e.1 e.2).map fun u => u.2.1.1).dedup
  rows.all fun r => (List.range c.n).all fun sh =>
    !(decide (sh * dOuter y / c.n ≤ r) && decide (r < (sh + 1) * dOuter y / c.n)) || c.did.contains (.writeShard sh)

/-- A tile of MMRS: its accumulators stay for Accord, which goes on when the last is final. -/
def tileMmrs (s : State) (a : StreamId) (f : InFlight) (t core : Nat) (e : StoreErr) : State :=
  collGo ({ mmProd f.w f.tds false with keep := true }.tileEnd s a f t core e) a f.iseq

/-- A tile of MMAG. -/
def tileMmag (s : State) (a : StreamId) (f : InFlight) (t core : Nat) (e : StoreErr) : State :=
  match findColl s a f.iseq with
  | none => s
  | some c => if mmagReady c f t then (mmagProd c f).tileEnd s a f t core e else s

/-! ### Messages of a group (R434) -/

/-- A message of a collective arrives: it reaches its collective, and with an HDR those that waited for it; or it waits;
or it goes on to another rank (R421, R430). -/
def accMessage (s : State) (m : AccMsg) : State :=
  match groupFor s m.h.gid.toNat m.h.dstRank.toNat with
  | none => accForward s none m.ty m.h m.data
  | some (p, k) =>
    match collFor s p k m with
    | some c =>
      let s1 := collDeliver s c m
      if m.ty = 8 then replayEarly (collAt c) c.iseq s1.acc.early.length s1 else s1
    | none => { s with acc := { s.acc with early := s.acc.early ++ [m] } }

def granNat (l : List (BitVec 128)) : List Nat := l.map BitVec.toNat

/-- ACCORD_DATA. -/
def doAccordData (h : AccHdr) (data : List (BitVec 128)) (s : State) : State :=
  accMessage s ⟨1, h, granNat data, none⟩
def execAccordData (h : AccHdr) (data : List (BitVec 128)) (s : State) : Res := .next (doAccordData h data s)

/-- ACCORD_DONE. -/
def doAccordDone (h : AccHdr) (s : State) : State := accMessage s ⟨2, h, [], none⟩
def execAccordDone (h : AccHdr) (s : State) : Res := .next (doAccordDone h s)

/-- HDR: a digest that differs fails the collective with cause 3 (R428, R430). -/
def doHdr (h : AccHdr) (d : CollDigest) (s : State) : State := accMessage s ⟨8, h, [digestNat d], some d⟩
def execHdr (h : AccHdr) (digest : CollDigest) (s : State) : Res := .next (doHdr h digest s)

/-- GRANT (R437). -/
def doGrant (h : AccHdr) (s : State) : State := accMessage s ⟨9, h, [], none⟩
def execGrant (h : AccHdr) (s : State) : Res := .next (doGrant h s)

/-- NREC (R440). -/
def doNrec (h : AccHdr) (r : BitVec 384) (s : State) : State :=
  accMessage s ⟨5, h, (List.range 3).map fun i => bits r (128 * i + 127) (128 * i), none⟩
def execNrec (h : AccHdr) (rec : BitVec 384) (s : State) : Res := .next (doNrec h rec s)

/-- ABORT: the collective or transfer that it names fails, and its group; a number that has completed is left alone (a
transfer has none, and its tag stands in AUX); an activation that is under way fails with cause 8 and passes it on (R422, R423, R444). -/
def doAccordAbort (h : AccHdr) (s : State) : State :=
  match groupFor s h.gid.toNat h.dstRank.toNat with
  | none => accForward s none 3 h []
  | some (p, k) =>
    let r := grpRec s p k
    if gState r = 1 then leadSend (groupDown s p k 8 h.srcRank.toNat) p k ((gMy r + 1) % gRanks r) 3 0 []
    else
      let d := (gOpseq r % 256 + 256 - h.opseq.toNat) % 256
      if (s.acc.colls.any fun c => collNamed c p k h) = false ∧ h.aux = 0 ∧ 1 ≤ d ∧ d ≤ 128 then s
      else groupFail s p k 2 h.srcRank.toNat 0x3F
def execAccordAbort (h : AccHdr) (s : State) : Res := .next (doAccordAbort h s)

/-! ### Activation (R422, R454, Table 10.10) -/

/-- The capability word of a rank of this module (Table 10.6). -/
def ownCap : BitVec 64 := 0x407FFFFF#64

/-- MEMBER as its data granule: capability word, rank, NRANKS, PROFILE, lap, and what the lap has
gathered. -/
def memberNat (m : MemberMsg) : Nat :=
  m.cap.toNat + m.rank.toNat * 2 ^ 64 + m.nranks.toNat * 2 ^ 76 + b2n m.canon * 2 ^ 89 + b2n m.lap2 * 2 ^ 90 +
    m.fmt.toNat * 2 ^ 91 + m.genMask.toNat * 2 ^ 99

/-- Sends MEMBER to the successor. -/
def sendMember (s : State) (p k : Nat) (lap2 : Bool) (fmt gens : Nat) : State :=
  let r := grpRec s p k
  let m : MemberMsg := ⟨ownCap, BitVec.ofNat 12 (gMy r), BitVec.ofNat 13 (gRanks r), gCanon r, lap2,
    BitVec.ofNat 8 fmt, BitVec.ofNat 3 gens⟩
  leadSend s p k ((gMy r + 1) % gRanks r) 4 0 [memberNat m]

/-- The checks of step 2 on the predecessor's MEMBER. -/
def memberOk (s : State) (r : BitVec 512) (m : MemberMsg) : Bool :=
  m.rank.toNat = (gMy r + gRanks r - 1) % gRanks r && m.nranks.toNat = gRanks r && m.canon == gCanon r &&
    if gCanon r then bits m.cap 29 22 = s.fld rAcv 23 16
    else bits m.cap 10 9 = 3 && bit m.cap 20

/-- Lap 1 at an activating member. -/
def lapOne (s : State) (p k : Nat) (m : MemberMsg) : State :=
  let r := grpRec s p k
  if memberOk s r m then
    if gMy r = 0 then sendMember s p k true m.fmt.toNat m.genMask.toNat
    else sendMember s p k false (m.fmt &&& BitVec.ofNat 8 (bits ownCap 19 12)).toNat (m.genMask ||| 4#3).toNat
  else
    leadSend (groupDown s p k 8 m.rank.toNat) p k ((gMy r + 1) % gRanks r) 3 0 []

/-- The group of this module that a message for a rank of it names, in any state. -/
def groupNamed (s : State) (gid rank : Nat) : Option (Nat × Nat) :=
  (allGroups s).find? fun q =>
    let r := grpRec s q.1 q.2
    decide (gGid r = gid) && decide (gMy r = rank) && gValid r

/-- MEMBER: lap 1 is checked or held; lap 2 makes the member ACTIVE and goes on (R422). -/
def doAccordMember (h : AccHdr) (m : MemberMsg) (s : State) : State :=
  match groupNamed s h.gid.toNat h.dstRank.toNat with
  | none => accForward s none 4 h [memberNat m]
  | some (p, k) =>
    let r := grpRec s p k
    if gState r = 1 then
      if m.lap2 then
        let s1 := groupActive s p k m.fmt.toNat m.genMask.toNat
        if gMy r = 0 then s1 else sendMember s1 p k true m.fmt.toNat m.genMask.toNat
      else lapOne s p k m
    else if m.lap2 then s
    else { s with acc := { s.acc with laps :=
      (s.acc.laps.filter fun l => l.1 ≠ p * 256 + k) ++ [(p * 256 + k, h, m)] } }
def execAccordMember (h : AccHdr) (m : MemberMsg) (s : State) : Res := .next (doAccordMember h m s)

/-- A command of ACC_GCMD: PART and GROUP are taken; one that its die or the record does not accept
sets ERR (R452, R454). -/
def gcmd (s : State) (d p k : Nat) (ok : State → Bool) (f : State → State) : State :=
  if leadDie s p ≠ d ∨ diePresent s d = false then s.setRBit (rGcmd d) 15 true
  else
    let s1 := (s.setFld (rGcmd d) 5 2 p).setFld (rGcmd d) 13 6 k
    if k < gtabCount s p ∧ gValid (grpRec s p k) = true ∧ ok s = true then f s1 else s1.setRBit (rGcmd d) 15 true

/-- No message of an earlier activation waits for a rank of a group. -/
def dropEarly (s : State) (gid my : Nat) : State :=
  { s with acc := { s.acc with early := s.acc.early.filter fun m => !(m.h.gid.toNat = gid && m.h.dstRank.toNat = my) } }

/-- ACTIVATE: rank 0 starts lap 1, every other member continues the lap that it holds. -/
def doGroupActivate (d : Fin 8) (p : Fin 16) (g : BitVec 8) (s : State) : State :=
  let k := g.toNat
  gcmd s d p k (fun s => gState (grpRec s p k) = 0 || gState (grpRec s p k) = 3) fun s =>
    let r := grpRec s p k
    let s1 := dropEarly (setW7 (setW7 (setW7 s p k 1 0 1) p k 15 8 0) p k 63 32 0) (gGid r) (gMy r)
    if gMy (grpRec s p k) = 0 then sendMember s1 p k false (bits ownCap 19 12) 4
    else
      match s1.acc.laps.find? fun l => l.1 = p * 256 + k with
      | some l => lapOne { s1 with acc := { s1.acc with laps := s1.acc.laps.filter fun x => x.1 ≠ l.1 } } p k l.2.2
      | none => s1
def execGroupActivate (die : Fin 8) (part : Fin 16) (group : BitVec 8) (s : State) : Res :=
  .next (doGroupActivate die part group s)

/-- DEACTIVATE: INACTIVE on this member, without a message (R423, R454). -/
def doGroupDeactivate (d : Fin 8) (p : Fin 16) (g : BitVec 8) (s : State) : State :=
  let k := g.toNat
  gcmd s d p k (fun s => (gState (grpRec s p k) = 2 || gState (grpRec s p k) = 3) &&
      !(s.acc.colls.any fun c => c.part = p.val && c.grp = k)) fun s => setW7 s p k 1 0 0
def execGroupDeactivate (die : Fin 8) (part : Fin 16) (group : BitVec 8) (s : State) : Res :=
  .next (doGroupDeactivate die part group s)

/-- 100 ms pass without ACTIVE: FAILED with cause 5 (R422). -/
def doGroupActivationTimeout (p : Fin 16) (g : BitVec 8) (s : State) : State :=
  if g.toNat < gtabCount s p ∧ gState (grpRec s p g.toNat) = 1 then groupDown s p g.toNat 5 0xFFF else s
def execGroupActivationTimeout (part : Fin 16) (group : BitVec 8) (s : State) : Res :=
  .next (doGroupActivationTimeout part group s)

/-! ### Replica fingerprints (R442, R443) -/

/-- The next rank of a group, after this one, whose generation is 3; none where no other is. In a group of generation 3
alone each is; else the partner of the link to it tells, which is the rank itself or, a forwarder being of generation 3,
may be one before it. -/
def nextGen3 (s : State) (p k : Nat) (back : Bool) : Option Nat :=
  let r := grpRec s p k
  let n := gRanks r
  ((List.range (n - 1)).map fun i => if back then (gMy r + n - 1 - i) % n else (gMy r + 1 + i) % n).find? fun x =>
    let q := routeOf s p k x
    decide (gGens r = 4) || decide (64 ≤ q ∧ q < 255) || (decide (q < 48) && decide (bits (s.reg (rLnkPartner q)) 10 9 = 3))

/-- Block CRCs of a tensor, element blocks then scale blocks (R441). -/
def tensorCrcs (s : State) (d : DescWord) : List Half :=
  (elemBlocks d ++ scaleBlocks4k d).map fun b => (smGet emptyEntry s.ent b).crc

/-- Fingerprint of block CRCs. -/
def crcsPrint (cs : List Half) : Word := crc64xz (cs.flatMap fun c => leBytes 4 c.toNat)

/-- The two fingerprints of one check: FPX carries the low 32 bits of GSTEP. -/
def fpSame (x y : FpRec) : Bool :=
  x.part = y.part && x.tid = y.tid && x.gstep % 2 ^ 32 = y.gstep % 2 ^ 32 && x.own != y.own

/-- FPX as its data granule (Table 10.15). -/
def fpxNat (tid gstep fp : Nat) : Nat := tid + gstep % 2 ^ 32 * 2 ^ 32 + fp * 2 ^ 64

/-- BLKX as data granules: TENSOR_ID and GSTEP, then the CRCs, four to a granule. -/
def blkxGrans (tid gstep : Nat) (crcs : List Half) : List Nat :=
  (tid + gstep % 2 ^ 32 * 2 ^ 32) :: (chunks 4 (crcs.length + 1) crcs).map fun c =>
    leNat (c.flatMap fun x => leBytes 4 x.toNat)

/-- Sends the block CRCs of a tensor: at most 60 a message, OFFSET the first one's place. -/
def sendBlkx (s : State) (p k dst : Nat) (x : FpRec) : State :=
  let ms := chunks 60 (x.crcs.length + 1) x.crcs
  ((List.range ms.length).zip ms).foldl (fun s q =>
    accSend s p k (leadDie s p) dst 7 0 (240 * q.1) 0 false (blkxGrans x.tid x.gstep q.2)) s

/-- Holds a fingerprint: a rank holds 4,096, and then drops the oldest (R442). -/
def fpHold (s : State) (x : FpRec) : State :=
  let s1 :=
    if (s.acc.held.filter fun y => y.part = x.part).length < 4096 then s
    else match s.acc.held.find? fun y => y.part = x.part with
      | none => s
      | some o =>
        let t := cntInc { s with acc := { s.acc with held := dropFirst (fun y => y = o) s.acc.held } } 0x001A o.part 1
        event0 t 0x0408 (leadDie t o.part) (some o.part)
          [put o.part 0 ||| put (t.fld (rRchk (leadDie t o.part) o.part) 7 0) 4 ||| put o.tid 32, put o.gstep 0]
  { s1 with acc := { s1.acc with held := s1.acc.held ++ [x] } }

/-- A fingerprint meets the other of its pair, or is held. On a mismatch the rank sends its block CRCs to the predecessor,
which answers with its own (R443). -/
def fpMeet (s : State) (k : Nat) (x : FpRec) : State :=
  match s.acc.held.find? (fpSame x) with
  | none => fpHold s x
  | some y =>
    let s1 := cntInc { s with acc := { s.acc with held := dropFirst (fpSame x) s.acc.held } } 0x001B x.part 1
    if x.fp = y.fp then s1
    else
      let mine := if x.own then x else y
      let pred := if x.own then y.rank else x.rank
      sendBlkx { s1 with acc := { s1.acc with wrong := s1.acc.wrong ++ [({ mine with rank := pred }, [])] } }
        x.part k pred mine

/-- The check of an APPLY that wrote its master (R442). -/
def fpSelf (s : State) (p : Nat) (d : DescWord) (gstep : Nat) : State :=
  let rc := rRchk (leadDie s p) p
  let k := s.fld rc 7 0
  if s.rbit rc 8 = false ∨ gstep % max 1 (s.fld rc 31 16) ≠ 0 ∨ gState (grpRec s p k) ≠ 2 then s
  else
    let cs := tensorCrcs s d
    let x : FpRec := ⟨p, true, gMy (grpRec s p k), dTid d, gstep, crcsPrint cs, cs⟩
    let s1 := match nextGen3 s p k false with
      | some r => leadSend s p k r 6 0 [fpxNat x.tid gstep x.fp.toNat]
      | none => s
    let s2 := { s1 with acc := { s1.acc with last := (s1.acc.last.filter fun y => !(y.part = p ∧ y.tid = x.tid)) ++ [x] } }
    if (nextGen3 s p k true).isSome then fpMeet s2 k x else s2

/-- FPX: a fingerprint of the predecessor arrives (R442). -/
def doFpx (h : AccHdr) (tid : BitVec 32) (gstep fp : BitVec 64) (s : State) : State :=
  match groupFor s h.gid.toNat h.dstRank.toNat with
  | none => accForward s none 6 h [fpxNat tid.toNat gstep.toNat fp.toNat]
  | some (p, k) => fpMeet s k ⟨p, false, h.srcRank.toNat, tid.toNat, gstep.toNat, fp, []⟩
def execFpx (h : AccHdr) (tid : BitVec 32) (gstep : BitVec 64) (fp : BitVec 64) (s : State) : Res :=
  .next (doFpx h tid gstep fp s)

/-- Lowest index at which two lists of CRCs differ. -/
def firstDiff (xs ys : List Half) : Nat :=
  ((List.range (max xs.length ys.length)).find? fun i => xs[i]? ≠ ys[i]?).getD 0

/-- The mismatch of a tensor: event 0x0407 and the capture (R443, R457). -/
def fpMismatch (s : State) (p k : Nat) (x : FpRec) (blk : Nat) : State :=
  let d := leadDie s p
  let s1 := event0 s 0x0407 d (some p)
    [put p 0 ||| put k 4 ||| put x.rank 12 ||| put x.tid 32, put blk 0 ||| put (x.gstep % 2 ^ 32) 32]
  s1.capture (rFpmisRanks d) 63 fun s =>
    ((s.setReg (rFpmisId d) (put x.tid 0 ||| put blk 32)).setReg (rFpmisRanks d)
      (put (gMy (grpRec s p k)) 0 ||| put x.rank 12 ||| put p 24 ||| put 1 63)).setReg (rFpmisStep d) (put x.gstep 0)

/-- BLKX: the predecessor's CRCs end a comparison once all are there; the successor's first message is answered with our
own. -/
def doBlkx (h : AccHdr) (tid : BitVec 32) (gstep : BitVec 64) (crcs : List (BitVec 32)) (s : State) : State :=
  match groupFor s h.gid.toNat h.dstRank.toNat with
  | none => accForward s none 7 h (blkxGrans tid.toNat gstep.toNat crcs)
  | some (p, k) =>
    let mine := fun (x : FpRec) => x.part = p && x.tid = tid.toNat && x.gstep % 2 ^ 32 = gstep.toNat % 2 ^ 32
    match s.acc.wrong.find? fun x => mine x.1 && x.1.rank = h.srcRank.toNat with
    | some x =>
      let got := x.2 ++ crcs
      if got.length < x.1.crcs.length then
        { s with acc := { s.acc with wrong := modWhere (fun y => y = x) (fun y => (y.1, got)) s.acc.wrong } }
      else
        fpMismatch { s with acc := { s.acc with wrong := dropFirst (fun y => y = x) s.acc.wrong } } p k x.1
          (firstDiff x.1.crcs (got.take x.1.crcs.length))
    | none =>
      match s.acc.last.find? mine with
      | some x => if h.offset = 0 then sendBlkx s p k h.srcRank.toNat x else s
      | none => s
def execBlkx (h : AccHdr) (tid : BitVec 32) (gstep : BitVec 64) (crcs : List (BitVec 32)) (s : State) : Res :=
  .next (doBlkx h tid gstep crcs s)

/-! ### UPD_FENCE_PASS (R273, R274, R442) -/

/-- An older claim on the same group could pass its fence now (R274). -/
def claimsBefore (s : State) (a : StreamId) (f : InFlight) : Bool :=
  (fenceUse f.w).isSome && (olderOf (ctxAt s a) (strmNo a.strm) f).any fun g =>
    (fenceUse g.w).isSome && !g.passed && decide (fenceGroup g = fenceGroup f) && (fenceTry s a g).isSome

/-- An update or REQNT in flight passes its fence and executes. A poisoned group record stops the
stream (R252). -/
def doUpdFencePass (a : StreamId) (i : BitVec 32) (s : State) : State :=
  match findFlight (strmAt s a) i with
  | none => s
  | some f =>
    if (iOp f.w ≠ 0x90 ∧ iOp f.w ≠ 0x91) ∨ f.passed = true ∨ (getPart s a.part).sched ≠ some a.ctx.val then s
    else
      let load := if (fenceUse f.w).isSome then loadFence s a.part a.ctx (fenceGroup f) else some s
      match load with
      | none => streamFaultAt (dropFlight s a i) a ⟨0x18, 2, 0⟩ (iOp f.w) f.pc
      | some s1 =>
        -- of claims on one group that could pass, the oldest passes first (R274)
        match if claimsBefore s1 a f then none else fenceTry s1 a f with
        | none => s1
        | some s2 =>
          let g := { f with passed := true }
          let r := updRun (setFlight s2 a g) a g
          if r.2 then fpSelf r.1 a.part (f.tds.getD 2 0) (pgGstep (BitVec.ofNat 512 (f.aux.getD 0 0))) else r.1
def execUpdFencePass (at_ : StreamId) (iseq : BitVec 32) (s : State) : Res := .next (doUpdFencePass at_ iseq s)

end Sys2Proof.Machine
end

