-- ==== Sys2Proof/Machine/StreamEv.lean ====
section
/-! DEFINITION. What happens to streams beside their instructions: block fetch, claims, tiles,
completion, and the fence watchdog (R112, R114, R134, R138, R165, R176, R177, R181). -/

namespace Sys2Proof.Machine

/-! ### INSTRUCTION_BLOCK_FETCH (R112, R114) -/

/-- Bytes of block `b` that lie in the program window. -/
def blockBytes (t : Stream) (b : Nat) : Nat := min 1024 (16 * (t.plen - 64 * b))

/-- A block enters the instruction buffer of 64 blocks, in place of the least recently used one. A
block that is bad stops the stream with 0x18 at its first instruction once the stream is at it. -/
def doBlockFetch (a : StreamId) (b : Nat) (s : State) : State :=
  let c := ctxAt s a
  let t := c.strm a.strm
  if c.started = false ∨ (t.st ≠ .issuing ∧ t.st ≠ .waiting) ∨ (getPart s a.part).sched ≠ some a.ctx.val ∨
      t.plen ≤ 64 * b ∨ (t.ibuf.any fun x => x.1 = b) = true then s
  else
    match vread s (t.pbase + 1024 * b) (blockBytes t b) ⟨strmTag a t.iseq, some a.part, 0xFFFFFFFF, 0⟩ with
    | (s1, none) => if t.pc / 64 = b then streamFaultAt s1 a ⟨0x18, 2, 0⟩ 0 (64 * b) else s1
    | (s1, some bs) =>
      let ws := (chunks 16 64 bs).map fun x => BitVec.ofNat 128 (leNat x)
      modStrmAt s1 a fun t => { t with ibuf := ((b, ws) :: t.ibuf).take 64 }
def execInstructionBlockFetch (at_ : StreamId) (block : Nat) (s : State) : Res := .next (doBlockFetch at_ block s)

/-! ### TILE_CLAIM (R176, R177, R181) -/

/-- A product: the tiles of products and fused products check their own core and extent. -/
def isProduct (w : InstrWord) : Bool := decide (0x30 ≤ iOp w) && decide (iOp w ≤ 0x43)

/-- Geometry of a product in flight. -/
def flightGeo (f : InFlight) : Geo := if iOp f.w < 0x40 then fusedGeo f.w f.tds else (cvProd f.w f.tds).g

/-- Items of a dynamic instruction. -/
def itemsOf (f : InFlight) : Nat := if isProduct f.w then (flightGeo f).items else f.nTiles

/-- The next item of the cluster of rank `r` among `n`. -/
def nextItem (f : InFlight) (r n : Nat) : Option Nat :=
  (List.range (itemsOf f)).find? fun t => t % n = r && !f.granted.contains t

/-- Some tile of block `b`, part `j`, of a product has not begun. -/
def blockOpen (f : InFlight) (b : Nat × Nat) (j : Nat) : Bool :=
  let g := flightGeo f
  (g.blockTiles b).any fun u => !f.done.contains (u * g.ks + j)

/-- The in-flight instruction holds work that the core may still take: an unclaimed dynamic item of its cluster,
or a block or tile of its own, by the grid or by its claim, that has a tile not begun (R181). Blocks of the edge engine hold no
core. DEDUCED: a block counts until each of its tiles has begun, since a core runs the tiles of a block one after the other. -/
def holdsWork (s : State) (p : Nat) (f : InFlight) (core : Nat) : Bool :=
  match (partClusters s p).idxOf? (core / 32), coreNo s p core with
  | some r, some n =>
    if iOp f.w = 0x40 && cvEe f.w then false
    else if iDist f.w then
      (nextItem f r (nClusters s p)).isSome || f.claims.any fun c => decide (c.2 = core) &&
        (!isProduct f.w || match (flightGeo f).item c.1 with
          | some (b, j) => blockOpen f b j
          | none => false)
    else if isProduct f.w then
      ((flightGeo f).coreBlocks (nCores s p) n).any fun b => blockOpen f b 0
    else (List.range f.nTiles).any fun t => decide (t % nCores s p = n) && !f.done.contains t
  | _, _ => false

/-- No older instruction of the context holds work that the core may take. -/
def coreFree (s : State) (a : StreamId) (f : InFlight) (core : Nat) : Bool :=
  !(olderOf (ctxAt s a) (strmNo a.strm) f).any fun g => holdsWork s a.part g core

/-- TILE_CLAIM: the cluster's tile counter grants its next item to a core that holds none, once no
older instruction holds work for the core. -/
def doTileClaim (a : StreamId) (i : BitVec 32) (cluster core : Nat) (s : State) : State :=
  let c := ctxAt s a
  let q := getPart s a.part
  match findFlight (c.strm a.strm) i, (partClusters s a.part).idxOf? cluster with
  | some f, some r =>
    let n := nClusters s a.part
    let me := 32 * cluster + core
    if iDist f.w = false ∨ q.sched ≠ some a.ctx.val ∨ q.draining = true ∨ haltedCtx s a.part a.ctx = true ∨
        (c.allStrms.any fun t => t.infl.any fun g => g.claims.any fun x => x.2 = me) = true ∨
        coreFree s a f me = false then s
    else match nextItem f r n with
      | none => s
      | some t => setFlight s a { f with granted := f.granted ++ [t], claims := f.claims ++ [(t, me)] }
  | _, _ => s
def execTileClaim (at_ : StreamId) (iseq : BitVec 32) (cluster core : Fin 32) (s : State) : Res :=
  .next (doTileClaim at_ iseq cluster core s)

/-! ### TILE_END (R165) -/

/-- The tile of an instruction by its class. -/
def tileOf (s : State) (a : StreamId) (f : InFlight) (t core : Nat) (e : StoreErr) : State :=
  match iOp f.w with
  | 0x20 => tileCopy s a f t core e
  | 0x21 => tileCopyt s a f t core e
  | 0x22 => tileFill s a f t core e
  | 0x23 => tileGather s a f t core e
  | 0x24 => tileScatter s a f t core e
  | 0x30 => tileMm s a f t core e
  | 0x31 => tileMm s a f t core e
  | 0x32 => tileMmrs s a f t core e
  | 0x33 => tileMmag s a f t core e
  | 0x40 => tileConv s a f t core e
  | 0x41 => tileConv s a f t core e
  | 0x42 => tileConv s a f t core e
  | 0x43 => tileConv s a f t core e
  | 0x44 => tilePool s a f t core e
  | 0x50 => tileVbin s a f t core e
  | 0x51 => tileVfma s a f t core e
  | 0x52 => tileVun s a f t core e
  | 0x53 => tileVcvt s a f t core e
  | 0x54 => tileNorm s a f t core e
  | 0x55 => tileSmax s a f t core e
  | 0x56 => tileMinv s a f t core e
  | 0x60 => tileTfn s a f t core e
  | 0x61 => tileTder s a f t core e
  | 0x62 => tileTload s a f t core e
  | 0x70 => tileRed s a f t core e
  | 0x71 => tileRed s a f t core e
  | 0x72 => tileRed s a f t core e
  | 0x73 => tileRed s a f t core e
  | 0x80 => tileQnt s a f t core e
  | 0x81 => tileDqnt s a f t core e
  | 0xC0 => tileAmax s a f t core e
  | _ => s

/-- A core gives up an element-tile item whose output is written (R176). -/
def releaseItem (s : State) (a : StreamId) (i : BitVec 32) (t core : Nat) : State :=
  match findFlight (strmAt s a) i with
  | some f =>
    if iDist f.w && f.done.contains t && !(0x30 ≤ iOp f.w && iOp f.w ≤ 0x43) then
      setFlight s a { f with claims := f.claims.filter fun c => c ≠ (t, core) }
    else s
  | none => s

/-- TILE_END: the tile's result, or its containment (R187, R305), on a core that serves no older instruction
first (R181). -/
def doTileEnd (a : StreamId) (i : BitVec 32) (t core : Nat) (e : StoreErr) (s : State) : State :=
  match findFlight (strmAt s a) i with
  | none => s
  | some f =>
    if (getPart s a.part).sched = some a.ctx.val ∧ (isProduct f.w || mayEnd s a f t core) = true ∧
        ((iOp f.w = 0x40 ∧ cvEe f.w = true) ∨ coreFree s a f core = true) then
      releaseItem (tileOf s a f t core e) a i t core else s

/-! ### INSTRUCTION_COMPLETE (R134, R272) -/

/-- Everything that the instruction does has been done. -/
def flightReady (s : State) (a : StreamId) (f : InFlight) : Bool :=
  let op := iOp f.w
  let coll := match findColl s a f.iseq with
    | some c => collFinished c f
    | none => true
  if op = 0x10 ∨ op = 0x11 ∨ op = 0x16 then ((strmAt s a).infl.head?.map InFlight.iseq) = some f.iseq
  else if op = 0x90 ∨ op = 0x91 then f.passed
  else f.nTiles ≤ f.done.length && coll

/-- Effect of an ordered instruction as it completes (R135). -/
def orderedEffect (s : State) (a : StreamId) (f : InFlight) : State :=
  match iOp f.w with
  | 0x10 => bcsetEffect s a f.w f.sa
  | 0x11 => bcincEffect s a f.w
  | 0x16 => eventEffect s a f.w f.sa f.iseq
  | _ => s

/-- The instruction names a TDC, as no ordered scalar instruction does. -/
def namesTdc (f : InFlight) : Bool := 0x20 ≤ iOp f.w && (roles f.w).2 / 4 % 2 = 1 && dValid (f.tds.getD 2 0)

/-- The instruction wrote its TDC: it names one, and an update was not skipped. -/
def wroteTdc (f : InFlight) : Bool :=
  namesTdc f && (iOp f.w ≠ 0x90 || !f.done.isEmpty)

/-- Counters of flags and collectives (Table 15.6). -/
def countComplete (s : State) (a : StreamId) (f : InFlight) : State :=
  let k := strmNo a.strm
  let s1 := if f.nf then cntInc s (0x0002 + k) a.part 1 else s
  let s2 := if f.sat then cntInc s1 (0x0005 + k) a.part 1 else s1
  match findColl s2 a f.iseq with
  | some c => cntInc (dropColl s2 c) 0x0018 a.part 1
  | none => s2

/-- INSTRUCTION_COMPLETE: reader counts and locks first, then counters, the signal, and the end of a
context whose last instruction this was. -/
def doInstructionComplete (a : StreamId) (i : BitVec 32) (s : State) : State :=
  match findFlight (strmAt s a) i with
  | none => s
  | some f =>
    if flightReady s a f = false then s
    else
      let r := if a.strm = .B ∧ namesTdc f = true then fenceRelease s a (f.tds.getD 2 0) else (s, false)
      if r.2 then
        streamFaultAt (dropFlight r.1 a i) a ⟨0x1C, 2, 0⟩ (iOp f.w) f.pc
      else
        let s1 := countComplete (fenceDone (orderedEffect r.1 a f) a f) a f
        let s2 := modStrmAt (dropFlight s1 a i) a fun t =>
          if cmpEvery s a.part ≠ 0 && wroteTdc f then
            { t with wrote := t.wrote ++ [(f.iseq.toNat, iOp f.w, f.tds.getD 2 0)] } else t
        settle (signal s2 a f.w) a.part a.ctx
def execInstructionComplete (at_ : StreamId) (iseq : BitVec 32) (s : State) : Res :=
  .next (doInstructionComplete at_ iseq s)

/-! ### FENCE_WATCHDOG_EXPIRY (R138, Table 10.13) -/

/-- A wait longer than the period: a waiting stream stops with 0x12; so does one whose update waits
at its fence; a collective that waits for data fails with cause 6. -/
def doFenceWatchdogExpiry (a : StreamId) (s : State) : State :=
  let t := strmAt s a
  if (getPart s a.part).sched ≠ some a.ctx.val then s
  else if t.st = .waiting then streamFault s a ⟨0x12, 2, 0⟩ (((bufferWord t).map iOp).getD 0)
  else match t.infl.find? fun f => (fenceUse f.w).isSome && !f.passed && (iOp f.w = 0x90 || iOp f.w = 0x91) with
    | some f => streamFaultAt (dropFlight s a f.iseq) a ⟨0x12, 2, 0⟩ (iOp f.w) f.pc
    | none =>
      match t.infl.findSome? fun f => (findColl s a f.iseq).filter fun c => !collFinished c f with
      | some c => collFail s c 6 0xFFF 0x3F
      | none => s
def execFenceWatchdogExpiry (at_ : StreamId) (s : State) : Res := .next (doFenceWatchdogExpiry at_ s)

end Sys2Proof.Machine
end

