-- ==== Sys2Proof/Machine/Prep.lean ====
section
/-! DEFINITION. Preparation in the Atomizer as fixed functions of the sample's bytes: text (R342 to
R347), pictures (R337 to R340) and audio (R341). -/

namespace Sys2Proof.Machine

/-! ### UTF-8 (R342) -/

/-- A continuation byte in a range. -/
def contIn (bs : List Byte) (i lo hi : Nat) : Bool :=
  match bs[i]? with
  | some b => decide (lo ≤ b.toNat) && decide (b.toNat ≤ hi)
  | none => false

/-- Range of the second byte after a lead byte, and the number of continuation bytes (RFC 3629). -/
def utf8Lead (b : Nat) : Option (Nat × Nat × Nat) :=
  if 0xC2 ≤ b ∧ b ≤ 0xDF then some (0x80, 0xBF, 1)
  else if b = 0xE0 then some (0xA0, 0xBF, 2)
  else if b = 0xED then some (0x80, 0x9F, 2)
  else if 0xE1 ≤ b ∧ b ≤ 0xEF then some (0x80, 0xBF, 2)
  else if b = 0xF0 then some (0x90, 0xBF, 3)
  else if 0xF1 ≤ b ∧ b ≤ 0xF3 then some (0x80, 0xBF, 3)
  else if b = 0xF4 then some (0x80, 0x8F, 3)
  else none

/-- Number of bytes at the head that form a code point or a maximal invalid subpart, and whether they
are valid. -/
def utf8Head (bs : List Byte) : Nat × Bool :=
  let b := (bs.getD 0 0).toNat
  if b < 0x80 then (1, true)
  else match utf8Lead b with
    | none => (1, false)
    | some (lo, hi, n) =>
      if !contIn bs 1 lo hi then (1, false)
      else if n = 1 then (2, true)
      else if !contIn bs 2 0x80 0xBF then (2, false)
      else if n = 2 then (3, true)
      else if !contIn bs 3 0x80 0xBF then (3, false)
      else (4, true)

/-- U+FFFD in UTF-8. -/
def replacement : List Byte := [0xEF, 0xBF, 0xBD]

/-- The code points of a text, as bytes each, invalid subparts replaced, and whether one was. -/
def utf8Split : Nat → List Byte → List (List Byte) × Bool
  | 0, _ => ([], false)
  | _, [] => ([], false)
  | fuel + 1, b :: bs =>
    let h := utf8Head (b :: bs)
    let r := utf8Split fuel ((b :: bs).drop h.1)
    if h.2 then ((b :: bs).take h.1 :: r.1, r.2) else (replacement :: r.1, true)

/-- The code point that valid UTF-8 bytes spell. -/
def codePoint (c : List Byte) : Nat :=
  let b := fun i => (c.getD i 0).toNat
  match c.length with
  | 1 => b 0
  | 2 => b 0 % 32 * 64 + b 1 % 64
  | 3 => b 0 % 16 * 4096 + b 1 % 64 * 64 + b 2 % 64
  | _ => b 0 % 8 * 262144 + b 1 % 64 * 4096 + b 2 % 64 * 64 + b 3 % 64

/-- The White_Space property of Unicode 15.1 (R342). PRESUMED: the list is that standard's. -/
def whiteSpace (c : Nat) : Bool :=
  (0x09 ≤ c && c ≤ 0x0D) || c = 0x20 || c = 0x85 || c = 0xA0 || c = 0x1680 ||
    (0x2000 ≤ c && c ≤ 0x200A) || c = 0x2028 || c = 0x2029 || c = 0x202F || c = 0x205F || c = 0x3000

/-- The pieces of a text: with PRETOK a new piece starts at every white space. -/
def pieces (pretok : Bool) : List (List Byte) → List (List (List Byte))
  | [] => []
  | c :: cs =>
    match pieces pretok cs with
    | [] => [[c]]
    | [] :: ps => [c] :: ps
    | (d :: p) :: ps => if pretok && whiteSpace (codePoint d) then [c] :: (d :: p) :: ps else (c :: d :: p) :: ps

/-! ### The vocabulary image (R345 to R347) -/

def vU32 (v : List Byte) (o : Nat) : Nat := leNat ((v.drop o).take 4)
def vKind (v : List Byte) : Nat := (v.getD 6 0).toNat
def vEnts (v : List Byte) : Nat := vU32 v 8
def vMerges (v : List Byte) : Nat := vU32 v 12
def vPool (v : List Byte) : Nat := vU32 v 16
def vBos (v : List Byte) : Nat := vU32 v 20
def vEos (v : List Byte) : Nat := vU32 v 24
def vPad (v : List Byte) : Nat := vU32 v 28
def vUnk (v : List Byte) : Nat := vU32 v 32
def noTok : Nat := 0xFFFFFFFF

/-- Offset of the scores, of the merges, and of the pool. -/
def vScoreOff (v : List Byte) : Nat := 64 + 8 * vEnts v
def vMergeOff (v : List Byte) : Nat := vScoreOff v + if vKind v = 1 then 4 * vEnts v else 0
def vPoolOff (v : List Byte) : Nat := vMergeOff v + 12 * vMerges v

/-- Bytes of the whole image that a header declares. -/
def vSize (v : List Byte) : Nat := vPoolOff v + vPool v

/-- String of entry `i`. -/
def vStr (v : List Byte) (i : Nat) : List Byte :=
  (v.drop (vPoolOff v + vU32 v (64 + 8 * i))).take (v.getD (64 + 8 * i + 4) 0).toNat

/-- Strings of all entries. -/
def vStrs (v : List Byte) : List (List Byte) := (List.range (vEnts v)).map (vStr v)

/-- Merges: left, right, result, by rank. -/
def vMergeList (v : List Byte) : List (Nat × Nat × Nat) :=
  (List.range (vMerges v)).map fun j =>
    let o := vMergeOff v + 12 * j
    (vU32 v o, vU32 v (o + 4), vU32 v (o + 8))

def vScore (v : List Byte) (i : Nat) : Val := decodeVal 0 (vU32 v (vScoreOff v + 4 * i))

/-- The header's ranges (Table 8.10). -/
def vHeadOk (h : List Byte) : Bool :=
  vU32 h 0 = 0x31424356 && leNat ((h.drop 4).take 2) = 1 && vKind h ≤ 1 && h.getD 7 0 = 0 &&
    1 ≤ vEnts h && vEnts h ≤ 262144 && vMerges h ≤ (if vKind h = 0 then 262143 else 0) &&
    vPool h ≤ 0x400000 && ((h.drop 36).take 28).all (· = 0)

/-- An id is absent or below NENT. -/
def idOk (v : List Byte) (i : Nat) : Bool := i = noTok || decide (i < vEnts v)

/-- The checks of R347 on a whole image, under ADD_BOS and ADD_EOS. -/
def vocabOk (v : List Byte) (bos eos : Bool) : Bool :=
  let ss := vStrs v
  vHeadOk v && idOk v (vBos v) && idOk v (vEos v) && idOk v (vPad v) && idOk v (vUnk v) &&
    ((List.range (vEnts v)).all fun i =>
      let n := (v.getD (64 + 8 * i + 4) 0).toNat
      1 ≤ n && n ≤ 64 && ((v.drop (64 + 8 * i + 5)).take 3).all (· = 0) &&
        decide (vU32 v (64 + 8 * i) + n ≤ vPool v)) &&
    (if vKind v = 0 then
      ((List.range 256).all fun b => (ss.filter fun t => t = [BitVec.ofNat 8 b]).length = 1) &&
        (vMergeList v).all fun m =>
          decide (m.1 < vEnts v) && decide (m.2.1 < vEnts v) && decide (m.2.2 < vEnts v) &&
            ss.getD m.2.2 [] = ss.getD m.1 [] ++ ss.getD m.2.1 []
     else ((List.range (vEnts v)).all fun i => (vScore v i).isFin) && vUnk v ≠ noTok) &&
    (!bos || vBos v ≠ noTok) && (!eos || vEos v ≠ noTok)

/-! ### Tokenisers (R343, R333): tokens and merge or search steps -/

/-- Rank and result of the merge of a pair. -/
def mergeOf (ms : List (Nat × Nat × Nat)) (l r : Nat) : Option (Nat × Nat) :=
  (ms.findIdx? fun m => m.1 = l ∧ m.2.1 = r).map fun j => (j, ((ms[j]?).getD (0, 0, 0)).2.2)

/-- The adjacent pair of lowest rank, leftmost on ties: rank, place, result. -/
def bestPair (ms : List (Nat × Nat × Nat)) : Nat → List Nat → Option (Nat × Nat × Nat)
  | k, l :: r :: ts =>
    let rest := bestPair ms (k + 1) (r :: ts)
    match mergeOf ms l r, rest with
    | none, x => x
    | some m, none => some (m.1, k, m.2)
    | some m, some x => if m.1 ≤ x.1 then some (m.1, k, m.2) else some x
  | _, _ => none

/-- Merges applied to a piece until no pair has one; each pass that ranks pairs counts them. -/
def bpe (ms : List (Nat × Nat × Nat)) : Nat → List Nat → List Nat × Nat
  | 0, ts => (ts, 0)
  | fuel + 1, ts =>
    if ts.length ≤ 1 then (ts, 0)
    else match bestPair ms 0 ts with
      | none => (ts, ts.length - 1)
      | some (_, k, r) =>
        let x := bpe ms fuel (ts.take k ++ r :: ts.drop (k + 2))
        (x.1, x.2 + (ts.length - 1))

/-- The entry that spells the bytes, the lowest id. -/
def entryFor (ss : List (List Byte)) (b : List Byte) : Option Nat := ss.findIdx? fun t => t = b

/-- Entries that match the text at a boundary. -/
def matchesAt (ss : List (List Byte)) (text : List Byte) : Nat :=
  (ss.filter fun t => t.isPrefixOf text).length

/-- Of the entries that spell the bytes, one of the highest score, the lowest id on equal ones (R343). -/
def entryBest (v : List Byte) (ss : List (List Byte)) (b : List Byte) : Option Nat :=
  (List.range ss.length).foldl (fun best i =>
    if ss.getD i [] ≠ b then best
    else match best with
      | none => some i
      | some k => if (vScore v k).lt (vScore v i) then some i else best) none

/-- Best segmentation that ends at code point `j`, from the best of every earlier boundary: the
highest FP32 sum, the longer last token on equal sums. -/
def uniStep (v : List Byte) (ss : List (List Byte)) (cs : List (List Byte))
    (best : List (Option (Val × List Nat))) (j : Nat) : Option (Val × List Nat) :=
  (List.range j).foldl (fun acc i =>
    let piece := ((cs.drop i).take (j - i)).flatten
    let unk := i + 1 = j && !((List.range (cs.length - i)).any fun n =>
      (entryFor ss ((cs.drop i).take (n + 1)).flatten).isSome)
    let tok := if unk then some (vUnk v) else entryBest v ss piece
    match tok, (best[i]?).getD none with
    | some t, some p =>
      let sc := if i = 0 then vScore v t else r32 (p.1.add (vScore v t))
      (match acc with
        | none => some (sc, p.2 ++ [t])
        | some a => if a.1.lt sc then some (sc, p.2 ++ [t]) else acc)
    | _, _ => acc) none

/-- Unigram segmentation of a piece of code points. -/
def unigram (v : List Byte) (ss : List (List Byte)) (cs : List (List Byte)) : List Nat × Nat :=
  let best := (List.range cs.length).foldl (fun b j => b ++ [uniStep v ss cs b (j + 1)])
    [some (valZero, [])]
  let steps := (List.range cs.length).foldl (fun n i => n + matchesAt ss (cs.drop i).flatten) 0
  ((((best.getLast?).getD none).map Prod.snd).getD [], steps)

/-- Tokens and steps of one piece. -/
def tokPiece (v : List Byte) (ss : List (List Byte)) (ms : List (Nat × Nat × Nat))
    (cs : List (List Byte)) : List Nat × Nat :=
  if vKind v = 0 then
    let ts := cs.flatten.map fun b => (entryFor ss [b]).getD 0
    bpe ms ts.length ts
  else unigram v ss cs

/-- A tokenised text: tokens with BOS and EOS, work units, and whether it was repaired; none where it
is invalid and `reject` stands. -/
def tokenise (v : List Byte) (pretok bos eos reject : Bool) (text : List Byte) :
    Option (List Nat × Nat × Bool) :=
  let u := utf8Split text.length text
  if u.2 && reject then none
  else
    let ps := (pieces pretok u.1).map (tokPiece v (vStrs v) (vMergeList v))
    let ts := (if bos then [vBos v] else []) ++ ps.flatMap Prod.fst ++ if eos then [vEos v] else []
    let steps := ps.foldl (fun n p => n + p.2) 0
    some (ts, ceilDiv text.length 64 + ts.length + ceilDiv steps 16, u.2)

/-! ### Pictures (R337 to R340) -/

/-- A colour channel by row and column. -/
abbrev Chan := Nat → Nat → Val

def ratio (a : Int) (b : Nat) : Val := r32 ((Val.ofInt a).quot (.ofNat b))

/-- Code of a plane at a pixel of the picture; a smaller plane is upsampled by replication. -/
def planeAt (p : Pic) (k y x : Nat) : Nat :=
  let q := p.planes.getD k ⟨0, 0, []⟩
  q.px.getD (y / ceilDiv p.h q.h * q.w + x / ceilDiv p.w q.w) 0

/-- Clamped to [0, 1]. -/
def clamp01 (v : Val) : Val := (v.max valZero).min valOne

/-- Weights of red and blue in luma, in ten-thousandths: BT.601, BT.709, BT.2020. PRESUMED: those of the standards. -/
def lumaWeights (matrix : Fin 3) : Nat × Nat :=
  match matrix with | 0 => (2990, 1140) | 1 => (2126, 722) | 2 => (2627, 593)

/-- Coefficient of Cb (1) or Cr (2) in output channel `c`, rounded to FP32 (R337). PRESUMED: the exact ratios of the luma
weights, not the decimals that JFIF prints. -/
def colourCoef (matrix : Fin 3) (c i : Nat) : Val :=
  let k := lumaWeights matrix
  let w := if i = 1 then k.2 else k.1
  if c = 1 then ratio (-((2 * w * (10000 - w) : Nat) : Int)) (10000 * (10000 - k.1 - k.2)) else ratio (2 * (10000 - w) : Nat) 10000

/-- One output channel from luma and chroma: fused products in the order Y, Cb, Cr. -/
def fromYuv (matrix : Fin 3) (c : Nat) (y cb cr : Val) : Val :=
  let k := colourCoef matrix c
  let a := if c = 0 then y else r32 (((k 1).mul cb).add y)
  clamp01 (if c = 2 then a else r32 (((k 2).mul cr).add a))

/-- Channel `c` (0 R, 1 G, 2 B) of a decoded picture; a matrix that is not signalled is BT.709. -/
def rgb (p : Pic) (c : Nat) : Chan := fun y x =>
  match p.colour with
  | .png d => ratio (planeAt p (if p.planes.length ≤ 2 then 0 else c) y x) (2 ^ d - 1)
  | .jpeg =>
    let l := ratio (planeAt p 0 y x) 255
    if p.planes.length = 1 then clamp01 l
    else fromYuv 0 c l (ratio ((planeAt p 1 y x : Int) - 128) 255) (ratio ((planeAt p 2 y x : Int) - 128) 255)
  | .yuv d full m =>
    let s : Nat := 2 ^ (d - 8)
    let l := if full then ratio (planeAt p 0 y x) (2 ^ d - 1)
      else ratio ((planeAt p 0 y x : Int) - (16 * s : Nat)) (219 * s)
    let ch := fun k =>
      if full then ratio ((planeAt p k y x : Int) - (128 * s : Nat)) (2 ^ d - 1)
      else ratio ((planeAt p k y x : Int) - (128 * s : Nat)) (224 * s)
    fromYuv (m.getD 1) c l (ch 1) (ch 2)

/-- Bilinear value at output index `x` of a line `f` of `win` pixels resized to `wout` (R339). -/
def bilin (f : Nat → Val) (win wout x : Nat) : Val :=
  let sx := r32 ((Val.ofInt (((2 * x + 1) * win : Nat) - (wout : Int))).quot (.ofNat (2 * wout)))
  let sx := (sx.max valZero).min (.ofNat (win - 1))
  let x0 := sx.floor.toNat
  let x1 := min (x0 + 1) (win - 1)
  let a := sx.sub (.ofNat x0)
  r32 ((a.mul (r32 ((f x1).sub (f x0)))).add (f x0))

/-- Area value at output index `x` (R339); bilinear where the line grows. -/
def areaAt (f : Nat → Val) (win wout x : Nat) : Val :=
  if win < wout then bilin f win wout x
  else (List.range win).foldl (fun acc i =>
    let lo := max (i * wout) (x * win)
    let hi := min ((i + 1) * wout) ((x + 1) * win)
    if lo < hi then r32 (((f i).mul (ratio ((hi - lo : Nat)) win)).add acc) else acc) valZero

/-- Resizing of a channel, horizontally, then vertically. -/
def resize (area : Bool) (w h rw rh : Nat) (c : Chan) : Chan := fun y x =>
  let one := if area then areaAt else bilin
  one (fun yy => one (c yy) w rw x) h rh y

/-- Size of the resized picture (R338). -/
def resizedTo (cover : Bool) (w h rw rh : Nat) : Nat × Nat :=
  if !cover then (rw, rh)
  else if rh * w ≤ rw * h then (rw, ceilDiv (h * rw) w) else (ceilDiv (w * rh) h, rh)

/-- Parameters of picture preparation: FILT, RMODE, CROP, CHANORD, OUT_FMT, MEAN and SCALE codes, seed,
and the bucket's RW, RH, CW, CH. -/
structure PicPar where
  area  : Bool
  cover : Bool
  rand  : Bool
  bgr   : Bool
  fmt   : Nat
  mean  : List Nat
  scale : List Nat
  seed  : Word
  rw    : Nat
  rh    : Nat
  cw    : Nat
  ch    : Nat

/-- Crop offset along one axis. -/
def cropAt (q : PicPar) (axis size crop sid epoch : Nat) : Nat :=
  if q.rand then gen q.seed (0xC0A00000 + axis) sid (put epoch 0) * (size - crop + 1) / 65536
  else (size - crop) / 2

/-- Normalised code of a value in channel `k` of the output. -/
def normCode (fmt : Nat) (mean scale : List Nat) (k : Nat) (v : Val) : Nat :=
  roundWide fmt (r32 ((r32 (v.sub (decodeVal 0 (mean.getD k 0)))).mul (decodeVal 0 (scale.getD k 0))))

/-- Output code at channel `k`, row, column of a prepared picture. -/
def picCode (q : PicPar) (p : Pic) (sid epoch k y x : Nat) : Nat :=
  let r := resizedTo q.cover p.w p.h q.rw q.rh
  let c := resize q.area p.w p.h r.1 r.2 (rgb p (if q.bgr then 2 - k else k))
  normCode q.fmt q.mean q.scale k
    (c (cropAt q 1 r.2 q.ch sid epoch + y) (cropAt q 0 r.1 q.cw sid epoch + x))

/-- All codes of a prepared picture, dense: column fastest, then row, then channel. -/
def picDense (q : PicPar) (p : Pic) (sid epoch : Nat) : List Nat :=
  (List.range 3).flatMap fun k => (List.range q.ch).flatMap fun y =>
    (List.range q.cw).map fun x => picCode q p sid epoch k y x

/-- The same in NCHWc16: channels 3 to 15 are +0. -/
def picBlocked (q : PicPar) (p : Pic) (sid epoch : Nat) : List Nat :=
  (List.range q.ch).flatMap fun y => (List.range q.cw).flatMap fun x =>
    ((List.range 3).map fun k => picCode q p sid epoch k y x) ++ List.replicate 13 0

/-- Index of output frame `j` of `t` among `n` frames (R340). -/
def frameIdx (strided : Bool) (stride t n : Nat) (seed : Word) (sid epoch j : Nat) : Nat :=
  if strided then
    min (gen seed 0xC0A00002 sid (put epoch 0) * max 1 (n - (t - 1) * stride) / 65536 + j * stride) (n - 1)
  else (2 * j + 1) * n / (2 * t)

/-! ### Audio (R341) -/

/-- A decoded sample as FP32. -/
def pcmVal (f : PcmFmt) (c : Int) : Val :=
  match f with
  | .signed b => r32 ((Val.ofInt c).scale (-((b : Int) - 1)))
  | .unsigned8 => r32 ((Val.ofInt (c - 128)).scale (-7))
  | .float32 => decodeVal 0 c.toNat

/-- The channels that go on: one average, or channels 0 and 1. -/
def mixDown (stereo : Bool) (ch : List (List Val)) : List (List Val) :=
  if stereo then [ch.getD 0 [], if ch.length = 1 then ch.getD 0 [] else ch.getD 1 []]
  else
    let n := (ch.getD 0 []).length
    [(List.range n).map fun i =>
      r32 (((ch.drop 1).foldl (fun a c => r32 (a.add (c.getD i valZero))) ((ch.getD 0 []).getD i valZero)).quot
        (.ofNat ch.length))]

/-- Resampling: 32 taps in ascending order; taps outside the signal read 0. -/
def resample (rin rate : Nat) (x : List Val) : List Val :=
  if rin = rate then x
  else (List.range (x.length * rate / rin)).map fun k =>
    let first := Config.resampleFirst rin rate k
    let ph := Config.resamplePhase rin rate k % 256
    (List.range 32).foldl (fun acc (t : Nat) =>
      let i : Int := first + (t : Int)
      let v := if i < 0 then valZero else x.getD i.toNat valZero
      r32 ((v.mul (decodeVal 0 (Config.resampleCoef rin rate ph t).toNat)).add acc)) valZero

/-- Parameters of audio preparation. -/
structure AudPar where
  rate   : Nat
  stereo : Bool
  logmel : Bool
  nfft   : Nat
  hop    : Nat
  bands  : Nat
  fmin   : Nat
  fmax   : Nat
  eps    : Nat
  fmt    : Nat
  mean   : Nat
  scale  : Nat

/-- Number of frames of a signal of `n` samples. -/
def frameCount (q : AudPar) (n : Nat) : Nat := if n = 0 then 0 else (n - 1) / q.hop + 1

/-- Frame `i` windowed, as FP32 codes. -/
def windowed (q : AudPar) (x : List Val) (i : Nat) : List Nat :=
  (List.range q.nfft).map fun t =>
    code32 (r32 ((x.getD (i * q.hop + t) valZero).mul (decodeVal 0 (Config.window q.nfft t).toNat)))

/-- The power of bin `k`: the square of the real part, then that of the imaginary part, fused. The manual does not order the
two. DESIGN CHOICE. -/
def binPower (nfft : Nat) (codes : List Nat) (k : Nat) : Val :=
  let re := decodeVal 0 (Config.fftRe nfft codes k).toNat
  let im := decodeVal 0 (Config.fftIm nfft codes k).toNat
  r32 ((im.mul im).add (r32 (re.mul re)))

/-- Band values of frame `i`. -/
def melFrame (q : AudPar) (x : List Val) (i : Nat) : List Val :=
  let codes := windowed q x i
  let power := (List.range (q.nfft / 2 + 1)).map (binPower q.nfft codes)
  (List.range q.bands).map fun b =>
    let m := (List.range (q.nfft / 2 + 1)).foldl (fun acc k =>
      r32 (((power.getD k valZero).mul
        (decodeVal 0 (Config.melWeight q.rate q.nfft q.bands q.fmin q.fmax b k).toNat)).add acc)) valZero
    (builtin 5 false).eval (m.max (decodeVal 0 q.eps))

/-- Prepared audio: for a waveform one list per channel, for log-mel one list per frame, as codes. -/
def prepAudio (q : AudPar) (f : PcmFmt) (rin : Nat) (ch : List (List Int)) : List (List Nat) :=
  let sig := (mixDown q.stereo (ch.map fun c => c.map (pcmVal f))).map (resample rin q.rate)
  let out := if q.logmel then
      let x := sig.getD 0 []
      (List.range (frameCount q x.length)).map (melFrame q x)
    else sig
  out.map fun r => r.map (normCode q.fmt [q.mean] [q.scale] 0)

end Sys2Proof.Machine
end

