-- ==== Sys2Proof/Machine/Pipes.lean ====
section
/-! DEFINITION. The Atomizer's pipelines as shared operations: descriptor fields and START's checks
(R323, R324, R643), shards (R327, R330), failures (R348 to R351), buckets, batches and ring slots
(R352 to R357). -/

namespace Sys2Proof.Machine

/-! ### The PTP time base (R634) -/

/-- PTP time in ns: from the target of the last accepted edge at the rate of the last interval; while a
backward correction stands, half that rate from the count that stood at the edge. Before the first
accepted edge the count is 0. -/
def ptpNow (s : State) : Nat :=
  if s.ptp.edges = 0 then 0
  else
    let r := 40 * (s.clk - s.ptp.at_) * 1000000000 / max 1 s.ptp.per
    max (s.ptp.target + r) (s.ptp.was + r / 2)

/-! ### Pipelines -/

def emptyPipe : Pipe := ⟨[], [], [], 0, [], [], [], [], [], 0, none, 0, 0, false, false, [], []⟩

def pipeKey (m n : Nat) : Nat := 16 * m + n
def getPipe (s : State) (m n : Nat) : Pipe := smGet emptyPipe s.pipes (pipeKey m n)
def setPipe (s : State) (m n : Nat) (p : Pipe) : State :=
  { s with pipes := smSet emptyPipe s.pipes (pipeKey m n) p }
def modPipe (s : State) (m n : Nat) (f : Pipe → Pipe) : State := setPipe s m n (f (getPipe s m n))

/-- Field of word `w` of the descriptor. -/
def pF (p : Pipe) (w hi lo : Nat) : Nat := bits (p.desc.getD w 0) hi lo

def pKind (p : Pipe) : Nat := pF p 0 3 0
def pLive (p : Pipe) : Bool := pF p 0 4 4 = 1
def pReplay (p : Pipe) : Bool := pF p 0 5 5 = 1
def pPart (p : Pipe) : Nat := pF p 0 11 8
def pFmt (p : Pipe) : Nat := pF p 0 15 12
def pBlocked (p : Pipe) : Bool := pF p 0 17 16 = 1
def pBgr (p : Pipe) : Bool := pF p 0 18 18 = 1
/-- Number of buckets. -/
def pBuckets (p : Pipe) : Nat := pF p 0 29 24 + 1
def pTid (p : Pipe) : Nat := pF p 0 63 32
def pRing (p : Pipe) : Nat := pF p 1 47 0
def pSlotSize (p : Pipe) : Nat := 4096 * pF p 2 23 0
def pDepth (p : Pipe) : Nat := pF p 2 39 24
def pLow (p : Pipe) : Nat := pF p 2 55 40
def pSub (p : Pipe) : Nat := pF p 3 47 0
def pSubLog (p : Pipe) : Nat := pF p 3 52 48
def pSpill (p : Pipe) : Nat := pF p 4 47 0
def pQdepth (p : Pipe) : Nat := pF p 5 24 0
def pTmo (p : Pipe) : Nat := pF p 5 47 32
def pRes (p : Pipe) : Nat := pF p 6 47 0
def pResCount (p : Pipe) : Nat := pF p 7 31 0
def pResWarn (p : Pipe) : Nat := pF p 7 63 32
def pSeed (p : Pipe) : Word := p.desc.getD 8 0
def pExp (p : Pipe) : Nat := if pF p 9 63 48 = 0 then 2048 else pF p 9 63 48
def pMean (p : Pipe) : List Nat := [pF p 14 31 0, pF p 14 63 32, pF p 15 31 0]
def pScale (p : Pipe) : List Nat := [pF p 15 63 32, pF p 16 31 0, pF p 16 63 32]
def pStale (p : Pipe) : Nat := pF p 17 47 0
def pFlush (p : Pipe) : Nat := pF p 18 31 0
def pVocab (p : Pipe) : Nat := pF p 11 47 0
def bBound (p : Pipe) (b : Nat) : Nat := pF p (24 + 2 * b) 31 0
def bBatch (p : Pipe) (b : Nat) : Nat := pF p (24 + 2 * b) 47 32
def bRw (p : Pipe) (b : Nat) : Nat := pF p (25 + 2 * b) 15 0
def bRh (p : Pipe) (b : Nat) : Nat := pF p (25 + 2 * b) 31 16
def bCw (p : Pipe) (b : Nat) : Nat := pF p (25 + 2 * b) 47 32
def bCh (p : Pipe) (b : Nat) : Nat := pF p (25 + 2 * b) 63 48
def bPad (p : Pipe) (b : Nat) : Nat := pF p (25 + 2 * b) 31 0
def pT (p : Pipe) : Nat := pF p 11 15 8
def pLogmel (p : Pipe) : Bool := pF p 11 21 21 = 1
def pStereo (p : Pipe) : Bool := pF p 11 20 20 = 1
def pMels (p : Pipe) : Nat := pF p 11 46 39 + 1
def pEos (p : Pipe) : Bool := pF p 11 50 50 = 1

/-- BMAX and HS (R355). -/
def pBmax (p : Pipe) : Nat := (List.range (pBuckets p)).foldl (fun n b => max n (bBatch p b)) 0
def pHs (p : Pipe) : Nat := 4096 * ceilDiv (64 + 32 * pBmax p) 4096

/-- Shape of one sample of bucket `b` (Table 8.15): DIM0 and the dimensions between it and N. -/
def sampleDims (p : Pipe) (b : Nat) : List Nat :=
  match pKind p with
  | 0 => if pBlocked p then [16, bCw p b, bCh p b, 1] else [bCw p b, bCh p b, 3]
  | 1 => [bCw p b, bCh p b, 3, pT p]
  | 2 => if pLogmel p then [pMels p, bBound p b] else [bBound p b, if pStereo p then 2 else 1]
  | _ => [bBound p b]

/-- Bytes of one element of the batch. -/
def pElemBytes (p : Pipe) : Nat := fmtBits (pFmt p) / 8

/-- STRIDE1 of the batch, a multiple of 16. -/
def rowStride (p : Pipe) (b : Nat) : Nat := 16 * ceilDiv ((sampleDims p b).headD 0 * pElemBytes p) 16

/-- DIM0 rows of one sample. -/
def sampleRows (p : Pipe) (b : Nat) : Nat := ((sampleDims p b).drop 1).foldl (fun n d => n * d) 1

/-- Bytes of tensor data of `n` samples. -/
def batchBytes (p : Pipe) (b n : Nat) : Nat := n * sampleRows p b * rowStride p b

/-- The largest slot need (R356). -/
def slotNeed (p : Pipe) : Nat :=
  pHs p + (List.range (pBuckets p)).foldl (fun m b => max m (batchBytes p b (bBatch p b))) 0

/-! ### START's checks (R324, R643) -/

/-- Bits that each word of the descriptor may hold, by KIND and LIVE. -/
def descMask (p : Pipe) (i : Nat) : Word :=
  let k := pKind p
  let pic := decide (k ≤ 1)
  let live := pLive p
  match i with
  | 0 => mk 4 0 ||| (if live then m1 5 else 0) ||| mk 15 8 ||| (if pic then mk 18 16 else 0) ||| mk 29 24 ||| mk 63 32
  | 1 => mk 47 0
  | 2 => mk 55 0
  | 3 => mk 52 0
  | 4 => mk 47 0
  | 5 => mk 24 0 ||| if live then mk 47 32 else 0
  | 6 => if live then 0 else mk 47 0
  | 7 => if live then 0 else mk 63 0
  | 8 => mk 63 0
  | 9 => mk 63 0
  | 10 => mk 11 0
  | 11 =>
    if k = 0 then mk 2 0
    else if k = 1 then mk 2 0 ||| mk 16 8 ||| mk 31 24
    else if k = 2 then mk 21 0 ||| if pLogmel p then mk 46 22 else 0
    else mk 51 0
  | 12 => if k = 2 && pLogmel p then mk 63 0 else 0
  | 13 => if k = 2 && pLogmel p then mk 31 0 else 0
  | 14 => if pic then mk 63 0 else if k = 2 then mk 31 0 else 0
  | 15 => if pic then mk 63 0 else if k = 2 then mk 63 32 else 0
  | 16 => if pic then mk 63 0 else 0
  | 17 => if live then mk 47 0 else 0
  | 18 => if live then mk 31 0 else 0
  | _ =>
    let b := (i - 24) / 2
    if i < 24 ∨ pBuckets p ≤ b then 0
    else if i % 2 = 0 then mk 47 0
    else if pic then mk 63 0 else mk 31 0

/-- Fields of the kind lie in their ranges (Table 8.3). -/
def kindRanges (p : Pipe) : Bool :=
  match pKind p with
  | 0 => true
  | 1 => decide (1 ≤ pT p) && decide (pT p ≤ 64) && (pF p 11 16 16 = 0 || 1 ≤ pF p 11 31 24)
  | 2 =>
    let rate := pF p 11 19 0
    let lo := decodeVal 0 (pF p 12 31 0)
    let hi := decodeVal 0 (pF p 12 63 32)
    let eps := decodeVal 0 (pF p 13 31 0)
    decide (8000 ≤ rate) && decide (rate ≤ 192000) &&
      (!pLogmel p ||
        (!pStereo p && decide (8 ≤ pF p 11 25 22) && decide (pF p 11 25 22 ≤ 12) &&
          decide (1 ≤ pF p 11 38 26) && decide (pF p 11 38 26 ≤ 2 ^ pF p 11 25 22) &&
          !lo.isNan && !lo.lt valZero && lo.lt hi && !((Val.fin false rate (-1)).lt hi) &&
          eps.isFin && valZero.lt eps))
  | _ => decide (pVocab p % 64 = 0) && decide (pFmt p = 0)

/-- Buckets: BOUND rises strictly, BATCH 1 to 1,024, crops fit (R324, Table 8.11). -/
def bucketsOk (p : Pipe) : Bool :=
  (List.range (pBuckets p)).all fun b =>
    decide (1 ≤ bBatch p b) && decide (bBatch p b ≤ 1024) &&
      (b = 0 || decide (bBound p (b - 1) < bBound p b)) &&
      (decide (2 ≤ pKind p) || (decide (bCw p b ≤ bRw p b) && decide (bCh p b ≤ bRh p b)))

/-- Reserved fields are 0 and fields lie in their ranges (cause 0x01). -/
def descFieldsOk (s : State) (m : Nat) (p : Pipe) : Bool :=
  decide (pKind p ≤ 3) && s.rbit rCap3 (52 + 4 * m + pKind p) &&
    (!pLive p || pKind p = 0 || pKind p = 2) &&
    ((List.range 152).all fun i => (p.desc.getD i 0) &&& ~~~ descMask p i = 0) &&
    decide (pFmt p ≤ 2) && decide (pF p 0 17 16 ≤ (if pKind p = 0 then 1 else 0)) &&
    decide (pRing p % 4096 = 0) && decide (2 ≤ pDepth p) && decide (pLow p < pDepth p) &&
    decide (pSub p % 4096 = 0) && decide (4 ≤ pSubLog p) && decide (pSubLog p ≤ 20) &&
    decide (pSpill p % 4096 = 0) && decide (pQdepth p % 16 = 0) && decide (pQdepth p ≤ 2 ^ 24) &&
    decide (pRes p % 16 = 0) && (!pLive p || decide (1 ≤ pTmo p)) && kindRanges p && bucketsOk p

/-- Every byte from `a`, `n` of them, lies in HBM ranges of the partition. -/
def hbmSpan (s : State) (p a n : Nat) : Bool :=
  decide (0 < n) && inPartHbm s p a && inPartHbm s p (a + n - 1) &&
    (List.range ((a + n - 1) / 0x200000 - a / 0x200000)).all fun i =>
      inPartHbm s p ((a / 0x200000 + i + 1) * 0x200000)

/-- Where the header of the vocabulary declares a possible size, the size. -/
def vocabSize (s : State) (p : Pipe) : Nat :=
  let h := readBytes s (pVocab p) 64
  if vHeadOk h then vSize h else 64

/-- The areas that the descriptor names lie where they must (cause 0x02). -/
def descAreasOk (s : State) (p : Pipe) : Bool :=
  let q := pPart p
  hbmSpan s q (pRing p) (max 1 (pDepth p * pSlotSize p)) && hbmSpan s q (pSub p) (64 * 2 ^ pSubLog p) &&
    (pLive p || hbmSpan s q (pRes p) (max 1 (16 * pResCount p))) &&
    (!pLive p || hbmSpan s q (pStale p) 1024) &&
    (pKind p ≠ 3 || (hbmSpan s q (pVocab p) 64 && hbmSpan s q (pVocab p) (vocabSize s p))) &&
    rangeInPart s q (pSpill p) (max 1 (64 * pQdepth p))

/-- 64 KiB units of vocabulary memory of an image. -/
def vocabUnits (n : Nat) : Nat := ceilDiv n 65536

/-- Units that the other pipelines of the site hold, of 1,024 (R346). -/
def vocabUsed (s : State) (m n : Nat) : Nat :=
  (List.range 16).foldl (fun k i =>
    if i = n then k else k + vocabUnits (getPipe s m i).vocab.length) 0

/-- The vocabulary image read, if it passes: by R347, and without a POISONED line. -/
def vocabImage (s : State) (p : Pipe) : Option (List Byte) :=
  match nread s (pVocab p) (vocabSize s p) with
  | none => none
  | some v => if vocabOk v (pF p 11 49 49 = 1) (pEos p) then some v else none

/-- The descriptor as START reads it; none from a POISONED line. -/
def readDesc (s : State) (a : Nat) : Option Pipe :=
  (nread s a 1216).map fun bs =>
    { emptyPipe with desc := (chunks 8 152 bs).map fun b => BitVec.ofNat 64 (leNat b), armed := true }

/-- What START finds: the cause of its refusal, or the pipeline. -/
def startCheck (s : State) (m n : Nat) : Nat ⊕ Pipe :=
  match readDesc s (s.fld (rRingDesc m n) 47 6 * 64) with
  | none => .inl 0x01
  | some p =>
    if !descFieldsOk s m p then .inl 0x01
    else if !descAreasOk s p then .inl 0x02
    else if pSlotSize p < slotNeed p then .inl 0x03
    else if pKind p = 3 then
      match vocabImage s p with
      | none => .inl 0x04
      | some v =>
        if 1024 < vocabUsed s m n + vocabUnits v.length then .inl 0x05
        else .inr { p with vocab := v }
    else .inr p

/-! ### Ring registers -/

/-- STATE of a ring: 0 IDLE, 1 RUNNING, 2 STOPPING, 3 FAILED (Table 8.20). -/
def ringState (s : State) (m n : Nat) : Nat := s.fld (rRingCtl m n) 3 2
def setRing (s : State) (m n st : Nat) : State := s.setFld (rRingCtl m n) 3 2 st
def running (s : State) (m n : Nat) : Bool := ringState s m n = 1

/-- The site holds an admitted Atomizer (R321). -/
def mediaOk (s : State) (m : Nat) : Bool := s.rbit rCap0 (8 + m) && s.fld rCap0 11 10 = 1

/-- Counter `k` of the ring (Table 15.6). -/
def ringCnt (m n k : Nat) : Nat := 0x4000 + 0x100 * m + 0x10 * n + k

/-- VOCAB_FREE follows the pipelines that hold a vocabulary. -/
def setVocabFree (s : State) (m : Nat) : State :=
  s.setFld (rAtzStat m) 9 2 ((1024 - vocabUsed s m 16) / 16)

/-- Event of a ring: first payload word site, ring and a value; second word (R364). -/
def ringEvent (s : State) (m n code v w1 : Nat) : State :=
  event0 s code (9 + m) none [put (9 + m) 0 ||| put n 4 ||| put v 8, put w1 0]

/-- The PULL that waits on the ring stops its stream with 0x1E (R325). -/
def faultPulls (s : State) (m n : Nat) : State :=
  (List.range 128).foldl (fun s k =>
    [Strm.F, .B, .U].foldl (fun s st =>
      let a : StreamId := ⟨Fin.ofNat 16 (k / 8), Fin.ofNat 8 (k % 8), st⟩
      if (strmAt s a).wait = .intake m n ∧ (strmAt s a).st = .waiting then streamFault s a ⟨0x1E, 2, 0⟩ 0xB0 else s) s) s

/-- A pipeline stops: samples, unpublished batches, queued entries and the binding are gone; its
vocabulary stays until IDLE (R325, R346). -/
def haltPipe (s : State) (m n st : Nat) : State :=
  let s1 := modPipe s m n fun p =>
    { p with subs := [], samples := [], eods := [], members := [], closed := [], ready := [], taken := none, live := [] }
  let s2 := setQueue s1 (qIntake m n) emptyQueue
  faultPulls ((setRing s2 m n st).setFld (rRingCtl m n) 9 4 0) m n

/-- A RUNNING pipeline fails (R326, R362, R364). -/
def failPipe (s : State) (m n cause : Nat) : State :=
  if running s m n then
    let pos := (s.reg (rRingPos m n)).toNat
    ringEvent (haltPipe (s.setFld (rRingCtl m n) 23 16 cause) m n 3) m n 0x0305 cause pos
  else s

/-- Every running pipeline of partition `p` fails with cause 0x08 (R326). -/
def failPipesOf (s : State) (p : Nat) : State :=
  (List.range 32).foldl (fun s k =>
    if pPart (getPipe s (k / 16) (k % 16)) = p then failPipe s (k / 16) (k % 16) 0x08 else s) s

/-! ### Shards (R327, R330) -/

/-- The Atomizer as a reader (Table 7.9). -/
def mediaReader (p : Pipe) : Reader := ⟨⟨0, 0, 3, 3⟩, some (pPart p), 0xFFFFFFFF, 0⟩

/-- A field of a byte string. -/
def bF (b : List Byte) (o n : Nat) : Nat := leNat ((b.drop o).take n)

/-- The header of a shard is right (R330): address, fields, check code, extent and index. -/
def shardOk (s : State) (p : Pipe) (base : Nat) (h : List Byte) : Bool :=
  bF h 0 4 = 0x3146535A && bF h 4 2 = 1 && bF h 6 2 = 0 && bF h 12 4 = 0 && bF h 40 20 = 0 &&
    bF h 60 4 = (crc32c (h.take 60)).toNat &&
    1 ≤ bF h 8 4 && bF h 8 4 ≤ 16777216 && bF h 16 8 % 32 = 0 &&
    64 ≤ bF h 24 8 && bF h 24 8 ≤ 2 ^ 36 && bF h 16 8 + 32 * bF h 8 4 ≤ bF h 24 8 &&
    hbmSpan s (pPart p) base (bF h 24 8)

/-- The header of the shard that word `w` names, if it passes its checks; a verifying read. -/
def shardHeader (s : State) (p : Pipe) (w : Word) : State × Option (List Byte) :=
  let base := bits w 47 0
  if bits w 63 48 ≠ 0 ∨ base % 64 ≠ 0 ∨ hbmSpan s (pPart p) base 64 = false then (s, none)
  else match vread s base 64 (mediaReader p) with
    | (s1, none) => (s1, none)
    | (s1, some h) => (s1, if shardOk s1 p base h then some h else none)

/-- Least h with c ≤ 2^h, at most 64. -/
def clog2 (c : Nat) : Nat := ((List.range 64).find? fun h => c ≤ 2 ^ h).getD 64

/-- One walk of the four rounds of R331. -/
def permRounds (h : Nat) (key : Word) (x : Nat) : Nat :=
  let r := (List.range 4).foldl (fun (p : Nat × Nat) j =>
    let f := (genMix (key + put j 32 + put p.2 0)).toNat % 2 ^ h
    (p.2, p.1 ^^^ f)) (x / 2 ^ h, x % 2 ^ h)
  r.1 * 2 ^ h + r.2

/-- Rounds until the value lies below `c`. -/
def permWalk (h : Nat) (key : Word) (c : Nat) : Nat → Nat → Nat
  | 0, x => x
  | fuel + 1, x =>
    let y := permRounds h key x
    if y < c then y else permWalk h key c fuel y

/-- perm(k, C, seed, epoch) (R331). -/
def perm (k c : Nat) (seed : Word) (epoch : Nat) : Nat :=
  let n := clog2 c
  let h := max 1 (n / 2 + n % 2)
  permWalk h (genMix (seed ^^^ put epoch 0)) c (2 ^ (2 * h)) k

/-! ### Samples -/

def emptySample : Sample :=
  ⟨0, 0, 0, 0, 0, 0, none, 0, 0, 0, .assigned, 0, 0, 0, 0, 0, 0, 0, false, false, 0, 0, 0, []⟩

def findSample (p : Pipe) (pos : Nat) : Option Sample := p.samples.find? fun x => x.pos = pos

/-- The pipe with the sample of a position replaced or added. -/
def putSample (p : Pipe) (x : Sample) : Pipe :=
  { p with samples := (p.samples.filter fun y => y.pos ≠ x.pos) ++ [x] }

/-- A position of stored data that has not begun: its shard, index entry and epoch (R331). -/
def freshSample (p : Pipe) (pos : Nat) : Option Sample :=
  (p.subs.find? fun e => decide (e.p0 ≤ pos) && decide (pos < e.p0 + e.count)).map fun e =>
    let j := if e.shuffle then perm (pos - e.p0) e.count (pSeed p) e.epoch else pos - e.p0
    { emptySample with pos := pos, shard := e.shard, idx := e.first + j, epoch := e.epoch }

/-- INTAKE_FAIL record (R351, Table 12.5). -/
def intakeFail (s : State) (m n : Nat) (p : Pipe) (x : Sample) (drop : Bool) (sid : Nat) : State :=
  let ws := [put (9 + m) 0 ||| put n 4 ||| put x.cause 8 ||| put (b2n drop) 12, put x.pos 0, put x.sid 0, put sid 0]
  slgWrite (modPipe s m n fun q => { q with fails := q.fails ++ [ws] }) (pPart p) ⟨0x10, 3 + m, none, 0, ws⟩

/-- LIVE_DROP record (R362). -/
def liveDrop (s : State) (m n : Nat) (p : Pipe) (x : Sample) (reason : Nat) : State :=
  slgWrite s (pPart p) ⟨0x11, 3 + m, none, 0,
    [put (9 + m) 0 ||| put n 4 ||| put reason 8 ||| put x.strm 12, put x.sid 0, put x.capt 0, put x.took 0]⟩

/-- ATZ_RINGn_FAIL captures the first failure (R369). -/
def captFail (s : State) (m n pos cause : Nat) : State :=
  s.capture (rRingFail m n) 63 fun s =>
    s.setReg (rRingFail m n) (put (pos % 2 ^ 48) 0 ||| put cause 48 ||| put 1 63)

/-! ### Buckets and batches (R352 to R354) -/

/-- The bucket of a key. -/
def bucketOf (p : Pipe) (key : Nat) : Nat :=
  ((List.range (pBuckets p)).find? fun b => key ≤ bBound p b).getD (pBuckets p - 1)

/-- The members of a bucket become a batch. -/
def closeBatch (p : Pipe) (b : Nat) (partial_ : Bool) : Pipe :=
  let xs := smGet [] p.members b
  match xs.head?, xs.getLast? with
  | some x, some y =>
    { p with members := smSet [] p.members b []
             closed := p.closed ++ [⟨b, xs, false, partial_, y.epoch, x.pos, y.pos⟩] }
  | _, _ => p

/-- The live record of a replay closes bucket `b` at this position (R362). -/
def replayFlush (p : Pipe) (b pos : Nat) : Bool :=
  pReplay p && p.live.any fun r =>
    decide (bits (r.getD 0 0) 7 0 = 0x13) && decide (bits (r.getD 2 0) 17 12 = b) && decide ((r.getD 3 0).toNat = pos)

/-- LIVE_FLUSH record (R362). -/
def liveFlush (s : State) (m n : Nat) (p : Pipe) (b pos : Nat) : State :=
  slgWrite s (pPart p) ⟨0x13, 3 + m, none, 0, [put (9 + m) 0 ||| put n 4 ||| put b 12, put pos 0]⟩

/-- A prepared sample joins the batch of its bucket; a full batch closes (R352, R353, R361). -/
def joinBucket (s : State) (m n : Nat) (x : Sample) : State :=
  let p := getPipe s m n
  let b := bucketOf p x.key
  let p1 := { p with members := smMod [] p.members b fun l => l ++ [x] }
  if (smGet [] p1.members b).length = bBatch p b then setPipe s m n (closeBatch p1 b false)
  else if replayFlush p b x.pos then
    liveFlush (setPipe s m n { closeBatch p1 b true with
      live := dropFirst (fun r => decide (bits (r.getD 0 0) 7 0 = 0x13) && decide ((r.getD 3 0).toNat = x.pos)) p1.live })
      m n p b x.pos
  else setPipe s m n p1

/-- Positions leave in ascending order as they are resolved, up to an EOD entry (R353, R354). -/
def drainPos : Nat → Nat → Nat → State → State
  | 0, _, _, s => s
  | fuel + 1, m, n, s =>
    let p := getPipe s m n
    let pos := (s.reg (rRingPos m n)).toNat
    if p.eods.head? = some pos then s
    else match findSample p pos with
      | none => s
      | some x =>
        if x.stage = .ready ∨ x.stage = .dropped then
          let p1 := { p with samples := p.samples.filter fun y => y.pos ≠ pos
                             subs := p.subs.filter fun e => pos + 1 < e.p0 + e.count }
          let s1 := (setPipe s m n p1).setReg (rRingPos m n) (BitVec.ofNat 64 (pos + 1))
          drainPos fuel m n (if x.stage = .ready then joinBucket s1 m n x else s1)
        else s

def drainRing (s : State) (m n : Nat) : State := drainPos ((getPipe s m n).samples.length + 1) m n s

/-- A sample fails (R348, R351, R360): a kept live frame is dropped, a stored sample waits for its
reserve entry. -/
def failSample (s : State) (m n : Nat) (x : Sample) (cause : Nat) : State :=
  let p := getPipe s m n
  let y := { x with stage := if pLive p then .dropped else .failed, fails := x.fails + 1, cause := cause
                    first := if x.fails = 0 then cause else x.first }
  let s1 := captFail (setPipe s m n (putSample p y)) m n x.pos cause
  if pLive p then drainRing (cntInc (liveDrop s1 m n p y cause) (ringCnt m n 12) 0 1) m n
  else cntInc s1 (ringCnt m n cause) 0 1

/-! ### Ring slots (R355 to R357) -/

def slotAddr (p : Pipe) (seq : Nat) : Nat := pRing p + seq % pDepth p * pSlotSize p

/-- Sample record (R356). -/
def sampleRecord (x : Sample) : List Byte :=
  leBytes 8 x.sid ++ leBytes 8 x.pos ++ leBytes 4 x.label ++ leBytes 4 x.valid ++
    leBytes 4 (min x.orig 0xFFFFFFFF) ++
    leBytes 2 (b2n (x.fails ≠ 0 : Bool) + 2 * b2n x.trunc + 4 * b2n x.fixed + 16 * x.first +
      256 * min x.fails 255) ++ [0, 0]

/-- FLAGS of a batch (Table 8.14). -/
def batchFlags (p : Pipe) (b : Batch) : Nat :=
  b2n b.part + 2 * b2n (pLive p) + 4 * b2n (b.members.any fun x => x.fails ≠ 0) +
    8 * b2n (b.members.any fun x => x.trunc) + 16 * b2n b.marker

/-- The batch header. -/
def batchHeader (p : Pipe) (b : Batch) (seq : Nat) : List Byte :=
  (leBytes 4 0x48425A41 ++ leBytes 2 1 ++ leBytes 1 b.bucket ++ leBytes 1 (batchFlags p b)) ++
    leBytes 8 seq ++ leBytes 4 b.members.length ++ leBytes 4 b.epoch ++ leBytes 8 b.first ++
    leBytes 8 b.close ++ leBytes 8 (pHs p) ++ leBytes 8 (batchBytes p b.bucket b.members.length) ++
    leBytes 8 (b.members.foldl (fun n x => max n (if pLive p then x.capt else 0)) 0)

/-- The tensor rows of one sample, each padded to the row stride. -/
def sampleBytes (p : Pipe) (b : Nat) (x : Sample) : List Byte :=
  (chunks ((sampleDims p b).headD 1) (sampleRows p b) x.data).flatMap fun r =>
    let bs := r.flatMap fun c => leBytes (pElemBytes p) c
    bs ++ List.replicate (rowStride p b - bs.length) 0

/-- The bytes of the whole slot; bytes that no field takes are 0. -/
def slotBytes (p : Pipe) (b : Batch) (seq : Nat) : List Byte :=
  let h := batchHeader p b seq ++ b.members.flatMap sampleRecord
  let d := h ++ List.replicate (pHs p - h.length) 0 ++ b.members.flatMap (sampleBytes p b.bucket)
  d ++ List.replicate (pSlotSize p - d.length) 0

/-- The descriptor that PULL leaves in TDC (R143, R357): PGROUP and bit 61 keep their values. -/
def batchDesc (p : Pipe) (b : Batch) (seq : Nat) (old : DescWord) : DescWord :=
  let dims := sampleDims p b.bucket ++ [b.members.length]
  let blocked := decide (pKind p = 0) && pBlocked p
  let d := setBits (setBits old 47 0 (slotAddr p seq + pHs p)) 60 48
    (pFmt p + dims.length * 64 + (if blocked then 512 else 0))
  let d := setBits d 63 62 3
  let d := (List.range 5).foldl (fun d k => setBits d (64 + 32 * k + 31) (64 + 32 * k) (dims.getD k 1)) d
  let d := (List.range 4).foldl (fun d k => setBits d (256 + 32 * k + 31) (256 + 32 * k)
    (if k + 1 < dims.length then
      ((dims.drop 1).take k).foldl (fun n x => n * x) (rowStride p b.bucket) else 0)) d
  setBits (setBits d 255 224 (pTid p)) 447 384 0

end Sys2Proof.Machine
end

