-- ==== Sys2Proof/Machine/Intake.lean ====
section
/-! DEFINITION. The commands of the Atomizer: START and STOP, submissions, samples, batches, live
frames, and faults of the die (R322 to R364, R598). -/

namespace Sys2Proof.Machine

/-! ### START and STOP (R324, R325, R367) -/

/-- A CMD that the state does not accept is discarded and sets ERR_WR. -/
def ringErr (s : State) (m n : Nat) : State := s.setRBit (rRingCtl m n) 10 true

/-- Counters of the ring are cleared (R602). -/
def clearRingCnts (s : State) (m n : Nat) : State :=
  (List.range 15).foldl (fun s k => cntPut s (ringCnt m n k) 0 ⟨0, false⟩) s

/-- The state after an accepted START. -/
def acceptStart (s : State) (m n : Nat) (p : Pipe) : State :=
  let s1 := setQueue (setPipe s m n p) (qIntake m n)
    (freshQueue (if pLive p then 1 else 0) (pSpill p) (pQdepth p) (pTmo p))
  let s2 := { s1 with ringOwn := smSet none s1.ringOwn (pipeKey m n) (some (pPart p)) }
  let s3 := ((setRing s2 m n 1).setFld (rRingCtl m n) 23 16 0).setFld (rRingCtl m n) 9 4 0
  let s4 := [rRingTail m n, rRingHead m n, rRingEmit m n, rRingPos m n, rRingRes m n].foldl
    (fun s r => s.setReg r 0) s3
  setVocabFree (clearRingCnts s4 m n) m

def doAtzStart (m n : Nat) (s : State) : State :=
  if mediaOk s m = false then s
  else if s.rbit (rAtzStat m) 0 = false ∨ (ringState s m n ≠ 0 ∧ ringState s m n ≠ 3) then ringErr s m n
  else match startCheck s m n with
    | .inl cause => (setRing s m n 3).setFld (rRingCtl m n) 23 16 cause
    | .inr p => acceptStart s m n p
def execAtzStart (site : Fin 2) (ring : Fin 16) (s : State) : Res := .next (doAtzStart site ring s)

def doAtzStop (m n : Nat) (s : State) : State :=
  if mediaOk s m = false then s
  else if ringState s m n = 1 ∨ ringState s m n = 3 then haltPipe s m n 2 else ringErr s m n
def execAtzStop (site : Fin 2) (ring : Fin 16) (s : State) : Res := .next (doAtzStop site ring s)

/-- PIPELINE_IDLE: STOPPING becomes IDLE and the vocabulary memory is free (R325, R346). -/
def doPipelineIdle (m n : Nat) (s : State) : State :=
  if ringState s m n = 2 then
    setVocabFree (setRing (modPipe s m n fun p => { p with vocab := [] }) m n 0) m
  else s
def execPipelineIdle (site : Fin 2) (ring : Fin 16) (s : State) : Res := .next (doPipelineIdle site ring s)

/-! ### Submissions (R328 to R331) -/

/-- SUB_TAIL_WRITE: the host names the entries written (R368). -/
def doSubTailWrite (m n : Nat) (v : BitVec 32) (s : State) : State :=
  if mediaOk s m then s.setReg (rRingTail m n) (v.setWidth 64) else s
def execSubTailWrite (site : Fin 2) (ring : Fin 16) (value : BitVec 32) (s : State) : Res :=
  .next (doSubTailWrite site ring value s)

/-- The producer side of an intake queue: the next entry of the submission list enters the queue; a
line read POISONED sets every POISON bit; an EOD marker releases the group (R310, R311, R330). -/
def pushSubmission (m n : Nat) (bad : Nat) (s : State) : State :=
  let p := getPipe s m n
  let q := qIntake m n
  if running s m n = false ∨ p.pushed % 2 ^ 32 = s.fld (rRingTail m n) 31 0 ∨ queueStalls (getQueue s q) then s
  else
    let a := pSub p + 64 * (p.pushed % 2 ^ pSubLog p)
    let w := BitVec.ofNat 512 (leNat (rawBytes s a 64))
    let pois := if lstAt s a = 2 then 127 else bad
    let ws := (List.range 7).map fun i => if lstAt s a = 0 then 0 else dW w i
    let s1 := modPipe (queuePut s q ws pois) m n fun p => { p with pushed := p.pushed + 1 }
    if !pLive p && bit (ws.getD 2 0) 33 then queueRelease s1 q else s1

/-- The entry that the pipeline takes: the one it holds, or the head of its queue. -/
def takeEntry (s : State) (m n : Nat) : Option (QEntry × State) :=
  let r := match (getPipe s m n).taken with
    | some e => some (e, modPipe s m n fun p => { p with taken := none })
    | none => queueTake s (qIntake m n) 0
  r.map fun x => (x.1, x.2.setFld (rRingHead m n) 31 0 ((x.2.fld (rRingHead m n) 31 0 + 1) % 2 ^ 32))

/-- Positions of a stored-data entry are assigned (R331). -/
def assignPositions (s : State) (m n : Nat) (w : List Word) (h : List Byte) : State :=
  let first := bits (w.getD 1 0) 31 0
  let cnt := bits (w.getD 1 0) 63 32
  let total := bF h 8 4
  if total < first + cnt then failPipe s m n 0x06
  else
    let c := if cnt = 0 then total - first else cnt
    modPipe s m n fun p => { p with
      subs := p.subs ++ [⟨p.nextPos, c, bits (w.getD 0 0) 47 0, first, bits (w.getD 2 0) 31 0, bit (w.getD 2 0) 32⟩]
      nextPos := p.nextPos + c }

/-- SUBMISSION_TAKE: checks the entry and the shard header (R330). -/
def doSubmissionTake (m n : Nat) (s : State) : State :=
  let p := getPipe s m n
  if running s m n = false ∨ pLive p = true then s
  else match takeEntry s m n with
    | none => s
    | some (e, s1) =>
      let w := fun i => e.words.getD i 0
      let rest := [3, 4, 5, 6].any fun i => w i ≠ 0
      if e.pois ≠ 0 then failPipe s1 m n 0x07
      else if bit (w 2) 33 then
        if w 0 ≠ 0 ∨ w 1 ≠ 0 ∨ w 2 ≠ m1 33 ∨ rest then failPipe s1 m n 0x06
        else modPipe s1 m n fun p => { p with eods := p.eods ++ [p.nextPos] }
      else if bits (w 0) 63 48 ≠ 0 ∨ bits (w 2) 63 34 ≠ 0 ∨ rest then failPipe s1 m n 0x06
      else match shardHeader s1 p (w 0) with
        | (s2, none) => failPipe s2 m n 0x06
        | (s2, some h) => assignPositions s2 m n e.words h
def execSubmissionTake (site : Fin 2) (ring : Fin 16) (s : State) : Res := .next (doSubmissionTake site ring s)

/-! ### Admission (R332 to R334) -/

/-- KIND of a codec (Table 8.7); 4 for a code above 11. -/
def codecKind (c : Nat) : Nat :=
  if c ≤ 1 then 0 else if c ≤ 3 then 1 else if c ≤ 10 then 2 else if c = 11 then 3 else 4

/-- A video format of Table 8.7. -/
def videoOk (f : VidFmt) : Bool :=
  f.c420 && match f.codec, f.profile with
    | .h264, .high => f.depth = 8 && decide (f.level ≤ 52)
    | .hevc, .main => f.depth = 8 && decide (f.level ≤ 52)
    | .hevc, .main10 => (f.depth = 8 || f.depth = 10) && decide (f.level ≤ 52)
    | .av1, .main => (f.depth = 8 || f.depth = 10) && decide (f.level ≤ 53)
    | _, _ => false

/-- An audio coding that Table 8.7 gives a codec. -/
def audioOk (codec : Nat) (f : AudForm) : Bool :=
  match codec, f with
  | 4, .pcm _ => true
  | 5, .flac b => decide (b ≤ 24)
  | 6, .flac b => decide (b ≤ 24)
  | 6, .opus => true
  | 7, .aacLc => true
  | 8, .aacLc => true
  | 9, .mp3 g l => (g = 1 || g = 2) && l = 3
  | 10, .opus => true
  | _, _ => false

/-- The options and limits of Table 8.7; what lies outside them is cause 3. -/
def hdrOk (codec : Nat) (h : SampleHdr) : Bool :=
  match h with
  | .jpeg _ _ n d proc sub => d = 8 && (n = 1 || n = 3) && proc != .other && (n = 1 || sub)
  | .png _ _ _ _ anim => !anim
  | .video _ _ f _ _ => videoOk f
  | .audio _ _ _ f => audioOk codec f
  | .text | .corrupt => true

/-- Frames of a video that are decoded: from the nearest random-access point at or before each chosen frame up to it, in
display order, each once (R340). The manual does not say which of them are references. DESIGN CHOICE. -/
def framesDecoded (p : Pipe) (x : Sample) (frames : Nat) (points : List Nat) : Nat :=
  let chosen := (List.range (pT p)).map
    (frameIdx (pF p 11 16 16 = 1) (pF p 11 31 24) (pT p) frames (pSeed p) x.sid x.epoch)
  let from_ := fun f => (points.filter fun g => g ≤ f).foldl max 0
  ((List.range frames).filter fun g => chosen.any fun f => decide (from_ f ≤ g) && decide (g ≤ f)).length

/-- Declared size D, or the cause that the headers alone give (R332, Table 8.8). -/
def declared (p : Pipe) (x : Sample) (h : SampleHdr) : Nat ⊕ Nat :=
  match h, pKind p with
  | .jpeg w h c _ _ _, 0 => if 32768 < w ∨ 32768 < h then .inl 1 else .inr (w * h * c)
  | .png w h c d _, 0 => if 32768 < w ∨ 32768 < h then .inl 1 else .inr (w * h * c * ceilDiv d 8)
  | .video w h f n pts, 1 =>
    if 8192 < w ∨ 8192 < h then .inl 1
    else if n = 0 then .inl 4
    else .inr (ceilDiv (w * h * 3 * (if f.depth = 10 then 2 else 1) * framesDecoded p x n pts) 2)
  | .audio c r n _, 2 =>
    if 8 < c ∨ r < 8000 ∨ 192000 < r ∨ 2 ^ 31 < n then .inl 1 else .inr (n * c * 2)
  | .text, 3 => if 0x1000000 < x.size then .inl 1 else .inr x.size
  | _, _ => .inl 4

/-- Admission of a sample under its headers: its failure cause, or its budget (R332 to R334). The manual does not order the
causes; here an unsupported option comes before a size. DESIGN CHOICE. -/
def workBudget (p : Pipe) (x : Sample) (h : SampleHdr) : Nat ⊕ Nat :=
  if hdrOk x.codec h = false then .inl 3
  else match declared p x h with
    | .inl c => .inl c
    | .inr d => if pExp p * x.size < d then .inl 2 else .inr (pF p 9 31 0 + pF p 9 47 32 * ceilDiv d 1024)

/-- The cause that the index entry alone gives: a codec of another kind, or one that is disabled (R334). -/
def codecCause (p : Pipe) (x : Sample) : Nat :=
  if codecKind x.codec ≠ pKind p ∨ (pLive p = true ∧ pKind p = 2 ∧ x.codec ≠ 4) then 3
  else if pF p 10 x.codec x.codec = 0 then 9 else 0

/-- The sample as its index entry describes it; the second part is false for a wrong entry
(Tables 8.5, 8.12). -/
def indexSample (x : Sample) (e : List Byte) (shardBytes : Nat) : Sample × Bool :=
  ({ x with addr := x.shard + bF e 8 8, size := bF e 16 4, codec := bF e 20 1, sid := bF e 0 8, label := bF e 24 4
            crc := if bF e 21 1 % 2 = 1 then some (BitVec.ofNat 32 (bF e 28 4)) else none },
   bF e 21 1 ≤ 1 && bF e 22 2 = 0 && 1 ≤ bF e 16 4 && bF e 16 4 ≤ 2 ^ 30 && bF e 8 8 + bF e 16 4 ≤ shardBytes)

/-- Address of index entry `i` of a shard. -/
def indexAddr (s : State) (shard i : Nat) : Nat := shard + readNat s (shard + 16) 8 + 32 * i

/-- A sample is admitted and its decode begins, or it fails. Its bytes are read, verifying, for their headers: a poisoned
block fails it here, wherever it lies. -/
def admitSample (s : State) (m n : Nat) (x : Sample) : State :=
  let p := getPipe s m n
  if codecCause p x ≠ 0 then failSample s m n x (codecCause p x)
  else match vread s x.addr x.size (mediaReader p) with
    | (s1, none) => failSample s1 m n x 6
    | (s1, some bs) => match workBudget p x (headersOf x.codec bs) with
      | .inl c => failSample s1 m n x c
      | .inr b => modPipe s1 m n fun p => putSample p { x with stage := .decoding, units := b }

/-- SAMPLE_START (R332): of a position whose sample has not begun, replacements included. -/
def doSampleStart (m n pos : Nat) (s : State) : State :=
  let p := getPipe s m n
  let x := match findSample p pos with
    | some y => if y.stage = .assigned then some y else none
    | none => if (s.reg (rRingPos m n)).toNat ≤ pos then freshSample p pos else none
  match running s m n, x with
  | true, some x =>
    if pLive p then admitSample s m n x
    else
      let a := indexAddr s x.shard x.idx
      (match vread s a 32 (mediaReader p) with
        | (s1, none) => failSample s1 m n { x with sid := leNat (rawBytes s1 a 8) } 6
        | (s1, some e) =>
          let y := indexSample x e (readNat s1 (x.shard + 24) 8)
          if y.2 then admitSample s1 m n y.1 else failSample s1 m n y.1 8)
  | _, _ => s
def execSampleStart (site : Fin 2) (ring : Fin 16) (pos : Nat) (s : State) : Res :=
  .next (doSampleStart site ring pos s)

/-- A decoding sample of a running pipeline. -/
def decoding (s : State) (m n pos : Nat) : Option Sample :=
  if running s m n then (findSample (getPipe s m n) pos).filter fun x => x.stage = .decoding else none

/-! ### Resolution (R336 to R344, R348) -/

/-- Picture parameters of bucket `b`. -/
def picPar (p : Pipe) (b : Nat) : PicPar :=
  ⟨pF p 11 0 0 = 1, pF p 11 1 1 = 1, pF p 11 2 2 = 1, pBgr p, pFmt p, pMean p, pScale p, pSeed p,
    bRw p b, bRh p b, bCw p b, bCh p b⟩

def audPar (p : Pipe) : AudPar :=
  ⟨pF p 11 19 0, pStereo p, pLogmel p, 2 ^ pF p 11 25 22, pF p 11 38 26, pMels p, pF p 12 31 0, pF p 12 63 32,
    pF p 13 31 0, pFmt p, (pMean p).headD 0, (pScale p).headD 0⟩

/-- A picture sample prepared: key, ORIG and codes (R338, R340, R352); `frames` those of a video. -/
def prepPics (p : Pipe) (x : Sample) (frames : Nat) (ps : List Pic) : Sample :=
  let q := ps.headD ⟨0, 0, .jpeg, []⟩
  let key := q.w * q.h
  let par := picPar p (bucketOf p key)
  let one := fun (g : Pic) => if pBlocked p then picBlocked par g x.sid x.epoch else picDense par g x.sid x.epoch
  let data :=
    if pKind p = 0 then one q
    else
      let fs := (List.range (pT p)).map fun j =>
        one (ps.getD (frameIdx (pF p 11 16 16 = 1) (pF p 11 31 24) (pT p) frames (pSeed p) x.sid x.epoch j) q)
      fs.flatten
  { x with key := key, valid := 0, orig := q.w % 65536 + q.h % 65536 * 65536, data := data }

/-- Audio prepared: the key is the output length, cut to the last BOUND, padded to the bucket's. -/
def prepSound (p : Pipe) (x : Sample) (f : PcmFmt) (rate : Nat) (ch : List (List Int)) : Sample :=
  let out := prepAudio (audPar p) f rate ch
  let n := if pLogmel p then out.length else (out.headD []).length
  let top := bBound p (pBuckets p - 1)
  let key := min n top
  let b := bucketOf p key
  let pad := roundWide (pFmt p) (decodeVal 0 (bPad p b))
  let data :=
    if pLogmel p then (out.take key).flatten ++ List.replicate ((bBound p b - key) * pMels p) pad
    else out.flatMap fun c => c.take key ++ List.replicate (bBound p b - key) pad
  { x with key := key, valid := key, orig := n, trunc := decide (top < n), data := data }

/-- Tokens prepared (R344): cut to the last BOUND, with EOS last where ADD_EOS, padded. -/
def prepTokens (p : Pipe) (x : Sample) (ts : List Nat) (fixed : Bool) : Sample :=
  let top := bBound p (pBuckets p - 1)
  let cut := decide (top < ts.length)
  let kept := if cut && pEos p && decide (0 < top) then ts.take (top - 1) ++ [vEos p.vocab] else ts.take top
  let b := bucketOf p kept.length
  { x with key := kept.length, valid := kept.length, orig := ts.length, trunc := cut, fixed := fixed
           data := kept ++ List.replicate (bBound p b - kept.length) (bPad p b) }

/-- Work units of a decode (Table 8.8); of audio one per 256 samples of a channel, of whichever channels. DEDUCED. -/
def workUnits (p : Pipe) (x : Sample) (h : SampleHdr) (d : Decoded) : Nat :=
  match h with
  | .jpeg .. => d.blocks + ceilDiv d.bytes 64
  | .png .. => ceilDiv d.blocks 64 + ceilDiv d.bytes 64
  | .video w h _ n pts => framesDecoded p x n pts * (ceilDiv w 16 * ceilDiv h 16) + ceilDiv d.bytes 64
  | .audio .. => ceilDiv d.blocks 256 + ceilDiv d.bytes 64
  | .text | .corrupt => ceilDiv d.bytes 64

/-- Frames of a video. -/
def hdrFrames (h : SampleHdr) : Nat :=
  match h with
  | .video _ _ _ n _ => n
  | _ => 1

/-- Decode and preparation of the bytes `bs`: the cause of a failure, or the prepared sample. The budget ends a decode
before what it meets later (R333). -/
def prepared (p : Pipe) (x : Sample) (bs : List Byte) (h : SampleHdr) (d : Decoded) : Nat ⊕ Sample :=
  if x.units < workUnits p x h d then .inl 5
  else match d.out, pKind p with
    | .unsupported, _ => .inl 3
    | .corrupt, _ => .inl 4
    | .text, 3 =>
      (match tokenise p.vocab (pF p 11 48 48 = 1) (pF p 11 49 49 = 1) (pEos p) (pF p 11 51 51 = 1) bs with
        | none => .inl 7
        | some (ts, u, fixed) => if x.units < u then .inl 5 else .inr (prepTokens p x ts fixed))
    | .pics ps, 0 => if ps = [] then .inl 4 else .inr (prepPics p x 1 ps)
    | .pics ps, 1 => if ps = [] then .inl 4 else .inr (prepPics p x (hdrFrames h) ps)
    | .pcm f rate ch, 2 => if ch = [] then .inl 4 else .inr (prepSound p x f rate ch)
    | _, _ => .inl 4

/-- How a decoding sample ends, from its bytes: the state that the reading leaves, and a cause or the sample. -/
def resolution (s : State) (p : Pipe) (x : Sample) : State × (Nat ⊕ Sample) :=
  match vread s x.addr x.size (mediaReader p) with
  | (s1, none) => (s1, .inl 6)
  | (s1, some bs) =>
    (s1, if x.crc.isSome ∧ x.crc ≠ some (crc32c bs) then .inl 10
      else prepared p x bs (headersOf x.codec bs) (decodeOf x.codec bs))

/-- WORK_BUDGET_EXCEEDED (R333): of a sample whose decode comes to more units than its budget. -/
def doWorkBudgetExceeded (m n pos : Nat) (s : State) : State :=
  match decoding s m n pos with
  | none => s
  | some x =>
    let r := resolution s (getPipe s m n) x
    if r.2 = .inl 5 then failSample r.1 m n x 5 else s
def execWorkBudgetExceeded (site : Fin 2) (ring : Fin 16) (pos : Nat) (s : State) : Res :=
  .next (doWorkBudgetExceeded site ring pos s)

/-- A sample is resolved as its bytes give it. -/
def resolveSample (s : State) (m n : Nat) (x : Sample) : State :=
  let r := resolution s (getPipe s m n) x
  match r.2 with
  | .inl c => failSample r.1 m n x c
  | .inr y => drainRing (modPipe r.1 m n fun p => putSample p { y with stage := .ready }) m n

/-- The recorded drop, for a cause, of a kept frame that a replay has not met yet (R362). -/
def dropNamed (p : Pipe) (sid : Nat) : Option (List Word) :=
  p.live.find? fun r => decide (bits (r.getD 0 0) 7 0 = 0x11) && decide (bits (r.getD 2 0) 11 8 ≠ 0) && decide ((r.getD 3 0).toNat = sid)

/-- SAMPLE_RESOLVED: the sample's bytes are read and checked, and what its decode gives is prepared, or
the sample fails; in a replay of live intake also where the record says so. -/
def doSampleResolved (m n pos : Nat) (s : State) : State :=
  let p := getPipe s m n
  match decoding s m n pos with
  | none => s
  | some x => match if pReplay p then dropNamed p x.sid else none with
    | some r =>
      failSample (modPipe s m n fun p => { p with live := dropFirst (fun q => q = r) p.live }) m n x (bits (r.getD 2 0) 11 8)
    | none => resolveSample s m n x
def execSampleResolved (site : Fin 2) (ring : Fin 16) (pos : Nat) (s : State) : Res :=
  .next (doSampleResolved site ring pos s)

/-! ### Replacements (R348 to R351) -/

/-- The reserve entry at the cursor, if it and its shard pass their checks: shard and index entry. -/
def reserveEntry (s : State) (p : Pipe) (a : Nat) : State × Option (Nat × Nat) :=
  match nread s a 16 with
  | none => (s, none)
  | some b =>
    if bF b 6 2 ≠ 0 ∨ bF b 12 4 ≠ 0 then (s, none)
    else match shardHeader s p (put (bF b 0 8) 0) with
      | (s1, none) => (s1, none)
      | (s1, some h) => (s1, if bF b 8 4 < bF h 8 4 then some (bF b 0 6, bF b 8 4) else none)

/-- RES_WARN: the entries left fall to it, once. -/
def reserveWarn (s : State) (m n pos : Nat) : State :=
  let p := getPipe s m n
  let left := pResCount p - s.fld (rRingRes m n) 31 0
  if pResWarn p ≠ 0 ∧ left ≤ pResWarn p ∧ p.warned = false then
    ringEvent (modPipe s m n fun p => { p with warned := true }) m n 0x0302 left pos
  else s

/-- RESERVE_ASSIGN: once every lower position is resolved, a failed position takes the next reserve
entry, or drops where none is left. -/
def doReserveAssign (m n pos : Nat) (s : State) : State :=
  let p := getPipe s m n
  let cur := s.fld (rRingRes m n) 31 0
  match running s m n, findSample p pos with
  | true, some x =>
    if x.stage ≠ .failed ∨ (s.reg (rRingPos m n)).toNat ≠ pos ∨ p.eods.head? = some pos then s
    else if pResCount p ≤ cur then
      let s1 := intakeFail (modPipe s m n fun p => putSample p { x with stage := .dropped }) m n p x true 0
      drainRing (cntInc (ringEvent s1 m n 0x0303 x.cause pos) (ringCnt m n 0) 0 1) m n
    else
      let s1 := reserveWarn (s.setFld (rRingRes m n) 31 0 (cur + 1)) m n pos
      (match reserveEntry s1 p (pRes p + 16 * cur) with
        | (s2, none) => failSample (intakeFail s2 m n p x false 0) m n { x with sid := 0 } 8
        | (s2, some (shard, i)) =>
          let s3 := intakeFail s2 m n p x false (readNat s2 (indexAddr s2 shard i) 8)
          modPipe s3 m n fun p => putSample p { x with stage := .assigned, shard := shard, idx := i })
  | _, _ => s
def execReserveAssign (site : Fin 2) (ring : Fin 16) (pos : Nat) (s : State) : Res :=
  .next (doReserveAssign site ring pos s)

/-! ### Emission (R353 to R358) -/

/-- BATCH_PUBLISH: the next closed batch is written to its slot and published. -/
def doBatchPublish (m n : Nat) (s : State) : State :=
  let p := getPipe s m n
  let seq := (s.reg (rRingEmit m n)).toNat
  match p.closed with
  | [] => s
  | b :: rest =>
    if running s m n = false ∨ p.freed + pDepth p ≤ seq then s
    else
      let s1 := writeBytes s (slotAddr p seq) (slotBytes p b seq) none
      let ready := p.ready ++ [b]
      let s2 := setPipe s1 m n { p with
        closed := rest, ready := ready
        armed := p.armed || (decide (pLow p ≠ 0) && decide (pLow p ≤ ready.length)) }
      let s3 := cntInc (s2.setReg (rRingEmit m n) (BitVec.ofNat 64 (seq + 1))) (ringCnt m n 14) 0 1
      if b.marker then ringEvent s3 m n 0x0304 0 seq else s3
def execBatchPublish (site : Fin 2) (ring : Fin 16) (s : State) : Res := .next (doBatchPublish site ring s)

/-- EOD_FLUSH: every earlier position is resolved; partial batches close in ascending bucket index, and
the end marker follows (R354). -/
def doEodFlush (m n : Nat) (s : State) : State :=
  let p := getPipe s m n
  let pos := (s.reg (rRingPos m n)).toNat
  if running s m n = false ∨ p.eods.head? ≠ some pos then s
  else
    let q := (List.range (pBuckets p)).foldl (fun q b => closeBatch q b true) p
    let q1 := { q with eods := q.eods.drop 1, closed := q.closed ++ [⟨0, [], true, false, 0, pos, pos⟩] }
    drainRing (setPipe s m n q1) m n
def execEodFlush (site : Fin 2) (ring : Fin 16) (s : State) : Res := .next (doEodFlush site ring s)

/-! ### Live intake (R359 to R362) -/

/-- A kept frame takes the next position. -/
def keepFrame (s : State) (m n : Nat) (x : Sample) : State :=
  let p := getPipe s m n
  let y := { x with pos := p.nextPos }
  let s1 := setPipe s m n { putSample p y with nextPos := p.nextPos + 1 }
  slgWrite s1 (pPart p) ⟨0x12, 3 + m, none, 0, [put (9 + m) 0 ||| put n 4, put y.pos 0, put y.sid 0]⟩

/-- A stale frame is dropped. -/
def dropFrame (s : State) (m n : Nat) (x : Sample) : State :=
  cntInc (liveDrop s m n (getPipe s m n) x 0) (ringCnt m n 11) 0 1

/-- The live decision that a replayed frame meets: a position or a staleness drop. -/
def nextDecision (p : Pipe) : Option (List Word) :=
  p.live.find? fun r => bits (r.getD 0 0) 7 0 = 0x12 ||
    (bits (r.getD 0 0) 7 0 = 0x11 && bits (r.getD 2 0) 11 8 = 0)

/-- The frame as its entry gives it. -/
def frameOf (s : State) (e : QEntry) : Sample :=
  let w := fun i => e.words.getD i 0
  { emptySample with addr := bits (w 0) 47 0, size := bits (w 1) 31 0, codec := bits (w 1) 39 32
                     strm := bits (w 1) 47 40, capt := (w 2).toNat, sid := (w 3).toNat, took := ptpNow s }

/-- Age above the limit of its stream; a limit of 0 never drops (R360). -/
def stale (s : State) (p : Pipe) (x : Sample) : Bool :=
  let lim := readNat s (pStale p + 4 * x.strm) 4
  decide (lim ≠ 0) && decide (((1000 * lim : Nat) : Int) < (x.took : Int) - x.capt)

/-- LIVE_FRAME_TAKE. In a replay the record decides, and a frame of another SAMPLE_ID fails the
pipeline with cause 0x0A; with no decision handed over yet nothing happens. -/
def doLiveFrameTake (m n : Nat) (s : State) : State :=
  let p := getPipe s m n
  if running s m n = false ∨ pLive p = false ∨ (pReplay p = true ∧ nextDecision p = none) then s
  else match takeEntry s m n with
    | none => s
    | some (e, s1) =>
      let w := fun i => e.words.getD i 0
      let x := frameOf s1 e
      if e.pois ≠ 0 then failPipe s1 m n 0x07
      else if bits (w 0) 63 48 ≠ 0 ∨ bits (w 1) 63 48 ≠ 0 ∨ w 4 ≠ 0 ∨ w 5 ≠ 0 ∨ w 6 ≠ 0 ∨
          hbmSpan s1 (pPart p) x.addr (max 1 x.size) = false then failPipe s1 m n 0x06
      else if pReplay p then
        match nextDecision p with
        | none => s1
        | some r =>
          let sid := if bits (r.getD 0 0) 7 0 = 0x12 then r.getD 4 0 else r.getD 3 0
          if sid.toNat ≠ x.sid then failPipe s1 m n 0x0A
          else
            let s2 := modPipe s1 m n fun p => { p with live := dropFirst (fun q => q = r) p.live }
            if bits (r.getD 0 0) 7 0 = 0x12 then keepFrame s2 m n x else dropFrame s2 m n x
      else if stale s1 p x then dropFrame s1 m n x
      else keepFrame s1 m n x
def execLiveFrameTake (site : Fin 2) (ring : Fin 16) (s : State) : Res := .next (doLiveFrameTake site ring s)

/-- LIVE_FLUSH_TIMEOUT: the open batch of a live bucket closes (R361); a replay ignores timers. -/
def doLiveFlushTimeout (m n b : Nat) (s : State) : State :=
  let p := getPipe s m n
  match (smGet [] p.members b).getLast? with
  | none => s
  | some x =>
    if running s m n = false ∨ pLive p = false ∨ pReplay p = true ∨ pFlush p = 0 then s
    else liveFlush (setPipe s m n (closeBatch p b true)) m n p b x.pos
def execLiveFlushTimeout (site : Fin 2) (ring : Fin 16) (bucket : Fin 64) (s : State) : Res :=
  .next (doLiveFlushTimeout site ring bucket s)

/-! ### Faults of the die (R326, R598) -/

/-- ATOMIZER_DIE_FAULT: pipelines fail with cause 0x09; the hub resets the die. A third fault within an
hour keeps READY at 0 until the next warm or cold reset. -/
def doAtomizerDieFault (m : Nat) (unit : BitVec 8) (third : Bool) (s : State) : State :=
  if mediaOk s m = false then s
  else
    let s1 := errRecord s { code := 0x090D, cls := 3, die := 9 + m, unit := 7, index := 9 + m, cause := unit.toNat }
    let s2 := (List.range 16).foldl (fun s n => failPipe s m n 0x09) s1
    let s3 := (s2.setRBit (rAtzStat m) 0 false).setRBit (rAtzStat m) 1 true
    if third then { s3 with hub := { s3.hub with dead := m :: s3.hub.dead.filter fun k => k ≠ m } } else s3
def execAtomizerDieFault (site : Fin 2) (unit : BitVec 8) (third : Bool) (s : State) : Res :=
  .next (doAtomizerDieFault site unit third s)

/-- ATOMIZER_DIE_RESET_DONE: READY returns unless this was the third fault in an hour. The
vocabulary memory of the reset die is empty. -/
def doAtomizerDieResetDone (m : Nat) (s : State) : State :=
  if mediaOk s m = false ∨ s.hub.dead.contains m then s
  else
    let s1 := (List.range 16).foldl (fun s n => modPipe s m n fun p => { p with vocab := [] }) s
    setVocabFree ((s1.setRBit (rAtzStat m) 0 true).setRBit (rAtzStat m) 1 false) m
def execAtomizerDieResetDone (site : Fin 2) (s : State) : Res := .next (doAtomizerDieResetDone site s)

end Sys2Proof.Machine
end

