-- ==== Sys2Proof/Machine/Intk.lean ====
section
/-! DEFINITION. The INTK instructions PULL and REL (R143 to R145, R322, R325, R358). -/

namespace Sys2Proof.Machine

/-- Site 9 + m and ring of PULL and REL (R143, R322). -/
def xSite (w : InstrWord) : Nat := xF w 0 0
def xRing (w : InstrWord) : Nat := xF w 4 1

/-- The ring is bound to a stream; its context and stream number. -/
def ringBound (s : State) (m n : Nat) : Option (Nat × Nat) :=
  if s.rbit (rRingCtl m n) 4 then some (s.fld (rRingCtl m n) 7 5, s.fld (rRingCtl m n) 9 8) else none

/-- Binds the ring to a stream. -/
def bindRing (s : State) (m n : Nat) (a : StreamId) : State :=
  s.setFld (rRingCtl m n) 9 4 (1 + 2 * a.ctx.val + 16 * strmNo a.strm)

/-- The intake unit of the site (Table 3.6). -/
def intkUnit (s : State) (m : Nat) : Option SFault := need (mediaOk s m) 0x03 0 0

/-- Checks of PULL after the word's own (R145, R325). -/
def pullChecks (s : State) (a : StreamId) (m n : Nat) : List (Option SFault) :=
  let p := getPipe s m n
  [need (ringOwner s m n = some a.part.val) 0x15 1 9,
   need (running s m n) 0x1E 2 9,
   need (match ringBound s m n with
     | some b => decide (b.1 = a.ctx.val) && decide (b.2 = strmNo a.strm)
     | none => true) 0x15 1 9,
   need (p.pulled - p.freed < pDepth p) 0x16 1 9]

/-- PULL record (Table 12.5). -/
def slgPull (s : State) (a : StreamId) (m n seq : Nat) (b : Batch) : State :=
  let p := getPipe s m n
  slgWrite s a.part ⟨0x14, 3 + m, some a.ctx.val, strmNo a.strm,
    [put (9 + m) 0 ||| put n 4 ||| put b.bucket 8, put seq 0, put b.members.length 0, put b.first 0, put b.close 0,
     put (batchFlags p b) 0]⟩

/-- The low-water alarm after a PULL of batch `seq` (R358). -/
def lowWater (s : State) (m n seq : Nat) : State :=
  let p := getPipe s m n
  if p.armed ∧ p.ready.length < pLow p then
    ringEvent (modPipe s m n fun p => { p with armed := false }) m n 0x0301 p.ready.length seq
  else s

/-- What PULL writes: three scalars and, but for the end marker, TDC (R143). -/
def bindBatch (s : State) (a : StreamId) (w : InstrWord) (p : Pipe) (b : Batch) : State :=
  let s1 := modStrmAt s a fun t =>
    setSreg (setSreg (setSreg t (iSd w) (put p.pulled 0)) (iSd w + 1) (put b.members.length 0))
      (iSd w + 2) (put b.bucket 0)
  if b.members = [] then s1
  else modCtx s1 a.part a.ctx fun c => { c with td := smMod 0 c.td (iTd w 2) (batchDesc p b p.pulled) }

/-- PULL takes batch `b`, the first not yet pulled. -/
def takeBatch (s : State) (a : StreamId) (w : InstrWord) (b : Batch) : State :=
  let m := xSite w
  let n := xRing w
  let p := getPipe s m n
  let t := strmAt s a
  let wait := if t.st = .waiting ∧ t.wait = .intake m n then timeNs s - t.since else 0
  let s1 := cntInc (bindBatch s a w p b) (ringCnt m n 13) 0 wait
  let s2 := slgPull (modPipe s1 m n fun p => { p with ready := p.ready.drop 1, pulled := p.pulled + 1 }) a m n p.pulled b
  completeNow (lowWater s2 m n p.pulled) a w (t.pc + 1)

/-- PULL: binds the ring, then takes the next batch or waits for it. -/
def doPull (a : StreamId) (w : InstrWord) (s : State) : State :=
  withWord s a w 0xB0 { tds := [2], sd := true, x := xm 4 0 }
    [need (1 ≤ iSd w && iSd w ≤ 29) 0x02 0 5, intkUnit s (xSite w)] fun s =>
      match firstFault (pullChecks s a (xSite w) (xRing w)) with
      | some f => streamFault s a f 0xB0
      | none =>
        let s1 := bindRing s (xSite w) (xRing w) a
        match (getPipe s (xSite w) (xRing w)).ready.head? with
        | some b => takeBatch s1 a w b
        | none => waitOn s1 a (.intake (xSite w) (xRing w))
def execPull (at_ : StreamId) (w : InstrWord) (s : State) : Res := .next (doPull at_ w s)

/-- Checks of REL after the word's own (R144, R145). -/
def relChecks (s : State) (a : StreamId) (m n seq : Nat) : List (Option SFault) :=
  let p := getPipe s m n
  [need (ringOwner s m n = some a.part.val) 0x15 1 9,
   need (((ringBound s m n).map Prod.fst) = some a.ctx.val) 0x15 1 9,
   need (seq = p.freed && p.freed < p.pulled) 0x15 1 6]

/-- Bytes of the slot of batch sA, which REL gives up (R115). -/
def relRange (s : State) (a : StreamId) (w : InstrWord) : Nat × Nat :=
  let p := getPipe s (xSite w) (xRing w)
  let lo := slotAddr p (vA s a w).toNat
  (lo, lo + (max 1 (pSlotSize p) - 1))

/-- REL: releases the slot of batch sA. -/
def doRel (a : StreamId) (w : InstrWord) (s : State) : State :=
  withWordAfter s a w (hazard s a [] [relRange s a w]) 0xB1 { tds := [], sa := true, x := xm 4 0 }
    [intkUnit s (xSite w)] fun s =>
      match firstFault (relChecks s a (xSite w) (xRing w) (vA s a w).toNat) with
      | some f => streamFault s a f 0xB1
      | none =>
        completeNow (modPipe s (xSite w) (xRing w) fun p => { p with freed := p.freed + 1 }) a w ((strmAt s a).pc + 1)
def execRel (at_ : StreamId) (w : InstrWord) (s : State) : Res := .next (doRel at_ w s)

end Sys2Proof.Machine
end

