-- ==== Sys2Proof/Machine/Wait.lean ====
section
/-! DEFINITION. The end of a stream's wait (R133, R138, R143): the instruction that the stream holds
at is tried again. -/

namespace Sys2Proof.Machine

/-- The instruction word at the PC, by its opcode (Table 3.5). -/
def redo (a : StreamId) (w : InstrWord) (s : State) : State :=
  match iOp w with
  | 0x00 => doNop a w s
  | 0x01 => doLi a w s
  | 0x02 => doAdd a w s
  | 0x03 => doAddi a w s
  | 0x04 => doSub a w s
  | 0x05 => doMul a w s
  | 0x06 => doLogic a w s
  | 0x07 => doRdspr a w s
  | 0x08 => doShift a w s
  | 0x09 => doBr a w s
  | 0x0A => doLoop a w s
  | 0x0B => doLds a w s
  | 0x0C => doSts a w s
  | 0x0D => doDld a w s
  | 0x0E => doDset a w s
  | 0x0F => doEnd a w s
  | 0x10 => doBcset a w s
  | 0x11 => doBcinc a w s
  | 0x12 => doBcwait a w s
  | 0x13 => doFence a w s
  | 0x14 => doGfence a w s
  | 0x15 => doIflush a w s
  | 0x16 => doEvent a w s
  | 0x20 => doCopy a w s
  | 0x21 => doCopyt a w s
  | 0x22 => doFill a w s
  | 0x23 => doGather a w s
  | 0x24 => doScatter a w s
  | 0x25 => doPrefetch a w s
  | 0x30 => doMm a w s
  | 0x31 => doMmacc a w s
  | 0x32 => doMmrs a w s
  | 0x33 => doMmag a w s
  | 0x40 => doConv a w s
  | 0x41 => doConvg a w s
  | 0x42 => doConvbd a w s
  | 0x43 => doConvbw a w s
  | 0x44 => doPool a w s
  | 0x50 => doVbin a w s
  | 0x51 => doVfma a w s
  | 0x52 => doVun a w s
  | 0x53 => doVcvt a w s
  | 0x54 => doNorm a w s
  | 0x55 => doSmax a w s
  | 0x56 => doMinv a w s
  | 0x60 => doTfn a w s
  | 0x61 => doTder a w s
  | 0x62 => doTload a w s
  | 0x70 => doRsum a w s
  | 0x71 => doRmax a w s
  | 0x72 => doRmin a w s
  | 0x73 => doRssq a w s
  | 0x80 => doQnt a w s
  | 0x81 => doDqnt a w s
  | 0x91 => doReqnt a w s
  | 0xA0 => doRs a w s
  | 0xA1 => doAg a w s
  | 0xA2 => doAr a w s
  | 0xA3 => doSend a w s
  | 0xA4 => doRecv a w s
  | 0xB0 => doPull a w s
  | 0xB1 => doRel a w s
  | 0xC0 => doAmax a w s
  | 0xC1 => doFprint a w s
  | 0xC2 => doCntrd a w s
  | 0xC3 => doFlagrd a w s
  | 0x90 => if xF w 1 0 = 1 then doUpdNorm a w s else if xF w 1 0 = 2 then doUpdPack a w s else doUpdApply a w s
  | _ => doReserved a w s

/-- INSTRUCTION_WAIT_SATISFIED: a waiting stream issues the instruction at its PC when what it waits
for stands. -/
def doWaitSatisfied (a : StreamId) (s : State) : State :=
  let t := strmAt s a
  if t.st = .waiting then
    match bufferWord t with
    | some w => redo a w s
    | none => s
  else s
def execInstructionWaitSatisfied (at_ : StreamId) (s : State) : Res := .next (doWaitSatisfied at_ s)

end Sys2Proof.Machine
end

