-- ==== Sys2Proof/Machine/Jobs.lean ====
section
/-! DEFINITION. The job engine: taking records, STEP and ABORT, decision points, status words, and the
long operations' common part (R471 to R480, R484 to R493, R513). -/

namespace Sys2Proof.Machine

/-! ### The job table (R471) -/

def jobtabEn (s : State) : Bool := s.rbit rJobtabCtl 13
def jobtabCount (s : State) : Nat := s.fld rJobtabCtl 12 0

/-- Host address of record `i`. -/
def recAddr (s : State) (i : Nat) : Nat := s.fld rJobtabBase 46 12 * 4096 + 128 * i

/-- Line `l` of host memory is watched. -/
def watched (s : State) (l : Nat) : Bool :=
  jobtabEn s && decide (recAddr s 0 / 64 ≤ l) && decide (l < recAddr s 0 / 64 + 2 * jobtabCount s)

/-- Asks for a host line that the hub does not hold (R463, HRDS). -/
def wantLine (s : State) (l : Nat) : State :=
  if (findLine s l).isSome then s else hostRequest s 0x11 l []

/-- The engine reads a record again: it asks for the lines that it lacks, the two of the record and
that of its status word, and re-establishes the watch. -/
def wantRecord (s : State) (i : Nat) : State :=
  let s1 := wantLine (wantLine s (recAddr s i / 64)) (recAddr s i / 64 + 1)
  match hostRead s1 (recAddr s i) 16 with
  | some bs => wantLine s1 (bits (BitVec.ofNat 64 (leNat (bs.drop 8))) 46 3 * 8 / 64)
  | none => s1

/-- A full scan of the table. -/
def scanTable (s : State) : State := (List.range (jobtabCount s)).foldl wantRecord s

/-- The engine scans again: SCANNING until the scan ends (R471, R499). -/
def startScan (s : State) : State :=
  if jobtabEn s then (scanTable s).setRBit rJobtabCtl 14 true else s

/-- Intake is paused: a hub restart, or the host link lost (Table 11.22). -/
def intakePaused (s : State) : Bool := s.rbit rJobStat 13 || !anyPortUp s

/-- The 16 words of record `i` and its status word, when the hub holds all their lines. -/
def readRecord (s : State) (i : Nat) : Option (List Word × Word) :=
  match hostRead s (recAddr s i) 64, hostRead s (recAddr s i + 64) 64 with
  | some a, some b =>
    let ws := (chunks 8 16 (a ++ b)).map fun x => BitVec.ofNat 64 (leNat x)
    (hostRead s (bits (ws.getD 1 0) 46 3 * 8) 8).map fun st => (ws, BitVec.ofNat 64 (leNat st))
  | _, _ => none

/-- The record is pending (R471); a status word that still waits to be written has not been lost. -/
def recPending (s : State) (i : Nat) (ws : List Word) (st : Word) : Bool :=
  let sub := bits (ws.getD 0 0) 63 32
  bits (ws.getD 0 0) 3 0 ≠ 0 && (sub ≠ bits st 63 32 || bits st 3 0 = 1) && (findJob s i).isNone &&
    s.hub.hwrites.all fun w => w.job ≠ some i

/-- A context's step queue takes no entry (R475, R311). -/
def stepQueueFull (s : State) (p x : Nat) : Bool := queueStalls (getQueue s (qStep p x))

/-- A STEP that is taken waits in the step queue of its context. -/
def pushStep (s : State) (j : Job) : State :=
  if jType j = 1 then queuePut s (qStep (jPart j) (jCtx j)) (stepWords j) 0 else s

/-- Adds a job to the engine's list. -/
def addJob (s : State) (j : Job) : State :=
  countJobs { s with hub := { s.hub with jobs := s.hub.jobs ++ [j] } }

/-- A final status; of a STEP or an EXPORT with its JOB_END record (Table 12.6). -/
def jobFinal (s : State) (j : Job) (st progress err : Nat) : State :=
  let s1 := if jType j = 1 ∨ jType j = 3 then
      slgWrite s (jPart j) ⟨0x07, 1, if jType j = 1 then some (jCtx j) else none, 0,
        [statusWord st progress err (jSubmit j), put (j.idx % 4096) 0]⟩
    else s
  jobEnd s1 j st progress err

/-- A type whose target is a partition. -/
def partTarget (ty : Nat) : Bool := ty = 1 || ty = 3 || ty = 5 || ty = 6 || ty = 15

def jobTypes : List Nat := [1, 2, 3, 5, 6, 7, 15]

/-- JOB_TAKE: the record is read and, when pending, taken: QUEUED first; an unknown TYPE fails, and a
job for a partition that is disabling ends ABORTED (R471, R476, R479, R489). -/
def doJobTake (i : Nat) (s : State) : State :=
  if jobtabEn s = false ∨ jobtabCount s ≤ i ∨ intakePaused s = true then s
  else match readRecord s i with
    | none => wantRecord s i
    | some (ws, st) =>
      let j : Job := ⟨i, ws, .queued, 0, false, false, false⟩
      if recPending s i ws st = false ∨ (jType j = 1 ∧ stepQueueFull s (jPart j) (jCtx j) = true) then s
      else
        let s1 := writeStatus (useLine (addJob s j) (jStatus j / 64)) j 1 0 0
        if !jobTypes.contains (jType j) then jobEnd s1 j 5 0 0x40
        else if partTarget (jType j) && jType j ≠ 15 && partState s (jPart j) = 3 then jobFinal s1 j 6 0 0x46
        else pushStep s1 j

/-- JOB_TABLE_SCAN: the whole table is scanned (R471). -/
def doJobTableScan (s : State) : State :=
  if jobtabEn s && !intakePaused s then (scanTable s).setRBit rJobtabCtl 14 false else s
def execJobTableScan (s : State) : Res := .next (doJobTableScan s)

/-! ### Checks of a STEP (R475, R491, R492) -/

/-- Common words 0 and 1: reserved bits, STATUS_ADDR. -/
def headOk (j : Job) (serve : Bool) : Bool :=
  bits (jw j 0) 11 11 = 0 && bits (jw j 0) 31 15 = 0 && (serve || !jServe j) && bits (jw j 1) 63 47 = 0 &&
    bits (jw j 1) 2 0 = 0

/-- Window `k` (0 F, 1 B, 2 U): base, length in instructions. -/
def pwin (j : Job) (k : Nat) : Nat × Nat := (bits (jw j (2 + k)) 47 0, bits (jw j 5) (20 * k + 19) (20 * k))

def descCount (j : Job) : Nat := bits (jw j 7) 56 48
def descBase (j : Job) : Nat := bits (jw j 7) 47 0
def initBase (j : Job) : Nat := bits (jw j 6) 47 0

/-- Serving words: BATCH, NSEQ, PAGE_KIB, POOL_PAGES, POOL (R491). -/
def sBatch (j : Job) : Nat := (jw j 8).toNat
def sNseq (j : Job) : Nat := bits (jw j 9) 15 0
def sPageKib (j : Job) : Nat := bits (jw j 9) 31 16
def sPages (j : Job) : Nat := bits (jw j 9) 63 32
def sPool (j : Job) : Nat := (jw j 10).toNat

/-- Serving words in range (Table 11.7). -/
def serveWordsOk (j : Job) : Bool :=
  sBatch j % 32 = 0 && 1 ≤ sNseq j && sNseq j ≤ 4096 && sPageKib j ≠ 0 && sPageKib j % 4 = 0 && sPool j % 4096 = 0

/-- Fields of a STEP record in range and reserved fields 0 (ERR 0x40). -/
def stepFieldsOk (j : Job) : Bool :=
  headOk j true &&
    ((List.range 3).all fun k => bits (jw j (2 + k)) 63 48 = 0 && (pwin j k).1 % 1024 = 0) &&
    bits (jw j 5) 63 60 = 0 && bits (jw j 6) 63 48 = 0 && initBase j % 64 = 0 && bits (jw j 7) 63 57 = 0 &&
    descBase j % 64 = 0 && descCount j ≤ 256 && (jServe j || (jw j 8 = 0 && jw j 9 = 0 && jw j 10 = 0)) &&
    ([11, 12, 13, 14, 15].all fun i => jw j i = 0) && (!jServe j || serveWordsOk j)

/-- What a STEP names lies in the partition (ERR 0x42). -/
def stepRangesOk (s : State) (j : Job) : Bool :=
  let p := jPart j
  ((List.range 3).all fun k => (pwin j k).2 = 0 || rangeInPart s p (pwin j k).1 (16 * (pwin j k).2)) &&
    (initBase j = 0 || rangeInPart s p (initBase j) 768) &&
    (descCount j = 0 || rangeInPart s p (descBase j) (64 * descCount j)) &&
    (!jServe j || sNseq j = 0 || rangeInPart s p (sBatch j) (32 * sNseq j))

/-- The engine as a reader (Table 7.9). -/
def hubReader (p : Nat) : Reader := ⟨⟨0, 0, 3, 6⟩, some p, 0xFFFFFFFF, 0⟩

/-- The batch table in the partition's HBM ranges, the pool in one of them (ERR 0x44). -/
def serveFieldsOk (s : State) (j : Job) : Bool :=
  let p := jPart j
  let n := sPages j * sPageKib j * 1024
  hbmSpan s p (sBatch j) (32 * sNseq j) &&
    (n = 0 || (List.range 8).any fun k => hbmRange s p k (sPool j) && hbmRange s p k (sPool j + n - 1))

/-- What the check of serving data answers: a state with the poisoning that it met, and the ERR code. -/
abbrev ErrCheck := State × Nat

/-- One batch entry (Table 11.16, R492). -/
def entryCheck (j : Job) (s : State) (e : List Byte) : ErrCheck :=
  let list := bF e 16 8
  let n := bF e 24 4
  if bF e 28 4 ≠ 0 ∨ bF e 12 4 = 0 ∨ list % 4 ≠ 0 ∨ n < ceilDiv (bF e 8 4 + bF e 12 4) 64 ∨
      (n ≠ 0 ∧ hbmSpan s (jPart j) list (4 * n) = false) then (s, 0x44)
  else match vread s list (4 * n) (hubReader (jPart j)) with
    | (s1, none) => (s1, 0x4B)
    | (s1, some b) => (s1, if (chunks 4 n b).all fun x => leNat x < sPages j then 0 else 0x44)

/-- The serving check: the batch table and every list, verifying reads. -/
def serveCheck (s : State) (j : Job) : ErrCheck :=
  if !serveFieldsOk s j then (s, 0x44)
  else match vread s (sBatch j) (32 * sNseq j) (hubReader (jPart j)) with
    | (s1, none) => (s1, 0x4B)
    | (s1, some b) =>
      (chunks 32 (sNseq j) b).foldl (fun c e => if c.2 = 0 then entryCheck j c.1 e else c) (s1, 0)

/-- Every check of a STEP record, in the order of R475. -/
def stepCheck (s : State) (j : Job) : ErrCheck :=
  if !stepFieldsOk j then (s, 0x40)
  else if partState s (jPart j) ≠ 2 then (s, 0x41)
  else if !stepRangesOk s j then (s, 0x42)
  else if jServe j then serveCheck s j
  else (s, 0)

/-- A decision where a context became runnable: at once with no context scheduled, else only for a
higher PRIO or where the scheduled context only waits (R485). -/
def decideFor (s : State) (p x : Nat) : State :=
  match (getPart s p).sched with
  | none => decide_ s p
  | some y =>
    if (runnablePrio s p y).getD 0 < (runnablePrio s p x).getD 0 ∨
        runnablePrio s p y = none ∨ (allWait (getCtx s p y) = true ∧ (runnablePrio s p x).isSome = true) then decide_ s p
    else s

/-- A taken job of a type that has not been checked yet. -/
def unchecked (s : State) (i ty : Nat) : Option Job :=
  (findJob s i).filter fun j => jType j = ty && j.st == .queued && !j.checked

/-- JOB_STEP: the record is checked; a STEP that passes waits QUEUED for its context. -/
def doJobStep (i : Nat) (s : State) : State :=
  match unchecked s i 1 with
  | none => s
  | some j =>
    let c := stepCheck s j
    if c.2 ≠ 0 then trimQueue (jobFinal c.1 j 5 0 c.2) (jPart j) (jCtx j)
    else decideFor (setJob c.1 { j with checked := true }) (jPart j) (jCtx j)
def execJobStep (idx : Fin 4096) (s : State) : Res := .next (doJobStep idx s)

/-! ### The start of a STEP (R106, R111, R236, R270, R475, R493) -/

/-- Scalars of stream `k` after INIT and, when serving, ARG0 to ARG2. -/
def startRegs (j : Job) (k : Nat) (init : Option (List Byte)) : SMap Word :=
  let m := match init with
    | none => []
    | some b => (List.range 31).foldl (fun m i =>
        smSet 0 m (i + 1) (BitVec.ofNat 64 (bF b (256 * k + 8 * (i + 1)) 8))) []
  if jServe j then [1, 2, 3].foldl (fun m i => smSet 0 m i (jw j (7 + i))) m else m

/-- A stream at its start; one with an empty window counts as ended (R112). -/
def startStream (j : Job) (k : Nat) (init : Option (List Byte)) : Stream :=
  { emptyStream with st := if (pwin j k).2 = 0 then .ended else .issuing, pbase := (pwin j k).1, plen := (pwin j k).2, regs := startRegs j k init }

/-- The context as its streams start. -/
def startCtx (j : Job) (init : Option (List Byte)) (descs : List Byte) : Ctx :=
  { emptyCtx with
    td := putDescs [] 0 descs (descCount j)
    sF := startStream j 0 init, sB := startStream j 1 init, sU := startStream j 2 init
    started := true, job := some j.idx }

/-- JOB_A and JOB_B records (Table 12.5). -/
def slgJob (s : State) (j : Job) : State :=
  let s1 := slgWrite s (jPart j) ⟨0x05, 1, some (jCtx j), 0, [put (j.idx % 4096) 0, jw j 0, jw j 2, jw j 3, jw j 4, jw j 5]⟩
  slgWrite s1 (jPart j) ⟨0x06, 1, some (jCtx j), 0, [jw j 6, jw j 7, jw j 8, jw j 9, jw j 10, jw j 11]⟩

/-- STEP_START: the context is scheduled and free, and its first QUEUED STEP starts its streams; a
poisoned INIT or descriptor block ends the job with ERR 0x4B. -/
def doStepStart (p : Fin 16) (x : Fin 8) (s : State) : State :=
  let q := getPart s p
  match runningStep s p x, queuedStep s p x with
  | none, some j =>
    if q.sched ≠ some x.val ∨ q.draining = true ∨ partState s p ≠ 2 ∨ (slgHolding s p = true ∧ j.replay = false) ∨
        (getCtx s p x).started = true then s
    else
      let r1 := if initBase j = 0 then (s, some none)
        else (let v := vread s (initBase j) 768 (hubReader p); (v.1, v.2.map some))
      let r2 := if descCount j = 0 then (r1.1, some [])
        else vread r1.1 (descBase j) (64 * descCount j) (hubReader p)
      (match r1.2, r2.2 with
        | some init, some descs =>
          let s1 := setCtx r2.1 p x (startCtx j init descs)
          settle (slgJob (trimQueue (jobMove s1 { j with st := .running } .running 0) p x) j) p x
        | _, _ => decide_ (setPart (trimQueue (jobFinal r2.1 j 5 0 0x4B) p x) p { q with sched := none }) p)
  | _, _ => s
def execStepStart (part : Fin 16) (ctx : Fin 8) (s : State) : Res := .next (doStepStart part ctx s)

/-! ### Aborting a STEP (R478, R490) -/

/-- Item `t` of an instruction is complete (R176, R192). -/
def itemDone (f : InFlight) (t : Nat) : Bool :=
  let op := iOp f.w
  let prod := fun (g : Geo) => match g.item t with
    | none => true
    | some (b, j) => (g.blockTiles b).all fun u => decide (f.done.count (u * g.ks + j) = (g.part j).2 - (g.part j).1)
  if 0x30 ≤ op ∧ op ≤ 0x33 then prod (fusedGeo f.w f.tds)
  else if 0x40 ≤ op ∧ op ≤ 0x43 then prod (cvProd f.w f.tds).g
  else f.done.contains t

/-- The largest k for which items 0 to k − 1 are complete. -/
def itemPrefix (f : InFlight) : Nat :=
  ((List.range (itemsOf f)).find? fun t => !itemDone f t).getD (itemsOf f)

/-- The reported instruction of an aborted STEP: stream number and instruction. -/
def reported (c : Ctx) : Option (Nat × InFlight) :=
  firstSome (fun (q : Nat × Stream) => (q.2.infl.find? fun f => itemsOf f ≠ 0).map fun f => (q.1, f))
    [(0, c.sF), (1, c.sB), (2, c.sU)]

/-- A STEP that ends ABORTED: a running one reports its instruction in PROGRESS and event 0x0503. -/
def abortStep (s : State) (j : Job) (err : Nat) : State :=
  if j.st == .queued then jobFinal s j 6 0 err
  else
    let r := reported (getCtx s (jPart j) (jCtx j))
    let k := (r.map fun q => itemPrefix q.2).getD 0
    let s2 := jobFinal s j 6 k err
    emit s2 ⟨0x0503, 0, 8, some (jPart j), jCtx j,
      [put (j.idx % 4096) 0 ||| put ((r.map Prod.fst).getD 0) 12,
       put ((r.map fun q => q.2.iseq.toNat).getD 0) 0 ||| put (k % 2 ^ 32) 32]⟩

/-- The context stops: its collectives fail, its streams end and its work in flight is gone. -/
def stopCtx (s : State) (p x : Nat) : State :=
  let s1 := (s.acc.colls.filter fun c => c.part = p ∧ c.ctx = x).foldl (fun s c => collFail s c 2 0xFFF 0x3F) s
  let c := getCtx s1 p x
  setCtx s1 p x (closeCtx (c.mapStrms fun t => { t with st := .ended, infl := [], hold := false }))

/-- JOB_ABORT: ends the STEP of its context, then the record ends DONE (R478). -/
def doJobAbort (i : Nat) (s : State) : State :=
  match unchecked s i 15 with
  | none => s
  | some j =>
    if !headOk j false ∨ ((List.range 14).any fun k => jw j (k + 2) ≠ 0) = true then jobEnd s j 5 0 0x40
    else
      let p := jPart j
      let x := jCtx j
      let s1 := match runningStep s p x with
        | some k =>
          let s1 := stopCtx (abortStep s k 0x45) p x
          let q := getPart s1 p
          decide_ (if q.sched = some x then setPart s1 p { q with sched := none, draining := false } else s1) p
        | none => match s.hub.jobs.find? fun k => jType k = 1 && jPart k = p && jCtx k = x with
          | some k => trimQueue (abortStep s k 0x45) p x
          | none => s
      jobEnd s1 j 4 0 0
def execJobAbort (idx : Fin 4096) (s : State) : Res := .next (doJobAbort idx s)

/-! ### Long operations (R476, R480) -/

/-- Job type of a long operation. -/
def longType : LongOp → Nat
  | .bist => 2
  | .exportOp => 3
  | .replay => 5
  | .scrub => 6
  | .flash => 7

/-- The job of a long operation that is in progress. -/
def longRunning (s : State) (ty : Nat) : Option Job :=
  s.hub.jobs.find? fun j => jType j = ty && j.st != .queued

/-- The job of a type that has waited longest, once it has passed its checks (R476). -/
def longQueued (s : State) (ty : Nat) : Option Job :=
  (s.hub.jobs.find? fun j => jType j = ty && j.st == .queued).filter fun j => j.checked

/-- A long operation's record has passed its checks and waits QUEUED, or fails with ERR `err`. -/
def longChecked (s : State) (j : Job) (err : Nat) : State :=
  if err ≠ 0 then jobEnd s j 5 0 err else setJob s { j with checked := true }

/-- A long operation reports progress: PARTIAL. -/
def longProgress (s : State) (j : Job) (n : Nat) : State := jobMove s { j with st := .partial_ } .partial_ n

/-! ### Decision points (R485 to R488) -/

/-- QUANTUM_EXPIRY: a decision; alone at its priority the context goes on with a new quantum. -/
def doQuantumExpiry (p : Nat) (s : State) : State :=
  if (getPart s p).sched.isSome then decide_ s p else s
def execQuantumExpiry (part : Fin 16) (s : State) : Res := .next (doQuantumExpiry part s)

/-- Instruction buffers of the partition are discarded (R486). -/
def dropBuffers (s : State) (p : Nat) : State :=
  (List.range 8).foldl (fun s x => modCtx s p x fun c => c.mapStrms fun t => { t with ibuf := [] }) s

/-- PREEMPTION_DRAINED: the outgoing context is saved, buffers are discarded, and the context that the
decision picks comes in with its pending increments; another one is a pre-emption. -/
def doPreemptionDrained (p : Nat) (s : State) : State :=
  let q := getPart s p
  match q.sched with
  | none => s
  | some x =>
    if q.draining = false ∨ partState s p ≠ 2 then s
    else
      let s1 := dropBuffers (saveCtx s p x) p
      match pickCtx s1 p with
      | some y =>
        let s2 := scheduleCtx s1 p y
        if x = y then s2 else cntInc s2 0x0020 p 1
      | none => setPart s1 p { q with draining := false }
def execPreemptionDrained (part : Fin 16) (s : State) : Res := .next (doPreemptionDrained part s)

end Sys2Proof.Machine
end

