-- ==== Sys2Proof/Machine/Links.lean ====
section
/-! DEFINITION. Chip-to-chip links (R405 to R418, R446 to R451): training, flits, lane sparing and
loss. -/

namespace Sys2Proof.Machine

/-! ### Training (R414, R415) -/

/-- Starts training at step 1 under LNK_CTL as it stands: base pages with the capability word, the serial and the link
number on every lane. -/
def trainStart (s : State) (l : Nat) : State :=
  let s1 := setLnkState (setLnk s l { getLnk s l with
    step := 1, ctl := s.reg (rLnkCtl l), pages := 0, page := 0, acked := false, kaOut := false, kaIn := false }) l 1
  s1.send (.link l 0 [(sentCap s1 l).toNat, Config.serial.toNat, l])

/-- Electrical idle: nothing of the partner remains. -/
def lnkIdle (s : State) (l st : Nat) : State :=
  let s1 := (s.setFld (rLnkStat l) 19 8 0).setReg (rLnkPartner l) 0
  let s2 := setLnkState (s1.setReg (rLnkPid l) 0) l st
  (setLnk s2 l { getLnk s l with
    step := 0, pages := 0, page := 0, lanes := 0, nak := false, gap := false, miss := 0, sent := [] }).send (.link l 1 [])

/-- Rate that an attempt counts against. -/
def tryRate (s : State) (l : Nat) : Nat :=
  let r := selRate s l
  if r = 0 then topBit3 (ownRates s l) else r

/-- A training step fails: the third failure in a row at one rate removes it; without a rate the port
is FAILED with event 0x0404 (R415). -/
def trainFail (s : State) (l step : Nat) : State :=
  let k := getLnk s l
  let r := tryRate s l
  let n := if k.rate = r then k.fails + 1 else 1
  let gone := if 3 ≤ n ∧ r ≠ 0 then (BitVec.ofNat 3 k.gone ||| BitVec.ofNat 3 (2 ^ (r - 1))).toNat else k.gone
  let s1 := setLnk s l { k with rate := r, fails := if 3 ≤ n then 0 else n, gone := gone }
  if offered s1 l (s.reg (rLnkCtl l)) = 0 then
    let s2 := setLnk s1 l { getLnk s1 l with dead := true }
    event0 ((lnkIdle s2 l 6).setRBit (rLnkEvent l) 2 true) 0x0404 (l / 6) none [put l 0 ||| put step 16, 0]
  else lnkIdle s1 l 1

/-! ### Loss (R417, R418) -/

/-- Collectives with messages in flight over the link, with the rank concerned (R444). -/
def collsOver (s : State) (l : Nat) : List (Coll × Nat) :=
  (s.acc.colls.filter fun c => smGet 0 c.owed l ≠ 0).map fun c =>
    (c, ((collPeers c).find? fun r => routeOf s c.part c.grp r = l).getD 0xFFF)

/-- The link is lost: its registers, event 0x0402, its collectives and groups (R417, R423, R444). -/
def linkLost (s : State) (l cause st : Nat) : State :=
  let cs := collsOver s l
  let mask := (getLnk s l).lanes
  let s1 := ((lnkIdle s l st).setRBit (rLnkEvent l) 0 true).setFld (rLnkEvent l) 7 4 cause
  let s2 := event0 (cntInc s1 (0x30C0 + l) 0 1) 0x0402 (l / 6) none [put l 0 ||| put cause 16, put mask 0]
  let s3 := cs.foldl (fun s c => if s.acc.colls.any (fun d => d.part = c.1.part ∧ d.ctx = c.1.ctx ∧
      d.strm = c.1.strm ∧ d.iseq = c.1.iseq) then collFail s c.1 2 c.2 l else s) s2
  checkRoutes s3 l

/-- Three DOWN flits (R418). -/
def sendDown (s : State) (l : Nat) : State := (List.range 3).foldl (fun s _ => sendFlit s l 4 0 []) s

/-- Three DOWN flits, then electrical idle (R418). -/
def lnkDown (s : State) (l cause st : Nat) : State :=
  if lnkLive s l then linkLost (sendDown s l) l cause st else lnkIdle s l st

/-- LNK_CTL.EN := 1: a present link trains. A port that had no rate left stays FAILED (R415). -/
def doLnkEnable (l : Nat) (s : State) : State :=
  let s1 := s.setRBit (rLnkCtl l) 0 true
  if !s.up then s else if lnkEn s l || !lnkPresent s l then s1
  else if (getLnk s l).dead then setLnkState s1 l 6 else trainStart s1 l
def execLnkEnable (l : Fin 48) (s : State) : Res := .next (doLnkEnable l s)

/-- LNK_CTL.EN := 0: DOWN, then electrical idle; the link is lost with cause 5 where it was UP. -/
def doLnkDisable (l : Nat) (s : State) : State :=
  if s.up && lnkEn s l then
    let s1 := s.setRBit (rLnkCtl l) 0 false
    if lnkPresent s l then lnkDown s1 l 5 0 else s1
  else s
def execLnkDisable (l : Fin 48) (s : State) : Res := .next (doLnkDisable l s)

/-- Every rate is restored (R415). -/
def restoreRates (s : State) (l : Nat) : State :=
  setLnk s l { getLnk s l with gone := 0, rate := 0, fails := 0, dead := false }

/-- LNK_CTL.RETRAIN: DOWN, then training with every rate restored (R415). -/
def doLnkRetrain (l : Nat) (s : State) : State :=
  if s.up && lnkEn s l && lnkPresent s l then restoreRates (lnkDown s l 5 1) l else s
def execLnkRetrain (l : Fin 48) (s : State) : Res := .next (doLnkRetrain l s)

/-! ### Training events -/

/-- BASE_PAGE: three identical pages, and one that acknowledges the own ones, end the base exchange, and the selection
is taken (Table 10.7 steps 2 and 3). -/
def doBasePage (l : Nat) (cap serial port : Nat) (ack : Bool) (lanes : Nat) (s : State) : State :=
  let k := getLnk s l
  if lnkPresent s l && lnkEn s l && (k.step = 1 || k.step = 2) then
    let page := cap + serial * 2 ^ 64 + port * 2 ^ 112 + 2 ^ 118
    let n := if k.page = page then k.pages + 1 else 1
    let s1 := setLnkState (setLnk s l { k with
      step := 2, page := page, pages := n, lanes := lanes, acked := k.acked || ack }) l 2
    if n < 3 ∨ (k.acked || ack) = false then s1
    else
      let s2 := s1.setReg (rLnkPartner l) (put cap 0)
      if selOk s2 l then setLnkState (setLnk s2 l { getLnk s2 l with step := 3 }) l 3 else trainFail s2 l 3
  else s
def execBasePage (l : Fin 48) (cap : BitVec 64) (serial : BitVec 48) (port : BitVec 6) (ack : Bool) (lanes : BitVec 4)
    (s : State) : Res := .next (doBasePage l cap.toNat serial.toNat port.toNat ack lanes.toNat s)

/-- TRAINING_STEP_TIMEOUT: the step that the port is in fails; steps 3 to 6 follow the exchange. -/
def doTrainingStepTimeout (l step : Nat) (s : State) : State :=
  let k := (getLnk s l).step
  if k ≠ 0 ∧ lnkState s l ≤ 3 ∧ (step = k ∨ (k = 3 ∧ 3 ≤ step ∧ step ≤ 6)) then trainFail s l step else s
def execTrainingStepTimeout (l : Fin 48) (step : BitVec 3) (s : State) : Res :=
  .next (doTrainingStepTimeout l step.toNat s)

/-- TRAINING_RESTART: the electrical idle of an enabled port ends. -/
def doTrainingRestart (l : Nat) (s : State) : State :=
  if lnkPresent s l && lnkEn s l && (getLnk s l).step = 0 && lnkState s l ≤ 1 then trainStart s l else s
def execTrainingRestart (l : Fin 48) (s : State) : Res := .next (doTrainingRestart l s)

/-! ### Flits (R407, R408, R410) -/

/-- The partner has taken a data flit: what a unit of this die sent is acknowledged; another unit is told (R429, R435). -/
def flitAcked (l : Nat) (s : State) (t : TxFlit) : State :=
  match t.unit with
  | none => s
  | some u =>
    if u = l / 6 then collsAcked s (fun q => q = l) t.part t.gid (fun n => n % 256 = t.opseq) t.pay.length
    else sendAccc s (unitHdr (l / 6) u t.part) 2 t.gid (fullOpseq s t.part t.gid t.opseq) t.pay.length

/-- ACK, credits and NAK of a valid header: NAK replays from ACK + 1 (R407, R410). -/
def takeHeader (s : State) (l : Nat) (f : Flit) : State :=
  let k := getLnk s l
  let s1 := setLnk s l { k with ackRx := f.ack.toNat, crdD := k.crdD + f.crdD.toNat, crdC := k.crdC + f.crdC.toNat }
  let left := afterSeq k f.ack.toNat
  let s2 := ((afterSeq k k.ackRx).filter fun t => !left.contains t).foldl (flitAcked l) s1
  if f.nak then replayFrom s2 l f.ack.toNat else s2

/-- Step 6: the link is UP at the selection (Table 10.7). -/
def linkUp (s : State) (l w : Nat) : State :=
  let k := getLnk s l
  let r := selRate s l
  let p := k.page
  let gen := bits (s.reg (rLnkPartner l)) 10 9
  let n := (s.fld (rLnkStat l) 35 20 + 1) % 65536
  let s1 := s.setReg (rLnkStat l) (put 4 0 ||| put r 8 ||| put r 10 ||| put w 12 ||| put (useLanes k.lanes w) 14 |||
    put gen 18 ||| put n 20)
  let s2 := (s1.setReg (rLnkPid l) (put (p / 2 ^ 64 % 2 ^ 54) 0)).setFld (rLnkEvent l) 11 8 0
  let s3 := setLnk s2 l { k with
    rxSeq := 0xFFF, ackRx := 0xFFF, nak := false, gap := false, miss := 0, fails := 0, crdD := 0, crdC := 0, txSeq := 0, sent := [] }
  event0 s3 0x0401 (l / 6) none [put l 0 ||| put r 8 ||| put r 10 ||| put w 12, put (p / 2 ^ 64 % 2 ^ 54) 0]

/-- Step 6 ends once the port has sent its keepalive and the partner's has come. -/
def stepSix (s : State) (l : Nat) : State :=
  let k := getLnk s l
  if k.kaOut && k.kaIn then linkUp s l (widthFor s l (laneCount k.lanes)) else s

/-- The port is past the switch to RATE in training (Table 10.7 steps 4 to 6). -/
def pastSwitch (s : State) (l : Nat) : Bool := lnkState s l = 3 && (getLnk s l).step = 3

/-- KEEPALIVE_SEND: once in every 1 µs interval (R408). In step 6 of training it carries ACK = 0xFFF. -/
def doKeepaliveSend (l : Nat) (s : State) : State :=
  if lnkState s l = 4 then sendFlit s l 2 0 []
  else if pastSwitch s l then
    let s1 := sendFlit s l 2 0 []
    stepSix (setLnk s1 l { getLnk s1 l with kaOut := true }) l
  else s
def execKeepaliveSend (l : Fin 48) (s : State) : Res := .next (doKeepaliveSend l s)

/-- KEEPALIVE_FLIT: ACK and credits of a link that is UP; in training the partner's keepalive with
ACK 0xFFF ends its part of step 6, or fails step 5 where the width is too small (R414, R415). -/
def doKeepaliveFlit (l : Nat) (f : Flit) (s : State) : State :=
  if flitOk s l 2 f = false then s
  else if lnkState s l = 4 then takeHeader s l f
  else if pastSwitch s l = true ∧ f.ack = 0xFFF then
    if widthOk s l (widthFor s l (laneCount (getLnk s l).lanes)) then stepSix (setLnk s l { getLnk s l with kaIn := true }) l
    else trainFail s l 5
  else s
def execKeepaliveFlit (l : Fin 48) (f : Flit) (s : State) : Res := .next (doKeepaliveFlit l f s)

/-- IDLE_FLIT: ACK and credits. -/
def doIdleFlit (l : Nat) (f : Flit) (s : State) : State :=
  if lnkState s l = 4 ∧ flitOk s l 0 f = true then takeHeader s l f else s
def execIdleFlit (l : Fin 48) (f : Flit) (s : State) : Res := .next (doIdleFlit l f s)

/-- DATA_FLIT: taken in order of SEQ. One whose FCRC fails, or that leaves a gap, is discarded with those after it, until
the replay that the next header asks for delivers the missing SEQ (R410). -/
def doDataFlit (l : Nat) (f : Flit) (s : State) : State :=
  let k := getLnk s l
  if lnkState s l ≠ 4 then s
  else if flitOk s l 1 f = false then setLnk s l { k with nak := true, gap := true }
  else
    let gap := (f.seq.toNat + 8192 - k.rxSeq - 1) % 4096
    if gap = 0 then
      let s1 := takeHeader s l f
      setLnk s1 l { getLnk s1 l with rxSeq := f.seq.toNat, nak := false, gap := false }
    else if gap < 1024 ∧ k.gap = false then setLnk s l { k with nak := true, gap := true }
    else s
def execDataFlit (l : Fin 48) (f : Flit) (s : State) : Res := .next (doDataFlit l f s)

/-- DOWN_FLIT: the link is lost at once with cause 4 (R418). -/
def doDownFlit (l : Nat) (f : Flit) (s : State) : State :=
  if lnkLive s l ∧ flitOk s l 4 f = true then linkLost s l 4 1 else s
def execDownFlit (l : Fin 48) (f : Flit) (s : State) : Res := .next (doDownFlit l f s)

/-! ### Lane sparing (R416) and the receive window (R417) -/

/-- The link enters recovery: flits stop and the recovery pattern goes out. PARTNER_GEN reads 0 (R448). -/
def lnkRecover (s : State) (l : Nat) : State :=
  if lnkState s l = 5 then s else ((setLnkState s l 5).setFld (rLnkStat l) 19 18 0).send (.link l 5 [])

/-- LANE_FAILURE: a lane of a link that is UP or in recovery leaves service; too few lanes lose the
link with cause 3. In training a lane that does not lock is excluded (Table 10.7 step 5). -/
def doLaneFailure (l lane : Nat) (s : State) : State :=
  let k := getLnk s l
  if k.lanes / 2 ^ lane % 2 = 0 then s
  else
    let left := k.lanes - 2 ^ lane
    let s1 := setLnk s l { k with lanes := left }
    let w := widthFor s1 l (laneCount left)
    if lnkLive s l then
      let bad := (BitVec.ofNat 4 (s.fld (rLnkEvent l) 11 8) ||| BitVec.ofNat 4 (2 ^ lane)).toNat
      let s2 := cntInc (s1.setFld (rLnkEvent l) 11 8 bad) (0x3080 + l) 0 1
      if widthOk s2 l w then lnkRecover s2 l else linkLost s2 l 3 1
    else if k.step = 3 then if widthOk s1 l w then s1 else trainFail s1 l 5
    else s1
def execLaneFailure (l : Fin 48) (lane : Fin 4) (s : State) : Res := .next (doLaneFailure l lane s)

/-- RECOVERY_PATTERN: the end enters recovery with its partner. -/
def doRecoveryPattern (l : Nat) (s : State) : State := if lnkState s l = 4 then lnkRecover s l else s
def execRecoveryPattern (l : Fin 48) (s : State) : Res := .next (doRecoveryPattern l s)

/-- LINK_RECOVERY_DONE: the link resumes at the widest width of its working lanes, and replays from
the last acknowledged flit. -/
def doLinkRecoveryDone (l : Nat) (s : State) : State :=
  if lnkState s l ≠ 5 then s
  else
    let k := getLnk s l
    let old := s.fld (rLnkStat l) 13 12
    let w := widthFor s l (laneCount k.lanes)
    if widthOk s l w = false then linkLost s l 3 1
    else
      let s1 := (((setLnkState s l 4).setFld (rLnkStat l) 13 12 w).setFld (rLnkStat l) 17 14 (useLanes k.lanes w)).setFld
        (rLnkStat l) 19 18 (bits (s.reg (rLnkPartner l)) 10 9)
      let s2 := replayFrom (setLnk s1 l { k with miss := 0 }) l k.ackRx
      let s3 := if w < old then s2.setRBit (rLnkEvent l) 1 true else s2
      event0 s3 0x0403 (l / 6) none [put l 0 ||| put w 12, put (s.fld (rLnkEvent l) 11 8) 0]
def execLinkRecoveryDone (l : Fin 48) (s : State) : Res := .next (doLinkRecoveryDone l s)

/-- LINK_RECOVERY_TIMEOUT: lost with cause 2. -/
def doLinkRecoveryTimeout (l : Nat) (s : State) : State := if lnkState s l = 5 then linkLost s l 2 1 else s
def execLinkRecoveryTimeout (l : Fin 48) (s : State) : Res := .next (doLinkRecoveryTimeout l s)

/-- KEEPALIVE_WINDOW_END: the fourth missed window in a row loses the link with cause 1; recovery
suspends the count. -/
def doKeepaliveWindowEnd (l : Nat) (seen : Bool) (s : State) : State :=
  let k := getLnk s l
  if lnkState s l ≠ 4 then s
  else if seen then setLnk s l { k with miss := 0 }
  else if k.miss + 1 < 4 then setLnk s l { k with miss := k.miss + 1 }
  else linkLost s l 1 1
def execKeepaliveWindowEnd (l : Fin 48) (seen : Bool) (s : State) : Res := .next (doKeepaliveWindowEnd l seen s)

end Sys2Proof.Machine
end

