-- ==== Sys2Proof/Machine/Boot.lean ====
section
/-! DEFINITION. Resets and the sequences that lead to MOD_READY: signed objects, measurements, boot
stages, discovery, guest admission, memory initialisation and the repair record; the warm reset and the
fatal error as shared operations (R382 to R389, R522 to R537, R575 to R578, R593 to R599). -/

namespace Sys2Proof.Machine

/-! ### Signed objects (R523 to R526) -/

/-- Contents of the slot of TYPE `ty`: written in the field, or as delivered. -/
def imageSlot (s : State) (ty : Nat) : Option (List Byte) :=
  match s.sec.flash.find? fun p => p.1 = ty with
  | some p => p.2
  | none => Config.factoryImage ty

def setSlot (s : State) (ty : Nat) (v : Option (List Byte)) : State :=
  { s with sec := { s.sec with flash := smInsert s.sec.flash ty v } }

/-- Flash offset of the slot of a TYPE (Table 13.4). -/
def imageOffset (ty : Nat) : Nat :=
  if ty = 1 then 0x40000 else if ty = 2 then 0x240000 else if ty = 3 then 0x1240000 else 0x1A40000

/-- Largest PAYLOAD_BYTES of a TYPE, or the exact number for a command or token (Table 13.4). -/
def payloadOk (ty n : Nat) : Bool :=
  if ty = 1 then n ≤ 0x1FFC00 else if ty = 2 then n ≤ 0xFFFC00 else if ty = 3 then n ≤ 0x7FFC00
  else if ty = 4 then n ≤ 2048 else if ty = 0x10 then n = 128 else n = 64

def objTypes : List Nat := [1, 2, 3, 4, 0x10, 0x11]

/-- Usage bit of a TYPE (Table 13.3). -/
def usageBit (ty : Nat) : Nat := if ty ≤ 4 then ty - 1 else ty - 12

/-- Bytes of an object are zero. -/
def zeroAt (b : List Byte) (o n : Nat) : Bool := bF b o n = 0

def oType (b : List Byte) : Nat := bF b 6 1
def oSlot (b : List Byte) : Nat := bF b 7 1
def oSvn (b : List Byte) : Nat := bF b 8 1
def oCommit (b : List Byte) : Bool := bF b 9 1 % 2 = 1
def oBytes (b : List Byte) : Nat := bF b 12 4
def oPayload (b : List Byte) : List Byte := (b.drop 1024).take (oBytes b)

/-- Format of the header (R523). -/
def objFormat (b : List Byte) : Bool :=
  decide (1024 ≤ b.length) && bF b 0 4 = 0x31474D49 && bF b 4 2 = 1 && objTypes.contains (oType b) &&
    (oType b ≤ 4 || oSvn b = 0) && bF b 9 1 < 2 && zeroAt b 10 2 && zeroAt b 56 8 && zeroAt b 452 60 &&
    zeroAt b 896 128 && payloadOk (oType b) (oBytes b) && decide (1024 + oBytes b ≤ b.length)

/-- KEYHASH of a slot: programmed by DEPLOY, or at provisioning. -/
def keyHash (s : State) (k : Nat) : Digest :=
  match s.sec.fuses.hash.find? fun p => p.1 = k with
  | some p => p.2
  | none => Config.factoryHash k

def svnOf (s : State) (ty : Nat) : Nat := smGet 0 s.sec.fuses.svn ty

/-- Acceptance of an object where the types of `want` are expected: status of Table 13.20, 0 accepted;
the first check that fails decides (R524). -/
def objCheck (s : State) (want : List Nat) (b : List Byte) : Nat :=
  let k := oSlot b
  let f := s.sec.fuses.slot
  if !objFormat b then 2
  else if !want.contains (oType b) then 2
  else if 4 ≤ k ∨ bit f (8 * k) = false ∨ bit f (8 * k + 1) = true ∨ bit f (8 * k + 2 + usageBit (oType b)) = false then 3
  else if digestOf (sha256 ((b.drop 64).take 388)) ≠ keyHash s k ∨ beNat ((b.drop 448).take 4) ≠ 65537 then 4
  else if !rsaPssOk ((b.drop 64).take 384) ((b.drop 512).take 384) (b.take 512) then 5
  else if oType b ≤ 4 ∧ oSvn b < svnOf s (oType b) then 6
  else if sha256 (oPayload b) ≠ (b.drop 24).take 32 then 7
  else 0

/-- Status of the image in the slot of TYPE `ty`; an empty slot fails its format. -/
def imageCheck (s : State) (ty : Nat) : Nat :=
  match imageSlot s ty with
  | some b => objCheck s [ty] b
  | none => 2

/-! ### Measurements (R534 to R537) -/

def zeros (n : Nat) : List Byte := List.replicate n 0

/-- Extends register `i` by a digest and appends the log entry (Table 13.8). -/
def extend (s : State) (i kind : Nat) (d rec : List Byte) : State :=
  let m := smGet 0 s.sec.meas i
  let e := leBytes 1 i ++ leBytes 1 kind ++ leBytes 2 s.sec.log.length ++ d ++ (rec ++ zeros 28).take 28
  { s with sec := { s.sec with
      meas := smSet 0 s.sec.meas i (digestOf (sha256 (digestBytes m ++ d)))
      log := (s.sec.log ++ [e]).take 64 } }

/-- Extends by the SHA-256 of a record of 28 bytes. -/
def extendRec (s : State) (i kind : Nat) (rec : List Byte) : State :=
  let r := (rec ++ zeros 28).take 28
  extend s i kind (sha256 r) r

/-- Extends register `i` with the image of a slot, or with zeros where none was accepted. -/
def extendImage (s : State) (i : Nat) (b : Option (List Byte)) : State :=
  match b with
  | some b => extend s i 1 (sha256 (b.take 512)) ((b.drop 6).take 1 ++ (b.drop 8).take 1 ++ (b.drop 7).take 1 ++ (b.drop 16).take 8)
  | none => extend s i 1 (zeros 32) []

/-- SESSION_SEQ of SEC_STATE. -/
def sessionSeq (s : State) : Nat := s.fld rSecState 31 16

/-- M7 takes a debug state record (R537). -/
def extendDebug (s : State) (level port ev flags : Nat) (tok : List Byte) : State :=
  extendRec s 7 4 (leBytes 1 level ++ leBytes 1 port ++ leBytes 1 ev ++ leBytes 1 flags ++
    leBytes 1 s.sec.fuses.life ++ leBytes 2 (sessionSeq s) ++ zeros 1 ++ (tok ++ zeros 20).take 20)

/-- M5 takes the configuration record (R536). -/
def extendConfig (s : State) : State :=
  extendRec s 5 2 (leBytes 1 s.sec.fuses.life ++ (List.range 4).flatMap (fun i => leBytes 1 (svnOf s (i + 1))) ++
    leBytes 4 s.sec.fuses.slot.toNat ++ leBytes 6 Config.serial.toNat)

/-! ### The repair record (R596, R597) -/

/-- The copy in use: of those that are valid, the one of higher GEN. -/
def repairOf (s : State) : Repair :=
  match s.fabr.repA, s.fabr.repB with
  | some a, some b => if a.gen < b.gen then b else a
  | some a, none => a
  | none, some b => b
  | none, none => .fresh

/-- Writes a repair to the older copy with GEN one higher. -/
def repairWrite (s : State) (f : Repair → Repair) : State :=
  let r := repairOf s
  let n := { f r with gen := r.gen + 1 }
  if s.fabr.repA = some r then { s with fabr := { s.fabr with repB := some n } }
  else { s with fabr := { s.fabr with repA := some n } }

/-- Word of a DRAM row of a stack (Table 15.8). -/
def rowWord (stack : Nat) (r : DramRow) : Nat :=
  stack + r.pc.toNat * 16 + r.bank.toNat * 512 + r.row.toNat * 32768

/-- Soft row repairs become hard (R293), and SRAM rows with a second uncorrectable word are repaired
from 32 spare rows per slice (R598). Answers the dies of slices that have none left. -/
def repairAtReset (s : State) : State × List Nat :=
  let r := repairOf s
  let rows := s.fabr.soft.filter fun w => !r.rows.contains w
  let need := (s.fabr.sram.filter fun p => 2 ≤ p.2 ∧ !r.ssRows.contains p.1).map Prod.fst
  let res := need.foldl (fun (a : List Nat × List Nat) w =>
    if (a.1.filter fun x => x % 512 = w % 512).length < 32 then (a.1 ++ [w], a.2) else (a.1, a.2 ++ [w % 8])) (r.ssRows, [])
  let s1 := if rows.isEmpty ∧ res.1 = r.ssRows then s
    else repairWrite s fun r => { r with rows := r.rows ++ rows, ssRows := res.1 }
  ({ s1 with fabr := { s1.fabr with soft := [], sram := [] } }, res.2)

/-! ### Discovery (R370 to R372, R382 to R384, R387, R389) -/

/-- The dies of column edge 8 + `i`. -/
def colDies (i : Nat) : Nat × Nat := if i < 3 then (i, i + 1) else (i + 1, i + 2)

/-- Modules of an edge (R370): 8 of a hub or column edge, 4 of a media edge. -/
def edgeMods (e : Nat) : Nat := if e < 14 then 8 else 4

/-- Module `m` of an edge passes the interconnect test. -/
def testPassed (f : BoardFacts) (e m : Nat) : Bool :=
  if e < 8 then bit (f.hubMods.getD e 0) m else if e < 14 then bit (f.colMods.getD (e - 8) 0) m
  else bit (f.siteMods.getD (e - 14) 0) m

/-- Lanes of a list that belong to module `m` of edge `e`. -/
def lanesAt (ls : List LaneAt) (e m : Nat) : List LaneAt := ls.filter fun l => l.edge.val = e ∧ l.mod.val = m

/-- Lane repairs of a module in the repair record (Table 15.8). -/
def recordLanes (r : Repair) (e m : Nat) : List Nat := r.lanes.filter fun w => w % 16 = e ∧ w / 16 % 8 = m

/-- Redundant lanes of a module that the fused map, the repair record and the field test of this reset use
together (R387). -/
def lanesUsed (f : BoardFacts) (r : Repair) (e m : Nat) : Nat :=
  (lanesAt f.fused e m).length + (recordLanes r e m).length + (lanesAt f.lanes e m).length

/-- A module is in service after the test: it passes, and needs at most its 4 redundant lanes (R387). -/
def modPasses (f : BoardFacts) (r : Repair) (e m : Nat) : Bool :=
  testPassed f e m && decide (lanesUsed f r e m ≤ 4)

/-- Modules of an edge in service after the test. -/
def foundMods (f : BoardFacts) (r : Repair) (e : Nat) : List Nat := (List.range (edgeMods e)).filter (modPasses f r e)

/-- Each logical link of an edge has a module in service (R370, R372). -/
def edgeLinks (f : BoardFacts) (r : Repair) (e : Nat) : Bool :=
  (foundMods f r e).any (fun m => decide (m < 4)) && (decide (14 ≤ e) || (foundMods f r e).any fun m => decide (4 ≤ m))

/-- Word of a field lane repair (Table 15.8): edge, module, failed lane, spare lane, valid. -/
def laneWord (e m lane spare : Nat) : Nat := e + m * 16 + lane * 128 + spare * 32768 + 2 ^ 31

/-- The repairs that the field test makes go into the record, each with the next redundant lane of its module,
64 to 67, for modules that stay in service (R387). -/
def fieldRepairs (f : BoardFacts) (s : State) : State :=
  let r := repairOf s
  let ls := f.lanes.filter fun l => modPasses f r l.edge l.mod
  if ls.isEmpty then s
  else repairWrite s fun r => { r with lanes := ls.foldl (fun ws l =>
    ws ++ [laneWord l.edge l.mod l.lane.toNat
      (64 + (lanesAt f.fused l.edge l.mod).length + (recordLanes { r with lanes := ws } l.edge l.mod).length)]) r.lanes }

/-- The dies of column edge 8 + `i` report that the substrate joins them as the package drawing does (R384). -/
def colJoined (f : BoardFacts) (i : Nat) : Bool :=
  let n := f.colNums.getD i (0, 0)
  decide ((n.1.toNat, n.2.toNat) = colDies i)

/-- Compute dies that discovery keeps: of those that identified themselves, with a working hub edge and spare
rows; of a failed column edge the higher-numbered die is left out (R372, R384). -/
def foundDies (f : BoardFacts) (r : Repair) (out : List Nat) : List Nat :=
  let d0 := (List.range 8).filter fun d => bit f.dies d && edgeLinks f r d && !out.contains d
  (List.range 6).foldl (fun ds i =>
    let e := colDies i
    if ds.contains e.1 && ds.contains e.2 && !(edgeLinks f r (8 + i) && colJoined f i) then ds.filter fun d => d ≠ e.2
    else ds) d0

/-- Bits of a list of numbers. -/
def bitsOf (l : List Nat) : Nat := l.foldl (fun n i => if n / 2 ^ i % 2 = 1 then n else n + 2 ^ i) 0

/-- FLAGS of the first allow-list entry that admits a guest (R388, R389, Table 9.7). -/
def admits (allow : Option (List Byte)) (vid did rev : Nat) : Option Nat :=
  match allow with
  | none => none
  | some b => firstSome (fun e =>
      if bF e 0 2 = vid ∧ bF e 2 2 = did ∧ bF e 4 1 ≤ rev ∧ bF e 5 1 < 2 ∧ bF e 6 2 = 0 then some (bF e 5 1) else none)
      (chunks 8 256 (oPayload b))

/-- What is fitted at media site 9 + `m`. -/
def siteAt (f : BoardFacts) (m : Nat) : SiteFit := f.sites.getD m .blank

/-- Kind of a media site. -/
def siteKind : SiteFit → Nat
  | .blank => 0
  | .atomizer => 1
  | .guest _ _ _ _ => 2

/-- MEDIA_KIND: the kind fitted, of the first site that is not blank (Table 1.8). -/
def mediaKind (f : BoardFacts) : Nat := if siteKind (siteAt f 0) = 0 then siteKind (siteAt f 1) else siteKind (siteAt f 0)

/-- FLAGS of the guest at site 9 + `m`, none where no guest is admitted there. -/
def guestFlags (f : BoardFacts) (allow : Option (List Byte)) (m : Nat) : Option Nat :=
  match siteAt f m with
  | .guest vid did rev false => admits allow vid.toNat did.toNat rev.toNat
  | _ => none

/-- Media site 9 + `m` holds an admitted die with a trained edge. -/
def siteIn (f : BoardFacts) (r : Repair) (atzOk : Bool) (allow : Option (List Byte)) (m : Nat) : Bool :=
  edgeLinks f r (14 + m) &&
    match siteAt f m with
    | .blank => false
    | .atomizer => atzOk
    | .guest _ _ _ _ => (guestFlags f allow m).isSome

/-- Modules in service of an edge once discovery has run: none of an edge that is out of service, joins a site
with no die, or a guest that is not admitted, whose mainband stays untrained (R372, R389). -/
def edgeMask (f : BoardFacts) (r : Repair) (allow : Option (List Byte)) (e : Nat) : List Nat :=
  let on := if e < 8 then bit f.dies e
    else if e < 14 then bit f.dies (colDies (e - 8)).1 && bit f.dies (colDies (e - 8)).2 && colJoined f (e - 8)
    else siteKind (siteAt f (e - 14)) = 1 || (guestFlags f allow (e - 14)).isSome
  if on && edgeLinks f r e then foundMods f r e else []

/-- Number of modules in service of an edge. -/
def edgeCount (f : BoardFacts) (r : Repair) (allow : Option (List Byte)) (e : Nat) : Nat := (edgeMask f r allow e).length

/-- A register that only firmware writes takes its map, in a layout that the manual does not give: a free value
(R315, R399). -/
def firmwareMap (s : State) (r : Nat) : State := (s.setReg r (Config.freeValue s.fresh)).nextFresh

/-- Step 3 for a compute die (Tables 9.6, 9.10): DISC gives it the number of its port, DACK answers. -/
def assignDie (s : State) (d : Nat) : State :=
  let h : DieHdr := ⟨2, 8, BitVec.ofNat 4 d, 0, 0, 0, 0, false, false, false⟩
  let t := (s.setReg (rDieIdent d) (dieIdent d)).sends
    [.die 0x30 h [d], .die 0x31 { h with src := BitVec.ofNat 4 d, dst := 8 } [0]]
  { t with fabr := { t.fabr with acked := smSet 0 t.fabr.acked d (d + 1) } }

/-- Step 3 for an Atomizer at site 9 + `m`. -/
def assignSite (s : State) (m : Nat) : State :=
  let h : DieHdr := ⟨2, 8, BitVec.ofNat 4 (9 + m), 0, 0, 0, 0, false, false, false⟩
  let t := s.sends [.die 0x30 h [9 + m], .die 0x31 { h with src := BitVec.ofNat 4 (9 + m), dst := 8 } [0]]
  { t with fabr := { t.fabr with acked := smSet 0 t.fabr.acked (9 + m) (9 + m + 1) } }

/-- Registers of a die that identified itself: modules in service of its edges, and the maps of its firmware
registers. -/
def dieRegs (f : BoardFacts) (r : Repair) (allow : Option (List Byte)) (s : State) (d : Nat) : State :=
  let up := if d % 4 ≠ 0 then edgeCount f r allow (8 + d - 1 - d / 4) else 0
  let dn := if d % 4 ≠ 3 then edgeCount f r allow (8 + d - d / 4) else 0
  let t := s.setReg (rEdgeStat d) (put (edgeCount f r allow d) 0 ||| put up 4 ||| put dn 8)
  [rHbmRepair d, rHbmTrain d, rDieLaneMap d].foldl firmwareMap t

/-- Step 8 for the hub: the capability registers, clusters in service, modules per port (R9, R56 to R59, R401). -/
def hubRegs (f : BoardFacts) (r : Repair) (out : List Nat) (atzOk : Bool) (allow : Option (List Byte)) (s : State) : State :=
  let ds := foundDies f r out
  let clus := (List.range 32).filter fun c => ds.contains (c / 4) && !bit (smGet 0 r.clus c) 40
  let media := (List.range 2).filter fun m => siteIn f r atzOk allow m
  let s1 := s.setReg rCap0 (put (bitsOf ds) 0 ||| put (bitsOf media) 8 ||| put (mediaKind f) 10 ||| put (bitsOf clus) 16 ||| put 0x11 48)
  let s2 := s1.setFld rCap1 15 0 (bitsOf ((List.range 16).filter fun k => bit f.hbm k && ds.contains (k / 2)))
  let s3 := (s2.setFld rCap3 47 0 (bitsOf ((List.range 48).filter fun l => bit f.links l && ds.contains (l / 6)))).setFld
    rCap3 49 48 f.shlFitted.toNat
  let s4 := (List.range 2).foldl (fun s m => s.setFld rCap3 (55 + 4 * m) (52 + 4 * m)
    (if media.contains m && siteKind (siteAt f m) = 1 then (f.atzFunc.getD m 0).toNat else 0)) s3
  let s5 := s4.setReg rCluState (put (bitsOf clus) 0)
  firmwareMap (s5.setReg rFabStat ((List.range 10).foldl (fun w i =>
    setBits w (4 * i + 3) (4 * i) (edgeCount f r allow (if i < 8 then i else 6 + i))) 0)) rHubLaneMap

/-- Modules out of service and redundant lanes in use, as the tables of the fabric keep them. -/
def modTables (f : BoardFacts) (r : Repair) (allow : Option (List Byte)) (s : State) : State :=
  let ks := (List.range 128).filter fun k => decide (k % 8 < edgeMods (k / 8))
  { s with fabr := { s.fabr with
      mods := (ks.filter fun k => !(edgeMask f r allow (k / 8)).contains (k % 8)).foldl (fun m k => smSet 0 m k 2) []
      lanes := ks.foldl (fun m k => smSet 0 m k (min 4 (lanesUsed f r (k / 8) (k % 8)))) [] } }

/-- Step 7: an admitted guest's firewall starts closed; the rail of a guest that is not admitted goes off. -/
def admitGuest (f : BoardFacts) (r : Repair) (atzOk : Bool) (allow : Option (List Byte)) (s : State) (m : Nat) : State :=
  match guestFlags f allow m with
  | some fl =>
    if siteIn f r atzOk allow m then
      let t := s.setRBit (rFwCtl m) 0 true
      { t with fabr := { t.fabr with sites := smSet ⟨0, 0, 0, [], [], 0⟩ t.fabr.sites m ⟨fl, 0, 0, [], [], 0⟩ } }
    else s
  | none => if siteKind (siteAt f m) = 2 then { s with fabr := { s.fabr with rails := s.fabr.rails ++ [9 + m] } } else s

/-- Discovery: the steps of Table 9.6 in order. -/
def discover (f : BoardFacts) (out : List Nat) (atzOk : Bool) (allow : Option (List Byte)) (s : State) : State :=
  let s1 := ((List.range 8).filter fun d => bit f.dies d).foldl assignDie s
  let s2 := ((List.range 2).filter fun m => siteKind (siteAt f m) = 1).foldl assignSite s1
  let r := repairOf s2
  let s3 := modTables f r allow (fieldRepairs f s2)
  let s4 := (List.range 2).foldl (admitGuest f r atzOk allow) s3
  let s5 := ((List.range 8).filter fun d => bit f.dies d).foldl (dieRegs f r allow) s4
  hubRegs f r out atzOk allow s5

/-! ### Boot (R527, R528) -/

/-- Event 0x0703: an image is rejected; `src` 0 boot, 1 FLASH job. -/
def rejectEvent (s : State) (ty st src : Nat) : State :=
  event0 s 0x0703 8 none [put ty 0 ||| put st 8 ||| put src 12, put (imageOffset ty) 0]

/-- The ROM enters recovery (R530). -/
def enterRecovery (s : State) (ty st : Nat) : State :=
  let s1 := (rejectEvent s ty st 0).setRBit rSecState 8 true
  { s1 with mod := { s1.mod with phase := .recovery } }

/-- Event 0x0704 and the fuses of a committed image (R533). -/
def commitImage (s : State) (b : List Byte) : State :=
  let n := min (oSvn b) 16
  if oCommit b ∧ svnOf s (oType b) < n then
    event0 { s with sec := { s.sec with fuses := { s.sec.fuses with svn := smSet 0 s.sec.fuses.svn (oType b) n } } }
      0x0704 8 none [put (oType b) 0 ||| put n 8, 0]
  else s

/-- A present link with EN set begins to train (Table 14.9). -/
def trainLinks (s : State) : State :=
  (List.range 48).foldl (fun s l => if lnkPresent s l && lnkEn s l then trainStart s l else s) s

/-- Record 0x0915 of a retired page (R599). -/
def pageRecord (s : State) (page : Nat) : State :=
  errRecord s { code := 0x0915, cls := 0, die := hbmStack page / 2, unit := 3, index := hbmStack page, addr := page }

/-- Address of a page word of the repair record. -/
def pageOf (w : Nat) : Nat := w / 2 ^ 21 % 2 ^ 27 * 2 ^ 21

/-- MOD_READY: links train, committed images advance their counters, retired pages are reported. -/
def moduleReady (s : State) (imgs : List (List Byte)) : State :=
  let s1 := { s with mod := { s.mod with phase := .up, auto := false } }
  let s2 := imgs.foldl commitImage (trainLinks s1)
  (repairOf s2).pages.foldl (fun s w => pageRecord s (pageOf w)) s2

/-- Records 0x0912 of short edges where neither copy of the repair record is valid (R597). -/
def shortEdges (f : BoardFacts) (s : State) : State :=
  (List.range 16).foldl (fun s e =>
    let n := (foundMods f .fresh e).length
    if n < edgeMods e then errRecord s { code := 0x0912, cls := 2, unit := 4, index := e * 8, cause := n }
    else s) s

/-- The image in a slot, where it is accepted. -/
def accepted (s : State) (ty : Nat) : Option (List Byte) := if imageCheck s ty = 0 then imageSlot s ty else none

/-- An image that boot can do without: its register, and event 0x0703 where it is rejected. -/
def bootOptional (s : State) (ty i : Nat) : State :=
  let s1 := extendImage s i (accepted s ty)
  if imageCheck s ty = 0 then s1 else rejectEvent s1 ty (imageCheck s ty) 0

/-- One record in M6 per admitted guest. -/
def extendGuests (f : BoardFacts) (s : State) : State :=
  (List.range 2).foldl (fun s m => match siteAt f m with
    | .guest vid did rev _ =>
      if s.rbit (rFwCtl m) 0 then
        extendRec s 6 3 (leBytes 1 (9 + m) ++ leBytes 2 vid.toNat ++ leBytes 2 did.toNat ++ leBytes 1 rev.toNat)
      else s
    | _ => s) s

/-- Steps 4 to 7 of Table 14.9 with the stages of Table 13.5. -/
def bringUp (f : BoardFacts) (s : State) : State :=
  let s0 := extend s 0 1 (digestBytes Config.romDigest) []
  if imageCheck s0 1 ≠ 0 then enterRecovery s0 1 (imageCheck s0 1)
  else
    let s1 := extendImage s0 1 (imageSlot s0 1)
    let idOk := f.identityOk && !s1.sec.fuses.kill && !s1.sec.erased
    let s2 := s1.setRBit rSecState 9 idOk
    let s3 := if idOk then s2 else event0 s2 0x0705 8 none [0, 0]
    let s4 := extendDebug (extendConfig s3) 0 0 0 0 []
    if imageCheck s4 2 ≠ 0 then enterRecovery s4 2 (imageCheck s4 2)
    else
      let s5 := bootOptional (bootOptional (extendImage s4 2 (imageSlot s4 2)) 4 4) 3 3
      let s6 := if s5.fabr.repA = none ∧ s5.fabr.repB = none then
          shortEdges f { s5 with fabr := { s5.fabr with repA := some .fresh } }
        else s5
      let r := repairAtReset s6
      let s7 := discover f r.2 (accepted s5 3).isSome (accepted s5 4) r.1
      moduleReady (extendGuests f s7) ([1, 2, 3, 4].filterMap fun ty => accepted s5 ty)

/-! ### What a reset clears (R577, R578, R602) -/

/-- Registers that a warm reset keeps: the always-on domain, HUB_CAP_EPOCH, and the counts since cold
reset of sessions and of ports and links reaching UP. -/
def warmRegs (s : State) : SMap Word :=
  let m := s.regs.filter fun p => (0x200000030000 ≤ p.1 ∧ p.1 < 0x200000040000) ∨ p.1 = rCapEpoch
  let m1 := smSet (regDefault rSecState) m rSecState (put (sessionSeq s) 16)
  let m2 := (List.range 2).foldl (fun m n =>
    smSet (regDefault (rShlStat n)) m (rShlStat n) (put (s.fld (rShlStat n) 23 8) 8)) m1
  (List.range 48).foldl (fun m l =>
    smSet (regDefault (rLnkStat l)) m (rLnkStat l) (setBits (regDefault (rLnkStat l)) 35 20 (s.fld (rLnkStat l) 35 20))) m2

/-- The state that a reset leaves before boot. A cold one also loses the always-on domain but for the
trip latch's record. -/
def wipe (cold : Bool) (s : State) : State :=
  { State.reset with
    pending := s.pending
    out := s.out
    clk := s.clk
    fresh := s.fresh
    fab := if cold then 0 else s.fab
    regs := if cold then s.regs.filter fun p => p.1 = rTrip else warmRegs s
    hub := { Hub.reset with
      recs := if cold then [] else s.hub.recs
      elog := s.hub.elog
      elogN := s.hub.elogN
      elogAt := if cold then [] else s.hub.elogAt
      elogCut := s.hub.elogCut }
    ptp := if cold then .reset else s.ptp
    mgmt := if cold then .reset else s.mgmt
    mod := { Mod.reset with latch := s.mod.latch, sensors := if cold then [] else s.mod.sensors }
    fabr := { Fab.reset with repA := s.fabr.repA, repB := s.fabr.repB, soft := s.fabr.soft, sram := s.fabr.sram }
    sec := { Sec.reset with fuses := s.sec.fuses, flash := s.sec.flash, erased := s.sec.erased } }

def setPhase (s : State) (p : Phase) : State := { s with mod := { s.mod with phase := p } }

/-- Every link that carries traffic sends DOWN (R418). -/
def sendDowns (s : State) : State :=
  (List.range 48).foldl (fun s l => if lnkLive s l then sendDown s l else s) s

/-- A warm reset begins: MOD_READY falls, links send DOWN, ports fall idle, M0 to M7 and the log are
clear, HUB_CAP_EPOCH counts, any session is gone (R578). -/
def warmBegin (auto : Bool) (s : State) : State :=
  let s1 := wipe false (sendDowns s)
  let s2 := (s1.setFld rCapEpoch 31 0 ((s1.fld rCapEpoch 31 0 + 1) % 2 ^ 32)).setFld rPwrStat 5 4 1
  let s3 := s2.setRBit rPwrStat 3 false
  { s3 with mod := { s3.mod with phase := .reset, auto := auto } }

/-! ### Fatal errors (R595) -/

/-- The fatal sequence: PWR_FATAL, the record to ring and flash, DOWN on the links, and the automatic
warm reset, or the hold at step 3. -/
def fatal (s : State) (r : ErrRec) : State :=
  let s1 := errRecord s { r with cls := 4 }
  let s2 := s1.setReg rFatal (put (r.code % 256) 0 ||| put 1 8)
  if s2.rbit rRasCtl 0 && !s.mod.auto then warmBegin true s2
  else setPhase (wipe false (sendDowns s2)) .halted

/-- A word of a line of the hub's cache is uncorrectable where it is read: a clean line becomes invalid, in a modified one
it is fatal (R465). -/
def lineBad (s : State) (line : Nat) : State :=
  match findLine s line with
  | some l => if l.st = .modified then fatal s { code := 0x09F2, cls := 4, unit := 8, addr := line * 64 } else dropLine s line
  | none => s

/-- MOD_FAULT_N is asserted: after a fatal error that is held, or by the trip latch (R565, R595). -/
def modFault (s : State) : Bool := s.mod.phase = .halted || (1 ≤ s.mod.latch && s.mod.latch ≤ 4)

/-- MOD_THERMTRIP_N is asserted (R565). -/
def modThermtrip (s : State) : Bool := s.mod.latch = 4

/-- MOD_ALERT_N is asserted (R589). -/
def modAlert (s : State) : Bool := s.fld rAlert 1 0 ≠ 0

/-! ### The rows -/

/-- POWER_UP: MOD_PWR_EN is asserted, and a cold power-up runs to MOD_READY or to recovery (R575). The
address strap is latched at step 2 (R625). -/
def doPowerUp (f : BoardFacts) (s : State) : State :=
  if s.mod.phase = .off ∧ s.mod.latch = 0 then
    bringUp f ((wipe true s).setReg rStrap (put f.addrSel.toNat 0 ||| put 1 3))
  else s
def execPowerUp (facts : BoardFacts) (s : State) : Res := .next (doPowerUp facts s)

/-- POWER_DOWN: MOD_PWR_EN is deasserted; links send DOWN, the rails switch off (R576). -/
def doPowerDown (s : State) : State :=
  if s.mod.phase = .off then
    if 5 ≤ s.mod.latch then { s with mod := { s.mod with latch := 0 } } else s
  else setPhase (wipe true (sendDowns s)) .off
def execPowerDown (s : State) : Res := .next (doPowerDown s)

/-- WARM_RESET_ASSERT: MOD_RST_N is asserted (R578). -/
def doWarmResetAssert (s : State) : State := if s.mod.phase = .off then s else warmBegin false s
def execWarmResetAssert (s : State) : Res := .next (doWarmResetAssert s)

/-- WARM_RESET_RELEASE: MOD_RST_N is deasserted, or the automatic reset goes on: steps 4 to 7. -/
def doWarmResetRelease (f : BoardFacts) (s : State) : State :=
  if s.mod.phase = .reset then bringUp f s else s
def execWarmResetRelease (facts : BoardFacts) (s : State) : Res := .next (doWarmResetRelease facts s)

/-! ### Trips (R564, R565) -/

/-- A trip opens the input switch: the cause is recorded while VALID is 0, and latched. -/
def trip (s : State) (cause sensor : Nat) : State :=
  if s.mod.phase = .off then s
  else
    let s1 := setPhase (wipe true s) .off
    let s2 := s1.capture rTrip 11 fun s => s.setReg rTrip (put cause 0 ||| put sensor 4 ||| put 1 11)
    { s2 with mod := { s2.mod with latch := cause } }

def doTripFastOvercurrent (s : State) : State := trip s 1 0
def execTripFastOvercurrent (s : State) : Res := .next (doTripFastOvercurrent s)
def doTripSlowOvercurrent (s : State) : State := trip s 2 0
def execTripSlowOvercurrent (s : State) : Res := .next (doTripSlowOvercurrent s)
def doTripPowerStage (stage : Fin 8) (s : State) : State := trip s 3 stage
def execTripPowerStage (stage : Fin 8) (s : State) : Res := .next (doTripPowerStage stage s)
def doTripUnderVoltage (s : State) : State := trip s 5 0
def execTripUnderVoltage (s : State) : Res := .next (doTripUnderVoltage s)
def doTripOverVoltage (s : State) : State := trip s 6 0
def execTripOverVoltage (s : State) : Res := .next (doTripOverVoltage s)

/-- TRIP_LATCH_CLEAR: MOD_PWR_EN stayed deasserted for 100 ms. -/
def doTripLatchClear (s : State) : State :=
  if s.mod.phase = .off ∧ 1 ≤ s.mod.latch ∧ s.mod.latch ≤ 4 then { s with mod := { s.mod with latch := 0 } } else s
def execTripLatchClear (s : State) : Res := .next (doTripLatchClear s)

/-- INPUT_RECOVERY: after a voltage trip the input has been in range for 10 ms: a cold power-up. -/
def doInputRecovery (f : BoardFacts) (s : State) : State :=
  if s.mod.phase = .off ∧ 5 ≤ s.mod.latch then doPowerUp f { s with mod := { s.mod with latch := 0 } } else s
def execInputRecovery (facts : BoardFacts) (s : State) : Res := .next (doInputRecovery facts s)

end Sys2Proof.Machine
end

