-- ==== Sys2Proof/Machine/Mem.lean ====
section
/-! DEFINITION. Memory controllers and shared-store slices: error outcomes, row repair, patrol scrub,
invalidation, the ways of the shared store (R292 to R299, R313, R320, R598, R599, R645). -/

namespace Sys2Proof.Machine

/-! ### Checksum entries as stored bytes (R300, Table 7.9) -/

def entryBytesOf (e : Entry) : List Byte :=
  leBytes 16 e.lstate.toNat ++ leBytes 4 e.crc.toNat ++ leBytes 4 e.tag.iseq.toNat ++
    leBytes 1 (e.tag.ctx.toNat + 8 * e.tag.stream.toNat + 32 * e.tag.agent.toNat) ++ zeros 7

def entryOfBytes (b : List Byte) : Entry :=
  let t := bF b 24 1
  ⟨BitVec.ofNat 128 (bF b 0 16), BitVec.ofNat 32 (bF b 16 4),
    ⟨BitVec.ofNat 32 (bF b 20 4), BitVec.ofNat 3 t, BitVec.ofNat 2 (t / 8), BitVec.ofNat 3 (t / 32)⟩⟩

/-- The address lies among the entries of a shadow region or check array. -/
def inEntries (a : Nat) : Bool :=
  (isHbm a && decide (hbmDataBytes ≤ hbmOff a) && decide (hbmOff a < hbmDataBytes + 0x11DC0000)) ||
    (isSs a && decide (0x80000000 ≤ ssOff a) && decide (ssOff a < 0x80600000))

/-- Address of the block whose entry holds the byte at `a`. -/
def entryBlock (a : Nat) : Nat :=
  if isHbm a then hbmStack a * 0x1000000000 + (hbmOff a - hbmDataBytes) / 32 * 4096
  else ssBase + ssDie a * 0x100000000 + (ssOff a - 0x80000000) / 32 * 4096

/-- A stored byte of any address that has storage: an entry's byte in a shadow region or check array. -/
def storeByte (s : State) (a : Nat) : Byte :=
  if inEntries a then (entryBytesOf (entryOf s (entryBlock a))).getD (a % 32) 0
  else if inShadow a then rawByte s a else readByte s a

/-! ### Soft row repair (R293, R599) -/

/-- DETAIL0 of a row: pseudo-channel, bank, row. -/
def rowDetail (r : DramRow) : Nat := r.pc.toNat + r.bank.toNat * 32 + r.row.toNat * 2048

/-- Spare rows of the row's bank group that repairs use: 2 per group of four banks. -/
def sparesUsed (s : State) (w : Nat) : Nat :=
  (((repairOf s).rows ++ s.fabr.soft ++ s.fabr.fixing).filter fun x => x % 512 = w % 512 ∧ x / 2048 % 16 = w / 2048 % 16).length

/-- A page joins the retired list, with record 0x0915. -/
def retirePage (s : State) (page : Nat) : State :=
  let w := page / 2 ^ 21 * 2 ^ 21 + 2 ^ 63
  if (repairOf s).pages.contains w then s
  else pageRecord (repairWrite s fun r => { r with pages := r.pages ++ [w] }) page

/-- A row is to be repaired: soft repair begins, or with no spare left the page is retired (R599). -/
def rowRepair (s : State) (a : Nat) (r : DramRow) : State :=
  let k := hbmStack a
  let w := rowWord k r
  if s.fabr.fixing.contains w then s
  else if sparesUsed s w < 2 then { s with fabr := { s.fabr with fixing := s.fabr.fixing ++ [w] } }
  else
    let page := a / 2 ^ 21 * 2 ^ 21
    retirePage (errRecord s { code := 0x0914, cls := 3, die := k / 2, unit := 3, index := k, addr := page, d0 := rowDetail r }) page

/-- Corrected errors of one row, counted in a tracker of 512 rows per stack (R599). -/
def rowCount (s : State) (a : Nat) (r : DramRow) : State :=
  let k := hbmStack a
  let w := rowWord k r
  let n := smGet 0 s.fabr.rows w + 1
  if n = 1 ∧ 512 ≤ (s.fabr.rows.filter fun p => p.1 % 16 = k).length then s
  else
    let s1 := { s with fabr := { s.fabr with rows := smSet 0 s.fabr.rows w n } }
    if max 1 (s.fld rRasCtl 15 8) ≤ n then rowRepair s1 a r else s1

/-- SOFT_ROW_REPAIR_DONE: the row is back on its spare (R293). -/
def doSoftRowRepairDone (stack : Nat) (r : DramRow) (s : State) : State :=
  let w := rowWord stack r
  if s.fabr.fixing.contains w then
    let s1 := { s with fabr := { s.fabr with
      fixing := s.fabr.fixing.filter fun x => x ≠ w, soft := s.fabr.soft ++ [w], rows := smSet 0 s.fabr.rows w 0 } }
    errRecord (cntInc (firmwareMap s1 (rHbmRepair (stack / 2))) (0x1050 + stack) 0 1)
      { code := 0x0913, cls := 2, die := stack / 2, unit := 3, index := stack, d0 := rowDetail r }
  else s
def execSoftRowRepairDone (stack : Fin 16) (row : DramRow) (s : State) : Res := .next (doSoftRowRepairDone stack row s)

/-- ROW_TRACKER_CLEAR: the tracker of a stack empties at the end of its patrol period (R599). -/
def doRowTrackerClear (stack : Nat) (s : State) : State :=
  { s with fabr := { s.fabr with rows := s.fabr.rows.filter fun p => p.1 % 16 ≠ stack } }
def execRowTrackerClear (stack : Fin 16) (s : State) : Res := .next (doRowTrackerClear stack s)

/-! ### Uncorrectable words (R645) -/

/-- The memory agent poisons the block, with one record unless it has poisoned it already. -/
def memPoison (s : State) (a code cause d0 : Nat) : State :=
  let e := entryOf s a
  let s1 := poisonValid s a memTag
  if e.tag = memTag then s1
  else
    let u := holderUnit a
    captPoison (errRecord s1 { code := code, cls := 3, die := homeDie a, unit := u.1, index := u.2, cause := cause
                               addr := a / 4096 * 4096, d0 := d0 }) a memTag cause 0xFFFFFFFF 0xFFFFFFFF

/-- Key of the SRAM row of an address (Table 15.8). -/
def sramKey (a : Nat) : Nat := homeDie a % 8 + a / 4096 % 64 * 8 + (Config.sramRow a).toNat * 512

/-- An uncorrectable word in a slice: counted, and counted against its SRAM row (R299, R598). -/
def sliceUncorrectable (s : State) (a : Nat) : State :=
  let s1 := cntInc s (0x1038 + homeDie a) 0 1
  { s1 with fabr := { s1.fabr with sram := smMod 0 s1.fabr.sram (sramKey a) (· + 1) } }

/-- Word number within the block. -/
def wordOf (a : Nat) (e : Ecc) : Nat := a % 4096 / 64 * 8 + e.word

/-- A corrected word of a slice is counted (R299). -/
def sliceCorrected (s : State) (a : Nat) : State := cntInc s (0x1030 + homeDie a) 0 1

/-- A word of a cached line is read (R299): an uncorrectable word of a clean line drops the line, which the next
access reads again from HBM as a corrected error; that of a dirty line is lost, and poisons the block. -/
def cacheEcc (s : State) (a : Nat) (e : Ecc) (c : CLine) : State :=
  match e.secded with
  | .clean => s
  | .corrected => sliceCorrected s a
  | .uncorrectable =>
    let s1 := setCacheLines (sliceUncorrectable s a) a ((smGet [] s.cache (cacheKey a)).filter fun x => x.line ≠ c.line)
    if c.dirty then memPoison s1 a 0x0903 2 (wordOf a e)
    else sliceCorrected (errRecord s1 { code := 0x0903, cls := 3, die := homeDie a, unit := 2
                                        index := homeDie a * 64 + a / 4096 % 64, cause := 2, addr := a / 64 * 64
                                        d0 := wordOf a e }) a

/-- A word of slice storage is read (R299): of scratchpad it poisons its block; storage of an unassigned or cache way
holds no block of its own, and its word is counted. -/
def sliceEcc (s : State) (a : Nat) (e : Ecc) : State :=
  match e.secded with
  | .clean => s
  | .corrected => sliceCorrected s a
  | .uncorrectable =>
    let s1 := sliceUncorrectable s a
    if addrNack s a = 0 then memPoison s1 a 0x0903 2 (wordOf a e) else s1

/-- A word of HBM is read: the outcomes of Table 7.6. -/
def hbmEcc (s : State) (a : Nat) (e : Ecc) (r : DramRow) : State :=
  let k := hbmStack a
  if e.secded = .uncorrectable ∨ (e.secded = .clean ∧ e.onDie = .uncorrected) then
    rowRepair (memPoison (cntInc s (0x1020 + k) 0 1) a 0x0902 1 (rowDetail r)) a r
  else if e.secded = .corrected then rowCount (cntInc s (0x1010 + k) 0 1) a r
  else if e.onDie = .corrected then rowCount (cntInc s (0x1000 + k) 0 1) a r
  else s

/-- What the storage of a line meets as it is read. -/
def eccRead (s : State) (a : Nat) (e : Ecc) (r : DramRow) : State :=
  if isHbm a then (match cachedLine s a with
    | some c => cacheEcc s a e c
    | none => hbmEcc s a e r)
  else sliceEcc s a e

/-! ### Patrol scrub (R313) -/

/-- A block whose image differs from its entry is poisoned with cause 3 (R313). -/
def scrubCheck (s : State) (a : Nat) : State :=
  let e := entryOf s a
  if (List.range 64).all fun j => lineState e j ≠ 2 then
    if imageCrc s a = e.crc then s
    else
      let s1 := cntInc s (0x1048 + homeDie a) 0 1
      poisonMismatch s1 a ⟨memTag, none, 0xFFFFFFFF, 0⟩ 0x0904 3
  else s

/-- The address has populated storage: of a present stack, or of a slice of a present die, whatever its way is. -/
def populated (s : State) (a : Nat) : Bool :=
  addrNack s a = 0 || (isSs a && decide (ssOff a < 0x30000000) && diePresent s (ssDie a))

/-- PATROL_SCRUB: one word is read, and its block is checked. A correction writes the bits that the
store holds already, so one that is dropped leaves the same state. -/
def doPatrolScrub (a : Nat) (e : Ecc) (r : DramRow) (s : State) : State :=
  if s.up ∧ populated s a = true ∧ s.rbit (rScrubCtl (homeDie a)) 8 = true then
    let s1 := eccRead s a e r
    if inStore s a then scrubCheck s1 a else s1
  else s
def execPatrolScrub (addr : BitVec 48) (ecc : Ecc) (row : DramRow) (s : State) : Res :=
  .next (doPatrolScrub addr.toNat ecc row s)

/-! ### HUB_MEMINIT (R320) -/

/-- The range of a start lies in one data range or one assigned scratchpad way. -/
def meminitOk (s : State) (a n : Nat) : Bool :=
  let z := a + 4096 * n - 1
  decide (0 < n) && inStore s a && inStore s z &&
    ((isHbm a && isHbm z && hbmStack a = hbmStack z) || (isSs a && isSs z && ssDie a = ssDie z && ssWay a = ssWay z))

/-- MEMINIT_GO: the range becomes invalid, BUSY until MEMINIT_DONE; a start that breaks a condition
sets ERR. -/
def doMeminitGo (s : State) : State :=
  let a := s.fld rMeminitBase 47 12 * 4096
  let n := s.fld rMeminitSize 23 0
  if !s.up then s
  else if s.rbit rMeminitCtl 1 ∨ meminitOk s a n = false then s.setRBit rMeminitCtl 3 true
  else
    let t := (invalidateRange s (a / 4096) (a / 4096 + n)).setRBit rMeminitCtl 1 true
    { t with fabr := { t.fabr with init := true } }
def execMeminitGo (s : State) : Res := .next (doMeminitGo s)

/-- Some partition is ENABLING, so that its ranges are being invalidated (R289). -/
def anyEnabling (s : State) : Bool := (List.range 16).any fun p => partState s p = 1

/-- MEMINIT_DONE: DONE is set, and BUSY falls unless a partition's ranges are still being
invalidated. -/
def doMeminitDone (s : State) : State :=
  if s.fabr.init then
    let t := (s.setRBit rMeminitCtl 1 (anyEnabling s)).setRBit rMeminitCtl 2 true
    { t with fabr := { t.fabr with init := false } }
  else s
def execMeminitDone (s : State) : Res := .next (doMeminitDone s)

/-! ### Ways of the shared store (R295, R297, R316, R317) -/

/-- What a way is: owner, assigned, cache. -/
def wayIs (s : State) (d w : Nat) : Nat × Bool × Bool :=
  (s.fld (rSsOwner d) (4 * w + 3) (4 * w), s.rbit (rSsMode d) w, s.rbit (rSsMode d) (16 + w))

/-- The way changes with a write: an unassigned way has no owner and no mode. -/
def wayChanges (s t : State) (d w : Nat) : Bool :=
  let x := wayIs s d w
  let y := wayIs t d w
  x.2.1 != y.2.1 || (x.2.1 && (x.1 != y.1 || x.2.2 != y.2.2))

/-- Blocks of way `w` of die `d`. -/
def wayBlocks (d w : Nat) : Nat × Nat :=
  let lo := (ssBase + d * 0x100000000 + w * 0x4000000) / 4096
  (lo, lo + 0x4000)

/-- Ways of a die that leave their partition write back their dirty lines and hold none (R297). -/
def dropWays (s : State) (d : Nat) (ws : List Nat) : State :=
  { s with cache := (s.cache.map fun p =>
      (p.1, if p.1 / 64 = d then p.2.filter fun c => !ws.contains c.way else p.2)).filter fun p => !p.2.isEmpty }

/-- SS_WAY_WRITE: a write of DIE_SS_OWNER or DIE_SS_MODE. It is discarded with ERR while BUSY, or where
the old or new owner of a changed way has started streams. A way that becomes scratchpad is invalid. -/
def doSsWayWrite (d : Nat) (mode : Bool) (v : Word) (s : State) : State :=
  let r := if mode then rSsMode d else rSsOwner d
  let t := s.softWrite r v
  let ch := (List.range 12).filter (wayChanges s t d)
  let busy := ch.any fun w => ((wayIs s d w).2.1 && anyStarted s (wayIs s d w).1) || ((wayIs t d w).2.1 && anyStarted s (wayIs t d w).1)
  if !s.up ∨ diePresent s d = false then s
  else if s.rbit (rSsMode d) 62 ∨ busy = true then s.setRBit r 63 true
  else if ch.isEmpty then t
  else
    let t1 := ch.foldl (fun t w =>
      if wayScratch t d w then invalidateRange t (wayBlocks d w).1 (wayBlocks d w).2 else t) (dropWays t d ch)
    t1.setRBit (rSsMode d) 62 true
def execSsWayWrite (die : Fin 8) (mode : Bool) (value : BitVec 64) (s : State) : Res :=
  .next (doSsWayWrite die mode value s)

/-- SS_WAY_CHANGE_DONE: write-back and invalidation are done. -/
def doSsWayChangeDone (d : Nat) (s : State) : State := s.setRBit (rSsMode d) 62 false
def execSsWayChangeDone (die : Fin 8) (s : State) : Res := .next (doSsWayChangeDone die s)

end Sys2Proof.Machine
end

