-- ==== Sys2Proof/Machine/Die.lean ====
section
/-! DEFINITION. The die protocol and the bridges between dies (R302 to R305, R370 to R379, R383, R435,
R469, R487). -/

namespace Sys2Proof.Machine

/-! ### Delivery (R375, R378, R383) -/

/-- A message reaches its die. On a wrong VC or between invalid dies it is discarded; a die out of service obeys
DISC alone, and a request to it is refused (R378, R383); a guest's own messages enter at the firewall only, which
forwards no request to it (R392). -/
def dieMsg (ty vc : Nat) (h : DieHdr) (s : State) (k : State → State) : State :=
  if !s.up then s
  else
    let s := creditBack s ty h
    if h.vc.toNat ≠ vc ∨ 10 < h.src.toNat ∨ 10 < h.dst.toNat then discardRecord s ty h
    else if guestAt s h.src.toNat then s
    else if vc = 0 ∧ guestAt s h.dst.toNat = true then sendNack s h 2
    else if dieReady s h.dst.toNat ∨ ty = 0x30 then k s
    else if vc = 0 then sendNack s h 3 else s

/-! ### Outstanding requests (R42, R374) -/

def findReq (s : State) (h : DieHdr) : Option DieReq :=
  s.fabr.reqs.find? fun r => r.h.src = h.dst ∧ r.h.tag = h.tag

def dropReq (s : State) (r : DieReq) : State :=
  { s with fabr := { s.fabr with reqs := dropFirst (fun x => x = r) s.fabr.reqs } }

def setReq (s : State) (r n : DieReq) : State :=
  { s with fabr := { s.fabr with reqs := modWhere (fun x => x = r) (fun _ => n) s.fabr.reqs } }

/-- Outstanding requests that satisfy `f`. -/
def reqsThat (s : State) (f : DieReq → Bool) : Nat := (s.fabr.reqs.filter f).length

/-- Two addresses lie at one HBM controller, or in one slice. -/
def sameHolder (a b : Nat) : Bool :=
  if isHbm a then isHbm b && hbmStack a = hbmStack b
  else isSs a && isSs b && ssDie a = ssDie b && ssOff a / 4096 % 64 = ssOff b / 4096 % 64

/-- A request finds room: in its die's pool of 12,288, and among the 2,048 of the HBM controller or the 192 of the
slice that holds its block (R42, R290, R299). -/
def poolRoom (s : State) (h : DieHdr) : Bool :=
  let a := h.addr.toNat
  (decide (8 ≤ h.src.toNat) || decide (reqsThat s (fun r => r.h.src = h.src) < 12288)) &&
    ((!isHbm a && !isSs a) ||
      decide (reqsThat s (fun r => sameHolder a r.h.addr.toNat) < if isHbm a then 2048 else 192))

/-- A request is taken where it finds room, else it waits: it is never dropped. -/
def withRoom (s : State) (h : DieHdr) (i : Instr) (k : State → State) : State :=
  if poolRoom s h then k s else { s with fabr := { s.fabr with waits := s.fabr.waits ++ [i] } }

/-- The tag under which a die reads: that of a media die or of the hub; the instruction of a compute
die's read is not in the message, and its tag is a free value. -/
def readerTag (s : State) (d : Nat) : Tag :=
  let v := Config.freeValue s.fresh
  if 9 ≤ d then ⟨0, 0, 3, 3⟩ else if d = 8 then ⟨0, 0, 3, 6⟩
  else ⟨v.setWidth 32, (v >>> 32).setWidth 3, (v >>> 35).setWidth 2, 1⟩

/-- A request is outstanding until its response (R374). -/
def addReq (s : State) (ty : Nat) (h : DieHdr) : State :=
  if s.fabr.reqs.any fun r => r.h.src = h.src ∧ r.h.tag = h.tag then s
  else
    { s.nextFresh with fabr := { s.fabr with reqs := s.fabr.reqs ++ [⟨ty, h, readerTag s h.src.toNat, none, false, false⟩] } }

/-! ### Host windows (R469, Table 11.21) -/

/-- Host window `k` covers `n` bytes at host address `a`. -/
def hwinCovers (s : State) (k a n : Nat) : Bool :=
  let b := s.fld (rHwinBase k) 46 12 * 4096
  s.rbit (rHwinBase k) 63 && decide (b ≤ a) && decide (a + n ≤ b + s.fld (rHwinCtl k) 31 0 * 4096)

/-- An access of partition `p` to host memory is permitted. -/
def hostAllowed (s : State) (a n p : Nat) (wr guest : Bool) : Bool :=
  (List.range 16).any fun k => hwinCovers s k a n && s.rbit (rHwinCtl k) (32 + p) &&
    s.rbit (rHwinCtl k) (if wr then 49 else 48) && (!guest || s.rbit (rHwinCtl k) 50)

/-- SHL_REFUSE captures a refusal (R498). -/
def captRefuse (s : State) (a ty port reason : Nat) : State :=
  s.capture rShlRefuse 63 fun s => s.setReg rShlRefuse
    (put (a % 2 ^ 48) 0 ||| put ty 48 ||| put port 54 ||| put reason 55 ||| put 1 63)

/-! ### Requests at the holder -/

/-- Bytes and state of a line as RDATA carries them. -/
def lineData (s : State) (a : Nat) : Nat := leNat ((List.range 64).map fun i => storeByte s (a / 64 * 64 + i))

/-- The read of a line: RDATA, and the check response of a verifying read (R303). -/
def answerRead (s : State) (h : DieHdr) : State :=
  let a := h.addr.toNat / 64 * 64
  let e := entryOf s a
  let own := if lstAt s a = 1 then crcContrib (a % 4096) (rawBytes s a 64) else 0
  let s1 := s.send (.die 0x21 (respHdr h 1 0 (!inEntries a && lstAt s a = 2)) [lineData s a])
  if h.verify ∧ inStore s a = true then
    s1.send (.die 0x22 (respHdr h 1 0 false) [e.crc.toNat, e.lstate.toNat, (imageCrc s a ^^^ crcZ ^^^ own).toNat])
  else s1

/-- A request for a host address at the hub: refused outside the windows, answered from a held line,
else it waits for the line. -/
def hostRead64 (s0 : State) (h : DieHdr) (e : Ecc) : State :=
  let a := h.addr.toNat - hostAperture
  let s := if e.secded = .uncorrectable then lineBad s0 (a / 64) else s0
  if s.up = false then s
  else if hostAllowed s (a / 64 * 64) 64 h.part.toNat false false = false then
    sendNack (captRefuse s h.addr.toNat 0 0 5) h 2
  else match hostRead s (a / 64 * 64) 64 with
    | some b => (useLine s (a / 64)).send (.die 0x21 (respHdr h 1 0 false) [leNat b])
    | none => wantLine { s with fabr := { s.fabr with hostq := s.fabr.hostq ++ [⟨1, h, emptyTag, none, false, false⟩] } } (a / 64)

/-- The accesses of a die's partition allocate in its cache ways; those of the hub and the media dies, and those
with NOALLOC, look up only (R296). -/
def allocates (h : DieHdr) : Bool := decide (h.src.toNat < 8) && !h.noalloc

/-- A read of a line at its holder. -/
def serveRd (h : DieHdr) (e : Ecc) (r : DramRow) (s0 : State) : State :=
  let s := addReq s0 1 h
  let a := h.addr.toNat
  if hostAperture ≤ a ∧ h.dst = 8 then hostRead64 s h e
  else if addrNack s a ≠ 0 then sendNack s h (addrNack s a)
  else answerRead (cacheUse (eccRead s a e r) (allocates h) false [a]) h

/-- RD. -/
def doRd (h : DieHdr) (e : Ecc) (r : DramRow) (s : State) : State :=
  dieMsg 0x01 0 h s fun s => withRoom s h (.rd h e r) (serveRd h e r)
def execRd (h : DieHdr) (ecc : Ecc) (row : DramRow) (s : State) : Res := .next (doRd h ecc row s)

/-- A write of the bytes that a mask selects, under the contribution that the producer sent (R302). -/
def writeLineFrom (s : State) (a : Nat) (mask : Nat → Option Byte) (contrib : Half) : State :=
  let e := entryOf s a
  let j := a / 64 % 64
  let s1 := writeLine s a mask none
  let full := (List.range 64).all fun i => (mask i).isSome
  if lineState e j = 2 ∧ full = false then s1
  else
    let true_ := crcContrib (64 * j) ((List.range 64).map fun i => (mask i).getD 0)
    let e1 := entryOf s1 a
    setEntry s1 a { e1 with crc := e1.crc ^^^ true_ ^^^ contrib }

/-- Bytes of a 64-byte payload under a mask. -/
def maskOf (mask : BitVec 64) (data : BitVec 512) (i : Nat) : Option Byte :=
  if bit mask i then some (BitVec.ofNat 8 (bits data (8 * i + 7) (8 * i))) else none

/-- The selected bytes of a write to a host line; the last one acknowledges the request. -/
def hostWriteMask (s : State) (a : Nat) (mask : BitVec 64) (data : BitVec 512) (h : DieHdr) : State :=
  let on := (List.range 64).filter fun i => bit mask i
  if on.isEmpty then sendAck s h
  else on.foldl (fun s i => hostWriteFor s (a / 64 * 64 + i) [BitVec.ofNat 8 (bits data (8 * i + 7) (8 * i))] none
    (if on.getLast? = some i then some h else none)) s

/-- A write at its holder. -/
def serveWrite (ty : Nat) (h : DieHdr) (mask : BitVec 64) (data : BitVec 512) (e : Ecc) (r : DramRow) (s0 : State) : State :=
  let s := addReq s0 ty h
  let a := h.addr.toNat
  if hostAperture ≤ a ∧ h.dst = 8 then
    if hostAllowed s ((a - hostAperture) / 64 * 64) 64 h.part.toNat true false then
      hostWriteMask s (a - hostAperture) mask data h
    else sendNack (captRefuse s a 0 0 5) h 2
  else if addrNack s a ≠ 0 ∨ inStore s a = false then sendNack s h (max 1 (addrNack s a))
  else sendAck (writeLineFrom (cacheUse (eccRead s a e r) (allocates h) true [a]) a (maskOf mask data) h.attr) h

/-- WR: the whole line. -/
def doWr (h : DieHdr) (data : BitVec 512) (e : Ecc) (r : DramRow) (s : State) : State :=
  dieMsg 0x02 0 h s fun s => withRoom s h (.wr h data e r) (serveWrite 0x02 h (BitVec.allOnes 64) data e r)
def execWr (h : DieHdr) (data : BitVec 512) (ecc : Ecc) (row : DramRow) (s : State) : Res := .next (doWr h data ecc row s)

/-- WRP: the bytes that the mask selects. -/
def doWrp (h : DieHdr) (mask : BitVec 64) (data : BitVec 512) (e : Ecc) (r : DramRow) (s : State) : State :=
  dieMsg 0x03 0 h s fun s => withRoom s h (.wrp h mask data e r) (serveWrite 0x03 h mask data e r)
def execWrp (h : DieHdr) (mask : BitVec 64) (data : BitVec 512) (ecc : Ecc) (row : DramRow) (s : State) : Res :=
  .next (doWrp h mask data ecc row s)

/-- A request that changes a block at the die it names. -/
def serveUpdate (ty : Nat) (h : DieHdr) (k : State → State) (s0 : State) : State :=
  let s := addReq s0 ty h
  if addrNack s h.addr.toNat ≠ 0 ∨ inStore s h.addr.toNat = false then
    sendNack s h (max 1 (addrNack s h.addr.toNat))
  else sendAck (k s) h

/-- A record is added to the one that is stored (R97, R180). -/
def serveRadd (h : DieHdr) (rec : BitVec 384) : State → State :=
  serveUpdate 0x04 h fun s =>
    let a := h.addr.toNat
    writeBytes s a (leBytes 48 ((Rec.ofNat48 (readNat s a 48)).add (Rec.ofNat48 rec.toNat)).toNat48) none

/-- RADD. -/
def doRadd (h : DieHdr) (rec : BitVec 384) (s : State) : State :=
  dieMsg 0x04 0 h s fun s => withRoom s h (.radd h rec) (serveRadd h rec)
def execRadd (h : DieHdr) (rec : BitVec 384) (s : State) : Res := .next (doRadd h rec s)

/-- The VALID lines of the block become POISONED under the tag given; a tag that changes writes
the record (R304). -/
def servePois (h : DieHdr) (tag : Tag) : State → State :=
  serveUpdate 0x05 h fun s => poisonMismatch s h.addr.toNat ⟨tag, some h.part.toNat, 0xFFFFFFFF, 0⟩ 0x0901 0

/-- POIS. -/
def doPois (h : DieHdr) (tag : Tag) (s : State) : State :=
  dieMsg 0x05 0 h s fun s => withRoom s h (.pois h tag) (servePois h tag)
def execPois (h : DieHdr) (tag : Tag) (s : State) : Res := .next (doPois h tag s)

/-- The block becomes invalid (R305). -/
def serveInv (h : DieHdr) : State → State := serveUpdate 0x06 h fun s => invalidate s h.addr.toNat

/-- INV. -/
def doInv (h : DieHdr) (s : State) : State := dieMsg 0x06 0 h s fun s => withRoom s h (.inv h) (serveInv h)
def execInv (h : DieHdr) (s : State) : Res := .next (doInv h s)

/-- A barrier counter, or a fence count, of a context of the partition (R487). -/
def serveCnt (h : DieHdr) (target : CntTarget) (x : Fin 8) (inc : BitVec 32) (s0 : State) : State :=
  let s := addReq s0 0x07 h
  let p := h.part.toNat
  sendAck (match target with
    | .barrier c => bcAdd s p x c inc.toNat
    | .readers g => modFence s p x g.toNat fun f => { f with rc := f.rc + inc.toNat }
    | .releases g => modFence s p x g.toNat fun f => { f with rel := f.rel + inc.toNat }) h

/-- CNT. -/
def doCnt (h : DieHdr) (target : CntTarget) (x : Fin 8) (inc : BitVec 32) (s : State) : State :=
  dieMsg 0x07 0 h s fun s => withRoom s h (.cnt h target x inc) (serveCnt h target x inc)
def execCnt (h : DieHdr) (target : CntTarget) (ctx : Fin 8) (inc : BitVec 32) (s : State) : Res :=
  .next (doCnt h target ctx inc s)

/-- The record that 64 bytes spell (Table 11.11), without its SEQ. -/
def evOf (rec : BitVec 512) : EvRec :=
  let w := dW rec 0
  ⟨bits w 15 0, bits w 19 16, bits w 23 20, if bit w 31 then some (bits w 27 24) else none, bits w 30 28,
    (List.range 7).map fun i => dW rec (i + 1)⟩

/-- The hub writes the record, and logs an error record (R481, R596). -/
def serveEvt (h : DieHdr) (rec : BitVec 512) (s0 : State) : State :=
  let s := addReq s0 0x08 h
  let e := evOf rec
  let s1 := emit s e
  sendAck (if 0x900 ≤ e.code ∧ e.code < 0xA00 then elogWrite s1 e else s1) h

/-- EVT. -/
def doEvt (h : DieHdr) (rec : BitVec 512) (s : State) : State :=
  dieMsg 0x08 0 h s fun s => withRoom s h (.evt h rec) (serveEvt h rec)
def execEvt (h : DieHdr) (rec : BitVec 512) (s : State) : Res := .next (doEvt h rec s)

/-! ### Responses at the requester -/

/-- Header of a request that waits for room, and what its holder does with it. -/
def waitingReq : Instr → Option (DieHdr × (State → State))
  | .rd h e r => some (h, serveRd h e r)
  | .wr h data e r => some (h, serveWrite 0x02 h (BitVec.allOnes 64) data e r)
  | .wrp h mask data e r => some (h, serveWrite 0x03 h mask data e r)
  | .radd h rec => some (h, serveRadd h rec)
  | .pois h tag => some (h, servePois h tag)
  | .inv h => some (h, serveInv h)
  | .cnt h target x inc => some (h, serveCnt h target x inc)
  | .evt h rec => some (h, serveEvt h rec)
  | _ => none

/-- A waiting request finds room. -/
def waitReady (s : State) (i : Instr) : Bool := (waitingReq i).any fun w => poolRoom s w.1

/-- Room returns: the oldest waiting request that finds room is taken. -/
def serveWaits (s : State) : State :=
  match s.fabr.waits.find? (waitReady s) with
  | some i => match waitingReq i with
    | some (_, k) => k { s with fabr := { s.fabr with waits := dropFirst (fun x => x = i) s.fabr.waits } }
    | none => s
  | none => s

/-- A request is over: it leaves the pool, and its room returns. -/
def endReq (s : State) (r : DieReq) : State := serveWaits (dropReq s r)

/-- RDATA: the bytes arrive; a read that does not verify is over. -/
def doRdata (h : DieHdr) (data : BitVec 512) (s : State) : State :=
  dieMsg 0x21 1 h s fun s => match findReq s h with
    | some r =>
      if r.ty ≠ 1 then s
      else if r.h.verify then setReq s r { r with data := some data, pois := h.pois }
      else endReq s r
    | none => s
def execRdata (h : DieHdr) (data : BitVec 512) (s : State) : Res := .next (doRdata h data s)

/-- CHK: the reader combines its bytes with the response. The first mismatch reads again, the second
poisons the block; a pass at the second reading is a corrected error (R303, R304). -/
def doChk (h : DieHdr) (crc : BitVec 32) (lstate : BitVec 128) (contrib : BitVec 32) (s : State) : State :=
  dieMsg 0x22 1 h s fun s => match findReq s h with
    | some r =>
      (match r.data with
        | some d =>
          let a := r.h.addr.toNat / 64 * 64
          let own := if bits lstate (2 * (a / 64 % 64) + 1) (2 * (a / 64 % 64)) = 1
            then crcContrib (a % 4096) (leBytes 64 d.toNat) else 0
          if r.pois then endReq s r
          else if crcZ ^^^ contrib ^^^ own = crc then
            endReq (if r.again then cntInc s (0x1040 + homeDie a) 0 1 else s) r
          else if r.again then
            endReq (poisonMismatch s a ⟨r.tag, some r.h.part.toNat, 0xFFFFFFFF, 0⟩ 0x0901 0) r
          else sendDie (setReq s r { r with data := none, again := true }) 0x01 r.h []
        | none => s)
    | none => s
def execChk (h : DieHdr) (crc : BitVec 32) (lstate : BitVec 128) (contrib : BitVec 32) (s : State) : Res :=
  .next (doChk h crc lstate contrib s)

/-- ACK: a write, add, poison, invalidate or update is applied. -/
def doAck (h : DieHdr) (s : State) : State :=
  dieMsg 0x23 1 h s fun s => match findReq s h with
    | some r => if r.ty = 1 then s else endReq s r
    | none => s
def execAck (h : DieHdr) (s : State) : Res := .next (doAck h s)

/-- A refused read of a media die is a poisoned input of the samples whose bytes it was reading (R306, R348). -/
def mediaNack (s : State) (m p a : Nat) : State :=
  (List.range 16).foldl (fun s n =>
    let q := getPipe s m n
    if running s m n && (mediaReader q).part = some p then
      (q.samples.filter fun x => x.stage = .decoding ∧ x.addr / 64 * 64 ≤ a ∧ a < x.addr + x.size).foldl
        (fun s x => failSample s m n x 6) s
    else s) s

/-- NACK: a read is a poisoned input; anything else is a contained fault of its operation, with one
record (R378). -/
def doNack (h : DieHdr) (s : State) : State :=
  dieMsg 0x24 1 h s fun s => match findReq s h with
    | some r =>
      let d := h.dst.toNat
      if r.ty = 1 then endReq (if 9 ≤ d then mediaNack s (d - 9) r.h.part.toNat (r.h.addr.toNat / 64 * 64) else s) r
      else endReq (errRecord s
        { code := 0x0906, cls := 3, die := d, part := some r.h.part.toNat, unit := (dieUnit d).1
          index := (dieUnit d).2, cause := h.attr.toNat % 16, addr := r.h.addr.toNat }) r
    | none => s
def execNack (h : DieHdr) (s : State) : Res := .next (doNack h s)

/-! ### Die management (R383) -/

def dackHdr (h : DieHdr) : DieHdr := { respHdr h 2 0 false with addr := 0 }

/-- DISC: a die latches its number; one that would change a latched number is answered with error 1. -/
def doDisc (h : DieHdr) (num : BitVec 4) (s : State) : State :=
  dieMsg 0x30 2 h s fun s =>
    let d := h.dst.toNat
    if h.src ≠ 8 then s
    else if 8 ≤ d then sendDie s 0x31 (dackHdr h) [0]
    else if s.rbit (rDieIdent d) 7 then
      sendDie s 0x31 (dackHdr h) [if s.fld (rDieIdent d) 3 0 = num.toNat then 0 else 1]
    else sendDie (s.setReg (rDieIdent d) (put num.toNat 0 ||| put (num.toNat / 4 % 2) 4 ||| put (num.toNat % 4) 5 ||| put 1 7))
      0x31 (dackHdr h) [0]
def execDisc (h : DieHdr) (num : BitVec 4) (s : State) : Res := .next (doDisc h num s)

/-- DACK: the hub notes the number that a die has latched. -/
def doDack (h : DieHdr) (error : BitVec 8) (s : State) : State :=
  dieMsg 0x31 2 h s fun s =>
    let d := h.src.toNat
    if h.dst = 8 ∧ error = 0 then { s with fabr := { s.fabr with acked := smSet 0 s.fabr.acked d (d + 1) } } else s
def execDack (h : DieHdr) (error : BitVec 8) (s : State) : Res := .next (doDack h error s)

/-! ### Accord between dies (R434, R435) -/

/-- Header of a link message (Table 10.14). -/
def accHdrOf (n : Nat) : AccHdr :=
  ⟨n / 16 % 2 = 1, BitVec.ofNat 16 (n / 2 ^ 8), BitVec.ofNat 12 (n / 2 ^ 24), BitVec.ofNat 12 (n / 2 ^ 36),
   BitVec.ofNat 8 (n / 2 ^ 48), BitVec.ofNat 5 (n / 2 ^ 56), BitVec.ofNat 48 (n / 2 ^ 64), BitVec.ofNat 16 (n / 2 ^ 112)⟩

def memberOf (n : Nat) : MemberMsg :=
  ⟨BitVec.ofNat 64 n, BitVec.ofNat 12 (n / 2 ^ 64), BitVec.ofNat 13 (n / 2 ^ 76), n / 2 ^ 89 % 2 = 1, n / 2 ^ 90 % 2 = 1,
   BitVec.ofNat 8 (n / 2 ^ 91), BitVec.ofNat 3 (n / 2 ^ 99)⟩

def digestOfNat (n : Nat) : CollDigest :=
  ⟨BitVec.ofNat 8 n, BitVec.ofNat 4 (n / 2 ^ 8), BitVec.ofNat 2 (n / 2 ^ 12), BitVec.ofNat 3 (n / 2 ^ 14),
   BitVec.ofNat 64 (n / 2 ^ 64), BitVec.ofNat 32 (n / 2 ^ 32), n / 2 ^ 17 % 2 = 1⟩

/-- A message of the stream is taken by its type (Table 10.15); one for a rank of another module goes on over a link of
the die, which the unit that sent it hears of. -/
def accDispatch (dh : DieHdr) (ty : Nat) (h : AccHdr) (gs : List Nat) (s : State) : State :=
  let g := fun i => gs.getD i 0
  if 1 ≤ ty ∧ ty ≤ 9 ∧ (groupNamed s h.gid.toNat h.dstRank.toNat).isNone = true then accForward s (some dh.src.toNat) ty h gs
  else match ty with
  | 1 => doAccordData h (gs.map (BitVec.ofNat 128)) s
  | 2 => doAccordDone h s
  | 3 => doAccordAbort h s
  | 4 => doAccordMember h (memberOf (g 0)) s
  | 5 => doNrec h (BitVec.ofNat 384 (g 0 + g 1 * 2 ^ 128 + g 2 * 2 ^ 256)) s
  | 6 => doFpx h (BitVec.ofNat 32 (g 0)) (BitVec.ofNat 64 (g 0 / 2 ^ 32 % 2 ^ 32)) (BitVec.ofNat 64 (g 0 / 2 ^ 64)) s
  | 7 => doBlkx h (BitVec.ofNat 32 (g 0)) (BitVec.ofNat 64 (g 0 / 2 ^ 32 % 2 ^ 32))
      ((gs.drop 1).flatMap fun x => (List.range 4).map fun i => BitVec.ofNat 32 (x / 2 ^ (32 * i))) s
  | 8 => doHdr h (digestOfNat (g 0)) s
  | 9 => doGrant h s
  | _ => discardRecord s ty dh

/-- The rank of this module that sent a message to another of its ranks hears that it came (R419, R429). -/
def accReceipt (dh : DieHdr) (ty : Nat) (h : AccHdr) (s : State) : State :=
  if collType ty && (groupNamed s h.gid.toNat h.dstRank.toNat).isSome && (groupNamed s h.gid.toNat h.srcRank.toNat).isSome then
    sendAccc s (unitHdr dh.dst.toNat dh.src.toNat dh.part.toNat) 2 h.gid.toNat
      (fullOpseq s dh.part.toNat h.gid.toNat h.opseq.toNat) (1 + h.len.toNat)
  else s

/-- Takes the whole messages that a stream's bytes hold, past the zero granules that fill a piece; at most `fuel`. -/
def accParse (dh : DieHdr) (key : Nat) : Nat → State → State
  | 0, s => s
  | fuel + 1, s =>
    let b := smGet [] s.acc.inbuf key
    let n := bF b 0 16
    let len := 16 * (min 16 (n / 2 ^ 56 % 32) + 1)
    if b.length < 16 then s
    else if n = 0 then accParse dh key fuel { s with acc := { s.acc with inbuf := smSet [] s.acc.inbuf key (b.drop 16) } }
    else if b.length < len then s
    else
      let s1 := { s with acc := { s.acc with inbuf := smSet [] s.acc.inbuf key (b.drop len) } }
      let gs := (chunks 16 17 ((b.drop 16).take (len - 16))).map leNat
      accParse dh key fuel (accReceipt dh (n % 16) (accHdrOf n) (accDispatch dh (n % 16) (accHdrOf n) gs s1))

/-- ACCD: 64 bytes of the message stream between two Accord units; their credit returns. -/
def doAccd (h : DieHdr) (data : BitVec 512) (s : State) : State :=
  dieMsg 0x38 3 h s fun s =>
    let b := smGet [] s.acc.inbuf (accKey h) ++ leBytes 64 data.toNat
    let s1 := accParse h (accKey h) 64 { s with acc := { s.acc with inbuf := smSet [] s.acc.inbuf (accKey h) b } }
    sendAccc s1 (unitHdr h.dst.toNat h.src.toNat h.part.toNat) 1 0 0 accdGrans
def execAccd (h : DieHdr) (data : BitVec 512) (s : State) : Res := .next (doAccd h data s)

/-- The collectives of a partition's group and number. -/
def collsOf (s : State) (p gid opseq : Nat) : List Coll :=
  s.acc.colls.filter fun c => c.part = p ∧ c.gid = gid ∧ c.opseq = opseq

/-- Links of a die, and partitions whose lead die it is, as places where granules await acknowledgement. -/
def placeOf (s : State) (d q : Nat) : Bool := if q < 48 then q / 6 = d else leadDie s (q - 64) = d

/-- ACCC: a credit releases ACCD that wait for it; granules that went by the sending unit are acknowledged, all of them
where the count is 0; or a collective fails (R435). -/
def doAccc (h : DieHdr) (kind : AcccKind) (gid : BitVec 16) (opseq : BitVec 32) (count : BitVec 64) (s : State) : State :=
  dieMsg 0x39 3 h s fun s =>
    match kind with
    | .credit =>
      let key := h.dst.toNat * 16 + h.src.toNat
      accRelease key s.acc.hold.length { s with acc := { s.acc with credit := smMod 0 s.acc.credit key (· + count.toNat) } }
    | .completion =>
      let n := if count = 0 then
          (collsOf s h.part.toNat gid.toNat opseq.toNat).foldl (fun n c => c.owed.foldl (fun n q => n + q.2) n) 0
        else count.toNat
      collsAcked s (placeOf s h.src.toNat) h.part.toNat gid.toNat (fun q => q = opseq.toNat) n
    | .abort => (collsOf s h.part.toNat gid.toNat opseq.toNat).foldl (fun s c => collFail s c 2 0xFFF 0x3F) s
def execAccc (h : DieHdr) (kind : AcccKind) (gid : BitVec 16) (opseq : BitVec 32) (count : BitVec 64) (s : State) : Res :=
  .next (doAccc h kind gid opseq count s)

/-- ACCORD_UNIT_FAULT: the collectives in flight on the die fail with cause 2, and the unit resets
(R598). -/
def doAccordUnitFault (d : Nat) (s : State) : State :=
  if !s.up ∨ diePresent s d = false then s
  else
    let on := fun p => (partClusters s p).any fun c => c / 4 = d
    let lead := fun (x : FpRec) => decide (leadDie s x.part = d)
    let s1 := errRecord s { code := 0x090E, cls := 3, die := d, unit := 6, index := d }
    let s2 := (s1.acc.colls.filter fun c => on c.part).foldl (fun s c => collFailAt s d c 2 0xFFF 0x3F) s1
    let q := getQueue s2 (0x20 + d)
    setQueue { s2 with acc := { s2.acc with
      early := []
      held := s2.acc.held.filter fun x => !lead x
      wrong := s2.acc.wrong.filter fun x => !lead x.1
      last := s2.acc.last.filter fun x => !lead x
      inbuf := s2.acc.inbuf.filter fun p => p.1 / 16 ≠ d ∧ p.1 % 16 ≠ d
      credit := s2.acc.credit.filter fun p => p.1 / 16 ≠ d ∧ p.1 % 16 ≠ d
      sent := s2.acc.sent.filter fun p => p.1 / 16 ≠ d ∧ p.1 % 16 ≠ d
      hold := s2.acc.hold.filter fun p => accKey p.1 / 16 ≠ d ∧ accKey p.1 % 16 ≠ d } } (0x20 + d) (freshQueue q.cls q.base q.depth q.tmo)
def execAccordUnitFault (die : Fin 8) (s : State) : Res := .next (doAccordUnitFault die s)

/-! ### Bridge modules (R373, R379, R387, R401) -/

def modState (s : State) (e m : Nat) : Nat := smGet 0 s.fabr.mods (e * 8 + m)

def setMod (s : State) (e m v : Nat) : State :=
  { s with fabr := { s.fabr with mods := smSet 0 s.fabr.mods (e * 8 + m) v } }

/-- Modules of an edge that are in service. -/
def modsLeft (s : State) (e : Nat) : Nat := ((List.range (edgeMods e)).filter fun m => modState s e m ≠ 2).length

/-- The registers that report an edge. -/
def edgeRegs (s : State) (e : Nat) : State :=
  let n := modsLeft s e
  if e < 8 then (s.setFld rFabStat (4 * e + 3) (4 * e) n).setFld (rEdgeStat e) 3 0 n
  else if e < 14 then (s.setFld (rEdgeStat (colDies (e - 8)).1) 11 8 n).setFld (rEdgeStat (colDies (e - 8)).2) 7 4 n
  else s.setFld rFabStat (4 * (e - 6) + 3) (4 * (e - 6)) n

/-- A module leaves service until the next reset. The loss of a logical link's last module is fatal. -/
def modOut (s : State) (e m : Nat) : State :=
  let s1 := edgeRegs (setMod s e m 2) e
  let s2 := errRecord s1 { code := 0x0912, cls := 2, unit := 4, index := e * 8 + m, cause := modsLeft s1 e }
  if (List.range 4).any fun i => modState s2 e (m / 4 * 4 + i) ≠ 2 then s2
  else fatal s2 { code := 0x09F1, cls := 4, unit := 4, index := e * 8 + m, cause := e }

/-- The edge carries traffic: both its dies are present. -/
def edgeUp (s : State) (e : Nat) : Bool :=
  if e < 8 then diePresent s e
  else if e < 14 then diePresent s (colDies (e - 8)).1 && diePresent s (colDies (e - 8)).2
  else s.rbit rCap0 (e - 6)

/-- Firmware registers that hold the lane repairs of an edge. -/
def laneMaps (e : Nat) : List Nat :=
  if e < 8 then [rHubLaneMap, rDieLaneMap e] else if e < 14 then [rDieLaneMap (colDies (e - 8)).1, rDieLaneMap (colDies (e - 8)).2]
  else [rHubLaneMap]

/-- A module is retrained with a free redundant lane in place of a failed one, and the repair is
recorded; without a free lane it leaves service. -/
def modRetrain (s : State) (e m lane : Nat) : State :=
  let k := e * 8 + m
  let used := smGet 0 s.fabr.lanes k
  let s1 := cntInc s (0x2010 + e) 0 1
  if used < 4 then
    let s2 := setMod { s1 with fabr := { s1.fabr with
      lanes := smSet 0 s1.fabr.lanes k (used + 1), replays := smSet [] s1.fabr.replays k [] } } e m 1
    let s3 := (laneMaps e).foldl firmwareMap s2
    errRecord (repairWrite s3 fun r => { r with lanes := r.lanes ++ [laneWord e m lane (64 + used)] })
      { code := 0x0911, cls := 2, unit := 4, index := k, cause := lane }
  else modOut s1 e m

/-- The module exists, its edge is up, and it is in service and not in retraining. -/
def modLive (s : State) (e m : Nat) : Bool := s.up && edgeUp s e && decide (m < edgeMods e) && modState s e m = 0

/-- BRIDGE_MODULE_RETRAIN: a module exceeds its lane-error threshold on a lane. -/
def doBridgeModuleRetrain (e m lane : Nat) (s : State) : State := if modLive s e m then modRetrain s e m lane else s
def execBridgeModuleRetrain (edge : Fin 16) (mod : Fin 8) (lane : BitVec 8) (s : State) : Res :=
  .next (doBridgeModuleRetrain edge mod lane.toNat s)

/-- Times of the replays of a module within the last millisecond, with the one now. -/
def replayTimes (s : State) (k : Nat) : List Nat :=
  ((smGet [] s.fabr.replays k).filter fun t => decide (timeNs s < t + 1000000)) ++ [timeNs s]

/-- BRIDGE_FLIT_REPLAY: counted; more than 16 on a module within 1 ms retrain it, on the lane that fails. -/
def doBridgeFlitReplay (e m lane : Nat) (s : State) : State :=
  if modLive s e m then
    let k := e * 8 + m
    let ts := replayTimes s k
    let s1 := cntInc s (0x2000 + e) 0 1
    let s2 := { s1 with fabr := { s1.fabr with replays := smSet [] s1.fabr.replays k ts } }
    if 16 < ts.length then modRetrain s2 e m lane else s2
  else s
def execBridgeFlitReplay (edge : Fin 16) (mod : Fin 8) (lane : BitVec 8) (s : State) : Res :=
  .next (doBridgeFlitReplay edge mod lane.toNat s)

/-- MODULE_RETRAIN_DONE: the module carries traffic again, or leaves service. -/
def doModuleRetrainDone (e m : Nat) (ok : Bool) (s : State) : State :=
  if modState s e m = 1 then if ok then setMod s e m 0 else modOut s e m else s
def execModuleRetrainDone (edge : Fin 16) (mod : Fin 8) (ok : Bool) (s : State) : Res :=
  .next (doModuleRetrainDone edge mod ok s)

end Sys2Proof.Machine
end

