-- ==== Sys2Proof/Machine/Feed.lean ====
section
/-! DEFINITION. The commands of the hardware queues: push, pop, the stranded tail, and the reset of a
control queue (R310 to R312, Table 7.13). -/

namespace Sys2Proof.Machine

/-! ### The reset of a control queue (R312) -/

/-- Die that a queue's record names: the hub's job intake, the lead cluster's die, the Accord unit. -/
def queueDie (s : State) (q : Nat) : Nat :=
  if q < 0x10 then 8 else if q < 0x20 then leadDie s (q - 0x10) else q - 0x20

/-- The stream of a started context that holds what the context waits for: the first that runs. -/
def liveStrm (c : Ctx) : Option Strm :=
  [Strm.F, .B, .U].find? fun k =>
    let t := c.strm k
    t.st = .issuing || t.st = .waiting || !t.infl.isEmpty

/-- A started context stops with an execution fault. -/
def ctxFault (s : State) (p : Fin 16) (x : Fin 8) (f : SFault) : State :=
  match liveStrm (getCtx s p x) with
  | some k => streamFault s ⟨p, x, k⟩ f (((bufferWord ((getCtx s p x).strm k)).map iOp).getD 0)
  | none => s

/-- Word 0 of an entry. -/
def qWord (e : QEntry) : Word := e.words.getD 0 0

/-- Effect of the reset on the users of the entries that the queue held (Table 7.13). A token of the
barrier queue names its context in bits [2:0] of word 0, an entry of Accord control its GID and OPSEQ in
bits [23:0]. -/
def queueVictims (q : Nat) (es : List QEntry) (s : State) : State :=
  if q < 0x10 then startScan s
  else if q < 0x20 then
    ((es.map fun e => bits (qWord e) 2 0).dedup).foldl (fun s x =>
      if (getCtx s (q - 0x10) x).started then
        ctxFault s (Fin.ofNat 16 (q - 0x10)) (Fin.ofNat 8 x) ⟨0x1D, 2, 0⟩ else s) s
  else
    let hit := fun (c : Coll) => (partClusters s c.part).any (fun k => k / 4 = q - 0x20) &&
      es.any fun e => bits (qWord e) 15 0 = c.gid && bits (qWord e) 23 16 = c.opseq % 256
    (s.acc.colls.filter hit).foldl (fun s c => collFailAt s (q - 0x20) c 7 0xFFF 0x3F) s

/-- A control queue resets: cause 1 pointer mismatch, 2 parity. -/
def queueReset (s : State) (q cause : Nat) : State :=
  let v := getQueue s q
  let es := queueAll s q
  let s1 := setQueue s q (freshQueue v.cls v.base v.depth v.tmo)
  queueVictims q es (errRecord s1 { code := 0x0908, cls := 3, die := queueDie s q, unit := 11, index := q, cause := cause })

/-- Queue number of a ring. -/
def qRing (q : Nat) : Option (Nat × Nat) :=
  if 0x40 ≤ q ∧ q < 0x60 then some ((q - 0x40) / 16, q % 16) else none

/-- Queue number of a control queue: job intake, barrier and token of a partition, Accord control. -/
def isControl (q : Nat) : Bool := q = 0 || (0x10 ≤ q && q < 0x28)

/-- Pointers or parity found bad on a control queue (R312). -/
def badControl (parity : Nat) (ptr : Bool) : Option Nat :=
  if ptr then some 1 else if parity ≠ 0 then some 2 else none

/-! ### The rows -/

/-- QUEUE_PUSH: of an intake queue, the next submission entry enters; of a control queue, the payload. -/
def doQueuePush (q : Nat) (payload : List Word) (parity : Nat) (ptr : Bool) (s : State) : State :=
  if !s.up then s
  else match qRing q with
    | some (m, n) => pushSubmission m n parity s
    | none =>
      if isControl q then
        (match badControl parity ptr with
          | some cause => queueReset s q cause
          | none => queuePut s q ((payload ++ List.replicate 7 0).take 7) 0)
      else s
def execQueuePush (q : Nat) (payload : List (BitVec 64)) (parityBad : BitVec 7) (ptrBad : Bool) (s : State) : Res :=
  .next (doQueuePush q payload parityBad.toNat ptrBad s)

/-- A step queue's number. -/
def isStepQ (q : Nat) : Bool := decide (0x100 ≤ q) && decide (q < 0x180)

/-- Parity found bad in the words of a step queue's head, which then leaves with its job (R312). -/
def stepParity (s : State) (q bad : Nat) : State :=
  let v := getQueue s q
  match v.head with
  | e :: es =>
    if bad = 0 then s
    else trimQueue (setQueue s q { v with head := { e with pois := e.pois ||| bad } :: es }) ((q - 0x100) / 8) (q % 8)
  | [] => s

/-- QUEUE_POP: the consumer takes the entry at the head. A pipeline holds it until it has processed it. That of a step
queue leaves as its STEP starts, so that a pop shows only what its parity check finds. -/
def doQueuePop (q parity : Nat) (ptr : Bool) (s : State) : State :=
  if !s.up then s
  else match qRing q with
    | some (m, n) =>
      if running s m n ∧ (getPipe s m n).taken = none then
        (match queueTake s q parity with
          | some (e, s1) => modPipe s1 m n fun p => { p with taken := some e }
          | none => s)
      else s
    | none =>
      if isControl q then
        (match badControl parity ptr with
          | some cause => queueReset s q cause
          | none => ((queueTake s q 0).map Prod.snd).getD s)
      else if isStepQ q then stepParity s q parity
      else s
def execQueuePop (q : Nat) (parityBad : BitVec 7) (ptrBad : Bool) (s : State) : Res :=
  .next (doQueuePop q parityBad.toNat ptrBad s)

/-- QUEUE_TAIL_TIMEOUT: TAIL_TMO of a class 1 or 2 queue has passed since its oldest stranded entry
arrived. -/
def doQueueTailTimeout (q : Nat) (s : State) : State :=
  let v := getQueue s q
  if (v.cls = 1 ∨ v.cls = 2) ∧ v.tmo ≠ 0 ∧ v.tail ≠ [] then queueRelease s q else s
def execQueueTailTimeout (q : Nat) (s : State) : Res := .next (doQueueTailTimeout q s)

end Sys2Proof.Machine
end

