-- ==== Sys2Proof/Machine/Guest.lean ====
section
/-! DEFINITION. The firewall between the hub and a guest die (R390 to R398, R403). -/

namespace Sys2Proof.Machine

def emptySite : GSite := ⟨0, 0, 0, [], [], 0⟩
def getSite (s : State) (m : Nat) : GSite := smGet emptySite s.fabr.sites m
def setSite (s : State) (m : Nat) (g : GSite) : State :=
  { s with fabr := { s.fabr with sites := smSet emptySite s.fabr.sites m g } }

def guestIn (s : State) (m : Nat) : Bool := s.rbit (rFwCtl m) 0
def fenced (s : State) (m : Nat) : Bool := s.rbit (rFwCtl m) 1

/-! ### Windows (R391, R403) -/

/-- Window `k`: first address and bytes. -/
def winBase (s : State) (m k : Nat) : Nat := s.fld (rFwBase m k) 47 12 * 4096
def winBytes (s : State) (m k : Nat) : Nat := s.fld (rFwSize m k) 31 0 * 4096
def winValid (s : State) (m k : Nat) : Bool := s.rbit (rFwBase m k) 63
def winPart (s : State) (m k : Nat) : Nat := s.fld (rFwSize m k) 35 32
def winHost (s : State) (m k : Nat) : Bool := s.rbit (rFwSize m k) 36

/-- Window `k` covers `n` bytes at `a`. -/
def winCovers (s : State) (m k a n : Nat) : Bool :=
  winValid s m k && decide (winBase s m k ≤ a) && decide (a + n ≤ winBase s m k + winBytes s m k)

/-- The byte lies in an HBM range of the partition and in the data range of a present stack: a range register of a
disabled partition may name any address, which a guest never reaches (R391, R392). -/
def inPartData (s : State) (p a : Nat) : Bool := inPartHbm s p a && inHbmData s a

/-- The bytes lie wholly in the HBM ranges of a partition, checked at each 2 MiB step (R391). -/
def hbmWholly (s : State) (p a n : Nat) : Bool :=
  decide (0 < n) && inPartData s p a && inPartData s p (a + n - 1) &&
    (List.range ((a + n - 1) / 0x200000 - a / 0x200000)).all fun i => inPartData s p ((a / 0x200000 + i + 1) * 0x200000)

/-- What a window covers is what R391 permits. -/
def winLegal (s : State) (m k : Nat) : Bool :=
  let a := winBase s m k
  let n := winBytes s m k
  if winHost s m k then
    decide (0 < n) && decide (hostAperture ≤ a) && decide (a + n ≤ 2 * hostAperture) && (getSite s m).flags % 2 = 1
  else hbmWholly s (winPart s m k) a n

/-- A window becomes invalid with event 0x0312. -/
def dropWindow (s : State) (m k cause : Nat) : State :=
  event0 (s.setRBit (rFwBase m k) 63 false) 0x0312 8 none
    [put (9 + m) 0 ||| put k 4 ||| put (winPart s m k) 8 ||| put cause 12, put (winBase s m k) 0]

/-- Valid windows of the guests that satisfy `f` become invalid. -/
def dropWindows (s : State) (cause : Nat) (f : Nat → Nat → Bool) : State :=
  (List.range 16).foldl (fun s i =>
    if guestIn s (i / 8) && winValid s (i / 8) (i % 8) && f (i / 8) (i % 8) then dropWindow s (i / 8) (i % 8) cause else s) s

/-- GUEST_WINDOW_WRITE: a write to a register of a valid window is discarded with ERR, except of VALID = 0;
VALID = 1 is checked. -/
def doGuestWindowWrite (m k : Nat) (size : Bool) (v : Word) (s : State) : State :=
  let r := if size then rFwSize m k else rFwBase m k
  let t := s.softWrite r v
  let off := !size && !bit v 63
  if s.up = false ∨ guestIn s m = false then s
  else if off then t
  else if winValid s m k ∨ (size = false ∧ winLegal t m k = false) then s.setRBit (rFwCtl m) 18 true
  else t
def execGuestWindowWrite (site : Fin 2) (k : Fin 8) (size : Bool) (value : BitVec 64) (s : State) : Res :=
  .next (doGuestWindowWrite site k size value s)

/-! ### Violations (R395) -/

/-- A violation is discarded, counted and captured; at VIOL_LIMIT the site is fenced, once. -/
def violation (s : State) (m kind ty addr : Nat) : State :=
  let n := min 255 (s.fld (rFwCtl m) 17 10 + 1)
  let s1 := s.setFld (rFwCtl m) 17 10 n
  let s2 := s1.capture (rFwViol m) 63 fun s => s.setReg (rFwViol m)
    (put (addr % 2 ^ 48) 0 ||| put kind 48 ||| put (ty % 64) 52 ||| put 1 63)
  if max 1 (s.fld (rFwCtl m) 9 2) ≤ n ∧ fenced s m = false then
    event0 (s2.setRBit (rFwCtl m) 1 true) 0x0311 8 none
      [put (9 + m) 0 ||| put n 8 ||| put kind 16, s2.reg (rFwViol m)]
  else s2

/-- A violating message; a request is answered NACK with ATTR 2. -/
def guestViolates (s : State) (m kind ty : Nat) (h : DieHdr) : State :=
  let s1 := if 1 ≤ ty ∧ ty ≤ 8 then sendNack s h 2 else s
  violation s1 m kind ty h.addr.toNat

/-! ### Accepted messages (R390, R393, R394) -/

def guestLine (g : GuestMsg) : Nat := g.h.addr.toNat / 64 * 64

/-- The window that admits a message, or the KIND of its violation. -/
def winFor (s : State) (m : Nat) (g : GuestMsg) : Nat ⊕ Nat :=
  match (List.range 8).filter fun k => winCovers s m k (guestLine g) 64 with
  | [] => .inl 1
  | ks => match ks.find? fun k => s.rbit (rFwSize m k) (if g.ty = 1 then 37 else 38) with
    | some k => .inr k
    | none => .inl 2

/-- Bytes that a message takes from its bucket. -/
def guestCost (g : GuestMsg) : Nat :=
  if g.ty = 3 then ((List.range 64).filter fun i => bit g.mask i).length else 64

/-- Size of the buckets of a site. -/
def bucketSize (s : State) (m : Nat) : Nat := max 1 (s.fld (rFwRate m) 31 20) * 1024

/-- Bytes taken from the bucket of a message's direction. -/
def bucketUse (x : GSite) (g : GuestMsg) : Nat := if g.ty = 1 then x.rdUse else x.wrUse

/-- The bucket holds enough for the message. -/
def tokensFor (s : State) (m : Nat) (g : GuestMsg) : Bool :=
  decide (bucketUse (getSite s m) g + guestCost g ≤ bucketSize s m)

def takeTokens (s : State) (m : Nat) (g : GuestMsg) : State :=
  let x := getSite s m
  setSite s m (if g.ty = 1 then { x with rdUse := x.rdUse + guestCost g } else { x with wrUse := x.wrUse + guestCost g })

/-- The mask of bytes that a write stores. -/
def guestMask (g : GuestMsg) : BitVec 64 := if g.ty = 2 then BitVec.allOnes 64 else g.mask

/-- A guest's access to HBM: a read is verified under PTAG_AGENT 3; the contribution of a write is
computed from its bytes. -/
def guestMem (s : State) (k m : Nat) (g : GuestMsg) : State :=
  let a := guestLine g
  if g.ty = 1 then
    let v := verifyRead s (span a 64) ⟨⟨0, 0, 3, 3⟩, some (winPart s m k), 0xFFFFFFFF, 0⟩ false
    v.1.send (.die 0x21 (respHdr g.h 1 0 (lstAt v.1 a = 2)) [lineData v.1 a])
  else sendAck (writeLine s a (maskOf (guestMask g) g.data) none) g.h

/-- A guest's access to host memory: refused outside the host windows; a read waits for its line. -/
def guestHost (s : State) (k m : Nat) (g : GuestMsg) : State :=
  let a := guestLine g - hostAperture
  if hostAllowed s a 64 (winPart s m k) (g.ty ≠ 1) true = false then
    sendNack (captRefuse s (guestLine g) 0 0 5) g.h 2
  else if g.ty = 1 then
    (match hostRead s a 64 with
      | some b => (useLine s (a / 64)).send (.die 0x21 (respHdr g.h 1 0 false) [leNat b])
      | none =>
        let x := getSite s m
        wantLine (setSite s m { x with outs := x.outs ++ [g] }) (a / 64))
  else hostWriteMask s a (guestMask g) g.data g.h

/-- A message leaves the firewall: it is checked, and is a violation or reaches its holder. -/
def guestForward (s : State) (m : Nat) (g : GuestMsg) : State :=
  match winFor s m g with
  | .inl kind => guestViolates s m kind g.ty g.h
  | .inr k => (if winHost s m k then guestHost s k m g else guestMem s k m g)

/-- A message that passed the check finds its tokens, or waits behind those of its direction. -/
def guestEnter (s : State) (m : Nat) (g : GuestMsg) : State :=
  let x := getSite s m
  if (x.waits.any fun w => (w.ty = 1) == (g.ty = 1)) || !tokensFor s m g then setSite s m { x with waits := x.waits ++ [g] }
  else guestForward (takeTokens s m g) m g

/-- An EVT message: one per µs is written as event 0x0310 (R390, R398). -/
def guestEvt (s : State) (m : Nat) (data : BitVec 512) (limited : Bool) : State :=
  let x := getSite s m
  if limited then setSite s m { x with lost := min 0xFFFF (x.lost + 1) }
  else
    event0 (setSite s m { x with lost := 0 }) 0x0310 (9 + m) none
      ((put (9 + m) 0 ||| put x.lost 16) :: (List.range 6).map fun i => dW data (i + 1))

/-- The VC of a message type (Table 9.3). -/
def typeVc (ty : Nat) : Nat := if ty < 0x20 then 0 else if ty < 0x30 then 1 else if ty < 0x38 then 2 else 3

/-- GUEST_MESSAGE. A message on the wrong VC is discarded with its record before it is checked (R375). -/
def doGuestMessage (m ty : Nat) (h : DieHdr) (mask : BitVec 64) (data : BitVec 512) (sideband limited : Bool) (s : State) : State :=
  let x := getSite s m
  let g : GuestMsg := ⟨ty, h, mask, data⟩
  if s.up = false ∨ guestIn s m = false ∨ fenced s m = true then s
  else if sideband then violation s m 4 ty 0
  else if h.vc.toNat ≠ typeVc ty then discardRecord s ty { h with dst := 8 }
  else if ty = 8 then guestEvt s m data limited
  else if ty = 0 ∨ 3 < ty then guestViolates s m 3 ty h
  else match winFor s m g with
    | .inl kind => guestViolates s m kind ty h
    | .inr _ =>
      if max 1 (s.fld (rFwRate m) 42 32) ≤ x.waits.length + x.outs.length then guestViolates s m 5 ty h
      else guestEnter s m g
def execGuestMessage (site : Fin 2) (type : BitVec 6) (h : DieHdr) (mask : BitVec 64) (data : BitVec 512)
    (sideband rateLimited : Bool) (s : State) : Res := .next (doGuestMessage site type.toNat h mask data sideband rateLimited s)

/-! ### Tokens (R394, R397) -/

/-- The buckets refill for `us` microseconds. -/
def refill (s : State) (m us : Nat) : State :=
  let x := getSite s m
  setSite s m { x with
    rdUse := x.rdUse - max 1 (s.fld (rFwRate m) 9 0) * 1000 * us
    wrUse := x.wrUse - max 1 (s.fld (rFwRate m) 19 10) * 1000 * us }

/-- The oldest waiting message of a direction leaves if it finds its tokens. -/
def releaseOne (s : State) (m : Nat) (rd : Bool) : Option State :=
  let x := getSite s m
  match x.waits.find? fun g => (g.ty = 1) == rd with
  | some g =>
    if tokensFor s m g then
      some (guestForward (takeTokens (setSite s m { x with waits := dropFirst (fun w => w = g) x.waits }) m g) m g)
    else none
  | none => none

/-- Messages leave while tokens last; at most `fuel` of each direction. -/
def releaseAll : Nat → Nat → Bool → State → State
  | 0, _, _, s => s
  | fuel + 1, m, rd, s => match releaseOne s m rd with
    | some s1 => releaseAll fuel m rd s1
    | none => s

/-- GUEST_TOKEN_RELEASE: `us` microseconds refill the buckets, and waiting messages leave the firewall,
checked again as they do. -/
def doGuestTokenRelease (m us : Nat) (s : State) : State :=
  if s.up && guestIn s m then
    let s1 := refill s m us
    let n := (getSite s1 m).waits.length
    releaseAll n m false (releaseAll n m true s1)
  else s
def execGuestTokenRelease (site : Fin 2) (us : Nat) (s : State) : Res := .next (doGuestTokenRelease site us s)

end Sys2Proof.Machine
end

