-- ==== Sys2Proof/Machine/Parts.lean ====
section
/-! DEFINITION. Partitions: enabling, disabling with work in flight, the host's scalar writes, and the
Sillage ring's control (R484, R489, R278 to R282, R508 to R512, R520, R521). -/

namespace Sys2Proof.Machine

/-! ### ENABLE (R484) -/

/-- Range `k` of partition `p` as (valid, first 2 MiB page, pages). -/
def hbmPages (s : State) (p k : Nat) : Bool × Nat × Nat :=
  (s.rbit (rPartHbm p k) 63, s.fld (rPartHbm p k) 26 0, s.fld (rPartHbm p k) 52 27)

/-- A cluster is under test of a BIST job: the first of its mask that has not reported (R601). -/
def underTest (s : State) (c : Nat) : Bool :=
  s.hub.jobs.any fun j => jType j = 2 && j.st != .queued &&
    (((List.range 32).filter fun i => bit (jw j 2) i)[j.progress]? == some c)

/-- The clusters may be taken (ECAUSE 1). -/
def clustersFree (s : State) (p : Nat) : Bool :=
  (partClusters s p) ≠ [] && (partClusters s p).all fun c =>
    s.rbit rCluState c && !underTest s c &&
      (List.range 16).all fun q => decide (q = p) || partState s q = 0 || !s.rbit (rPartClu q) c

/-- A range lies in one stack's data range. -/
def pagesInStack (s : State) (b n : Nat) : Bool :=
  let a := b * 0x200000
  decide (1 ≤ n) && isHbm a && decide (hbmOff a + n * 0x200000 ≤ hbmDataBytes) && stackPresent s (hbmStack a)

/-- Two ranges share a page. -/
def pagesMeet (x y : Bool × Nat × Nat) : Bool :=
  x.1 && y.1 && decide (x.2.1 < y.2.1 + y.2.2) && decide (y.2.1 < x.2.1 + x.2.2)

/-- The ranges are legal (ECAUSE 2). Another range of the partition itself counts too. -/
def rangesFree (s : State) (p : Nat) : Bool :=
  (List.range 8).all fun k =>
    let r := hbmPages s p k
    !r.1 || (pagesInStack s r.2.1 r.2.2 &&
      (List.range 128).all fun i =>
        let q := i / 8
        (decide (q = p) && decide (i % 8 = k)) || (decide (q ≠ p) && partState s q = 0) || !pagesMeet r (hbmPages s q (i % 8)))

/-- The save area lies in one valid range (ECAUSE 3). -/
def saveOk (s : State) (p : Nat) : Bool :=
  let a := s.fld (rPartSave p) 47 20 * 0x100000
  (List.range 8).any fun k => hbmRange s p k a && hbmRange s p k (a + 0xFFFFF)

/-- ECAUSE of an ENABLE, 0 accepted. -/
def enableCause (s : State) (p : Nat) : Nat :=
  if !clustersFree s p then 1 else if !rangesFree s p then 2 else if !saveOk s p then 3 else 0

def setPartState (s : State) (p v : Nat) : State := s.setFld (rPartCtl p) 3 2 v

/-- Counters of group 0 of a partition are cleared (R602). -/
def clearPartCnts (s : State) (p : Nat) : State :=
  { s with hub := { s.hub with cnts := s.hub.cnts.filter fun q => !(q.1 / 0x10000 = p ∧ q.1 % 0x10000 < 0x1000) } }

/-- PARTITION_ENABLE: an accepted command begins to invalidate the ranges. -/
def doPartitionEnable (p : Nat) (s : State) : State :=
  if !s.up then s
  else if partState s p ≠ 0 then s.setRBit (rPartCtl p) 11 true
  else if enableCause s p ≠ 0 then (s.setFld (rPartCtl p) 10 7 (enableCause s p)).setRBit (rPartCtl p) 11 true
  else clearPartCnts ((setPartState s p 1).setRBit rMeminitCtl 1 true) p
def execPartitionEnable (part : Fin 16) (s : State) : Res := .next (doPartitionEnable part s)

/-- Every block of a partition's valid ranges becomes invalid (R289, R305). -/
def invalidateParts (s : State) (p : Nat) : State :=
  (List.range 8).foldl (fun s k =>
    let r := hbmPages s p k
    if r.1 then invalidateRange s (r.2.1 * 512) ((r.2.1 + r.2.2) * 512) else s) s

/-- A session waits for its scrub (R547). -/
def scrubbing (s : State) : Bool := s.rbit rSecState 7

/-- PARTITION_ENABLED: the invalidation ends; an ENABLE written during a debug scrub waits for its end. -/
def doPartitionEnabled (p : Nat) (s : State) : State :=
  if partState s p ≠ 1 ∨ scrubbing s = true then s
  else
    let t := configSteps (setPartState (invalidateParts s p) p 2) p
    t.setRBit rMeminitCtl 1 (anyEnabling t || t.fabr.init)
def execPartitionEnabled (part : Fin 16) (s : State) : Res := .next (doPartitionEnabled part s)

/-! ### DISABLE (R489, Table 11.15) -/

/-- Steps 1 to 3: no new tile, and groups, pipelines and guest windows of the partition end. `err` is the
ERR code of its jobs; `leave` marks a cluster that leaves service. -/
def disableBegin (s : State) (p cause err : Nat) (leave : Bool) : State :=
  let s1 := (setPartState s p 3).setFld (rPartCtl p) 6 4 cause
  let s2 := setPart s1 p { getPart s1 p with draining := true, cause := err, leave := leave }
  dropWindows (failPipesOf (failPartGroups s2 p) p) 2 fun m k => winPart s2 m k = p

/-- PARTITION_DISABLE: CMD = 2 of a partition that is enabling or enabled. -/
def doPartitionDisable (p : Nat) (s : State) : State :=
  if !s.up then s
  else if partState s p = 1 ∨ partState s p = 2 then
    let t := disableBegin s p 1 0x46 false
    t.setRBit rMeminitCtl 1 (anyEnabling t || t.fabr.init)
  else s.setRBit (rPartCtl p) 11 true
def execPartitionDisable (part : Fin 16) (s : State) : Res := .next (doPartitionDisable part s)

/-- A replay whose job is final is over. -/
def dropRep (s : State) : State :=
  match s.hub.rep with
  | some q => if (findJob s q.idx).isNone then { s with hub := { s.hub with rep := none } } else s
  | none => s

/-- One job of a partition that ends is ABORTED with ERR `err`. -/
def abortJob (err : Nat) (s : State) (j : Job) : State :=
  if jType j = 1 then abortStep s j err
  else jobFinal s j 6 j.progress err

/-- Jobs that end with their partition: STEP, EXPORT, REPLAY and SCRUB. -/
def jobsOf (s : State) (p : Nat) : List Job :=
  s.hub.jobs.filter fun j => partTarget (jType j) && jType j ≠ 15 && jPart j = p

/-- Every job of the partition ends ABORTED. -/
def abortJobs (s : State) (p err : Nat) : State := dropRep ((jobsOf s p).foldl (abortJob err) s)

/-- Every context of the partition is lost, with its streams and counts; nothing is scheduled. -/
def loseContexts (s : State) (p : Nat) : State :=
  let s1 := (s.acc.colls.filter fun c => c.part = p).foldl dropColl s
  let s2 := dropSteps ((List.range 8).foldl (fun s x => setCtx s p x emptyCtx) s1) p
  let q := getPart s2 p
  let s3 := setPart s2 p { q with sched := none, last := none, draining := false, cause := 0, leave := false }
  { s3 with sec := { s3.sec with halted := s3.sec.halted.filter fun k => k / 8 ≠ p } }

/-- Steps 4 and 5 of the disable sequence. -/
def disableEnd (s : State) (p : Nat) : State :=
  let n := ((jobsOf s p).filter fun j => !j.replay).length
  let s1 := abortJobs s p (getPart s p).cause
  let s2 := event0 s1 0x0502 8 (some p) [put p 0 ||| put (s1.fld (rPartCtl p) 6 4) 4, put n 0]
  setPartState (loseContexts s2 p) p 0

/-! ### Scalars of the host (R278 to R282, R510) -/

/-- The partition whose lead cluster is `c`. -/
def ledBy (s : State) (c : Nat) : Option Nat := (partNamed s c).filter fun p => leadCluster s p = c

/-- A write that reaches a lead cluster; of any other cluster it is discarded. -/
def leadWrite (s : State) (c : Nat) (f : Nat → State) : State :=
  if s.up then (match ledBy s c with | some p => f p | none => s) else s

/-- CLU_STEP_WRITE, with its STEP_WRITE record. -/
def doCluStepWrite (c : Nat) (v : Word) (s : State) : State :=
  leadWrite s c fun p =>
    slgWrite (s.setReg (rStep c) v) p ⟨0x01, 0, none, 0, [s.reg (rStep c), v]⟩
def execCluStepWrite (cluster : Fin 32) (value : BitVec 64) (s : State) : Res := .next (doCluStepWrite cluster value s)

/-- CLU_SEED_WRITE, with its REG_WRITE record. -/
def doCluSeedWrite (c : Nat) (v : Word) (s : State) : State :=
  leadWrite s c fun p => slgWrite (s.setReg (rSeed c) v) p ⟨0x02, 0, none, 0, [put 0x710 0, v]⟩
def execCluSeedWrite (cluster : Fin 32) (value : BitVec 64) (s : State) : Res := .next (doCluSeedWrite cluster value s)

/-- A clip threshold that is negative or NaN (R282). -/
def clipBad (v : Word) : Bool :=
  let m := bits v 30 0
  decide (0x7F800000 < m) || (bit v 31 && decide (0 < m))

/-- CLU_CLIP_WRITE, with its REG_WRITE record. -/
def doCluClipWrite (c : Nat) (v : Word) (s : State) : State :=
  leadWrite s c fun p =>
    if clipBad v then s.setRBit (rClip c) 63 true
    else slgWrite (s.softWrite (rClip c) v) p ⟨0x02, 0, none, 0, [put 0x720 0, v]⟩
def execCluClipWrite (cluster : Fin 32) (value : BitVec 64) (s : State) : Res := .next (doCluClipWrite cluster value s)

/-! ### The Sillage ring (R508, R512, R520, R521) -/

/-- A decision where a partition's waiting jobs may have become able to start. -/
def decideIf (s : State) (p : Nat) : State := if (getPart s p).sched = none then decide_ s p else s

/-- SILLAGE_ENABLE: a write of HUB_SLGp_CTL. SIZE_MIB may not change while EN is 1. EN restarts k at 0. -/
def doSillageEnable (p : Nat) (v : BitVec 32) (s : State) : State :=
  let t := s.softWrite (rSlgCtl p) (v.setWidth 64)
  if !s.up then s
  else if slgOn s p ∧ s.fld (rSlgCtl p) 12 3 ≠ t.fld (rSlgCtl p) 12 3 then s.setRBit (rSlgBase p) 63 true
  else if slgOn s p = false ∧ slgOn t p = true then
    let t1 := (t.setReg (rSlgTail p) 0).setReg (rSlgOldest p) 0
    slgHoldUpdate (setPart t1 p { getPart t1 p with slgSteps := [], slgLost := 0, slgEvt := none }) p
  else decideIf (slgHoldUpdate t p) p
def execSillageEnable (part : Fin 16) (value : BitVec 32) (s : State) : Res := .next (doSillageEnable part value s)

/-- SILLAGE_HEAD_WRITE: the host has consumed records; a LOST record follows once space returns, and held
STEP jobs may start. -/
def doSillageHeadWrite (p : Nat) (v : BitVec 32) (s : State) : State :=
  if s.up then
    decideIf (slgLostFlush (slgHoldUpdate (s.softWrite (rSlgHead p) (v.setWidth 64)) p) p) p
  else s
def execSillageHeadWrite (part : Fin 16) (value : BitVec 32) (s : State) : Res := .next (doSillageHeadWrite part value s)

end Sys2Proof.Machine
end

