-- ==== Sys2Proof/Machine/Reset.lean ====
section
/-! DEFINITION. Core faults, spare cores, cluster and partition resets, and cluster throttling (R50, R52,
R62, R489, R568, R577, R579, R588, R598, R608). -/

namespace Sys2Proof.Machine

/-! ### Physical cores (R50, Table 15.8) -/

/-- Repair word of a cluster. -/
def cluWord (s : State) (c : Nat) : Word := smGet 0 (repairOf s).clus c

/-- Physical cores of a cluster that are not retired, ascending: the first 32 serve the logical cores. -/
def workingCores (s : State) (c : Nat) : List Nat := (List.range 33).filter fun i => !bit (cluWord s c) i

/-- The physical core that serves a logical core. -/
def physOf (s : State) (c core : Nat) : Nat := (workingCores s c).getD core 32

/-- UNIT and INDEX that name a physical core: the package core that it serves, or its cluster. -/
def coreUnit (s : State) (c phys : Nat) : Nat × Nat :=
  match ((workingCores s c).take 32).idxOf? phys with
  | some i => (0, 32 * c + i)
  | none => (1, c)

/-- The spare is not in use: no core of the cluster is retired. -/
def spareFree (s : State) (c : Nat) : Bool := bits (cluWord s c) 32 0 = 0

/-- The repair word of a cluster that retires a core: one more activation, or out of service. -/
def retireWord (w : Word) (phys : Nat) (gone : Bool) : Word :=
  let w1 := setBit w phys true
  if gone then setBit w1 40 true else setBits w1 63 48 (min 0xFFFF (bits w1 63 48 + 1))

/-- The repair record retires a core, and counts an activation or puts the cluster out of service. -/
def retire (s : State) (c phys : Nat) (gone : Bool) : State :=
  repairWrite s fun r => { r with clus := smMod 0 r.clus c fun w => retireWord w phys gone }

/-! ### Commands of PWR_RST_CTL (R588) -/

/-- A cluster of a partition is in reset. -/
def partInReset (s : State) (p : Nat) : Bool := (partClusters s p).any fun c => s.mod.crst.contains c

/-- The command in progress has not ended. -/
def rstBusy (s : State) : Bool :=
  match s.mod.cmd with
  | (1, c) => s.mod.crst.contains c
  | (2, p) => s.mod.prst.contains p || partInReset s p
  | (3, _) => hubRestarting s
  | _ => false

/-- BUSY follows the command. -/
def showBusy (s : State) : State :=
  let b := rstBusy s
  let s1 := s.setRBit rRstCtl 11 b
  if b then s1 else { s1 with mod := { s1.mod with cmd := (0, 0) } }

def rstErr (s : State) : State := s.setRBit rRstCtl 12 true

/-- A command is discarded: BUSY, or the host issues it while a hub restart runs. -/
def rstClosed (s : State) (src : CmdSrc) : Bool := s.rbit rRstCtl 11 || (src = .host && hubRestarting s)

/-! ### Contained clusters -/

/-- The jobs of an enabled partition end with ERR 0x47, and its contexts with them (R489, R579). -/
def endPartWork (s : State) (p : Nat) : State :=
  if partState s p = 1 ∨ partState s p = 2 then
    let s1 := (s.acc.colls.filter fun c => c.part = p).foldl (fun s c => collFail s c 2 0xFFF 0x3F) (failPipesOf s p)
    let s2 := loseContexts (abortJobs s1 p 0x47) p
    setPart s2 p { getPart s2 p with draining := true }
  else s

/-- The core stores and accumulator memories of a cluster's cores lose their contents (R53). -/
def loseStores (s : State) (c : Nat) : State :=
  { s with
    cstore := s.cstore.filter fun p => p.1 / 0x400000 / 32 ≠ c
    accm := s.accm.filter fun p => p.1 / 0x200000 / 32 ≠ c }

/-- A cluster reset begins: the cluster leaves HUB_CLU_STATE and its partition's work ends. -/
def clusterReset (s : State) (c : Nat) : State :=
  if s.mod.crst.contains c then s
  else
    let s1 := cntInc (loseStores (s.setRBit rCluState c false) c) (0x6020 + c) 0 1
    let s2 := { s1 with mod := { s1.mod with crst := s1.mod.crst ++ [c] } }
    match partOf s2 c with
    | some p => endPartWork s2 p
    | none => s2

/-- A partition is disabled because a cluster leaves service (R489). -/
def leaveService (s : State) (c : Nat) : State :=
  match partOf s c with
  | some p => if partState s p = 3 then s else disableBegin s p 2 0x46 true
  | none => s

/-- The record of a core that failed (Table 15.3), in the names that hold before it is retired. -/
def coreRecord (s : State) (c phys cause code : Nat) : ErrRec :=
  let p := partOf s c
  { code := code, cls := 3, die := c / 4, part := p, ctx := (p.bind fun k => (getPart s k).sched).getD 0
    unit := (coreUnit s c phys).1, index := (coreUnit s c phys).2, cause := cause, d0 := phys
    d1 := if code = 0x090A then 32 else 0 }

/-- A core is retired for good and its cluster is left out of HUB_CLU_STATE (R52). -/
def coreGone (s : State) (c phys cause : Nat) : State :=
  leaveService (errRecord ((retire s c phys true).setRBit rCluState c false) (coreRecord s c phys cause 0x090B)) c

/-- A physical core has failed (R52, R598): with the spare free it is mapped in by a cluster reset; else
the cluster leaves service. HUB_CLU_STATE changes before the record (R62). A fault in a cluster that is in
reset waits for the reset to end. -/
def coreFault (s : State) (c phys cause : Nat) : State :=
  if s.mod.crst.contains c then { s with mod := { s.mod with again := s.mod.again ++ [⟨c, phys, cause⟩] } }
  else if s.rbit rCluState c = false then s
  else
    let s1 := cntInc s (0x6000 + c) 0 1
    if spareFree s c then
      clusterReset (errRecord ((retire s1 c phys false).setRBit rCluState c false) (coreRecord s1 c phys cause 0x090A)) c
    else coreGone s1 c phys cause

/-- CORE_ENGINE_PARITY. -/
def doCoreEngineParity (c core : Nat) (s : State) : State := if s.up then coreFault s c (physOf s c core) 1 else s
def execCoreEngineParity (cluster core : Fin 32) (s : State) : Res := .next (doCoreEngineParity cluster core s)

/-- TILE_WATCHDOG: a tile of the core has not ended within 40 microseconds of its start. -/
def doTileWatchdog (c core : Nat) (s : State) : State := if s.up then coreFault s c (physOf s c core) 2 else s
def execTileWatchdog (cluster core : Fin 32) (s : State) : Res := .next (doTileWatchdog cluster core s)

/-- A store word of a core was uncorrectable; the second since its cluster's reset fails the core. -/
def countStoreErr (s : State) (core : Nat) : State :=
  if s.mod.coreErr.contains core then coreFault s (core / 32) (physOf s (core / 32) (core % 32)) 3
  else { s with mod := { s.mod with coreErr := core :: s.mod.coreErr } }

/-- TILE_END. A contained cluster ends no tile. -/
def doTileEndOn (a : StreamId) (i : BitVec 32) (t core : Nat) (e : StoreErr) (s : State) : State :=
  if s.rbit rCluState (core / 32) then
    let s1 := doTileEnd a i t core e s
    if s1.hub.recs = s.hub.recs ∨ storeLost e = false then s1 else countStoreErr s1 core
  else s
def execTileEnd (at_ : StreamId) (iseq : BitVec 32) (tile : Nat) (core : Fin 1024) (err : StoreErr) (s : State) : Res :=
  .next (doTileEndOn at_ iseq tile core err s)

/-! ### Cluster reset (R579) -/

/-- CLUSTER_RESET. -/
def doClusterReset (src : CmdSrc) (c : Nat) (s : State) : State :=
  if !s.up then s
  else if rstClosed s src ∨ s.rbit rCluState c = false then rstErr s
  else
    let s1 := s.setFld rRstCtl 6 2 c
    showBusy (clusterReset { s1 with mod := { s1.mod with cmd := (1, c) } } c)
def execClusterReset (src : CmdSrc) (cluster : Fin 32) (s : State) : Res := .next (doClusterReset src cluster s)

/-- The partition of a cluster goes on once none of its clusters is in reset. -/
def resumePart (s : State) (c : Nat) : State :=
  match partOf s c with
  | some p =>
    if partInReset s p then s
    else if partState s p = 2 then
      if (partClusters s p).all fun k => s.rbit rCluState k then decide_ (setPart s p { getPart s p with draining := false }) p else s
    else s
  | none => s

/-- The cluster returns to service, and its partition goes on. -/
def clusterBack (s : State) (c : Nat) : State := resumePart (s.setRBit rCluState c true) c

/-- The CAUSE of a core that the self-test found, which is not given. -/
def selfTestCause (s : State) : Nat := (Config.freeValue s.fresh).toNat % 256

/-- CLUSTER_RESET_DONE: the self-test names the physical cores that failed it. One is replaced by a free
spare, and the record follows HUB_CLU_STATE; otherwise the cluster stays out of service. A fault that came during the reset starts another. A cluster of a die that a hub restart has put out of service stays out (R385). -/
def doClusterResetDone (c : Nat) (failed : BitVec 33) (s : State) : State :=
  if s.mod.crst.contains c then
    let bad := (List.range 33).filter fun i => bit failed i && !bit (cluWord s c) i
    let again := s.mod.again.filter fun f => f.clu = c
    let s1 := { s with mod := { s.mod with
      crst := s.mod.crst.filter fun k => k ≠ c
      again := s.mod.again.filter fun f => f.clu ≠ c
      coreErr := s.mod.coreErr.filter fun k => k / 32 ≠ c } }
    let s2 := if s1.fabr.gone.contains (c / 4) then resumePart s1 c else match bad with
      | [] => clusterBack s1 c
      | f :: fs =>
        let t := cntInc s1 (0x6000 + c) 0 1
        if fs = [] ∧ spareFree s1 c = true then
          clusterBack (errRecord ((retire t c f false).nextFresh.setRBit rCluState c true)
            (coreRecord t c f (selfTestCause t) 0x090A)) c
        else coreGone (fs.foldl (fun s k => retire s c k false) t.nextFresh) c f (selfTestCause t)
    showBusy (again.foldl (fun s f => coreFault s c f.core f.cause) s2)
  else s
def execClusterResetDone (cluster : Fin 32) (failed : BitVec 33) (s : State) : Res :=
  .next (doClusterResetDone cluster failed s)

/-! ### Partition reset (Table 14.10) -/

/-- A partition that is enabled disables, and its clusters reset once it is DISABLED. -/
def partitionReset (s : State) (p : Nat) : State :=
  let s1 := { s with mod := { s.mod with prst := s.mod.prst ++ [p] } }
  if partState s p = 3 then s1 else disableBegin s1 p 1 0x46 false

/-- PARTITION_RESET. -/
def doPartitionReset (src : CmdSrc) (p : Nat) (s : State) : State :=
  if !s.up then s
  else if rstClosed s src ∨ partState s p = 0 ∨ s.mod.prst.contains p = true then rstErr s
  else
    let s1 := s.setFld rRstCtl 10 7 p
    showBusy (partitionReset { s1 with mod := { s1.mod with cmd := (2, p) } } p)
def execPartitionReset (src : CmdSrc) (part : Fin 16) (s : State) : Res := .next (doPartitionReset src part s)

/-- SEQUENCER_DISAGREEMENT: a branch decision or scalar store value of a cluster differs from the lead
cluster's; `pc` is that cluster's. The partition resets. -/
def doSequencerDisagreement (p : Fin 16) (k : Strm) (pc : BitVec 32) (s : State) : State :=
  match (getPart s p).sched with
  | some x =>
    if partState s p ≠ 2 ∨ s.mod.prst.contains p.val = true then s
    else
      let c := leadCluster s p
      partitionReset (errRecord s
        { code := 0x090C, cls := 3, die := c / 4, part := some p, ctx := x, unit := 1, index := c, cause := strmNo k
          strm := strmNo k, d0 := ((getCtx s p x).strm k).pc, d1 := pc.toNat }) p
  | none => s
def execSequencerDisagreement (part : Fin 16) (strm : Strm) (pc : BitVec 32) (s : State) : Res :=
  .next (doSequencerDisagreement part strm pc s)

/-- PARTITION_DISABLE_DONE: steps 4 and 5 of Table 11.15; the clusters of a partition under reset follow. -/
def doPartitionDisableDone (p : Nat) (s : State) : State :=
  if partState s p ≠ 3 then s
  else
    let s1 := disableEnd s p
    if s1.mod.prst.contains p then
      showBusy ((partClusters s1 p).foldl (fun s c => if s.rbit rCluState c then clusterReset s c else s)
        { s1 with mod := { s1.mod with prst := s1.mod.prst.filter fun q => q ≠ p } })
    else s1
def execPartitionDisableDone (part : Fin 16) (s : State) : Res := .next (doPartitionDisableDone part s)

/-! ### Throttling (R568) -/

/-- CLUSTER_THROTTLE: the cluster has stayed at its throttle point for 1 ms and runs at 720 MHz. -/
def doClusterThrottle (c : Nat) (s : State) : State :=
  if s.up ∧ s.rbit rCluState c = true ∧ s.mod.slow.contains c = false then
    { s with mod := { s.mod with slow := s.mod.slow ++ [c] } }
  else s
def execClusterThrottle (cluster : Fin 32) (s : State) : Res := .next (doClusterThrottle cluster s)

/-- CLUSTER_UNTHROTTLE: 5 degrees below it for 1 ms: 800 MHz again. -/
def doClusterUnthrottle (c : Nat) (s : State) : State :=
  { s with mod := { s.mod with slow := s.mod.slow.filter fun k => k ≠ c } }
def execClusterUnthrottle (cluster : Fin 32) (s : State) : Res := .next (doClusterUnthrottle cluster s)

end Sys2Proof.Machine
end

