-- ==== Sys2Proof/Machine/Sec.lean ====
section
/-! DEFINITION. The security controller: the mailbox, SPDM, lifecycle commands, debug sessions, recovery
loads and the JTAG TAP (R530, R531, R540 to R558, R631). -/

namespace Sys2Proof.Machine

/-! ### The mailbox (R558) -/

def portNo : DbgPort → Nat
  | .mailbox => 1
  | .jtag => 2

/-- The last command has ended with a status of Table 13.20. -/
def mbxDone (s : State) (st : Nat) : State :=
  ((s.setFld rMbxCtl 27 24 st).setRBit rMbxCtl 19 false).setRBit rMbxCtl 20 true

/-- A command of a port to the security controller: with BUSY it is discarded with STATUS 1; in recovery
and Drydown, which JTAG alone reaches, nothing is permitted. -/
def secCommand (port : DbgPort) (s : State) (f : State → State) : State :=
  if s.up then
    if s.rbit rMbxCtl 19 then s.setFld rMbxCtl 27 24 1 else f (s.setRBit rMbxCtl 20 false)
  else if port = .jtag ∧ (s.mod.phase = .recovery ∨ s.mod.phase = .drydown) then mbxDone s 10
  else s

/-- KIND and LEN of a SUBMIT. -/
def setSubmit (s : State) (kind len : Nat) : State := (s.setFld rMbxCtl 3 2 kind).setFld rMbxCtl 16 4 len

/-- The first `len` bytes of SEC_MBX_REQ. -/
def reqBytes (s : State) (len : Nat) : List Byte :=
  ((List.range (ceilDiv len 8)).flatMap fun k => leBytes 8 (s.reg (secR (0x1000 + 8 * k))).toNat).take len

/-- Stores a response in SEC_MBX_RSP. -/
def storeRsp (s : State) (b : List Byte) : State :=
  let ws := chunks 8 (ceilDiv b.length 8) b
  ((List.range ws.length).foldl (fun s k =>
    s.setReg (secR (0x2000 + 8 * k)) (BitVec.ofNat 64 (leNat (ws.getD k [])))) s).setFld rMbxCtl 44 32 b.length

/-! ### Free values of the DRBG -/

def freshBytes (s : State) (words : Nat) : List Byte :=
  (List.range words).flatMap fun i => leBytes 8 (Config.freeValue (s.fresh + i)).toNat

def takeFresh (s : State) (words : Nat) : State := { s with fresh := s.fresh + words }

/-! ### The nonce (R545) -/

def dropNonce (s : State) : State :=
  ({ s with sec := { s.sec with nonce := none } }).setRBit rSecState 11 false

/-- NEW_NONCE. -/
def doNewNonce (port : DbgPort) (s : State) : State :=
  secCommand port s fun s =>
    let t := takeFresh s 4
    mbxDone (({ t with sec := { t.sec with nonce := some (freshBytes s 4) } }).setRBit rSecState 11 true) 0
def execNewNonce (port : DbgPort) (s : State) : Res := .next (doNewNonce port s)

/-- NONCE_EXPIRY. -/
def doNonceExpiry (s : State) : State := if s.sec.nonce = none then s else dropNonce s
def execNonceExpiry (s : State) : Res := .next (doNonceExpiry s)

/-! ### Scrub and zeroisation (R550, R551) -/

/-- Every line of the hub's cache is written back and given up. -/
def dropLines (s : State) : State := s.hub.hlines.foldl giveUp { s with hub := { s.hub with hlines := [] } }

/-- Every modified line is written back. -/
def writeBack (s : State) : State :=
  (s.hub.hlines.filter fun h => h.st = .modified).foldl giveUp
    { s with hub := { s.hub with hlines := s.hub.hlines.filter fun h => h.st ≠ .modified } }

/-- A scrub begins. -/
def scrubBegin (s : State) : State := (dropLines s).setRBit rSecState 7 true

/-- A scrub ends: stored bytes are 0, every entry is invalidated, vocabularies and user tables are zero. -/
def scrubEnd (s : State) : State :=
  { s.setRBit rSecState 7 false with
    mem := [], ent := [], cstore := [], accm := []
    pipes := s.pipes.map fun p => (p.1, { p.2 with vocab := zeros p.2.vocab.length })
    ctxs := s.ctxs.map fun p => (p.1, { p.2 with tslot := p.2.tslot.map fun q => (q.1, zeros q.2.length) }) }

/-- Zeroisation: UDS_KILL is blown, the provisioning block is erased, and the identity key is gone for good; of a BLANK
module UDS_KILL only. -/
def zeroise (s : State) : State :=
  ({ s with sec := { s.sec with
      fuses := { s.sec.fuses with kill := true }
      erased := s.sec.erased || s.sec.fuses.life ≠ 0 } }).setRBit rSecState 9 false

/-- Provisioning, in the factory: a BLANK module becomes PROVISIONED, with its Cujor slots programmed and the
provisioning block written (R538, R542). No command of the table makes it; State.reset is a module after it. -/
def provision (s : State) : State :=
  if s.sec.fuses.life = 0 then
    { s with sec := { s.sec with fuses := { s.sec.fuses with life := 1, slot := Fuses.reset.slot }, erased := false } }
  else s

/-- Every partition is DISABLED. -/
def allDisabled (s : State) : Bool := (List.range 16).all fun p => partState s p = 0

/-! ### Lifecycle commands (R542, R543, Table 13.10) -/

/-- A field of an object's payload. -/
def payF (b : List Byte) (o n : Nat) : Nat := bF (oPayload b) o n

/-- SERIAL of an object names another module. -/
def serialBad (b : List Byte) : Bool := payF b 8 6 ≠ Config.serial.toNat

/-- The object's NONCE is not the current one. -/
def nonceBad (s : State) (b : List Byte) : Bool := s.sec.nonce ≠ some (((oPayload b).drop 16).take 32)

/-- Magic, zero fields and ARG of a lifecycle command. -/
def lifeFormat (b : List Byte) : Bool :=
  let code := payF b 4 1
  let arg := payF b 5 1
  payF b 0 4 = 0x31444D43 && payF b 6 2 = 0 && payF b 14 2 = 0 && payF b 48 16 = 0 &&
    ((code = 1 && arg % 4 = 0 && decide (arg < 16)) ||
      (payF b 64 64 = 0 && ((code = 2 && decide (arg < 4)) || (code = 3 && arg = 0))))

/-- A slot that is programmed, not revoked and carries usage bit `u`. -/
def slotServes (f : BitVec 32) (k u : Nat) : Bool := bit f (8 * k) && !bit f (8 * k + 1) && bit f (8 * k + 2 + u)

/-- Conditions of a command (R543). -/
def lifeAllowed (s : State) (b : List Byte) : Bool :=
  let k := payF b 5 1
  match payF b 4 1 with
  | 1 => s.sec.fuses.life = 1
  | 2 =>
    let left := fun u => (List.range 4).any fun i => decide (i ≠ k) && slotServes s.sec.fuses.slot i u
    (s.sec.fuses.life = 1 || s.sec.fuses.life = 2) && decide (k ≠ oSlot b) && (left 0 || left 1)
  | _ => s.sec.fuses.life = 2 && allDisabled s

/-- Status of a lifecycle command; the nonce is used up once it has been compared. -/
def lifeCheck (s : State) (b : List Byte) : State × Nat :=
  let st := objCheck s [0x10] b
  if st ≠ 0 then (s, st)
  else if serialBad b then (s, 8)
  else if nonceBad s b then (dropNonce s, 9)
  else (dropNonce s, if !lifeFormat b then 2 else if !lifeAllowed s b then 10 else 0)

/-- The fuses that an accepted command blows. -/
def lifeFuses (b : List Byte) (f : Fuses) : Fuses :=
  let arg := payF b 5 1
  match payF b 4 1 with
  | 1 => [2, 3].foldl (fun f k =>
      if arg / 2 ^ k % 2 = 1 then
        { f with slot := setBits f.slot (8 * k + 7) (8 * k) 0x81
                 hash := smInsert f.hash k (digestOf (((oPayload b).drop (32 * k)).take 32)) }
      else f) { f with life := 2 }
  | 2 => { f with slot := setBit f.slot (8 * arg + 1) true }
  | _ => { f with life := 3 }

/-- A submitted lifecycle command: checked, fuses blown, event 0x0706. RETURN zeroises before and scrubs
after, and ends with its scrub. -/
def lifeSubmit (port : DbgPort) (len : Nat) (s : State) : State :=
  secCommand port (if s.rbit rMbxCtl 19 then s else setSubmit s 1 len) fun s =>
    let b := reqBytes s len
    let c := lifeCheck s b
    let ret := decide (payF b 4 1 = 3)
    let s1 := if c.2 ≠ 0 then c.1
      else
        let z := if ret then zeroise c.1 else c.1
        { z with sec := { z.sec with fuses := lifeFuses b z.sec.fuses } }
    let s2 := event0 s1 0x0706 8 none [put (payF b 4 1) 0 ||| put c.2 8, put (payF b 5 1) 0]
    if c.2 = 0 ∧ ret = true then ((scrubBegin s2).setFld rMbxCtl 27 24 0).setRBit rMbxCtl 19 true else mbxDone s2 c.2

/-- CODE of the command in the request bytes. -/
def reqCode (s : State) (len : Nat) : Nat := payF (reqBytes s len) 4 1

/-- DEPLOY. -/
def doDeploy (port : DbgPort) (len : BitVec 13) (s : State) : State :=
  if reqCode s len.toNat = 1 then lifeSubmit port len.toNat s else s
def execDeploy (port : DbgPort) (len : BitVec 13) (s : State) : Res := .next (doDeploy port len s)

/-- REVOKE. -/
def doRevoke (port : DbgPort) (len : BitVec 13) (s : State) : State :=
  if reqCode s len.toNat = 2 then lifeSubmit port len.toNat s else s
def execRevoke (port : DbgPort) (len : BitVec 13) (s : State) : Res := .next (doRevoke port len s)

/-- RETURN. -/
def doReturnLife (port : DbgPort) (len : BitVec 13) (s : State) : State :=
  if reqCode s len.toNat = 3 then lifeSubmit port len.toNat s else s
def execReturnLife (port : DbgPort) (len : BitVec 13) (s : State) : Res := .next (doReturnLife port len s)

/-! ### Debug sessions (R544 to R549) -/

/-- A session closes with a cause of event 0x0702: halted contexts resume, M7, event, empty trace rings. -/
def closeSess (s : State) (cause : Nat) : State :=
  match s.sec.sess with
  | none => s
  | some q =>
    let s1 := { s with trace := [], sec := { s.sec with sess := none, halted := [] } }
    let s2 := (extendDebug s1 q.level q.port 2 q.flags q.tok).setFld rSecState 6 2 0
    event0 s2 0x0702 8 none [put q.level 0 ||| put q.port 2 ||| put cause 4, put (sessionSeq s) 0]

/-- A session opens once its entry actions are done: M7, event 0x0701, then the access (R548). -/
def openSess (s : State) (q : Session) : State :=
  let s0 := { s with sec := { s.sec with next := none } }
  let s1 := s0.setFld rSecState 31 16 ((sessionSeq s + 1) % 65536)
  let s2 := extendDebug s1 q.level q.port 1 q.flags q.tok
  let s3 := event0 s2 0x0701 8 none [put q.level 0 ||| put q.port 2 ||| put (b2n q.keep) 4 ||| put (sessionSeq s1) 16,
    put s1.sec.fuses.life 0]
  let s4 := ({ s3 with sec := { s3.sec with sess := some q } }).setFld rSecState 6 2 (q.level + 4 * q.port + 16 * b2n q.keep)
  let s5 := mbxDone s4 0
  if q.late then closeSess s5 2 else s5

/-- A D2 or D3 session waits for a FLASH job that runs (R532). -/
def sessWaits (s : State) (q : Session) : Bool := 2 ≤ q.level && (longRunning s 7).isSome

/-- A session that waits opens when its scrub and a running FLASH job have ended. -/
def openNext (s : State) : State :=
  match s.sec.next with
  | some q => if scrubbing s || sessWaits s q then s else openSess s q
  | none => s

/-- Table 13.13: the lifecycle permits a level, with a token or without one. -/
def levelOk (life level : Nat) (token d1 : Bool) : Bool :=
  match life, level with
  | 0, l => decide (1 ≤ l)
  | 1, 1 => true
  | 1, 2 => token
  | 2, 1 => token || d1
  | 2, 2 => token
  | 3, l => decide (1 ≤ l)
  | _, _ => false

/-- The entry to a level scrubs (Table 13.13). -/
def entryScrubs (life level : Nat) (keep : Bool) : Bool :=
  level = 3 || (level = 2 && (life = 3 || (decide (life ≠ 0) && !keep)))

/-- The request is accepted: entry actions, then the session opens, at once or when they end. -/
def enterSess (s : State) (q : Session) : State :=
  let scr := entryScrubs s.sec.fuses.life q.level q.keep
  let s1 := if q.level = 3 then zeroise s else s
  let s2 := if scr then scrubBegin s1 else s1
  openNext (({ s2 with sec := { s2.sec with next := some { q with keep := q.level = 2 && !scr } } }).setRBit rMbxCtl 19 true)

/-- What every entry needs beside its token: no session open, the partitions DISABLED for a scrub, and two
free log entries (R537, R544, R547). -/
def entryStatus (s : State) (level : Nat) (keep : Bool) : Nat :=
  if s.sec.sess.isSome then 10
  else if entryScrubs s.sec.fuses.life level keep && !allDisabled s then 10
  else if 62 < s.sec.log.length then 11
  else 0

/-- Magic and zero fields of a token (Table 13.12). -/
def tokenFormat (b : List Byte) : Bool :=
  payF b 0 4 = 0x314B4F54 && decide (payF b 5 1 < 2) && payF b 6 2 = 0 && payF b 14 2 = 0 && payF b 52 12 = 0

/-- Status of a debug token (R547). -/
def tokenCheck (s : State) (b : List Byte) : State × Nat :=
  let st := objCheck s [0x11] b
  if 1029 ≤ b.length ∧ levelOk s.sec.fuses.life (bF b 1028 1) true (s.rbit rSecState 10) = false then (s, 10)
  else if st ≠ 0 then (s, st)
  else if serialBad b then (s, 8)
  else if nonceBad s b then (dropNonce s, 9)
  else (dropNonce s, if !tokenFormat b then 2 else entryStatus s (payF b 4 1) (payF b 5 1 = 1))

/-- DEBUG_TOKEN. -/
def doDebugToken (port : DbgPort) (len : BitVec 13) (s : State) : State :=
  secCommand port (if s.rbit rMbxCtl 19 then s else setSubmit s 2 len.toNat) fun s =>
    let b := reqBytes s len.toNat
    let c := tokenCheck s b
    if c.2 ≠ 0 then mbxDone c.1 c.2
    else enterSess c.1 ⟨payF b 4 1, portNo port, payF b 5 1, (sha256 b).take 20, payF b 48 4, payF b 5 1 = 1, false⟩
def execDebugToken (port : DbgPort) (len : BitVec 13) (s : State) : Res := .next (doDebugToken port len s)

/-- DEBUG_REQUEST: SUBMIT with KIND 2 and LEN 0. -/
def doDebugRequest (port : DbgPort) (level : BitVec 2) (s : State) : State :=
  let l := level.toNat
  secCommand port (if s.rbit rMbxCtl 19 then s else (setSubmit s 2 0).setFld rMbxCtl 18 17 l) fun s =>
    let st := if levelOk s.sec.fuses.life l false (s.rbit rSecState 10) then entryStatus s l false else 10
    if st ≠ 0 then mbxDone s st else enterSess s ⟨l, portNo port, 0, [], 0, false, false⟩
def execDebugRequest (port : DbgPort) (level : BitVec 2) (s : State) : Res := .next (doDebugRequest port level s)

/-- DEBUG_SCRUB_DONE: the scrub of an entry or of RETURN ends. -/
def doDebugScrubDone (s : State) : State :=
  if scrubbing s then
    let t := scrubEnd s
    if t.sec.next.isSome then openNext t else if t.rbit rMbxCtl 19 then mbxDone t 0 else t
  else s
def execDebugScrubDone (s : State) : Res := .next (doDebugScrubDone s)

/-- CLOSE_SESSION, from the session's own port. -/
def doCloseSession (port : DbgPort) (s : State) : State :=
  secCommand port s fun s =>
    match s.sec.sess with
    | some q => if q.port = portNo port then mbxDone (closeSess s 1) 0 else mbxDone s 10
    | none => mbxDone s 10
def execCloseSession (port : DbgPort) (s : State) : Res := .next (doCloseSession port s)

/-- SESSION_DURATION_EXPIRY: of an open session, or of one whose entry has not ended. -/
def doSessionDurationExpiry (s : State) : State :=
  match s.sec.sess, s.sec.next with
  | some q, _ => if q.dur = 0 then s else closeSess s 2
  | none, some q => if q.dur = 0 then s else { s with sec := { s.sec with next := some { q with late := true } } }
  | none, none => s
def execSessionDurationExpiry (s : State) : Res := .next (doSessionDurationExpiry s)

/-- A hub restart ends a session, and one that has not opened never opens; the status of its request is
not given (R549, R553). -/
def restartSess (s : State) : State :=
  let s1 := closeSess s 4
  match s1.sec.next with
  | some _ => mbxDone ({ s1.nextFresh with sec := { s1.sec with next := none } }) ((Config.freeValue s1.fresh).toNat % 16)
  | none => s1

/-- A session of level 2 or above is open. -/
def debugD2 (s : State) : Bool := s.up && (s.sec.sess.any fun q => decide (2 ≤ q.level))

/-- DEBUG_HALT: the context's streams issue no tile more. -/
def doDebugHalt (p : Fin 16) (x : Fin 8) (s : State) : State :=
  if debugD2 s ∧ haltedCtx s p x = false then
    { s with sec := { s.sec with halted := s.sec.halted ++ [ctxKey p x] } }
  else s
def execDebugHalt (part : Fin 16) (ctx : Fin 8) (s : State) : Res := .next (doDebugHalt part ctx s)

/-- DEBUG_RESUME. -/
def doDebugResume (p : Fin 16) (x : Fin 8) (s : State) : State :=
  if debugD2 s then { s with sec := { s.sec with halted := s.sec.halted.filter fun k => k ≠ ctxKey p x } } else s
def execDebugResume (part : Fin 16) (ctx : Fin 8) (s : State) : Res := .next (doDebugResume part ctx s)

/-! ### SPDM (R539 to R541, Table 13.9). Message bytes are those of DMTF SPDM 1.2 -/

def byte (n : Nat) : Byte := BitVec.ofNat 8 n

/-- ERROR with a code: 1 invalid request, 3 busy, 4 unexpected request, 5 unspecified, 7 unsupported. -/
def spdmError (code data : Nat) : List Byte := [byte 0x12, byte 0x7F, byte code, byte data]

def spdmPortNo : SpdmPort → Nat
  | .mctp => 0
  | .mailbox => 1

/-- Connection state of a transport: 0 new, 1 version, 2 capabilities, 3 algorithms agreed. -/
def spdmSt (s : State) (port : SpdmPort) : Nat := smGet 0 s.sec.spdm (spdmPortNo port)

def setSpdm (s : State) (port : SpdmPort) (n : Nat) : State :=
  { s with sec := { s.sec with spdm := smSet 0 s.sec.spdm (spdmPortNo port) n } }

/-- A response leaves through its transport. -/
def spdmReply (port : SpdmPort) (r : State × List Byte) : State :=
  match port with
  | .mctp => r.1.send (.spdm .mctp ((r.2.getD 1 0).toNat) (r.2.map fun b => b.toNat))
  | .mailbox => mbxDone (storeRsp r.1 r.2) 0

/-- A request: the MCTP endpoint drops it without an endpoint ID, and answers Busy while the security
controller does not run SFW (R627, R630). -/
def spdmRequest (port : SpdmPort) (s : State) (f : State → State × List Byte) : State :=
  match port with
  | .mctp =>
    if s.mod.phase = .off ∨ s.mgmt.eid = 0 then s
    else if s.up then spdmReply .mctp (f s)
    else spdmReply .mctp (s, spdmError 3 0)
  | .mailbox => secCommand .mailbox (if s.rbit rMbxCtl 19 then s else s.setFld rMbxCtl 3 2 0) fun s => spdmReply .mailbox (f s)

/-- A request that needs an agreed connection. -/
def spdmAgreed (port : SpdmPort) (s : State) (f : State → State × List Byte) : State × List Byte :=
  if spdmSt s port = 3 then f s else (s, spdmError 4 0)

/-- GET_VERSION: 1.2 only; the connection starts over. -/
def doGetVersion (port : SpdmPort) (s : State) : State :=
  spdmRequest port s fun s => (setSpdm s port 1, [byte 0x10, byte 4, 0, 0, 0, byte 1, 0, byte 0x12])
def execGetVersion (port : SpdmPort) (s : State) : Res := .next (doGetVersion port s)

/-- GET_CAPABILITIES: CERT_CAP, CHAL_CAP, MEAS_CAP with signatures, CTExponent 17. -/
def doGetCapabilities (port : SpdmPort) (s : State) : State :=
  spdmRequest port s fun s =>
    if spdmSt s port = 1 ∨ spdmSt s port = 2 then
      (setSpdm s port 2, [byte 0x12, byte 0x61, 0, 0, 0, byte 17, 0, 0] ++ leBytes 4 0x16 ++ leBytes 4 4096 ++ leBytes 4 4096)
    else (s, spdmError 4 0)
def execGetCapabilities (port : SpdmPort) (s : State) : Res := .next (doGetCapabilities port s)

/-- NEGOTIATE_ALGORITHMS: the one algorithm of each kind, 0 where the requester does not offer it. -/
def doNegotiateAlgorithms (port : SpdmPort) (asymOk hashOk measOk : Bool) (s : State) : State :=
  spdmRequest port s fun s =>
    if spdmSt s port = 2 ∨ spdmSt s port = 3 then
      (setSpdm s port (if asymOk && hashOk then 3 else 2),
        [byte 0x12, byte 0x63, 0, 0] ++ leBytes 2 36 ++ [byte (b2n measOk), 0] ++ leBytes 4 (if measOk then 2 else 0) ++
          leBytes 4 (if asymOk then 8 else 0) ++ leBytes 4 (b2n hashOk) ++ zeros 16)
    else (s, spdmError 4 0)
def execNegotiateAlgorithms (port : SpdmPort) (asymOk hashOk measOk : Bool) (s : State) : Res :=
  .next (doNegotiateAlgorithms port asymOk hashOk measOk s)

/-- The certificate chain of slot 0 as SPDM carries it. -/
def certChain : List Byte :=
  leBytes 2 (Config.certificates.length + 36) ++ zeros 2 ++ digestBytes Config.rootHash ++ Config.certificates

/-- GET_DIGESTS: slot 0 only. After zeroisation the erased chain's digest is not given. -/
def doGetDigests (port : SpdmPort) (s : State) : State :=
  spdmRequest port s fun s => spdmAgreed port s fun s =>
    if s.sec.fuses.kill then (takeFresh s 4, [byte 0x12, byte 1, 0, byte 1] ++ freshBytes s 4)
    else (s, [byte 0x12, byte 1, 0, byte 1] ++ sha256 certChain)
def execGetDigests (port : SpdmPort) (s : State) : Res := .next (doGetDigests port s)

def identityOk (s : State) : Bool := s.rbit rSecState 9

/-- GET_CERTIFICATE: a portion of the chain of slot 0. -/
def doGetCertificate (port : SpdmPort) (slot offset length : Nat) (s : State) : State :=
  spdmRequest port s fun s => spdmAgreed port s fun s =>
    if !identityOk s then (s, spdmError 5 0)
    else if slot ≠ 0 ∨ certChain.length ≤ offset then (s, spdmError 1 0)
    else
      let part := (certChain.drop offset).take (min length 4088)
      (s, [byte 0x12, byte 2, 0, 0] ++ leBytes 2 part.length ++ leBytes 2 (certChain.length - offset - part.length) ++ part)
def execGetCertificate (port : SpdmPort) (slot offset length : Nat) (s : State) : Res :=
  .next (doGetCertificate port slot offset length s)

/-- DMTFSpecMeasurementValueType of M0 to M7 (Table 13.7). -/
def measType (i : Nat) : Nat := [0, 1, 1, 1, 3, 2, 2, 5].getD i 0

/-- The measurement block of register `i`. -/
def measBlock (s : State) (i : Nat) : List Byte :=
  leBytes 1 (i + 1) ++ leBytes 1 1 ++ leBytes 2 35 ++ leBytes 1 (measType i) ++ leBytes 2 32 ++
    digestBytes (smGet 0 s.sec.meas i)

def allBlocks (s : State) : List Byte := (List.range 8).flatMap (measBlock s)

/-- A signature that the identity key makes; transcript and salt are free values. -/
def signature (s : State) : List Byte :=
  match identityKeyOf (udsRead s.sec.fuses.kill) with
  | some k => rsaPssSign k (digestBytes (Config.transcript s.fresh)) (digestBytes (Config.signSalt s.fresh))
  | none => zeros 384

/-- CHALLENGE: signed with the identity key. -/
def doChallenge (port : SpdmPort) (slot : Nat) (summary : Bool) (s : State) : State :=
  spdmRequest port s fun s => spdmAgreed port s fun s =>
    if !identityOk s then (s, spdmError 5 0)
    else if slot ≠ 0 then (s, spdmError 1 0)
    else
      let t := takeFresh s 4
      (t.nextFresh, [byte 0x12, byte 3, 0, byte 1] ++ sha256 certChain ++ freshBytes s 4 ++
        (if summary then sha256 (allBlocks s) else []) ++ leBytes 2 0 ++ signature t)
def execChallenge (port : SpdmPort) (slot : Nat) (_nonce : Digest) (summary : Bool) (s : State) : Res :=
  .next (doChallenge port slot summary s)

/-- GET_MEASUREMENTS: the count, one register, or all eight from one instant. -/
def doGetMeasurements (port : SpdmPort) (index : BitVec 8) (signed : Bool) (s : State) : State :=
  spdmRequest port s fun s => spdmAgreed port s fun s =>
    let i := index.toNat
    if signed && !identityOk s then (s, spdmError 5 0)
    else if 8 < i ∧ i ≠ 255 then (s, spdmError 1 0)
    else
      let rec_ := if i = 0 then [] else if i = 255 then allBlocks s else measBlock s (i - 1)
      let n := if i = 0 then 0 else if i = 255 then 8 else 1
      let t := takeFresh s 4
      let m := [byte 0x12, byte 0x60, byte (if i = 0 then 8 else 0), 0] ++ leBytes 1 n ++ leBytes 3 rec_.length ++ rec_ ++
        freshBytes s 4 ++ leBytes 2 0
      if signed then (t.nextFresh, m ++ signature t) else (t, m)
def execGetMeasurements (port : SpdmPort) (index : BitVec 8) (signed : Bool) (_nonce : Digest) (s : State) : Res :=
  .next (doGetMeasurements port index signed s)

/-- An SPDM request in the mailbox's request bytes. -/
def spdmBytes (b : List Byte) (s : State) : State :=
  let code := bF b 1 1
  let p1 := bF b 2 1
  let p2 := bF b 3 1
  let bad := fun e => spdmRequest .mailbox s fun s => (s, spdmError e (if e = 7 then code else 0))
  if b.length < 4 then bad 1
  else if code = 0x84 then doGetVersion .mailbox s
  else if bF b 0 1 ≠ 0x12 then bad 0x41
  else match code with
    | 0xE1 => doGetCapabilities .mailbox s
    | 0xE3 => doNegotiateAlgorithms .mailbox (bF b 8 4 / 8 % 2 = 1) (bF b 12 4 % 2 = 1) (bF b 6 1 % 2 = 1) s
    | 0x81 => doGetDigests .mailbox s
    | 0x82 => doGetCertificate .mailbox p1 (bF b 4 2) (bF b 6 2) s
    | 0x83 => doChallenge .mailbox p1 (p2 ≠ 0) s
    | 0xE0 => doGetMeasurements .mailbox (BitVec.ofNat 8 p2) (p1 % 2 = 1) s
    | _ => bad 7

/-- A write of SEC_MBX_CTL from a port (Table 13.19). -/
def mbxWrite (port : DbgPort) (v : Word) (s : State) : State :=
  let cmd := bits v 1 0
  if cmd ≠ 0 ∧ s.rbit rMbxCtl 19 = true then s.setFld rMbxCtl 27 24 1
  else
    let t := s.softWrite rMbxCtl v
    let len := bits v 16 4
    match cmd with
    | 0 => t
    | 2 => doNewNonce port t
    | 3 => doCloseSession port t
    | _ =>
      if 4096 < len then secCommand port t fun t => mbxDone t 2
      else match bits v 3 2 with
        | 0 => if t.up then spdmBytes (reqBytes t len) t else secCommand port t id
        | 1 => lifeSubmit port len t
        | 2 => if len = 0 then doDebugRequest port (BitVec.ofNat 2 (bits v 18 17)) t else doDebugToken port (BitVec.ofNat 13 len) t
        | _ => secCommand port t fun t => mbxDone t 2

/-! ### Recovery (R530, R531) -/

/-- RECOVERY_LOAD: GO reads an object, `obj` as its lines give it. One that is accepted has its slot
erased first. -/
def doRecoveryLoad (obj : List Byte) (s : State) : State :=
  if s.mod.phase ≠ .recovery ∨ anyPortUp s = false ∨ s.rbit rRcvCtl 1 = true then s
  else
    let t := (s.setRBit rRcvCtl 1 true).setFld rRcvCtl 31 8 0
    let t1 := { t with sec := { t.sec with load := obj } }
    if objCheck s [1, 2] obj = 0 then setSlot t1 (oType obj) none else t1
def execRecoveryLoad (obj : List Byte) (s : State) : Res := .next (doRecoveryLoad obj s)

/-- RECOVERY_LOAD_DONE: STATUS, DONE; the image is in flash when it reads back. -/
def doRecoveryLoadDone (readBackOk : Bool) (s : State) : State :=
  if s.mod.phase ≠ .recovery ∨ s.rbit rRcvCtl 1 = false then s
  else
    let b := s.sec.load
    let st := objCheck s [1, 2] b
    let t := if st ≠ 0 then s.setFld rRcvCtl 7 4 st
      else
        let t := s.setFld rRcvCtl 31 8 (ceilDiv (1024 + oBytes b) 1024)
        if readBackOk then (setSlot t (oType b) (some b)).setFld rRcvCtl 7 4 0 else t.setFld rRcvCtl 7 4 12
    let t1 := (t.setRBit rRcvCtl 1 false).setRBit rRcvCtl 2 true
    { t1 with sec := { t1.sec with load := [] } }
def execRecoveryLoadDone (readBackOk : Bool) (s : State) : Res := .next (doRecoveryLoadDone readBackOk s)

/-! ### The TAP (R631, Table 16.12) -/

/-- An instruction and the value that its data register captures. The TAP runs while the module is
powered. -/
def tapInstr (s : State) (ir : Nat) (capture : Word) : State :=
  if s.mod.phase = .off then s else ({ s with sec := { s.sec with ir := ir } }).send (.jtag capture)

/-- BYPASS. -/
def doBypass (s : State) : State := tapInstr s 0xFF 0
def execBypass (s : State) : Res := .next (doBypass s)

/-- IDCODE. -/
def doIdcode (s : State) : State := tapInstr s 0x01 0x15A38573
def execIdcode (s : State) : Res := .next (doIdcode s)

def setPins (s : State) (v : Word) : State :=
  if s.mod.phase = .off then s else { s with sec := { s.sec with pins := v } }

/-- SAMPLE/PRELOAD: the boundary register takes the levels of the contacts. -/
def doSamplePreload (pins : BitVec 64) (s : State) : State := tapInstr (setPins s pins) 0x02 pins
def execSamplePreload (pins : BitVec 64) (s : State) : Res := .next (doSamplePreload pins s)

/-- EXTEST in a D3 session; otherwise BYPASS. -/
def doExtest (pins : BitVec 64) (s : State) : State :=
  if s.up && s.sec.sess.any fun q => decide (q.level = 3) then tapInstr (setPins s pins) 0x03 s.sec.pins
  else tapInstr s 0xFF 0
def execExtest (pins : BitVec 64) (s : State) : Res := .next (doExtest pins s)

/-- DBG_MBX: capture reads SEC_MBX_CTL, update writes it and resets the word pointer. In one cycle with a
host write the JTAG command is discarded with STATUS 1. -/
def doDbgMbx (v : BitVec 64) (hostSameCycle : Bool) (s : State) : State :=
  if s.mod.phase = .off then s
  else
    let t := tapInstr s 0x10 (s.reg rMbxCtl)
    let t1 := { t with sec := { t.sec with ptr := 0 } }
    if hostSameCycle then t1.setFld rMbxCtl 27 24 1 else mbxWrite .jtag v t1
def execDbgMbx (value : BitVec 64) (hostSameCycle : Bool) (s : State) : Res := .next (doDbgMbx value hostSameCycle s)

/-- DBG_DATA: capture reads the response word at the pointer, update writes the request word there, and
the pointer advances. -/
def doDbgData (v : BitVec 64) (s : State) : State :=
  if s.mod.phase = .off then s
  else
    let o := s.sec.ptr % 4096
    let t := tapInstr s 0x11 (s.reg (secR (0x2000 + o)))
    ({ t with sec := { t.sec with ptr := (o + 8) % 4096 } }).setReg (secR (0x1000 + o)) v
def execDbgData (value : BitVec 64) (s : State) : Res := .next (doDbgData value s)

/-- JTAG_TRST_N: IDCODE is selected. -/
def doTapReset (s : State) : State :=
  if s.mod.phase = .off then s else { s with sec := { s.sec with ir := 0x01 } }
def execTapReset (s : State) : Res := .next (doTapReset s)

end Sys2Proof.Machine
end

