-- ==== Sys2Proof/Machine/LongOps.lean ====
section
/-! DEFINITION. Long operations of the job engine: BIST, EXPORT, SCRUB and FLASH (R277, R314, R476, R477,
R480, R532, R601). -/

namespace Sys2Proof.Machine

/-! ### Checks of the records (Table 11.8) -/

/-- Words from `n` on are 0. -/
def zeroFrom (j : Job) (n : Nat) : Bool := (List.range (16 - n)).all fun i => jw j (n + i) = 0

/-- Words 0 and 1 of a long operation: PARTITION and CONTEXT 0 where the type has no target (R476). -/
def longHead (j : Job) (part : Bool) : Bool := headOk j false && (part || (jCtx j = 0 && jPart j = 0))

/-- Clusters of a BIST mask, ascending. -/
def bistMask (j : Job) : List Nat := (List.range 32).filter fun c => bit (jw j 2) c

/-- Every cluster of the mask is in service and in no enabled partition. -/
def bistFree (s : State) (j : Job) : Bool :=
  (bistMask j).all fun c => s.rbit rCluState c &&
    (List.range 16).all fun p => partState s p = 0 || !s.rbit (rPartClu p) c

/-- JOB_BIST. -/
def doJobBist (i : Nat) (s : State) : State :=
  match unchecked s i 2 with
  | none => s
  | some j =>
    longChecked s j (if !longHead j false || bits (jw j 2) 63 32 ≠ 0 || !zeroFrom j 3 then 0x40
      else if !bistFree s j then 0x43 else 0)
def execJobBist (idx : Fin 4096) (s : State) : Res := .next (doJobBist idx s)

/-! ### EXPORT (R277, R477) -/

/-- A part of a checkpoint image: bytes, or a range of device memory. -/
inductive Seg where
  | lit (b : List Byte)
  | mem (a n : Nat)
  deriving DecidableEq, Repr

def Seg.size : Seg → Nat
  | .lit b => b.length
  | .mem _ n => n

def Seg.slice (o k : Nat) : Seg → Seg
  | .lit b => .lit ((b.drop o).take k)
  | .mem a _ => .mem (a + o) k

/-- Bytes `o` to `o + n − 1` of an image. -/
def segRange : List Seg → Nat → Nat → List Seg
  | [], _, _ => []
  | g :: gs, o, n =>
    if n = 0 then []
    else if g.size ≤ o then segRange gs (o - g.size) n
    else g.slice o (min n (g.size - o)) :: segRange gs 0 (n - min n (g.size - o))

/-- Zeros that fill a 4 KiB block. -/
def padSeg (n : Nat) : Seg := .lit (zeros (ceilDiv n 4096 * 4096 - n))

def xList (j : Job) : Nat := (jw j 2).toNat
def xCount (j : Job) : Nat := bits (jw j 3) 15 0
def xDest (j : Job) : Nat := bits (jw j 4) 46 0

/-- The parts of one tensor: descriptor block, packed rows, scale blocks. -/
def tensorSegs (d : DescWord) : List Seg :=
  let rows := (List.range (dRows d)).map fun r => Seg.mem (dRowAddr d r) (dRowBytes d)
  .lit (leBytes 64 d.toNat ++ zeros 4032) :: rows ++ [padSeg (dRows d * dRowBytes d)] ++
    (if dIsMx d then [.mem (dScaleBase d) (dScaleBytes d), padSeg (dScaleBytes d)] else [])

/-- The header block. -/
def exportHead (s : State) (j : Job) : List Byte :=
  let c := leadCluster s (jPart j)
  let h := leBytes 4 0x314B435A ++ leBytes 4 (s.reg rAcv).toNat ++ leBytes 8 (s.reg (rStep c)).toNat ++
    leBytes 8 (s.reg (rSeed c)).toNat ++ leBytes 4 (xCount j)
  h ++ zeros (4096 - h.length)

/-- The image of an EXPORT whose descriptors are `ds`. -/
def exportSegs (s : State) (j : Job) (ds : List DescWord) : List Seg :=
  .lit (exportHead s j) :: .mem (s.fld (rPgBase (leadCluster s (jPart j))) 47 6 * 64) 0x40000 :: ds.flatMap tensorSegs

def imageSize (gs : List Seg) : Nat := gs.foldl (fun n g => n + g.size) 0

/-- ERR of a tensor that an EXPORT lists: a group that is not of MX, its format, its range (R70, R277). -/
def exportTensor (s : State) (p : Nat) (d : DescWord) : Nat :=
  if descOk d = true ∧ dIsMx d = true ∧ (dGroup d = 1 ∨ dGroup d = 2) then 0x0A
  else if descOk d = false ∨ dIsFmc d = true ∨ (dFmt d ≠ 1 ∧ dFmt d ≠ 3) ∨ (dFmt d = 3 ∧ dGroup d = 3) then 0x4C
  else if (descRange s p d 0).isSome then 0x42
  else 0

/-- The listed descriptors, verifying. -/
def exportDescs (s : State) (j : Job) : State × Option (List DescWord) :=
  let r := vread s (xList j) (64 * xCount j) (hubReader (jPart j))
  (r.1, r.2.map fun b => (chunks 64 (xCount j) b).map fun x => BitVec.ofNat 512 (leNat x))

/-- Bytes `lo` to `hi − 1` of DEST lie in a window with WR for the partition (R469). -/
def destOk (s : State) (j : Job) (lo hi : Nat) : Bool := hi ≤ lo || hostAllowed s (xDest j + lo) (hi - lo) (jPart j) true false

/-- An EXPORT that reaches outside the host windows: the refusal is captured, and the job fails with ERR 0x42. That this
is its ERR is DEDUCED from Table 11.10. -/
def destRefused (s : State) (j : Job) (lo : Nat) : ErrCheck := (captRefuse s (hostAperture + xDest j + lo) 0 0 5, 0x42)

/-- ERR of an EXPORT record. -/
def exportCheck (s : State) (j : Job) : ErrCheck :=
  let p := jPart j
  if !longHead j true || xList j % 64 ≠ 0 || bits (jw j 3) 63 16 ≠ 0 || xCount j = 0 || bits (jw j 4) 63 47 ≠ 0 ||
      xDest j % 4096 ≠ 0 || !zeroFrom j 6 then (s, 0x40)
  else if partState s p ≠ 2 then (s, 0x41)
  else if rangeInPart s p (xList j) (64 * xCount j) = false then (s, 0x42)
  else match exportDescs s j with
    | (s1, none) => (s1, 0x4B)
    | (s1, some ds) =>
      let e := ds.foldl (fun e d => if e = 0 then exportTensor s1 p d else e) 0
      let gs := exportSegs s1 j ds
      let n := imageSize gs
      if e ≠ 0 then (s1, e)
      else if (jw j 5).toNat < n ∨ rangeInPart s1 p (s1.fld (rPgBase (leadCluster s1 p)) 47 6 * 64) 0x40000 = false then
        (s1, 0x42)
      else if destOk s1 j 0 n then (s1, 0) else destRefused s1 j 0

/-- An EXPORT that ends. -/
def exportEnd (s : State) (j : Job) (st err : Nat) : State := jobFinal s j st j.progress err

/-- JOB_EXPORT. -/
def doJobExport (i : Nat) (s : State) : State :=
  match unchecked s i 3 with
  | none => s
  | some j =>
    let c := exportCheck s j
    if c.2 ≠ 0 then exportEnd c.1 j 5 c.2 else longChecked c.1 j 0
def execJobExport (idx : Fin 4096) (s : State) : Res := .next (doJobExport idx s)

/-- Reads parts of an image, verifying; none where a block is poisoned. -/
def readSegs (p : Nat) : List Seg → State → State × Option (List Byte)
  | [], s => (s, some [])
  | .lit b :: gs, s =>
    let r := readSegs p gs s
    (r.1, r.2.map fun c => b ++ c)
  | .mem a n :: gs, s =>
    if n = 0 then readSegs p gs s
    else match vread s a n (hubReader p) with
      | (s1, none) => (s1, none)
      | (s1, some b) =>
        let r := readSegs p gs s1
        (r.1, r.2.map fun c => b ++ c)

/-- Writes bytes to host memory, line by line. -/
def hostWriteAll (s : State) (a : Nat) (b : List Byte) : State :=
  let ls := chunks 64 (ceilDiv b.length 64) b
  (List.range ls.length).foldl (fun s i => hostWrite s (a + 64 * i) (ls.getD i [])) s

/-- Bytes `lo` to `hi − 1` of the image go to DEST; the ERR that ends the job, or 0. -/
def exportBytes (s : State) (j : Job) (lo hi : Nat) : ErrCheck :=
  match exportDescs s j with
  | (s1, none) => (s1, 0x4B)
  | (s1, some ds) =>
    match readSegs (jPart j) (segRange (exportSegs s1 j ds) lo (hi - lo)) s1 with
    | (s2, none) => (s2, 0x4B)
    | (s2, some b) =>
      if destOk s2 j lo (lo + b.length) then (hostWriteAll s2 (xDest j + lo) b, 0) else destRefused s2 j lo

/-- Image bytes of an EXPORT under way. -/
def exportSize (s : State) (j : Job) : Nat :=
  match exportDescs s j with
  | (s1, some ds) => imageSize (exportSegs s1 j ds)
  | (_, none) => 0

def mib : Nat := 0x100000

/-- The EXPORT is done: what is left of the image, the status, JOB_END and EXPORT records. -/
def exportDone (s : State) (j : Job) : State :=
  let n := exportSize s j
  let c := exportBytes s j (j.progress * mib) n
  if c.2 ≠ 0 then exportEnd c.1 j 5 c.2
  else
    let j1 := { j with progress := n / mib }
    slgWrite (exportEnd c.1 j1 4 0) (jPart j)
      ⟨0x08, 1, none, 0, [put (j.idx % 4096) 0, jw j 4, put n 0, put ((s.reg rAcv).toNat % 65536) 0]⟩

/-! ### SCRUB (R314) -/

def sBase (j : Job) : Nat := bits (jw j 2) 47 0
def sMib (j : Job) : Nat := bits (jw j 3) 31 0

/-- JOB_SCRUB. -/
def doJobScrub (i : Nat) (s : State) : State :=
  match unchecked s i 6 with
  | none => s
  | some j =>
    longChecked s j (if !longHead j true || bits (jw j 2) 63 48 ≠ 0 || sBase j % 4096 ≠ 0 || bits (jw j 3) 63 32 ≠ 0 ||
        !zeroFrom j 4 then 0x40
      else if partState s (jPart j) ≠ 2 then 0x41
      else if sMib j ≠ 0 ∧ hbmSpan s (jPart j) (sBase j) (sMib j * mib) = false then 0x42 else 0)
def execJobScrub (idx : Fin 4096) (s : State) : Res := .next (doJobScrub idx s)

/-- Blocks of MiB `lo` to `hi − 1` are checked. -/
def scrubMib (s : State) (j : Job) (lo hi : Nat) : State :=
  (List.range ((hi - lo) * 256)).foldl (fun s k => scrubCheck s (sBase j + lo * mib + k * 4096)) s

/-! ### FLASH (R532) -/

/-- A D2 or D3 session is open. -/
def d2Open (s : State) : Bool := s.sec.sess.any fun q => decide (2 ≤ q.level)

/-- A FLASH job fails with event 0x0703. -/
def flashReject (s : State) (j : Job) (ty st : Nat) : State := jobEnd (rejectEvent s ty st 1) j 5 j.progress 0x49

/-- KiB of an object. -/
def objKib (b : List Byte) : Nat := ceilDiv (1024 + oBytes b) 1024

/-- Bytes of host memory as the hub reads them: a line that its cache holds overrides what the host has. -/
def readThrough (s : State) (a : Nat) (b : List Byte) : List Byte :=
  (List.range b.length).map fun i =>
    match findLine s ((a + i) / 64) with
    | some l => l.data.getD ((a + i) % 64) 0
    | none => b.getD i 0

/-- The whole lines among bytes that the hub has read enter its cache (R465). -/
def fillThrough (s : State) (a : Nat) (b : List Byte) : State :=
  (List.range (b.length / 64)).foldl (fun s i =>
    let line := ceilDiv a 64 + i
    if (line + 1) * 64 ≤ a + b.length ∧ (findLine s line).isNone then
      cacheFill s ⟨line, .shared, (b.drop (line * 64 - a)).take 64, watched s line⟩
    else useLine s line) s

/-- JOB_FLASH: the object, `obj` as the bytes that host memory gives, is read through the hub's cache and checked. A later
FLASH waits with its check for the one before it. -/
def doJobFlash (i : Nat) (obj : List Byte) (s : State) : State :=
  match unchecked s i 7 with
  | none => s
  | some j =>
    if s.hub.jobs.any fun k => jType k = 7 && (k.checked || k.st != .queued) then s
    else if !longHead j false || bits (jw j 2) 63 47 ≠ 0 || bits (jw j 3) 63 32 ≠ 0 || !zeroFrom j 4 then jobEnd s j 5 0 0x40
    else if bits (jw j 3) 31 0 ≠ obj.length then s
    else
      let a := bits (jw j 2) 46 0
      let img := readThrough s a obj
      let s1 := fillThrough s a obj
      let st := if d2Open s1 then 10 else objCheck s1 [1, 2, 3, 4] img
      if st ≠ 0 then flashReject s1 j (oType img) st
      else
        let t := longChecked s1 j 0
        { t with hub := { t.hub with obj := img } }
def execJobFlash (idx : Fin 4096) (obj : List Byte) (s : State) : Res := .next (doJobFlash idx obj s)

/-- A FLASH job is over: a session that waited for it opens. -/
def flashOver (s : State) : State := openNext { s with hub := { s.hub with obj := [] } }

/-! ### BIST (R601) -/

/-- BIST_CLUSTER_DONE: the cluster under test reports record 0x0930, and its failed physical cores are core
faults. -/
def doBistClusterDone (c : Nat) (failed : BitVec 34) (s : State) : State :=
  match longRunning s 2 with
  | none => s
  | some j =>
    if (bistMask j)[j.progress]? ≠ some c then s
    else
      let bad := decide (failed ≠ 0)
      let s1 := errRecord s { code := 0x0930, cls := 0, die := c / 4, unit := 1, index := c, cause := b2n bad, d0 := failed.toNat }
      let s2 := longProgress s1 { j with failed := j.failed || bad } (j.progress + 1)
      ((List.range 33).filter fun i => bit failed i).foldl (fun s i =>
        coreFault s.nextFresh c i ((Config.freeValue s.fresh).toNat % 256)) s2
def execBistClusterDone (cluster : Fin 32) (failed : BitVec 34) (s : State) : Res := .next (doBistClusterDone cluster failed s)

end Sys2Proof.Machine
end

