-- ==== Sys2Proof/Machine/Replay.lean ====
section
/-! DEFINITION. Step replay and the comparator, and the rows that all long operations share (R476, R480,
R513 to R517). -/

namespace Sys2Proof.Machine

/-! ### The record (Table 12.7) -/

def rFrom (j : Job) : Nat := (jw j 4).toNat
def rTo (j : Job) : Nat := (jw j 5).toNat

/-- An array of `n` records of 64 bytes lies in device memory. -/
def arrayOk (s : State) (a n : Nat) : Bool := n = 0 || (inStore s a && inStore s (a + 64 * n - 1))

/-- JOB_REPLAY. -/
def doJobReplay (i : Nat) (s : State) : State :=
  match unchecked s i 5 with
  | none => s
  | some j =>
    let src := (jw j 2).toNat
    let ref := (jw j 6).toNat
    longChecked s j (if !longHead j true || decide (2 ^ 48 ≤ src) || src % 64 ≠ 0 || bits (jw j 3) 63 32 ≠ 0 ||
        decide (rTo j < rFrom j) || decide (2 ^ 48 ≤ ref) || ref % 64 ≠ 0 || bits (jw j 7) 63 32 ≠ 0 ||
        bits (jw j 8) 63 9 ≠ 0 || !zeroFrom j 9 then 0x40
      else if partState s (jPart j) ≠ 2 then 0x41
      else if arrayOk s src (jw j 3).toNat = false ∨ (ref ≠ 0 ∧ arrayOk s ref (jw j 7).toNat = false) then 0x42
      else 0)
def execJobReplay (idx : Fin 4096) (s : State) : Res := .next (doJobReplay idx s)

/-! ### The span (R514) -/

/-- Record `i` of an array; none where it is poisoned. -/
def arrayRec (s : State) (base i : Nat) : Option (List Word) :=
  (nread s (base + 64 * i) 64).map fun b => (chunks 8 8 b).map fun x => BitVec.ofNat 64 (leNat x)

/-- TYPE of a record; 0 for one that is poisoned. -/
def recTy (r : Option (List Word)) : Nat := (r.map fun w => bits (w.getD 0 0) 7 0).getD 0

/-- Word `k` of a record. -/
def recW (r : Option (List Word)) (k : Nat) : Word := (r.map fun w => w.getD k 0).getD 0

/-- The last EXPORT record whose STEP precedes the span. -/
def spanExport (s : State) (src n from_ : Nat) : Option Nat :=
  (List.range n).reverse.find? fun i =>
    let r := arrayRec s src i
    recTy r = 8 && (recW r 1).toNat = (from_ + 2 ^ 64 - 1) % 2 ^ 64

/-- Where the span ends: at the STEP_WRITE of the step after it, or with the array. -/
def spanStop (s : State) (src n first to_ : Nat) : Nat :=
  ((List.range n).find? fun i =>
    decide (first ≤ i) && recTy (arrayRec s src i) = 1 && (recW (arrayRec s src i) 3).toNat = to_ + 1).getD n

/-! ### Its end -/

/-- Jobs that the replay has started and that are not final. -/
def replayJobs (s : State) (p : Nat) : List Job := s.hub.jobs.filter fun j => j.replay && jPart j = p

/-- The replay ends; the contexts that still run its jobs stop. -/
def replayEnd (s : State) (q : Replay) (st err : Nat) : State :=
  let s1 := (replayJobs s q.part).foldl (fun s j =>
    let t := if j.st == .queued then s else stopCtx s q.part (jCtx j)
    let x := getPart t q.part
    countJobs { setPart t q.part (if x.sched = some (jCtx j) then { x with sched := none, draining := false } else x) with
      hub := { t.hub with jobs := t.hub.jobs.filter fun k => k.idx ≠ j.idx } }) s
  let s2 := { s1 with hub := { s1.hub with rep := none } }
  let s3 := match findJob s2 q.idx with
    | some j => jobEnd s2 j st j.progress err
    | none => s2
  decide_ s3 q.part

/-- The replay goes on at record `n`. -/
def replayAt (s : State) (q : Replay) (n : Nat) : State := { s with hub := { s.hub with rep := some { q with next := n } } }

/-! ### Records that are applied -/

/-- Host writes to the line at `a` of device memory (R511): the bytes, and HOST_LINE records of a partition
whose group table the line lies in. -/
def applyHostLine (s : State) (a : Nat) (mask : BitVec 64) (data : BitVec 512) : State :=
  let s1 := writeLine s a (maskOf mask data) none
  let b := a / 64 * 64
  (List.range 16).foldl (fun s p =>
    let t := s.fld (rPgBase (leadCluster s p)) 47 6 * 64
    if partState s p ≠ 0 ∧ t ≤ b ∧ b < t + 0x40000 then
      let w := fun k => BitVec.ofNat 64 (bits data (64 * k + 63) (64 * k))
      let r := slgWrite s p ⟨0x03, 0, none, 0, [put b 0, mask.setWidth 64, w 0, w 1, w 2, w 3]⟩
      slgWrite r p ⟨0x04, 0, none, 0, [w 4, w 5, w 6, w 7]⟩
    else s) s1

/-- The line data of HOST_LINE_A and HOST_LINE_B. -/
def hostLineData (x y : Option (List Word)) : BitVec 512 :=
  BitVec.ofNat 512 (leNat (([4, 5, 6, 7].map (recW x) ++ [2, 3, 4, 5].map (recW y)).flatMap fun w => leBytes 8 w.toNat))

/-- STEP_WRITE: CLU_STEP, and PROGRESS, the steps before the new one. -/
def replayStep (s : State) (q : Replay) (r : Option (List Word)) : State :=
  let s1 := doCluStepWrite (leadCluster s q.part) (recW r 3) s
  match findJob s1 q.idx with
  | some j =>
    let n := (recW r 3).toNat - q.from_
    if j.progress < n then longProgress s1 j n else s1
  | none => s1

/-- REG_WRITE: CLU_SEED or CLU_CLIP. -/
def replayReg (s : State) (q : Replay) (r : Option (List Word)) : State :=
  let c := leadCluster s q.part
  if bits (recW r 2) 15 0 = 0x710 then doCluSeedWrite c (recW r 3) s else doCluClipWrite c (recW r 3) s

/-- The job of JOB_A and JOB_B, record `n`: its status word stays inside. -/
def replayJob (n : Nat) (x y : Option (List Word)) : Job :=
  let w := fun k => recW x k
  ⟨4096 * (n + 1) + bits (w 2) 11 0,
    [w 3, 0, w 4, w 5, w 6, w 7, recW y 2, recW y 3, recW y 4, recW y 5, recW y 6, recW y 7, 0, 0, 0, 0],
    .queued, 0, true, true, false⟩

/-! ### Records that are compared -/

/-- The context of a record. -/
def recCtx (w : Word) : Nat := bits w 14 12

/-- Takes the first record seen that satisfies `f`. -/
def takeSeen (q : Replay) (f : List Word → Bool) : Option (List Word × Replay) :=
  (q.seen.find? f).map fun r => (r, { q with seen := dropFirst f q.seen })

/-- A replayed final status is that of a stream fault: its code. -/
def faultOf (w : Word) : Option Nat :=
  if bits w 3 0 = 5 ∧ 1 ≤ bits w 31 24 ∧ bits w 31 24 ≤ 0x3F then some (bits w 31 24) else none

/-- JOB_END: the replayed final status is the same, but for SEQ's job. -/
def replayJobEnd (s : State) (q : Replay) (n : Nat) (r : Option (List Word)) : State :=
  let idx := bits (recW r 3) 11 0
  match takeSeen q (fun w => bits (w.getD 0 0) 7 0 = 7 && bits (w.getD 3 0) 11 0 = idx) with
  | some (w, q1) =>
    if w.getD 2 0 = recW r 2 then replayAt s q1 (n + 1)
    else replayEnd s q 5 ((faultOf (w.getD 2 0)).getD 0x4E)
  | none =>
    if (replayJobs s q.part).any fun j => j.idx % 4096 = idx then s else replayAt s q (n + 1)

/-- PULL: the replayed PULL of the stream binds the same batch. -/
def replayPull (s : State) (q : Replay) (n : Nat) (r : Option (List Word)) : State :=
  let h := recW r 0
  match takeSeen q (fun w => bits (w.getD 0 0) 7 0 = 0x14 && bits (w.getD 0 0) 17 12 = bits h 17 12) with
  | some (w, q1) => if w.drop 2 = (r.getD []).drop 2 then replayAt s q1 (n + 1) else replayEnd s q 5 0x4E
  | none =>
    if (replayJobs s q.part).any fun j => jCtx j = recCtx h then s else replayEnd s q 5 0x4E

/-- INTAKE_FAIL: the pipeline has the same failure at the position. -/
def replayFailRec (s : State) (q : Replay) (n : Nat) (r : Option (List Word)) : State :=
  let m := bits (recW r 2) 3 0 - 9
  let k := bits (recW r 2) 7 4
  let pos := recW r 3
  let same := (getPipe s m k).fails.filter fun w => w.getD 1 0 = pos
  if same.any fun w => w = ((r.getD []).drop 2).take 4 then replayAt s q (n + 1)
  else if same ≠ [] ∨ pos.toNat < (s.reg (rRingPos m k)).toNat then replayEnd s q 5 0x4E
  else s

/-- A flush closure that is handed over once its last member has joined: the bucket closes (R362). -/
def flushLate (s : State) (m n : Nat) (r : List Word) : Option State :=
  let p := getPipe s m n
  let b := bits (r.getD 2 0) 17 12
  match (smGet [] p.members b).getLast? with
  | some x =>
    if bits (r.getD 0 0) 7 0 = 0x13 ∧ x.pos = (r.getD 3 0).toNat then
      some (liveFlush (setPipe s m n (closeBatch p b true)) m n p b x.pos)
    else none
  | none => none

/-- A drop for a cause that is handed over once its frame is ready: the frame leaves, from its bucket if it has joined
(R362). -/
def dropLate (s : State) (m n : Nat) (r : List Word) : Option State :=
  let p := getPipe s m n
  let sid := (r.getD 3 0).toNat
  let cause := bits (r.getD 2 0) 11 8
  if bits (r.getD 0 0) 7 0 ≠ 0x11 ∨ cause = 0 then none
  else match p.samples.find? fun x => x.sid = sid ∧ x.stage = .ready with
    | some x => some (failSample s m n x cause)
    | none => match p.members.find? fun q => q.2.any fun x => x.sid = sid with
      | some q => (q.2.find? fun x => x.sid = sid).map fun x =>
          cntInc (liveDrop (setPipe s m n { p with members := smMod [] p.members q.1 fun l => dropFirst (fun y => y = x) l }) m n p x cause)
            (ringCnt m n 12) 0 1
      | none => none

/-- A LIVE record goes to its pipeline when that runs with REPLAY = 1. -/
def replayLive (s : State) (q : Replay) (n : Nat) (r : Option (List Word)) : State :=
  let m := bits (recW r 2) 3 0 - 9
  let k := bits (recW r 2) 7 4
  let keep := modPipe s m k fun p => { p with live := p.live ++ [r.getD []] }
  let s1 := if pReplay (getPipe s m k) = false then s
    else match flushLate s m k (r.getD []), dropLate s m k (r.getD []) with
      | some t, _ => t
      | none, some t => t
      | none, none => keep
  replayAt s1 q (n + 1)

/-- MEMBER: the group's state is the same. -/
def replayMember (s : State) (q : Replay) (n : Nat) (r : Option (List Word)) : State :=
  if memberWords s q.part (bits (recW r 3) 7 0) = ((r.getD []).drop 2).take 2 then replayAt s q (n + 1)
  else replayEnd s q 5 0x4E

/-- REPLAY_RECORD: the next record of the span is applied, starts a job, or is compared; it waits where
what comes before it has not ended. -/
def doReplayRecord (s : State) : State :=
  match s.hub.rep with
  | none => s
  | some q =>
    let n := q.next
    if q.stop ≤ n then s
    else
      let r := arrayRec s q.src n
      let idle := (replayJobs s q.part).isEmpty
      let two := if n + 1 < q.stop then arrayRec s q.src (n + 1) else none
      match recTy r with
      | 0x01 => if idle then replayAt (replayStep s q r) q (n + 1) else s
      | 0x02 => if idle then replayAt (replayReg s q r) q (n + 1) else s
      | 0x03 =>
        if recTy two ≠ 4 then replayEnd s q 5 0x4D
        else if idle then
          replayAt (applyHostLine s (bits (recW r 2) 47 0) (recW r 3) (hostLineData r two)) q (n + 2)
        else s
      | 0x05 =>
        if recTy two ≠ 6 then replayEnd s q 5 0x4D
        else
          let j := replayJob n r two
          if (replayJobs s q.part).any fun k => jCtx k = jCtx j then s
          else decideFor (addJob (replayAt s q (n + 2)) j) q.part (jCtx j)
      | 0x07 => replayJobEnd s q n r
      | 0x08 => replayAt s q (n + 1)
      | 0x10 => replayFailRec s q n r
      | 0x11 => replayLive s q n r
      | 0x12 => replayLive s q n r
      | 0x13 => replayLive s q n r
      | 0x14 => replayPull s q n r
      | 0x20 => replayMember s q n r
      | 0x30 => replayAt s q (n + 1)
      | _ => replayEnd s q 5 0x4D
def execReplayRecord (s : State) : Res := .next (doReplayRecord s)

/-- The span is done: a fault that no JOB_END record showed, a step that is missing, or DONE. -/
def replayDone (s : State) (q : Replay) : State :=
  match q.seen.findSome? fun w => if bits (w.getD 0 0) 7 0 = 7 then faultOf (w.getD 2 0) else none with
  | some e => replayEnd s q 5 e
  | none =>
    if partStep s q.part < q.to_ then replayEnd s q 5 0x4D
    else match findJob s q.idx with
      | some j => replayEnd (setJob s { j with progress := q.to_ + 1 - q.from_ }) q 4 0
      | none => replayEnd s q 4 0

/-- The replay of a job whose span follows record `i`. -/
def newReplay (s : State) (j : Job) (i : Nat) : Replay :=
  let src := (jw j 2).toNat
  ⟨j.idx, jPart j, src, i + 1, i + 1, spanStop s src (jw j 3).toNat (i + 1) (rTo j), rFrom j, rTo j, (jw j 6).toNat,
    (jw j 7).toNat, bits (jw j 8) 8 1, bit (jw j 8) 0, [], false⟩

/-- A replay starts: its span is found, and ACV is that of the EXPORT. -/
def replayStart (s : State) (j : Job) : State :=
  let src := (jw j 2).toNat
  let n := (jw j 3).toNat
  let s1 := jobMove s { j with st := .running } .running 0
  let j1 := { j with st := JobSt.running }
  match spanExport s src n (rFrom j) with
  | none => jobEnd s1 j1 5 0 0x4D
  | some i =>
    if bits (recW (arrayRec s src i) 5) 15 0 ≠ (s.reg rAcv).toNat % 65536 then jobEnd s1 j1 5 0 0x4E
    else { s1 with hub := { s1.hub with rep := some (newReplay s j i) } }

/-! ### The comparator (R516, R517) -/

/-- A reference CMP record of the key of `w` (STEP, CTX, STREAM, ISEQ, TENSOR_ID). -/
def cmpKey (w : List Word) : Word × Nat × Nat × Nat :=
  (w.getD 1 0, bits (w.getD 0 0) 17 12, bits (w.getD 2 0) 31 0, bits (w.getD 3 0) 31 0)

/-- The reference record of a key: of the array at REF_BASE, or of the span. -/
def cmpRef (s : State) (q : Replay) (w : List Word) : Option (List Word) :=
  let same := fun (base i : Nat) => (arrayRec s base i).filter fun r => bits (r.getD 0 0) 7 0 = 0x30 && cmpKey r = cmpKey w
  if q.refBase = 0 then firstSome (fun i => if q.first ≤ i then same q.src i else none) (List.range q.stop)
  else firstSome (same q.refBase) (List.range q.refCount)

/-- A computed record is compared: the first divergence of the replay is reported and captured. -/
def cmpCheck (s : State) (a : StreamId) (w : List Word) : State :=
  match s.hub.rep with
  | none => s
  | some q =>
    if q.part ≠ a.part.val ∨ q.diverged = true then s
    else match cmpRef s q w with
      | none => s
      | some r =>
        if r.getD 4 0 = w.getD 4 0 then s
        else
          let p := a.part.val
          let i := bits (w.getD 2 0) 31 0
          let s1 := { s with hub := { s.hub with rep := some { q with diverged := true } } }
          let s2 := event0 s1 0x0602 8 (some p)
            [put p 0 ||| put a.ctx.val 4 ||| put (strmNo a.strm) 8 ||| put i 32, w.getD 1 0]
          s2.capture (rSlgDivKey p) 63 fun s =>
            (s.setReg (rSlgDivStep p) (w.getD 1 0)).setReg (rSlgDivKey p)
              (put i 0 ||| put (strmNo a.strm) 32 ||| put a.ctx.val 34 ||| put 1 63)

/-- One CMP record of the group. -/
def cmpRecord (a : StreamId) (last : Nat) (s : State) (x : Nat × Nat × DescWord) : State :=
  let rep := s.hub.rep.any fun q => q.part = a.part.val
  let r : SlgRec := ⟨0x30, if rep then 6 else 5, some a.ctx, strmNo a.strm,
    [put x.1 0 ||| put x.2.1 32, put (dTid x.2.2) 0, crcsPrint (tensorCrcs s x.2.2), put last 0]⟩
  let w := slgWords s a.part r 0
  cmpCheck (slgWrite s a.part r) a w

/-- COMPARATOR_GROUP_END: every instruction of the group has completed; those that wrote a TDC are
recorded in issue order, and the stream goes on. -/
def doComparatorGroupEnd (a : StreamId) (s : State) : State :=
  let t := strmAt s a
  if t.hold = false ∨ t.infl ≠ [] then s
  else
    let last := (t.iseq.toNat + 2 ^ 32 - 1) % 2 ^ 32
    let xs := (sortNat (t.wrote.map Prod.fst)).filterMap fun i => t.wrote.find? fun x => x.1 = i
    let s1 := xs.foldl (cmpRecord a last) s
    let s2 := modStrmAt s1 a fun t => { t with hold := false, wrote := [] }
    let s3 := match s2.hub.rep with
      | some q => if q.part = a.part.val ∧ q.diverged = true ∧ q.stopDiv = true then replayEnd s2 q 5 0x4F else s2
      | none => s2
    settle s3 a.part a.ctx
def execComparatorGroupEnd (at_ : StreamId) (s : State) : Res := .next (doComparatorGroupEnd at_ s)

/-! ### Rows of every long operation (R476, R480) -/

/-- What the start of an operation does. -/
def longBegin (s : State) (j : Job) : State :=
  match jType j with
  | 2 => if bistFree s j then jobMove s { j with st := .running } .running 0 else jobEnd s j 5 0 0x43
  | 5 => replayStart s j
  | 7 =>
    if d2Open s then flashOver (flashReject s j (oType s.hub.obj) 10)
    else setSlot (jobMove s { j with st := .running } .running 0) (oType s.hub.obj) none
  | _ => jobMove s { j with st := .running } .running 0

/-- LONG_OPERATION_START: the first that waits starts when none of its type is in progress. -/
def doLongOperationStart (op : LongOp) (s : State) : State :=
  match longRunning s (longType op), longQueued s (longType op) with
  | none, some j => longBegin s j
  | _, _ => s
def execLongOperationStart (op : LongOp) (s : State) : Res := .next (doLongOperationStart op s)

/-- Units of an operation, where they are counted by LONG_OPERATION_UNIT_DONE. -/
def longUnits (s : State) (j : Job) : Nat :=
  match jType j with
  | 3 => exportSize s j / mib
  | 6 => sMib j
  | 7 => objKib s.hub.obj
  | _ => 0

/-- What the units from PROGRESS to `n` do: the state, and the ERR that ends the job. -/
def longWork (s : State) (j : Job) (n : Nat) : ErrCheck :=
  match jType j with
  | 3 => exportBytes s j (j.progress * mib) (n * mib)
  | 6 => (scrubMib s j j.progress n, 0)
  | _ => (s, 0)

/-- LONG_OPERATION_UNIT_DONE: `n` more units are complete, and PARTIAL is written. -/
def doLongOperationUnitDone (op : LongOp) (n : Nat) (s : State) : State :=
  match longRunning s (longType op) with
  | none => s
  | some j =>
    if n = 0 ∨ longUnits s j < j.progress + n then s
    else
      let c := longWork s j (j.progress + n)
      if c.2 ≠ 0 then exportEnd c.1 j 5 c.2 else longProgress c.1 j (j.progress + n)
def execLongOperationUnitDone (op : LongOp) (units : Nat) (s : State) : Res := .next (doLongOperationUnitDone op units s)

/-- How an operation of each type ends. -/
def longFinish (s : State) (j : Job) (how : LongEnd) : State :=
  match jType j, how with
  | 2, .done =>
    if j.progress ≠ (bistMask j).length then s
    else if j.failed then jobEnd s j 5 j.progress 0x48 else jobEnd s j 4 j.progress 0
  | 3, .done => if j.progress = longUnits s j then exportDone s j else s
  | 3, .poisoned => exportEnd s j 5 0x4B
  | 3, .hostLost => exportEnd s j 5 0x4A
  | 5, .done =>
    match s.hub.rep with
    | some q => if q.stop ≤ q.next ∧ (replayJobs s q.part).isEmpty = true then replayDone s q else s
    | none => s
  | 6, .done => if j.progress = sMib j then jobEnd s j 4 j.progress 0 else s
  | 7, .done =>
    if j.progress = objKib s.hub.obj then
      flashOver (jobEnd (setSlot s (oType s.hub.obj) (some s.hub.obj)) j 4 j.progress 0)
    else s
  | 7, .hostLost => flashOver (jobEnd s j 5 j.progress 0x4A)
  | 7, .flashReadBack => flashOver (flashReject s j (oType s.hub.obj) 12)
  | 7, .flashChanged => flashOver (flashReject s j (oType s.hub.obj) 13)
  | _, _ => s

/-- LONG_OPERATION_END. -/
def doLongOperationEnd (op : LongOp) (how : LongEnd) (s : State) : State :=
  match longRunning s (longType op) with
  | none => s
  | some j => longFinish s j how
def execLongOperationEnd (op : LongOp) (how : LongEnd) (s : State) : Res := .next (doLongOperationEnd op how s)

end Sys2Proof.Machine
end

