-- ==== Sys2Proof/Machine/Power.lean ====
section
/-! DEFINITION. Hub restarts, Drydown, sensors, fatal errors of the hub, counters' clears and the PTP time
base (R569 to R573, R580, R583, R588, R593, R600, R602, R604, R632 to R638). -/

namespace Sys2Proof.Machine

/-! ### Hub restart (R385, R580, R600) -/

def nsPerHour : Nat := 3600000000000

/-- Control processors restart for a cause of record 0x090F; the third restart within an hour of the first
is fatal. -/
def restartBegin (s : State) (cause : Nat) : State :=
  let times := (s.mod.hubAt.filter fun t => decide (s.fab ≤ t + nsPerHour)) ++ [s.fab]
  let s1 := { s with mod := { s.mod with hubFor := cause, hubAt := times } }
  if 3 ≤ times.length then fatal s1 { code := 0x09F4, cls := 4, unit := 8, cause := times.length }
  else
    let s2 := (s1.setRBit rPwrStat 3 true).setFld rPwrStat 5 4 2
    writeBack (restartSess (s2.setRBit rJobStat 13 true))

/-- HUB_RESTART. -/
def doHubRestart (src : CmdSrc) (s : State) : State :=
  if !s.up then s
  else if rstClosed s src || hubRestarting s then rstErr s
  else showBusy (restartBegin { s with mod := { s.mod with cmd := (3, 0) } } (if src = .host then 2 else 3))
def execHubRestart (src : CmdSrc) (s : State) : Res := .next (doHubRestart src s)

/-- CONTROL_PROCESSOR_WATCHDOG: ignored during a restart. -/
def doControlProcessorWatchdog (s : State) : State := if !s.up || hubRestarting s then s else restartBegin s 1
def execControlProcessorWatchdog (s : State) : Res := .next (doControlProcessorWatchdog s)

/-- A cluster of a die that is out of service is contained, and its record 0x090B follows HUB_CLU_STATE (R62). The
record's CAUSE and physical core, of a core that failed, are not given here: free values. -/
def cluGone (s : State) (c : Nat) : State :=
  let v := Config.freeValue s.fresh
  let p := partOf s c
  leaveService (errRecord (s.setRBit rCluState c false).nextFresh
    { code := 0x090B, cls := 3, die := c / 4, part := p, ctx := (p.bind fun k => (getPart s k).sched).getD 0
      unit := 1, index := c, cause := bits v 7 0, d0 := bits v 63 8 }) c

/-- A die is out of service: its clusters are contained, those in reset too, which do not return (R385). -/
def dieGone (s : State) (d : Nat) : State :=
  let s1 := { s with fabr := { s.fabr with gone := s.fabr.gone ++ [d] } }
  (List.range 4).foldl (fun s k =>
    let c := 4 * d + k
    if s.rbit rCluState c || s.mod.crst.contains c then cluGone s c else s) s1

/-- What a restart held back goes on: events, host writes, the job table. -/
def hubGoOn (s : State) : State :=
  let s1 := evtDrain (s.hub.held.length + 1) s
  startScan (hostPump s1.hub.hwrites.length s1)

/-- HUB_RESTART_DONE: `idents` is what each compute die answers as DIE_IDENT, none where it does not
answer. -/
def doHubRestartDone (idents : List (Option (BitVec 32))) (s : State) : State :=
  if !s.up || !hubRestarting s then s
  else
    let bad := (List.range 8).filter fun d => diePresent s d && ((idents.getD d none).map fun v => bits v 3 0) ≠ some d
    let s1 := bad.foldl dieGone s
    let s2 := s1.setFld rCapEpoch 31 0 ((s1.fld rCapEpoch 31 0 + 1) % 2 ^ 32)
    let s3 := (s2.setRBit rPwrStat 3 false).setRBit rJobStat 13 (!anyPortUp s2)
    let s4 := hubGoOn (errRecord s3 { code := 0x090F, cls := 3, unit := 8, cause := s3.mod.hubFor })
    showBusy { s4 with mod := { s4.mod with hubFor := 0 } }
def execHubRestartDone (idents : List (Option (BitVec 32))) (s : State) : Res := .next (doHubRestartDone idents s)

/-- HEARTBEAT_TICK. -/
def doHeartbeatTick (s : State) : State :=
  if s.up && !hubRestarting s then s.setFld rHb 31 0 ((s.fld rHb 31 0 + 1) % 2 ^ 32) else s
def execHeartbeatTick (s : State) : Res := .next (doHeartbeatTick s)

/-! ### Drydown (R569 to R573) -/

def ddErr (s : State) : State := s.setRBit rDdCtl 8 true

/-- REFUSE cause of an ENTER, 0 accepted. -/
def ddRefuse (s : State) : Nat :=
  if !allDisabled s then 1
  else if s.hub.jobs.any fun j => jType j ≠ 1 && jType j ≠ 15 then 2
  else if (List.range 32).any fun k =>
      let st := s.fld (rRingCtl (k / 16) (k % 16)) 3 2
      st = 1 || st = 2 then 3
  else 0

/-- PTP time for an event: 0 while EN is 0. -/
def ptpStamp (s : State) : Nat := if s.rbit rPtpCtl 0 then ptpNow s % 2 ^ 64 else 0

/-- What loses its power in Drydown (R570): the register blocks of clusters, Accord, links and media sites,
the shared store, stores of the cores, everything in flight there. -/
def ddLose (s : State) : State :=
  let keep := fun (a : Nat) => decide (a < 0x200000100000) || (decide (0x200000300000 ≤ a) && decide (a < 0x200000400000))
  let m := s.regs.filter fun p => keep p.1
  let m1 := (List.range 48).foldl (fun m l =>
    smSet (regDefault (rLnkStat l)) m (rLnkStat l) (setBits (regDefault (rLnkStat l)) 35 20 (s.fld (rLnkStat l) 35 20))) m
  { s with
    regs := m1
    mem := s.mem.filter fun p => isHbm p.1
    ent := s.ent.filter fun p => isHbm (p.1 * 4096)
    cache := [], cstore := [], accm := [], ctxs := [], trace := [], flags := [], ringOwn := []
    acc := .reset, lnks := [], queues := [], pipes := [] }

/-- A Shaonen port enters electrical idle. -/
def portIdle (s : State) (n : Nat) : State := s.setReg (rShlStat n) (put (s.fld (rShlStat n) 23 8) 8)

/-- The accepted ENTER, steps 1 to 7 of Table 14.5. -/
def drydown (s : State) (src : Nat) : State :=
  let t := ptpStamp s
  let s0 := (s.setFld rDdCtl 3 2 src).setFld rDdCtl 7 4 0
  let s1 := dropNonce (closeSess s0 3)
  let s2 := event0 s1 0x0801 8 none [put src 0 ||| put (b2n s0.sec.sess.isSome) 8, put t 0]
  let s3 := sendDowns (dropLines s2)
  let s4 := ddLose (portIdle (portIdle s3 0) 1)
  { s4.setFld rPwrStat 1 0 3 with mod := { s4.mod with phase := .drydown, slow := [] } }

def srcNo : CmdSrc → Nat
  | .host => 0
  | .controller => 1

/-- DRYDOWN_ENTER. A check or scrub of a session under way completes first. -/
def doDrydownEnter (src : CmdSrc) (s : State) : State :=
  if s.mod.phase = .drydown then ddErr s
  else if !s.up then s
  else if ddRefuse s ≠ 0 then ddErr (s.setFld rDdCtl 7 4 (ddRefuse s))
  else drydown (doDebugScrubDone s) (srcNo src)
def execDrydownEnter (src : CmdSrc) (s : State) : Res := .next (doDrydownEnter src s)

/-- Table 14.6: the module returns to Idle; event 0x0802 is owed until a port is UP. -/
def drydownLeave (s : State) (src port : Nat) : State :=
  let s1 := (s.setFld rDdCtl 3 2 src).setFld rPwrStat 1 0 2
  let s2 := { s1 with mod := { s1.mod with phase := .up, wake := some [put src 0 ||| put port 4, put (ptpStamp s) 0] } }
  trainLinks (startScan s2)

/-- DRYDOWN_EXIT: by the management controller; outside Drydown it is discarded with ERR. -/
def doDrydownExit (src : CmdSrc) (s : State) : State :=
  if s.mod.phase = .drydown then (if src = .controller then drydownLeave s 1 0 else s)
  else if s.up then ddErr s else s
def execDrydownExit (src : CmdSrc) (s : State) : Res := .next (doDrydownExit src s)

/-- DRYDOWN_WAKE: with WAKE_SHL, the host takes a port out of electrical idle. -/
def doDrydownWake (port : Nat) (s : State) : State :=
  if s.mod.phase = .drydown ∧ s.rbit rDdCtl 9 = true then drydownLeave s 2 port else s
def execDrydownWake (port : Fin 2) (s : State) : Res := .next (doDrydownWake port s)

/-! ### Sensors (Table 14.7) -/

/-- Warning point of a sensor, °C. -/
def warnPoint (k : Nat) : Nat :=
  if k < 40 then 105 else if k < 56 then 95 else if k < 59 then 100 else if k < 67 then 115 else if k = 67 then 45 else 65

/-- Trip point of a sensor, °C. -/
def tripPoint (k : Nat) : Option Nat :=
  if k < 40 then some 115 else if k < 56 then some 105 else if k < 59 then some 115 else if k < 67 then some 125 else none

/-- Throttle point of a sensor, °C. -/
def throttlePoint (k : Nat) : Option Nat := if k < 32 then some 100 else if 40 ≤ k ∧ k < 56 then some 85 else none

/-- A code in units of 0.125 °C is at or above a point. -/
def atPoint (code : Nat) (p : Nat) : Bool := decide ((8 * p : Int) ≤ sext 12 code)

/-- SENSOR_READ: the reading is kept, and compared with its points. -/
def doSensorRead (k code : Nat) (present : Bool) (s : State) : State :=
  if s.mod.phase = .off then s
  else
    let s1 := { s with mod := { s.mod with sensors := smSet 0 s.mod.sensors k (code + 4096 * b2n present) } }
    if !present then { s with mod := { s.mod with sensors := smSet 0 s.mod.sensors k 0 } }
    else
      let s2 := if atPoint code (warnPoint k) then s1.setRBit rAlert 0 true else s1
      match tripPoint k with
      | some p => if atPoint code p then trip s2 4 k else s2
      | none => s2
def execSensorRead (sensor : Fin 69) (temp : BitVec 12) (present : Bool) (s : State) : Res :=
  .next (doSensorRead sensor temp.toNat present s)

/-! ### Fatal errors of the hub (R593) -/

/-- SECURITY_CONTROLLER_FAULT. -/
def doSecurityControllerFault (detail : Word) (s : State) : State :=
  if s.up || s.mod.phase = .recovery then
    fatal s { code := 0x09F3, cls := 4, unit := 10, cause := bits detail 7 0, d0 := bits detail 63 8 }
  else s
def execSecurityControllerFault (detail : BitVec 64) (s : State) : Res := .next (doSecurityControllerFault detail s)

/-- HUB_SWITCH_UNCORRECTABLE. -/
def doHubSwitchUncorrectable (vc port : Nat) (s : State) : State :=
  if s.up || s.mod.phase = .recovery then fatal s { code := 0x09F5, cls := 4, unit := 8, cause := vc, d0 := port } else s
def execHubSwitchUncorrectable (vc : BitVec 2) (port : BitVec 4) (s : State) : Res :=
  .next (doHubSwitchUncorrectable vc.toNat port.toNat s)

/-! ### Counters (R602, R604, R610) -/

/-- COUNTER_CLEAR_SELECTED. -/
def doCounterClearSelected (s : State) : State :=
  if s.up ∧ cntValid (s.fld rCntSel 15 0) = true then cntPut s (s.fld rCntSel 15 0) (s.fld rCntSel 19 16) ⟨0, false⟩ else s
def execCounterClearSelected (s : State) : Res := .next (doCounterClearSelected s)

/-- COUNTER_CLEAR_ALL. -/
def doCounterClearAll (s : State) : State := if s.up then { s with hub := { s.hub with cnts := [] } } else s
def execCounterClearAll (s : State) : Res := .next (doCounterClearAll s)

/-- The counter of a slot stands at or above its threshold. -/
def thrReached (s : State) (k : Nat) : Bool :=
  let c := cntGet s (s.fld (rThrSel k) 15 0) (s.fld (rThrSel k) 19 16)
  let t := (s.reg (rThrVal k)).toNat
  if t = 0 then c.ovf else decide (t ≤ c.val.toNat)

/-- THRESHOLD_REARM: FIRED is cleared; a counter that stands there already fires at its next increment. -/
def doThresholdRearm (k : Nat) (s : State) : State :=
  if s.up ∧ s.rbit (rThrSel k) 21 = true then
    let s1 := s.setRBit (rThrSel k) 21 false
    if thrReached s k then { s1 with hub := { s1.hub with rearm := s1.hub.rearm ++ [k] } } else s1
  else s
def execThresholdRearm (k : Fin 64) (s : State) : Res := .next (doThresholdRearm k s)

/-! ### The PTP time base (R632 to R635) -/

/-- Always-on cycles of 0.9 s and of 1.1 s. -/
def cycles09 : Nat := 22500000
def cycles11 : Nat := 27500000

/-- PPS_EDGE: accepted with EN as the first since EN was set, or 0.9 s after the last; else EARLY. -/
def doPpsEdge (s : State) : State :=
  let d := s.clk - s.ptp.at_
  if s.mod.phase = .off then s
  else if s.rbit rPtpCtl 0 && (s.ptp.first || decide (cycles09 ≤ d)) then
    let n := s.fld rPtpNext 47 0
    let s1 := s.setFld rPtpNext 47 0 ((n + 1) % 2 ^ 48)
    let s2 := s1.setRBit rPtpCtl 2 false
    let s3 := if s.ptp.edges ≠ 0 ∧ cycles09 ≤ d ∧ d ≤ cycles11 then s2.setRBit rPtpCtl 1 true else s2
    { s3 with ptp := ⟨n * 1000000000, ptpNow s, s.clk, if s.ptp.first then 1000000000 else 40 * d,
                      if s.ptp.first then 1 else 2, false⟩ }
  else s.setRBit rPtpCtl 3 true
def execPpsEdge (s : State) : Res := .next (doPpsEdge s)

/-- PTP_HOLDOVER_TIMEOUT: no edge within 1.5 s of the last. -/
def doPtpHoldoverTimeout (s : State) : State :=
  if s.mod.phase = .off ∨ s.ptp.edges = 0 then s else (s.setRBit rPtpCtl 2 true).setRBit rPtpCtl 1 false
def execPtpHoldoverTimeout (s : State) : Res := .next (doPtpHoldoverTimeout s)

/-- PTP_ENABLE: a write of PWR_PTP_CTL. -/
def doPtpEnable (v : BitVec 32) (s : State) : State :=
  if s.mod.phase = .off then s
  else
    let t := s.softWrite rPtpCtl (v.setWidth 64)
    if !s.rbit rPtpCtl 0 && t.rbit rPtpCtl 0 then { t with ptp := { t.ptp with first := true } } else t
def execPtpEnable (value : BitVec 32) (s : State) : Res := .next (doPtpEnable value s)

end Sys2Proof.Machine
end

