-- ==== Sys2Proof/Machine/Mgmt.lean ====
section
/-! DEFINITION. The management buses: I3C common commands, MCTP control and PLDM (R624 to R630). -/

namespace Sys2Proof.Machine

/-! ### I3C common command codes (R624, R625) -/

def targetNo : I3cTarget → Nat
  | .mctp => 0
  | .reg0 => 1
  | .reg1 => 2

def dynOf (s : State) (t : I3cTarget) : Nat := smGet 0 s.mgmt.dyn (targetNo t)

def setDyn (s : State) (t : I3cTarget) (a : Nat) : State :=
  { s with mgmt := { s.mgmt with dyn := smSet 0 s.mgmt.dyn (targetNo t) a } }

/-- The targets respond from step 2 of power-up in every state but Off. -/
def busOn (s : State) : Bool := s.mod.phase ≠ .off

/-- SETDASA: a target without a dynamic address takes one from its static address. -/
def doSetdasa (t : I3cTarget) (addr : BitVec 7) (s : State) : State :=
  if busOn s ∧ dynOf s t = 0 then setDyn s t addr.toNat else s
def execSetdasa (t : I3cTarget) (addr : BitVec 7) (s : State) : Res := .next (doSetdasa t addr s)

/-- ENTDAA: a target without a dynamic address takes the next. -/
def doEntdaa (t : I3cTarget) (addr : BitVec 7) (s : State) : State :=
  if busOn s ∧ dynOf s t = 0 then setDyn s t addr.toNat else s
def execEntdaa (t : I3cTarget) (addr : BitVec 7) (s : State) : Res := .next (doEntdaa t addr s)

/-- SETNEWDA: a target with a dynamic address takes a new one. -/
def doSetnewda (t : I3cTarget) (addr : BitVec 7) (s : State) : State :=
  if busOn s ∧ dynOf s t ≠ 0 then setDyn s t addr.toNat else s
def execSetnewda (t : I3cTarget) (addr : BitVec 7) (s : State) : Res := .next (doSetnewda t addr s)

/-- RSTDAA: the targets of the bus lose their dynamic addresses. -/
def doRstdaa (bus : I3cBus) (s : State) : State :=
  if busOn s then
    match bus with
    | .i3c0 => setDyn (setDyn s .mctp 0) .reg0 0
    | .i3c1 => setDyn s .reg1 0
  else s
def execRstdaa (bus : I3cBus) (s : State) : Res := .next (doRstdaa bus s)

/-- A response on a management bus: a kind, and its data. -/
def mgmtReply (s : State) (kind : Nat) (data : List Nat) : State := s.send (.mgmt kind data)

/-- A directed read of a target at its dynamic address; without one the target does not answer. -/
def cccRead (s : State) (t : I3cTarget) (kind : Nat) (v : Nat) : State :=
  if busOn s ∧ dynOf s t ≠ 0 then mgmtReply s kind [targetNo t, v] else s

/-- GETPID. -/
def doGetpid (t : I3cTarget) (s : State) : State := cccRead s t 0x8D ((Config.i3cId (targetNo t) 0).toNat % 2 ^ 48)
def execGetpid (t : I3cTarget) (s : State) : Res := .next (doGetpid t s)

/-- GETBCR. -/
def doGetbcr (t : I3cTarget) (s : State) : State := cccRead s t 0x8E ((Config.i3cId (targetNo t) 1).toNat % 256)
def execGetbcr (t : I3cTarget) (s : State) : Res := .next (doGetbcr t s)

/-- GETDCR. -/
def doGetdcr (t : I3cTarget) (s : State) : State := cccRead s t 0x8F ((Config.i3cId (targetNo t) 2).toNat % 256)
def execGetdcr (t : I3cTarget) (s : State) : Res := .next (doGetdcr t s)

/-- GETSTATUS: the status word is not given. -/
def doGetstatus (t : I3cTarget) (s : State) : State :=
  cccRead s.nextFresh t 0x90 ((Config.freeValue s.fresh).toNat % 65536)
def execGetstatus (t : I3cTarget) (s : State) : Res := .next (doGetstatus t s)

/-- ENEC: in-band interrupts of the MCTP target, the only one that raises them. -/
def doEnec (t : I3cTarget) (enable : Bool) (s : State) : State :=
  if busOn s ∧ t = .mctp then { s with mgmt := { s.mgmt with ibi := enable } } else s
def execEnec (t : I3cTarget) (enable : Bool) (s : State) : Res := .next (doEnec t enable s)

/-! ### MCTP control (R627) -/

/-- Set Endpoint ID: the null and the broadcast ID are not accepted. -/
def doSetEndpointId (eid : BitVec 8) (s : State) : State :=
  if !busOn s then s
  else if eid = 0 ∨ eid = 0xFF then mgmtReply s 0x0001 [2]
  else mgmtReply { s with mgmt := { s.mgmt with eid := eid.toNat } } 0x0001 [0, eid.toNat]
def execSetEndpointId (eid : BitVec 8) (s : State) : Res := .next (doSetEndpointId eid s)

/-! ### PLDM (R628, R629): a reply gives type × 256 + command, the completion code and the fields -/

/-- A PLDM request: dropped without an endpoint ID. -/
def pldm (s : State) (kind : Nat) (data : List Nat) : State :=
  if busOn s ∧ s.mgmt.eid ≠ 0 then mgmtReply s (0x10000 + kind) data else s

/-- GetTID: no terminus ID is assigned. -/
def doGetTid (s : State) : State := pldm s 0x0002 [0, 0]
def execGetTid (s : State) : Res := .next (doGetTid s)

/-- Major and minor version of a PLDM type. -/
def pldmVersion (ty : Nat) : Option (Nat × Nat) :=
  match ty with
  | 0 => some (1, 1)
  | 2 => some (1, 2)
  | 4 => some (1, 0)
  | _ => none

/-- GetPLDMVersion. -/
def doGetPldmVersion (ty : Nat) (s : State) : State :=
  pldm s 0x0003 (match pldmVersion ty with
    | some v => [0, v.1, v.2]
    | none => [0x83])
def execGetPldmVersion (type : BitVec 8) (s : State) : Res := .next (doGetPldmVersion type.toNat s)

/-- GetPLDMTypes: types 0, 2 and 4. -/
def doGetPldmTypes (s : State) : State := pldm s 0x0004 [0, 0x15]
def execGetPldmTypes (s : State) : Res := .next (doGetPldmTypes s)

/-- GetPLDMCommands: the commands of Table 16.9. -/
def doGetPldmCommands (ty : Nat) (s : State) : State :=
  pldm s 0x0005 (match ty with
    | 0 => [0, 2, 3, 4, 5]
    | 2 => [0, 0x11, 0x50, 0x51]
    | 4 => [0, 1, 2]
    | _ => [0x83])
def execGetPldmCommands (type : BitVec 8) (s : State) : Res := .next (doGetPldmCommands type.toNat s)

/-- GetPDRRepositoryInfo: available, one numeric sensor PDR per sensor of Table 16.10. -/
def doGetPdrRepositoryInfo (s : State) : State := pldm s 0x0250 [0, 0, 73]
def execGetPdrRepositoryInfo (s : State) : Res := .next (doGetPdrRepositoryInfo s)

/-- Base unit and resolution in thousandths of a sensor: 2 degrees C, 5 volts, 6 amperes, 7 watts. -/
def sensorUnit (id : Nat) : Nat × Nat :=
  if id ≤ 69 then (2, 125) else if id = 70 then (5, 10) else if id = 71 then (6, 10) else (7, 1000)

/-- A threshold of a PDR: whether it is supported, and its value. -/
def pdrThreshold (p : Option Nat) : List Nat := [b2n p.isSome, p.getD 0]

/-- The PDR of a sensor: handle, sensor ID, unit, resolution, then upper warning, critical and fatal. -/
def pdrOf (id : Nat) : List Nat :=
  let u := sensorUnit id
  let k := id - 1
  [id, id, u.1, u.2] ++
    if id ≤ 69 then pdrThreshold (throttlePoint k) ++ pdrThreshold (some (warnPoint k)) ++ pdrThreshold (tripPoint k)
    else [0, 0, 0, 0, 0, 0]

/-- GetPDR: handle 0 asks for the first record. -/
def doGetPdr (handle : Nat) (s : State) : State :=
  let id := max 1 handle
  pldm s 0x0251 (if 73 < id then [0x82] else [0, if id = 73 then 0 else id + 1] ++ pdrOf id)
def execGetPdr (handle : BitVec 32) (s : State) : Res := .next (doGetPdr handle.toNat s)

/-- A sensor's operational state, 0 enabled and 2 unavailable, and its reading. -/
def sensorReading (s : State) (id : Nat) : List Nat :=
  if id ≤ 69 then
    let v := smGet 0 s.mod.sensors (id - 1)
    if 4096 ≤ v then [0, v % 4096] else [2, 0]
  else [0, s.fld rPwrIn (16 * (id - 70) + 15) (16 * (id - 70))]

/-- GetSensorReading. -/
def doGetSensorReading (id : Nat) (s : State) : State :=
  pldm s 0x0211 (if id = 0 ∨ 73 < id then [0x80] else 0 :: sensorReading s id)
def execGetSensorReading (sensor : BitVec 16) (s : State) : Res := .next (doGetSensorReading sensor.toNat s)

/-- Text as bytes. -/
def textBytes (t : String) : List Nat := t.toList.map fun c => c.toNat

/-- A hexadecimal digit, upper case. -/
def hexDigit (n : Nat) : Nat := if n < 10 then 48 + n else 55 + n

/-- SERIAL as 12 hexadecimal digits. -/
def serialText : List Nat := (List.range 12).map fun i => hexDigit (Config.serial.toNat / 16 ^ (11 - i) % 16)

/-- The fields of the general FRU record: type, length, bytes. -/
def fruFields : List Nat :=
  [(5, textBytes "Cujor Microsystems"), (8, textBytes "Zenanor ZT8"), (3, Config.orderingCode.map fun b => b.toNat),
    (4, serialText), (10, textBytes "A1")].flatMap fun (f : Nat × List Nat) => [f.1, f.2.length] ++ f.2

/-- GetFRURecordTableMetadata: one record set with one record. -/
def doGetFruRecordTableMetadata (s : State) : State := pldm s 0x0401 [0, fruFields.length, 1, 1]
def execGetFruRecordTableMetadata (s : State) : Res := .next (doGetFruRecordTableMetadata s)

/-- GetFRURecordTable. -/
def doGetFruRecordTable (s : State) : State := pldm s 0x0402 (0 :: fruFields)
def execGetFruRecordTable (s : State) : Res := .next (doGetFruRecordTable s)

end Sys2Proof.Machine
end

