-- ==== Sys2Proof/Machine/Views.lean ====
section
/-! DEFINITION. What a read of the register space returns: the stored registers, and the registers that
are views of other state (R55, R150 to R154, R193, R197, R245, R278, R283, R399, R452, R556, R557, R587,
R590, R610, R637). -/

namespace Sys2Proof.Machine

/-! ### Hub, security and power -/

/-- HUB_ELOG_DATA, word `i` of the selected entry; an entry no longer in flash reads as zeros. -/
def elogView (s : State) (i : Nat) : Word := (smGet [] s.hub.elog (s.fld rElogIdx 31 0)).getD i 0

/-- The counter that HUB_CNT_SEL selects. -/
def selCnt (s : State) : Cnt :=
  if cntValid (s.fld rCntSel 15 0) then cntGet s (s.fld rCntSel 15 0) (s.fld rCntSel 19 16) else ⟨0, false⟩

/-- A word of bytes. -/
def wordAt (b : List Byte) (o : Nat) : Word := BitVec.ofNat 64 (leNat ((b.drop o).take 8))

/-- Registers of the security block that are views (Tables 13.17, 13.18); request bytes are write-only. -/
def secView (s : State) (o : Nat) : Word :=
  if o = 0 then put (Config.serial.toNat) 0 ||| put 1 48
  else if o = 0x08 then setBits (s.reg rSecState) 1 0 s.sec.fuses.life
  else if o = 0x10 then
    put (svnOf s 1) 0 ||| put (svnOf s 2) 8 ||| put (svnOf s 3) 16 ||| put (svnOf s 4) 24
  else if o = 0x18 then s.sec.fuses.slot.setWidth 64
  else if 0x20 ≤ o ∧ o < 0x40 then wordAt (s.sec.nonce.getD []) (o - 0x20)
  else if 0x100 ≤ o ∧ o < 0x200 then wordAt (digestBytes (smGet 0 s.sec.meas ((o - 0x100) / 32))) (o % 32)
  else if 0x1000 ≤ o ∧ o < 0x2000 then 0
  else if 0x3000 ≤ o ∧ o < 0x4000 then wordAt s.sec.log.flatten (o - 0x3000)
  else s.reg (secR o)

/-- A cluster is powered: it belongs to a partition that is not DISABLED (Table 14.4). -/
def cluPowered (s : State) (c : Nat) : Bool := s.up && (partOf s c).isSome

/-- The module is Active (Table 14.4): streams have started, or Accord, a media die, a scrub or an export
is working. -/
def modActive (s : State) : Bool :=
  ((List.range 16).any fun p => anyStarted s p) || !s.acc.colls.isEmpty ||
    ((List.range 32).any fun k => let st := ringState s (k / 16) (k % 16); st = 1 || st = 2) || s.rbit rSecState 7 ||
    (longRunning s 3).isSome || (longRunning s 6).isSome

/-- PWR_STAT: PSTATE Active or Idle outside Drydown, and the powered clusters. -/
def statView (s : State) : Word :=
  let v := s.reg rPwrStat
  let w := if bits v 1 0 = 3 then v else setBits v 1 0 (if modActive s then 1 else 2)
  setBits w 47 16 ((List.range 32).foldl (fun n c => n + b2n (cluPowered s c) * 2 ^ c) 0)

/-- PWR_TDATA of the selected sensor (Table 14.17). -/
def tdataView (s : State) : Word :=
  let k := s.fld rTsel 6 0
  let v := smGet 0 s.mod.sensors k
  if k ≤ 68 ∧ 4096 ≤ v then
    put (v % 4096) 0 ||| put 1 12 ||| put (b2n (atPoint (v % 4096) (warnPoint k))) 13 |||
      put (b2n ((throttlePoint k).any fun p => atPoint (v % 4096) p)) 14
  else 0

/-! ### Clusters -/

/-- The context that the reports of a cluster concern (R150): its partition and the scheduled context;
while none is scheduled, the one scheduled last, whose fault record R152 keeps until its next start. -/
def cluCtx (s : State) (c : Nat) : Option (Nat × Nat) :=
  (partOf s c).bind fun p => ((getPart s p).sched.or (getPart s p).last).map fun x => (p, x)

/-- STATE of a stream as a number. -/
def runNo : RunSt → Nat
  | .ended => 0
  | .issuing => 1
  | .waiting => 2
  | .faulted => 3

/-- CLU_SSTAT (Table 3.9). -/
def sstatView (s : State) (c k : Nat) : Word :=
  match cluCtx s c with
  | none => 0
  | some (p, x) =>
    let t := (getCtx s p x).strm (strmOf k)
    let w := match t.wait with
      | .counter n _ => n % 64 * 4
      | .intake _ _ => 256
      | _ => 0
    put (runNo t.st) 0 ||| put (if t.st = .waiting then w else 0) 0 ||| put t.infl.length 9 ||| put x 14

/-- The in-flight dynamic instructions of a context. -/
def dynOf? (c : Ctx) : List InFlight := c.allStrms.flatMap fun t => t.infl.filter fun f => iDist f.w

/-- CLU_TILE_CNT: the cluster's own counter for the oldest dynamic instruction (Table 4.12). Where every
item of the cluster is granted, the next number that it would hold. DESIGN CHOICE: with no dynamic instruction
in flight NEXT_ITEM reads 0; DYN_INFLIGHT stays at 16, the largest value of its field, above that. -/
def tileCntView (s : State) (c : Nat) : Word :=
  match cluCtx s c with
  | none => 0
  | some (p, x) =>
    let ds := dynOf? (getCtx s p x)
    match ds.find? fun f => ds.all fun g => decide (f.t0 ≤ g.t0) with
    | none => 0
    | some f =>
      let n := nClusters s p
      let r := ((partClusters s p).idxOf? c).getD 0
      let m := (f.granted.filter fun t => t % n = r).length
      put (((nextItem f r n).getD (m * n + r)) % 2 ^ 32) 0 ||| put (min 16 ds.length) 32

/-- CLU_TSLOT (Table 5.14). -/
def tslotView (s : State) (c : Nat) : Word :=
  match cluCtx s c with
  | none => 0
  | some (p, x) =>
    let q := getCtx s p x
    put ((List.range 4).foldl (fun n k => n + b2n (slotOf q k).isSome * 2 ^ k) 0) 0 ||| put x 4

/-- CLU_RC_DATA of the group and context that the lead cluster's CLU_RC_SEL selects (Table 6.13). -/
def rcView (s : State) (c : Nat) : Word :=
  match partOf s c with
  | none => 0
  | some p =>
    let sel := s.reg (rRcSel (leadCluster s p))
    match fenceOf (getCtx s p (bits sel 14 12)) (bits sel 11 0) with
    | none => 0
    | some f =>
      if f.fence then put (f.rc % 65536) 0 ||| put (f.rel % 65536) 16 ||| put (b2n f.lock) 32 ||| put 1 33 else 0

/-- A register that every cluster of a partition reads from its lead cluster (R193, R278). DESIGN CHOICE:
CLU_TILE_CNT, CLU_SMIS_ID and CLU_SMIS_TAG are each cluster's own, as R197 and R198 have them, although R193
speaks of every register of its table. -/
def leadReg (o : Nat) : Bool :=
  (decide (0x500 ≤ o) && decide (o < 0x550)) || (decide (0x700 ≤ o) && decide (o < 0x738))

/-- Registers of a cluster block. -/
def cluView (s : State) (c o : Nat) : Word :=
  if 0x200 ≤ o ∧ o < 0x218 then sstatView s c ((o - 0x200) / 8)
  else if 0x220 ≤ o ∧ o < 0x238 then
    (match cluCtx s c with
      | some (p, x) => ((getCtx s p x).strm (strmOf ((o - 0x220) / 8))).fault
      | none => 0)
  else if 0x300 ≤ o ∧ o < 0x400 then
    (match cluCtx s c with
      | some (p, x) => if leadCluster s p = c then (bcOf (getCtx s p x) ((o - 0x300) / 4)).setWidth 64 else 0
      | none => 0)
  else if 0x400 ≤ o ∧ o < 0x430 then
    (let r := flagRec s c ((o - 0x400) / 16)
     if o % 16 = 0 then flagWord r else flagPos r)
  else if o = 0x550 then tileCntView s c
  else if o = 0x630 then tslotView s c
  else if o = 0x738 then rcView s c
  else if leadReg o then s.reg (cluR (((partNamed s c).map (leadCluster s)).getD c) o)
  else s.reg (cluR c o)

/-! ### The register space -/

/-- Die `d` holds the lead cluster of partition `p`. -/
def holdsLead (s : State) (d p : Nat) : Bool := !(partClusters s p).isEmpty && leadDie s p = d

/-- Registers of a partition in an Accord block read 0 on a die that does not hold its lead cluster
(R452). -/
def accView (s : State) (d o : Nat) : Word :=
  if (o < 0x80 ∨ (0x180 ≤ o ∧ o < 0x200)) ∧ holdsLead s d (o % 0x80 / 8) = false then 0
  else if o = 0x100 ∧ holdsLead s d (s.fld (rGcmd d) 5 2) = false then 0
  else s.reg (accR d o)

/-- Registers of the hub block: those of a site without an admitted guest read as zero (R399). -/
def hubView (s : State) (o : Nat) : Word :=
  if 0x900 ≤ o ∧ o < 0xB00 then (if guestIn s ((o - 0x900) / 0x100) then s.reg (hubR o) else 0)
  else if 0x4040 ≤ o ∧ o < 0x4080 then elogView s ((o - 0x4040) / 8)
  else if o = 0x4800 then setBit (s.reg rCntSel) 31 (selCnt s).ovf
  else if o = 0x4808 then (selCnt s).val
  else s.reg (hubR o)

/-- Registers of the power block. -/
def pwrView (s : State) (o : Nat) : Word :=
  if o = 0 then statView s
  else if o = 0x38 then tdataView s
  else if o = 0x90 then BitVec.ofNat 64 (ptpNow s)
  else s.reg (pwrR o)

/-- What a read of the register at address `a` returns. The registers of a site without an admitted
Atomizer read as zero (R8). -/
def regRead (s : State) (a : Nat) : Word :=
  let o := a - 0x200000000000
  if o < 0x10000 then hubView s o
  else if o < 0x20000 then s.reg a
  else if o < 0x30000 then secView s (o - 0x20000)
  else if o < 0x40000 then pwrView s (o - 0x30000)
  else if 0x100000 ≤ o ∧ o < 0x300000 then cluView s ((o - 0x100000) / 0x10000) (o % 0x10000)
  else if 0x400000 ≤ o ∧ o < 0x480000 then accView s ((o - 0x400000) / 0x10000) (o % 0x10000)
  else if 0x600000 ≤ o ∧ mediaOk s ((o - 0x600000) / 0x100000) = false then 0
  else s.reg a

/-- The block that holds the address is populated: its die or its link is present. -/
def regPopulated (s : State) (a : Nat) : Bool :=
  let o := a - 0x200000000000
  if o < 0x100000 then true
  else if o < 0x300000 then diePresent s ((o - 0x100000) / 0x40000)
  else if o < 0x400000 then diePresent s ((o - 0x300000) / 0x10000)
  else if o < 0x500000 then diePresent s ((o - 0x400000) / 0x10000)
  else if o < 0x600000 then lnkPresent s ((o - 0x500000) / 0x1000)
  else true

/-- The register that an access of `n` bytes at `a` touches (R287): none where no register lies there,
then whether the width and alignment are those of the register. -/
def regAt (s : State) (a n : Nat) : Option (Nat × Bool) :=
  let c := a / 4 * 4
  let b := if (regSpec c).isSome then c else c - 4
  match regSpec b with
  | some r =>
    if !regPopulated s b || (b ≠ c && r.width = 32) then none
    else some (b, decide (a = c) &&
      (if r.width = 32 then decide (n = 4) else decide (n = 4) || (decide (n = 8) && decide (b = a))))
  | none => none

end Sys2Proof.Machine
end

