-- ==== Sys2Proof/Machine/HostLink.lean ====
section
/-! DEFINITION. The Shaonen Link: its ports, the hub's coherent cache and the messages that answer the hub
(R458 to R466, R471, R497, R498, Tables 11.3 to 11.5). -/

namespace Sys2Proof.Machine

/-! ### Messages -/

/-- Bits [63:0] of a message header (Table 11.3). -/
def shlWord (ty : Nat) (h : ShlHdr) (pois refused : Bool) : Nat :=
  ty + h.ch.toNat * 64 + h.tag.toNat * 256 + b2n pois * 2 ^ 20 + b2n refused * 2 ^ 21

/-- The module takes messages: it is up, or the ROM is in recovery. -/
def linkServed (s : State) : Bool := s.up || s.mod.phase = .recovery

/-- A message of TYPE `ty` arrives on a port that is UP; on the wrong CH it is discarded with a contained
record (R463). -/
def shlMsg (ty ch : Nat) (h : ShlHdr) (s : State) (k : State → State) : State :=
  if linkServed s = false ∨ portUp s h.port.val = false then s
  else if h.ch.toNat ≠ ch then
    errRecord s { code := 0x0907, cls := 3, unit := 9, index := h.port.val, cause := ty, d0 := shlWord ty h false false }
  else k s

/-! ### Ports (R459 to R461, R497) -/

/-- The requests that are outstanding on a port are to be sent again. -/
def unsend (s : State) (n : Nat) : State :=
  { s with hub := { s.hub with hreqs := modWhere (fun r => r.port = n) (fun r => { r with port := 2, tag := 0 }) s.hub.hreqs } }

/-- What the return of the first port sets going: events 0x0507 and 0x0802, the host's writes, a rescan. -/
def linkBack (s : State) (n : Nat) : State :=
  let s1 := { s with hub := { s.hub with lost := false } }
  let s2 := s1.setRBit rJobStat 13 (hubRestarting s1)
  let s3 := if s.hub.lost then event0 s2 0x0507 8 none [put n 0] else s2
  let s4 := match s3.mod.wake with
    | some pay => event0 { s3 with mod := { s3.mod with wake := none } } 0x0802 8 none pay
    | none => s3
  let s5 := evtDrain (s4.hub.held.length + 1) s4
  if hubRestarting s5 || !s5.up then s5 else startScan (hostPump s5.hub.hwrites.length s5)

/-- SHL_PORT_UP: an enabled port completes training, at a rate and width that SHL_CTL accepts; `failed` counts the
trainings at 64 GT/s that failed before, three of which 32 GT/s needs (R459). -/
def doShlPortUp (n : Nat) (r64 x16 rev : Bool) (failed : Nat) (s : State) : State :=
  if linkServed s = false ∨ portUp s n = true ∨ s.rbit rShlCtl n = false ∨
      (r64 = false ∧ (s.rbit rShlCtl 3 = false ∨ failed < 3)) ∨ (x16 = false ∧ s.rbit rShlCtl 2 = false) then s
  else
    let first := !anyPortUp s
    let v := put 2 0 ||| put (1 + b2n r64) 3 ||| put (1 + b2n x16) 5 ||| put (b2n rev) 7
    let s1 := s.setReg (rShlStat n) (v ||| put ((s.fld (rShlStat n) 23 8 + 1) % 65536) 8)
    let s2 := event0 (sendHeld s1) 0x0504 8 none [put n 0 ||| put (1 + b2n r64) 1 ||| put (1 + b2n x16) 3]
    if first then linkBack s2 n else s2
def execShlPortUp (port : Fin 2) (rate64 x16 reversed : Bool) (failed : Nat) (s : State) : Res :=
  .next (doShlPortUp port rate64 x16 reversed failed s)

/-- A port leaves UP: its requests go again on the other port, or wait for the return of one (R460, R461). -/
def portLeave (s : State) (n cause : Nat) : State :=
  let st := if s.rbit rShlCtl n then 1 else 0
  let s1 := s.setReg (rShlStat n) (put st 0 ||| put (s.fld (rShlStat n) 23 8) 8 ||| put cause 24)
  let s2 := unsend (event0 s1 0x0505 8 none [put n 0 ||| put cause 4]) n
  if anyPortUp s2 then sendHeld s2
  else
    event0 ({ s2 with hub := { s2.hub with lost := true } }.setRBit rJobStat 13 true) 0x0506 8 none []

/-- SHL_PORT_DOWN: replay failure, Recovery over 1 ms, or electrical idle from the host. -/
def doShlPortDown (n cause : Nat) (s : State) : State :=
  if linkServed s ∧ portUp s n = true ∧ 1 ≤ cause ∧ cause ≤ 3 then portLeave s n cause else s
def execShlPortDown (port : Fin 2) (cause : BitVec 4) (s : State) : Res := .next (doShlPortDown port cause.toNat s)

/-- A port follows its enable: cleared, it goes to electrical idle; set, it trains. -/
def portEnable (t : State) (n : Nat) : State :=
  if t.rbit rShlCtl n then (if t.fld (rShlStat n) 2 0 = 0 then t.setFld (rShlStat n) 2 0 1 else t)
  else if portUp t n then portLeave t n 4
  else t.setFld (rShlStat n) 2 0 0

/-- SHL_CTL_WRITE. -/
def doShlCtlWrite (v : BitVec 32) (s : State) : State :=
  if s.up then portEnable (portEnable (s.softWrite rShlCtl (v.setWidth 64)) 0) 1 else s
def execShlCtlWrite (value : BitVec 32) (s : State) : Res := .next (doShlCtlWrite value s)

/-- SHL_HWIN_WRITE: a write to a register of a valid window is discarded with ERR, except one that makes
the window invalid (R403, R498). -/
def doShlHwinWrite (k : Nat) (ctl : Bool) (v : Word) (s : State) : State :=
  let r := if ctl then rHwinCtl k else rHwinBase k
  if !s.up then s
  else if s.rbit (rHwinBase k) 63 && (ctl || bit v 63) then s.setRBit (rHwinCtl k) 63 true
  else s.softWrite r v
def execShlHwinWrite (k : Fin 16) (ctl : Bool) (value : BitVec 64) (s : State) : Res :=
  .next (doShlHwinWrite k ctl value s)

/-! ### Read data (R463, R469) -/

/-- The accesses of dies and guests that wait for a line are answered by `f`. -/
def answerWaiting (s : State) (line : Nat) (f : State → DieHdr → State) : State :=
  let here := fun (h : DieHdr) => (h.addr.toNat - hostAperture) / 64 = line
  let mine := s.fabr.hostq.filter fun r => here r.h
  let s1 := { s with fabr := { s.fabr with hostq := s.fabr.hostq.filter fun r => !(decide (here r.h)) } }
  let s2 := mine.foldl (fun s r => f s r.h) s1
  (List.range 2).foldl (fun s m =>
    let x := getSite s m
    let gs := x.outs.filter fun g => here g.h
    gs.foldl (fun s g => f s g.h) (setSite s m { x with outs := x.outs.filter fun g => !(decide (here g.h)) })) s2

def rdataTo (data : Nat) (pois : Bool) (s : State) (h : DieHdr) : State :=
  s.send (.die 0x21 (respHdr h 1 0 pois) [data])

/-- The event ring holds the host address. -/
def inRing (s : State) (a : Nat) : Bool :=
  let b := s.fld rEvtBase 46 12 * 4096
  s.rbit rEvtCtl 5 && decide (b ≤ a) && decide (a < b + 64 * 2 ^ s.fld rEvtCtl 4 0)

/-- Event 0x0501 of a status word that cannot be written. -/
def statusLost (s : State) (i a : Nat) : State := event0 s 0x0501 8 none [put (i % 4096) 0, put a 0]

/-- Waiting writes to a line fail: those of status words with event 0x0501, those of dies and guests with a NACK, under
which their operation writes the contained record (R378). -/
def failWrites (s : State) (line : Nat) (p : HostWr → Bool) : State :=
  let mine := s.hub.hwrites.filter fun w => w.addr / 64 = line && p w
  let rest := s.hub.hwrites.filter fun w => !(decide (w.addr / 64 = line) && p w)
  let s1 := { s with hub := { s.hub with hwrites := rest } }
  mine.foldl (fun s w => match w.job, w.req with
    | some i, _ => statusLost s i w.addr
    | none, some h => sendNack s h 3
    | none, none => s) s1

/-- A line that the hub asked for arrives: it is held, its watch stands again, and what waits goes on. -/
def lineArrives (s : State) (r : HostReq) (data : BitVec 512) : State :=
  let keep := (findLine s r.line).any fun h => r.ty = 0x11 || h.st ≠ .shared
  let bytes := leBytes 64 data.toNat
  let s1 := if keep then s
    else cacheFill s ⟨r.line, if r.ty = 0x12 then .exclusive else .shared, bytes, watched s r.line⟩
  let s2 := answerWaiting s1 r.line (rdataTo data.toNat false)
  let s3 := if hubRestarting s2 then s2 else hostPump s2.hub.hwrites.length s2
  if watched s3 r.line && !intakePaused s3 then wantRecord s3 ((r.line * 64 - recAddr s3 0) / 128) else s3

/-- SHL_DATA: a refused line is not held; a POISONED line is given up, its data poisoned inputs. -/
def doShlData (h : ShlHdr) (pois refused : Bool) (data : BitVec 512) (s : State) : State :=
  shlMsg 0x21 1 h s fun s =>
    match s.hub.hreqs.find? fun r => r.port = h.port.val ∧ r.tag = h.tag.toNat ∧ (r.ty = 0x11 ∨ r.ty = 0x12) with
    | none => s
    | some r =>
      let s1 := sendHeld { s with hub := { s.hub with hreqs := s.hub.hreqs.filter fun q => q ≠ r } }
      let fail := fun (s : State) =>
        let t := failWrites s r.line fun _ => true
        if hubRestarting t then t else hostPump t.hub.hwrites.length t
      if refused then fail (answerWaiting s1 r.line fun s h => sendNack s h 2)
      else if pois then fail (hostRequest (answerWaiting s1 r.line (rdataTo data.toNat true)) 0x14 r.line [])
      else lineArrives s1 r data
def execShlData (h : ShlHdr) (pois refused : Bool) (data : BitVec 512) (s : State) : Res :=
  .next (doShlData h pois refused data s)

/-- The records whose status word lies in a line that the host refused to take back. -/
def lostStatus (s : State) (line : Nat) : State :=
  (List.range (if jobtabEn s then jobtabCount s else 0)).foldl (fun s i =>
    match hostRead s (recAddr s i) 16 with
    | some bs =>
      let a := bits (BitVec.ofNat 64 (leNat (bs.drop 8))) 46 3 * 8
      if a / 64 = line then statusLost s i a else s
    | none => s) s

/-- CMP: a write-back or give-up is complete; a refused write-back loses the status words in it. -/
def doCmp (h : ShlHdr) (refused : Bool) (s : State) : State :=
  shlMsg 0x22 1 h s fun s =>
    match s.hub.hreqs.find? fun r => r.port = h.port.val ∧ r.tag = h.tag.toNat ∧ (r.ty = 0x13 ∨ r.ty = 0x14) with
    | none => s
    | some r =>
      let s1 := sendHeld { s with hub := { s.hub with hreqs := s.hub.hreqs.filter fun q => q ≠ r } }
      if refused ∧ r.ty = 0x13 then lostStatus s1 r.line else s1
def execCmp (h : ShlHdr) (refused : Bool) (s : State) : Res := .next (doCmp h refused s)

/-! ### Snoops (R466) -/

/-- A line is held shared. -/
def shareLine (s : State) (line : Nat) : State :=
  let hs := s.hub.hlines.map fun g => if g.line = line then { g with st := LineSt.shared } else g
  { s with hub := { s.hub with hlines := hs } }

def snoopDone (s : State) (h : ShlHdr) (data : List Byte) : State :=
  s.send (.shl h.port.val 0x38 3 h.tag.toNat h.addr.toNat false false data)

/-- A watched line was invalidated: the engine reads the record again and re-establishes the watch. -/
def wakeEngine (s : State) (line : Nat) : State :=
  if watched s line && !intakePaused s then wantRecord s ((line * 64 - recAddr s 0) / 128) else s

/-- A snoop finds the line in state `keep` afterwards, or gives it up. An uncorrectable word is fatal in a
modified line, and invalidates a clean one. -/
def snoop (ty : Nat) (share bad : Bool) (h : ShlHdr) (s : State) : State :=
  shlMsg ty 2 h s fun s =>
    let line := h.addr.toNat / 64
    match findLine s line with
    | none => snoopDone s h []
    | some l =>
      if bad && l.st = .modified then fatal s { code := 0x09F2, cls := 4, unit := 8, addr := line * 64 }
      else
        let s1 := snoopDone s h (if l.st = .modified then l.data else [])
        if share && !bad then
          shareLine s1 line
        else wakeEngine (dropLine s1 line) line

/-- SNPI. -/
def doSnpi (h : ShlHdr) (bad : Bool) (s : State) : State := snoop 0x31 false bad h s
def execSnpi (h : ShlHdr) (bad : Bool) (s : State) : Res := .next (doSnpi h bad s)

/-- SNPS. -/
def doSnps (h : ShlHdr) (bad : Bool) (s : State) : State := snoop 0x32 true bad h s
def execSnps (h : ShlHdr) (bad : Bool) (s : State) : Res := .next (doSnps h bad s)

/-! ### A bad word where the engine reads (R465) -/

/-- Line `k` of a record: its two lines, and that of its status word where the hub holds the first. -/
def recLine (s : State) (i k : Nat) : Option Nat :=
  if k < 2 then some (recAddr s i / 64 + k)
  else (hostRead s (recAddr s i) 16).map fun bs => bits (BitVec.ofNat 64 (leNat (bs.drop 8))) 46 3 * 8 / 64

/-- JOB_TAKE, `bad` the line of the record in which a word is uncorrectable: such a line is asked for again. -/
def doTakeRecord (i : Nat) (bad : Option Nat) (s : State) : State :=
  match bad.bind (recLine s i) with
  | none => doJobTake i s
  | some line =>
    if (findLine s line).isNone then doJobTake i s
    else
      let s1 := lineBad s line
      if s1.up && !intakePaused s1 then wantRecord s1 i else s1
def execJobTake (idx : Fin 4096) (bad : Option (Fin 3)) (s : State) : Res :=
  .next (doTakeRecord idx (bad.map fun k => k.val) s)

/-! ### Timeouts (R461) -/

/-- HOST_ACCESS_TIMEOUT: the accesses that have waited 100 ms for the line of a request fail: reads as
poisoned inputs, writes of an operation as its contained fault; an export fails with ERR 0x4A. Status and
event writes stay held. -/
def doHostAccessTimeout (tag : Nat) (s : State) : State :=
  match s.hub.hreqs.find? fun r => r.tag = tag ∧ (r.ty = 0x11 ∨ r.ty = 0x12) with
  | none => s
  | some r =>
    if s.up = false then s
    else
      let s1 := answerWaiting s r.line fun s h => sendNack s h 3
      let mine := fun (w : HostWr) => w.job = none && !inRing s w.addr
      let hit := s1.hub.hwrites.any fun w => w.addr / 64 = r.line && mine w
      let s2 := failWrites s1 r.line mine
      match longRunning s2 3 with
      | some j => if hit then exportEnd s2 j 5 0x4A else s2
      | none => s2
def execHostAccessTimeout (tag : BitVec 12) (s : State) : Res := .next (doHostAccessTimeout tag.toNat s)

end Sys2Proof.Machine
end

