-- ==== Sys2Proof/Machine/RegWrite.lean ====
section
/-! DEFINITION. Writes of registers: the job table's and the event ring's commands, and for every block
what a write does by the access types of its fields and the rules of its chapter (R19 to R21, R193 to R198,
R242, R278 to R283, R316 to R320, R365 to R369, R399 to R404, R447, R452 to R457, R496 to R500, R520, R521,
R555 to R560, R586 to R590, R609, R610, R637, R638). -/

namespace Sys2Proof.Machine

/-! ### Job table and event ring (R481, R496, R499) -/

/-- The lines of the table's records are pinned, and no other (Table 11.5). -/
def repin (s : State) : State :=
  let hs := s.hub.hlines.map fun h => { h with pinned := watched s h.line }
  { s with hub := { s.hub with hlines := hs } }

/-- A write of HUB_JOBTAB_CTL. EN is refused while COUNT is 0 or above 4,096; clearing EN releases every
watch, setting it begins a full scan. -/
def jobtabWrite (v : Word) (s : State) : State :=
  let t := s.softWrite rJobtabCtl v
  let n := t.fld rJobtabCtl 12 0
  if t.rbit rJobtabCtl 13 && (n = 0 || decide (4096 < n)) then s.setRBit rJobtabCtl 15 true
  else
    let t1 := repin t
    if t.rbit rJobtabCtl 13 = false then t1.setRBit rJobtabCtl 14 false
    else if s.rbit rJobtabCtl 13 then (if intakePaused t1 then t1 else scanTable t1)
    else if intakePaused t1 then t1.setRBit rJobtabCtl 14 true
    else startScan t1

/-- JOBTAB_ENABLE. -/
def doJobtabEnable (v : BitVec 32) (s : State) : State :=
  if s.up && !hubRestarting s then jobtabWrite (setBit (v.setWidth 64) 13 true) s else s
def execJobtabEnable (value : BitVec 32) (s : State) : Res := .next (doJobtabEnable value s)

/-- JOBTAB_DISABLE. -/
def doJobtabDisable (v : BitVec 32) (s : State) : State :=
  if s.up && !hubRestarting s then jobtabWrite (setBit (v.setWidth 64) 13 false) s else s
def execJobtabDisable (value : BitVec 32) (s : State) : Res := .next (doJobtabDisable value s)

/-- A write of HUB_EVT_CTL: with EN set, one that changes LOG2_SIZE is discarded whole; a LOG2_SIZE outside
6 to 20 is discarded. Setting EN restarts k at 0. -/
def evtCtlWrite (v : Word) (s : State) : State :=
  let old := s.fld rEvtCtl 4 0
  let n := bits v 4 0
  if s.rbit rEvtCtl 5 && n ≠ old then s.setRBit rEvtCtl 7 true
  else
    let w := if 6 ≤ n ∧ n ≤ 20 then v else setBits v 4 0 old
    let t := s.softWrite rEvtCtl w
    if !s.rbit rEvtCtl 5 && t.rbit rEvtCtl 5 then
      let t1 := t.setFld rEvtStat 31 0 0
      evtDrain (t1.hub.held.length + 1) t1
    else t

/-- EVT_RING_ENABLE. -/
def doEvtRingEnable (v : BitVec 32) (s : State) : State :=
  if s.up && !hubRestarting s then evtCtlWrite (setBit (v.setWidth 64) 5 true) s else s
def execEvtRingEnable (value : BitVec 32) (s : State) : Res := .next (doEvtRingEnable value s)

/-- EVT_HEAD_WRITE: space that returns takes the records held. -/
def doEvtHeadWrite (v : BitVec 32) (s : State) : State :=
  if s.up && !hubRestarting s then
    let t := s.setReg rEvtHead (v.setWidth 64)
    evtDrain (t.hub.held.length + 1) t
  else s
def execEvtHeadWrite (value : BitVec 32) (s : State) : Res := .next (doEvtHeadWrite value s)

/-! ### The hub block -/

/-- A register that may be written only in a certain state: a write at another time sets an ERR bit. -/
def guardWrite (s : State) (ok : Bool) (a : Nat) (v : Word) (err ebit : Nat) : State :=
  if ok then s.softWrite a v else s.setRBit err ebit true

/-- The pages of valid range `k` of partition `p` are not all kept by its register in `t` (R391). -/
def rangeLost (s t : State) (p k : Nat) : Bool :=
  let x := hbmPages s p k
  let y := hbmPages t p k
  x.1 && !(y.1 && decide (y.2.1 ≤ x.2.1) && decide (x.2.1 + x.2.2 ≤ y.2.1 + y.2.2))

/-- HUB_PARTp registers (R484, R489, R496). -/
def partWrite (s : State) (p j a : Nat) (v : Word) : State :=
  if j = 0 then
    let t := s.softWrite a v
    match bits v 1 0 with
    | 1 => doPartitionEnable p t
    | 2 => doPartitionDisable p t
    | _ => t
  else if j = 0x18 then s.softWrite a v
  else
    let ok := partState s p = 0
    let t := guardWrite s ok a v (rPartCtl p) 11
    if (List.range 8).any (rangeLost s t p) then dropWindows t 1 fun m k => winPart t m k = p else t

/-- HUB_SLGp registers (R520). -/
def slgRegWrite (s : State) (p j a : Nat) (v : Word) : State :=
  if j = 0 then guardWrite s (!slgOn s p) a v a 63
  else if j = 8 then doSillageEnable p (v.setWidth 32) s
  else if j = 0x10 then doSillageHeadWrite p (v.setWidth 32) s
  else s.softWrite a v

/-- HUB_THRk_SEL: the fields, then re-arming (R604). A slot that names another counter starts anew. -/
def thrWrite (s : State) (k : Nat) (v : Word) : State :=
  let t := s.softWrite (rThrSel k) (setBit v 21 false)
  let t1 := if t.fld (rThrSel k) 19 0 = s.fld (rThrSel k) 19 0 then t
    else { t with hub := { t.hub with rearm := t.hub.rearm.filter fun j => j ≠ k } }
  if bit v 21 then doThresholdRearm k t1 else t1

/-- Registers of an admitted guest's firewall (R399, R403). -/
def fwWrite (s : State) (m j a : Nat) (v : Word) : State :=
  if guestIn s m = false then s
  else if j < 0x40 then s.softWrite a v
  else doGuestWindowWrite m ((j - 0x40) / 16) (j % 16 = 8) v s

/-- A write in the hub block, at offset `o`. -/
def hubWrite (s : State) (o : Nat) (v : Word) : State :=
  let a := hubR o
  if o = 0x110 then
    let t := s.softWrite a v
    if bit v 0 then doMeminitGo t else t
  else if 0x900 ≤ o ∧ o < 0xB00 then fwWrite s ((o - 0x900) / 0x100) (o % 0x100) a v
  else if o = 0x1000 then guardWrite s (!s.rbit rJobtabCtl 13) a v rJobtabCtl 15
  else if o = 0x1008 then jobtabWrite v s
  else if o = 0x1020 then guardWrite s (!s.rbit rEvtCtl 5) a v rEvtCtl 7
  else if o = 0x1028 then evtCtlWrite v s
  else if o = 0x1030 then doEvtHeadWrite (v.setWidth 32) s
  else if 0x2000 ≤ o ∧ o < 0x3000 then partWrite s ((o - 0x2000) / 0x100) (o % 0x100) a v
  else if 0x3000 ≤ o ∧ o < 0x3800 then slgRegWrite s ((o - 0x3000) / 0x80) (o % 0x80) a v
  else if o = 0x4810 then
    (match bits v 1 0 with
      | 1 => doCounterClearSelected s
      | 2 => doCounterClearAll s
      | _ => s)
  else if 0x5000 ≤ o ∧ o < 0x5400 ∧ o % 16 = 0 then thrWrite s ((o - 0x5000) / 16) v
  else s.softWrite a v

/-! ### The Shaonen, security and power blocks -/

def shlWrite (s : State) (o : Nat) (v : Word) : State :=
  if o = 0x10 then doShlCtlWrite (v.setWidth 32) s
  else if 0x100 ≤ o ∧ o < 0x200 then doShlHwinWrite ((o - 0x100) / 16) (o % 16 = 8) v s
  else s.softWrite (shlR o) v

/-- A write in the security block. GO of SEC_RCV_CTL is the command RECOVERY_LOAD. -/
def secWrite (s : State) (o : Nat) (v : Word) : State :=
  if o = 0x40 then mbxWrite .mailbox v s else s.softWrite (secR o) v

/-- A write in the power block from a host or management controller. -/
def pwrWrite (src : CmdSrc) (s : State) (o : Nat) (v : Word) : State :=
  if o = 0x08 then
    let t := s.softWrite rDdCtl v
    match bits v 1 0 with
    | 1 => doDrydownEnter src t
    | 2 => doDrydownExit src t
    | _ => t
  else if o = 0x10 then
    let t := s.softWrite rRstCtl v
    match bits v 1 0 with
    | 1 => doClusterReset src (bits v 6 2) t
    | 2 => doPartitionReset src (bits v 10 7) t
    | 3 => doHubRestart src t
    | _ => t
  else if o = 0x80 then doPtpEnable (v.setWidth 32) s
  else s.softWrite (pwrR o) v

/-! ### Cluster and die blocks -/

/-- Sum of eight fields of `n` bits. -/
def sumFields (v : Word) (n : Nat) : Nat := (List.range 8).foldl (fun t k => t + bits v (n * k + n - 1) (n * k)) 0

/-- A write of a register that the lead cluster holds and that waits for a partition without started
streams (R193, R194, R195, R278). -/
def leadGuard (s : State) (c o : Nat) (v : Word) : State :=
  match ledBy s c with
  | none => s
  | some p =>
    let ok := !anyStarted s p && !(o = 0x500 && decide (32 < sumFields v 6)) && !(o = 0x508 && decide (16 < sumFields v 5))
    guardWrite s ok (cluR c o) v (cluR c o) 63

/-- A write in a cluster block. DESIGN CHOICE: the write-1-to-clear of CLU_SMIS_TAG.VALID acts at every cluster,
each holding its own capture (R198). -/
def cluWrite (s : State) (c o : Nat) (v : Word) : State :=
  if 0x500 ≤ o ∧ o < 0x550 then leadGuard s c o v
  else if o = 0x700 ∨ o = 0x718 then leadGuard s c o v
  else if o = 0x708 then doCluStepWrite c v s
  else if o = 0x710 then doCluSeedWrite c v s
  else if o = 0x720 then doCluClipWrite c v s
  else if o = 0x730 then leadWrite s c fun _ => s.softWrite (cluR c o) v
  else if 0x400 ≤ o ∧ o < 0x430 then
    (if o % 16 = 0 then setFlagRec s c ((o - 0x400) / 16) (flagClear (flagRec s c ((o - 0x400) / 16)) v) else s)
  else s.softWrite (cluR c o) v

/-- A write in a die block. A write of 0 to PERIOD_H acts as one of 1 (Table 7.18). -/
def dieWrite (s : State) (d o : Nat) (v : Word) : State :=
  if o = 0x100 then doSsWayWrite d false v s
  else if o = 0x108 then doSsWayWrite d true v s
  else if o = 0x110 ∧ bits v 7 0 = 0 then s.softWrite (dieR d o) (setBits v 7 0 1)
  else s.softWrite (dieR d o) v

/-! ### Accord, link and Atomizer blocks -/

/-- A group of the partition is ACTIVATING or ACTIVE. -/
def groupBusy (s : State) (p : Nat) : Bool :=
  (List.range (gtabCount s p)).any fun k => gState (grpRec s p k) = 1 || gState (grpRec s p k) = 2

/-- A write in an Accord block (R452 to R457). -/
def accRegWrite (s : State) (d o : Nat) (v : Word) : State :=
  let a := accR d o
  if o < 0x80 then
    let p := o / 8
    guardWrite s (holdsLead s d p && !anyStarted s p && !groupBusy s p && decide (bits v 56 48 ≤ 256)) a v a 63
  else if 0x180 ≤ o ∧ o < 0x200 then
    let p := (o - 0x180) / 8
    guardWrite s (holdsLead s d p && decide (bits v 7 0 < gtabCount s p)) a v a 63
  else if o = 0x100 then
    let p := bits v 5 2
    if holdsLead s d p then
      let t := s.softWrite a v
      match bits v 1 0 with
      | 1 => doGroupActivate (Fin.ofNat 8 d) (Fin.ofNat 16 p) (BitVec.ofNat 8 (bits v 13 6)) t
      | 2 => doGroupDeactivate (Fin.ofNat 8 d) (Fin.ofNat 16 p) (BitVec.ofNat 8 (bits v 13 6)) t
      | _ => t
    else s.setRBit a 15 true
  else s.softWrite a v

/-- A write of LNK_CTL: without a permitted rate, or with WIDTH_MIN 3, it is discarded (R447). -/
def lnkCtlWrite (s : State) (l : Nat) (v : Word) : State :=
  if bits v 3 1 = 0 ∨ bits v 8 7 = 3 then s.setRBit (rLnkCtl l) 10 true
  else
    let t := s.softWrite (rLnkCtl l) (setBit v 0 (lnkEn s l))
    let t1 := if bit v 9 && bit v 0 && !lnkEn s l then restoreRates t l else t
    let t2 := if bit v 0 then doLnkEnable l t1 else doLnkDisable l t1
    if bit v 9 && lnkEn s l then doLnkRetrain l t2 else t2

/-- A write in a link block. -/
def lnkWrite (s : State) (l o : Nat) (v : Word) : State :=
  if o = 0 then lnkCtlWrite s l v else s.softWrite (lnkR l o) v

/-- A write in the Atomizer block of a site (R367, R368). -/
def atzWrite (s : State) (m o : Nat) (v : Word) : State :=
  let n := (o - 0x1000) / 0x100
  if 0x1000 ≤ o ∧ o % 0x100 = 0 then
    (if ringState s m n = 1 ∨ ringState s m n = 2 then ringErr s m n else s.softWrite (rRingDesc m n) v)
  else if 0x1000 ≤ o ∧ o % 0x100 = 8 then
    let t := s.softWrite (rRingCtl m n) v
    match bits v 1 0 with
    | 1 => doAtzStart m n t
    | 2 => doAtzStop m n t
    | _ => t
  else if 0x1000 ≤ o ∧ o % 0x100 = 0x10 then doSubTailWrite m n (v.setWidth 32) s
  else s.softWrite (atzR m o) v

/-! ### The register space -/

/-- A write of the whole register at `a`. -/
def regApply (src : CmdSrc) (s : State) (a : Nat) (v : Word) : State :=
  let o := a - 0x200000000000
  if o < 0x10000 then hubWrite s o v
  else if o < 0x20000 then shlWrite s (o - 0x10000) v
  else if o < 0x30000 then secWrite s (o - 0x20000) v
  else if o < 0x40000 then pwrWrite src s (o - 0x30000) v
  else if o < 0x300000 then cluWrite s ((o - 0x100000) / 0x10000) (o % 0x10000) v
  else if o < 0x400000 then dieWrite s ((o - 0x300000) / 0x10000) (o % 0x10000) v
  else if o < 0x500000 then accRegWrite s ((o - 0x400000) / 0x10000) (o % 0x10000) v
  else if o < 0x600000 then lnkWrite s ((o - 0x500000) / 0x1000) (o % 0x1000) v
  else if mediaOk s ((o - 0x600000) / 0x100000) = false then s
  else atzWrite s ((o - 0x600000) / 0x100000) (o % 0x100000) v

/-- A write of `n` bytes at `a` in register `b`: whole, or by halves, the lower one held until the upper
one arrives (R287). -/
def regHalves (s : State) (a b n : Nat) (v : Word) (f : State → Word → State) : State :=
  match regSpec b with
  | none => s
  | some r =>
    if r.width = 32 then f s (v &&& 0xFFFFFFFF#64)
    else if n = 8 then f s v
    else if a = b then { s with hub := { s.hub with half := smSet 0 s.hub.half b (v.setWidth 32) } }
    else
      let lo := smGet 0 s.hub.half b
      f { s with hub := { s.hub with half := smSet 0 s.hub.half b 0 } } (put (bits v 31 0) 32 ||| lo.setWidth 64)

end Sys2Proof.Machine
end

