-- ==== Sys2Proof/Machine/HostAcc.lean ====
section
/-! DEFINITION. Accesses of the host, of the management controller and of a debug session to device memory
and registers (R285, R287, R302, R303, R467, R468, R530, R544, R555, R580, R626). -/

namespace Sys2Proof.Machine

/-! ### What is open to the host (R468) -/

/-- The address lies in the register space (Table 7.1). -/
def isReg (a : Nat) : Bool := decide (0x200000000000 ≤ a) && decide (a < 0x200001000000)

/-- The register at `b` is closed to the host: outside the four that recovery opens (R530); of the security
controller, or of recovery; written only by firmware (R555); a hub register during a hub restart (R580). -/
def hostClosed (s : State) (b : Nat) (wr : Bool) : Bool :=
  if s.mod.phase = .recovery then !([rSecId, rSecState, rRcvSrc, rRcvCtl].contains b)
  else
    (decide (secR 0x8000 ≤ b) && decide (b < secR 0x9000)) || b = rRcvSrc || b = rRcvCtl ||
      (wr && (regSpec b).any fun r => r.closed) ||
      (hubRestarting s && decide (hubR 0x38 ≤ b) && decide (b < hubR 0x10000))

/-- REASON of a refused access to a register, 0 where it is permitted (Table 11.21). -/
def regReason (s : State) (a n : Nat) (wr : Bool) : Nat :=
  match regAt s a n with
  | none => 1
  | some (b, ok) => if !ok then 4 else if hostClosed s b wr then 3 else 0

/-- REASON of a refused access to memory. In recovery none is open. -/
def memReason (s : State) (a : Nat) : Nat :=
  if s.mod.phase = .recovery then 1 else if inShadow a then 2 else if inStore s a then 0 else 1

/-- A refusal is counted and captured. -/
def hostRefuse (s : State) (a ty port reason : Nat) : State := captRefuse (cntInc s 0x5000 0 1) a ty port reason

def hostData (s : State) (h : ShlHdr) (pois refused : Bool) (data : List Byte) : State :=
  s.send (.shl h.port.val 0x21 1 h.tag.toNat h.addr.toNat pois refused data)

def hostCmp (s : State) (h : ShlHdr) (refused : Bool) : State :=
  s.send (.shl h.port.val 0x22 1 h.tag.toNat h.addr.toNat false refused [])

/-! ### Messages of the host (R467) -/

/-- The host as a reader: PTAG_AGENT 5. -/
def hostReader : Reader := ⟨⟨0, 0, 3, 5⟩, none, 0xFFFFFFFF, 0⟩

/-- Bytes of a line of memory as they are stored. -/
def lineBytes (s : State) (a : Nat) : List Byte := (List.range 64).map fun i => storeByte s (a / 64 * 64 + i)

/-- The value of a register in its place in a line, `n` bytes of it. -/
def regLine (s : State) (a n : Nat) : List Byte :=
  let b := if (regSpec a).isSome then a else a - 4
  let v := (leBytes 8 (regRead s b).toNat).drop (a - b)
  overlay (List.replicate 64 0) (a % 64) (v.take n)

/-- MRD: of memory the line; of a register `bytes` bytes. -/
def doMrd (h : ShlHdr) (bytes : Nat) (s : State) : State :=
  shlMsg 0x01 0 h s fun s =>
    let a := h.addr.toNat
    let r := if isReg a then regReason s a bytes false else memReason s a
    if r ≠ 0 then hostData (hostRefuse s a 0x01 h.port.val r) h false true (List.replicate 64 0xFF)
    else if isReg a then hostData s h false false (regLine s a bytes)
    else
      let v := verifyRead s (span (a / 64 * 64) 64) hostReader false
      hostData v.1 h v.2 false (lineBytes v.1 a)
def execMrd (h : ShlHdr) (bytes : Nat) (s : State) : Res := .next (doMrd h bytes s)

/-- The bytes that a mask selects, when they are one run: first offset and number. -/
def maskRun (mask : BitVec 64) : Option (Nat × Nat) :=
  let on := (List.range 64).filter fun i => bit mask i
  match on with
  | [] => none
  | i :: _ => if on = (List.range on.length).map (fun k => i + k) then some (i, on.length) else none

/-- A write of a register by the host, width and alignment checked; REASON where it is refused. -/
def hostRegWrite (s : State) (a n : Nat) (v : Word) : State × Nat :=
  let r := regReason s a n true
  if r ≠ 0 then (s, r)
  else match regAt s a n with
    | some (b, _) => (regHalves s a b n v fun s v => regApply .host s b v, 0)
    | none => (s, 1)

/-- A write of the host: whole lines of memory under R302, registers by their width. A refused write is
discarded. -/
def hostWriteMsg (ty : Nat) (h : ShlHdr) (mask : BitVec 64) (data : BitVec 512) (s : State) : State :=
  shlMsg ty 0 h s fun s =>
    let a := h.addr.toNat
    if isReg a then
      let base := a / 64 * 64
      let run := maskRun mask
      let i := (run.map Prod.fst).getD (a % 64)
      let n := (run.map Prod.snd).getD 64
      let t := hostRegWrite s (base + i) n (BitVec.ofNat 64 (bits data (8 * i + 63) (8 * i)))
      if t.2 = 0 then hostCmp t.1 h false else hostCmp (hostRefuse s (base + i) ty h.port.val t.2) h true
    else if memReason s a ≠ 0 then hostCmp (hostRefuse s a ty h.port.val (memReason s a)) h true
    else hostCmp (applyHostLine s a mask data) h false

/-- MWR. -/
def doMwr (h : ShlHdr) (data : BitVec 512) (s : State) : State := hostWriteMsg 0x02 h (BitVec.allOnes 64) data s
def execMwr (h : ShlHdr) (data : BitVec 512) (s : State) : Res := .next (doMwr h data s)

/-- MWRP. -/
def doMwrp (h : ShlHdr) (mask : BitVec 64) (data : BitVec 512) (s : State) : State := hostWriteMsg 0x03 h mask data s
def execMwrp (h : ShlHdr) (mask : BitVec 64) (data : BitVec 512) (s : State) : Res := .next (doMwrp h mask data s)

/-! ### Writes without a message of their own -/

/-- A write of the management controller: PWR_ registers only, in every state but Off (R586, R626). -/
def controllerWrite (s : State) (a n : Nat) (v : Word) : State :=
  if busOn s = false ∨ a < pwrR 0 ∨ pwrR 0x10000 ≤ a then s
  else match regAt s a n with
    | some (b, true) => regHalves s a b n v fun s v => regApply .controller s b v
    | _ => s

/-- REGISTER_WRITE. -/
def doRegisterWrite (src : RegSrc) (a n : Nat) (v : Word) (s : State) : State :=
  match src with
  | .i3c => controllerWrite s a n v
  | .host =>
    if linkServed s = false ∨ anyPortUp s = false then s
    else
      let t := hostRegWrite s a n v
      if t.2 = 0 then t.1 else hostRefuse s a 0x03 (hostPort s a) t.2
def execRegisterWrite (src : RegSrc) (addr : BitVec 48) (width : Nat) (value : BitVec 64) (s : State) : Res :=
  .next (doRegisterWrite src addr.toNat width value s)

/-- I3C_REGISTER_WRITE: an offset that is a multiple of 4, then 4 or 8 bytes; another transfer is
discarded. -/
def doI3cRegisterWrite (o : Nat) (data : List Byte) (s : State) : State :=
  if o % 4 = 0 ∧ (data.length = 4 ∨ data.length = 8) then
    controllerWrite s (pwrR o) data.length (BitVec.ofNat 64 (leNat data))
  else s
def execI3cRegisterWrite (_bus : I3cBus) (offset : BitVec 16) (data : List Byte) (s : State) : Res :=
  .next (doI3cRegisterWrite offset.toNat data s)

/-! ### Debug writes (R34, R285, R544) -/

/-- One byte of an entry, of a shadow region or check array, or of data under R302. -/
def debugByte (s : State) (p : Nat × Byte) : State :=
  if inEntries p.1 then
    let blk := entryBlock p.1
    setEntry s blk (entryOfBytes (overlay (entryBytesOf (entryOf s blk)) (p.1 % 32) [p.2]))
  else if inShadow p.1 then storeBytes [p.2] p.1 s
  else s

/-- A write of device memory: bytes of data are written as one write per line. -/
def debugDevice (s : State) (a : Nat) (data : List Byte) : State :=
  let ps := (List.range data.length).zip data |>.map fun p => (a + p.1, p.2)
  let ok := ps.filter fun p => addrNack s p.1 = 0
  let s1 := writeAll s (ok.filter fun p => inStore s p.1) none
  (ok.filter fun p => !inStore s p.1).foldl debugByte s1

/-- A write of any register but those of the security block. -/
def debugRegister (s : State) (a : Nat) (data : List Byte) : State :=
  let n := data.length
  if secR 0 ≤ a ∧ a < secR 0x10000 then s
  else match regAt s a n with
    | some (b, true) =>
      regHalves s a b n (BitVec.ofNat 64 (leNat data)) fun s v =>
        if (regSpec b).any fun r => r.closed then s.setReg b v else regApply .host s b v
    | _ => s

/-- Core stores and accumulator memories: 1,024 package cores of `size` bytes. -/
def debugStore (m : SMap Byte) (size a : Nat) (data : List Byte) : SMap Byte :=
  ((List.range data.length).zip data).foldl (fun m p => if a + p.1 < 1024 * size then smSet 0 m (a + p.1) p.2 else m) m

/-- DEBUG_MEMORY_WRITE: in a session of level D2 or above. -/
def doDebugMemoryWrite (space : DebugSpace) (a : Nat) (data : List Byte) (s : State) : State :=
  if s.up = false ∨ (s.sec.sess.any fun q => decide (2 ≤ q.level)) = false then s
  else match space with
    | .device => debugDevice s a data
    | .coreStore => { s with cstore := debugStore s.cstore 0x400000 a data }
    | .accumulator => { s with accm := debugStore s.accm 0x200000 a data }
    | .register => debugRegister s a data
def execDebugMemoryWrite (space : DebugSpace) (addr : BitVec 48) (data : List Byte) (s : State) : Res :=
  .next (doDebugMemoryWrite space addr.toNat data s)

end Sys2Proof.Machine
end

