-- ==== Sys2Proof/Machine/Dispatch.lean ====
section
/-! DEFINITION. What each command does: one direct call of its meaning. -/

namespace Sys2Proof.Machine

/-- The effect of a command on everything but the queue. -/
def exec (i : Instr) (s : State) : Host.Outcome State Fault Refusal :=
  match i with
  | .nop at_ w => Sys2Proof.Machine.execNop at_ w s
  | .li at_ w => Sys2Proof.Machine.execLi at_ w s
  | .add at_ w => Sys2Proof.Machine.execAdd at_ w s
  | .addi at_ w => Sys2Proof.Machine.execAddi at_ w s
  | .sub at_ w => Sys2Proof.Machine.execSub at_ w s
  | .mul at_ w => Sys2Proof.Machine.execMul at_ w s
  | .logic at_ w => Sys2Proof.Machine.execLogic at_ w s
  | .rdspr at_ w => Sys2Proof.Machine.execRdspr at_ w s
  | .shift at_ w => Sys2Proof.Machine.execShift at_ w s
  | .br at_ w => Sys2Proof.Machine.execBr at_ w s
  | .loop at_ w => Sys2Proof.Machine.execLoop at_ w s
  | .lds at_ w => Sys2Proof.Machine.execLds at_ w s
  | .sts at_ w => Sys2Proof.Machine.execSts at_ w s
  | .dld at_ w => Sys2Proof.Machine.execDld at_ w s
  | .dset at_ w => Sys2Proof.Machine.execDset at_ w s
  | .endStream at_ w => Sys2Proof.Machine.execEndStream at_ w s
  | .bcset at_ w => Sys2Proof.Machine.execBcset at_ w s
  | .bcinc at_ w => Sys2Proof.Machine.execBcinc at_ w s
  | .bcwait at_ w => Sys2Proof.Machine.execBcwait at_ w s
  | .fence at_ w => Sys2Proof.Machine.execFence at_ w s
  | .gfence at_ w => Sys2Proof.Machine.execGfence at_ w s
  | .iflush at_ w => Sys2Proof.Machine.execIflush at_ w s
  | .event at_ w => Sys2Proof.Machine.execEvent at_ w s
  | .copy at_ w => Sys2Proof.Machine.execCopy at_ w s
  | .copyt at_ w => Sys2Proof.Machine.execCopyt at_ w s
  | .fill at_ w => Sys2Proof.Machine.execFill at_ w s
  | .gather at_ w => Sys2Proof.Machine.execGather at_ w s
  | .scatter at_ w => Sys2Proof.Machine.execScatter at_ w s
  | .prefetch at_ w => Sys2Proof.Machine.execPrefetch at_ w s
  | .mm at_ w => Sys2Proof.Machine.execMm at_ w s
  | .mmacc at_ w => Sys2Proof.Machine.execMmacc at_ w s
  | .mmrs at_ w => Sys2Proof.Machine.execMmrs at_ w s
  | .mmag at_ w => Sys2Proof.Machine.execMmag at_ w s
  | .conv at_ w => Sys2Proof.Machine.execConv at_ w s
  | .convg at_ w => Sys2Proof.Machine.execConvg at_ w s
  | .convbd at_ w => Sys2Proof.Machine.execConvbd at_ w s
  | .convbw at_ w => Sys2Proof.Machine.execConvbw at_ w s
  | .pool at_ w => Sys2Proof.Machine.execPool at_ w s
  | .vbin at_ w => Sys2Proof.Machine.execVbin at_ w s
  | .vfma at_ w => Sys2Proof.Machine.execVfma at_ w s
  | .vun at_ w => Sys2Proof.Machine.execVun at_ w s
  | .vcvt at_ w => Sys2Proof.Machine.execVcvt at_ w s
  | .norm at_ w => Sys2Proof.Machine.execNorm at_ w s
  | .smax at_ w => Sys2Proof.Machine.execSmax at_ w s
  | .minv at_ w => Sys2Proof.Machine.execMinv at_ w s
  | .tfn at_ w => Sys2Proof.Machine.execTfn at_ w s
  | .tder at_ w => Sys2Proof.Machine.execTder at_ w s
  | .tload at_ w => Sys2Proof.Machine.execTload at_ w s
  | .rsum at_ w => Sys2Proof.Machine.execRsum at_ w s
  | .rmax at_ w => Sys2Proof.Machine.execRmax at_ w s
  | .rmin at_ w => Sys2Proof.Machine.execRmin at_ w s
  | .rssq at_ w => Sys2Proof.Machine.execRssq at_ w s
  | .qnt at_ w => Sys2Proof.Machine.execQnt at_ w s
  | .dqnt at_ w => Sys2Proof.Machine.execDqnt at_ w s
  | .updApply at_ w => Sys2Proof.Machine.execUpdApply at_ w s
  | .updNorm at_ w => Sys2Proof.Machine.execUpdNorm at_ w s
  | .updPack at_ w => Sys2Proof.Machine.execUpdPack at_ w s
  | .updFencePass at_ iseq => Sys2Proof.Machine.execUpdFencePass at_ iseq s
  | .reqnt at_ w => Sys2Proof.Machine.execReqnt at_ w s
  | .rs at_ w => Sys2Proof.Machine.execRs at_ w s
  | .ag at_ w => Sys2Proof.Machine.execAg at_ w s
  | .ar at_ w => Sys2Proof.Machine.execAr at_ w s
  | .send at_ w => Sys2Proof.Machine.execSend at_ w s
  | .recv at_ w => Sys2Proof.Machine.execRecv at_ w s
  | .pull at_ w => Sys2Proof.Machine.execPull at_ w s
  | .rel at_ w => Sys2Proof.Machine.execRel at_ w s
  | .amax at_ w => Sys2Proof.Machine.execAmax at_ w s
  | .fprint at_ w => Sys2Proof.Machine.execFprint at_ w s
  | .cntrd at_ w => Sys2Proof.Machine.execCntrd at_ w s
  | .flagrd at_ w => Sys2Proof.Machine.execFlagrd at_ w s
  | .instructionBlockFetch at_ block => Sys2Proof.Machine.execInstructionBlockFetch at_ block s
  | .instructionWaitSatisfied at_ => Sys2Proof.Machine.execInstructionWaitSatisfied at_ s
  | .fenceWatchdogExpiry at_ => Sys2Proof.Machine.execFenceWatchdogExpiry at_ s
  | .tileClaim at_ iseq cluster core => Sys2Proof.Machine.execTileClaim at_ iseq cluster core s
  | .tileEnd at_ iseq tile core err => Sys2Proof.Machine.execTileEnd at_ iseq tile core err s
  | .instructionComplete at_ iseq => Sys2Proof.Machine.execInstructionComplete at_ iseq s
  | .rd h ecc row => Sys2Proof.Machine.execRd h ecc row s
  | .wr h data ecc row => Sys2Proof.Machine.execWr h data ecc row s
  | .wrp h mask data ecc row => Sys2Proof.Machine.execWrp h mask data ecc row s
  | .radd h rec => Sys2Proof.Machine.execRadd h rec s
  | .pois h tag => Sys2Proof.Machine.execPois h tag s
  | .inv h => Sys2Proof.Machine.execInv h s
  | .cnt h target ctx inc => Sys2Proof.Machine.execCnt h target ctx inc s
  | .evt h rec => Sys2Proof.Machine.execEvt h rec s
  | .rdata h data => Sys2Proof.Machine.execRdata h data s
  | .chk h crc lstate contrib => Sys2Proof.Machine.execChk h crc lstate contrib s
  | .ack h => Sys2Proof.Machine.execAck h s
  | .nack h => Sys2Proof.Machine.execNack h s
  | .disc h num => Sys2Proof.Machine.execDisc h num s
  | .dack h error => Sys2Proof.Machine.execDack h error s
  | .accd h data => Sys2Proof.Machine.execAccd h data s
  | .accc h kind gid opseq count => Sys2Proof.Machine.execAccc h kind gid opseq count s
  | .patrolScrub addr ecc row => Sys2Proof.Machine.execPatrolScrub addr ecc row s
  | .rowTrackerClear stack => Sys2Proof.Machine.execRowTrackerClear stack s
  | .meminitGo  => Sys2Proof.Machine.execMeminitGo s
  | .meminitDone  => Sys2Proof.Machine.execMeminitDone s
  | .ssWayWrite die mode value => Sys2Proof.Machine.execSsWayWrite die mode value s
  | .ssWayChangeDone die => Sys2Proof.Machine.execSsWayChangeDone die s
  | .queuePush q payload parityBad ptrBad => Sys2Proof.Machine.execQueuePush q payload parityBad ptrBad s
  | .queuePop q parityBad ptrBad => Sys2Proof.Machine.execQueuePop q parityBad ptrBad s
  | .queueTailTimeout q => Sys2Proof.Machine.execQueueTailTimeout q s
  | .atzStart site ring => Sys2Proof.Machine.execAtzStart site ring s
  | .atzStop site ring => Sys2Proof.Machine.execAtzStop site ring s
  | .pipelineIdle site ring => Sys2Proof.Machine.execPipelineIdle site ring s
  | .subTailWrite site ring value => Sys2Proof.Machine.execSubTailWrite site ring value s
  | .submissionTake site ring => Sys2Proof.Machine.execSubmissionTake site ring s
  | .sampleStart site ring pos => Sys2Proof.Machine.execSampleStart site ring pos s
  | .workBudgetExceeded site ring pos => Sys2Proof.Machine.execWorkBudgetExceeded site ring pos s
  | .sampleResolved site ring pos => Sys2Proof.Machine.execSampleResolved site ring pos s
  | .reserveAssign site ring pos => Sys2Proof.Machine.execReserveAssign site ring pos s
  | .batchPublish site ring => Sys2Proof.Machine.execBatchPublish site ring s
  | .eodFlush site ring => Sys2Proof.Machine.execEodFlush site ring s
  | .liveFrameTake site ring => Sys2Proof.Machine.execLiveFrameTake site ring s
  | .liveFlushTimeout site ring bucket => Sys2Proof.Machine.execLiveFlushTimeout site ring bucket s
  | .atomizerDieFault site unit third => Sys2Proof.Machine.execAtomizerDieFault site unit third s
  | .bridgeModuleRetrain edge mod lane => Sys2Proof.Machine.execBridgeModuleRetrain edge mod lane s
  | .bridgeFlitReplay edge mod lane => Sys2Proof.Machine.execBridgeFlitReplay edge mod lane s
  | .guestMessage site type h mask data sideband rateLimited => Sys2Proof.Machine.execGuestMessage site type h mask data sideband rateLimited s
  | .guestTokenRelease site us => Sys2Proof.Machine.execGuestTokenRelease site us s
  | .guestWindowWrite site k size value => Sys2Proof.Machine.execGuestWindowWrite site k size value s
  | .lnkEnable l => Sys2Proof.Machine.execLnkEnable l s
  | .lnkDisable l => Sys2Proof.Machine.execLnkDisable l s
  | .lnkRetrain l => Sys2Proof.Machine.execLnkRetrain l s
  | .basePage l cap serial port ack lanes => Sys2Proof.Machine.execBasePage l cap serial port ack lanes s
  | .trainingStepTimeout l step => Sys2Proof.Machine.execTrainingStepTimeout l step s
  | .trainingRestart l => Sys2Proof.Machine.execTrainingRestart l s
  | .keepaliveSend l => Sys2Proof.Machine.execKeepaliveSend l s
  | .keepaliveFlit l f => Sys2Proof.Machine.execKeepaliveFlit l f s
  | .dataFlit l f => Sys2Proof.Machine.execDataFlit l f s
  | .idleFlit l f => Sys2Proof.Machine.execIdleFlit l f s
  | .downFlit l f => Sys2Proof.Machine.execDownFlit l f s
  | .laneFailure l lane => Sys2Proof.Machine.execLaneFailure l lane s
  | .linkRecoveryDone l => Sys2Proof.Machine.execLinkRecoveryDone l s
  | .linkRecoveryTimeout l => Sys2Proof.Machine.execLinkRecoveryTimeout l s
  | .keepaliveWindowEnd l seen => Sys2Proof.Machine.execKeepaliveWindowEnd l seen s
  | .groupActivate die part group => Sys2Proof.Machine.execGroupActivate die part group s
  | .groupDeactivate die part group => Sys2Proof.Machine.execGroupDeactivate die part group s
  | .groupActivationTimeout part group => Sys2Proof.Machine.execGroupActivationTimeout part group s
  | .accordMember h m => Sys2Proof.Machine.execAccordMember h m s
  | .accordAbort h => Sys2Proof.Machine.execAccordAbort h s
  | .accordData h data => Sys2Proof.Machine.execAccordData h data s
  | .accordDone h => Sys2Proof.Machine.execAccordDone h s
  | .hdr h digest => Sys2Proof.Machine.execHdr h digest s
  | .grant h => Sys2Proof.Machine.execGrant h s
  | .nrec h rec => Sys2Proof.Machine.execNrec h rec s
  | .fpx h tid gstep fp => Sys2Proof.Machine.execFpx h tid gstep fp s
  | .blkx h tid gstep crcs => Sys2Proof.Machine.execBlkx h tid gstep crcs s
  | .shlPortUp port rate64 x16 reversed failed => Sys2Proof.Machine.execShlPortUp port rate64 x16 reversed failed s
  | .shlPortDown port cause => Sys2Proof.Machine.execShlPortDown port cause s
  | .hostAccessTimeout tag => Sys2Proof.Machine.execHostAccessTimeout tag s
  | .mrd h bytes => Sys2Proof.Machine.execMrd h bytes s
  | .mwr h data => Sys2Proof.Machine.execMwr h data s
  | .mwrp h mask data => Sys2Proof.Machine.execMwrp h mask data s
  | .shlData h pois refused data => Sys2Proof.Machine.execShlData h pois refused data s
  | .cmp h refused => Sys2Proof.Machine.execCmp h refused s
  | .snpi h bad => Sys2Proof.Machine.execSnpi h bad s
  | .snps h bad => Sys2Proof.Machine.execSnps h bad s
  | .jobTake idx bad => Sys2Proof.Machine.execJobTake idx bad s
  | .jobTableScan  => Sys2Proof.Machine.execJobTableScan s
  | .jobStep idx => Sys2Proof.Machine.execJobStep idx s
  | .stepStart part ctx => Sys2Proof.Machine.execStepStart part ctx s
  | .jobBist idx => Sys2Proof.Machine.execJobBist idx s
  | .jobExport idx => Sys2Proof.Machine.execJobExport idx s
  | .jobReplay idx => Sys2Proof.Machine.execJobReplay idx s
  | .jobScrub idx => Sys2Proof.Machine.execJobScrub idx s
  | .jobFlash idx obj => Sys2Proof.Machine.execJobFlash idx obj s
  | .jobAbort idx => Sys2Proof.Machine.execJobAbort idx s
  | .longOperationStart op => Sys2Proof.Machine.execLongOperationStart op s
  | .longOperationUnitDone op units => Sys2Proof.Machine.execLongOperationUnitDone op units s
  | .bistClusterDone cluster failed => Sys2Proof.Machine.execBistClusterDone cluster failed s
  | .longOperationEnd op how => Sys2Proof.Machine.execLongOperationEnd op how s
  | .jobtabEnable value => Sys2Proof.Machine.execJobtabEnable value s
  | .jobtabDisable value => Sys2Proof.Machine.execJobtabDisable value s
  | .evtRingEnable value => Sys2Proof.Machine.execEvtRingEnable value s
  | .evtHeadWrite value => Sys2Proof.Machine.execEvtHeadWrite value s
  | .quantumExpiry part => Sys2Proof.Machine.execQuantumExpiry part s
  | .preemptionDrained part => Sys2Proof.Machine.execPreemptionDrained part s
  | .partitionEnable part => Sys2Proof.Machine.execPartitionEnable part s
  | .partitionEnabled part => Sys2Proof.Machine.execPartitionEnabled part s
  | .partitionDisable part => Sys2Proof.Machine.execPartitionDisable part s
  | .partitionDisableDone part => Sys2Proof.Machine.execPartitionDisableDone part s
  | .shlCtlWrite value => Sys2Proof.Machine.execShlCtlWrite value s
  | .shlHwinWrite k ctl value => Sys2Proof.Machine.execShlHwinWrite k ctl value s
  | .cluStepWrite cluster value => Sys2Proof.Machine.execCluStepWrite cluster value s
  | .cluSeedWrite cluster value => Sys2Proof.Machine.execCluSeedWrite cluster value s
  | .cluClipWrite cluster value => Sys2Proof.Machine.execCluClipWrite cluster value s
  | .sillageEnable part value => Sys2Proof.Machine.execSillageEnable part value s
  | .sillageHeadWrite part value => Sys2Proof.Machine.execSillageHeadWrite part value s
  | .comparatorGroupEnd at_ => Sys2Proof.Machine.execComparatorGroupEnd at_ s
  | .replayRecord  => Sys2Proof.Machine.execReplayRecord s
  | .getVersion port => Sys2Proof.Machine.execGetVersion port s
  | .getCapabilities port => Sys2Proof.Machine.execGetCapabilities port s
  | .negotiateAlgorithms port asymOk hashOk measOk => Sys2Proof.Machine.execNegotiateAlgorithms port asymOk hashOk measOk s
  | .getDigests port => Sys2Proof.Machine.execGetDigests port s
  | .getCertificate port slot offset length => Sys2Proof.Machine.execGetCertificate port slot offset length s
  | .challenge port slot nonce summary => Sys2Proof.Machine.execChallenge port slot nonce summary s
  | .getMeasurements port index signed nonce => Sys2Proof.Machine.execGetMeasurements port index signed nonce s
  | .deploy port len => Sys2Proof.Machine.execDeploy port len s
  | .revoke port len => Sys2Proof.Machine.execRevoke port len s
  | .returnLife port len => Sys2Proof.Machine.execReturnLife port len s
  | .debugToken port len => Sys2Proof.Machine.execDebugToken port len s
  | .debugRequest port level => Sys2Proof.Machine.execDebugRequest port level s
  | .debugScrubDone  => Sys2Proof.Machine.execDebugScrubDone s
  | .newNonce port => Sys2Proof.Machine.execNewNonce port s
  | .nonceExpiry  => Sys2Proof.Machine.execNonceExpiry s
  | .closeSession port => Sys2Proof.Machine.execCloseSession port s
  | .sessionDurationExpiry  => Sys2Proof.Machine.execSessionDurationExpiry s
  | .recoveryLoad obj => Sys2Proof.Machine.execRecoveryLoad obj s
  | .recoveryLoadDone readBackOk => Sys2Proof.Machine.execRecoveryLoadDone readBackOk s
  | .bypass  => Sys2Proof.Machine.execBypass s
  | .idcode  => Sys2Proof.Machine.execIdcode s
  | .samplePreload pins => Sys2Proof.Machine.execSamplePreload pins s
  | .extest pins => Sys2Proof.Machine.execExtest pins s
  | .dbgMbx value hostSameCycle => Sys2Proof.Machine.execDbgMbx value hostSameCycle s
  | .dbgData value => Sys2Proof.Machine.execDbgData value s
  | .tapReset  => Sys2Proof.Machine.execTapReset s
  | .powerUp facts => Sys2Proof.Machine.execPowerUp facts s
  | .powerDown  => Sys2Proof.Machine.execPowerDown s
  | .warmResetAssert  => Sys2Proof.Machine.execWarmResetAssert s
  | .warmResetRelease facts => Sys2Proof.Machine.execWarmResetRelease facts s
  | .clusterReset src cluster => Sys2Proof.Machine.execClusterReset src cluster s
  | .clusterResetDone cluster failed => Sys2Proof.Machine.execClusterResetDone cluster failed s
  | .partitionReset src part => Sys2Proof.Machine.execPartitionReset src part s
  | .hubRestart src => Sys2Proof.Machine.execHubRestart src s
  | .hubRestartDone idents => Sys2Proof.Machine.execHubRestartDone idents s
  | .controlProcessorWatchdog  => Sys2Proof.Machine.execControlProcessorWatchdog s
  | .heartbeatTick  => Sys2Proof.Machine.execHeartbeatTick s
  | .drydownEnter src => Sys2Proof.Machine.execDrydownEnter src s
  | .drydownExit src => Sys2Proof.Machine.execDrydownExit src s
  | .drydownWake port => Sys2Proof.Machine.execDrydownWake port s
  | .sensorRead sensor temp present => Sys2Proof.Machine.execSensorRead sensor temp present s
  | .clusterThrottle cluster => Sys2Proof.Machine.execClusterThrottle cluster s
  | .clusterUnthrottle cluster => Sys2Proof.Machine.execClusterUnthrottle cluster s
  | .tripSlowOvercurrent  => Sys2Proof.Machine.execTripSlowOvercurrent s
  | .tripFastOvercurrent  => Sys2Proof.Machine.execTripFastOvercurrent s
  | .tripUnderVoltage  => Sys2Proof.Machine.execTripUnderVoltage s
  | .tripOverVoltage  => Sys2Proof.Machine.execTripOverVoltage s
  | .tripPowerStage stage => Sys2Proof.Machine.execTripPowerStage stage s
  | .tripLatchClear  => Sys2Proof.Machine.execTripLatchClear s
  | .inputRecovery facts => Sys2Proof.Machine.execInputRecovery facts s
  | .coreEngineParity cluster core => Sys2Proof.Machine.execCoreEngineParity cluster core s
  | .tileWatchdog cluster core => Sys2Proof.Machine.execTileWatchdog cluster core s
  | .sequencerDisagreement part strm pc => Sys2Proof.Machine.execSequencerDisagreement part strm pc s
  | .accordUnitFault die => Sys2Proof.Machine.execAccordUnitFault die s
  | .securityControllerFault detail => Sys2Proof.Machine.execSecurityControllerFault detail s
  | .hubSwitchUncorrectable vc port => Sys2Proof.Machine.execHubSwitchUncorrectable vc port s
  | .counterClearSelected  => Sys2Proof.Machine.execCounterClearSelected s
  | .counterClearAll  => Sys2Proof.Machine.execCounterClearAll s
  | .thresholdRearm k => Sys2Proof.Machine.execThresholdRearm k s
  | .i3cRegisterWrite bus offset data => Sys2Proof.Machine.execI3cRegisterWrite bus offset data s
  | .setdasa t addr => Sys2Proof.Machine.execSetdasa t addr s
  | .entdaa t addr => Sys2Proof.Machine.execEntdaa t addr s
  | .setnewda t addr => Sys2Proof.Machine.execSetnewda t addr s
  | .rstdaa bus => Sys2Proof.Machine.execRstdaa bus s
  | .getpid t => Sys2Proof.Machine.execGetpid t s
  | .getbcr t => Sys2Proof.Machine.execGetbcr t s
  | .getdcr t => Sys2Proof.Machine.execGetdcr t s
  | .getstatus t => Sys2Proof.Machine.execGetstatus t s
  | .enec t enable => Sys2Proof.Machine.execEnec t enable s
  | .setEndpointId eid => Sys2Proof.Machine.execSetEndpointId eid s
  | .getTid  => Sys2Proof.Machine.execGetTid s
  | .getPldmVersion type => Sys2Proof.Machine.execGetPldmVersion type s
  | .getPldmTypes  => Sys2Proof.Machine.execGetPldmTypes s
  | .getPldmCommands type => Sys2Proof.Machine.execGetPldmCommands type s
  | .getPdrRepositoryInfo  => Sys2Proof.Machine.execGetPdrRepositoryInfo s
  | .getPdr handle => Sys2Proof.Machine.execGetPdr handle s
  | .getSensorReading sensor => Sys2Proof.Machine.execGetSensorReading sensor s
  | .getFruRecordTableMetadata  => Sys2Proof.Machine.execGetFruRecordTableMetadata s
  | .getFruRecordTable  => Sys2Proof.Machine.execGetFruRecordTable s
  | .ppsEdge  => Sys2Proof.Machine.execPpsEdge s
  | .ptpHoldoverTimeout  => Sys2Proof.Machine.execPtpHoldoverTimeout s
  | .ptpEnable value => Sys2Proof.Machine.execPtpEnable value s
  | .registerWrite src addr width value => Sys2Proof.Machine.execRegisterWrite src addr width value s
  | .reservedOpcode at_ w => Sys2Proof.Machine.execReservedOpcode at_ w s
  | .recoveryPattern l => Sys2Proof.Machine.execRecoveryPattern l s
  | .softRowRepairDone stack row => Sys2Proof.Machine.execSoftRowRepairDone stack row s
  | .moduleRetrainDone edge mod ok => Sys2Proof.Machine.execModuleRetrainDone edge mod ok s
  | .atomizerDieResetDone site => Sys2Proof.Machine.execAtomizerDieResetDone site s
  | .debugHalt part ctx => Sys2Proof.Machine.execDebugHalt part ctx s
  | .debugResume part ctx => Sys2Proof.Machine.execDebugResume part ctx s
  | .debugMemoryWrite space addr data => Sys2Proof.Machine.execDebugMemoryWrite space addr data s

end Sys2Proof.Machine
end

