-- ==== Sys2Proof/Safety.lean ====
section
/-! DEFINITION. The terms that statements speak in: when an instruction goes on, and what a command leaves
alone. -/

namespace Sys2Proof.Machine

/-- The sequencer takes `w` at the PC of stream `a` (R112), its wait is met (R133), and every check of the
word passes: opcode `op`, operand fields `u`, further checks `extra` (R121, R123). -/
structure Ready (s : State) (a : StreamId) (w : InstrWord) (op : Nat) (u : Uses) (extra : List (Option SFault)) : Prop where
  taken : accepts s a w = true
  opcode : iOp w = op
  met : wenMet s a w = true
  checks : firstFault (fieldCheck w u :: extra) = none

/-- Only what the writing of records and counters touches differs: the event ring and its registers, the counters and
their threshold slots, the error log, lines of host memory and what is sent (R481, R592, R596, R602, R604). -/
structure Reported (s t : State) : Prop where
  rest : t = { s with regs := t.regs, hub := t.hub, out := t.out }
  regs : ∀ a, a ≠ rEvtCtl → a ≠ rEvtStat → (∀ k, k < 64 → a ≠ rThrSel k) → t.reg a = s.reg a
  hub : t.hub = { t.hub with jobs := s.hub.jobs, half := s.hub.half, dead := s.hub.dead, lost := s.hub.lost,
                             rep := s.hub.rep, obj := s.hub.obj }

/-- Of all contexts only `a.part`, `a.ctx` differs; of that one only stream `a.strm`, the descriptors and the
barrier counters. -/
structure OnlyStream (s t : State) (a : StreamId) : Prop where
  ctxs : ∀ k, k ≠ ctxKey a.part a.ctx → smGet emptyCtx t.ctxs k = smGet emptyCtx s.ctxs k
  strms : ∀ k, k ≠ a.strm → (ctxAt t a).strm k = (ctxAt s a).strm k
  ctx : (ctxAt t a).started = (ctxAt s a).started ∧ (ctxAt t a).fault = (ctxAt s a).fault ∧
    (ctxAt t a).job = (ctxAt s a).job ∧ (ctxAt t a).tslot = (ctxAt s a).tslot ∧
    (ctxAt t a).fences = (ctxAt s a).fences ∧ (ctxAt t a).pend = (ctxAt s a).pend

/-- Nothing but contexts and the issue trace differs: every register, every byte of memory, every queue and
all else is as before. -/
def OnlyCtxs (s t : State) : Prop := t = { s with ctxs := t.ctxs, trace := t.trace }

/-- Nothing but contexts, the issue trace and the lines that the caches hold differs: no byte of memory does. -/
def OnlyIssue (s t : State) : Prop := t = { s with ctxs := t.ctxs, trace := t.trace, cache := t.cache }

/-- The instruction has issued and completed: the PC is `npc`, the issue count is one up (R92), the
signal of SEN has counted (R133), nothing joined or left the stream's instructions in flight. -/
structure Completed (s t : State) (a : StreamId) (w : InstrWord) (npc : Nat) : Prop where
  pc : (strmAt t a).pc = npc
  iseq : (strmAt t a).iseq = (strmAt s a).iseq + 1
  running : (strmAt t a).st = .issuing
  infl : (strmAt t a).infl = (strmAt s a).infl

/-- The barrier counters after the signal of SEN (R133). -/
def signalled (s : State) (a : StreamId) (w : InstrWord) (n : Nat) : Half :=
  if iSen w = true ∧ n = iSbc w then bcOf (ctxAt s a) n + 1 else bcOf (ctxAt s a) n

/-- A scalar instruction has completed with the value `v` for sD: only sD differs among the scalar registers, s0
reads 0 (R106, R128). -/
structure ScalarDone (s t : State) (a : StreamId) (w : InstrWord) (v : Word) : Prop where
  frame : OnlyStream s t a
  rest : OnlyCtxs s t
  done : Completed s t a w ((strmAt s a).pc + 1)
  regs : ∀ n, sregOf (strmAt t a) n = if n = iSd w ∧ n ≠ 0 then v else sregOf (strmAt s a) n
  descs : (ctxAt t a).td = (ctxAt s a).td
  counters : ∀ n, bcOf (ctxAt t a) n = signalled s a w n

/-- The fence fields of group `g` as the context knows them once the records that the instruction needs are read
(R252, R271, R272). -/
def fenceSeen (s : State) (a : StreamId) (tds : List DescWord) (w : InstrWord) (g : Nat) : Option FenceG :=
  match fenceOf (ctxAt s a) g with
  | some f => some f
  | none => if g ∈ fenceNeeds a tds w then (pgRecord s a.part g).map pgFence else none

/-- The instruction counts as a reader of a group with these fence fields (R271). -/
def countsIn (a : StreamId) (tds : List DescWord) (w : InstrWord) (g : Nat) (f : FenceG) : Bool :=
  decide (a.strm = .F) && readsWq f g (maskDescs tds (roles w).1)

/-- Only fence fields of the context and the lines that the caches hold differ: those of each group that the instruction needs are held, and its readers
have counted (R271). -/
structure FencesCounted (s t : State) (a : StreamId) (w : InstrWord) (tds : List DescWord) : Prop where
  rest : t = { s with ctxs := t.ctxs, cache := t.cache }
  ctxs : ∀ k, k ≠ ctxKey a.part a.ctx → smGet emptyCtx t.ctxs k = smGet emptyCtx s.ctxs k
  ctx : ctxAt t a = { ctxAt s a with fences := (ctxAt t a).fences }
  fences : ∀ g, fenceOf (ctxAt t a) g = (fenceSeen s a tds w g).map fun f =>
    if countsIn a tds w g f then { f with rc := f.rc + 1 } else f

/-- A tensor instruction issues: it is ready, it waits for no earlier one (R115), every check passes (R123), the
fence unit lets it by (R271) and the PC stays in the window. -/
structure CanIssue (s : State) (a : StreamId) (w : InstrWord) (o : TOp) : Prop where
  ready : Ready s a w o.op o.uses o.word
  free : tensorWait s a w (o.capture s a w) = false
  checks : firstFault (o.unit s :: descChecks s (o.capture s a w) o.uses.tds o.wr ++ o.checks s (o.capture s a w)) = none
  fence : ∀ g, g ∈ fenceNeeds a (o.capture s a w) w → ∃ f, fenceSeen s a (o.capture s a w) w g = some f ∧
    (countsIn a (o.capture s a w) w g f = true → f.lock = false ∧ f.rc < 65535)
  window : (strmAt s a).pc + 1 < (strmAt s a).plen

/-- The instruction is in flight with the descriptors `tds`, sA and sB captured (R110): the PC and the issue count are
one up, the readers of its groups have counted (R271), and of all else only the record in flight is new. -/
structure Issued (s t : State) (a : StreamId) (w : InstrWord) (tds : List DescWord) (aux : List Nat) (n : Nat) : Prop where
  ctxs : ∀ k, k ≠ ctxKey a.part a.ctx → smGet emptyCtx t.ctxs k = smGet emptyCtx s.ctxs k
  strms : ∀ k, k ≠ a.strm → (ctxAt t a).strm k = (ctxAt s a).strm k
  ctx : (ctxAt t a).started = (ctxAt s a).started ∧ (ctxAt t a).fault = (ctxAt s a).fault ∧
    (ctxAt t a).job = (ctxAt s a).job ∧ (ctxAt t a).tslot = (ctxAt s a).tslot ∧ (ctxAt t a).pend = (ctxAt s a).pend ∧
    (ctxAt t a).td = (ctxAt s a).td ∧ (ctxAt t a).bc = (ctxAt s a).bc
  fences : ∀ g, fenceOf (ctxAt t a) g = (fenceSeen s a tds w g).map fun f =>
    if countsIn a tds w g f then { f with rc := f.rc + 1 } else f
  strm : (strmAt t a).pc = (strmAt s a).pc + 1 ∧ (strmAt t a).iseq = (strmAt s a).iseq + 1 ∧
    (strmAt t a).st = .issuing ∧ (strmAt t a).regs = (strmAt s a).regs
  infl : (strmAt t a).infl = (strmAt s a).infl ++ [newInFlight s (strmAt s a) w tds aux n]

/-- Where it can issue, the instruction answers a next state in which it is in flight, with the class values `aux` and `n`
tiles, and nothing outside contexts, the issue trace and the caches differs. -/
def Issues (i : Instr) (s : State) (a : StreamId) (w : InstrWord) (o : TOp) (aux : List Nat) (n : Nat) : Prop :=
  CanIssue s a w o → ∃ t, exec i s = .next t ∧ OnlyIssue s t ∧ Issued s t a w (o.capture s a w) aux n

/-- The bytes at the addresses read clean: storage answers, none is poisoned and every block matches its entry (R303). Only
the lines that the caches hold change by such a read (R296). -/
def ReadsClean (s : State) (as : List Nat) (r : Reader) : Prop :=
  verifyRead s as r false = (cacheUse s (r.tag.agent = 1) false as, false)

/-- Stream `a` has stopped with the fault `f` of opcode `op`: its record names the fault, the context and the PC; the
context holds the code; its other streams stand as they stood (R124 to R127). -/
structure Stopped (s t : State) (a : StreamId) (f : SFault) (op : Nat) : Prop where
  rest : t = { s with ctxs := t.ctxs }
  ctxs : ∀ k, k ≠ ctxKey a.part a.ctx → smGet emptyCtx t.ctxs k = smGet emptyCtx s.ctxs k
  strms : ∀ k, k ≠ a.strm → (ctxAt t a).strm k = (ctxAt s a).strm k
  strm : (strmAt t a).st = .faulted ∧ (strmAt t a).pc = (strmAt s a).pc ∧ (strmAt t a).iseq = (strmAt s a).iseq ∧
    (strmAt t a).infl = (strmAt s a).infl ∧ (strmAt t a).regs = (strmAt s a).regs
  record : (strmAt t a).fault = put f.code 0 ||| put f.kind 8 ||| put 1 10 ||| put f.operand 12 ||| put (op % 256) 16 |||
    put a.ctx 24 ||| put ((strmAt s a).pc % 2 ^ 32) 32
  ctx : (ctxAt t a).fault = f.code ∧ (ctxAt t a).started = (ctxAt s a).started ∧ (ctxAt t a).job = (ctxAt s a).job ∧
    (ctxAt t a).td = (ctxAt s a).td ∧ (ctxAt t a).bc = (ctxAt s a).bc

/-- The command stops stream `a` with the fault `f` of opcode `op`; the context's job then ends if nothing of the context is
left in flight (R125). -/
def Stops (i : Instr) (s : State) (a : StreamId) (f : SFault) (op : Nat) : Prop :=
  ∃ t, Stopped s t a f op ∧ exec i s = .next (settle t a.part a.ctx)

/-- A message of the die protocol on virtual channel `vc` is obeyed by the die that it names: no guest sends it, and none is sent a
request (R374, R375, R383, R392). -/
structure Heard (s : State) (h : DieHdr) (vc : Nat) : Prop where
  up : s.up = true
  chan : h.vc.toNat = vc
  dies : h.src.toNat ≤ 10 ∧ h.dst.toNat ≤ 10
  latched : dieReady s h.dst.toNat = true
  guests : guestAt s h.src.toNat = false ∧ (vc = 0 → guestAt s h.dst.toNat = false)

/-- No collective in flight has data on the link, and no ACTIVE group that could lose a route exists. -/
def LinkAlone (s : State) (l : Nat) : Prop :=
  collsOver s l = [] ∧ ∀ q, q ∈ allGroups s → gState (grpRec s q.1 q.2) ≠ 2

/-- Link `l` is lost with `cause`, its port in state `st`: DOWN and the cause stand in LNK_EVENT, and nothing of the
partner remains (R417). -/
structure LinkLost (s t : State) (l cause st : Nat) : Prop where
  rest : t = { s with regs := t.regs, lnks := t.lnks, hub := t.hub, out := t.out }
  state : lnkState t l = st
  event : t.rbit (rLnkEvent l) 0 = true ∧ t.fld (rLnkEvent l) 7 4 = cause
  partner : t.reg (rLnkPartner l) = 0 ∧ t.reg (rLnkPid l) = 0

/-- The port is in electrical idle in state `st`: nothing of the partner remains, no step of training is under way. -/
structure LinkIdle (s t : State) (l st : Nat) : Prop where
  rest : t = { s with regs := t.regs, lnks := t.lnks, out := s.out ++ [.link l 1 []] }
  state : lnkState t l = st
  step : (getLnk t l).step = 0
  partner : t.reg (rLnkPartner l) = 0 ∧ t.reg (rLnkPid l) = 0

/-- The port has begun training under LNK_CTL as it stands: base pages with its capability word, the serial and the link number go
out on every lane (R414, R447). -/
structure LinkTrains (s t : State) (l : Nat) : Prop where
  rest : t = { s with regs := t.regs, lnks := t.lnks, out := t.out }
  state : lnkState t l = 1
  step : (getLnk t l).step = 1 ∧ (getLnk t l).ctl = s.reg (rLnkCtl l)
  sent : t.out = s.out ++ [.link l 0 [(sentCap t l).toNat, Config.serial.toNat, l]]

/-! ### The bounds of the built-in tables (R238, Table 5.10)

The coefficients are free constants of Config. `TableBounds` says what the manual says of them: a claim about the accuracy
of TFN or TDER takes it as a premise. -/

/-- The real number of a finite value. -/
noncomputable def Val.real : Val → ℝ
  | .fin neg m e => (if neg then -1 else 1) * (m : ℝ) * (2 : ℝ) ^ e
  | _ => 0

noncomputable def stdNormal (x : ℝ) : ℝ := Real.exp (-(x * x) / 2) / Real.sqrt (2 * Real.pi)
noncomputable def normalCdf (x : ℝ) : ℝ := ∫ t in Set.Iic x, stdNormal t
noncomputable def logistic (x : ℝ) : ℝ := 1 / (1 + Real.exp (-x))
noncomputable def errorFn (x : ℝ) : ℝ := 2 / Real.sqrt Real.pi * ∫ t in (0 : ℝ)..x, Real.exp (-(t * t))

/-- The function of FUNC 0 to 8, or its derivative. -/
noncomputable def exactFn (fn : Nat) (der : Bool) (x : ℝ) : ℝ :=
  match fn, der with
  | 0, false => x * normalCdf x
  | 0, true => normalCdf x + x * stdNormal x
  | 1, false => x * logistic x
  | 1, true => logistic x + x * logistic x * (1 - logistic x)
  | 2, false => Real.tanh x
  | 2, true => 1 - Real.tanh x ^ 2
  | 3, false => logistic x
  | 3, true => logistic x * (1 - logistic x)
  | 4, _ => Real.exp x
  | 5, false => Real.log x
  | 5, true => 1 / x
  | 6, false => 1 / Real.sqrt x
  | 6, true => -(1 / (2 * x * Real.sqrt x))
  | 7, false => Real.log (1 + Real.exp x)
  | 7, true => logistic x
  | 8, false => errorFn x
  | _, _ => 2 / Real.sqrt Real.pi * Real.exp (-(x * x))

/-- The bound at an exact result `y`: absolute, relative, or of the logarithm. -/
noncomputable def tableBound (fn : Nat) (der : Bool) (y : ℝ) : ℝ :=
  let e := fun (k : ℤ) => (2 : ℝ) ^ (-k)
  match fn, der with
  | 0, d | 1, d => if d then e 17 else e 18
  | 2, d | 8, d => if d then e 19 else e 20
  | 3, d => if d then e 20 else e 21
  | 4, _ => e 18 * |y|
  | 5, false => e 20 * max 1 |y|
  | 5, true => e 20 * |y|
  | 6, d => (if d then e 20 else e 21) * |y|
  | _, d => if d then e 20 else e 18

/-- Inputs of the function, and for a relative bound results in the normal range of FP32. -/
def inDomain (fn : Nat) (der : Bool) (x : ℝ) : Prop :=
  ((fn = 5 ∨ fn = 6) → 0 < x) ∧
    ((fn = 4 ∨ fn = 6 ∨ (fn = 5 ∧ der = true)) →
      (2 : ℝ) ^ (-126 : ℤ) ≤ |exactFn fn der x| ∧ |exactFn fn der x| < (2 : ℝ) ^ (128 : ℤ))

/-- The value before the output rounding stays within the bound of Table 5.10, for every finite FP32 input. -/
def TableBounds : Prop :=
  ∀ (fn : Nat) (der : Bool) (code : Half), fn ≤ 8 → (decodeVal 0 code.toNat).isFin = true →
    inDomain fn der (decodeVal 0 code.toNat).real →
    |((builtin fn der).eval (decodeVal 0 code.toNat)).real - exactFn fn der (decodeVal 0 code.toNat).real| ≤
      tableBound fn der (exactFn fn der (decodeVal 0 code.toNat).real)

end Sys2Proof.Machine
end

