-- ==== Sys2Proof/Certificates/Slice0/Obligations.lean ====
section
/-! DEFINITION. The statements for the provers. -/

open Sys2Proof Sys2Proof.Machine

/-- A step takes the command at the front of the queue and is that command's effect on the state with the rest of
the queue; every command, in every state, is answered by a next state. An empty queue lets one cycle of the always-on clock pass: 40 ns at 25 MHz (the model's choice). -/
def Obligations.StepRunsFront : Prop :=
  (∀ (c : Instr) (cs : List Instr) (s : State), step (s.withPending (c :: cs)) = exec c (s.withPending cs)) ∧
  (∀ (c : Instr) (s : State), ∃ t, exec c s = .next t) ∧
  ∀ s : State, s.pending = [] → step s = .next { s with clk := s.clk + 1, fab := s.fab + 40 }

/-- The scalar instructions of Table 3.5 that write sD: once taken, with their wait met and every check passed, each
completes with the result the table gives, and of all scalar registers only sD differs (R128). -/
def Obligations.ScalarResults : Prop :=
  ∀ (a : StreamId) (w : InstrWord) (s : State), (strmAt s a).pc + 1 < (strmAt s a).plen →
    let x := sregOf (strmAt s a) (iSa w)
    let y := sregOf (strmAt s a) (iSb w)
    let imm : Word := (w.extractLsb 127 80).signExtend 64
    let n := xF w 5 0
    (Ready s a w 0x01 { tds := [], sd := true, x := 2 ^ 48 - 1 } [] →
      ∃ t, exec (.li a w) s = .next t ∧ ScalarDone s t a w imm) ∧
    (Ready s a w 0x02 { tds := [], sd := true, sa := true, sb := true } [] →
      ∃ t, exec (.add a w) s = .next t ∧ ScalarDone s t a w (x + y)) ∧
    (Ready s a w 0x03 { tds := [], sd := true, sa := true, x := 2 ^ 48 - 1 } [] →
      ∃ t, exec (.addi a w) s = .next t ∧ ScalarDone s t a w (x + imm)) ∧
    (Ready s a w 0x04 { tds := [], sd := true, sa := true, sb := true } [] →
      ∃ t, exec (.sub a w) s = .next t ∧ ScalarDone s t a w (x - y)) ∧
    (Ready s a w 0x05 { tds := [], sd := true, sa := true, sb := true } [] →
      ∃ t, exec (.mul a w) s = .next t ∧ ScalarDone s t a w (x * y)) ∧
    (Ready s a w 0x06 { tds := [], sd := true, sa := true, sb := true, x := 3 } [] →
      ∃ t, exec (.logic a w) s = .next t ∧ ScalarDone s t a w
        (if xF w 1 0 = 0 then x &&& y else if xF w 1 0 = 1 then x ||| y else if xF w 1 0 = 2 then x ^^^ y
          else x &&& ~~~ y)) ∧
    (Ready s a w 0x08 { tds := [], sd := true, sa := true, x := 255 } [need (xF w 7 6 ≠ 3) 0x02 0 9] →
      ∃ t, exec (.shift a w) s = .next t ∧ ScalarDone s t a w
        (if xF w 7 6 = 0 then x <<< n else if xF w 7 6 = 1 then x >>> n else x.sshiftRight n))

/-- NOP completes and changes nothing but the PC, the issue count and the signal it carries; RDSPR reads the special
value that X names (Table 3.1, R107). -/
def Obligations.NopAndSpecialValues : Prop :=
  ∀ (a : StreamId) (w : InstrWord) (s : State), (strmAt s a).pc + 1 < (strmAt s a).plen →
    (Ready s a w 0x00 { tds := [] } [] →
      ∃ t, exec (.nop a w) s = .next t ∧ OnlyStream s t a ∧ OnlyCtxs s t ∧ Completed s t a w ((strmAt s a).pc + 1) ∧
        (∀ n, sregOf (strmAt t a) n = sregOf (strmAt s a) n) ∧ (ctxAt t a).td = (ctxAt s a).td ∧
        ∀ n, bcOf (ctxAt t a) n = signalled s a w n) ∧
    (Ready s a w 0x07 { tds := [], sd := true, x := 255 } [need (xF w 7 0 ≤ 8) 0x02 0 9] →
      ∃ t v, exec (.rdspr a w) s = .next t ∧ ScalarDone s t a w v ∧
        (xF w 7 0 = 0 → v = BitVec.ofNat 64 a.part) ∧
        (xF w 7 0 = 1 → v = BitVec.ofNat 64 a.ctx) ∧
        (xF w 7 0 = 2 → v = BitVec.ofNat 64 (strmNo a.strm)) ∧
        (xF w 7 0 = 3 → v = BitVec.ofNat 64 (partClusters s a.part).length) ∧
        (xF w 7 0 = 4 → v = BitVec.ofNat 64 (leadCluster s a.part)) ∧
        (xF w 7 0 = 5 → v = s.reg (rStep (leadCluster s a.part))) ∧
        (xF w 7 0 = 6 → v = s.reg (rSeed (leadCluster s a.part))) ∧
        (xF w 7 0 = 7 → v = (strmAt s a).iseq.setWidth 64) ∧
        (xF w 7 0 = 8 → v = s.reg rAcv))

/-- BR and LOOP go to PC + X[47:16] where the condition holds and the target lies in the program window, and to the next
instruction where it does not; LOOP counts sA down first. Any other X[3:0] and LOOP with SA = 0 stop the stream with code 0x02,
a target outside the window with 0x0F, and the branch is not taken: the PC and sA stay (R129, R125). -/
def Obligations.BranchTargets : Prop :=
  ∀ (a : StreamId) (w : InstrWord) (s : State),
    let x := sregOf (strmAt s a) (iSa w)
    let y := sregOf (strmAt s a) (iSb w)
    let target : Int := (strmAt s a).pc + sext 32 (xF w 47 16)
    let inside := 0 ≤ target ∧ target < (strmAt s a).plen
    let cond := fun n : Nat => if n = 0 then True else if n = 1 then x = y else if n = 2 then x ≠ y
      else if n = 3 then x.toNat < y.toNat else if n = 4 then y.toNat ≤ x.toNat
      else if n = 5 then x.toInt < y.toInt else y.toInt ≤ x.toInt
    let br : Uses := { tds := [], sa := true, sb := true, x := 0xFFFFFFFF000F }
    let lp : Uses := { tds := [], sa := true, x := 0xFFFFFFFF0000 }
    (Ready s a w 0x09 br [need (xF w 3 0 ≤ 6) 0x02 0 9] → (cond (xF w 3 0) → inside) →
      (¬ cond (xF w 3 0) → (strmAt s a).pc + 1 < (strmAt s a).plen) →
      ∃ t npc, exec (.br a w) s = .next t ∧ OnlyStream s t a ∧ OnlyCtxs s t ∧ Completed s t a w npc ∧
        (cond (xF w 3 0) → (npc : Int) = target) ∧ (¬ cond (xF w 3 0) → npc = (strmAt s a).pc + 1) ∧
        (strmAt t a).regs = (strmAt s a).regs ∧ (ctxAt t a).td = (ctxAt s a).td ∧
        ∀ n, bcOf (ctxAt t a) n = signalled s a w n) ∧
    (Ready s a w 0x09 br [need (xF w 3 0 ≤ 6) 0x02 0 9] → cond (xF w 3 0) → ¬ inside →
      Stops (.br a w) s a ⟨0x0F, 1, 9⟩ 0x09) ∧
    (Ready s a w 0x09 br [] → 6 < xF w 3 0 → Stops (.br a w) s a ⟨0x02, 0, 9⟩ 0x09) ∧
    (Ready s a w 0x0A lp [need (iSa w ≠ 0) 0x02 0 6] → (x - 1 ≠ 0 → inside) →
      (x - 1 = 0 → (strmAt s a).pc + 1 < (strmAt s a).plen) →
      ∃ t npc, exec (.loop a w) s = .next t ∧ OnlyStream s t a ∧ OnlyCtxs s t ∧ Completed s t a w npc ∧
        (x - 1 ≠ 0 → (npc : Int) = target) ∧ (x - 1 = 0 → npc = (strmAt s a).pc + 1) ∧
        (∀ n, sregOf (strmAt t a) n = if n = iSa w ∧ n ≠ 0 then x - 1 else sregOf (strmAt s a) n) ∧
        (ctxAt t a).td = (ctxAt s a).td ∧ ∀ n, bcOf (ctxAt t a) n = signalled s a w n) ∧
    (Ready s a w 0x0A lp [need (iSa w ≠ 0) 0x02 0 6] → x - 1 ≠ 0 → ¬ inside → Stops (.loop a w) s a ⟨0x0F, 1, 9⟩ 0x0A) ∧
    (Ready s a w 0x0A lp [] → iSa w = 0 → Stops (.loop a w) s a ⟨0x02, 0, 6⟩ 0x0A)

/-- LDS loads the 64-bit word at sA + sign-extended X, STS stores sB there: an address that is a multiple of 8 in the
partition, no earlier instruction in flight that meets it, and for LDS storage and no poisoned line (R130). The line that
either uses may enter a cache way (R296); nothing else of the machine changes. -/
def Obligations.ScalarMemory : Prop :=
  ∀ (a : StreamId) (w : InstrWord) (s : State), (strmAt s a).pc + 1 < (strmAt s a).plen →
    let ad := (sregOf (strmAt s a) (iSa w) + (w.extractLsb 127 80).signExtend 64).toNat
    ad % 8 = 0 → rangeInPart s a.part ad 8 = true → (strmAt s a).infl = [] →
    (Ready s a w 0x0B { tds := [], sd := true, sa := true, x := 2 ^ 48 - 1 } [] →
      (∀ i, i < 8 → lstAt s (ad + i) ≠ 2 ∧ addrNack s (ad + i) = 0) →
      ∃ u t v, u = { s with cache := u.cache } ∧ exec (.lds a w) s = .next t ∧ ScalarDone u t a w v ∧
        ∀ i, i < 8 → v.extractLsb' (8 * i) 8 = readByte s (ad + i)) ∧
    (Ready s a w 0x0C { tds := [], sa := true, sb := true, x := 2 ^ 48 - 1 } [] →
      ∃ t, exec (.sts a w) s = .next t ∧ OnlyStream s t a ∧
        t = { s with ctxs := t.ctxs, trace := t.trace, mem := t.mem, ent := t.ent, cache := t.cache } ∧
        Completed s t a w ((strmAt s a).pc + 1) ∧ (strmAt t a).regs = (strmAt s a).regs ∧
        (ctxAt t a).td = (ctxAt s a).td ∧ (∀ n, bcOf (ctxAt t a) n = signalled s a w n) ∧
        (∀ i, i < 8 → readByte t (ad + i) = (sregOf (strmAt s a) (iSb w)).extractLsb' (8 * i) 8) ∧
        ∀ x, (x < ad ∨ ad + 8 ≤ x) → readByte t x = readByte s x)

/-- DSET writes one field of descriptor TDC from the low bits of sA and leaves every other descriptor bit; DLD loads X[16:8]
descriptors (0 counts 256) of 64 bytes each from sA into td[X[7:0]] onward, from a verified block without poison (R131). -/
def Obligations.DescriptorLoads : Prop :=
  ∀ (a : StreamId) (w : InstrWord) (s : State), (strmAt s a).pc + 1 < (strmAt s a).plen →
    let x := (sregOf (strmAt s a) (iSa w)).toNat
    (Ready s a w 0x0E { tds := [2], sa := true, x := 15 } [need (xF w 3 0 ≤ 13) 0x02 0 9] →
      ∀ lo n, (lo, n) = [(0, 48), (64, 32), (96, 32), (128, 32), (160, 32), (192, 32), (256, 32), (288, 32), (320, 32),
          (352, 32), (384, 48), (224, 32), (432, 16), (448, 12)].getD (xF w 3 0) (0, 0) → x < 2 ^ n →
      ∃ t, exec (.dset a w) s = .next t ∧ OnlyStream s t a ∧ OnlyCtxs s t ∧ Completed s t a w ((strmAt s a).pc + 1) ∧
        (strmAt t a).regs = (strmAt s a).regs ∧ (∀ n, bcOf (ctxAt t a) n = signalled s a w n) ∧
        (∀ k, k ≠ iTd w 2 → smGet 0 (ctxAt t a).td k = smGet 0 (ctxAt s a).td k) ∧
        ∀ i, i < 512 → bit (smGet 0 (ctxAt t a).td (iTd w 2)) i =
          if lo ≤ i ∧ i < lo + n then x.testBit (i - lo) else bit (smGet 0 (ctxAt s a).td (iTd w 2)) i) ∧
    (Ready s a w 0x0D { tds := [], sa := true, x := 0x1FFFF } [need (xF w 7 0 + dldCount w ≤ 256) 0x02 0 9] →
      (strmAt s a).infl = [] → x % 64 = 0 → rangeInPart s a.part x (64 * dldCount w) = true →
      ReadsClean s (span x (64 * dldCount w)) ⟨strmTag a (strmAt s a).iseq, some a.part, 0xFFFFFFFF, 0⟩ →
      ∃ t, exec (.dld a w) s = .next t ∧ OnlyStream s t a ∧ OnlyIssue s t ∧ Completed s t a w ((strmAt s a).pc + 1) ∧
        (strmAt t a).regs = (strmAt s a).regs ∧ (∀ n, bcOf (ctxAt t a) n = signalled s a w n) ∧
        (∀ k, (k < xF w 7 0 ∨ xF w 7 0 + dldCount w ≤ k) → smGet 0 (ctxAt t a).td k = smGet 0 (ctxAt s a).td k) ∧
        ∀ i j, i < dldCount w → j < 64 →
          (smGet 0 (ctxAt t a).td (xF w 7 0 + i)).extractLsb' (8 * j) 8 = readByte s (x + 64 * i + j))

/-- BCSET sets bc[X[5:0]] to sA[31:0], BCINC adds X[23:8] to it, BCWAIT goes on where its wait is satisfied: with no
earlier instruction in flight each completes at once, and of all counters only that one and the signal's differ (R135). -/
def Obligations.BarrierCounters : Prop :=
  ∀ (a : StreamId) (w : InstrWord) (s : State), (strmAt s a).pc + 1 < (strmAt s a).plen → (strmAt s a).infl = [] →
    let x : Half := (sregOf (strmAt s a) (iSa w)).setWidth 32
    let done := fun (t : State) (v : Half) => OnlyStream s t a ∧ OnlyCtxs s t ∧ Completed s t a w ((strmAt s a).pc + 1) ∧
      (strmAt t a).regs = (strmAt s a).regs ∧ (ctxAt t a).td = (ctxAt s a).td ∧
      ∀ n, bcOf (ctxAt t a) n = (if n = xF w 5 0 then v else bcOf (ctxAt s a) n) +
        (if iSen w = true ∧ n = iSbc w then 1 else 0)
    (Ready s a w 0x10 { tds := [], sa := true, x := 0x3F } [] → ∃ t, exec (.bcset a w) s = .next t ∧ done t x) ∧
    (Ready s a w 0x11 { tds := [], x := 0xFFFF3F } [need (xF w 23 8 ≠ 0) 0x02 0 9] →
      ∃ t, exec (.bcinc a w) s = .next t ∧ done t (bcOf (ctxAt s a) (xF w 5 0) + BitVec.ofNat 32 (xF w 23 8))) ∧
    (Ready s a w 0x12 { tds := [], sa := true, x := 0x3F } [] → (bcOf (ctxAt s a) (xF w 5 0) - x).toNat < 2 ^ 31 →
      ∃ t, exec (.bcwait a w) s = .next t ∧ done t (bcOf (ctxAt s a) (xF w 5 0)))

/-- FENCE, GFENCE and IFLUSH complete with nothing in flight; IFLUSH discards the stream's instruction buffer (R135).
EVENT writes one program event record of class 1 with the payload of Table 11.11 and completes. -/
def Obligations.FencesAndEvents : Prop :=
  ∀ (a : StreamId) (w : InstrWord) (s : State), (strmAt s a).pc + 1 < (strmAt s a).plen →
    let done := fun (s t : State) => OnlyStream s t a ∧ OnlyCtxs s t ∧ Completed s t a w ((strmAt s a).pc + 1) ∧
      (strmAt t a).regs = (strmAt s a).regs ∧ (ctxAt t a).td = (ctxAt s a).td ∧
      ∀ n, bcOf (ctxAt t a) n = signalled s a w n
    (Ready s a w 0x13 { tds := [] } [] → (strmAt s a).infl = [] → ∃ t, exec (.fence a w) s = .next t ∧ done s t) ∧
    (Ready s a w 0x14 { tds := [] } [] → (strmAt s a).infl = [] → ∃ t, exec (.gfence a w) s = .next t ∧ done s t) ∧
    (Ready s a w 0x15 { tds := [] } [] →
      ∃ t, exec (.iflush a w) s = .next t ∧ done s t ∧ (strmAt t a).ibuf = []) ∧
    (Ready s a w 0x16 { tds := [], sa := true, x := 0xFFFF } [] → (strmAt s a).infl = [] →
      let r : EvRec := ⟨xF w 15 0, 1, leadCluster s a.part / 4, some a.part.val, a.ctx.val,
        [sregOf (strmAt s a) (iSa w), (strmAt s a).iseq.setWidth 64, BitVec.ofNat 64 (strmNo a.strm)]⟩
      ∃ t, exec (.event a w) s = .next t ∧ done (emit s r) t)

/-- END stops its stream once nothing of it is in flight; while another stream of the context still runs, nothing else of the
machine changes (R132). -/
def Obligations.EndStopsStream : Prop :=
  ∀ (a : StreamId) (w : InstrWord) (s : State), Ready s a w 0x0F { tds := [] } [] → (strmAt s a).infl = [] → iSen w = false →
    (∃ k, k ≠ a.strm ∧ ((ctxAt s a).strm k).st = .issuing) →
    ∃ t, exec (.endStream a w) s = .next t ∧ OnlyStream s t a ∧ OnlyCtxs s t ∧ (strmAt t a).st = .ended ∧
      (strmAt t a).iseq = (strmAt s a).iseq + 1 ∧ (strmAt t a).pc = (strmAt s a).pc ∧ (strmAt t a).infl = [] ∧
      (strmAt t a).regs = (strmAt s a).regs ∧ (ctxAt t a).td = (ctxAt s a).td ∧ (ctxAt t a).bc = (ctxAt s a).bc

/-- CNTRD reads a counter, or its OVF for the index + 0x8000, to sD; FLAGRD reads the partition's combined flag word to sD and
the position word to s[SD + 1], and with X[0] clears NF and SAT of the stream in every cluster of the partition (R148, R149). -/
def Obligations.CounterAndFlagReads : Prop :=
  ∀ (a : StreamId) (w : InstrWord) (s : State), (strmAt s a).pc + 1 < (strmAt s a).plen →
    let i := xF w 15 0
    (Ready s a w 0xC2 { tds := [], sd := true, x := 0xFFFF } [need (cntValid (i % 0x8000)) 0x02 0 9] →
      cntOwned s a.part (i % 0x8000) = true →
      ∃ t, exec (.cntrd a w) s = .next t ∧ ScalarDone s t a w
        (if i < 0x8000 then (cntGet s i a.part).val
         else BitVec.ofNat 64 (if (cntGet s (i % 0x8000) a.part).ovf then 1 else 0))) ∧
    (Ready s a w 0xC3 { tds := [], sd := true, x := 1 } [need (1 ≤ iSd w && iSd w ≤ 30) 0x02 0 5] → (strmAt s a).infl = [] →
      let r := partFlags s a.part (strmNo a.strm)
      ∃ t, exec (.flagrd a w) s = .next t ∧ OnlyStream s t a ∧
        t = { s with ctxs := t.ctxs, trace := t.trace, flags := t.flags } ∧
        Completed s t a w ((strmAt s a).pc + 1) ∧
        (∀ n, sregOf (strmAt t a) n = if n = iSd w then flagWord r else if n = iSd w + 1 then flagPos r
          else sregOf (strmAt s a) n) ∧
        (ctxAt t a).td = (ctxAt s a).td ∧ (∀ n, bcOf (ctxAt t a) n = signalled s a w n) ∧
        (xF w 0 0 = 0 → t.flags = s.flags) ∧
        (xF w 0 0 = 1 → ∀ c k, c < 32 → k < 3 → flagRec t c k =
          if s.rbit (rPartClu a.part) c = true ∧ k = strmNo a.strm then ⟨none, none⟩ else flagRec s c k))

/-- COPY, COPYT and FILL issue as tiles of 16,384 elements of TDC; GATHER and SCATTER also hold the index list that they
have read, verified, with every index below the row count of the indexed operand (R139 to R141). PREFETCH in a partition
without cache ways completes at once and changes nothing (R142). -/
def Obligations.MovesIssue : Prop :=
  ∀ (a : StreamId) (w : InstrWord) (s : State),
    let d := fun k => opDesc s a w k
    Issues (.copy a w) s a w (copyOp a w) [] (ceilDiv (dCount (d 2)) 16384) ∧
    Issues (.copyt a w) s a w (copytOp a w) [] (ceilDiv (dCount (d 2)) 16384) ∧
    Issues (.fill a w) s a w (fillOp a w) [] (ceilDiv (dCount (d 2)) 16384) ∧
    (let list := fun n : Nat => (List.range n).map fun i => readNat s ((sregOf (strmAt s a) (iSa w)).toNat + 4 * i) 4
     let read := fun n : Nat => ReadsClean s (span (sregOf (strmAt s a) (iSa w)).toNat (4 * n))
        ⟨strmTag a (strmAt s a).iseq, some a.part, 0xFFFFFFFF, 0⟩
     let idle := fun n : Nat => hazard s a
        [((sregOf (strmAt s a) (iSa w)).toNat, (sregOf (strmAt s a) (iSa w)).toNat + 4 * n - 1)] [] = false
     (idle (dDim (d 2) 1) → read (dDim (d 2) 1) → (∀ i, i ∈ list (dDim (d 2) 1) → i < dDim (d 0) 1) →
       Issues (.gather a w) s a w (rowsOp 0x23 0 2 a w) (list (dDim (d 2) 1)) (ceilDiv (dCount (d 2)) 16384)) ∧
     (idle (dDim (d 0) 1) → read (dDim (d 0) 1) → (∀ i, i ∈ list (dDim (d 0) 1) → i < dDim (d 2) 1) →
       Issues (.scatter a w) s a w (rowsOp 0x24 1 0 a w) (list (dDim (d 0) 1)) (ceilDiv (dCount (d 0)) 16384))) ∧
    (hasCacheWays s a.part = true → Issues (.prefetch a w) s a w (prefetchOp a) [] 0) ∧
    (hasCacheWays s a.part = false → CanIssue s a w (prefetchOp a) →
      ∃ u t, FencesCounted s u a w ((prefetchOp a).capture s a w) ∧ exec (.prefetch a w) s = .next t ∧ OnlyStream u t a ∧
        OnlyIssue s t ∧ Completed s t a w ((strmAt s a).pc + 1) ∧ (strmAt t a).regs = (strmAt s a).regs ∧
        (ctxAt t a).td = (ctxAt s a).td ∧ ∀ n, bcOf (ctxAt t a) n = signalled s a w n)

/-- MM and MMACC issue as L0 tiles times K extents and zero their split area when K is split (R180): every byte outside it is
as before. -/
def Obligations.ProductsIssue : Prop :=
  ∀ (a : StreamId) (w : InstrWord) (s : State),
    let g := mmGeo w (opDesc s a w 0) (opDesc s a w 1)
    let area := g.splitAddr s a 0 0
    let size := if 1 < g.ks then g.bm * g.m1 * g.bn * g.n1 * 48 else 0
    let issues := fun (i : Instr) (op : Nat) (acc : Bool) =>
      let o := mmOp op acc (xm 39 0) (fun _ => none) (fun _ _ => []) a w
      CanIssue s a w o → ∃ t, exec i s = .next t ∧
        t = { s with ctxs := t.ctxs, trace := t.trace, mem := t.mem, ent := t.ent, cache := t.cache } ∧
        Issued s t a w (o.capture s a w) [] (g.tiles * g.e) ∧
        (∀ x, area ≤ x → x < area + size → readByte t x = 0) ∧
        ∀ x, (x < area ∨ area + size ≤ x) → readByte t x = readByte s x
    issues (.mm a w) 0x30 false ∧ issues (.mmacc a w) 0x31 true

/-- The convolutions issue as L0 tiles times K extents, POOL as tiles of 16,384 elements of TDC (R206 to R224). -/
def Obligations.ConvolutionsIssue : Prop :=
  ∀ (a : StreamId) (w : InstrWord) (s : State),
    let n := fun (op : Nat) => let g := (cvProd w ((cvOp op a w).capture s a w)).g; g.tiles * g.e
    Issues (.conv a w) s a w (cvOp 0x40 a w) [] (n 0x40) ∧
    Issues (.convg a w) s a w (cvOp 0x41 a w) [] (n 0x41) ∧
    Issues (.convbd a w) s a w (cvOp 0x42 a w) [] (n 0x42) ∧
    Issues (.convbw a w) s a w (cvOp 0x43 a w) [] (n 0x43) ∧
    Issues (.pool a w) s a w (poolOp a w) [] (ceilDiv (dCount (opDesc s a w 2)) 16384)

/-- The vector instructions and the reductions issue: element-wise ones, SMAX and the reductions as tiles of 16,384 elements
of TDC, NORM as one tile a row, MINV as its work units (R225 to R231). -/
def Obligations.VectorsIssue : Prop :=
  ∀ (a : StreamId) (w : InstrWord) (s : State),
    let n := ceilDiv (dCount (opDesc s a w 2)) 16384
    Issues (.vbin a w) s a w (vbinOp a w) [] n ∧
    Issues (.vfma a w) s a w (vfmaOp a w) [] n ∧
    Issues (.vun a w) s a w (vunOp a w) [] n ∧
    Issues (.vcvt a w) s a w (vcvtOp a w) [] n ∧
    Issues (.norm a w) s a w (normOp a w) [] (dRows (opDesc s a w 2)) ∧
    Issues (.smax a w) s a w (smaxOp a w) [] n ∧
    Issues (.minv a w) s a w (minvOp a w) [] (ceilDiv (dDim (opDesc s a w 0) 2) (mvUnit (dDim (opDesc s a w 0) 0))) ∧
    Issues (.rsum a w) s a w (redOp 0x70 a w) [] n ∧
    Issues (.rmax a w) s a w (redOp 0x71 a w) [] n ∧
    Issues (.rmin a w) s a w (redOp 0x72 a w) [] n ∧
    Issues (.rssq a w) s a w (redOp 0x73 a w) [] n

/-- The table and quantising instructions issue: TFN holds the SEED and the STEP of its issue (R239), TLOAD is one tile,
REQNT waits as a whole for its fence (R248). -/
def Obligations.TablesAndQuantisersIssue : Prop :=
  ∀ (a : StreamId) (w : InstrWord) (s : State),
    let n := ceilDiv (dCount (opDesc s a w 2)) 16384
    let lead := leadCluster s a.part
    Issues (.tfn a w) s a w (tfnOp a w) [(s.reg (rSeed lead)).toNat, (s.reg (rStep lead)).toNat] n ∧
    Issues (.tder a w) s a w (tderOp a w) [] n ∧
    Issues (.tload a w) s a w (tloadOp a w) [] 1 ∧
    Issues (.qnt a w) s a w (qntOp a w) [] n ∧
    Issues (.dqnt a w) s a w (dqntOp a w) [] n ∧
    Issues (.amax a w) s a w (amaxOp a w) [] n ∧
    Issues (.reqnt a w) s a w (reqntOp a w) [] 0

/-- UPD issues with the group record read at issue: APPLY where X[1:0] is 0, NORM 1, PACK 2; the norm record that it uses
is held with it (R252, R254). FPRINT puts the fingerprint of TDA in sD, with no store (R147). -/
def Obligations.UpdatesIssue : Prop :=
  ∀ (a : StreamId) (w : InstrWord) (s : State),
    let r := upRecord s a.part ((updOp a w).capture s a w)
    let aux := [r.toNat, if usesNorm w r then normAddr s a.part + 1 else 0]
    (normWait s a w r = false →
      (xF w 1 0 = 0 → Issues (.updApply a w) s a w (updOp a w) aux 0) ∧
      (xF w 1 0 = 1 → Issues (.updNorm a w) s a w (updOp a w) aux 0) ∧
      (xF w 1 0 = 2 → Issues (.updPack a w) s a w (updOp a w) aux 0)) ∧
    (CanIssue s a w (fprintOp a) →
      ∃ u t, FencesCounted s u a w ((fprintOp a).capture s a w) ∧ exec (.fprint a w) s = .next t ∧
        ScalarDone u t a w (fingerprint s (opDesc s a w 0)))

/-- The collectives, the transfers and the fused products issue: the instruction is in flight, the collective is open with
the group's number for it, OPSEQ of the group's record counts a numbered one, a fused product has zeroed its split area; then
the early messages and all that can be done at once follow (R425, R428, R431, R433). -/
def Obligations.CollectivesIssue : Prop :=
  ∀ (a : StreamId) (w : InstrWord) (s : State),
    let n := (strmAt s a).iseq
    let issues := fun (i : Instr) (o : TOp) (s0 : State) =>
      let r := grpRec s0 a.part (collGroup w)
      let p2p := o.op = 0xA3 ∨ o.op = 0xA4
      let ad := grpAddr s0 a.part (collGroup w) + 56
      let nrm := colNormAt s a.part w (o.capture s a w)
      let p := o.plan s (o.capture s a w)
      hazard s a [] (normRange w (if nrm = 0 then none else some (nrm - 1)) false) = false → CanIssue s a w o →
      ∃ v, exec i s = .next (collGo (replayEarly a n v.acc.early.length v) a n) ∧
        v = { s0 with ctxs := v.ctxs, trace := v.trace, acc := v.acc, mem := v.mem, ent := v.ent, cache := v.cache } ∧
        Issued s v a w (o.capture s a w) p.1 p.2 ∧
        v.acc = { s.acc with colls := s.acc.colls ++ [⟨a.part, a.ctx, strmNo a.strm, n, o.op, collGroup w, gGid r, gRanks r,
          gMy r, gCanon r, if p2p then 0 else gOpseq r, if p2p then colPeer w else 0, if p2p then colTag w else 0, colNorm w,
          [], [], [], [], [], [], [], []⟩] } ∧
        (∀ x, (p2p ∨ x < ad ∨ ad + 8 ≤ x) → readByte v x = readByte s0 x) ∧
        (¬ p2p → ∀ j, j < 8 → readByte v (ad + j) = (setBits (BitVec.ofNat 64 (readNat s0 ad 8)) 63 32
          ((gOpseq r + 1) % 2 ^ 32)).extractLsb' (8 * j) 8)
    let fused := fun (op : Nat) => (fusedGeo w ((fusedOp op a w).capture s a w)).clearSplit s a n
    issues (.rs a w) (colOp 0xA0 (xm 8 0) a w) s ∧ issues (.ag a w) (colOp 0xA1 (xm 7 0) a w) s ∧
      issues (.ar a w) (colOp 0xA2 (xm 7 0) a w) s ∧ issues (.send a w) (colOp 0xA3 (xm 35 0) a w) s ∧
      issues (.recv a w) (colOp 0xA4 (xm 35 0) a w) s ∧ issues (.mmrs a w) (fusedOp 0x32 a w) (fused 0x32) ∧
      issues (.mmag a w) (fusedOp 0x33 a w) (fused 0x33)

/-- Writing an event record touches the event ring, the hold buffer, the counters, the log and what is sent, and nothing else
of the machine; it goes to its slot of the ring when nothing is held and a slot is free, to the hold buffer otherwise while that has
room (R481). A counter goes up by its increment, saturating with OVF, and no other counter moves where no threshold slot is
set (R602). -/
def Obligations.RecordsAndCounters : Prop :=
  (∀ (s : State) (e : EvRec), Reported s (emit s e)) ∧
  (∀ (s : State) (r : ErrRec), Reported s (errRecord s r)) ∧
  (∀ (s : State) (i p n : Nat), Reported s (cntInc s i p n)) ∧
  (∀ (s : State) (e : EvRec), s.hub.held = [] → evtSpace s = true →
    let k := s.fld rEvtStat 31 0
    emit s e = hostWrite (s.setFld rEvtStat 31 0 ((k + 1) % 2 ^ 32))
      (s.fld rEvtBase 46 12 * 4096 + (k % 2 ^ s.fld rEvtCtl 4 0) * 64)
      ((evWords e ((k + 1) % 2 ^ 32)).flatMap fun w => leBytes 8 w.toNat)) ∧
  (∀ (s : State) (e : EvRec), (s.hub.held ≠ [] ∨ evtSpace s = false) → s.hub.held.length < 256 →
    (emit s e).hub.held = s.hub.held ++ [e] ∧ (emit s e).fld rEvtStat 31 0 = s.fld rEvtStat 31 0 ∧
      (emit s e).fld rEvtStat 40 32 = s.hub.held.length + 1) ∧
  ∀ (s : State) (i p n j q : Nat), (∀ k, k < 64 → s.rbit (rThrSel k) 20 = false) →
    cntGet (cntInc s i p n) j q = if cntKey j q = cntKey i p then
        (if (cntGet s i p).val.toNat + n < 2 ^ 64 then
          ⟨BitVec.ofNat 64 ((cntGet s i p).val.toNat + n), (cntGet s i p).ovf⟩ else ⟨BitVec.allOnes 64, true⟩)
      else cntGet s j q

/-- PULL of a running ring with a batch ready takes the first one: SD, SD + 1 and SD + 2 hold its number, its sample count and
its bucket, TDC its descriptor unless it is the end marker (R143). REL of the oldest batch pulled gives its slot up (R144). No
other ring and no other register of the stream changes. -/
def Obligations.IntakeInstructions : Prop :=
  ∀ (a : StreamId) (w : InstrWord) (s : State), (strmAt s a).pc + 1 < (strmAt s a).plen →
    let m := xF w 0 0
    let n := xF w 4 1
    let p := getPipe s m n
    (∀ b, Ready s a w 0xB0 { tds := [2], sd := true, x := 0x1F }
        [need (1 ≤ iSd w && iSd w ≤ 29) 0x02 0 5, need (mediaOk s m) 0x03 0 0] →
      firstFault (pullChecks s a m n) = none → p.ready.head? = some b →
      ∃ t, exec (.pull a w) s = .next t ∧ OnlyStream s t a ∧
        t = { s with ctxs := t.ctxs, trace := t.trace, pipes := t.pipes, parts := t.parts, regs := t.regs, hub := t.hub,
                     out := t.out, mem := t.mem, ent := t.ent, cache := t.cache } ∧
        Completed s t a w ((strmAt s a).pc + 1) ∧
        (∀ k, sregOf (strmAt t a) k = if k = iSd w then BitVec.ofNat 64 p.pulled
          else if k = iSd w + 1 then BitVec.ofNat 64 b.members.length
          else if k = iSd w + 2 then BitVec.ofNat 64 b.bucket else sregOf (strmAt s a) k) ∧
        (∀ k, smGet 0 (ctxAt t a).td k = if k = iTd w 2 ∧ b.members ≠ [] then
          batchDesc p b p.pulled (smGet 0 (ctxAt s a).td (iTd w 2)) else smGet 0 (ctxAt s a).td k) ∧
        (∀ k, bcOf (ctxAt t a) k = signalled s a w k) ∧
        (∃ arm, getPipe t m n = { p with ready := p.ready.drop 1, pulled := p.pulled + 1, armed := arm }) ∧
        ∀ i j, pipeKey i j ≠ pipeKey m n → getPipe t i j = getPipe s i j) ∧
    (Ready s a w 0xB1 { tds := [], sa := true, x := 0x1F } [need (mediaOk s m) 0x03 0 0] →
      hazard s a [] [relRange s a w] = false →
      firstFault (relChecks s a m n (sregOf (strmAt s a) (iSa w)).toNat) = none →
      ∃ t, exec (.rel a w) s = .next t ∧ OnlyStream s t a ∧
        t = { s with ctxs := t.ctxs, trace := t.trace, pipes := t.pipes } ∧ Completed s t a w ((strmAt s a).pc + 1) ∧
        (strmAt t a).regs = (strmAt s a).regs ∧ (ctxAt t a).td = (ctxAt s a).td ∧
        (∀ k, bcOf (ctxAt t a) k = signalled s a w k) ∧ getPipe t m n = { p with freed := p.freed + 1 } ∧
        ∀ i j, pipeKey i j ≠ pipeKey m n → getPipe t i j = getPipe s i j)

/-- A word whose opcode is none of Table 3.5 stops its stream with code 0x01; a wait longer than the watchdog's period stops the
waiting stream with 0x12; a tensor instruction stops it with the first check that fails (R120, R123 to R127, R138). While an
earlier instruction of the context runs on, nothing else of the machine changes. -/
def Obligations.StreamsStop : Prop :=
  ∀ (a : StreamId) (w : InstrWord) (s : State),
    (accepts s a w = true → wenMet s a w = true →
      (∀ r ∈ [(0x00, 0x16), (0x20, 0x25), (0x30, 0x33), (0x40, 0x44), (0x50, 0x56), (0x60, 0x62), (0x70, 0x73), (0x80, 0x81),
        (0x90, 0x91), (0xA0, 0xA4), (0xB0, 0xB1), (0xC0, 0xC3)], ¬ (r.1 ≤ iOp w ∧ iOp w ≤ r.2)) →
      Stops (.reservedOpcode a w) s a ⟨0x01, 0, 0⟩ (iOp w)) ∧
    ((ctxAt s a).fault = 0 → (getPart s a.part).sched = some a.ctx.val → (strmAt s a).st = .waiting →
      bufferWord (strmAt s a) = some w → Stops (.fenceWatchdogExpiry a) s a ⟨0x12, 2, 0⟩ (iOp w)) ∧
    (let o := copyOp a w
     ∀ f, Ready s a w o.op o.uses o.word → tensorWait s a w (o.capture s a w) = false →
      firstFault (o.unit s :: descChecks s (o.capture s a w) o.uses.tds o.wr ++ o.checks s (o.capture s a w)) = some f →
      Stops (.copy a w) s a f 0x20) ∧
    (((ctxAt s a).allStrms.any fun t => !t.infl.isEmpty) = true →
      ∀ u f op, Stopped s u a f op → settle u a.part a.ctx = u)

/-- A block of the program window enters the stream's instruction buffer of 64 blocks, in place of the least recently used
one (R112, R114); a stream that waits issues the instruction at its PC as that instruction's own command would, and where what it
waited for stands the instruction completes or is in flight (R133, R134). A halted context's streams take no instruction until it is resumed (R544). -/
def Obligations.FetchWaitAndHalt : Prop :=
  ∀ (a : StreamId) (w : InstrWord) (s : State),
    (∀ b, (ctxAt s a).started = true → ((strmAt s a).st = .issuing ∨ (strmAt s a).st = .waiting) →
      (getPart s a.part).sched = some a.ctx.val → 64 * b < (strmAt s a).plen →
      (strmAt s a).ibuf.any (fun x => decide (x.1 = b)) = false →
      ReadsClean s (span ((strmAt s a).pbase + 1024 * b) (blockBytes (strmAt s a) b))
        ⟨strmTag a (strmAt s a).iseq, some a.part, 0xFFFFFFFF, 0⟩ →
      ∃ t ws, exec (.instructionBlockFetch a b) s = .next t ∧ OnlyStream s t a ∧
        t = { s with ctxs := t.ctxs, cache := t.cache } ∧
        strmAt t a = { strmAt s a with ibuf := ((b, ws) :: (strmAt s a).ibuf).take 64 } ∧
        (ctxAt t a).td = (ctxAt s a).td ∧ (ctxAt t a).bc = (ctxAt s a).bc ∧
        ws.length = min 64 ((strmAt s a).plen - 64 * b) ∧
        ∀ i j, i < ws.length → j < 16 →
          (ws.getD i 0).extractLsb' (8 * j) 8 = readByte s ((strmAt s a).pbase + 1024 * b + 16 * i + j)) ∧
    ((strmAt s a).st = .waiting → bufferWord (strmAt s a) = some w →
      (∀ r, r ∈
        [(0x00, Instr.nop a w), (0x01, Instr.li a w), (0x02, Instr.add a w), (0x03, Instr.addi a w), (0x04, Instr.sub a w),
          (0x05, Instr.mul a w), (0x06, Instr.logic a w), (0x07, Instr.rdspr a w), (0x08, Instr.shift a w),
          (0x09, Instr.br a w), (0x0A, Instr.loop a w), (0x0B, Instr.lds a w), (0x0C, Instr.sts a w), (0x0D, Instr.dld a w),
          (0x0E, Instr.dset a w), (0x0F, Instr.endStream a w), (0x10, Instr.bcset a w), (0x11, Instr.bcinc a w),
          (0x12, Instr.bcwait a w), (0x13, Instr.fence a w), (0x14, Instr.gfence a w), (0x15, Instr.iflush a w),
          (0x16, Instr.event a w), (0x20, Instr.copy a w), (0x21, Instr.copyt a w), (0x22, Instr.fill a w),
          (0x23, Instr.gather a w), (0x24, Instr.scatter a w), (0x25, Instr.prefetch a w), (0x30, Instr.mm a w),
          (0x31, Instr.mmacc a w), (0x32, Instr.mmrs a w), (0x33, Instr.mmag a w), (0x40, Instr.conv a w),
          (0x41, Instr.convg a w), (0x42, Instr.convbd a w), (0x43, Instr.convbw a w), (0x44, Instr.pool a w),
          (0x50, Instr.vbin a w), (0x51, Instr.vfma a w), (0x52, Instr.vun a w), (0x53, Instr.vcvt a w),
          (0x54, Instr.norm a w), (0x55, Instr.smax a w), (0x56, Instr.minv a w), (0x60, Instr.tfn a w),
          (0x61, Instr.tder a w), (0x62, Instr.tload a w), (0x70, Instr.rsum a w), (0x71, Instr.rmax a w),
          (0x72, Instr.rmin a w), (0x73, Instr.rssq a w), (0x80, Instr.qnt a w), (0x81, Instr.dqnt a w),
          (0x91, Instr.reqnt a w), (0xA0, Instr.rs a w), (0xA1, Instr.ag a w), (0xA2, Instr.ar a w), (0xA3, Instr.send a w),
          (0xA4, Instr.recv a w), (0xB0, Instr.pull a w), (0xB1, Instr.rel a w), (0xC0, Instr.amax a w),
          (0xC1, Instr.fprint a w), (0xC2, Instr.cntrd a w), (0xC3, Instr.flagrd a w)] →
        iOp w = r.1 → exec (.instructionWaitSatisfied a) s = exec r.2 s) ∧
      (iOp w = 0x90 → exec (.instructionWaitSatisfied a) s =
        exec (if xF w 1 0 = 1 then .updNorm a w else if xF w 1 0 = 2 then .updPack a w else .updApply a w) s) ∧
      (let done := fun t : State => OnlyStream s t a ∧ OnlyCtxs s t ∧ Completed s t a w ((strmAt s a).pc + 1) ∧
          (strmAt t a).regs = (strmAt s a).regs ∧ (ctxAt t a).td = (ctxAt s a).td ∧ ∀ n, bcOf (ctxAt t a) n = signalled s a w n
       (Ready s a w 0x00 { tds := [] } [] → (strmAt s a).pc + 1 < (strmAt s a).plen →
         ∃ t, exec (.instructionWaitSatisfied a) s = .next t ∧ done t) ∧
       (Ready s a w 0x12 { tds := [], sa := true, x := 0x3F } [] → (strmAt s a).pc + 1 < (strmAt s a).plen →
         (strmAt s a).infl = [] →
         (bcOf (ctxAt s a) (xF w 5 0) - (sregOf (strmAt s a) (iSa w)).setWidth 32).toNat < 2 ^ 31 →
         ∃ t, exec (.instructionWaitSatisfied a) s = .next t ∧ done t)) ∧
      Issues (.instructionWaitSatisfied a) s a w (copyOp a w) [] (ceilDiv (dCount (opDesc s a w 2)) 16384)) ∧
    (debugD2 s = true →
      (∃ t, exec (.debugHalt a.part a.ctx) s = .next t ∧ t = { s with sec := { s.sec with halted := t.sec.halted } } ∧
        haltedCtx t a.part a.ctx = true ∧ accepts t a w = false ∧
        ∀ p x, ctxKey p x ≠ ctxKey a.part a.ctx → haltedCtx t p x = haltedCtx s p x) ∧
      ∃ t, exec (.debugResume a.part a.ctx) s = .next t ∧ t = { s with sec := { s.sec with halted := t.sec.halted } } ∧
        haltedCtx t a.part a.ctx = false ∧
        ∀ p x, ctxKey p x ≠ ctxKey a.part a.ctx → haltedCtx t p x = haltedCtx s p x)

/-- TILE_CLAIM grants the cluster's next item to a core that holds none: the least not yet granted whose number is the cluster's
rank modulo the number of clusters, once no older instruction of the context holds work for the core (R176, R177, R181). TILE_END
of a FILL tile stores the value that FILL gives its elements and nothing else; the lines stored to may enter cache ways (R140,
R165, R296). INSTRUCTION_COMPLETE retires an instruction whose tiles have all ended and counts its signal (R134). -/
def Obligations.TilesAndCompletion : Prop :=
  ∀ (a : StreamId) (i : BitVec 32) (f : InFlight) (s : State), findFlight (strmAt s a) i = some f →
    (getPart s a.part).sched = some a.ctx.val →
    (∀ (cluster core : Fin 32) r t, (partClusters s a.part).idxOf? cluster.val = some r → iDist f.w = true →
      (getPart s a.part).draining = false → haltedCtx s a.part a.ctx = false →
      (∀ k g c, g ∈ ((ctxAt s a).strm k).infl → c ∈ g.claims → c.2 ≠ 32 * cluster.val + core.val) →
      coreFree s a f (32 * cluster.val + core.val) = true →
      t < itemsOf f → t % nClusters s a.part = r → t ∉ f.granted →
      (∀ u, u < t → u % nClusters s a.part = r → u ∈ f.granted) →
      exec (.tileClaim a i cluster core) s = .next (setFlight s a
        { f with granted := f.granted ++ [t], claims := f.claims ++ [(t, 32 * cluster.val + core.val)] })) ∧
    (∀ t (core : Fin 1024), iOp f.w = 0x22 → mayEnd s a f t core = true → coreFree s a f core = true →
      let y := f.tds.getD 2 0
      (∀ x, x ∈ outAddrs y (linElems y (t * 16384) 16384) → addrNack s x = 0) →
      let o := fillOut s y (linElems y (t * 16384) 16384) f.sa.toNat f.sb.toNat
      let m := writeAll s o.ws (some (strmTag a f.iseq))
      ∃ u g, exec (.tileEnd a i t core .none) s = .next u ∧
        u = { s with ctxs := u.ctxs, flags := u.flags, mem := m.mem, ent := m.ent, cache := u.cache } ∧
        OnlyStream s u a ∧ findFlight (strmAt u a) i = some g ∧ g.done = f.done ++ [t] ∧ g.bad = f.bad ∧
        (strmAt u a).regs = (strmAt s a).regs ∧ (strmAt u a).pc = (strmAt s a).pc ∧ (ctxAt u a).td = (ctxAt s a).td) ∧
    (f.nTiles ≤ f.done.length → iOp f.w ∉ [0x10, 0x11, 0x16, 0x90, 0x91] → findColl s a i = none → f.nf = false → f.sat = false →
      a.strm ≠ .B → cmpEvery s a.part = 0 → (∃ k, k ≠ a.strm ∧ ((ctxAt s a).strm k).infl ≠ []) →
      ∃ t, exec (.instructionComplete a i) s = .next t ∧ OnlyStream s t a ∧ t = { s with ctxs := t.ctxs } ∧
        (strmAt t a).infl = (strmAt s a).infl.filter (fun g => decide (g.iseq ≠ i)) ∧
        (strmAt t a).regs = (strmAt s a).regs ∧ (strmAt t a).pc = (strmAt s a).pc ∧ (strmAt t a).iseq = (strmAt s a).iseq ∧
        (strmAt t a).st = (strmAt s a).st ∧ (ctxAt t a).td = (ctxAt s a).td ∧
        ∀ n, bcOf (ctxAt t a) n = signalled s a f.w n)

/-- UPD_FENCE_PASS: an update or REQNT executes once its fence lets it by. An instruction that waits at no fence and one whose
group has FENCE = 0 run at once; else RC must be 0, LOCK 0 and, where the form asks for releases, REL = NMB or NMB = 0, and no
older claim on the group could pass: the stall then counts for VSTAGE and the lock is set (R273, R274, Table 6.5). An update of a
frozen group counts a skip and changes no tensor (R256). COMPARATOR_GROUP_END records, in issue order, what the group wrote, and
the stream goes on (R516). -/
def Obligations.FencePassAndGroupEnd : Prop :=
  ∀ (a : StreamId) (i : BitVec 32) (f : InFlight) (s : State),
    (findFlight (strmAt s a) i = some f → (iOp f.w = 0x90 ∨ iOp f.w = 0x91) → f.passed = false →
      (getPart s a.part).sched = some a.ctx.val →
      let runs := fun u : State =>
        let g := { f with passed := true }
        let r := updRun (setFlight u a g) a g
        if r.2 = true then fpSelf r.1 a.part (f.tds.getD 2 0) (pgGstep (BitVec.ofNat 512 (f.aux.getD 0 0))) else r.1
      (fenceUse f.w = none → exec (.updFencePass a i) s = .next (runs s)) ∧
      ∀ rel lock u g, fenceUse f.w = some (rel, lock) → loadFence s a.part a.ctx (fenceGroup f) = some u →
        fenceOf (ctxAt u a) (fenceGroup f) = some g → claimsBefore u a f = false →
        (g.fence = false → exec (.updFencePass a i) s = .next (runs u)) ∧
        (g.fence = true → g.rc = 0 → g.lock = false → (rel = true → g.nmb = 0 ∨ g.rel = g.nmb) →
          let v := cntInc u (0x10 + g.vstage) a.part (timeNs u - f.t0)
          exec (.updFencePass a i) s = .next (runs (if lock = true then
            modFence v a.part a.ctx (fenceGroup f) fun g => { g with lock := true } else v)))) ∧
    (findFlight (strmAt s a) i = some f → iOp f.w = 0x90 → f.passed = false → (getPart s a.part).sched = some a.ctx.val →
      xF f.w 1 0 = 1 → pgFrozen (BitVec.ofNat 512 (f.aux.getD 0 0)) = true →
      ∃ t u, exec (.updFencePass a i) s = .next t ∧ Reported u t ∧ u = { s with ctxs := u.ctxs } ∧ OnlyStream s u a ∧
        (strmAt u a).infl = (strmAt s a).infl.map (fun g => if g.iseq = i then { f with passed := true } else g) ∧
        (strmAt u a).regs = (strmAt s a).regs ∧ (ctxAt u a).td = (ctxAt s a).td ∧ (ctxAt u a).bc = (ctxAt s a).bc) ∧
    ((strmAt s a).hold = true → (strmAt s a).infl = [] →
      (∀ q, s.hub.rep = some q → q.part = a.part.val → q.stopDiv = false) →
      let xs := (sortNat ((strmAt s a).wrote.map Prod.fst)).filterMap fun n => (strmAt s a).wrote.find? fun x => decide (x.1 = n)
      let last := ((strmAt s a).iseq.toNat + 2 ^ 32 - 1) % 2 ^ 32
      exec (.comparatorGroupEnd a) s = .next (settle (modStrmAt (xs.foldl (cmpRecord a last) s) a
        fun t => { t with hold := false, wrote := [] }) a.part a.ctx)) ∧
    ((strmAt s a).hold = true → (strmAt s a).infl = [] → (strmAt s a).wrote = [] → s.hub.rep = none →
      (∃ k, k ≠ a.strm ∧ ((ctxAt s a).strm k).infl ≠ []) →
      ∃ t, exec (.comparatorGroupEnd a) s = .next t ∧ OnlyStream s t a ∧ t = { s with ctxs := t.ctxs } ∧
        strmAt t a = { strmAt s a with hold := false, wrote := [] } ∧ (ctxAt t a).td = (ctxAt s a).td ∧
        (ctxAt t a).bc = (ctxAt s a).bc)

/-- RD, WR and WRP of a line with storage and no error, where a request finds room: a read sends RDATA, and CHK with a verifying
read of a line that has an entry; a write stores the bytes that its mask selects and sends ACK; the request is outstanding, its
credit has returned, a compute die's access may place the line in a cache way, and nothing else of the machine changes (R296,
R302, R303, R374 to R377). An address without storage gets NACK and changes no byte (R378); without room the request waits (R42). -/
def Obligations.DieReadsAndWrites : Prop :=
  ∀ (h : DieHdr) (e : Ecc) (r : DramRow) (s : State), Heard s h 0 → e.secded = .clean → e.onDie = .none →
    ¬ (hostAperture ≤ h.addr.toNat ∧ h.dst = 8) →
    let a := h.addr.toNat
    let came := fun ty => creditBack s ty h
    let taken := fun ty => addReq (came ty) ty h
    let rd := taken 1
    (poolRoom (came 1) h = true → addrNack rd a = 0 →
      exec (.rd h e r) s = .next ((cacheUse rd (allocates h) false [a]).sends
        (.die 0x21 (respHdr h 1 0 (!inEntries (a / 64 * 64) && decide (lstAt s (a / 64 * 64) = 2))) [lineData s a] ::
          if h.verify = true ∧ inStore rd (a / 64 * 64) = true then
            [.die 0x22 (respHdr h 1 0 false) [(entryOf s a).crc.toNat, (entryOf s a).lstate.toNat,
              (imageCrc s (a / 64 * 64) ^^^ crcZ ^^^ (if lstAt s (a / 64 * 64) = 1 then
                crcContrib (a / 64 * 64 % 4096) (rawBytes s (a / 64 * 64) 64) else 0)).toNat]] else []))) ∧
    (poolRoom (came 1) h = true → addrNack rd a ≠ 0 →
      exec (.rd h e r) s = .next (rd.sends [.die 0x24 (respHdr h 1 (addrNack rd a) false) []])) ∧
    (poolRoom (came 1) h = false → exec (.rd h e r) s = .next
      { came 1 with fabr := { (came 1).fabr with waits := (came 1).fabr.waits ++ [.rd h e r] } }) ∧
    (∀ mask data, let wr := taken 3
      poolRoom (came 3) h = true → addrNack wr a = 0 → inStore wr a = true →
      ∃ t, exec (.wrp h mask data e r) s = .next t ∧
        t = { wr with mem := t.mem, ent := t.ent, out := t.out, cache := t.cache } ∧
        t.out = wr.out ++ [.die 0x23 (respHdr h 1 0 false) []] ∧
        ∀ x, readByte t x = if x / 64 = a / 64 ∧ bit mask (x % 64) = true then data.extractLsb' (8 * (x % 64)) 8
          else readByte s x) ∧
    (∀ data, let wr := taken 2
      poolRoom (came 2) h = true → addrNack wr a = 0 → inStore wr a = true →
      ∃ t, exec (.wr h data e r) s = .next t ∧
        t = { wr with mem := t.mem, ent := t.ent, out := t.out, cache := t.cache } ∧
        t.out = wr.out ++ [.die 0x23 (respHdr h 1 0 false) []] ∧
        ∀ x, readByte t x = if x / 64 = a / 64 then data.extractLsb' (8 * (x % 64)) 8 else readByte s x)

/-- RADD adds a record to the one stored; POIS turns the VALID lines of its block POISONED under its tag; INV turns every line
INVALID; CNT adds to a barrier counter of the scheduled context or to a reader count; EVT writes the record that it carries. Where
a request finds room each acknowledges, and nothing else of the machine changes but what its arrival does: its credit returns and
it is outstanding (R42, R97, R304, R305, R375, R377). -/
def Obligations.DieUpdates : Prop :=
  ∀ (h : DieHdr) (s : State), Heard s h 0 →
    let a := h.addr.toNat
    let ack : OutMsg := .die 0x23 (respHdr h 1 0 false) []
    let room := fun ty => poolRoom (creditBack s ty h) h = true
    let taken := fun ty => addReq (creditBack s ty h) ty h
    let held := fun ty => room ty ∧ addrNack (taken ty) a = 0 ∧ inStore (taken ty) a = true
    (∀ rec : BitVec 384, held 4 → ∃ t, exec (.radd h rec) s = .next t ∧
      t = { taken 4 with mem := t.mem, ent := t.ent, out := (taken 4).out ++ [ack], cache := t.cache } ∧
      ∀ x, readByte t x = if a ≤ x ∧ x < a + 48 then
        (leBytes 48 ((Rec.ofNat48 (readNat s a 48)).add (Rec.ofNat48 rec.toNat)).toNat48).getD (x - a) 0 else readByte s x) ∧
    (∀ tag : Tag, held 5 → ∃ t, exec (.pois h tag) s = .next t ∧
      t = { taken 5 with regs := t.regs, hub := t.hub, out := t.out, ent := t.ent } ∧ (entryOf t a).tag = tag ∧
      (∀ x, lstAt t x = if x / 4096 = a / 4096 ∧ lstAt s x = 1 then 2 else lstAt s x) ∧ ack ∈ t.out) ∧
    (held 6 → ∃ t, exec (.inv h) s = .next t ∧ t = { taken 6 with ent := t.ent, out := (taken 6).out ++ [ack] } ∧
      ∀ x, lstAt t x = if x / 4096 = a / 4096 then 0 else lstAt s x) ∧
    (∀ (c : Fin 64) (x : Fin 8) inc, room 7 → (getPart s h.part.toNat).sched = some x.val →
      ∃ t, exec (.cnt h (.barrier c) x inc) s = .next t ∧
        t = { taken 7 with ctxs := t.ctxs, out := (taken 7).out ++ [ack] } ∧
        (∀ k, k ≠ ctxKey h.part.toNat x → smGet emptyCtx t.ctxs k = smGet emptyCtx s.ctxs k) ∧
        ∃ bc, getCtx t h.part.toNat x = { getCtx s h.part.toNat x with bc := bc } ∧
          ∀ n, smGet 0 bc n = if n = c.val then bcOf (getCtx s h.part.toNat x) n + inc else bcOf (getCtx s h.part.toNat x) n) ∧
    (∀ rec, room 8 → 0x900 ≤ (evOf rec).code ∧ (evOf rec).code < 0xA00 →
      exec (.evt h rec) s = .next ((elogWrite (emit (taken 8) (evOf rec)) (evOf rec)).send ack)) ∧
    ∀ rec, room 8 → ¬ (0x900 ≤ (evOf rec).code ∧ (evOf rec).code < 0xA00) →
      exec (.evt h rec) s = .next ((emit (taken 8) (evOf rec)).send ack)

/-- Responses close their request, and the oldest request that waits and now finds room is taken (R42): RDATA of a read that does
not verify and ACK end it, a verifying read waits for CHK, whose first mismatch reads again; NACK of a write is one contained
record, NACK of a media die's read fails the samples that it was reading for (R303, R374, R378). DISC latches an unlatched die's
number and answers DACK with error 0; the hub notes DACK (R383). ACCD holds its bytes until a message is whole and returns its
credit, ACCC adds credits and releases what waited for them (R435). -/
def Obligations.DieResponses : Prop :=
  ∀ (h : DieHdr) (r : DieReq) (s : State),
    let reqs := fun (l : List DieReq) => { s with fabr := { s.fabr with reqs := l } }
    let gone := serveWaits (reqs (dropFirst (fun x => x = r) s.fabr.reqs))
    (Heard s h 1 → findReq s h = some r →
      (∀ data, r.ty = 1 → r.h.verify = false → exec (.rdata h data) s = .next gone) ∧
      (∀ data, r.ty = 1 → r.h.verify = true → exec (.rdata h data) s = .next
        (reqs (s.fabr.reqs.map fun x => if x = r then { r with data := some data, pois := h.pois } else x))) ∧
      (∀ crc lstate contrib data, r.data = some data → r.pois = false → r.again = false →
        let a := r.h.addr.toNat / 64 * 64
        let own := if bits lstate (2 * (a / 64 % 64) + 1) (2 * (a / 64 % 64)) = 1 then crcContrib (a % 4096) (leBytes 64 data.toNat)
          else 0
        (crcZ ^^^ contrib ^^^ own = crc → exec (.chk h crc lstate contrib) s = .next gone) ∧
        (crcZ ^^^ contrib ^^^ own ≠ crc → exec (.chk h crc lstate contrib) s = .next
          (sendDie (reqs (s.fabr.reqs.map fun x => if x = r then { r with data := none, again := true } else x)) 0x01 r.h []))) ∧
      (r.ty ≠ 1 → exec (.ack h) s = .next gone) ∧
      (r.ty = 1 → h.dst.toNat < 9 → exec (.nack h) s = .next gone) ∧
      (r.ty = 1 → 9 ≤ h.dst.toNat → exec (.nack h) s = .next (serveWaits
        (dropReq (mediaNack s (h.dst.toNat - 9) r.h.part.toNat (r.h.addr.toNat / 64 * 64)) r))) ∧
      (r.ty ≠ 1 → ∃ u, Reported s u ∧ exec (.nack h) s = .next (serveWaits (dropReq u r)))) ∧
    (s.up = true → h.vc = 2 → h.src.toNat ≤ 10 → h.dst.toNat ≤ 10 → guestAt s h.src.toNat = false →
      (∀ num : BitVec 4, h.src = 8 → h.dst.toNat < 8 → s.rbit (rDieIdent h.dst.toNat) 7 = false →
        exec (.disc h num) s = .next (sendDie ((creditBack s 0x30 h).setReg (rDieIdent h.dst.toNat) (put num.toNat 0 |||
          put (num.toNat / 4 % 2) 4 ||| put (num.toNat % 4) 5 ||| put 1 7)) 0x31 (dackHdr h) [0])) ∧
      (h.dst = 8 → let c := creditBack s 0x31 h
        exec (.dack h 0) s = .next
          { c with fabr := { c.fabr with acked := smSet 0 c.fabr.acked h.src.toNat (h.src.toNat + 1) } })) ∧
    (Heard s h 3 →
      (∀ data : BitVec 512, let c := creditBack s 0x38 h
        let b := smGet [] c.acc.inbuf (h.src.toNat * 16 + h.dst.toNat) ++ leBytes 64 data.toNat
        bF b 0 16 ≠ 0 → b.length < 16 * (min 16 (bF b 0 16 / 2 ^ 56 % 32) + 1) →
        exec (.accd h data) s = .next (sendAccc
          { c with acc := { c.acc with inbuf := smSet [] c.acc.inbuf (h.src.toNat * 16 + h.dst.toNat) b } }
          (unitHdr h.dst.toNat h.src.toNat h.part.toNat) 1 0 0 accdGrans)) ∧
      ∀ gid opseq count, let c := creditBack s 0x39 h
        let key := h.dst.toNat * 16 + h.src.toNat
        exec (.accc h .credit gid opseq count) s = .next (accRelease key c.acc.hold.length
          { c with acc := { c.acc with credit := smMod 0 c.acc.credit key (fun n => n + count.toNat) } }))

/-- SOFT_ROW_REPAIR_DONE ends a repair under way with counter 0x1050 + stack and record 0x0913, DIE_HBM_REPAIR of its die changed
by firmware; ROW_TRACKER_CLEAR empties the
tracker of one stack (R293, R599). HUB_MEMINIT makes its range INVALID and nothing else, BUSY from the start to the end; a
start outside one data range or one scratchpad way only sets ERR (R320). -/
def Obligations.MemoryUpkeep : Prop :=
  ∀ (k : Fin 16) (r : DramRow) (s : State),
    (rowWord k r ∈ s.fabr.fixing →
      let w := rowWord k r
      let u := { s with fabr := { s.fabr with
        fixing := s.fabr.fixing.filter (fun x => decide (x ≠ w)), soft := s.fabr.soft ++ [w], rows := smSet 0 s.fabr.rows w 0 } }
      ∃ t, exec (.softRowRepairDone k r) s = .next t ∧ Reported (firmwareMap u (rHbmRepair (k.val / 2))) t) ∧
    (∃ t, exec (.rowTrackerClear k) s = .next t ∧ t = { s with fabr := { s.fabr with rows := t.fabr.rows } } ∧
      ∀ w, smGet 0 t.fabr.rows w = if w % 16 = k.val then 0 else smGet 0 s.fabr.rows w) ∧
    (let a := s.fld rMeminitBase 47 12 * 4096
     let n := s.fld rMeminitSize 23 0
     s.up = true →
      (s.rbit rMeminitCtl 1 = false → meminitOk s a n = true →
        ∃ t, exec .meminitGo s = .next t ∧ t = { s with ent := t.ent, regs := t.regs, fabr := { s.fabr with init := true } } ∧
          t.rbit rMeminitCtl 1 = true ∧ (∀ x, x ≠ rMeminitCtl → t.reg x = s.reg x) ∧
          ∀ x, lstAt t x = if a ≤ x ∧ x < a + 4096 * n then 0 else lstAt s x) ∧
      ((s.rbit rMeminitCtl 1 = true ∨ meminitOk s a n = false) → exec .meminitGo s = .next (s.setRBit rMeminitCtl 3 true))) ∧
    (s.fabr.init = true → ∃ t, exec .meminitDone s = .next t ∧
      t = { s with regs := t.regs, fabr := { s.fabr with init := false } } ∧ t.rbit rMeminitCtl 2 = true ∧
      (t.rbit rMeminitCtl 1 = true ↔ ∃ p, p < 16 ∧ partState s p = 1) ∧ ∀ x, x ≠ rMeminitCtl → t.reg x = s.reg x)

/-- PATROL_SCRUB of a word without error leaves a block that matches its entry as it was and poisons one that does not, with the
memory agent's tag (R313). A way that becomes scratchpad is INVALID, a way that changes holds no cached line (R297), and BUSY holds until
SS_WAY_CHANGE_DONE; a change of a way
whose owner has started streams only sets ERR (R295, R316, R317). -/
def Obligations.ScrubAndWays : Prop :=
  ∀ (a : BitVec 48) (e : Ecc) (r : DramRow) (d : Fin 8) (mode : Bool) (v : Word) (s : State), s.up = true →
    (e.secded = .clean → e.onDie = .none → addrNack s a.toNat = 0 → s.rbit (rScrubCtl (homeDie a.toNat)) 8 = true →
      inStore s a.toNat = true → (∀ j, j < 64 → lineState (entryOf s a.toNat) j ≠ 2) →
      (imageCrc s a.toNat = (entryOf s a.toNat).crc → exec (.patrolScrub a e r) s = .next s) ∧
      (imageCrc s a.toNat ≠ (entryOf s a.toNat).crc →
        ∃ t, exec (.patrolScrub a e r) s = .next t ∧
          t = { s with ent := t.ent, regs := t.regs, hub := t.hub, out := t.out } ∧ (entryOf t a.toNat).tag = memTag ∧
          ∀ x, lstAt t x = if x / 4096 = a.toNat / 4096 ∧ lstAt s x = 1 then 2 else lstAt s x)) ∧
    (let w := if mode then rSsMode d else rSsOwner d
     let u := s.softWrite w v
     let changes := fun n => n < 12 ∧ wayChanges s u d n = true
     let busy := ∃ n, changes n ∧ (((wayIs s d n).2.1 = true ∧ anyStarted s (wayIs s d n).1 = true) ∨
       ((wayIs u d n).2.1 = true ∧ anyStarted s (wayIs u d n).1 = true))
     diePresent s d = true →
      ((s.rbit (rSsMode d) 62 = true ∨ busy) → exec (.ssWayWrite d mode v) s = .next (s.setRBit w 63 true)) ∧
      (s.rbit (rSsMode d) 62 = false → ¬ busy → (∀ n, ¬ changes n) → exec (.ssWayWrite d mode v) s = .next u) ∧
      (s.rbit (rSsMode d) 62 = false → ¬ busy → (∃ n, changes n) →
        ∃ t, exec (.ssWayWrite d mode v) s = .next t ∧
          t = { s with regs := (u.setRBit (rSsMode d) 62 true).regs, ent := t.ent, cache := t.cache } ∧
          (∀ k c, c ∈ smGet [] t.cache k → ¬ (k / 64 = d.val ∧ changes c.way)) ∧
          ∀ x, lstAt t x = if isSs x = true ∧ ssDie x = d.val ∧ changes (ssWay x) ∧ wayScratch u d (ssWay x) = true then 0
            else lstAt s x)) ∧
    exec (.ssWayChangeDone d) s = .next (s.setRBit (rSsMode d) 62 false)

/-- A queue that does not stall takes an entry with the next SEQ, and gives the entry at its head; the entries left follow it in
the order they entered. An intake queue takes the next submission entry, and its pipeline holds the entry at the head. A producer
that finds the tail full, or DEPTH + 32 entries held, stalls. A stranded tail of class 1 or 2 passes to the middle after
TAIL_TMO. Entries pass on through tail, middle and head, none lost and none made; the middle is written and read in memory (R310
to R312). -/
def Obligations.QueuesMove : Prop :=
  ∀ (q : Nat) (s : State), s.up = true →
    let v := getQueue s q
    let others := fun t : State => ∀ j, j ≠ q → getQueue t j = getQueue s j
    let moved := fun t : State => t = { s with queues := t.queues, mem := t.mem, ent := t.ent, cache := t.cache } ∧ others t
    (isControl q = true →
      (∀ payload : List (BitVec 64), payload.length = 7 → v.mrd ≤ v.mwr → queueStalls v = false →
        ∃ t, exec (.queuePush q payload 0 false) s = .next t ∧ moved t ∧ (getQueue t q).len = v.len + 1 ∧
          (getQueue t q).seq = v.seq + 1) ∧
      (∀ payload : List (BitVec 64), payload.length = 7 → v.tail = [] → v.mrd = v.mwr → v.head.length < 16 →
        ∃ t, exec (.queuePush q payload 0 false) s = .next t ∧ t = { s with queues := t.queues } ∧ others t ∧
          getQueue t q = { v with head := v.head ++ [⟨payload, 0, v.seq⟩], seq := v.seq + 1 }) ∧
      (∀ payload, queueStalls v = true → exec (.queuePush q payload 0 false) s = .next s) ∧
      (∀ x xs, v.head = x :: xs → v.mrd ≤ v.mwr →
        ∃ t ys, exec (.queuePop q 0 false) s = .next t ∧ moved t ∧ (getQueue t q).head = xs ++ ys ∧
          (getQueue t q).len + 1 = v.len) ∧
      (∀ x xs, v.head = x :: xs → v.tail = [] → v.mrd = v.mwr →
        ∃ t, exec (.queuePop q 0 false) s = .next t ∧ t = { s with queues := t.queues } ∧ others t ∧
          getQueue t q = { v with head := xs })) ∧
    (∀ (m : Fin 2) (n : Fin 16), q = qIntake m n → running s m n = true →
      let p := getPipe s m n
      let a := pSub p + 64 * (p.pushed % 2 ^ pSubLog p)
      let fed := fun t : State =>
        t = { s with queues := t.queues, pipes := t.pipes, mem := t.mem, ent := t.ent, cache := t.cache } ∧ others t ∧
          ∀ i j, pipeKey i j ≠ pipeKey m n → getPipe t i j = getPipe s i j
      (∀ payload bad, p.pushed % 2 ^ 32 ≠ s.fld (rRingTail m n) 31 0 → v.mrd ≤ v.mwr → queueStalls v = false →
        ∃ t, exec (.queuePush q payload bad false) s = .next t ∧ fed t ∧ (getQueue t q).len = v.len + 1 ∧
          (getQueue t q).seq = v.seq + 1 ∧ getPipe t m n = { p with pushed := p.pushed + 1 }) ∧
      (v.tail = [] → v.mrd = v.mwr → v.head.length < 16 → p.pushed % 2 ^ 32 ≠ s.fld (rRingTail m n) 31 0 → lstAt s a = 1 →
        bit ((BitVec.ofNat 512 (leNat (rawBytes s a 64))).extractLsb' 128 64) 33 = false →
        ∀ payload, ∃ t, exec (.queuePush q payload 0 false) s = .next t ∧ t = { s with queues := t.queues, pipes := t.pipes } ∧
          getQueue t q = { v with head := v.head ++ [⟨(List.range 7).map fun i =>
            (BitVec.ofNat 512 (leNat (rawBytes s a 64))).extractLsb' (64 * i) 64, 0, v.seq⟩], seq := v.seq + 1 } ∧
          getPipe t m n = { p with pushed := p.pushed + 1 }) ∧
      ∀ x xs bad, v.head = x :: xs → p.taken = none → v.mrd ≤ v.mwr →
        ∃ t ys, exec (.queuePop q bad false) s = .next t ∧ fed t ∧ (getQueue t q).head = xs ++ ys ∧
          (getQueue t q).len + 1 = v.len ∧ getPipe t m n = { p with taken := some { x with pois := x.pois ||| bad.toNat } }) ∧
    (isStepQ q = true → exec (.queuePop q 0 false) s = .next s) ∧
    ((v.cls = 1 ∨ v.cls = 2) → v.tmo ≠ 0 → v.tail ≠ [] → v.tail.length < 16 → v.mrd ≤ v.mwr →
      v.midLen + v.tail.length ≤ v.depth → ∃ t ys, exec (.queueTailTimeout q) s = .next t ∧ moved t ∧
        (getQueue t q).tail = [] ∧ (getQueue t q).head = v.head ++ ys ∧ (getQueue t q).len = v.len)

/-- START of an idle ring of a ready site whose descriptor passes every check makes the ring RUNNING with its positions 0; one
that fails a check makes it FAILED with the cause; STOP of a running ring makes it STOPPING and empties it; the last work
in flight makes it IDLE; the host's tail is stored (R324, R325, R328, R367, R368). -/
def Obligations.PipelineControl : Prop :=
  ∀ (m : Fin 2) (n : Fin 16) (s : State), mediaOk s m = true →
    (s.rbit (rAtzStat m) 0 = true → (ringState s m n = 0 ∨ ringState s m n = 3) →
      (∀ p, startCheck s m n = .inr p → ∃ t, exec (.atzStart m n) s = .next t ∧
        t = { s with regs := t.regs, pipes := t.pipes, queues := t.queues, ringOwn := t.ringOwn, hub := t.hub } ∧
        ringState t m n = 1 ∧ t.fld (rRingCtl m n) 23 16 = 0 ∧ getPipe t m n = p ∧
        (∀ i j, pipeKey i j ≠ pipeKey m n → getPipe t i j = getPipe s i j) ∧
        getQueue t (qIntake m n) = freshQueue (if pLive p then 1 else 0) (pSpill p) (pQdepth p) (pTmo p) ∧
        (∀ r, r ∈ [rRingTail m n, rRingHead m n, rRingEmit m n, rRingPos m n, rRingRes m n] → t.reg r = 0) ∧
        ∀ k, k < 15 → cntGet t (ringCnt m n k) 0 = ⟨0, false⟩) ∧
      ∀ cause, startCheck s m n = .inl cause → ∃ t, exec (.atzStart m n) s = .next t ∧ t = { s with regs := t.regs } ∧
        ringState t m n = 3 ∧ t.fld (rRingCtl m n) 23 16 = cause ∧ ∀ r, r ≠ rRingCtl m n → t.reg r = s.reg r) ∧
    ((s.rbit (rAtzStat m) 0 = false ∨ ringState s m n = 1 ∨ ringState s m n = 2) →
      exec (.atzStart m n) s = .next (s.setRBit (rRingCtl m n) 10 true)) ∧
    ((ringState s m n = 1 ∨ ringState s m n = 3) → (∀ a, (strmAt s a).wait ≠ .intake m n) →
      ∃ t, exec (.atzStop m n) s = .next t ∧ t = { s with regs := t.regs, pipes := t.pipes, queues := t.queues } ∧
        ringState t m n = 2 ∧ t.rbit (rRingCtl m n) 4 = false ∧ getQueue t (qIntake m n) = emptyQueue ∧
        getPipe t m n = { getPipe s m n with subs := [], samples := [], eods := [], members := [], closed := [], ready := [],
                                             taken := none, live := [] }) ∧
    (ringState s m n = 2 → ∃ t, exec (.pipelineIdle m n) s = .next t ∧ t = { s with regs := t.regs, pipes := t.pipes } ∧
      ringState t m n = 0 ∧ getPipe t m n = { getPipe s m n with vocab := [] }) ∧
    ∀ v, exec (.subTailWrite m n v) s = .next (s.setReg (rRingTail m n) (v.setWidth 64))

/-- SUBMISSION_TAKE gives the samples of an entry that passes its checks the next positions, and sets the end marker at the
next position for an EOD entry (R330, R331). SAMPLE_START reads the sample and admits it with its work budget (R332, R334), or
fails it with its cause; an exceeded budget fails it with cause 5 (R333); SAMPLE_RESOLVED makes it ready as its decode and
preparation give it, or fails it (R348). -/
def Obligations.SamplesProceed : Prop :=
  ∀ (m : Fin 2) (n : Fin 16) (s : State), running s m n = true →
    let p := getPipe s m n
    (∀ e s1, pLive p = false → takeEntry s m n = some (e, s1) → e.pois = 0 → (∀ i, 3 ≤ i → i < 7 → e.words.getD i 0 = 0) →
      let w := fun i => e.words.getD i 0
      (w 0 = 0 → w 1 = 0 → w 2 = 1#64 <<< 33 → exec (.submissionTake m n) s = .next (modPipe s1 m n fun p =>
        { p with eods := p.eods ++ [p.nextPos] })) ∧
      (∀ s2 h, bits (w 0) 63 48 = 0 → bits (w 2) 63 33 = 0 → shardHeader s1 p (w 0) = (s2, some h) →
        bits (w 1) 31 0 + bits (w 1) 63 32 ≤ bF h 8 4 →
        let c := if bits (w 1) 63 32 = 0 then bF h 8 4 - bits (w 1) 31 0 else bits (w 1) 63 32
        exec (.submissionTake m n) s = .next (modPipe s2 m n fun p => { p with
          subs := p.subs ++ [⟨p.nextPos, c, bits (w 0) 47 0, bits (w 1) 31 0, bits (w 2) 31 0, bit (w 2) 32⟩]
          nextPos := p.nextPos + c }))) ∧
    (let admitted := fun (pos : Nat) (u : State) (x : Sample) =>
      let q := getPipe u m n
      (codecCause q x ≠ 0 → exec (.sampleStart m n pos) s = .next (failSample u m n x (codecCause q x))) ∧
      (codecCause q x = 0 → ∀ v bs, vread u x.addr x.size (mediaReader q) = (v, some bs) →
        (∀ c, workBudget q x (headersOf x.codec bs) = .inl c → exec (.sampleStart m n pos) s = .next (failSample v m n x c)) ∧
        ∀ b, workBudget q x (headersOf x.codec bs) = .inr b → exec (.sampleStart m n pos) s =
          .next (modPipe v m n fun p => putSample p { x with stage := .decoding, units := b }))
     let waits := fun (pos : Nat) (x : Sample) => (findSample p pos = some x ∧ x.stage = .assigned) ∨
      (findSample p pos = none ∧ (s.reg (rRingPos m n)).toNat ≤ pos ∧ freshSample p pos = some x)
     (∀ pos x, pLive p = true → waits pos x → admitted pos s x) ∧
     ∀ pos x, pLive p = false → waits pos x → ∀ u e,
      vread s (indexAddr s x.shard x.idx) 32 (mediaReader p) = (u, some e) →
      let y := indexSample x e (readNat u (x.shard + 24) 8)
      (y.2 = true → admitted pos u y.1) ∧
      (y.2 = false → exec (.sampleStart m n pos) s = .next (failSample u m n y.1 8))) ∧
    (∀ pos x u, decoding s m n pos = some x → resolution s p x = (u, .inl 5) →
      exec (.workBudgetExceeded m n pos) s = .next (failSample u m n x 5) ∧
      (pLive p = false → ∃ t, exec (.workBudgetExceeded m n pos) s = .next t ∧
        t = { u with pipes := t.pipes, regs := t.regs, hub := t.hub, out := t.out } ∧
        getPipe t m n = putSample p { x with stage := .failed, fails := x.fails + 1, cause := 5,
                                             first := if x.fails = 0 then 5 else x.first })) ∧
    ∀ pos x u, decoding s m n pos = some x → (pReplay p = false ∨ dropNamed p x.sid = none) →
      (∀ c, resolution s p x = (u, .inl c) → exec (.sampleResolved m n pos) s = .next (failSample u m n x c)) ∧
      ∀ y, resolution s p x = (u, .inr y) →
        let v := modPipe u m n fun p => putSample p { y with stage := .ready }
        exec (.sampleResolved m n pos) s = .next (drainRing v m n) ∧
        ((s.reg (rRingPos m n)).toNat ≠ y.pos → findSample p (s.reg (rRingPos m n)).toNat = none →
          exec (.sampleResolved m n pos) s = .next v)

/-- RESERVE_ASSIGN gives the oldest failed position the next reserve entry (R349). BATCH_PUBLISH writes the next closed batch to its
slot and counts EMIT up (R357); EOD_FLUSH closes the partial batches in bucket order and puts the end marker after them (R354); a
live frame takes the next position, a stale one is dropped, in a replay as the record says, and a live bucket closes at its time
(R360 to R362). -/
def Obligations.BatchesProceed : Prop :=
  ∀ (m : Fin 2) (n : Fin 16) (s : State), running s m n = true →
    let p := getPipe s m n
    let pos := (s.reg (rRingPos m n)).toNat
    (∀ x, findSample p pos = some x → x.stage = .failed → p.eods.head? ≠ some pos →
      let cur := s.fld (rRingRes m n) 31 0
      let s1 := reserveWarn (s.setFld (rRingRes m n) 31 0 (cur + 1)) m n pos
      cur < pResCount p → ∀ s2 shard i, reserveEntry s1 p (pRes p + 16 * cur) = (s2, some (shard, i)) →
      ∃ t, exec (.reserveAssign m n pos) s = .next t ∧
        findSample (getPipe t m n) pos = some { x with stage := .assigned, shard := shard, idx := i } ∧
        ∃ ws, (getPipe t m n).fails = p.fails ++ [ws]) ∧
    (∀ b rest, p.closed = b :: rest → (s.reg (rRingEmit m n)).toNat < p.freed + pDepth p →
      let seq := (s.reg (rRingEmit m n)).toNat
      let u := writeBytes s (slotAddr p seq) (slotBytes p b seq) none
      ∃ t, exec (.batchPublish m n) s = .next t ∧
        t = { s with mem := u.mem, ent := u.ent, cache := u.cache, pipes := t.pipes, regs := t.regs, hub := t.hub, out := t.out } ∧
        (∃ arm, getPipe t m n = { p with closed := rest, ready := p.ready ++ [b], armed := arm }) ∧
        t.reg (rRingEmit m n) = BitVec.ofNat 64 (seq + 1)) ∧
    (p.eods.head? = some pos →
      let q := (List.range (pBuckets p)).foldl (fun q b => closeBatch q b true) p
      let u := setPipe s m n { q with eods := q.eods.drop 1, closed := q.closed ++ [⟨0, [], true, false, 0, pos, pos⟩] }
      exec (.eodFlush m n) s = .next (drainRing u m n) ∧
      (p.members = [] → findSample p pos = none → exec (.eodFlush m n) s = .next (setPipe s m n
        { p with eods := p.eods.drop 1, closed := p.closed ++ [⟨0, [], true, false, 0, pos, pos⟩] }))) ∧
    (∀ e s1, pLive p = true → takeEntry s m n = some (e, s1) → e.pois = 0 →
      let w := fun i => e.words.getD i 0
      let x := frameOf s1 e
      bits (w 0) 63 48 = 0 → bits (w 1) 63 48 = 0 → w 4 = 0 → w 5 = 0 → w 6 = 0 →
      hbmSpan s1 (pPart p) x.addr (max 1 x.size) = true →
      (pReplay p = false → stale s1 p x = false → ∃ t, exec (.liveFrameTake m n) s = .next t ∧
        getPipe t m n = { putSample (getPipe s1 m n) { x with pos := (getPipe s1 m n).nextPos } with
                          nextPos := (getPipe s1 m n).nextPos + 1 }) ∧
      (pReplay p = false → stale s1 p x = true → ∃ t, exec (.liveFrameTake m n) s = .next t ∧
        getPipe t m n = getPipe s1 m n) ∧
      ∀ r, pReplay p = true → nextDecision p = some r →
        let keeps := bits (r.getD 0 0) 7 0 = 0x12
        let sid := if keeps then r.getD 4 0 else r.getD 3 0
        let u := modPipe s1 m n fun p => { p with live := dropFirst (fun q => q = r) p.live }
        (sid.toNat ≠ x.sid → exec (.liveFrameTake m n) s = .next (failPipe s1 m n 0x0A)) ∧
        (sid.toNat = x.sid → exec (.liveFrameTake m n) s = .next (if keeps then keepFrame u m n x else dropFrame u m n x))) ∧
    ∀ (b : Fin 64) x, (smGet [] p.members b).getLast? = some x → pLive p = true → pReplay p = false → pFlush p ≠ 0 →
      ∃ t, exec (.liveFlushTimeout m n b) s = .next t ∧ getPipe t m n = closeBatch p b true

/-- A fault of a media die fails its pipelines with cause 0x09 and takes READY away; the end of its reset gives READY back unless
the third fault within an hour holds it; stated while no stream waits for a batch of that site (R326, R598). -/
def Obligations.MediaDieFaults : Prop :=
  ∀ (m : Fin 2) (unit : BitVec 8) (third : Bool) (s : State), mediaOk s m = true →
    ((∀ a i, (strmAt s a).wait ≠ .intake m i) →
      ∃ t, exec (.atomizerDieFault m unit third) s = .next t ∧ t.rbit (rAtzStat m) 0 = false ∧ t.rbit (rAtzStat m) 1 = true ∧
      (third = true → m.val ∈ t.hub.dead) ∧ (third = false → t.hub.dead = s.hub.dead) ∧
      ∀ n : Fin 16, ringState t m n = if ringState s m n = 1 then 3 else ringState s m n) ∧
    (m.val ∉ s.hub.dead → ∃ t, exec (.atomizerDieResetDone m) s = .next t ∧ t = { s with regs := t.regs, pipes := t.pipes } ∧
      t.rbit (rAtzStat m) 0 = true ∧ t.rbit (rAtzStat m) 1 = false ∧ (∀ r, r ≠ rAtzStat m → t.reg r = s.reg r) ∧
      ∀ n : Fin 16, getPipe t m n = { getPipe s m n with vocab := [] }) ∧
    (m.val ∈ s.hub.dead → exec (.atomizerDieResetDone m) s = .next s)

/-- EN of a present link starts training, but a port that had no rate left stays FAILED; EN = 0 and RETRAIN of one that carries no
traffic take its port to electrical idle, RETRAIN with every rate restored (R414, R415, R418). The third identical base page
ends the exchange once the partner has acknowledged the own ones and the capability words have a rate, its protocol and a
width in common (R412, R414). The third failure in a row at one rate removes it, and a port without a rate is FAILED (R415). -/
def Obligations.LinksTrain : Prop :=
  ∀ (l : Fin 48) (s : State), s.up = true →
    let k := getLnk s l
    (lnkEn s l = false → lnkPresent s l = true → k.dead = false → ∃ t, exec (.lnkEnable l) s = .next t ∧
      LinkTrains (s.setRBit (rLnkCtl l) 0 true) t l ∧ lnkEn t l = true) ∧
    (lnkEn s l = false → lnkPresent s l = true → k.dead = true →
      exec (.lnkEnable l) s = .next (setLnkState (s.setRBit (rLnkCtl l) 0 true) l 6)) ∧
    ((lnkEn s l = true ∨ lnkPresent s l = false) → exec (.lnkEnable l) s = .next (s.setRBit (rLnkCtl l) 0 true)) ∧
    (lnkEn s l = true → lnkPresent s l = true → lnkLive s l = false →
      (∃ t, exec (.lnkDisable l) s = .next t ∧ LinkIdle (s.setRBit (rLnkCtl l) 0 false) t l 0) ∧
      ∃ t, exec (.lnkRetrain l) s = .next t ∧ LinkIdle s t l 1 ∧ (getLnk t l).gone = 0 ∧ (getLnk t l).fails = 0 ∧
        (getLnk t l).dead = false) ∧
    (lnkEn s l = true → lnkPresent s l = true → k.step = 0 → lnkState s l ≤ 1 →
      ∃ t, exec (.trainingRestart l) s = .next t ∧ LinkTrains s t l) ∧
    (∀ cap serial port ack lanes, lnkEn s l = true → lnkPresent s l = true → (k.step = 1 ∨ k.step = 2) →
      let page := cap.toNat + serial.toNat * 2 ^ 64 + port.toNat * 2 ^ 112 + 2 ^ 118
      let n := if k.page = page then k.pages + 1 else 1
      let ends := 3 ≤ n ∧ (k.acked || ack) = true
      ∃ t, exec (.basePage l cap serial port ack lanes) s = .next t ∧
        ((¬ ends ∨ selOk t l = true) →
          t = { s with regs := t.regs, lnks := t.lnks } ∧ (getLnk t l).page = page ∧ (getLnk t l).pages = n ∧
          (getLnk t l).lanes = lanes.toNat ∧ (getLnk t l).acked = (k.acked || ack) ∧
          (¬ ends → lnkState t l = 2 ∧ (getLnk t l).step = 2 ∧ t.reg (rLnkPartner l) = s.reg (rLnkPartner l)) ∧
          (ends → lnkState t l = 3 ∧ (getLnk t l).step = 3 ∧ t.reg (rLnkPartner l) = cap)) ∧
        (ends → selOk t l = false → lnkState t l = 1 ∨ lnkState t l = 6)) ∧
    ∀ step : BitVec 3, (k.step = step.toNat ∨ (k.step = 3 ∧ 3 ≤ step.toNat ∧ step.toNat ≤ 6)) → k.step ≠ 0 → lnkState s l ≤ 3 →
      let r := tryRate s l
      let n := if k.rate = r then k.fails + 1 else 1
      ∃ t, exec (.trainingStepTimeout l step) s = .next t ∧ (getLnk t l).rate = r ∧
        (getLnk t l).fails = (if 3 ≤ n then 0 else n) ∧
        (getLnk t l).gone = (if 3 ≤ n ∧ r ≠ 0 then (BitVec.ofNat 3 k.gone ||| BitVec.ofNat 3 (2 ^ (r - 1))).toNat else k.gone) ∧
        (offered t l (s.reg (rLnkCtl l)) ≠ 0 → LinkIdle s t l 1) ∧
        (offered t l (s.reg (rLnkCtl l)) = 0 → lnkState t l = 6 ∧ (getLnk t l).dead = true ∧ t.rbit (rLnkEvent l) 2 = true)

/-- A keepalive carries the last data flit received in order, a NAK that is owed and a right FCRC. Once one has been sent and one
with ACK 0xFFF received in training, the link is UP at the rate of both words and a width of the working lanes (R408, R414).
Acknowledgement and credits of every valid flit are taken, and NAK replays from the flit after ACK; a data flit in order is
taken, one whose FCRC fails or that leaves a gap leaves NAK owed and is discarded (R407, R410). -/
def Obligations.FlitsPass : Prop :=
  ∀ (l : Fin 48) (f : Flit) (s : State),
    let k := getLnk s l
    let heard :=
      let u := ((afterSeq k k.ackRx).filter fun t => !(afterSeq k f.ack.toNat).contains t).foldl (flitAcked l)
        (setLnk s l { k with ackRx := f.ack.toNat, crdD := k.crdD + f.crdD.toNat, crdC := k.crdC + f.crdC.toNat })
      if f.nak = true then replayFrom u l f.ack.toNat else u
    let w := widthFor s l (laneCount k.lanes)
    let isUp := fun t : State =>
      t = { s with regs := t.regs, lnks := t.lnks, hub := t.hub, out := t.out, fresh := t.fresh } ∧
        lnkState t l = 4 ∧ t.fld (rLnkStat l) 9 8 = selRate s l ∧ t.fld (rLnkStat l) 13 12 = w % 4 ∧ (getLnk t l).rxSeq = 0xFFF ∧
        (getLnk t l).ackRx = 0xFFF ∧ (getLnk t l).fails = 0
    ((lnkState s l = 4 ∨ (pastSwitch s l = true ∧ k.kaIn = false)) → ∃ t g, exec (.keepaliveSend l) s = .next t ∧
      t = { s with fresh := s.fresh + 1, out := s.out ++ [.flit l 2 g], lnks := t.lnks } ∧
      (∀ j, j ≠ l.val → getLnk t j = getLnk s j) ∧
      getLnk t l = { k with nak := false, kaOut := k.kaOut || decide (lnkState s l ≠ 4) } ∧ g.nak = k.nak ∧ g.pay = [] ∧ g.seq = 0 ∧
      g.ack = (if lnkState s l = 4 then BitVec.ofNat 12 k.rxSeq else 0xFFF) ∧ g.fcrc = flitCrc (lnkProto s l) 2 g) ∧
    (pastSwitch s l = true → k.kaIn = true → ∃ t, exec (.keepaliveSend l) s = .next t ∧ isUp t) ∧
    (lnkState s l = 4 →
      (flitOk s l 2 f = true → exec (.keepaliveFlit l f) s = .next heard) ∧
      (flitOk s l 0 f = true → exec (.idleFlit l f) s = .next heard) ∧
      (flitOk s l 1 f = true → f.seq.toNat = (k.rxSeq + 1) % 4096 → k.rxSeq < 4096 →
        exec (.dataFlit l f) s = .next (setLnk heard l { getLnk heard l with rxSeq := f.seq.toNat, nak := false, gap := false })) ∧
      (let ahead := (f.seq.toNat + 8192 - k.rxSeq - 1) % 4096
       (flitOk s l 1 f = false ∨ (k.gap = false ∧ 0 < ahead ∧ ahead < 1024)) →
        exec (.dataFlit l f) s = .next (setLnk s l { k with nak := true, gap := true }))) ∧
    (pastSwitch s l = true → f.ack = 0xFFF → flitOk s l 2 f = true → widthOk s l w = true →
      (k.kaOut = false → exec (.keepaliveFlit l f) s = .next (setLnk s l { k with kaIn := true })) ∧
      (k.kaOut = true → ∃ t, exec (.keepaliveFlit l f) s = .next t ∧ isUp t))

/-- A DOWN flit, four missed windows in a row, a recovery that does not end, the loss of too many lanes, and EN = 0 or RETRAIN of
a link with traffic, which sends three DOWN flits first, lose a link, with the causes of Table 10.11; a seen window starts the
count again. A lane that fails while enough remain, and the partner's recovery pattern, take the link to recovery, which
ends at the widest width of the working lanes with a replay of what is not acknowledged (R416 to R418, R448). -/
def Obligations.LinksFail : Prop :=
  ∀ (l : Fin 48) (s : State), LinkAlone s l →
    let k := getLnk s l
    (∀ f, lnkLive s l = true → flitOk s l 4 f = true → ∃ t, exec (.downFlit l f) s = .next t ∧ LinkLost s t l 4 1) ∧
    (s.up = true → lnkEn s l = true → lnkPresent s l = true → lnkLive s l = true →
      (∃ t, exec (.lnkDisable l) s = .next t ∧ LinkLost (sendDown (s.setRBit (rLnkCtl l) 0 false) l) t l 5 0) ∧
      ∃ t, exec (.lnkRetrain l) s = .next t ∧ LinkLost (sendDown s l) t l 5 1 ∧ (getLnk t l).gone = 0) ∧
    (lnkState s l = 5 → ∃ t, exec (.linkRecoveryTimeout l) s = .next t ∧ LinkLost s t l 2 1) ∧
    (lnkState s l = 4 →
      exec (.keepaliveWindowEnd l true) s = .next (setLnk s l { k with miss := 0 }) ∧
      (k.miss < 3 → exec (.keepaliveWindowEnd l false) s = .next (setLnk s l { k with miss := k.miss + 1 })) ∧
      (3 ≤ k.miss → ∃ t, exec (.keepaliveWindowEnd l false) s = .next t ∧ LinkLost s t l 1 1) ∧
      ∃ t, exec (.recoveryPattern l) s = .next t ∧ t = { s with regs := t.regs, out := s.out ++ [.link l 5 []] } ∧
        lnkState t l = 5 ∧ t.fld (rLnkStat l) 19 18 = 0 ∧ ∀ r, r ≠ rLnkStat l → t.reg r = s.reg r) ∧
    (∀ lane : Fin 4, k.lanes / 2 ^ lane.val % 2 = 1 → lnkLive s l = true →
      let left := k.lanes - 2 ^ lane.val
      let w := widthFor s l (laneCount left)
      (widthOk s l w = true → ∃ t, exec (.laneFailure l lane) s = .next t ∧
        t = { s with regs := t.regs, lnks := t.lnks, hub := t.hub, out := t.out } ∧ lnkState t l = 5 ∧
        getLnk t l = { k with lanes := left } ∧ t.rbit (rLnkEvent l) (8 + lane.val) = true) ∧
      (widthOk s l w = false → ∃ t, exec (.laneFailure l lane) s = .next t ∧ LinkLost s t l 3 1)) ∧
    (lnkState s l = 5 →
      let w := widthFor s l (laneCount k.lanes)
      (widthOk s l w = true → ∃ t, exec (.linkRecoveryDone l) s = .next t ∧
        t = { s with regs := t.regs, lnks := t.lnks, hub := t.hub, out := t.out, fresh := t.fresh } ∧ lnkState t l = 4 ∧
        t.fld (rLnkStat l) 13 12 = w % 4 ∧ t.fld (rLnkStat l) 19 18 = bits (s.reg (rLnkPartner l)) 10 9 ∧
        getLnk t l = { k with miss := 0, nak := (getLnk t l).nak } ∧
        (w < s.fld (rLnkStat l) 13 12 → t.rbit (rLnkEvent l) 1 = true)) ∧
      (widthOk s l w = false → ∃ t, exec (.linkRecoveryDone l) s = .next t ∧ LinkLost s t l 3 1))

/-- ACTIVATE of a valid INACTIVE or FAILED record by its lead die makes the group ACTIVATING with OPSEQ 0, and rank 0 sends MEMBER to
its successor; another rank goes on with the lap that it holds. DEACTIVATE makes it INACTIVE; 100 ms without ACTIVE make it FAILED
with cause 5; what the die or the record does not accept sets ERR (R422, R423, R452, R454). -/
def Obligations.GroupsForm : Prop :=
  ∀ (d : Fin 8) (p : Fin 16) (g : BitVec 8) (s : State),
    let k := g.toNat
    let r := grpRec s p k
    let a := grpAddr s p k + 56
    let word := fun (t : State) => ∀ x, (x < a ∨ a + 8 ≤ x) → readByte t x = readByte s x
    ((leadDie s p ≠ d.val ∨ diePresent s d = false) →
      exec (.groupActivate d p g) s = .next (s.setRBit (rGcmd d) 15 true) ∧
      exec (.groupDeactivate d p g) s = .next (s.setRBit (rGcmd d) 15 true)) ∧
    (leadDie s p = d.val → diePresent s d = true → k < gtabCount s p → gValid r = true →
      (let begun := fun u : State =>
        u = { s with regs := u.regs, mem := u.mem, ent := u.ent, cache := u.cache, acc := { s.acc with early := u.acc.early } } ∧
        (∀ x, x ≠ rGcmd d → u.reg x = s.reg x) ∧ word u ∧ gState (grpRec u p k) = 1 ∧ gOpseq (grpRec u p k) = 0 ∧
        pgF (grpRec u p k) 7 15 8 = 0 ∧
        u.acc.early = s.acc.early.filter fun m => !(decide (m.h.gid.toNat = gGid r) && decide (m.h.dstRank.toNat = gMy r))
       (gState r = 0 ∨ gState r = 3) →
        (gMy r = 0 → ∃ u, begun u ∧ exec (.groupActivate d p g) s = .next (leadSend u p k (1 % gRanks r) 4 0
          [memberNat ⟨ownCap, 0, BitVec.ofNat 13 (gRanks r), gCanon r, false, 0xFF, 4⟩])) ∧
        (gMy r ≠ 0 → (∀ l, l ∈ s.acc.laps → l.1 ≠ p.val * 256 + k) → ∃ u, begun u ∧ exec (.groupActivate d p g) s = .next u) ∧
        (gMy r ≠ 0 → ∀ l, (s.acc.laps.find? fun x => decide (x.1 = p.val * 256 + k)) = some l → ∃ u, begun u ∧
          exec (.groupActivate d p g) s = .next (lapOne
            { u with acc := { u.acc with laps := u.acc.laps.filter fun x => decide (x.1 ≠ l.1) } } p k l.2.2))) ∧
      ((gState r = 2 ∨ gState r = 3) → (∀ c, c ∈ s.acc.colls → c.part = p.val → c.grp ≠ k) →
        ∃ t, exec (.groupDeactivate d p g) s = .next t ∧
          t = { s with regs := t.regs, mem := t.mem, ent := t.ent, cache := t.cache } ∧
          (∀ x, x ≠ rGcmd d → t.reg x = s.reg x) ∧ word t ∧ gState (grpRec t p k) = 0)) ∧
    (slgOn s p = false → k < gtabCount s p → gState r = 1 →
      ∃ t, exec (.groupActivationTimeout p g) s = .next t ∧
        t = { s with mem := t.mem, ent := t.ent, cache := t.cache, regs := t.regs, hub := t.hub, out := t.out } ∧ word t ∧
        gState (grpRec t p k) = 3 ∧ pgF (grpRec t p k) 7 15 8 = 5)

/-- MEMBER of lap 1 waits for a member that is not ACTIVATING and is checked by one that is; lap 2 makes an ACTIVATING member
ACTIVE with the formats and generations that the lap has gathered, its routes are held against its needs, and a member other than
rank 0 passes the lap on (R422, R423). ABORT of a number that has completed does nothing, any other fails an ACTIVE group with
cause 2; one that finds the activation under way fails it with cause 8 and goes on to the successor (R422, R423). -/
def Obligations.MembersAnswer : Prop :=
  ∀ (h : AccHdr) (m : MemberMsg) (p k : Nat) (s : State), p < 16 → slgOn s p = false →
    let r := grpRec s p k
    let a := grpAddr s p k + 56
    let changed := fun (t : State) =>
      t = { s with mem := t.mem, ent := t.ent, cache := t.cache, regs := t.regs, hub := t.hub, out := t.out } ∧
        ∀ x, (x < a ∨ a + 8 ≤ x) → readByte t x = readByte s x
    (groupNamed s h.gid.toNat h.dstRank.toNat = some (p, k) →
      (gState r ≠ 1 → m.lap2 = false → exec (.accordMember h m) s = .next { s with acc := { s.acc with
        laps := s.acc.laps.filter (fun l => decide (l.1 ≠ p * 256 + k)) ++ [(p * 256 + k, h, m)] } }) ∧
      (gState r = 1 → m.lap2 = false → exec (.accordMember h m) s = .next (lapOne s p k m)) ∧
      (gState r = 1 → m.lap2 = true → ∃ u, changed u ∧
        gState (grpRec u p k) = 2 ∧ gFmt (grpRec u p k) = m.fmt.toNat ∧ gGens (grpRec u p k) = m.genMask.toNat ∧
        let v := checkRoute u p k 0x3F
        exec (.accordMember h m) s = .next (if gMy r = 0 then v else sendMember v p k true m.fmt.toNat m.genMask.toNat))) ∧
    (groupFor s h.gid.toNat h.dstRank.toNat = some (p, k) →
      (gState r = 1 → ∃ u, changed u ∧ gState (grpRec u p k) = 3 ∧ pgF (grpRec u p k) 7 15 8 = 8 ∧
        exec (.accordAbort h) s = .next (leadSend u p k ((gMy r + 1) % gRanks r) 3 0 [])) ∧
      (gState r = 2 →
        let d := (gOpseq r % 256 + 256 - h.opseq.toNat) % 256
        let finished := (∀ c, c ∈ s.acc.colls → collNamed c p k h = false) ∧ h.aux = 0 ∧ 1 ≤ d ∧ d ≤ 128
        (finished → exec (.accordAbort h) s = .next s) ∧
        (¬ finished → exec (.accordAbort h) s = .next (groupFail s p k 2 h.srcRank.toNat 0x3F)))) ∧
    (groupNamed s h.gid.toNat h.dstRank.toNat = none →
      exec (.accordMember h m) s = .next (accForward s none 4 h [memberNat m])) ∧
    (groupFor s h.gid.toNat h.dstRank.toNat = none → exec (.accordAbort h) s = .next (accForward s none 3 h []))

/-- The Accord messages of a collective reach it: DATA bytes are kept at their offset, DONE and GRANT are noted, NREC records held; an
equal digest is noted and lets in what waited behind it, one that differs fails the collective with cause 3. A message that no
collective takes yet waits; one for another rank of a group goes on by our route (R421, R428, R430, R434, R437, R440). -/
def Obligations.CollectiveMessages : Prop :=
  ∀ (h : AccHdr) (s : State),
    let group := groupFor s h.gid.toNat h.dstRank.toNat
    let src := h.srcRank.toNat
    (group = none →
      (∀ data, exec (.accordData h data) s = .next (accForward s none 1 h (data.map BitVec.toNat))) ∧
      exec (.accordDone h) s = .next (accForward s none 2 h []) ∧ exec (.grant h) s = .next (accForward s none 9 h []) ∧
      (∀ d, exec (.hdr h d) s = .next (accForward s none 8 h [digestNat d])) ∧
      ∀ rec, exec (.nrec h rec) s = .next (accForward s none 5 h
        [bits rec 127 0, bits rec 255 128, bits rec 383 256])) ∧
    ∀ p k, group = some (p, k) →
      let waits := fun (i : Instr) (m : AccMsg) => collFor s p k m = none →
        exec i s = .next { s with acc := { s.acc with early := s.acc.early ++ [m] } }
      let goes := fun (c d : Coll) => collGo (setColl s d) (collAt c) c.iseq
      let reaches := fun (i : Instr) (m : AccMsg) (d : Coll → Coll) => ∀ c f, collFor s p k m = some c →
        findFlight (strmAt s (collAt c)) c.iseq = some f → exec i s = .next (goes c (d c))
      (∀ data : List (BitVec 128), let m : AccMsg := ⟨1, h, data.map BitVec.toNat, none⟩
        waits (.accordData h data) m ∧
        reaches (.accordData h data) m fun c => rxStore c src h.offset.toNat h.pois (data.map BitVec.toNat)) ∧
      (let m : AccMsg := ⟨2, h, [], none⟩
       waits (.accordDone h) m ∧ reaches (.accordDone h) m fun c => { c with done := (c.done ++ [src]).dedup }) ∧
      (let m : AccMsg := ⟨9, h, [], none⟩
       waits (.grant h) m ∧ reaches (.grant h) m fun c => { c with grants := (c.grants ++ [(src, h.aux.toNat)]).dedup }) ∧
      (∀ rec : BitVec 384, let m : AccMsg := ⟨5, h, [bits rec 127 0, bits rec 255 128, bits rec 383 256], none⟩
        waits (.nrec h rec) m ∧ reaches (.nrec h rec) m fun c => { c with nrecs := smSet 0 c.nrecs src (rec.toNat + 1) }) ∧
      ∀ d : CollDigest, let m : AccMsg := ⟨8, h, [digestNat d], some d⟩
        waits (.hdr h d) m ∧
        ∀ c f, collFor s p k m = some c → findFlight (strmAt s (collAt c)) c.iseq = some f →
          let u := if d = collDigest c f then goes c { c with hdrs := c.hdrs ++ [src] } else collFail s c 3 src 0x3F
          exec (.hdr h d) s = .next (replayEarly (collAt c) c.iseq u.acc.early.length u)

/-- A fingerprint without its pair is held; the pair of an equal one is a check that passes, counted in 0x1B; on a mismatch the block
CRCs go to the predecessor (R442, R443). The predecessor's block CRCs, once all are there, end a comparison with event 0x0407; the
successor's are answered with our own (R443). One for another rank goes on (R421). -/
def Obligations.FingerprintMessages : Prop :=
  ∀ (h : AccHdr) (tid : BitVec 32) (gstep fp : BitVec 64) (crcs : List (BitVec 32)) (s : State),
    (groupFor s h.gid.toNat h.dstRank.toNat = none →
      exec (.fpx h tid gstep fp) s = .next (accForward s none 6 h [fpxNat tid.toNat gstep.toNat fp.toNat]) ∧
      exec (.blkx h tid gstep crcs) s = .next (accForward s none 7 h (blkxGrans tid.toNat gstep.toNat crcs))) ∧
    ∀ p k, groupFor s h.gid.toNat h.dstRank.toNat = some (p, k) →
    let x : FpRec := ⟨p, false, h.srcRank.toNat, tid.toNat, gstep.toNat, fp, []⟩
    (s.acc.held.find? (fpSame x) = none → (s.acc.held.filter fun y => decide (y.part = p)).length < 4096 →
      exec (.fpx h tid gstep fp) s = .next { s with acc := { s.acc with held := s.acc.held ++ [x] } }) ∧
    (∀ y, s.acc.held.find? (fpSame x) = some y → ∃ u,
      Reported { s with acc := { s.acc with held := dropFirst (fpSame x) s.acc.held } } u ∧
      (y.fp = fp → exec (.fpx h tid gstep fp) s = .next u) ∧
      (y.fp ≠ fp → exec (.fpx h tid gstep fp) s = .next (sendBlkx
        { u with acc := { u.acc with wrong := u.acc.wrong ++ [({ y with rank := h.srcRank.toNat }, [])] } }
        p k h.srcRank.toNat y))) ∧
    (let mine := fun (y : FpRec) => decide (y.part = p) && decide (y.tid = tid.toNat) && decide (y.gstep % 2 ^ 32 = gstep.toNat % 2 ^ 32)
     let open_ := s.acc.wrong.find? fun z => mine z.1 && decide (z.1.rank = h.srcRank.toNat)
     (∀ y, open_ = none → s.acc.last.find? mine = some y →
      exec (.blkx h tid gstep crcs) s = .next (if h.offset = 0 then sendBlkx s p k h.srcRank.toNat y else s)) ∧
     ∀ z, open_ = some z →
      let got := z.2 ++ crcs
      (got.length < z.1.crcs.length → exec (.blkx h tid gstep crcs) s = .next { s with acc := { s.acc with
        wrong := s.acc.wrong.map fun y => if y = z then (z.1, got) else y } }) ∧
      (z.1.crcs.length ≤ got.length → s.rbit (rFpmisRanks (leadDie s p)) 63 = false →
        ∃ t, exec (.blkx h tid gstep crcs) s = .next t ∧ t.acc.wrong = dropFirst (fun y => y = z) s.acc.wrong ∧
          t = { s with acc := { s.acc with wrong := t.acc.wrong }, regs := t.regs, hub := t.hub, out := t.out } ∧
          t.rbit (rFpmisRanks (leadDie s p)) 63 = true ∧
          t.fld (rFpmisId (leadDie s p)) 63 32 = firstDiff z.1.crcs (got.take z.1.crcs.length) % 2 ^ 32))

/-- A bridge module that exceeds its lane errors is retrained on a free redundant lane, which the repair record keeps and firmware
takes into its lane maps; a replayed flit is counted, and the seventeenth within 1 ms retrains its module; without a free lane the
module leaves service; a retrained module carries traffic again (R373, R379, R387, R597). -/
def Obligations.BridgeModules : Prop :=
  ∀ (e : Fin 16) (m : Fin 8) (lane : BitVec 8) (s : State),
    let key := e.val * 8 + m.val
    let used := smGet 0 s.fabr.lanes key
    let repaired := fun (t : State) => t = { s with fabr := t.fabr, regs := t.regs, hub := t.hub, out := t.out, fresh := t.fresh } ∧
      modState t e m = 1 ∧ smGet 0 t.fabr.lanes key = used + 1 ∧ (repairOf t).gen = (repairOf s).gen + 1 ∧
      (repairOf t).lanes = (repairOf s).lanes ++ [e.val + m.val * 16 + lane.toNat * 128 + (64 + used) * 32768 + 2 ^ 31]
    let late := replayTimes s key
    (modLive s e m = true → used < 4 →
      (∃ t, exec (.bridgeModuleRetrain e m lane) s = .next t ∧ repaired t) ∧
      (16 < late.length → ∃ t, exec (.bridgeFlitReplay e m lane) s = .next t ∧ repaired t)) ∧
    (modLive s e m = true → 4 ≤ used → ∃ u, Reported s u ∧ exec (.bridgeModuleRetrain e m lane) s = .next (modOut u e m)) ∧
    (modLive s e m = true → late.length ≤ 16 → ∃ u, Reported s u ∧ exec (.bridgeFlitReplay e m lane) s =
      .next { u with fabr := { u.fabr with replays := smSet [] u.fabr.replays key late } }) ∧
    (modState s e m = 1 →
      (∃ t, exec (.moduleRetrainDone e m true) s = .next t ∧ t = { s with fabr := { s.fabr with mods := t.fabr.mods } } ∧
        modState t e m = 0 ∧ ∀ k, k ≠ key → smGet 0 t.fabr.mods k = smGet 0 s.fabr.mods k) ∧
      exec (.moduleRetrainDone e m false) s = .next (modOut s e m))

/-- A guest's read or write that a window admits and that finds its tokens reaches HBM: a read is answered with the line, a write
stores the bytes of its mask; one that no window admits is answered NACK, counted and stores nothing; a message on the wrong VC
is discarded with its record, a sideband message is a violation (R375, R390 to R396). -/
def Obligations.GuestAccesses : Prop :=
  ∀ (m : Fin 2) (h : DieHdr) (mask : BitVec 64) (data : BitVec 512) (lim : Bool) (s : State),
    s.up = true → guestIn s m = true → fenced s m = false →
    (∀ ty, exec (.guestMessage m ty h mask data true lim) s = .next (violation s m 4 ty.toNat 0)) ∧
    (∀ ty : BitVec 6, h.vc.toNat ≠ typeVc ty.toNat →
      exec (.guestMessage m ty h mask data false lim) s = .next (discardRecord s ty.toNat { h with dst := 8 })) ∧
    (h.vc = 0 →
    let line := h.addr.toNat / 64 * 64
    let free := (getSite s m).waits.length + (getSite s m).outs.length < max 1 (s.fld (rFwRate m) 42 32)
    (∀ k, winFor s m ⟨1, h, mask, data⟩ = .inr k → winHost s m k = false → free →
      (∀ w, w ∈ (getSite s m).waits → w.ty ≠ 1) → (getSite s m).rdUse + 64 ≤ bucketSize s m →
      (∀ c, ReadsClean { s with fabr := { s.fabr with sites := c } } (span line 64) ⟨⟨0, 0, 3, 3⟩, some (winPart s m k), 0xFFFFFFFF, 0⟩) →
      ∃ t, exec (.guestMessage m 1 h mask data false lim) s = .next t ∧
        t = { s with fabr := t.fabr, out := t.out, cache := t.cache } ∧
        t.out = s.out ++ [.die 0x21 (respHdr h 1 0 (decide (lstAt s line = 2))) [lineData s line]] ∧
        getSite t m = { getSite s m with rdUse := (getSite s m).rdUse + 64 }) ∧
    (∀ (wrp : Bool) k, let g : GuestMsg := ⟨if wrp then 3 else 2, h, mask, data⟩
      winFor s m g = .inr k → winHost s m k = false → free → (∀ w, w ∈ (getSite s m).waits → w.ty = 1) →
      (getSite s m).wrUse + guestCost g ≤ bucketSize s m →
      ∃ t, exec (.guestMessage m (if wrp then 3 else 2) h mask data false lim) s = .next t ∧
        t = { s with fabr := t.fabr, mem := t.mem, ent := t.ent, cache := t.cache,
                     out := s.out ++ [.die 0x23 (respHdr h 1 0 false) []] } ∧
        getSite t m = { getSite s m with wrUse := (getSite s m).wrUse + guestCost g } ∧
        ∀ x, readByte t x = if x / 64 = line / 64 ∧ (wrp = false ∨ bit mask (x % 64) = true)
          then data.extractLsb' (8 * (x % 64)) 8 else readByte s x) ∧
    (∀ kind, winFor s m ⟨1, h, mask, data⟩ = .inl kind → s.fld (rFwCtl m) 17 10 + 1 < max 1 (s.fld (rFwCtl m) 9 2) →
      ∃ t, exec (.guestMessage m 1 h mask data false lim) s = .next t ∧
        t = { s with regs := t.regs, out := s.out ++ [.die 0x24 (respHdr h 1 2 false) []] } ∧
        t.fld (rFwCtl m) 17 10 = s.fld (rFwCtl m) 17 10 + 1 ∧ ∀ r, r ≠ rFwCtl m → r ≠ rFwViol m → t.reg r = s.reg r))

/-- The buckets of a guest refill with time; a write of a window register of a valid window sets ERR unless it makes the window
invalid, and VALID = 1 needs what R391 permits (R391, R394, R397, R403). -/
def Obligations.GuestUpkeep : Prop :=
  ∀ (m : Fin 2) (s : State), s.up = true → guestIn s m = true →
    (∀ us, (getSite s m).waits = [] → ∃ t, exec (.guestTokenRelease m us) s = .next t ∧
      t = { s with fabr := { s.fabr with sites := t.fabr.sites } } ∧ getSite t m = { getSite s m with
        rdUse := (getSite s m).rdUse - max 1 (s.fld (rFwRate m) 9 0) * 1000 * us
        wrUse := (getSite s m).wrUse - max 1 (s.fld (rFwRate m) 19 10) * 1000 * us }) ∧
    ∀ (k : Fin 8) (v : BitVec 64),
      (bit v 63 = false → exec (.guestWindowWrite m k false v) s = .next (s.softWrite (rFwBase m k) v)) ∧
      (winValid s m k = true →
        exec (.guestWindowWrite m k true v) s = .next (s.setRBit (rFwCtl m) 18 true) ∧
        (bit v 63 = true → exec (.guestWindowWrite m k false v) s = .next (s.setRBit (rFwCtl m) 18 true))) ∧
      (winValid s m k = false →
        exec (.guestWindowWrite m k true v) s = .next (s.softWrite (rFwSize m k) v) ∧
        (bit v 63 = true → exec (.guestWindowWrite m k false v) s = .next
          (if winLegal (s.softWrite (rFwBase m k) v) m k = true then s.softWrite (rFwBase m k) v else s.setRBit (rFwCtl m) 18 true)))

/-- An enabled port that trains at an accepted rate and width is UP, with event 0x0504, 32 GT/s only after 64 GT/s has failed three
times; the requests that waited go on it, and the return of the first port sets the intake of jobs going again. One that fails is
in training with its cause, with event 0x0505; its requests go on the other, and the loss of the last one pauses the intake of
jobs (R459 to R461, R497). -/
def Obligations.HostPorts : Prop :=
  ∀ (n : Fin 2) (s : State), s.up = true →
    (∀ r64 x16 rev failed, portUp s n = false → s.rbit rShlCtl n = true →
      (r64 = true ∨ (s.rbit rShlCtl 3 = true ∧ 3 ≤ failed)) → (x16 = true ∨ s.rbit rShlCtl 2 = true) →
      ∃ u w, Reported (sendHeld u) w ∧ u = s.setReg (rShlStat n) (u.reg (rShlStat n)) ∧
        exec (.shlPortUp n r64 x16 rev failed) s = .next (if portUp s (1 - n.val) = true then w else linkBack w n) ∧
        portUp u n = true ∧ u.fld (rShlStat n) 4 3 = 1 + b2n r64 ∧ u.fld (rShlStat n) 6 5 = 1 + b2n x16 ∧
        u.rbit (rShlStat n) 7 = rev ∧ u.fld (rShlStat n) 23 8 = (s.fld (rShlStat n) 23 8 + 1) % 65536) ∧
    (∀ cause : BitVec 4, portUp s n = true → 1 ≤ cause.toNat → cause.toNat ≤ 3 →
      let u := s.setReg (rShlStat n) (put (if s.rbit rShlCtl n then 1 else 0) 0 ||| put (s.fld (rShlStat n) 23 8) 8 |||
        put cause.toNat 24)
      ∃ w, Reported u w ∧
        (portUp s (1 - n.val) = true → exec (.shlPortDown n cause) s = .next (sendHeld (unsend w n))) ∧
        (portUp s (1 - n.val) = false → let q := unsend w n
          ∃ t, exec (.shlPortDown n cause) s = .next t ∧
            Reported ({ q with hub := { q.hub with lost := true } }.setRBit rJobStat 13 true) t)) ∧
    (∀ v : BitVec 32, exec (.shlCtlWrite v) s = .next (portEnable (portEnable (s.softWrite rShlCtl (v.setWidth 64)) 0) 1)) ∧
    (∀ v : BitVec 32, (∀ k, k < 2 → portUp s k = false) →
      ∃ t, exec (.shlCtlWrite v) s = .next t ∧ t = { s with regs := t.regs } ∧
        t.reg rShlCtl = (s.softWrite rShlCtl (v.setWidth 64)).reg rShlCtl ∧
        ∀ k, k < 2 → t.fld (rShlStat k) 2 0 = if t.rbit rShlCtl k = true then
          (if s.fld (rShlStat k) 2 0 = 0 then 1 else s.fld (rShlStat k) 2 0) else 0) ∧
    ∀ (k : Fin 16) (v : BitVec 64),
      (s.rbit (rHwinBase k) 63 = true → exec (.shlHwinWrite k true v) s = .next (s.setRBit (rHwinCtl k) 63 true) ∧
        exec (.shlHwinWrite k false v) s = .next
          (if bit v 63 = true then s.setRBit (rHwinCtl k) 63 true else s.softWrite (rHwinBase k) v)) ∧
      (s.rbit (rHwinBase k) 63 = false → exec (.shlHwinWrite k true v) s = .next (s.softWrite (rHwinCtl k) v) ∧
        exec (.shlHwinWrite k false v) s = .next (s.softWrite (rHwinBase k) v))

/-- Read data that answers a request enters the cache, unless the host refused it or poisoned it; CMP ends a write-back; a request
that waits for a tag then goes; a snoop is answered with the data of a modified line and gives the line up or shares it, and a bad
word in it is fatal; a request that waits 100 ms fails the die reads that wait for it; a message on the wrong CH is discarded
with record 0x0907 (R461 to R466). -/
def Obligations.HostCache : Prop :=
  ∀ (h : ShlHdr) (bad : Bool) (data : BitVec 512) (s : State), s.up = true → portUp s h.port = true →
    let less := fun r => { s.hub with hreqs := s.hub.hreqs.filter (fun q => decide (q ≠ r)) }
    (h.ch = 1 →
      (∀ r, (s.hub.hreqs.find? fun r => decide (r.port = h.port.val ∧ r.tag = h.tag.toNat ∧ (r.ty = 0x11 ∨ r.ty = 0x12))) = some r →
        let u := sendHeld { s with hub := less r }
        let failed := fun v : State =>
          let t := failWrites v r.line fun _ => true
          if hubRestarting t = true then t else hostPump t.hub.hwrites.length t
        (∀ pois, exec (.shlData h pois true data) s =
          .next (failed (answerWaiting u r.line fun s h => sendNack s h 2))) ∧
        exec (.shlData h true false data) s =
          .next (failed (hostRequest (answerWaiting u r.line (rdataTo data.toNat true)) 0x14 r.line [])) ∧
        (s.fabr.hostq = [] → (∀ k, k < 2 → (getSite s k).outs = []) → s.hub.hwrites = [] → watched s r.line = false →
          findLine s r.line = none → victim s r.line = none →
          ∃ t, exec (.shlData h false false data) s = .next t ∧ t.hub = { u.hub with hlines := t.hub.hlines } ∧
            t = { u with hub := t.hub, fabr := t.fabr } ∧
            findLine t r.line = some ⟨r.line, if r.ty = 0x12 then .exclusive else .shared, leBytes 64 data.toNat, false⟩ ∧
            ∀ l, l ≠ r.line → findLine t l = findLine s l)) ∧
      ∀ r, (s.hub.hreqs.find? fun r => decide (r.port = h.port.val ∧ r.tag = h.tag.toNat ∧ (r.ty = 0x13 ∨ r.ty = 0x14))) = some r →
        ∀ refused, let u := sendHeld { s with hub := less r }
          exec (.cmp h refused) s = .next (if refused = true ∧ r.ty = 0x13 then lostStatus u r.line else u)) ∧
    (h.ch = 2 →
      let line := h.addr.toNat / 64
      let answer := fun d => s.out ++ [OutMsg.shl h.port 0x38 3 h.tag.toNat h.addr.toNat false false d]
      (findLine s line = none → exec (.snpi h bad) s = .next { s with out := answer [] } ∧
        exec (.snps h bad) s = .next { s with out := answer [] }) ∧
      ∀ l, findLine s line = some l → watched s line = false →
        let held := if l.st = .modified then l.data else []
        (l.st = .modified →
          exec (.snpi h true) s = .next (fatal s { code := 0x09F2, cls := 4, unit := 8, addr := line * 64 }) ∧
          exec (.snps h true) s = .next (fatal s { code := 0x09F2, cls := 4, unit := 8, addr := line * 64 })) ∧
        (∃ t, exec (.snpi h false) s = .next t ∧ t = { s with hub := { s.hub with hlines := t.hub.hlines }, out := answer held } ∧
          findLine t line = none ∧ ∀ k, k ≠ line → findLine t k = findLine s k) ∧
        ∃ t, exec (.snps h false) s = .next t ∧ t = { s with hub := { s.hub with hlines := t.hub.hlines }, out := answer held } ∧
          findLine t line = some { l with st := .shared } ∧ ∀ k, k ≠ line → findLine t k = findLine s k) ∧
    (h.ch ≠ 1 → ∃ t, exec (.cmp h false) s = .next t ∧ Reported s t) ∧
    ∀ (tag : BitVec 12) r q, (s.hub.hreqs.find? fun r => decide (r.tag = tag.toNat ∧ (r.ty = 0x11 ∨ r.ty = 0x12))) = some r →
      s.fabr.hostq = [q] → (q.h.addr.toNat - hostAperture) / 64 = r.line → (∀ k, k < 2 → (getSite s k).outs = []) →
      s.hub.hwrites = [] → longRunning s 3 = none →
      ∃ t, exec (.hostAccessTimeout tag) s = .next t ∧
        t = { s with fabr := t.fabr, out := s.out ++ [.die 0x24 (respHdr q.h 1 3 false) []] } ∧ t.fabr.hostq = []

/-- The host reads and writes whole lines of device memory; what it may not touch answers refused, reads with all ones, and is
counted and captured (R467, R468, R497, R498). -/
def Obligations.HostMemoryAccesses : Prop :=
  ∀ (h : ShlHdr) (n : Nat) (mask : BitVec 64) (data : BitVec 512) (s : State), s.up = true → portUp s h.port = true → h.ch = 0 →
    let a := h.addr.toNat
    let read := fun d refused => OutMsg.shl h.port 0x21 1 h.tag.toNat a false refused d
    let done := fun refused => OutMsg.shl h.port 0x22 1 h.tag.toNat a false refused []
    isReg a = false →
    (memReason s a = 0 → ReadsClean s (span (a / 64 * 64) 64) hostReader → ∃ u : State, u = { s with cache := u.cache } ∧
      exec (.mrd h n) s = .next (u.send (read (readBytes s (a / 64 * 64) 64) false))) ∧
    (memReason s a = 0 → (∀ p, p < 16 → slgOn s p = false) →
      (∃ t, exec (.mwr h data) s = .next t ∧ t = { s with mem := t.mem, ent := t.ent, cache := t.cache, out := s.out ++ [done false] } ∧
        ∀ x, readByte t x = if x / 64 = a / 64 then data.extractLsb' (8 * (x % 64)) 8 else readByte s x) ∧
      ∃ t, exec (.mwrp h mask data) s = .next t ∧ t = { s with mem := t.mem, ent := t.ent, cache := t.cache, out := s.out ++ [done false] } ∧
        ∀ x, readByte t x = if x / 64 = a / 64 ∧ bit mask (x % 64) = true then data.extractLsb' (8 * (x % 64)) 8
          else readByte s x) ∧
    (memReason s a ≠ 0 →
      (∃ u, Reported s u ∧ exec (.mrd h n) s = .next ((captRefuse u a 1 h.port (memReason s a)).send (read (List.replicate 64 0xFF) true))) ∧
      ∃ u, Reported s u ∧ exec (.mwr h data) s = .next ((captRefuse u a 2 h.port (memReason s a)).send (done true)))

/-- A whole write of a register without a command or a rule of its own sets its RW bits to the value (0 in PERIOD_H of
DIE_SCRUB_CTL acts as 1, Table 7.18), clears the W1C bits written
with 1 and keeps the others; half of a 64-bit register waits for the other (R19, R20, R287). A read answers in the
register's place. The management controller writes PWR_ registers alike (R586, R626). -/
def Obligations.RegisterAccesses : Prop :=
  ∀ (a : BitVec 48) (r : RegSpec) (v : BitVec 64) (s : State), regSpec a.toNat = some r →
    let plain := fun (b : Nat) (x : Word) (t : State) => t = { s with regs := t.regs } ∧ (∀ k, k ≠ b → t.reg k = s.reg k) ∧
      ∀ i, i < 64 → bit (t.reg b) i = if bit r.rw i = true then bit x i
        else if bit r.w1c i = true ∧ bit x i = true then false else bit (s.reg b) i
    (∀ (d : Fin 8) o, a.toNat = dieR d o → o < 0x10000 → o ≠ 0x100 → o ≠ 0x108 → s.up = true → anyPortUp s = true →
      regReason s a.toNat (r.width / 8) true = 0 →
      (∃ t, exec (.registerWrite .host a (r.width / 8) v) s = .next t ∧
        plain a.toNat (if o = 0x110 ∧ bits v 7 0 = 0 then setBits v 7 0 1 else v) t) ∧
      (r.width = 64 → exec (.registerWrite .host a 4 v) s = .next { s with hub := { s.hub with half := smSet 0 s.hub.half a.toNat (v.setWidth 32) } })) ∧
    (∀ n, regReason s a.toNat n true ≠ 0 → s.up = true → anyPortUp s = true →
      ∃ u, Reported s u ∧ exec (.registerWrite .host a n v) s = .next
        (captRefuse u a.toNat 3 (hostPort s a.toNat) (regReason s a.toNat n true))) ∧
    (∀ o : BitVec 16, a.toNat = pwrR o.toNat → o ≠ 0x08 → o ≠ 0x10 → o ≠ 0x80 → o.toNat % 4 = 0 → s.mod.phase ≠ .off → r.width = 64 →
      ∀ bus (b : List Byte), b.length = 8 → ∃ t, exec (.i3cRegisterWrite bus o b) s = .next t ∧ plain a.toNat (BitVec.ofNat 64 (leNat b)) t) ∧
    ∀ h : ShlHdr, h.addr = a → a.toNat % 8 = 0 → isReg a.toNat = true → h.ch = 0 → s.up = true → portUp s h.port = true → regReason s a.toNat 8 false = 0 →
      ∃ t, exec (.mrd h 8) s = .next t ∧ ∃ line, t = s.send (.shl h.port 0x21 1 h.tag.toNat a.toNat false false line) ∧
        line.length = 64 ∧ ((line.drop (a.toNat % 64)).take 8) = leBytes 8 (regRead s a.toNat).toNat

/-- JOB_TAKE takes a pending record whose lines the hub holds: QUEUED is written and INFLIGHT counts it, and a STEP enters the step
queue of its context; an unknown TYPE fails with 0x40; a line with a bad word is asked for again (R465, R471, R475, R479). JOB_STEP
makes a record that passes its checks wait for its context, and fails one that does not (R475, R491). ABORT ends the STEP of its
context ABORTED with 0x45, running or waiting, and then itself DONE; a record with a wrong field fails with 0x40 (R478). -/
def Obligations.JobsTaken : Prop :=
  ∀ (i : Fin 4096) (s : State),
    let ends := fun (u t : State) (j : Job) (st err : Nat) => t = { u with regs := t.regs, hub := t.hub, out := t.out } ∧
      t.hub.jobs = u.hub.jobs.filter (fun k => decide (k.idx ≠ j.idx)) ∧
      t.fld rJobStat 12 0 = (t.hub.jobs.filter fun k => !k.replay).length % 8192 ∧
      (j.replay = false → findLine u (jStatus j / 64) = none → u.hub.hwrites = [] → t.hub.hwrites =
        [⟨jStatus j, leBytes 8 (statusWord st 0 err (jSubmit j)).toNat, some j.idx, none⟩])
    (∀ ws st, jobtabEn s = true → i.val < jobtabCount s → intakePaused s = false → readRecord s i = some (ws, st) →
      recPending s i ws st = true →
      let j : Job := ⟨i, ws, .queued, 0, false, false, false⟩
      (jType j = 1 → stepQueueFull s (jPart j) (jCtx j) = false) → (partTarget (jType j) = true → partState s (jPart j) ≠ 3) →
      (jobTypes.contains (jType j) = true → ∃ t, exec (.jobTake i none) s = .next t ∧
        t = { s with regs := t.regs, hub := t.hub, out := t.out, queues := t.queues, mem := t.mem, ent := t.ent,
                     cache := t.cache } ∧
        t.hub.jobs = s.hub.jobs ++ [j] ∧ t.fld rJobStat 12 0 = (t.hub.jobs.filter fun k => !k.replay).length % 8192 ∧
        (let q := qStep (jPart j) (jCtx j)
         jType j = 1 → (∀ k, k ≠ q → getQueue t k = getQueue s k) ∧
          ((getQueue s q).mrd ≤ (getQueue s q).mwr → (getQueue t q).len = (getQueue s q).len + 1)) ∧
        (jType j ≠ 1 → t = { s with regs := t.regs, hub := t.hub, out := t.out })) ∧
      (jobTypes.contains (jType j) = false → ∃ t, exec (.jobTake i none) s = .next t ∧
        t = { s with regs := t.regs, hub := t.hub, out := t.out } ∧
        t.hub.jobs = s.hub.jobs.filter (fun k => decide (k.idx ≠ i.val)))) ∧
    (∀ (k : Fin 3) line, recLine s i k = some line → findLine s line ≠ none → let u := lineBad s line
      exec (.jobTake i (some k)) s = .next (if (u.up && !intakePaused u) = true then wantRecord u i else u)) ∧
    (∀ j, unchecked s i 1 = some j →
      (∀ u, stepCheck s j = (u, 0) →
        exec (.jobStep i) s = .next (decideFor (setJob u { j with checked := true }) (jPart j) (jCtx j))) ∧
      (∀ u, stepCheck s j = (u, 0) → (∃ y, (getPart u (jPart j)).sched = some y ∧
          allWait (getCtx u (jPart j) y) = false ∧
          (runnablePrio (setJob u { j with checked := true }) (jPart j) (jCtx j)).getD 0 ≤
            (runnablePrio (setJob u { j with checked := true }) (jPart j) y).getD 0 ∧
          (runnablePrio (setJob u { j with checked := true }) (jPart j) y).isSome = true) →
        exec (.jobStep i) s = .next (setJob u { j with checked := true })) ∧
      (∀ u err, stepCheck s j = (u, err) → err ≠ 0 → slgOn u (jPart j) = false →
        ∃ t, exec (.jobStep i) s = .next (trimQueue t (jPart j) (jCtx j)) ∧ ends u t j 5 err)) ∧
    ∀ j, unchecked s i 15 = some j →
      let p := jPart j
      let x := jCtx j
      let queued := s.hub.jobs.find? fun k => decide (jType k = 1) && decide (jPart k = p) && decide (jCtx k = x)
      ((headOk j false = false ∨ ∃ k, 2 ≤ k ∧ k < 16 ∧ jw j k ≠ 0) → ∃ t, exec (.jobAbort i) s = .next t ∧ ends s t j 5 0x40) ∧
      (headOk j false = true → (∀ k, 2 ≤ k → k < 16 → jw j k = 0) →
        (∀ k, runningStep s p x = some k →
          let u := stopCtx (abortStep s k 0x45) p x
          let v := if (getPart u p).sched = some x then setPart u p { getPart u p with sched := none, draining := false } else u
          exec (.jobAbort i) s = .next (jobEnd (decide_ v p) j 4 0 0)) ∧
        (∀ k, runningStep s p x = none → queued = some k →
          exec (.jobAbort i) s = .next (jobEnd (trimQueue (abortStep s k 0x45) p x) j 4 0 0)) ∧
        (runningStep s p x = none → queued = none → ∃ t, exec (.jobAbort i) s = .next t ∧ ends s t j 4 0))

/-- STEP_START of the scheduled context with a checked STEP starts its three streams at their windows with zero registers, as the
record names no INIT and no descriptors, the job is RUNNING and leaves the step queue (R106, R112, R475). The end of a quantum lets
the highest priority in (R485); a drained pre-emption saves the context and schedules the one picked, read back from its save
area where it was saved, with its pending increments (R486 to R488). A scan of the table ends SCANNING (R471, R499). -/
def Obligations.StepsScheduled : Prop :=
  ∀ (p : Fin 16) (x : Fin 8) (s : State),
    (∀ j, runningStep s p x = none → queuedStep s p x = some j → (getPart s p).sched = some x.val → (getPart s p).draining = false →
      partState s p = 2 → slgHolding s p = false → (getCtx s p x).started = false → initBase j = 0 → descCount j = 0 →
      (∃ k, k < 3 ∧ (pwin j k).2 ≠ 0) → slgOn s p = false → jServe j = false → s.hub.rep = none → j.replay = false →
      ∃ t, exec (.stepStart p x) s = .next (trimQueue t p x) ∧
        t = { s with ctxs := t.ctxs, hub := t.hub, out := t.out } ∧
        (∀ k, k ≠ ctxKey p x → smGet emptyCtx t.ctxs k = smGet emptyCtx s.ctxs k) ∧
        (getCtx t p x).started = true ∧ (getCtx t p x).job = some j.idx ∧ (getCtx t p x).fault = 0 ∧
        (∀ k, k < 3 → let z := (getCtx t p x).strm (strmOf k)
          z.pc = 0 ∧ z.iseq = 0 ∧ z.pbase = (pwin j k).1 ∧ z.plen = (pwin j k).2 ∧ z.infl = [] ∧ (∀ n, sregOf z n = 0) ∧
          z.st = if (pwin j k).2 = 0 then .ended else .issuing) ∧
        t.hub.jobs = s.hub.jobs.map (fun k => if k.idx = j.idx then { j with st := .running, progress := 0 } else k)) ∧
    (∀ y, (getPart s p).sched = some x.val → (getPart s p).draining = false → partState s p = 2 → pickCtx s p = some y →
      exec (.quantumExpiry p) s = .next (if y = x.val then s else setPart s p { getPart s p with draining := true })) ∧
    (∀ y, y < 8 → (getPart s p).sched = some x.val → (getPart s p).draining = true → partState s p = 2 →
      pickCtx s p = some y → ∃ t, exec (.preemptionDrained p) s = .next t ∧
        t = { s with ctxs := t.ctxs, parts := t.parts, mem := t.mem, ent := t.ent, cache := t.cache, regs := t.regs,
                     hub := t.hub, out := t.out, fresh := t.fresh } ∧
        getPart t p = { getPart s p with sched := some y, last := some y, draining := false } ∧
        (getCtx t p y).pend = [] ∧ (getCtx t p y).saved = false ∧
        (y ≠ x.val → (getCtx t p x).saved = (getCtx s p x).started) ∧
        (∀ z k, z < 8 → ((getCtx t p z).strm k).ibuf = [] ∧
          ((z ≠ y ∨ (y ≠ x.val ∧ (getCtx s p y).saved = false)) →
            ((getCtx t p z).strm k).pc = ((getCtx s p z).strm k).pc ∧ ((getCtx t p z).strm k).regs = ((getCtx s p z).strm k).regs)) ∧
        ∀ k i, k < 3 → i < 31 → ((getCtx s p y).strm (strmOf k)).st ≠ .faulted →
          (y ≠ x.val → (getCtx s p y).saved = true → sregOf ((getCtx t p y).strm (strmOf k)) (i + 1) =
            BitVec.ofNat 64 (readNat s (saveArea s p y + 0x400 * k + 16 + 8 * i) 8)) ∧
          (y = x.val → sregOf ((getCtx t p y).strm (strmOf k)) (i + 1) = sregOf ((getCtx s p y).strm (strmOf k)) (i + 1))) ∧
    (jobtabEn s = true → intakePaused s = false →
      ∃ t, exec .jobTableScan s = .next t ∧ t = { s with regs := t.regs, hub := t.hub, out := t.out } ∧
        t.rbit rJobtabCtl 14 = false ∧ (∀ r, r ≠ rJobtabCtl → t.reg r = s.reg r) ∧ t.hub.jobs = s.hub.jobs)

/-- The records of the long operations that pass their checks wait, others fail with their ERR code; the first that waits starts when
none of its type is in progress; units advance PROGRESS with PARTIAL; SCRUB, BIST and FLASH end DONE when every unit is done
(R314, R476, R477, R480, R513, R532, R601). -/
def Obligations.LongOperations : Prop :=
  ∀ (i : Fin 4096) (s : State),
    let waits := fun (j : Job) => setJob s { j with checked := true }
    (∀ j, unchecked s i 2 = some j → longHead j false = true → bits (jw j 2) 63 32 = 0 → zeroFrom j 3 = true →
      exec (.jobBist i) s = .next (if bistFree s j = true then waits j else jobEnd s j 5 0 0x43)) ∧
    (∀ j u, unchecked s i 3 = some j → exportCheck s j = (u, 0) →
      exec (.jobExport i) s = .next (setJob u { j with checked := true })) ∧
    (∀ j, unchecked s i 6 = some j → longHead j true = true → bits (jw j 2) 63 48 = 0 → sBase j % 4096 = 0 →
      bits (jw j 3) 63 32 = 0 → zeroFrom j 4 = true →
      exec (.jobScrub i) s = .next (if partState s (jPart j) ≠ 2 then jobEnd s j 5 0 0x41
        else if sMib j ≠ 0 ∧ hbmSpan s (jPart j) (sBase j) (sMib j * 0x100000) = false then jobEnd s j 5 0 0x42 else waits j)) ∧
    (∀ j obj, unchecked s i 7 = some j → (∀ k, k ∈ s.hub.jobs → jType k = 7 → k.checked = false ∧ k.st = .queued) →
      longHead j false = true → bits (jw j 2) 63 47 = 0 → bits (jw j 3) 63 32 = 0 → zeroFrom j 4 = true →
      bits (jw j 3) 31 0 = obj.length →
      let img := readThrough s (bits (jw j 2) 46 0) obj
      let u := fillThrough s (bits (jw j 2) 46 0) obj
      let v := setJob u { j with checked := true }
      let st := if d2Open s = true then 10 else objCheck s [1, 2, 3, 4] img
      (∃ k o, u = { s with hub := k, out := o }) ∧ ((∀ l, findLine s l = none) → img = obj) ∧
      exec (.jobFlash i obj) s = .next (if st = 0 then { v with hub := { v.hub with obj := img } }
        else flashReject u j (oType img) st)) ∧
    (∀ j, unchecked s i 5 = some j → longHead j true = true → (jw j 2).toNat < 2 ^ 48 → (jw j 2).toNat % 64 = 0 →
      bits (jw j 3) 63 32 = 0 → rFrom j ≤ rTo j → jw j 6 = 0 → bits (jw j 7) 63 32 = 0 → bits (jw j 8) 63 9 = 0 →
      zeroFrom j 9 = true → partState s (jPart j) = 2 → arrayOk s (jw j 2).toNat (jw j 3).toNat = true →
      exec (.jobReplay i) s = .next (waits j)) ∧
    (∀ op j, longRunning s (longType op) = none → longQueued s (longType op) = some j → op ≠ .replay →
      (op = .bist → bistFree s j = true) → (op = .flash → d2Open s = false) →
      let u := jobMove s { j with st := .running } .running 0
      exec (.longOperationStart op) s = .next (if op = .flash then setSlot u (oType s.hub.obj) none else u)) ∧
    (∀ op j n u, longRunning s (longType op) = some j → 0 < n → j.progress + n ≤ longUnits s j →
      longWork s j (j.progress + n) = (u, 0) →
      exec (.longOperationUnitDone op n) s = .next (jobMove u { j with st := .partial_ } .partial_ (j.progress + n))) ∧
    (∀ j n, longRunning s 6 = some j → 0 < n → j.progress + n ≤ sMib j →
      ∃ u, exec (.longOperationUnitDone .scrub n) s = .next (jobMove u { j with st := .partial_ } .partial_ (j.progress + n)) ∧
        u = (List.range (n * 256)).foldl (fun u k => scrubCheck u (sBase j + j.progress * 0x100000 + k * 4096)) s) ∧
    (∀ j, longRunning s 6 = some j → j.progress = sMib j →
      exec (.longOperationEnd .scrub .done) s = .next (jobEnd s j 4 j.progress 0)) ∧
    (∀ j, longRunning s 2 = some j → j.progress = (bistMask j).length →
      exec (.longOperationEnd .bist .done) s = .next (jobEnd s j (if j.failed then 5 else 4) j.progress (if j.failed then 0x48 else 0))) ∧
    (∀ j, longRunning s 3 = some j → exec (.longOperationEnd .exportOp .poisoned) s = .next (exportEnd s j 5 0x4B) ∧
      exec (.longOperationEnd .exportOp .hostLost) s = .next (exportEnd s j 5 0x4A)) ∧
    (∀ j, longRunning s 7 = some j → j.progress = objKib s.hub.obj → exec (.longOperationEnd .flash .done) s =
      .next (flashOver (jobEnd (setSlot s (oType s.hub.obj) (some s.hub.obj)) j 4 j.progress 0))) ∧
    ∀ (c : Fin 32) j, longRunning s 2 = some j → (bistMask j)[j.progress]? = some c.val →
      ∃ u, Reported s u ∧ exec (.bistClusterDone c 0) s = .next
        (jobMove u { j with st := .partial_ } .partial_ (j.progress + 1))

/-- JOBTAB_ENABLE with a COUNT of 1 to 4,096 sets EN and SCANNING; another COUNT sets ERR; JOBTAB_DISABLE releases every watch (R471,
R499). EVT_RING_ENABLE starts the ring at 0, and a new SIZE while EN is set is refused; HEAD takes what the host wrote
(R481, R500). -/
def Obligations.TableAndRing : Prop :=
  ∀ (v : BitVec 32) (s : State), s.up = true → hubRestarting s = false →
    (1 ≤ bits v 12 0 → bits v 12 0 ≤ 4096 → jobtabEn s = false →
      ∃ t, exec (.jobtabEnable v) s = .next t ∧ t = { s with regs := t.regs, hub := t.hub, out := t.out } ∧
        t.rbit rJobtabCtl 13 = true ∧ t.rbit rJobtabCtl 14 = true ∧ t.fld rJobtabCtl 12 0 = bits v 12 0 ∧
        ∀ r, r ≠ rJobtabCtl → t.reg r = s.reg r) ∧
    ((bits v 12 0 = 0 ∨ 4096 < bits v 12 0) → exec (.jobtabEnable v) s = .next (s.setRBit rJobtabCtl 15 true)) ∧
    (∃ t, exec (.jobtabDisable v) s = .next t ∧ t = { s with regs := t.regs, hub := { s.hub with hlines := t.hub.hlines } } ∧
      t.rbit rJobtabCtl 13 = false ∧ t.rbit rJobtabCtl 14 = false ∧
      t.hub.hlines = s.hub.hlines.map (fun h => { h with pinned := false })) ∧
    (s.rbit rEvtCtl 5 = false → 6 ≤ bits v 4 0 → bits v 4 0 ≤ 20 → s.hub.held = [] → s.fld rEvtStat 63 41 = 0 →
      ∃ t, exec (.evtRingEnable v) s = .next t ∧ t = { s with regs := t.regs } ∧ t.rbit rEvtCtl 5 = true ∧
        t.fld rEvtCtl 4 0 = bits v 4 0 ∧ t.fld rEvtStat 31 0 = 0) ∧
    (s.rbit rEvtCtl 5 = true → bits v 4 0 ≠ s.fld rEvtCtl 4 0 →
      exec (.evtRingEnable v) s = .next (s.setRBit rEvtCtl 7 true)) ∧
    (s.hub.held = [] → s.fld rEvtStat 63 41 = 0 → exec (.evtHeadWrite v) s = .next (s.setReg rEvtHead (v.setWidth 64)))

/-- A replay passes over EXPORT and CMP records, writes CLU_STEP for a STEP_WRITE once no job of it runs, and starts the
job of JOB_A and JOB_B with its status word kept inside (R514, R515). -/
def Obligations.ReplaySteps : Prop :=
  ∀ (q : Replay) (s : State), s.hub.rep = some q → q.next < q.stop →
    let r := arrayRec s q.src q.next
    let at_ := fun (t : State) n => { t with hub := { t.hub with rep := some { q with next := n } } }
    ((recTy r = 0x08 ∨ recTy r = 0x30) → exec .replayRecord s = .next (at_ s (q.next + 1))) ∧
    (recTy r = 0x01 → replayJobs s q.part = [] → findJob s q.idx = none → s.up = true → ledBy s (leadCluster s q.part) = some q.part →
      ∃ t, exec .replayRecord s = .next t ∧ t.reg (rStep (leadCluster s q.part)) = recW r 3 ∧
        t.hub.rep = some { q with next := q.next + 1 }) ∧
    (recTy r = 0x05 → q.next + 1 < q.stop → recTy (arrayRec s q.src (q.next + 1)) = 6 →
      let j := replayJob q.next r (arrayRec s q.src (q.next + 1))
      (∀ k, k ∈ replayJobs s q.part → jCtx k ≠ jCtx j) →
      ∃ t, exec .replayRecord s = .next t ∧ t.hub.jobs = s.hub.jobs ++ [j] ∧ j.replay = true ∧ j.checked = true ∧
        t.hub.rep = some { q with next := q.next + 2 })

/-- ENABLE of a disabled partition that passes its checks makes it ENABLING and clears its counters; a refused one sets ECAUSE or
ERR; the end of the invalidation makes it ENABLED with every block of its ranges invalid and its step queues as Table 11.13 has them (R309,
R484). DISABLE and a
partition reset make it DISABLING; at the end it is DISABLED and its contexts are empty (R489, R579). The host's scalars land in
the lead cluster and are discarded elsewhere (R278 to R282); EN starts the Sillage ring at 0, HEAD frees its slots (R508, R512). -/
def Obligations.PartitionsRun : Prop :=
  ∀ (p : Fin 16) (s : State), s.up = true →
    let quiet := (∀ k, k < gtabCount s p → gState (grpRec s p k) ≠ 2) ∧
      (∀ e k, e < 2 → k < 16 → running s e k = true → pPart (getPipe s e k) ≠ p) ∧
      ∀ m k, m < 2 → k < 8 → guestIn s m = true → winValid s m k = true → winPart s m k ≠ p
    let ending := fun (t : State) => partState t p = 3 ∧ t.fld (rPartCtl p) 6 4 = 1 ∧
      getPart t p = { getPart s p with draining := true, cause := 0x46, leave := false }
    (partState s p = 0 → enableCause s p = 0 → ∃ t, exec (.partitionEnable p) s = .next t ∧
      t = { s with regs := t.regs, hub := { s.hub with cnts := t.hub.cnts } } ∧ partState t p = 1 ∧
      t.rbit rMeminitCtl 1 = true ∧ (∀ i, i < 0x1000 → cntGet t i p = ⟨0, false⟩) ∧
      (∀ i q, (0x1000 ≤ i ∧ i < 0x10000 ∨ i < 0x1000 ∧ q ≠ p) → cntGet t i q = cntGet s i q) ∧
      ∀ r, r ≠ rPartCtl p → r ≠ rMeminitCtl → t.reg r = s.reg r) ∧
    (partState s p = 0 → enableCause s p ≠ 0 → exec (.partitionEnable p) s =
      .next ((s.setFld (rPartCtl p) 10 7 (enableCause s p)).setRBit (rPartCtl p) 11 true)) ∧
    (partState s p ≠ 0 → exec (.partitionEnable p) s = .next (s.setRBit (rPartCtl p) 11 true)) ∧
    (partState s p = 1 → scrubbing s = false → (∀ j x, j ∈ s.hub.jobs → stepWaits p x j = false) →
      ∃ t, exec (.partitionEnabled p) s = .next t ∧ t = { s with regs := t.regs, ent := t.ent, queues := t.queues } ∧ partState t p = 2 ∧
      (∀ x, x < 8 → getQueue t (qStep p x) = freshQueue 2 (s.fld (rPartSave p) 47 20 * 0x100000 + x * 0x20000 + 0x10000) 1024
        (max 1 (s.fld (rPartCtl p) 31 16))) ∧
      (∀ q, (∀ x, x < 8 → q ≠ qStep p x) → getQueue t q = getQueue s q) ∧
      (∀ k b, k < 8 → (hbmPages s p k).1 = true → (hbmPages s p k).2.1 * 0x200000 ≤ b →
        b < ((hbmPages s p k).2.1 + (hbmPages s p k).2.2) * 0x200000 → entryOf t b = ⟨0, crcZ, emptyTag⟩) ∧
      ∀ b, (∀ k, k < 8 → (hbmPages s p k).1 = true → b < (hbmPages s p k).2.1 * 0x200000 ∨
        ((hbmPages s p k).2.1 + (hbmPages s p k).2.2) * 0x200000 ≤ b) → entryOf t b = entryOf s b) ∧
    (partState s p = 1 ∨ partState s p = 2 → quiet →
      (∃ t, exec (.partitionDisable p) s = .next t ∧ t = { s with regs := t.regs, parts := t.parts } ∧ ending t) ∧
      ∀ src, rstClosed s src = false → s.mod.prst.contains p.val = false → ∃ t, exec (.partitionReset src p) s = .next t ∧
        t = { s with regs := t.regs, parts := t.parts, mod := { s.mod with prst := s.mod.prst ++ [p.val], cmd := (2, p.val) } } ∧
        ending t ∧ t.rbit rRstCtl 11 = true ∧ t.fld rRstCtl 10 7 = p.val) ∧
    (partState s p = 1 ∨ partState s p = 2 →
      (∃ t, exec (.partitionDisable p) s = .next t ∧ partState t p = 3 ∧ t.fld (rPartCtl p) 6 4 = 1) ∧
      ∀ src, rstClosed s src = false → s.mod.prst.contains p.val = false → ∃ t, exec (.partitionReset src p) s = .next t ∧
        partState t p = 3 ∧ t.fld (rPartCtl p) 6 4 = 1 ∧ t.mod.prst = s.mod.prst ++ [p.val]) ∧
    (partState s p = 3 → s.mod.prst.contains p.val = false → ∃ t, exec (.partitionDisableDone p) s = .next t ∧
      partState t p = 0 ∧ ∀ x, x < 8 → getCtx t p x = emptyCtx) ∧
    (partState s p = 3 → jobsOf s p = [] → s.hub.rep = none → s.mod.prst.contains p.val = false →
      ∃ t, exec (.partitionDisableDone p) s = .next t ∧
        t = { s with regs := t.regs, hub := t.hub, out := t.out, acc := { s.acc with colls := t.acc.colls }, ctxs := t.ctxs,
                     parts := t.parts, queues := t.queues, sec := { s.sec with halted := t.sec.halted } } ∧
        (∀ x, x < 8 → getQueue t (qStep p x) = emptyQueue) ∧ (∀ q, (∀ x, x < 8 → q ≠ qStep p x) → getQueue t q = getQueue s q) ∧
        partState t p = 0 ∧ getPart t p = { getPart s p with sched := none, last := none, draining := false, cause := 0, leave := false } ∧
        (∀ x, x < 8 → getCtx t p x = emptyCtx) ∧ (∀ q x, q ≠ p.val → x < 8 → getCtx t q x = getCtx s q x) ∧
        (∀ c, c ∈ t.acc.colls → c.part ≠ p) ∧ ∀ k, k ∈ t.sec.halted → k / 8 ≠ p) ∧
    (∀ (c : Fin 32) v, ledBy s c = some p.val → slgOn s p = false →
      exec (.cluStepWrite c v) s = .next (s.setReg (rStep c) v) ∧
      exec (.cluSeedWrite c v) s = .next (s.setReg (rSeed c) v) ∧
      exec (.cluClipWrite c v) s = .next (if clipBad v then s.setRBit (rClip c) 63 true else s.softWrite (rClip c) v)) ∧
    (∀ (c : Fin 32) v, ledBy s c = none → exec (.cluStepWrite c v) s = .next s ∧ exec (.cluSeedWrite c v) s = .next s ∧
      exec (.cluClipWrite c v) s = .next s) ∧
    ∀ v : BitVec 32,
      (slgOn s p = false → bit v 0 = true → ∃ t, exec (.sillageEnable p v) s = .next t ∧
        t = { s with regs := t.regs, parts := t.parts } ∧ slgOn t p = true ∧ t.rbit (rSlgCtl p) 1 = bit v 1 ∧
        t.fld (rSlgCtl p) 12 3 = bits v 12 3 ∧ t.reg (rSlgTail p) = 0 ∧ t.reg (rSlgOldest p) = 0 ∧
        (getPart t p).slgSteps = [] ∧ (getPart t p).slgLost = 0) ∧
      (slgOn s p = true → s.fld (rSlgCtl p) 12 3 ≠ bits v 12 3 →
        exec (.sillageEnable p v) s = .next (s.setRBit (rSlgBase p) 63 true)) ∧
      ((getPart s p).sched ≠ none → (getPart s p).slgLost = 0 → ∃ t, exec (.sillageHeadWrite p v) s = .next t ∧
        t = { s with regs := t.regs } ∧ t.fld (rSlgHead p) 31 0 = v.toNat ∧
        (t.rbit (rSlgStat p) 33 = true ↔ slgOn s p = true ∧ s.rbit (rSlgCtl p) 1 = true ∧
          slgSlots s p - slgUsed t p < 65536) ∧ ∀ r, r ≠ rSlgHead p → r ≠ rSlgStat p → t.reg r = s.reg r)

/-- The mailbox: a command that finds BUSY is discarded with STATUS 1 (R558). NEW_NONCE gives 32 bytes that EXPIRY takes away (R545).
An accepted lifecycle command blows its fuses and uses up the nonce (R542, R543); RETURN also zeroises and scrubs. A request or
token that its level permits opens the session with one entry of M7 (R547, R548); it closes from its own port or by its
DURATION (R549); a scrub leaves no byte, entry or vocabulary (R550). In recovery an accepted object reaches flash (R531). A D2
session writes core stores and accumulators (R544). Which objects are accepted rests on the module's serial number, a constant of
Config without a value, so the accepted and the refused case stand side by side. -/
def Obligations.MailboxCommands : Prop :=
  ∀ (q : DbgPort) (len : BitVec 13) (s : State), s.up = true →
    let b := reqBytes s len.toNat
    let code := payF b 4 1
    let arg := payF b 5 1
    let ended := fun (t : State) st => t.fld rMbxCtl 27 24 = st ∧ t.rbit rMbxCtl 19 = false ∧ t.rbit rMbxCtl 20 = true
    let reports := fun (t : State) => t = { s with regs := t.regs, hub := t.hub, out := t.out, sec := t.sec }
    let life := (lifeCheck s b).2
    let token := (tokenCheck s b).2
    let tried := fun (t : State) => reports t ∧ (life ≠ 0 → ended t life ∧ t.sec.fuses = s.sec.fuses)
    let opened := fun (t : State) (x : Session) => t.sec.sess = some x ∧ t.sec.next = none ∧
      t.sec.log.length = s.sec.log.length + 1 ∧ t.fld rSecState 31 16 = (sessionSeq s + 1) % 65536 ∧
      (∀ i, i ≠ 7 → smGet 0 t.sec.meas i = smGet 0 s.sec.meas i) ∧ t.sec.fuses = s.sec.fuses
    let closed := fun (t : State) => t = { s with regs := t.regs, hub := t.hub, out := t.out, trace := [], sec := t.sec } ∧
      t.sec.sess = none ∧ t.sec.halted = [] ∧ t.fld rSecState 6 2 = 0 ∧ t.sec.fuses = s.sec.fuses
    (s.rbit rMbxCtl 19 = true → ∀ l, exec (.newNonce q) s = .next (s.setFld rMbxCtl 27 24 1) ∧
      exec (.closeSession q) s = .next (s.setFld rMbxCtl 27 24 1) ∧
      exec (.debugRequest q l) s = .next (s.setFld rMbxCtl 27 24 1) ∧
      exec (.debugToken q len) s = .next (s.setFld rMbxCtl 27 24 1)) ∧
    (s.sec.nonce ≠ none → ∃ t, exec .nonceExpiry s = .next t ∧
      t = { s with regs := t.regs, sec := { s.sec with nonce := none } } ∧ t.rbit rSecState 11 = false) ∧
    (s.rbit rMbxCtl 19 = false →
      (∃ t n, exec (.newNonce q) s = .next t ∧
        t = { s with regs := t.regs, fresh := s.fresh + 4, sec := { s.sec with nonce := some n } } ∧ n.length = 32 ∧
        t.rbit rSecState 11 = true ∧ ended t 0) ∧
      (life = 0 ↔ objCheck s [0x10] b = 0 ∧ serialBad b = false ∧ nonceBad s b = false ∧ lifeFormat b = true ∧ lifeAllowed s b = true) ∧
      (code = 1 → ∃ t, exec (.deploy q len) s = .next t ∧ tried t ∧ (life = 0 → ended t 0 ∧
        t.sec = { s.sec with nonce := none, fuses := t.sec.fuses } ∧ t.sec.fuses.life = 2 ∧
        ∀ k, k = 2 ∨ k = 3 → arg / 2 ^ k % 2 = 1 → bits t.sec.fuses.slot (8 * k + 7) (8 * k) = 0x81 ∧
          keyHash t k = digestOf (((oPayload b).drop (32 * k)).take 32))) ∧
      (code = 2 → ∃ t, exec (.revoke q len) s = .next t ∧ tried t ∧ (life = 0 → ended t 0 ∧
        t.sec = { s.sec with nonce := none,
                             fuses := { s.sec.fuses with slot := setBit s.sec.fuses.slot (8 * arg + 1) true } })) ∧
      (code = 3 → ∃ t, exec (.returnLife q len) s = .next t ∧ tried t ∧ (life = 0 → t.rbit rMbxCtl 19 = true ∧
        t.sec = { s.sec with nonce := none, fuses := { s.sec.fuses with life := 3, kill := true }, erased := true } ∧ t.hub.hlines = [] ∧
        t.rbit rSecState 7 = true ∧ t.rbit rSecState 9 = false)) ∧
      (∀ l : BitVec 2, levelOk s.sec.fuses.life l.toNat false (s.rbit rSecState 10) = true → entryStatus s l.toNat false = 0 →
        entryScrubs s.sec.fuses.life l.toNat false = false → scrubbing s = false → (2 ≤ l.toNat → longRunning s 7 = none) →
        ∃ t, exec (.debugRequest q l) s = .next t ∧ reports t ∧ ended t 0 ∧
          opened t ⟨l.toNat, portNo q, 0, [], 0, l.toNat = 2, false⟩) ∧
      (∀ l : BitVec 2, levelOk s.sec.fuses.life l.toNat false (s.rbit rSecState 10) = false →
        ∃ t, exec (.debugRequest q l) s = .next t ∧ t = { s with regs := t.regs } ∧ ended t 10) ∧
      (token = 0 ↔ objCheck s [0x11] b = 0 ∧ levelOk s.sec.fuses.life (bF b 1028 1) true (s.rbit rSecState 10) = true ∧
        serialBad b = false ∧ nonceBad s b = false ∧ tokenFormat b = true ∧ entryStatus s code (decide (arg = 1)) = 0) ∧
      (∃ t, exec (.debugToken q len) s = .next t ∧ reports t ∧
        (token ≠ 0 → ended t token ∧ t.sec.sess = s.sec.sess ∧ t.sec.fuses = s.sec.fuses) ∧
        (token = 0 → entryScrubs s.sec.fuses.life code (decide (arg = 1)) = false → scrubbing s = false →
          (2 ≤ code → longRunning s 7 = none) → ended t 0 ∧ t.sec.nonce = none ∧
          opened t ⟨code, portNo q, arg, (sha256 b).take 20, payF b 48 4, code = 2, false⟩)) ∧
      ∀ x, s.sec.sess = some x → (x.port = portNo q → ∃ t, exec (.closeSession q) s = .next t ∧ closed t ∧ ended t 0) ∧
        (x.port ≠ portNo q → ∃ t, exec (.closeSession q) s = .next t ∧ t = { s with regs := t.regs } ∧ ended t 10)) ∧
    (∀ x, s.sec.sess = some x → x.dur ≠ 0 → ∃ t, exec .sessionDurationExpiry s = .next t ∧ closed t) ∧
    (scrubbing s = true → s.sec.next = none → ∃ t, exec .debugScrubDone s = .next t ∧
      t = { s with regs := t.regs, mem := [], ent := [], cstore := [], accm := [], pipes := t.pipes, ctxs := t.ctxs } ∧
      t.rbit rSecState 7 = false ∧ (s.rbit rMbxCtl 19 = true → ended t 0) ∧
      (∀ x, x ∈ t.pipes → ∀ y, y ∈ x.2.vocab → y = 0) ∧
      ∀ x, x ∈ t.ctxs → ∀ y, y ∈ x.2.tslot → ∀ z, z ∈ y.2 → z = 0) ∧
    (∀ obj (r : State), r.mod.phase = .recovery → anyPortUp r = true → r.rbit rRcvCtl 1 = false →
      ∃ t, exec (.recoveryLoad obj) r = .next t ∧ t = { r with regs := t.regs, sec := { r.sec with load := obj, flash := t.sec.flash } } ∧
        t.rbit rRcvCtl 1 = true ∧ ∀ back, ∃ u, exec (.recoveryLoadDone back) t = .next u ∧
          u.rbit rRcvCtl 1 = false ∧ u.rbit rRcvCtl 2 = true ∧ u.sec.load = [] ∧
          u.fld rRcvCtl 7 4 = (if objCheck r [1, 2] obj ≠ 0 then objCheck r [1, 2] obj else if back then 0 else 12) ∧
          (objCheck r [1, 2] obj = 0 → back = true → imageSlot u (oType obj) = some obj)) ∧
    ∀ (ad : BitVec 48) (data : List Byte),
      ((s.sec.sess.any fun x => decide (2 ≤ x.level)) = true →
        (∃ t, exec (.debugMemoryWrite .coreStore ad data) s = .next t ∧ t = { s with cstore := t.cstore } ∧
          ∀ y, smGet 0 t.cstore y = if ad.toNat ≤ y ∧ y < ad.toNat + data.length ∧ y < 0x100000000 then
            data.getD (y - ad.toNat) 0 else smGet 0 s.cstore y) ∧
        ∃ t, exec (.debugMemoryWrite .accumulator ad data) s = .next t ∧ t = { s with accm := t.accm } ∧
          ∀ y, smGet 0 t.accm y = if ad.toNat ≤ y ∧ y < ad.toNat + data.length ∧ y < 0x80000000 then
            data.getD (y - ad.toNat) 0 else smGet 0 s.accm y) ∧
      (s.sec.sess = none → ∀ sp, exec (.debugMemoryWrite sp ad data) s = .next s)

/-- SPDM answers on both transports (R539 to R541): the version and capabilities, the algorithms that the requester offers, the digest and a
portion of the chain of slot 0, a signed challenge and the measurements; before an agreed connection they answer an error.
The message bytes are those of DMTF SPDM 1.2 (the model's, log entry 59); nonces and signatures are free values. -/
def Obligations.SpdmAnswers : Prop :=
  ∀ (q : SpdmPort) (s : State), s.up = true → (q = .mctp → s.mgmt.eid ≠ 0) → (q = .mailbox → s.rbit rMbxCtl 19 = false) →
    let u := match q with
      | .mctp => s
      | .mailbox => (s.setFld rMbxCtl 3 2 0).setRBit rMbxCtl 20 false
    let st := spdmSt s q
    let b8 := fun n => BitVec.ofNat 8 n
    let chain := certChain.length
    let nonce := leBytes 8 (Config.freeValue s.fresh).toNat ++ leBytes 8 (Config.freeValue (s.fresh + 1)).toNat ++
      leBytes 8 (Config.freeValue (s.fresh + 2)).toNat ++ leBytes 8 (Config.freeValue (s.fresh + 3)).toNat
    let after := fun n => { u with fresh := s.fresh + n }
    let answers := fun (i : Instr) (v : State) (m : List Byte) => exec i s = .next (spdmReply q (v, m))
    answers (.getVersion q) (setSpdm u q 1) [0x10, 4, 0, 0, 0, 1, 0, 0x12] ∧
    (st = 1 ∨ st = 2 → answers (.getCapabilities q) (setSpdm u q 2)
      ([0x12, 0x61, 0, 0, 0, 17, 0, 0] ++ [0x16, 0, 0, 0] ++ [0, 0x10, 0, 0] ++ [0, 0x10, 0, 0])) ∧
    (∀ a h m, st = 2 ∨ st = 3 → answers (.negotiateAlgorithms q a h m) (setSpdm u q (if a && h then 3 else 2))
      ([0x12, 0x63, 0, 0, 36, 0, b8 (b2n m), 0] ++ [if m then 2 else 0, 0, 0, 0] ++ [if a then 8 else 0, 0, 0, 0] ++
        [b8 (b2n h), 0, 0, 0] ++ List.replicate 16 0)) ∧
    (st ≠ 3 → ∀ n d sg, answers (.getDigests q) u [0x12, 0x7F, 4, 0] ∧ answers (.getCertificate q 0 0 0) u [0x12, 0x7F, 4, 0] ∧
      answers (.challenge q 0 n false) u [0x12, 0x7F, 4, 0] ∧ answers (.getMeasurements q d sg n) u [0x12, 0x7F, 4, 0]) ∧
    (st = 3 → s.sec.fuses.kill = false → answers (.getDigests q) u ([0x12, 1, 0, 1] ++ sha256 certChain)) ∧
    (st = 3 → s.rbit rSecState 9 = true →
      (∀ o l, o < chain → let n := min (min l 4088) (chain - o)
        answers (.getCertificate q 0 o l) u ([0x12, 2, 0, 0] ++ leBytes 2 n ++ leBytes 2 (chain - o - n) ++
          (certChain.drop o).take n)) ∧
      (∀ n all, answers (.challenge q 0 n all) (after 5) ([0x12, 3, 0, 1] ++ sha256 certChain ++ nonce ++
        (if all then sha256 (allBlocks s) else []) ++ [0, 0] ++ signature (after 4))) ∧
      ∀ n, answers (.getMeasurements q 255 true n) (after 5) ([0x12, 0x60, 0, 0, 8] ++ leBytes 3 (allBlocks s).length ++ allBlocks s ++
        nonce ++ [0, 0] ++ signature (after 4))) ∧
    (st = 3 → ∀ (i : BitVec 8) n, 1 ≤ i.toNat → i.toNat ≤ 8 → answers (.getMeasurements q i false n) (after 4)
      ([0x12, 0x60, 0, 0, 1] ++ leBytes 3 (measBlock s (i.toNat - 1)).length ++ measBlock s (i.toNat - 1) ++ nonce ++ [0, 0]))

/-- The TAP's instructions capture what Table 16.12 gives (R631); a dynamic address is taken, changed and given up, a target with one
answers its identity (R624, R625); an endpoint ID that is neither null nor broadcast is accepted (R627) and
the PLDM commands of Table 16.9 answer (R628, R629). What a reply carries is the model's form of it (log entry 60). -/
def Obligations.TapAndManagement : Prop :=
  ∀ (s : State), s.mod.phase ≠ .off →
    let tap := fun (ir : Nat) (v : Word) (u : State) =>
      (.next { u with sec := { u.sec with ir := ir }, out := u.out ++ [.jtag v] } : Res)
    let answers := fun (k : Nat) (d : List Nat) =>
      (.next { s with out := s.out ++ [.mgmt k d] } : Res)
    (exec .bypass s = tap 0xFF 0 s ∧ exec .idcode s = tap 1 0x15A38573 s ∧
      exec .tapReset s = .next { s with sec := { s.sec with ir := 1 } } ∧
      (∀ v, exec (.samplePreload v) s = tap 2 v { s with sec := { s.sec with pins := v } }) ∧
      (∀ v x, s.sec.sess = some x → s.up = true →
        exec (.extest v) s = if x.level = 3 then tap 3 s.sec.pins { s with sec := { s.sec with pins := v } } else tap 0xFF 0 s) ∧
      (∀ v, ∃ t, exec (.dbgData v) s = .next t ∧ t = { s with regs := t.regs, sec := t.sec, out := t.out } ∧
        t.sec = { s.sec with ir := 0x11, ptr := (s.sec.ptr % 4096 + 8) % 4096 } ∧
        t.out = s.out ++ [.jtag (s.reg (secR (0x2000 + s.sec.ptr % 4096)))] ∧
        (∀ r, t.reg r = if r = secR (0x1000 + s.sec.ptr % 4096) then v else s.reg r)) ∧
      (∀ v, bits v 1 0 = 0 → ∃ t, exec (.dbgMbx v false) s = .next t ∧
        t = { s with regs := t.regs, sec := { s.sec with ir := 0x10, ptr := 0 }, out := s.out ++ [.jtag (s.reg rMbxCtl)] } ∧
        ∀ r, r ≠ rMbxCtl → t.reg r = s.reg r)) ∧
    (∀ (t : I3cTarget) (a : BitVec 7),
      (dynOf s t = 0 → exec (.setdasa t a) s = .next (setDyn s t a.toNat) ∧ exec (.entdaa t a) s = .next (setDyn s t a.toNat)) ∧
      (dynOf s t ≠ 0 → exec (.setdasa t a) s = .next s ∧ exec (.setnewda t a) s = .next (setDyn s t a.toNat) ∧
        exec (.getpid t) s = answers 0x8D [targetNo t, (Config.i3cId (targetNo t) 0).toNat % 2 ^ 48] ∧
        exec (.getbcr t) s = answers 0x8E [targetNo t, (Config.i3cId (targetNo t) 1).toNat % 256] ∧
        exec (.getdcr t) s = answers 0x8F [targetNo t, (Config.i3cId (targetNo t) 2).toNat % 256] ∧
        ∃ v, v < 65536 ∧ exec (.getstatus t) s =
          .next { s with fresh := s.fresh + 1, out := s.out ++ [.mgmt 0x90 [targetNo t, v]] })) ∧
    (∃ t, exec (.rstdaa .i3c0) s = .next t ∧ t = { s with mgmt := { s.mgmt with dyn := t.mgmt.dyn } } ∧ dynOf t .mctp = 0 ∧
      dynOf t .reg0 = 0 ∧ dynOf t .reg1 = dynOf s .reg1) ∧
    exec (.rstdaa .i3c1) s = .next (setDyn s .reg1 0) ∧
    (∀ e, exec (.enec .mctp e) s = .next { s with mgmt := { s.mgmt with ibi := e } }) ∧
    (∀ e : BitVec 8, exec (.setEndpointId e) s = if e = 0 ∨ e = 0xFF then answers 1 [2] else
      .next { s with mgmt := { s.mgmt with eid := e.toNat }, out := s.out ++ [.mgmt 1 [0, e.toNat]] }) ∧
    (s.mgmt.eid = 0 → exec .getTid s = .next s) ∧
    (s.mgmt.eid ≠ 0 →
      exec .getTid s = answers 0x10002 [0, 0] ∧ exec .getPldmTypes s = answers 0x10004 [0, 0x15] ∧
      (∀ ty : BitVec 8, exec (.getPldmVersion ty) s = answers 0x10003 (if ty = 0 then [0, 1, 1] else if ty = 2 then [0, 1, 2]
        else if ty = 4 then [0, 1, 0] else [0x83])) ∧
      (∀ ty : BitVec 8, exec (.getPldmCommands ty) s = answers 0x10005 (if ty = 0 then [0, 2, 3, 4, 5]
        else if ty = 2 then [0, 0x11, 0x50, 0x51] else if ty = 4 then [0, 1, 2] else [0x83])) ∧
      exec .getPdrRepositoryInfo s = answers 0x10250 [0, 0, 73] ∧
      (∀ h : BitVec 32, 1 ≤ h.toNat → exec (.getPdr h) s = answers 0x10251 (if 73 < h.toNat then [0x82]
        else [0, if h.toNat = 73 then 0 else h.toNat + 1] ++ pdrOf h.toNat)) ∧
      (∀ i : BitVec 16, 1 ≤ i.toNat → i.toNat ≤ 69 → exec (.getSensorReading i) s = answers 0x10211
        (let v := smGet 0 s.mod.sensors (i.toNat - 1); if 4096 ≤ v then [0, 0, v % 4096] else [0, 2, 0])) ∧
      exec .getFruRecordTableMetadata s = answers 0x10401 [0, fruFields.length, 1, 1] ∧
      exec .getFruRecordTable s = answers 0x10402 (0 :: fruFields))

/-- Power: a cold power-up ends with MOD_READY or in recovery, a warm one too; power down and a trip leave a machine that is off, the trip
with its cause recorded (R564, R565, R575 to R578). Drydown keeps memory of the stacks and loses what is not retained; an exit or
the wake of a port that WAKE_SHL permits brings it back to Idle (R569 to R573). A hub restart ends with HUB_CAP_EPOCH one up (R580).
Sensors, the heartbeat, counters and the PTP time base (R567, R583, R602, R604, R632 to R635). -/
def Obligations.PowerSequences : Prop :=
  ∀ (s : State),
    let ready := fun (t : State) => t.mod.phase = .up ∨ t.mod.phase = .recovery ∧ t.rbit rSecState 8 = true
    let tripped := fun (t : State) cause sensor => t.mod.phase = .off ∧ t.mod.latch = cause ∧ t.mem = [] ∧ t.ctxs = [] ∧
      t.sec.fuses = s.sec.fuses ∧ (s.rbit rTrip 11 = false →
        t.fld rTrip 3 0 = cause ∧ t.fld rTrip 10 4 = sensor ∧ t.rbit rTrip 11 = true) ∧
      (s.rbit rTrip 11 = true → t.reg rTrip = s.reg rTrip)
    let fades := fun (t : State) => t.mod.phase = .drydown ∧ t.fld rPwrStat 1 0 = 3 ∧ (∀ x, isHbm x → smGet 0 t.mem x = smGet 0 s.mem x) ∧
      (∀ x, isHbm x = false → smGet 0 t.mem x = 0) ∧ t.ctxs = [] ∧ t.acc = .reset ∧ t.queues = [] ∧ t.pipes = []
    let wakes := fun (t : State) src => t = { s with regs := t.regs, lnks := t.lnks, out := t.out, hub := t.hub, mod := t.mod } ∧
      t.mod.phase = .up ∧ t.fld rPwrStat 1 0 = 2 ∧ t.fld rDdCtl 3 2 = src
    (∀ f, s.mod.phase = .off → s.mod.latch = 0 → ∃ t, exec (.powerUp f) s = .next t ∧ ready t ∧ t.mem = []) ∧
    (∀ f, s.mod.phase = .off → 5 ≤ s.mod.latch → ∃ t, exec (.inputRecovery f) s = .next t ∧ ready t) ∧
    (∀ f, s.mod.phase = .reset → ∃ t, exec (.warmResetRelease f) s = .next t ∧ ready t) ∧
    (s.mod.phase = .off → 1 ≤ s.mod.latch → s.mod.latch ≤ 4 →
      exec .tripLatchClear s = .next { s with mod := { s.mod with latch := 0 } }) ∧
    (s.mod.phase ≠ .off →
      (∃ t, exec .powerDown s = .next t ∧ t.mod.phase = .off ∧ t.mem = [] ∧ t.sec.fuses = s.sec.fuses) ∧
      (∃ t, exec .warmResetAssert s = .next t ∧ t.mod.phase = .reset ∧ t.mem = [] ∧ t.ctxs = [] ∧ t.mgmt = s.mgmt ∧ t.ptp = s.ptp ∧
        t.fld rCapEpoch 31 0 = (s.fld rCapEpoch 31 0 + 1) % 2 ^ 32 ∧ t.fld rPwrStat 5 4 = 1) ∧
      (∃ t, exec .tripFastOvercurrent s = .next t ∧ tripped t 1 0) ∧ (∃ t, exec .tripSlowOvercurrent s = .next t ∧ tripped t 2 0) ∧
      (∀ n : Fin 8, ∃ t, exec (.tripPowerStage n) s = .next t ∧ tripped t 3 n.val) ∧
      (∃ t, exec .tripUnderVoltage s = .next t ∧ tripped t 5 0) ∧ (∃ t, exec .tripOverVoltage s = .next t ∧ tripped t 6 0) ∧
      (∀ (k : Fin 69) (c : BitVec 12), atPoint c.toNat (warnPoint k) = false →
        exec (.sensorRead k c true) s =
          .next { s with mod := { s.mod with sensors := smSet 0 s.mod.sensors k (c.toNat + 4096) } }) ∧
      (∀ (k : Fin 69) (c : BitVec 12), exec (.sensorRead k c false) s =
        .next { s with mod := { s.mod with sensors := smSet 0 s.mod.sensors k 0 } }) ∧
      (∀ (k : Fin 69) (c : BitVec 12) p, tripPoint k = some p → atPoint c.toNat p = true →
        ∃ t, exec (.sensorRead k c true) s = .next t ∧ tripped t 4 k.val) ∧
      (s.rbit rPtpCtl 0 = true → s.ptp.first = true → ∃ t, exec .ppsEdge s = .next t ∧ t = { s with regs := t.regs, ptp := t.ptp } ∧
        t.ptp.target = s.fld rPtpNext 47 0 * 1000000000 ∧ t.ptp.at_ = s.clk ∧ t.ptp.first = false ∧
        t.fld rPtpNext 47 0 = (s.fld rPtpNext 47 0 + 1) % 2 ^ 48) ∧
      (s.rbit rPtpCtl 0 = true → s.ptp.first = false → s.clk - s.ptp.at_ < 22500000 →
        exec .ppsEdge s = .next (s.setRBit rPtpCtl 3 true)) ∧
      (s.ptp.edges ≠ 0 → exec .ptpHoldoverTimeout s = .next ((s.setRBit rPtpCtl 2 true).setRBit rPtpCtl 1 false)) ∧
      ∀ v : BitVec 32, s.rbit rPtpCtl 0 = false → bit v 0 = true → ∃ t, exec (.ptpEnable v) s = .next t ∧
        t = { s with regs := t.regs, ptp := { s.ptp with first := true } } ∧ t.rbit rPtpCtl 0 = true) ∧
    (s.up = true →
      (∀ src, ddRefuse s = 0 → scrubbing s = false → ∃ t, exec (.drydownEnter src) s = .next t ∧ fades t ∧
        t.fld rDdCtl 3 2 = srcNo src) ∧
      (∀ src, ddRefuse s ≠ 0 → exec (.drydownEnter src) s =
        .next ((s.setFld rDdCtl 7 4 (ddRefuse s)).setRBit rDdCtl 8 true)) ∧
      (∀ src, exec (.drydownExit src) s = .next (s.setRBit rDdCtl 8 true)) ∧
      (hubRestarting s = false → s.mod.hubAt = [] →
        (∃ t, exec .controlProcessorWatchdog s = .next t ∧ hubRestarting t = true ∧ t.fld rPwrStat 5 4 = 2 ∧ t.mod.hubFor = 1 ∧
          t.mem = s.mem ∧ t.sec.sess = none) ∧
        (∀ src, s.rbit rRstCtl 11 = false → ∃ t, exec (.hubRestart src) s = .next t ∧ hubRestarting t = true ∧
          t.rbit rRstCtl 11 = true ∧ t.mod.hubFor = (if src = .host then 2 else 3) ∧ t.mem = s.mem ∧ t.sec.sess = none)) ∧
      (hubRestarting s = false → ∃ t, exec .heartbeatTick s = .next t ∧ t = { s with regs := t.regs } ∧
        t.fld rHb 31 0 = (s.fld rHb 31 0 + 1) % 2 ^ 32 ∧ ∀ r, r ≠ rHb → t.reg r = s.reg r) ∧
      (∀ l, hubRestarting s = true → (∀ d, d < 8 → diePresent s d = true → (l.getD d none).map (fun v => bits v 3 0) = some d) →
        ∃ t, exec (.hubRestartDone l) s = .next t ∧ hubRestarting t = false ∧
          t.fld rCapEpoch 31 0 = (s.fld rCapEpoch 31 0 + 1) % 2 ^ 32 ∧ t.mod.hubFor = 0 ∧ t.mem = s.mem ∧ t.ctxs = s.ctxs) ∧
      (cntValid (s.fld rCntSel 15 0) = true → ∃ t, exec .counterClearSelected s = .next t ∧
        t = { s with hub := { s.hub with cnts := t.hub.cnts } } ∧
        ∀ i q, cntGet t i q = if cntKey i q = cntKey (s.fld rCntSel 15 0) (s.fld rCntSel 19 16) then ⟨0, false⟩ else cntGet s i q) ∧
      exec .counterClearAll s = .next { s with hub := { s.hub with cnts := [] } } ∧
      ∀ k : Fin 64, s.rbit (rThrSel k) 21 = true → ∃ t, exec (.thresholdRearm k) s = .next t ∧
        t = { s with regs := t.regs, hub := { s.hub with rearm := t.hub.rearm } } ∧ t.rbit (rThrSel k) 21 = false ∧
        t.hub.rearm = if thrReached s k then s.hub.rearm ++ [k.val] else s.hub.rearm) ∧
    (s.mod.phase = .drydown →
      (∃ t, exec (.drydownExit .controller) s = .next t ∧ wakes t 1) ∧
      ∀ n : Fin 2, s.rbit rDdCtl 9 = true → ∃ t, exec (.drydownWake n) s = .next t ∧ wakes t 2)

/-- A parity error or the watchdog of a core whose cluster has its spare free retires the core, counts it and resets
the cluster out of HUB_CLU_STATE; with the self-test passed the cluster comes back (R52, R579, R598). A cluster reset command and throttling
act on a cluster in service (R568, R588). Sequencers that disagree disable their partition; an Accord unit's fault drops
what it holds; an error of the hub is fatal (R593, R595, R598). -/
def Obligations.FaultsContained : Prop :=
  ∀ (c : Fin 32) (s : State), s.up = true →
    let out := fun (t : State) => t.rbit rCluState c = false ∧ t.mod.crst = s.mod.crst ++ [c.val] ∧ t.mem = s.mem ∧ t.ctxs = s.ctxs
    let dead := fun (t : State) (code : Nat) => t.mod.phase = .halted ∧ t.reg rFatal = put code 0 ||| put 1 8 ∧ t.mem = [] ∧ t.ctxs = []
    (s.rbit rCluState c = true → s.mod.slow.contains c.val = false →
      exec (.clusterThrottle c) s = .next { s with mod := { s.mod with slow := s.mod.slow ++ [c.val] } }) ∧
    (s.rbit rCluState c = true → s.mod.crst.contains c.val = false →
      (spareFree s c = true → ∀ (core : Fin 32) i, i = .coreEngineParity c core ∨ i = .tileWatchdog c core →
        ∃ t, exec i s = .next t ∧ t.rbit rCluState c = false ∧ t.mod.crst = s.mod.crst ++ [c.val] ∧
          cluWord t c = retireWord (cluWord s c) (physOf s c core) false) ∧
      ∀ src, rstClosed s src = false → ∃ t, exec (.clusterReset src c) s = .next t ∧ t.rbit rCluState c = false ∧
        t.mod.crst = s.mod.crst ++ [c.val]) ∧
    (s.rbit rCluState c = true → s.mod.crst.contains c.val = false → partOf s c = none →
      (spareFree s c = true → ∀ (core : Fin 32) i, i = .coreEngineParity c core ∨ i = .tileWatchdog c core →
        ∃ t, exec i s = .next t ∧ out t ∧ cluWord t c = retireWord (cluWord s c) (physOf s c core) false ∧
          ∀ d, d ≠ c.val → cluWord t d = cluWord s d) ∧
      (∀ src, rstClosed s src = false → ∃ t, exec (.clusterReset src c) s = .next t ∧ out t ∧ t.fld rRstCtl 6 2 = c.val ∧
        t.rbit rRstCtl 11 = true ∧ t.mod.cmd = (1, c.val))) ∧
    (∀ src, (rstClosed s src = true ∨ s.rbit rCluState c = false) →
      exec (.clusterReset src c) s = .next (s.setRBit rRstCtl 12 true)) ∧
    exec (.clusterUnthrottle c) s = .next { s with mod := { s.mod with slow := s.mod.slow.filter fun k => k ≠ c.val } } ∧
    (s.mod.crst.contains c.val = true → s.fabr.gone.contains (c.val / 4) = false → (∀ f, f ∈ s.mod.again → f.clu ≠ c) →
      ∃ t, exec (.clusterResetDone c 0) s = .next t ∧ t.rbit rCluState c = true ∧ t.mod.crst = s.mod.crst.filter fun k => k ≠ c.val) ∧
    (s.mod.crst.contains c.val = true → s.fabr.gone.contains (c.val / 4) = false → (∀ f, f ∈ s.mod.again → f.clu ≠ c) →
      partOf s c = none →
      ∃ t, exec (.clusterResetDone c 0) s = .next t ∧ t = { s with regs := t.regs, mod := t.mod } ∧ t.rbit rCluState c = true ∧
        t.mod.crst = s.mod.crst.filter (fun k => k ≠ c.val) ∧ ∀ k, k ∈ t.mod.coreErr → k / 32 ≠ c) ∧
    (∀ (p : Fin 16) k pc x, (getPart s p).sched = some x → partState s p = 2 → s.mod.prst.contains p.val = false →
      ∃ t, exec (.sequencerDisagreement p k pc) s = .next t ∧ partState t p = 3 ∧ t.mod.prst = s.mod.prst ++ [p.val]) ∧
    (∀ (p : Fin 16) k pc x, (getPart s p).sched = some x → partState s p = 2 → s.mod.prst.contains p.val = false →
      (∀ g, g < gtabCount s p → gState (grpRec s p g) ≠ 2) → (∀ e n, e < 2 → n < 16 → running s e n = true → pPart (getPipe s e n) ≠ p) →
      (∀ m n, m < 2 → n < 8 → guestIn s m = true → winValid s m n = true → winPart s m n ≠ p) →
      ∃ u, Reported s u ∧ ∃ t, exec (.sequencerDisagreement p k pc) s = .next t ∧
        t = { u with regs := t.regs, parts := t.parts, mod := { u.mod with prst := u.mod.prst ++ [p.val] } } ∧ partState t p = 3) ∧
    (∀ d : Fin 8, diePresent s d = true → ∃ t, exec (.accordUnitFault d) s = .next t ∧ t.acc.early = [] ∧
      ∀ q, q ∈ t.acc.inbuf → q.1 / 16 ≠ d ∧ q.1 % 16 ≠ d) ∧
    (∀ d : Fin 8, diePresent s d = true → (∀ q, q ∈ s.acc.colls → ∀ k, k ∈ partClusters s q.part → k / 4 ≠ d) →
      ∃ u, Reported s u ∧ ∃ t, exec (.accordUnitFault d) s = .next t ∧ t = { u with acc := t.acc, queues := t.queues } ∧
        t.acc.colls = s.acc.colls ∧ t.acc.early = [] ∧ ∀ q, q ∈ t.acc.inbuf → q.1 / 16 ≠ d ∧ q.1 % 16 ≠ d) ∧
    (s.rbit rRasCtl 0 = false →
      (∀ v, ∃ t, exec (.securityControllerFault v) s = .next t ∧ dead t 0xF3) ∧
      ∀ vc pt, ∃ t, exec (.hubSwitchUncorrectable vc pt) s = .next t ∧ dead t 0xF5)

/-- Reset: the registers whose reset value a table gives and that is not 0, for every cluster, die, partition and ring; the scalars of
each cluster are 0 (R278 to R282); no context has started, no partition is enabled, nothing waits or is in flight, no byte
has been written, no block is valid, and memory is in its canonical form. -/
def Obligations.ResetState : Prop :=
  let s := State.reset
  s.up = true ∧ s.pending = [] ∧ s.out = [] ∧ s.hub.jobs = [] ∧ s.acc.colls = [] ∧ s.sec.sess = none ∧
  s.reg rPwrStat = 2 ∧ s.reg rDdCtl = 0x200 ∧ s.reg rShlCtl = 0xF ∧ s.reg rRasCtl = 0x0801 ∧
  (∀ c : Fin 32, s.reg (rFenceWdog c) = 100000 ∧ s.reg (rAccAlloc c) = 0x20 ∧ s.reg (rCsAlloc c) = 0x10 ∧ s.reg (rStep c) = 0 ∧
    s.reg (rSeed c) = 0 ∧ s.reg (rClip c) = 0) ∧
  (∀ d : Fin 8, s.reg (rScrubCtl d) = 0x118 ∧ s.fld (rDieIdent d) 3 0 = d.val ∧ s.rbit (rDieIdent d) 7 = true) ∧
  (∀ p : Fin 16, s.reg (rSlgCtl p) = 0x2200 ∧ partState s p = 0 ∧ ∀ x : Fin 8, getCtx s p x = emptyCtx) ∧
  (∀ a, readByte s a = 0 ∧ entryOf s a = ⟨0, crcZ, emptyTag⟩) ∧ Memory.wf s = true

/-- Every step keeps memory in its canonical form: device memory, the entries beside it, the core stores and the accumulator
memories list their addresses strictly rising and nothing that an unlisted address reads as. -/
def Obligations.StepKeepsMemory : Prop :=
  ∀ s t : State, Memory.wf s = true → step s = .next t → Memory.wf t = true
end

