-- ==== Sys2Proof/Laws/Bits.lean ====
section
/-! SUPPORT. Bit fields: a field read after a field written (R18). -/

namespace Sys2Proof.Machine

theorem testBit_bits {n : Nat} (w : BitVec n) (hi lo i : Nat) :
    (bits w hi lo).testBit i = (decide (i < hi - lo + 1) && w.getLsbD (lo + i)) := by
  unfold bits
  rw [Nat.testBit_mod_two_pow, Nat.testBit_shiftRight]
  rfl

theorem getLsbD_fieldMask (n hi lo i : Nat) :
    (fieldMask n hi lo).getLsbD i = (decide (i < n) && decide (lo ≤ i) && decide (i < lo + (hi - lo + 1))) := by
  unfold fieldMask
  rw [BitVec.getLsbD_ofNat, Nat.testBit_shiftLeft, Nat.testBit_two_pow_sub_one]
  by_cases h : lo ≤ i
  · have : (i - lo < hi - lo + 1) ↔ i < lo + (hi - lo + 1) := by omega
    simp [h, this]
  · simp [h]

/-- Every bit after a field is written: the field holds the low bits of the value, the rest is as before. -/
theorem getLsbD_setBits {n : Nat} (w : BitVec n) (hi lo v i : Nat) :
    (setBits w hi lo v).getLsbD i =
      if lo ≤ i ∧ i < lo + (hi - lo + 1) then decide (i < n) && v.testBit (i - lo) else w.getLsbD i := by
  unfold setBits
  rw [BitVec.getLsbD_or, BitVec.getLsbD_and, BitVec.getLsbD_and, BitVec.getLsbD_not, getLsbD_fieldMask,
    BitVec.getLsbD_ofNat, Nat.testBit_shiftLeft]
  by_cases hn : i < n
  · by_cases h1 : lo ≤ i <;> by_cases h2 : i < lo + (hi - lo + 1) <;> simp [hn, h1, h2]
  · have : w.getLsbD i = false := BitVec.getLsbD_of_ge w i (Nat.le_of_not_lt hn)
    simp [hn, this]

/-- A field read back. -/
theorem bits_setBits_same {n : Nat} (w : BitVec n) (hi lo v : Nat) (h : lo + (hi - lo + 1) ≤ n) :
    bits (setBits w hi lo v) hi lo = v % 2 ^ (hi - lo + 1) := by
  apply Nat.eq_of_testBit_eq
  intro i
  rw [testBit_bits, getLsbD_setBits, Nat.testBit_mod_two_pow]
  by_cases hi' : i < hi - lo + 1
  · have h1 : lo + i < lo + (hi - lo + 1) := by omega
    have h2 : lo + i < n := by omega
    simp [hi', h1, h2]
  · simp [hi']

/-- Another field is as before. -/
theorem bits_setBits_other {n : Nat} (w : BitVec n) (hi lo v h2 l2 : Nat)
    (h : l2 + (h2 - l2 + 1) ≤ lo ∨ lo + (hi - lo + 1) ≤ l2) : bits (setBits w hi lo v) h2 l2 = bits w h2 l2 := by
  apply Nat.eq_of_testBit_eq
  intro i
  rw [testBit_bits, testBit_bits, getLsbD_setBits]
  by_cases hi' : i < h2 - l2 + 1
  · have : ¬ (lo ≤ l2 + i ∧ l2 + i < lo + (hi - lo + 1)) := by omega
    simp [this]
  · simp [hi']

/-- A bit read after a bit written. -/
theorem bit_setBit {n : Nat} (w : BitVec n) (i j : Nat) (b : Bool) :
    bit (setBit w i b) j = if j = i then decide (i < n) && b else bit w j := by
  unfold bit setBit
  rw [getLsbD_setBits]
  by_cases h : j = i
  · subst h
    cases b <;> simp
  · have : ¬ (i ≤ j ∧ j < i + (i - i + 1)) := by omega
    rw [if_neg this, if_neg h]

/-! ### Byte order (R17) -/

theorem leNat_testBit (bs : List Byte) : ∀ i, (leNat bs).testBit i = (bs.getD (i / 8) 0).getLsbD (i % 8) := by
  induction bs with
  | nil => intro i; simp [leNat]
  | cons b bs ih =>
    intro i
    have hb : b.toNat < 256 := b.isLt
    unfold leNat
    have : b.toNat + 256 * leNat bs = 2 ^ 8 * leNat bs + b.toNat := by omega
    rw [this, Nat.testBit_two_pow_mul_add _ hb]
    split
    · next h =>
      have h1 : i / 8 = 0 := by omega
      have h2 : i % 8 = i := by omega
      simp [h1, h2]; rfl
    · next h =>
      rw [ih]
      have h1 : i / 8 = (i - 8) / 8 + 1 := by omega
      have h2 : i % 8 = (i - 8) % 8 := by omega
      rw [h1, h2]; rfl

theorem byte_of_leNat (n : Nat) (bs : List Byte) (i : Nat) (h : 8 * i + 8 ≤ n) :
    (BitVec.ofNat n (leNat bs)).extractLsb' (8 * i) 8 = bs.getD i 0 := by
  apply BitVec.eq_of_getLsbD_eq
  intro j hj
  rw [BitVec.getLsbD_extractLsb', BitVec.getLsbD_ofNat, leNat_testBit]
  have h1 : (8 * i + j) / 8 = i := by omega
  have h2 : (8 * i + j) % 8 = j := by omega
  have h3 : 8 * i + j < n := by omega
  simp [h1, h2, h3, hj]

theorem leBytes_length (n v : Nat) : (leBytes n v).length = n := by
  induction n generalizing v with
  | zero => rfl
  | succ n ih => simp [leBytes, ih]

theorem leBytes_getD (n : Nat) : ∀ (v i : Nat), i < n → (leBytes n v).getD i 0 = BitVec.ofNat 8 (v / 256 ^ i) := by
  induction n with
  | zero => intro v i h; omega
  | succ n ih =>
    intro v i h
    rcases i with _ | i
    · simp [leBytes]
    · have := ih (v / 256) i (by omega)
      simp only [leBytes, List.getD_cons_succ, this]
      rw [Nat.div_div_eq_div_mul, Nat.pow_succ, Nat.mul_comm]

end Sys2Proof.Machine
end

