-- ==== Sys2Proof/Laws/Sparse.lean ====
section
/-! SUPPORT. Sparse maps: a read after a write, and the canonical form that every write keeps. -/

namespace Sys2Proof.Machine

theorem smGet_smErase {α : Type} (d : α) (m : SMap α) (k j : Nat) :
    smGet d (smErase m k) j = if j = k then d else smGet d m j := by
  induction m with
  | nil => simp [smErase, smGet]
  | cons p m ih =>
    obtain ⟨i, v⟩ := p
    unfold smErase at ih ⊢
    by_cases hi : i = k
    · subst hi
      by_cases hj : j = i
      · subst hj; simpa using ih
      · simp [smGet, hj, Ne.symm hj] at ih ⊢; exact ih
    · by_cases hj : i = j
      · subst hj; simp [smGet, hi]
      · simpa [smGet, hi, hj] using ih

theorem smGet_smInsert {α : Type} (d : α) (m : SMap α) (k j : Nat) (v : α) :
    smGet d (smInsert m k v) j = if j = k then v else smGet d m j := by
  induction m with
  | nil => simp only [smInsert, smGet, eq_comm]
  | cons p m ih =>
    obtain ⟨i, u⟩ := p
    unfold smInsert
    by_cases h1 : k < i
    · by_cases h : j = k
      · subst h; simp [h1, smGet]
      · simp [h1, smGet, h, Ne.symm h]
    · by_cases h2 : i = k
      · subst h2
        by_cases h : j = i
        · subst h; simp [smGet]
        · simp [smGet, h, Ne.symm h]
      · by_cases h : i = j
        · subst h; simp [h1, h2, smGet]
        · simp [h1, h2, smGet, h, ih]

/-- A read after a write: the value written at its key, every other key as before. -/
theorem smGet_smSet {α : Type} [DecidableEq α] (d : α) (m : SMap α) (k j : Nat) (v : α) :
    smGet d (smSet d m k v) j = if j = k then v else smGet d m j := by
  unfold smSet
  split
  · next h => subst h; rw [smGet_smErase]
  · exact smGet_smInsert d m k j v

@[simp] theorem smGet_smSet_same {α : Type} [DecidableEq α] (d : α) (m : SMap α) (k : Nat) (v : α) :
    smGet d (smSet d m k v) k = v := by simp [smGet_smSet]

theorem smGet_smSet_other {α : Type} [DecidableEq α] (d : α) (m : SMap α) {k j : Nat} (v : α) (h : j ≠ k) :
    smGet d (smSet d m k v) j = smGet d m j := by simp [smGet_smSet, h]

theorem smGet_smMod {α : Type} [DecidableEq α] (d : α) (m : SMap α) (k j : Nat) (f : α → α) :
    smGet d (smMod d m k f) j = if j = k then f (smGet d m k) else smGet d m j := by
  simp [smMod, smGet_smSet]

/-! ### The canonical form -/

theorem smAbove_cons {α : Type} [DecidableEq α] (d : α) (b : Option Nat) (j : Nat) (v : α) (m : SMap α) :
    smAbove d b ((j, v) :: m) ↔ (∀ x, b = some x → x < j) ∧ v ≠ d ∧ smAbove d (some j) m := by
  cases b <;> simp [smAbove, and_assoc]

theorem smAbove_weaken {α : Type} [DecidableEq α] (d : α) {b c : Option Nat} {m : SMap α}
    (h : smAbove d c m) (hb : ∀ x, b = some x → ∃ y, c = some y ∧ x ≤ y) : smAbove d b m := by
  cases m with
  | nil => rfl
  | cons p m =>
    obtain ⟨j, v⟩ := p
    rw [smAbove_cons] at h ⊢
    refine ⟨fun x hx => ?_, h.2.1, h.2.2⟩
    obtain ⟨y, hy, hxy⟩ := hb x hx
    exact Nat.lt_of_le_of_lt hxy (h.1 y hy)

theorem smAbove_insert {α : Type} [DecidableEq α] (d : α) (m : SMap α) (k : Nat) (v : α) (hv : v ≠ d) :
    ∀ b, smAbove d b m → (∀ x, b = some x → x < k) → smAbove d b (smInsert m k v) := by
  induction m with
  | nil =>
    intro b _ hb
    simp only [smInsert]
    exact (smAbove_cons ..).mpr ⟨hb, hv, rfl⟩
  | cons p m ih =>
    obtain ⟨j, u⟩ := p
    intro b h hb
    rw [smAbove_cons] at h
    unfold smInsert
    split
    · next hk =>
      exact (smAbove_cons ..).mpr ⟨hb, hv, (smAbove_cons ..).mpr ⟨fun x hx => by cases hx; exact hk, h.2.1, h.2.2⟩⟩
    · next hk =>
      split
      · next hjk => subst hjk; exact (smAbove_cons ..).mpr ⟨hb, hv, h.2.2⟩
      · next hjk =>
        exact (smAbove_cons ..).mpr ⟨h.1, h.2.1, ih (some j) h.2.2 fun x hx => by cases hx; omega⟩

theorem smAbove_filter {α : Type} [DecidableEq α] (d : α) (f : Nat × α → Bool) (m : SMap α) :
    ∀ b, smAbove d b m → smAbove d b (m.filter f) := by
  induction m with
  | nil => intro b _; rfl
  | cons p m ih =>
    obtain ⟨j, v⟩ := p
    intro b h
    rw [smAbove_cons] at h
    have h2 : smAbove d b m := smAbove_weaken d h.2.2 fun x hx => ⟨j, rfl, Nat.le_of_lt (h.1 x hx)⟩
    by_cases hf : f (j, v) = true
    · simp only [List.filter_cons, hf]
      exact (smAbove_cons ..).mpr ⟨h.1, h.2.1, ih (some j) h.2.2⟩
    · simp only [List.filter_cons, hf]; exact ih b h2

/-- A write keeps the canonical form. -/
theorem smWf_smSet {α : Type} [DecidableEq α] (d : α) (m : SMap α) (k : Nat) (v : α) (h : smWf d m) :
    smWf d (smSet d m k v) := by
  unfold smSet
  split
  · exact smAbove_filter d _ m none h
  · next hv => exact smAbove_insert d m k v hv none h fun x hx => by cases hx

/-- Leaving entries out keeps the canonical form. -/
theorem smWf_filter {α : Type} [DecidableEq α] (d : α) (f : Nat × α → Bool) (m : SMap α) (h : smWf d m) :
    smWf d (m.filter f) := smAbove_filter d f m none h

theorem smWf_smMod {α : Type} [DecidableEq α] (d : α) (m : SMap α) (k : Nat) (f : α → α) (h : smWf d m) :
    smWf d (smMod d m k f) := smWf_smSet d m k _ h

/-- Two maps of which the first lies below key `c` and the second from it on, one after the other. -/
theorem smAbove_append {α : Type} [DecidableEq α] (d : α) (c : Nat) (m' : SMap α) (h' : smAbove d none m')
    (hc' : ∀ p ∈ m', c ≤ p.1) (m : SMap α) : ∀ b, smAbove d b m → (∀ p ∈ m, p.1 < c) → (∀ x, b = some x → x < c) →
    smAbove d b (m ++ m') := by
  induction m with
  | nil =>
    intro b _ _ hb
    cases m' with
    | nil => rfl
    | cons p m' =>
      obtain ⟨j, v⟩ := p
      have h := (smAbove_cons ..).mp h'
      exact (smAbove_cons ..).mpr ⟨fun x hx => Nat.lt_of_lt_of_le (hb x hx) (hc' (j, v) (by simp)), h.2⟩
  | cons p m ih =>
    obtain ⟨j, v⟩ := p
    intro b h hm hb
    have h := (smAbove_cons ..).mp h
    exact (smAbove_cons ..).mpr ⟨h.1, h.2.1, ih (some j) h.2.2 (fun q hq => hm q (by simp [hq]))
      fun x hx => by cases hx; exact hm (j, v) (by simp)⟩

/-- The entries of a run lie within it. -/
theorem runCells_keys {α : Type} [DecidableEq α] (d : α) (vs : List α) : ∀ (a : Nat) (p : Nat × α), p ∈ runCells d a vs →
    a ≤ p.1 ∧ p.1 < a + vs.length := by
  induction vs with
  | nil => intro a p h; simp [runCells] at h
  | cons v vs ih =>
    intro a p h
    unfold runCells at h
    have step := ih (a + 1) p
    split at h
    · have := step h; simp only [List.length_cons]; omega
    · rcases List.mem_cons.mp h with rfl | h
      · simp
      · have := step h; simp only [List.length_cons]; omega

theorem smWf_runCells {α : Type} [DecidableEq α] (d : α) (vs : List α) : ∀ a, smWf d (runCells d a vs) := by
  induction vs with
  | nil => intro a; rfl
  | cons v vs ih =>
    intro a
    unfold runCells
    split
    · exact ih _
    · next hv =>
      refine (smAbove_cons d none a v _).mpr ⟨fun x hx => (nomatch hx), hv, ?_⟩
      have h := smAbove_append d (a + 1) _ (ih (a + 1)) (fun p hp => (runCells_keys d vs _ p hp).1) [] (some a) rfl
        (by simp) (fun x hx => by cases hx; omega)
      simpa using h

/-- A run of values keeps the canonical form. -/
theorem smWf_smPutRun {α : Type} [DecidableEq α] (d : α) (m : SMap α) (a : Nat) (vs : List α) (h : smWf d m) :
    smWf d (smPutRun d m a vs) := by
  have h1 : smAbove d none (m.filter fun p => decide (p.1 < a)) := smWf_filter d _ m h
  have h3 : smAbove d none (m.filter fun p => decide (a + vs.length ≤ p.1)) := smWf_filter d _ m h
  have h2 : smAbove d none (runCells d a vs ++ m.filter fun p => decide (a + vs.length ≤ p.1)) :=
    smAbove_append d (a + vs.length) _ h3 (fun p hp => by simpa using (List.mem_filter.mp hp).2) _ none
      (smWf_runCells d vs a) (fun p hp => (runCells_keys d vs a p hp).2) fun x hx => by cases hx
  refine smAbove_append d a _ h2 (fun p hp => ?_) _ none h1 (fun p hp => by simpa using (List.mem_filter.mp hp).2)
    fun x hx => by cases hx
  rcases List.mem_append.mp hp with hp | hp
  · exact (runCells_keys d vs a p hp).1
  · have : a + vs.length ≤ p.1 := by simpa using (List.mem_filter.mp hp).2
    omega

end Sys2Proof.Machine
end

