-- ==== Sys2Proof/Laws/Bytes.lean ====
section
/-! SUPPORT. Device memory: what a write does to the read of every byte, and that it touches nothing
but bytes and checksum entries. -/

namespace Sys2Proof.Machine

/-- Only stored bytes, checksum entries and the lines in cache ways differ. -/
def OnlyMemory (s t : State) : Prop := t = { s with mem := t.mem, ent := t.ent, cache := t.cache }

theorem OnlyMemory.refl (s : State) : OnlyMemory s s := rfl

theorem OnlyMemory.trans {s t u : State} (h1 : OnlyMemory s t) (h2 : OnlyMemory t u) : OnlyMemory s u := by
  unfold OnlyMemory at *
  rw [h2, h1]

/-! ### The cache ways -/

theorem cacheAccess_eq (s : State) (alloc wr : Bool) (a : Nat) :
    cacheAccess s alloc wr a = { s with cache := (cacheAccess s alloc wr a).cache } := by
  unfold cacheAccess
  extract_lets ls
  split
  · rfl
  · split
    · rfl
    · split <;> rfl

/-- An access changes nothing but the lines in cache ways. -/
theorem cacheUse_eq (s : State) (alloc wr : Bool) (as : List Nat) :
    cacheUse s alloc wr as = { s with cache := (cacheUse s alloc wr as).cache } := by
  unfold cacheUse
  split
  · generalize ((as.filter isHbm).map fun a => a / 64).dedup = ls
    clear * -
    induction ls generalizing s with
    | nil => rfl
    | cons l ls ih =>
      rw [List.foldl_cons, ih, cacheAccess_eq]
  · rfl

@[simp] theorem cacheUse_mem (s : State) (alloc wr : Bool) (as : List Nat) : (cacheUse s alloc wr as).mem = s.mem := by
  rw [cacheUse_eq]
@[simp] theorem cacheUse_ent (s : State) (alloc wr : Bool) (as : List Nat) : (cacheUse s alloc wr as).ent = s.ent := by
  rw [cacheUse_eq]
@[simp] theorem cacheUse_cstore (s : State) (alloc wr : Bool) (as : List Nat) : (cacheUse s alloc wr as).cstore = s.cstore := by
  rw [cacheUse_eq]
@[simp] theorem cacheUse_accm (s : State) (alloc wr : Bool) (as : List Nat) : (cacheUse s alloc wr as).accm = s.accm := by
  rw [cacheUse_eq]
@[simp] theorem readByte_cacheUse (s : State) (alloc wr : Bool) (as : List Nat) (x : Nat) :
    readByte (cacheUse s alloc wr as) x = readByte s x := by
  unfold readByte rawByte lstAt entryOf
  rw [cacheUse_mem, cacheUse_ent]

/-! ### Bytes -/

theorem storeBytes_only (bs : List Byte) : ∀ (a : Nat) (s : State), OnlyMemory s (storeBytes bs a s) := by
  induction bs with
  | nil => intro a s; rfl
  | cons b bs ih => intro a s; exact OnlyMemory.trans (t := { s with mem := smSet 0 s.mem a b }) rfl (ih _ _)

theorem storeBytes_ent (bs : List Byte) : ∀ (a : Nat) (s : State), (storeBytes bs a s).ent = s.ent := by
  induction bs with
  | nil => intro a s; rfl
  | cons b bs ih => intro a s; exact ih _ _

theorem rawByte_storeBytes (bs : List Byte) : ∀ (a : Nat) (s : State) (x : Nat),
    rawByte (storeBytes bs a s) x = if a ≤ x ∧ x < a + bs.length then bs.getD (x - a) 0 else rawByte s x := by
  induction bs with
  | nil =>
    intro a s x
    have : ¬ (a ≤ x ∧ x < a + ([] : List Byte).length) := by simp
    rw [if_neg this]; rfl
  | cons b bs ih =>
    intro a s x
    unfold storeBytes
    rw [ih]
    simp only [rawByte, smGet_smSet, List.length_cons]
    by_cases h : x = a
    · subst h; simp
    · by_cases h1 : a + 1 ≤ x ∧ x < a + 1 + bs.length
      · have h2 : a ≤ x ∧ x < a + (bs.length + 1) := by omega
        have h3 : x - a = (x - (a + 1)) + 1 := by omega
        rw [if_pos h1, if_pos h2, h3]; rfl
      · have h2 : ¬ (a ≤ x ∧ x < a + (bs.length + 1)) := by omega
        rw [if_neg h1, if_neg h2, if_neg h]

theorem lineState_setLine (e : Entry) (l : BitVec 128) (j k v : Nat) (hj : j < 64) (hv : v < 4) :
    lineState { e with lstate := setLine l j v } k = if k = j then v else bits l (2 * k + 1) (2 * k) := by
  unfold lineState setLine
  by_cases h : k = j
  · subst h
    rw [if_pos rfl, bits_setBits_same _ _ _ _ (by omega)]
    have : 2 * k + 1 - 2 * k + 1 = 2 := by omega
    rw [this]; omega
  · rw [if_neg h, bits_setBits_other _ _ _ _ _ _ (by omega)]

theorem lstAt_setEntry (s : State) (a x : Nat) (e : Entry) :
    lstAt (setEntry s a e) x = if x / 4096 = a / 4096 then lineState e (x / 64 % 64) else lstAt s x := by
  unfold lstAt entryOf setEntry
  simp only [smGet_smSet]
  split <;> rfl

/-- One line write: the masked bytes of the line read as written, every other byte as before (R302). -/
theorem readByte_putLine (s : State) (a : Nat) (mask : Nat → Option Byte) (w : Option Tag) (x : Nat) :
    readByte (putLine s a mask w) x =
      if x / 64 = a / 64 then (mask (x % 64)).getD (readByte s x) else readByte s x := by
  unfold putLine
  extract_lets base j e full st old new image diff
  have hlen : new.length = 64 := by simp [new, maskLine]
  have hraw : ∀ y, rawByte (storeBytes new base s) y = if y / 64 = a / 64 then new.getD (y % 64) 0 else rawByte s y := by
    intro y
    rw [rawByte_storeBytes, hlen]
    by_cases hy : y / 64 = a / 64
    · have h1 : base ≤ y ∧ y < base + 64 := by simp only [base]; omega
      have h2 : y - base = y % 64 := by simp only [base]; omega
      rw [if_pos h1, if_pos hy, h2]
    · have h1 : ¬ (base ≤ y ∧ y < base + 64) := by simp only [base]; omega
      rw [if_neg h1, if_neg hy]
  have hnew : ∀ i, i < 64 → new.getD i 0 = (mask i).getD (old.getD i 0) := by
    intro i hi
    simp [new, maskLine, List.getD, hi]
  have hold : ∀ y, y / 64 = a / 64 → old.getD (y % 64) 0 = readByte s y := by
    intro y hy
    have hl : lstAt s y = st := by
      simp only [lstAt, entryOf, st, e, j]
      have : y / 4096 = a / 4096 := by omega
      rw [this, hy]
    unfold readByte
    rw [hl]
    simp only [old]
    have hm : y % 64 < 64 := Nat.mod_lt _ (by decide)
    by_cases h0 : st = 0
    · rw [if_pos h0, if_pos h0, List.getD, List.getElem?_replicate, if_pos hm]
      rfl
    · rw [if_neg h0, if_neg h0]
      have : base + y % 64 = y := by simp only [base]; omega
      simp [rawBytes, List.getD, hm, this]
  have hmix : ∀ y, y / 64 = a / 64 → new.getD (y % 64) 0 = (mask (y % 64)).getD (readByte s y) := by
    intro y hy
    rw [hnew _ (Nat.mod_lt _ (by decide)), hold y hy]
  split
  · next hc =>
    have hls : lstAt (storeBytes new base s) x = lstAt s x := by
      unfold lstAt entryOf; rw [storeBytes_ent]
    by_cases hx : x / 64 = a / 64
    · rw [if_pos hx]
      have hl : lstAt s x = st := by
        simp only [lstAt, entryOf, st, e, j]
        have : x / 4096 = a / 4096 := by omega
        rw [this, hx]
      conv_lhs => unfold readByte
      rw [hls, hl, hc.1, hraw, if_pos hx]
      simpa using hmix x hx
    · rw [if_neg hx]
      unfold readByte
      rw [hls, hraw, if_neg hx]
  · have hls : lstAt (setEntry (storeBytes new base s) a
        { e with lstate := setLine e.lstate j 1, crc := e.crc ^^^ crcContrib (64 * j) diff }) x =
        if x / 64 = a / 64 then 1 else lstAt s x := by
      rw [lstAt_setEntry]
      have hj : j < 64 := Nat.mod_lt _ (by decide)
      by_cases h1 : x / 4096 = a / 4096
      · rw [if_pos h1]
        have hh := lineState_setLine { e with crc := e.crc ^^^ crcContrib (64 * j) diff } e.lstate j (x / 64 % 64) 1 hj (by decide)
        rw [hh]
        by_cases h2 : x / 64 = a / 64
        · have : x / 64 % 64 = j := by simp only [j]; rw [h2]
          rw [if_pos this, if_pos h2]
        · have : ¬ x / 64 % 64 = j := by simp only [j]; omega
          rw [if_neg this, if_neg h2]
          simp only [lstAt, entryOf, e, lineState, h1]
      · have h2 : ¬ x / 64 = a / 64 := by omega
        rw [if_neg h1, if_neg h2]
        unfold lstAt entryOf; rw [storeBytes_ent]
    have hr : ∀ E, rawByte (setEntry (storeBytes new base s) a E) x = rawByte (storeBytes new base s) x := fun _ => rfl
    by_cases hx : x / 64 = a / 64
    · rw [if_pos hx]
      conv_lhs => unfold readByte
      rw [hls, if_pos hx, hr, hraw, if_pos hx]
      simpa using hmix x hx
    · rw [if_neg hx]
      conv_lhs => unfold readByte
      rw [hls, if_neg hx, hr, hraw, if_neg hx]
      rfl

/-- The same of a line write with its use of the cache ways. -/
theorem readByte_writeLine (s : State) (a : Nat) (mask : Nat → Option Byte) (w : Option Tag) (x : Nat) :
    readByte (writeLine s a mask w) x =
      if x / 64 = a / 64 then (mask (x % 64)).getD (readByte s x) else readByte s x := by
  rw [writeLine, readByte_putLine, readByte_cacheUse]

theorem putLine_only (s : State) (a : Nat) (mask : Nat → Option Byte) (w : Option Tag) :
    OnlyMemory s (putLine s a mask w) := by
  unfold putLine
  extract_lets base j e full st old new image diff
  split
  · exact storeBytes_only _ _ _
  · exact OnlyMemory.trans (storeBytes_only new base s) rfl

theorem writeLine_only (s : State) (a : Nat) (mask : Nat → Option Byte) (w : Option Tag) :
    OnlyMemory s (writeLine s a mask w) := by
  refine OnlyMemory.trans ?_ (putLine_only _ _ _ _)
  unfold OnlyMemory
  rw [cacheUse_eq]

/-- The byte that a list of writes leaves at an address: the last one that names it. -/
def lastWrite (ws : List (Nat × Byte)) (x : Nat) : Option Byte := (ws.reverse.find? fun p => p.1 = x).map Prod.snd

/-- A set of bytes written line by line reads as written, every other byte as before. -/
theorem readByte_writeSet (n : Nat) : ∀ (ws : List (Nat × Byte)) (w : Option Tag) (s : State) (x : Nat),
    (ws.map fun p => p.1 / 64).toFinset.card ≤ n →
      readByte (writeSet n ws w s) x = (lastWrite ws x).getD (readByte s x) := by
  induction n with
  | zero =>
    intro ws w s x h
    have : ws = [] := by
      have h1 := Finset.card_eq_zero.mp (Nat.le_zero.mp h)
      simpa using h1
    subst this
    rfl
  | succ n ih =>
    intro ws w s x h
    rcases ws with _ | ⟨⟨a, b⟩, ws⟩
    · rfl
    · unfold writeSet
      extract_lets line mine rest mask
      have hcard : (rest.map fun p => p.1 / 64).toFinset.card ≤ n := by
        have hsub : (rest.map fun p => p.1 / 64).toFinset ⊆ ((((a, b) :: ws).map fun p => p.1 / 64).toFinset).erase line := by
          intro y hy
          simp only [rest, List.mem_toFinset, List.mem_map, List.mem_filter, decide_eq_true_eq] at hy
          obtain ⟨p, ⟨hp, hne⟩, rfl⟩ := hy
          simp only [Finset.mem_erase, List.mem_toFinset, List.mem_map]
          exact ⟨hne, p, List.mem_cons_of_mem _ hp, rfl⟩
        have hmem : line ∈ (((a, b) :: ws).map fun p => p.1 / 64).toFinset := by simp [line]
        have := Finset.card_le_card hsub
        rw [Finset.card_erase_of_mem hmem] at this
        omega
      rw [ih _ _ _ _ hcard, readByte_writeLine]
      have hrest : lastWrite rest x = if x / 64 = line then none else lastWrite ws x := by
        unfold lastWrite
        simp only [rest, ← List.filter_reverse, List.find?_filter]
        split
        · next hx =>
          rw [Option.map_eq_none_iff, List.find?_eq_none]
          intro p _ hp
          simp only [decide_eq_true_eq] at hp
          exact hp.1 (hp.2 ▸ hx)
        · next hx =>
          congr 2
          funext p
          by_cases hp : p.1 = x
          · simp [hp, hx]
          · simp [hp]
      have hall : x / 64 ≠ line → lastWrite ((a, b) :: ws) x = lastWrite ws x := by
        intro hx
        have : a ≠ x := fun h => hx (by simp [line, h])
        simp [lastWrite, List.find?_append, this]
      have hmask : x / 64 = line → mask (x % 64) = lastWrite ((a, b) :: ws) x := by
        intro hx
        simp only [mask, lastWrite, mine, ← List.filter_reverse, List.find?_filter]
        congr 2
        funext p
        by_cases hp : p.1 = x
        · simp [hp, hx]
        · have : ¬ (p.1 / 64 = line ∧ p.1 % 64 = x % 64) := by omega
          simp only [hp]
          by_cases h1 : p.1 / 64 = line
          · have : ¬ p.1 % 64 = x % 64 := fun h => this ⟨h1, h⟩
            simp [this]
          · simp [h1]
      rw [hrest]
      by_cases hx : x / 64 = line
      · rw [if_pos hx, if_pos hx, hmask hx]; rfl
      · rw [if_neg hx, if_neg hx, hall hx]

theorem lastWrite_span (bs : List Byte) (a x : Nat) :
    lastWrite ((List.range bs.length).zip bs |>.map fun p => (a + p.1, p.2)) x =
      if a ≤ x ∧ x < a + bs.length then some (bs.getD (x - a) 0) else none := by
  unfold lastWrite
  induction bs using List.reverseRecOn with
  | nil => simp
  | append_singleton bs b ih =>
    have hz : (List.range (bs ++ [b]).length).zip (bs ++ [b]) = (List.range bs.length).zip bs ++ [(bs.length, b)] := by
      rw [List.length_append, List.length_singleton, List.range_succ, List.zip_append (by simp)]
      rfl
    rw [hz, List.map_append, List.reverse_append]
    simp only [List.map_cons, List.map_nil, List.reverse_cons, List.reverse_nil, List.nil_append, List.singleton_append,
      List.find?_cons, List.length_append, List.length_singleton]
    by_cases h : a + bs.length = x
    · have h1 : a ≤ x ∧ x < a + (bs.length + 1) := by omega
      have h2 : x - a = bs.length := by omega
      simp [h, h2, h1]
    · simp only [h, decide_false]
      rw [ih]
      by_cases h1 : a ≤ x ∧ x < a + bs.length
      · have h2 : a ≤ x ∧ x < a + (bs.length + 1) := by omega
        have h3 : x - a < bs.length := by omega
        rw [if_pos h1, if_pos h2]
        simp [List.getD, List.getElem?_append, h3]
      · have h2 : ¬ (a ≤ x ∧ x < a + (bs.length + 1)) := by omega
        rw [if_neg h1, if_neg h2]

/-- Consecutive bytes written read as written, every other byte as before. -/
theorem readByte_writeBytes (s : State) (a : Nat) (bs : List Byte) (w : Option Tag) (x : Nat) :
    readByte (writeBytes s a bs w) x = if a ≤ x ∧ x < a + bs.length then bs.getD (x - a) 0 else readByte s x := by
  unfold writeBytes
  extract_lets ws
  have hcard : (ws.map fun p => p.1 / 64).toFinset.card ≤ bs.length / 64 + 2 := by
    have hsub : (ws.map fun p => p.1 / 64).toFinset ⊆ Finset.Icc (a / 64) (a / 64 + (bs.length / 64 + 1)) := by
      intro y hy
      simp only [ws, List.mem_toFinset, List.mem_map] at hy
      obtain ⟨p, ⟨q, hq, rfl⟩, rfl⟩ := hy
      have := List.of_mem_zip (a := q.1) (b := q.2) hq
      have hlt : q.1 < bs.length := by simpa using this.1
      simp only [Finset.mem_Icc]
      omega
    have := Finset.card_le_card hsub
    simp only [Nat.card_Icc] at this
    omega
  rw [readByte_writeSet _ _ _ _ _ hcard, lastWrite_span]
  split <;> rfl

theorem writeSet_only (n : Nat) : ∀ (ws : List (Nat × Byte)) (w : Option Tag) (s : State),
    OnlyMemory s (writeSet n ws w s) := by
  induction n with
  | zero => intro ws w s; rfl
  | succ n ih =>
    intro ws w s
    rcases ws with _ | ⟨⟨a, b⟩, ws⟩
    · rfl
    · exact OnlyMemory.trans (writeLine_only _ _ _ _) (ih _ _ _)

theorem writeBytes_only (s : State) (a : Nat) (bs : List Byte) (w : Option Tag) : OnlyMemory s (writeBytes s a bs w) :=
  writeSet_only _ _ _ _

/-- Bytes written at the addresses they name read as the last write leaves them, every other byte as before. -/
theorem readByte_writeAll (s : State) (ws : List (Nat × Byte)) (w : Option Tag) (x : Nat) :
    readByte (writeAll s ws w) x = (lastWrite ws x).getD (readByte s x) := by
  unfold writeAll
  refine readByte_writeSet _ _ _ _ _ ?_
  exact Nat.le_trans (List.toFinset_card_le _) (by simp)

theorem writeAll_only (s : State) (ws : List (Nat × Byte)) (w : Option Tag) : OnlyMemory s (writeAll s ws w) :=
  writeSet_only _ _ _ _

end Sys2Proof.Machine
end

