-- ==== Sys2Proof/Laws/Hub.lean ====
section
/-! SUPPORT. What the hub's shared operations can touch: registers, the hub's own state and what is sent.
Memory, contexts, partitions and every other unit are as before. -/

namespace Sys2Proof.Machine

/-- Only registers, the hub's own state and the messages sent differ. -/
def HubOnly (s t : State) : Prop := t = { s with regs := t.regs, hub := t.hub, out := t.out }

theorem HubOnly.refl (s : State) : HubOnly s s := rfl

theorem HubOnly.trans {s t u : State} (h1 : HubOnly s t) (h2 : HubOnly t u) : HubOnly s u := by
  unfold HubOnly at *
  rw [h2, h1]

theorem HubOnly.ite {p : Prop} [Decidable p] {s t u : State} (h1 : HubOnly s t) (h2 : HubOnly s u) :
    HubOnly s (if p then t else u) := by split <;> assumption

theorem HubOnly.foldl {α : Type} (f : State → α → State) (hf : ∀ s x, HubOnly s (f s x)) :
    ∀ (l : List α) (s : State), HubOnly s (l.foldl f s)
  | [], s => .refl s
  | x :: l, s => (hf s x).trans (HubOnly.foldl f hf l (f s x))

theorem setReg_hubOnly (s : State) (a : Nat) (v : Word) : HubOnly s (s.setReg a v) := rfl
theorem setFld_hub (s : State) (a hi lo v : Nat) : HubOnly s (s.setFld a hi lo v) := rfl
theorem setRBit_hub (s : State) (a i : Nat) (b : Bool) : HubOnly s (s.setRBit a i b) := rfl
theorem send_hubOnly (s : State) (m : OutMsg) : HubOnly s (s.send m) := rfl
theorem sends_hubOnly (s : State) (ms : List OutMsg) : HubOnly s (s.sends ms) := rfl

theorem hubSet_hub (s : State) (h : Hub) : HubOnly s { s with hub := h } := rfl

theorem softWrite_hub (s : State) (a : Nat) (v : Word) : HubOnly s (s.softWrite a v) := by
  unfold State.softWrite
  split
  · rfl
  · exact .refl s

theorem sendReq_hub (s : State) (r : HostReq) : HubOnly s (sendReq s r) := by
  unfold sendReq
  dsimp only
  split
  · exact .refl s
  · rfl

theorem sendHeld_hub (s : State) : HubOnly s (sendHeld s) := .ite (.foldl _ sendReq_hub _ _) (.refl s)

theorem hostRequest_hub (s : State) (ty line : Nat) (data : List Byte) : HubOnly s (hostRequest s ty line data) :=
  .ite (.refl s) ((hubSet_hub s _).trans (sendHeld_hub _))

theorem hostPump_hub (n : Nat) : ∀ s : State, HubOnly s (hostPump n s) := by
  induction n with
  | zero => intro s; exact .refl s
  | succ n ih =>
    intro s
    unfold hostPump
    split
    · exact .refl s
    · split
      · split
        · exact hostRequest_hub _ _ _ _
        · refine HubOnly.trans ?_ (ih _)
          dsimp only
          split <;> rfl
      · exact hostRequest_hub _ _ _ _

theorem hostWriteFor_hub (s : State) (a : Nat) (bs : List Byte) (r : Option Nat)
    (q : Option DieHdr) : HubOnly s (hostWriteFor s a bs r q) := by
  unfold hostWriteFor
  extract_lets src s1
  have h1 : HubOnly s s1 := rfl
  exact .ite h1 (h1.trans (hostPump_hub _ _))

theorem hostWrite_hub (s : State) (a : Nat) (bs : List Byte) : HubOnly s (hostWrite s a bs) := hostWriteFor_hub _ _ _ _ _

theorem evtStore_hub (s : State) (e : EvRec) : HubOnly s (evtStore s e) :=
  HubOnly.trans (setFld_hub _ _ _ _ _) (hostWrite_hub _ _ _)

theorem evtHold_hub (s : State) (e : EvRec) : HubOnly s (evtHold s e) := by
  unfold evtHold
  split
  · rfl
  · exact .ite rfl rfl

theorem emitRaw_hub (s : State) (e : EvRec) : HubOnly s (emitRaw s e) := .ite (evtStore_hub _ _) (evtHold_hub _ _)

theorem elogWrite_hub (s : State) (e : EvRec) : HubOnly s (elogWrite s e) := by
  unfold elogWrite
  split
  · rfl
  · exact .ite rfl (.refl s)

theorem errRaw_hub (s : State) (r : ErrRec) : HubOnly s (errRaw s r) := by
  unfold errRaw
  extract_lets n src s1 e
  have h1 : HubOnly s s1 := rfl
  exact (h1.trans (emitRaw_hub _ _)).trans (elogWrite_hub _ _)

theorem thrSlot_hub (idx part : Nat) (old new : Cnt) (s : State) (k : Nat) : HubOnly s (thrSlot idx part old new s k) := by
  unfold thrSlot
  extract_lets sel s1
  have h1 : HubOnly s s1 := rfl
  clear_value s1
  split
  · exact (h1.trans (hubSet_hub _ _)).trans (errRaw_hub _ _)
  · exact .refl s

theorem thrJudge_hub (s : State) (idx part : Nat) (old new : Cnt) : HubOnly s (thrJudge s idx part old new) :=
  .foldl _ (fun s k => thrSlot_hub idx part old new s k) _ _

theorem cntInc_hub (s : State) (idx part n : Nat) : HubOnly s (cntInc s idx part n) := by
  unfold cntInc
  refine .ite (.refl s) ?_
  extract_lets old new
  exact HubOnly.trans (t := cntPut s idx part new) rfl (thrJudge_hub _ _ _ _ _)

theorem lossJudge_hub {s t : State} (u : State) (h : HubOnly s t) : HubOnly s (lossJudge u t) := by
  unfold lossJudge
  exact .ite h (h.trans (thrJudge_hub _ _ _ _ _))

theorem emit_hub (s : State) (e : EvRec) : HubOnly s (emit s e) := lossJudge_hub s (emitRaw_hub s e)
theorem errRecord_hub (s : State) (r : ErrRec) : HubOnly s (errRecord s r) := lossJudge_hub s (errRaw_hub s r)
theorem event0_hub (s : State) (code die : Nat) (part : Option Nat) (pay : List Word) :
    HubOnly s (event0 s code die part pay) := emit_hub _ _

theorem capture_hub (s : State) (av vbit : Nat) (f : State → State) (hf : HubOnly s (f s)) : HubOnly s (s.capture av vbit f) :=
  .ite (.refl s) hf

end Sys2Proof.Machine
end

