-- ==== Sys2Proof/Laws/Streams.lean ====
section
/-! SUPPORT. Contexts and streams: a read after a write, and all that issuing an instruction does. -/

namespace Sys2Proof.Machine

@[simp] theorem getCtx_setCtx (s : State) (p x : Nat) (c : Ctx) : getCtx (setCtx s p x c) p x = c := by
  simp [getCtx, setCtx]

theorem smGet_setCtx (s : State) (p x k : Nat) (c : Ctx) :
    smGet emptyCtx (setCtx s p x c).ctxs k = if k = ctxKey p x then c else smGet emptyCtx s.ctxs k := by
  simp [setCtx, smGet_smSet]

@[simp] theorem strm_setStrm (c : Ctx) (k : Strm) (t : Stream) : (c.setStrm k t).strm k = t := by
  cases k <;> rfl

theorem strm_setStrm_ne (c : Ctx) {k j : Strm} (t : Stream) (h : j ≠ k) : (c.setStrm k t).strm j = c.strm j := by
  cases k <;> cases j <;> first | rfl | exact absurd rfl h

@[simp] theorem setStrm_td (c : Ctx) (k : Strm) (t : Stream) : (c.setStrm k t).td = c.td := by cases k <;> rfl
@[simp] theorem setStrm_bc (c : Ctx) (k : Strm) (t : Stream) : (c.setStrm k t).bc = c.bc := by cases k <;> rfl
@[simp] theorem setStrm_pend (c : Ctx) (k : Strm) (t : Stream) : (c.setStrm k t).pend = c.pend := by cases k <;> rfl
@[simp] theorem setStrm_started (c : Ctx) (k : Strm) (t : Stream) : (c.setStrm k t).started = c.started := by
  cases k <;> rfl
@[simp] theorem setStrm_fault (c : Ctx) (k : Strm) (t : Stream) : (c.setStrm k t).fault = c.fault := by cases k <;> rfl
@[simp] theorem setStrm_job (c : Ctx) (k : Strm) (t : Stream) : (c.setStrm k t).job = c.job := by cases k <;> rfl
@[simp] theorem setStrm_tslot (c : Ctx) (k : Strm) (t : Stream) : (c.setStrm k t).tslot = c.tslot := by cases k <;> rfl
@[simp] theorem setStrm_fences (c : Ctx) (k : Strm) (t : Stream) : (c.setStrm k t).fences = c.fences := by
  cases k <;> rfl

@[simp] theorem ctxAt_modCtx (s : State) (a : StreamId) (f : Ctx → Ctx) :
    ctxAt (modCtx s a.part a.ctx f) a = f (ctxAt s a) := by simp [ctxAt, modCtx]

@[simp] theorem ctxAt_modStrmAt (s : State) (a : StreamId) (f : Stream → Stream) :
    ctxAt (modStrmAt s a f) a = (ctxAt s a).setStrm a.strm (f (strmAt s a)) := by simp [modStrmAt, setStrmAt]

@[simp] theorem strmAt_modStrmAt (s : State) (a : StreamId) (f : Stream → Stream) :
    strmAt (modStrmAt s a f) a = f (strmAt s a) := by simp [strmAt]

/-- The scalar registers after a write: s0 stays 0 (R106). -/
theorem sregOf_setSreg (t : Stream) (n j : Nat) (v : Word) :
    sregOf (setSreg t n v) j = if j = n ∧ n ≠ 0 then v else sregOf t j := by
  unfold setSreg sregOf
  by_cases hn : n = 0
  · simp [hn]
  · by_cases hj : j = 0
    · subst hj; simp [Ne.symm hn]
    · simp [hn, hj, smGet_smSet]

theorem traceFold (f : State → Nat → SMap (List Nat)) (l : List Nat) (s : State) :
    l.foldl (fun s c => { s with trace := f s c }) s =
      { s with trace := (l.foldl (fun s c => { s with trace := f s c }) s).trace } := by
  induction l generalizing s with
  | nil => rfl
  | cons c l ih => rw [List.foldl_cons, ih]

theorem traceIssue_rest (s : State) (a : StreamId) (w : InstrWord) :
    traceIssue s a w = { s with trace := (traceIssue s a w).trace } := by
  unfold traceIssue
  split
  · rfl
  · exact traceFold _ _ s

/-- The context after an instruction has issued at once. -/
def afterIssue (s : State) (a : StreamId) (w : InstrWord) (npc : Nat) (c : Ctx) : Ctx :=
  c.setStrm a.strm { touchBlock (c.strm a.strm) with
    st := .issuing, wait := .none, pc := npc, iseq := (c.strm a.strm).iseq + 1, hold := groupEnds s a w }

@[simp] theorem touchBlock_plen (t : Stream) : (touchBlock t).plen = t.plen := by unfold touchBlock; split <;> rfl
@[simp] theorem touchBlock_regs (t : Stream) : (touchBlock t).regs = t.regs := by unfold touchBlock; split <;> rfl
@[simp] theorem touchBlock_infl (t : Stream) : (touchBlock t).infl = t.infl := by unfold touchBlock; split <;> rfl

theorem advance_eq (s : State) (a : StreamId) (w : InstrWord) (npc : Nat) (h : npc < (strmAt s a).plen) :
    advance s a w npc = modCtx { s with trace := (traceIssue s a w).trace } a.part a.ctx (afterIssue s a w npc) := by
  unfold advance
  extract_lets hold s1
  have h0 := traceIssue_rest s a w
  have e1 : s1 = modCtx { s with trace := (traceIssue s a w).trace } a.part a.ctx (afterIssue s a w npc) := by
    simp only [s1]
    rw [h0]
    rfl
  have : ¬ (strmAt s1 a).plen ≤ npc := by
    rw [e1]
    rw [strmAt, ctxAt_modCtx]
    simp only [afterIssue, strm_setStrm, touchBlock_plen]
    exact Nat.not_le.mpr h
  rw [if_neg this, e1]

/-- The context after the signal of SEN, of the scheduled context. -/
def afterSignal (w : InstrWord) (c : Ctx) : Ctx :=
  if iSen w then { c with bc := smSet 0 c.bc (iSbc w) (bcOf c (iSbc w) + 1) } else c

theorem signal_eq (s : State) (a : StreamId) (w : InstrWord) (h : (getPart s a.part).sched = some a.ctx.val) :
    signal s a w = modCtx s a.part a.ctx (afterSignal w) ∨ signal s a w = s ∧ iSen w = false := by
  unfold signal bcAdd
  by_cases hs : iSen w = true
  · left
    simp only [hs, h, if_true, modCtx, afterSignal]
    rfl
  · right
    simp [hs]

@[simp] theorem afterSignal_strm (w : InstrWord) (c : Ctx) (k : Strm) : (afterSignal w c).strm k = c.strm k := by
  unfold afterSignal; split
  · cases k <;> rfl
  · rfl

/-- All that the signal of SEN does, in the scheduled context (R133). -/
theorem signal_spec (s : State) (a : StreamId) (w : InstrWord) (h : (getPart s a.part).sched = some a.ctx.val) :
    signal s a w = { s with ctxs := (signal s a w).ctxs } ∧
      (∀ k, k ≠ ctxKey a.part a.ctx → smGet emptyCtx (signal s a w).ctxs k = smGet emptyCtx s.ctxs k) ∧
      ctxAt (signal s a w) a = afterSignal w (ctxAt s a) := by
  rcases signal_eq s a w h with e | ⟨e, hs⟩
  · rw [e]
    refine ⟨rfl, fun k hk => ?_, ctxAt_modCtx _ _ _⟩
    simp [modCtx, smGet_setCtx, hk]
  · rw [e]
    refine ⟨rfl, fun _ _ => rfl, ?_⟩
    simp [afterSignal, hs]

/-- What an instruction that completes at once does, in the scheduled context, with the next PC inside the
window. -/
theorem completeNow_spec (s : State) (a : StreamId) (w : InstrWord) (npc : Nat)
    (h : (getPart s a.part).sched = some a.ctx.val) (hn : npc < (strmAt s a).plen) :
    OnlyStream s (completeNow s a w npc) a ∧ OnlyCtxs s (completeNow s a w npc) ∧ Completed s (completeNow s a w npc) a w npc ∧
      (strmAt (completeNow s a w npc) a).regs = (strmAt s a).regs ∧
      (ctxAt (completeNow s a w npc) a).td = (ctxAt s a).td ∧
      ∀ n, bcOf (ctxAt (completeNow s a w npc) a) n = signalled s a w n := by
  obtain ⟨h1, h2, h3⟩ := signal_spec s a w h
  unfold completeNow
  generalize signal s a w = u at h1 h2 h3 ⊢
  have hp : npc < (strmAt u a).plen := by rw [strmAt, h3, afterSignal_strm]; exact hn
  rw [advance_eq _ _ _ _ hp]
  generalize (traceIssue u a w).trace = T
  have h0 : ctxAt { u with trace := T } a = afterSignal w (ctxAt s a) := h3
  refine ⟨⟨fun k hk => ?_, fun k hk => ?_, ?_⟩, ?_, ⟨?_, ?_, ?_, ?_⟩, ?_, ?_, fun n => ?_⟩
  · simp [modCtx, smGet_setCtx, hk, h2]
  · rw [ctxAt_modCtx, afterIssue, strm_setStrm_ne _ _ hk, h0, afterSignal_strm]
  · simp only [ctxAt_modCtx, afterIssue, h0, setStrm_started, setStrm_fault, setStrm_job, setStrm_tslot, setStrm_fences,
      setStrm_pend]
    unfold afterSignal
    split <;> simp
  · unfold OnlyCtxs; rw [h1]; rfl
  all_goals simp only [strmAt, ctxAt_modCtx, afterIssue, strm_setStrm, afterSignal_strm, h0, setStrm_td, touchBlock_infl, touchBlock_regs]
  · unfold afterSignal; split <;> rfl
  · unfold bcOf signalled
    rw [setStrm_bc]
    unfold afterSignal
    by_cases hs : iSen w = true
    · simp only [hs, if_true, smGet_smSet, true_and]
      split
      · next hn => rw [hn]
      · rfl
    · simp [hs]; rfl
/-- All that issuing an instruction that stays in flight does. -/
theorem issueFlight_spec (s : State) (a : StreamId) (w : InstrWord) (tds : List DescWord) (aux : List Nat) (n : Nat)
    (hn : (strmAt s a).pc + 1 < (strmAt s a).plen) :
    OnlyStream s (issueFlight s a w tds aux n) a ∧ OnlyCtxs s (issueFlight s a w tds aux n) ∧
      (strmAt (issueFlight s a w tds aux n) a).pc = (strmAt s a).pc + 1 ∧
      (strmAt (issueFlight s a w tds aux n) a).iseq = (strmAt s a).iseq + 1 ∧
      (strmAt (issueFlight s a w tds aux n) a).st = .issuing ∧
      (strmAt (issueFlight s a w tds aux n) a).infl = (strmAt s a).infl ++ [newInFlight s (strmAt s a) w tds aux n] ∧
      (strmAt (issueFlight s a w tds aux n) a).regs = (strmAt s a).regs ∧
      (ctxAt (issueFlight s a w tds aux n) a).td = (ctxAt s a).td ∧
      (ctxAt (issueFlight s a w tds aux n) a).bc = (ctxAt s a).bc := by
  unfold issueFlight
  extract_lets u
  have h1 : ctxAt u a = (ctxAt s a).setStrm a.strm { strmAt s a with
      infl := (strmAt s a).infl ++ [newInFlight s (strmAt s a) w tds aux n] } := ctxAt_modStrmAt _ _ _
  have hu : u = { s with ctxs := u.ctxs } := rfl
  have h2 : ∀ k, k ≠ ctxKey a.part a.ctx → smGet emptyCtx u.ctxs k = smGet emptyCtx s.ctxs k := fun k hk => by
    simp [u, modStrmAt, setStrmAt, modCtx, smGet_setCtx, hk]
  have hp : (strmAt s a).pc + 1 < (strmAt u a).plen := by
    change _ < ((ctxAt u a).strm a.strm).plen
    rw [h1, strm_setStrm]
    exact hn
  clear_value u
  rw [advance_eq _ _ _ _ hp]
  generalize (traceIssue u a w).trace = T
  have h0 : ctxAt { u with trace := T } a = ctxAt u a := rfl
  refine ⟨⟨fun k hk => ?_, fun k hk => ?_, ?_⟩, ?_, ?_, ?_, ?_, ?_, ?_, ?_, ?_⟩
  · simp [modCtx, smGet_setCtx, hk, h2]
  · rw [ctxAt_modCtx, afterIssue, strm_setStrm_ne _ _ hk, h0, h1, strm_setStrm_ne _ _ hk]
  · simp only [ctxAt_modCtx, afterIssue, h0, h1, setStrm_started, setStrm_fault, setStrm_job, setStrm_tslot, setStrm_fences,
      setStrm_pend, and_self]
  · unfold OnlyCtxs; rw [hu]; rfl
  all_goals simp only [strmAt, ctxAt_modCtx, afterIssue, strm_setStrm, h0, h1, setStrm_td, setStrm_bc, touchBlock_infl, touchBlock_regs]

/-- An instruction that is ready goes on. -/
theorem withWord_ready {s : State} {a : StreamId} {w : InstrWord} {op : Nat} {u : Uses} {extra : List (Option SFault)}
    (h : Ready s a w op u extra) (k : State → State) : withWord s a w op u extra k = k s := by
  obtain ⟨h1, h2, h3, h4⟩ := h
  simp [withWord, withWordAfter, h1, h2, h3, h4]

theorem withWordAfter_ready {s : State} {a : StreamId} {w : InstrWord} {op : Nat} {u : Uses} {extra : List (Option SFault)}
    (h : Ready s a w op u extra) (k : State → State) : withWordAfter s a w false op u extra k = k s := withWord_ready h k

/-- The stream of an instruction that is taken belongs to the scheduled context. -/
theorem sched_of_accepts {s : State} {a : StreamId} {w : InstrWord} (h : accepts s a w = true) :
    (getPart s a.part).sched = some a.ctx.val := by
  simp only [accepts, Bool.and_eq_true, decide_eq_true_eq] at h
  simp_all

theorem setSreg_pc (t : Stream) (n : Nat) (v : Word) : (setSreg t n v).pc = t.pc ∧ (setSreg t n v).plen = t.plen ∧
   (setSreg t n v).iseq = t.iseq ∧ (setSreg t n v).infl = t.infl := by unfold setSreg; split <;> simp

/-- A scalar register written, then completion. -/
theorem setD_spec (s : State) (a : StreamId) (w : InstrWord) (d : Nat) (v : Word) (npc : Nat)
    (hs : accepts s a w = true) (hn : npc < (strmAt s a).plen) :
    let u := completeNow (modStrmAt s a fun t => setSreg t d v) a w npc
    OnlyStream s u a ∧ OnlyCtxs s u ∧ Completed s u a w npc ∧
     (∀ n, sregOf (strmAt u a) n = if n = d ∧ n ≠ 0 then v else sregOf (strmAt s a) n) ∧
     (ctxAt u a).td = (ctxAt s a).td ∧ ∀ n, bcOf (ctxAt u a) n = signalled s a w n := by
  intro u
  have h1 : ctxAt (modStrmAt s a fun t => setSreg t d v) a = (ctxAt s a).setStrm a.strm (setSreg (strmAt s a) d v) := ctxAt_modStrmAt _ _ _
  have h2 : strmAt (modStrmAt s a fun t => setSreg t d v) a = setSreg (strmAt s a) d v := strmAt_modStrmAt _ _ _
  have hq : (getPart (modStrmAt s a fun t => setSreg t d v) a.part).sched = some a.ctx.val := sched_of_accepts (s := s) hs
  have hp := setSreg_pc (strmAt s a) d v
  obtain ⟨f1, f2, f3, f4, f5, f6⟩ := completeNow_spec (modStrmAt s a fun t => setSreg t d v) a w npc hq (by rw [h2, hp.2.1]; exact hn)
  refine ⟨⟨fun k hk => ?_, fun k hk => ?_, ?_⟩, ?_, ⟨f3.pc, ?_, f3.running, ?_⟩, ?_, ?_, ?_⟩
  · rw [f1.ctxs k hk]
    simp [modStrmAt, setStrmAt, modCtx, smGet_setCtx, hk]
  · rw [f1.strms k hk, h1, strm_setStrm_ne _ _ hk]
  · have := f1.ctx
    rw [h1] at this
    simpa using this
  · exact f2
  · rw [f3.iseq, h2, hp.2.2.1]
  · rw [f3.infl, h2, hp.2.2.2]
  · intro n
    have : sregOf (strmAt u a) n = sregOf (setSreg (strmAt s a) d v) n := by
      unfold sregOf; rw [f4, h2]
    rw [this, sregOf_setSreg]
    split <;> split <;> first | rfl | (exfalso; omega)
  · rw [f5, h1, setStrm_td]
  · intro n
    rw [f6]
    unfold signalled bcOf
    rw [h1, setStrm_bc]

/-- sD written, then completion. -/
theorem putD_spec (s : State) (a : StreamId) (w : InstrWord) (v : Word)
    (hs : accepts s a w = true) (hn : (strmAt s a).pc + 1 < (strmAt s a).plen) :
    ScalarDone s (completeNow (putD s a w v) a w ((strmAt s a).pc + 1)) a w v := by
  obtain ⟨f1, f2, f3, f4, f5, f6⟩ := setD_spec s a w (iSd w) v _ hs hn
  exact ⟨f1, f2, f3, f4, f5, f6⟩

/-- The context changed outside its streams, then completion. -/
theorem modCtx_complete (s : State) (a : StreamId) (w : InstrWord) (npc : Nat) (f : Ctx → Ctx)
    (hf : ∀ c, (∀ k, (f c).strm k = c.strm k) ∧ (f c).started = c.started ∧ (f c).fault = c.fault ∧ (f c).job = c.job ∧
      (f c).tslot = c.tslot ∧ (f c).fences = c.fences ∧ (f c).pend = c.pend)
    (hs : accepts s a w = true) (hn : npc < (strmAt s a).plen) :
    let u := completeNow (modCtx s a.part a.ctx f) a w npc
    OnlyStream s u a ∧ OnlyCtxs s u ∧ Completed s u a w npc ∧ (strmAt u a).regs = (strmAt s a).regs ∧
     (ctxAt u a).td = (f (ctxAt s a)).td ∧
     ∀ n, bcOf (ctxAt u a) n = if iSen w = true ∧ n = iSbc w then bcOf (f (ctxAt s a)) n + 1 else bcOf (f (ctxAt s a)) n := by
  intro u
  have h1 : ctxAt (modCtx s a.part a.ctx f) a = f (ctxAt s a) := ctxAt_modCtx _ _ _
  have h3 : ∀ k, (ctxAt (modCtx s a.part a.ctx f) a).strm k = (ctxAt s a).strm k := by
    intro k; rw [h1]; exact (hf _).1 k
  have h2 : strmAt (modCtx s a.part a.ctx f) a = strmAt s a := h3 _
  have hq : (getPart (modCtx s a.part a.ctx f) a.part).sched = some a.ctx.val := sched_of_accepts (s := s) hs
  obtain ⟨f1, f2, f3, f4, f5, f6⟩ := completeNow_spec _ a w npc hq (by rw [h2]; exact hn)
  refine ⟨⟨fun k hk => ?_, fun k hk => ?_, ?_⟩, ?_, ⟨f3.pc, ?_, f3.running, ?_⟩, ?_, ?_, ?_⟩
  · rw [f1.ctxs k hk]
    simp [modCtx, smGet_setCtx, hk]
  · rw [f1.strms k hk, h3]
  · have := f1.ctx
    rw [h1] at this
    obtain ⟨-, g2, g3, g4, g5, g6, g7⟩ := hf (ctxAt s a)
    rw [g2, g3, g4, g5, g6, g7] at this
    exact this
  · exact f2
  · rw [f3.iseq, h2]
  · rw [f3.infl, h2]
  · rw [f4, h2]
  · rw [f5, h1]
  · intro n
    rw [f6]
    unfold signalled
    rw [h1]

/-- The descriptor table after a load of consecutive descriptors (R131). -/
theorem putDescs_get (bs : List Byte) (first n : Nat) (m : SMap DescWord) (k : Nat) :
    smGet 0 (putDescs m first bs n) k = if first ≤ k ∧ k < first + n then
      BitVec.ofNat 512 (leNat ((bs.drop (64 * (k - first))).take 64)) else smGet 0 m k := by
  unfold putDescs
  induction n with
  | zero =>
    have : ¬ (first ≤ k ∧ k < first + 0) := by omega
    rw [if_neg this]; rfl
  | succ n ih =>
    rw [List.range_succ, List.foldl_append]
    simp only [List.foldl_cons, List.foldl_nil, smGet_smSet]
    by_cases h : k = first + n
    · have h1 : first ≤ k ∧ k < first + (n + 1) := by omega
      have h2 : k - first = n := by omega
      rw [if_pos h, if_pos h1, h2]
    · rw [if_neg h, ih]
      by_cases h1 : first ≤ k ∧ k < first + n
      · have h2 : first ≤ k ∧ k < first + (n + 1) := by omega
        rw [if_pos h1, if_pos h2]
      · have h2 : ¬ (first ≤ k ∧ k < first + (n + 1)) := by omega
        rw [if_neg h1, if_neg h2]

end Sys2Proof.Machine
end

