-- ==== Sys2Proof/Laws/Issue.lean ====
section
/-! SUPPORT. The fence unit at issue, and all that issuing a tensor instruction does. -/

namespace Sys2Proof.Machine

@[simp] theorem fenceOf_setFence (c : Ctx) (g h : Nat) (f : FenceG) :
    fenceOf (setFence c g f) h = if h = g then some f else fenceOf c h := by
  unfold fenceOf setFence
  simp only [List.find?_append]
  by_cases e : h = g
  · subst e
    simp only [if_true]
    have : List.find? (fun q => decide (q.1 = h)) (c.fences.filter fun q => decide (q.1 ≠ h)) = none := by
      simp [List.find?_eq_none]
    rw [this]; simp
  · simp only [e, if_false]
    have h2 : List.find? (fun q : Nat × FenceG => decide (q.1 = h)) [(g, f)] = none := by
      simp [Ne.symm e]
    rw [h2, Option.or_none]
    congr 1
    induction c.fences with
    | nil => rfl
    | cons q l ih =>
      by_cases hq : q.1 = g
      · have : ¬ q.1 = h := fun x => e (x.symm.trans hq)
        simp_all
      · by_cases hh : q.1 = h
        · simp_all
        · simp_all

/-- Only fence fields of the context and the cached lines differ. -/
structure OnlyFences (s t : State) (a : StreamId) : Prop where
  rest : t = { s with ctxs := t.ctxs, cache := t.cache }
  ctxs : ∀ k, k ≠ ctxKey a.part a.ctx → smGet emptyCtx t.ctxs k = smGet emptyCtx s.ctxs k
  ctx : ctxAt t a = { ctxAt s a with fences := (ctxAt t a).fences }

theorem OnlyFences.refl (s : State) (a : StreamId) : OnlyFences s s a := ⟨rfl, fun _ _ => rfl, rfl⟩

theorem OnlyFences.trans {s t u : State} {a : StreamId} (h : OnlyFences s t a) (g : OnlyFences t u a) :
    OnlyFences s u a := by
  refine ⟨?_, fun k hk => (g.ctxs k hk).trans (h.ctxs k hk), ?_⟩
  · rw [g.rest, h.rest]
  · rw [g.ctx, h.ctx]

theorem onlyFences_modCtx (s : State) (a : StreamId) (f : Ctx → Ctx)
    (h : f (ctxAt s a) = { ctxAt s a with fences := (f (ctxAt s a)).fences }) :
    OnlyFences s (modCtx s a.part a.ctx f) a := by
  refine ⟨rfl, fun k hk => ?_, ?_⟩
  · simp [modCtx, smGet_setCtx, hk]
  · rw [ctxAt_modCtx]; exact h

@[simp] theorem ctxAt_cacheUse (s : State) (alloc wr : Bool) (as : List Nat) (a : StreamId) :
    ctxAt (cacheUse s alloc wr as) a = ctxAt s a := by
  rw [cacheUse_eq]
  rfl

theorem onlyFences_cacheUse (s : State) (a : StreamId) (alloc wr : Bool) (as : List Nat) :
    OnlyFences s (cacheUse s alloc wr as) a := by
  rw [cacheUse_eq]
  exact ⟨rfl, fun _ _ => rfl, rfl⟩

/-- Reading the fence fields of one group. -/
theorem loadFence_spec (s : State) (a : StreamId) (g : Nat) (f : FenceG)
    (h : fenceOf (ctxAt s a) g = some f ∨ (fenceOf (ctxAt s a) g = none ∧ (pgRecord s a.part g).map pgFence = some f)) :
    ∃ t, loadFence s a.part a.ctx g = some t ∧ OnlyFences s t a ∧
      ∀ k, fenceOf (ctxAt t a) k = if k = g then some f else fenceOf (ctxAt s a) k := by
  unfold loadFence
  rcases h with h | ⟨h, e⟩
  · have h' : fenceOf (getCtx s a.part a.ctx) g = some f := h
    rw [h']
    refine ⟨s, rfl, OnlyFences.refl s a, fun k => ?_⟩
    split
    · next hk => rw [hk, h]
    · rfl
  · have h' : fenceOf (getCtx s a.part a.ctx) g = none := h
    rw [h']
    cases hr : pgRecord s a.part g with
    | none => rw [hr] at e; cases e
    | some r =>
      rw [hr] at e
      simp only [Option.map_some, Option.some.injEq] at e ⊢
      have hc := onlyFences_cacheUse s a true false [pgAddr s a.part g]
      refine ⟨_, rfl, hc.trans (onlyFences_modCtx _ a _ rfl), fun k => ?_⟩
      rw [ctxAt_modCtx, fenceOf_setFence, e, ctxAt_cacheUse]

theorem pgRecord_only {s t : State} {a : StreamId} (h : OnlyFences s t a) (p g : Nat) : pgRecord t p g = pgRecord s p g := by
  rw [h.rest]; rfl

/-- The fence fields of group `g` in context or record. -/
def fenceFrom (s : State) (a : StreamId) (g : Nat) : Option FenceG :=
  match fenceOf (ctxAt s a) g with
  | some f => some f
  | none => (pgRecord s a.part g).map pgFence

theorem loadFences_spec (l : List Nat) (s : State) (a : StreamId) (h : ∀ g, g ∈ l → (fenceFrom s a g).isSome) :
    ∃ t, loadFences s a.part a.ctx l = some t ∧ OnlyFences s t a ∧
      ∀ k, fenceOf (ctxAt t a) k = if k ∈ l then fenceFrom s a k else fenceOf (ctxAt s a) k := by
  induction l generalizing s with
  | nil => exact ⟨s, rfl, OnlyFences.refl s a, fun k => by simp⟩
  | cons g l ih =>
    have hg := h g (by simp)
    cases hf : fenceFrom s a g with
    | none => rw [hf] at hg; cases hg
    | some f =>
      have h1 : fenceOf (ctxAt s a) g = some f ∨ (fenceOf (ctxAt s a) g = none ∧ (pgRecord s a.part g).map pgFence = some f) := by
        unfold fenceFrom at hf
        split at hf
        · next f' e => left; rw [e, ← hf]
        · next e => right; exact ⟨e, hf⟩
      obtain ⟨u, e1, e2, e3⟩ := loadFence_spec s a g f h1
      have hu : ∀ k, fenceFrom u a k = fenceFrom s a k := by
        intro k
        unfold fenceFrom
        rw [pgRecord_only e2, e3]
        by_cases hk : k = g
        · subst hk
          rcases h1 with h1 | ⟨h1, h2⟩
          · simp [h1]
          · simp [h1, h2]
        · simp [hk]
      obtain ⟨t, f1, f2, f3⟩ := ih u (fun k hk => by rw [hu]; exact h k (by simp [hk]))
      refine ⟨t, ?_, e2.trans f2, fun k => ?_⟩
      · simp [loadFences, e1, f1]
      · rw [f3, hu, e3]
        by_cases hk : k = g
        · subst hk; simp [hf]
        · simp [hk]

theorem countReaders_spec (l : List Nat) (hn : l.Nodup) (s : State) (a : StreamId) :
    OnlyFences s (countReaders s a.part a.ctx l) a ∧
      ∀ k, fenceOf (ctxAt (countReaders s a.part a.ctx l) a) k = (fenceOf (ctxAt s a) k).map fun f =>
        if k ∈ l then { f with rc := f.rc + 1 } else f := by
  induction l generalizing s with
  | nil =>
    refine ⟨OnlyFences.refl s a, fun k => ?_⟩
    simp [countReaders]
  | cons g l ih =>
    obtain ⟨hg, hl⟩ := List.nodup_cons.mp hn
    have h1 : OnlyFences s (modFence s a.part a.ctx g fun f => { f with rc := f.rc + 1 }) a := by
      apply onlyFences_modCtx
      dsimp only
      split <;> rfl
    have h2 : ∀ k, fenceOf (ctxAt (modFence s a.part a.ctx g fun f => { f with rc := f.rc + 1 }) a) k =
        (fenceOf (ctxAt s a) k).map fun f => if k = g then { f with rc := f.rc + 1 } else f := by
      intro k
      unfold modFence
      rw [ctxAt_modCtx]
      cases e : fenceOf (ctxAt s a) g with
      | none =>
        by_cases hk : k = g
        · subst hk; simp [e]
        · simp [hk]
      | some f =>
        dsimp only
        rw [fenceOf_setFence]
        by_cases hk : k = g
        · subst hk; simp [e]
        · simp [hk]
    obtain ⟨g1, g2⟩ := ih hl (modFence s a.part a.ctx g fun f => { f with rc := f.rc + 1 })
    refine ⟨h1.trans g1, fun k => ?_⟩
    have : countReaders s a.part a.ctx (g :: l) =
      countReaders (modFence s a.part a.ctx g fun f => { f with rc := f.rc + 1 }) a.part a.ctx l := rfl
    rw [this, g2, h2, Option.map_map]
    congr 1
    funext f
    by_cases hk : k = g
    · subst hk; simp [hg]
    · simp [hk]

theorem readsWq_mem {f : FenceG} {g : Nat} {ds : List DescWord} (h : readsWq f g ds = true) : g ∈ (ds.map dPgroup).dedup := by
  unfold readsWq at h
  simp only [Bool.and_eq_true, List.any_eq_true, decide_eq_true_eq] at h
  obtain ⟨-, d, hd, he, -⟩ := h
  rw [List.mem_dedup]
  exact List.mem_map.mpr ⟨d, hd, he⟩

/-- All that the fence unit does for an instruction that it lets by. -/
theorem withFence_spec (s : State) (a : StreamId) (w : InstrWord) (tds : List DescWord) (op : Nat) (k : State → State)
    (h : ∀ g, g ∈ fenceNeeds a tds w → ∃ f, fenceSeen s a tds w g = some f ∧
      (countsIn a tds w g f = true → f.lock = false ∧ f.rc < 65535)) :
    ∃ u, withFence s a w tds op k = k u ∧ OnlyFences s u a ∧
      ∀ g, fenceOf (ctxAt u a) g = (fenceSeen s a tds w g).map fun f =>
        if countsIn a tds w g f then { f with rc := f.rc + 1 } else f := by
  have hs : ∀ g, fenceSeen s a tds w g = if g ∈ fenceNeeds a tds w then fenceFrom s a g else fenceOf (ctxAt s a) g := by
    intro g
    unfold fenceSeen fenceFrom
    cases fenceOf (ctxAt s a) g <;> simp
  obtain ⟨t, e1, e2, e3⟩ := loadFences_spec (fenceNeeds a tds w) s a (fun g hg => by
    obtain ⟨f, hf, -⟩ := h g hg
    rw [hs, if_pos hg] at hf
    rw [hf]; rfl)
  have e3 : ∀ g, fenceOf (ctxAt t a) g = fenceSeen s a tds w g := fun g => by rw [e3, hs]
  let gs := if a.strm = .F then countGroups (ctxAt t a) (maskDescs tds (roles w).1) else []
  have hgs : ∀ g, g ∈ gs ↔ ∃ f, fenceSeen s a tds w g = some f ∧ countsIn a tds w g f = true := by
    intro g
    simp only [gs]
    by_cases hF : a.strm = .F
    · rw [if_pos hF]
      unfold countGroups
      rw [List.mem_filter, e3]
      constructor
      · rintro ⟨-, h2⟩
        cases e : fenceSeen s a tds w g with
        | none => rw [e] at h2; cases h2
        | some f =>
          rw [e] at h2
          exact ⟨f, rfl, by simpa [countsIn, hF] using h2⟩
      · rintro ⟨f, e, hc⟩
        rw [e]
        have : readsWq f g (maskDescs tds (roles w).1) = true := by simpa [countsIn, hF] using hc
        exact ⟨readsWq_mem this, this⟩
    · rw [if_neg hF]
      simp [countsIn, hF]
  have hok : ∀ g f, fenceSeen s a tds w g = some f → countsIn a tds w g f = true → f.lock = false ∧ f.rc < 65535 := by
    intro g f e hc
    have hm : g ∈ fenceNeeds a tds w := by
      have hF : a.strm = .F := by
        have := hc; simp only [countsIn, Bool.and_eq_true, decide_eq_true_eq] at this; exact this.1
      have hr : readsWq f g (maskDescs tds (roles w).1) = true := by simpa [countsIn, hF] using hc
      unfold fenceNeeds
      rw [hF]
      exact readsWq_mem hr
    obtain ⟨f', e', h'⟩ := h g hm
    rw [e] at e'
    cases e'
    exact h' hc
  have hl : gs.find? (fun g => ((fenceOf (ctxAt t a) g).map FenceG.lock).getD false) = none := by
    rw [List.find?_eq_none]
    intro g hg
    obtain ⟨f, e, hc⟩ := (hgs g).mp hg
    rw [e3, e]
    simp [(hok g f e hc).1]
  have hr : gs.any (fun g => decide (65535 ≤ ((fenceOf (ctxAt t a) g).map FenceG.rc).getD 0)) = false := by
    rw [List.any_eq_false]
    intro g hg
    obtain ⟨f, e, hc⟩ := (hgs g).mp hg
    rw [e3, e]
    simp [(hok g f e hc).2]
  have hn : gs.Nodup := by
    simp only [gs]
    split
    · exact List.Nodup.filter _ (List.nodup_dedup _)
    · exact List.nodup_nil
  obtain ⟨c1, c2⟩ := countReaders_spec gs hn t a
  refine ⟨countReaders t a.part a.ctx gs, ?_, e2.trans c1, fun g => ?_⟩
  · unfold withFence
    rw [e1]
    dsimp only
    change (match gs.find? (fun g => ((fenceOf (ctxAt t a) g).map FenceG.lock).getD false) with
      | some g => waitOn t a (.fence g)
      | none => if gs.any (fun g => decide (65535 ≤ ((fenceOf (ctxAt t a) g).map FenceG.rc).getD 0)) = true then _ else _) = _
    rw [hl]
    dsimp only
    rw [hr]
    rfl
  · rw [c2, e3]
    cases e : fenceSeen s a tds w g with
    | none => rfl
    | some f =>
      have : g ∈ gs ↔ countsIn a tds w g f = true := by
        rw [hgs]
        constructor
        · rintro ⟨f', e', hc⟩; rw [e] at e'; cases e'; exact hc
        · intro hc; exact ⟨f, e, hc⟩
      simp [this]

/-- Issuing from a state that differs in fence fields only. -/
theorem issued_of_fences {s u : State} {a : StreamId} {w : InstrWord} {tds : List DescWord} (aux : List Nat) (n : Nat)
    (h : OnlyFences s u a)
    (hf : ∀ g, fenceOf (ctxAt u a) g = (fenceSeen s a tds w g).map fun f =>
        if countsIn a tds w g f then { f with rc := f.rc + 1 } else f)
    (hn : (strmAt s a).pc + 1 < (strmAt s a).plen) :
    Issued s (issueFlight u a w tds aux n) a w tds aux n ∧ OnlyIssue s (issueFlight u a w tds aux n) := by
  have hst : ∀ k, (ctxAt u a).strm k = (ctxAt s a).strm k := fun k => by rw [h.ctx]; cases k <;> rfl
  have hsa : strmAt u a = strmAt s a := hst _
  obtain ⟨f1, f2, f3, f4, f5, f6, f7, f8, f9⟩ := issueFlight_spec u a w tds aux n (by rw [hsa]; exact hn)
  refine ⟨⟨fun k hk => (f1.ctxs k hk).trans (h.ctxs k hk), fun k hk => (f1.strms k hk).trans (hst k), ?_, fun g => ?_, ?_, ?_⟩, ?_⟩
  · obtain ⟨g1, g2, g3, g4, g5, g6⟩ := f1.ctx
    rw [g1, g2, g3, g4, g6, f8, f9, h.ctx]
    exact ⟨rfl, rfl, rfl, rfl, rfl, rfl, rfl⟩
  · rw [← hf]
    unfold fenceOf
    rw [f1.ctx.2.2.2.2.1]
  · rw [f3, f4, f5, f7, hsa]
    exact ⟨rfl, rfl, rfl, rfl⟩
  · rw [f6, hsa, h.rest]
    rfl
  · unfold OnlyCtxs at f2
    unfold OnlyIssue
    rw [f2, h.rest]

/-- A tensor instruction that can issue is in flight afterwards. -/
theorem issueTensor_spec (o : TOp) (s : State) (a : StreamId) (w : InstrWord) (h : CanIssue s a w o) :
    Issued s (issueTensor o a w s) a w (o.capture s a w) (o.plan s (o.capture s a w)).1 (o.plan s (o.capture s a w)).2 ∧
      OnlyIssue s (issueTensor o a w s) := by
  obtain ⟨u, e1, e2, e3⟩ := withFence_spec s a w (o.capture s a w) o.op
    (fun s' => issueFlight s' a w (o.capture s a w) (o.plan s (o.capture s a w)).1 (o.plan s (o.capture s a w)).2) h.fence
  have : issueTensor o a w s = issueFlight u a w (o.capture s a w) (o.plan s (o.capture s a w)).1 (o.plan s (o.capture s a w)).2 := by
    unfold issueTensor
    rw [h.free, withWordAfter_ready h.ready]
    dsimp only
    rw [h.checks]
    exact e1
  rw [this]
  exact issued_of_fences _ _ e2 e3 h.window

theorem strmAt_of_fences {s u : State} {a : StreamId} (h : OnlyFences s u a) : strmAt u a = strmAt s a := by
  unfold strmAt; rw [h.ctx]; cases a.strm <;> rfl

/-- The sequencer takes the word all the same after fence fields have changed. -/
theorem accepts_of_fences {s u : State} {a : StreamId} (w : InstrWord) (h : OnlyFences s u a) :
    accepts u a w = accepts s a w := by
  have h1 : (ctxAt u a).started = (ctxAt s a).started := by rw [h.ctx]
  have h2 : (ctxAt u a).fault = (ctxAt s a).fault := by rw [h.ctx]
  have h3 : (ctxAt u a).strm a.strm = (ctxAt s a).strm a.strm := strmAt_of_fences h
  have h4 : haltedCtx u a.part a.ctx = haltedCtx s a.part a.ctx := by rw [h.rest]; rfl
  have h5 : getPart u a.part = getPart s a.part := by rw [h.rest]; rfl
  unfold accepts
  dsimp only
  rw [h1, h2, h3, h4, h5]

end Sys2Proof.Machine
end

