-- ==== Sys2Proof/Laws/Memory.lean ====
section
/-! SUPPORT. The canonical form of the machine's stores (Memory.wf): what it is field by field, and the
two shapes of control flow that keep it. -/

namespace Sys2Proof.Machine

@[simp] theorem smWf_smSet' {α : Type} [DecidableEq α] {d : α} {m : SMap α} {k : Nat} {v : α} (h : smWf d m) :
    smWf d (smSet d m k v) := smWf_smSet d m k v h
@[simp] theorem smWf_filter' {α : Type} [DecidableEq α] {d : α} {f : Nat × α → Bool} {m : SMap α} (h : smWf d m) :
    smWf d (m.filter f) := smWf_filter d f m h
@[simp] theorem smWf_nil {α : Type} [DecidableEq α] (d : α) : smWf d ([] : SMap α) := rfl

theorem wf_iff (s : State) : Memory.wf s ↔
    smWf 0#8 s.mem ∧ smWf emptyEntry s.ent ∧ smWf 0#8 s.cstore ∧ smWf 0#8 s.accm := by
  simp [Memory.wf, and_assoc]

theorem wf_mk (a1 a2 m e l c u a7 a8 a9 b1 b2 b3 b4 b5 b6 b7 b8 b9 c1 c2 c3 c4 c5 c6 c7) :
    Memory.wf ⟨a1, a2, m, e, l, c, u, a7, a8, a9, b1, b2, b3, b4, b5, b6, b7, b8, b9, c1, c2, c3, c4, c5, c6, c7⟩ ↔
      smWf 0#8 m ∧ smWf emptyEntry e ∧ smWf 0#8 c ∧ smWf 0#8 u := wf_iff _

@[simp] theorem wf_mem {s : State} (h : Memory.wf s) : smWf 0#8 s.mem := ((wf_iff s).mp h).1
@[simp] theorem wf_ent {s : State} (h : Memory.wf s) : smWf emptyEntry s.ent := ((wf_iff s).mp h).2.1
@[simp] theorem wf_cstore {s : State} (h : Memory.wf s) : smWf 0#8 s.cstore := ((wf_iff s).mp h).2.2.1
@[simp] theorem wf_accm {s : State} (h : Memory.wf s) : smWf 0#8 s.accm := ((wf_iff s).mp h).2.2.2

/-- A state with the same four stores. -/
theorem wf_same {s t : State} (h : Memory.wf s) (h1 : t.mem = s.mem) (h2 : t.ent = s.ent) (h3 : t.cstore = s.cstore)
    (h4 : t.accm = s.accm) : Memory.wf t := by
  unfold Memory.wf at h ⊢
  rw [h1, h2, h3, h4]
  exact h

theorem wf_ite {c : Prop} [Decidable c] {s t : State} (hs : Memory.wf s) (ht : Memory.wf t) :
    Memory.wf (if c then s else t) := by split <;> assumption

theorem wf_foldl {α : Type} (f : State → α → State) (hf : ∀ s x, Memory.wf s → Memory.wf (f s x)) :
    ∀ (l : List α) (s : State), Memory.wf s → Memory.wf (l.foldl f s)
  | [], _, h => h
  | x :: l, s, h => wf_foldl f hf l (f s x) (hf s x h)

theorem wf_foldl1 {α β : Type} (f : State × β → α → State × β)
    (hf : ∀ r x, Memory.wf r.1 → Memory.wf (f r x).1) :
    ∀ (l : List α) (r : State × β), Memory.wf r.1 → Memory.wf (l.foldl f r).1
  | [], _, h => h
  | x :: l, r, h => wf_foldl1 f hf l (f r x) (hf r x h)

end Sys2Proof.Machine
end

