-- ==== Sys2Proof/Laws/KeepOps.lean ====
section
/-! SUPPORT. The canonical form of the stores is kept by the named operations and the instructions that a stream completes alone. -/

namespace Sys2Proof.Machine

/-! ### Ops -/

@[simp] theorem wf_State_setReg (s : State) (a : Nat) (v : Word) (h_s : Memory.wf s) :
    Memory.wf (State.setReg s a v) := by
  unfold State.setReg
  simp (maxDischargeDepth := 12) [h_s, wf_mk]

@[simp] theorem wf_State_setFld (s : State) (a hi lo v : Nat) (h_s : Memory.wf s) :
    Memory.wf (State.setFld s a hi lo v) := by
  unfold State.setFld
  simp (maxDischargeDepth := 12) [h_s]

@[simp] theorem wf_State_setRBit (s : State) (a i : Nat) (b : Bool) (h_s : Memory.wf s) :
    Memory.wf (State.setRBit s a i b) := by
  unfold State.setRBit
  simp (maxDischargeDepth := 12) [h_s]

@[simp] theorem wf_State_softWrite (s : State) (a : Nat) (v : Word) (h_s : Memory.wf s) :
    Memory.wf (State.softWrite s a v) := by
  unfold State.softWrite
  repeat' split
  all_goals simp (maxDischargeDepth := 12) [h_s, wf_mk]

@[simp] theorem wf_State_capture (s : State) (av vbit : Nat) (f : State → State) (h_s : Memory.wf s) (h_f : ∀ s, Memory.wf s → Memory.wf (f s)) :
    Memory.wf (State.capture s av vbit f) := by
  unfold State.capture
  repeat' split
  all_goals simp (maxDischargeDepth := 12) [h_s, h_f, wf_mk]

@[simp] theorem wf_State_send (s : State) (m : OutMsg) (h_s : Memory.wf s) :
    Memory.wf (State.send s m) := by
  unfold State.send
  simp (maxDischargeDepth := 12) [h_s, wf_mk]

@[simp] theorem wf_State_sends (s : State) (ms : List OutMsg) (h_s : Memory.wf s) :
    Memory.wf (State.sends s ms) := by
  unfold State.sends
  simp (maxDischargeDepth := 12) [h_s, wf_mk]

@[simp] theorem wf_State_nextFresh (s : State) (h_s : Memory.wf s) :
    Memory.wf (State.nextFresh s) := by
  unfold State.nextFresh
  simp (maxDischargeDepth := 12) [h_s, wf_mk]

@[simp] theorem wf_idle (s : State) (h_s : Memory.wf s) :
    Memory.wf (idle s) := by
  unfold idle
  simp (maxDischargeDepth := 12) [h_s, wf_mk]

@[simp] theorem wf_sendReq (s : State) (r : HostReq) (h_s : Memory.wf s) :
    Memory.wf (sendReq s r) := by
  unfold sendReq
  dsimp only
  repeat' first | (simp (maxDischargeDepth := 12) [h_s, wf_mk]; done) | split | apply wf_foldl | intro _

@[simp] theorem wf_sendHeld (s : State) (h_s : Memory.wf s) :
    Memory.wf (sendHeld s) := by
  unfold sendHeld
  try dsimp only
  repeat' first | (simp (maxDischargeDepth := 12) +contextual [h_s, wf_mk]; done) | split | (apply wf_foldl) | (apply wf_foldl1) | (apply wf_State_capture) | (simp (maxDischargeDepth := 12) +contextual [*, wf_mk]; done) | (intro _)

@[simp] theorem wf_hostRequest (s : State) (ty line : Nat) (data : List Byte) (h_s : Memory.wf s) :
    Memory.wf (hostRequest s ty line data) := by
  unfold hostRequest
  dsimp only
  repeat' first | (simp (maxDischargeDepth := 12) [h_s, wf_mk]; done) | split | apply wf_foldl | intro _

@[simp] theorem wf_useLine (s : State) (line : Nat) (h_s : Memory.wf s) :
    Memory.wf (useLine s line) := by
  unfold useLine
  repeat' split
  all_goals simp (maxDischargeDepth := 12) [h_s, wf_mk]

@[simp] theorem wf_giveUp (s : State) (h : HostLine) (h_s : Memory.wf s) :
    Memory.wf (giveUp s h) := by
  unfold giveUp
  repeat' split
  all_goals simp (maxDischargeDepth := 12) [h_s, wf_mk]

@[simp] theorem wf_dropLine (s : State) (line : Nat) (h_s : Memory.wf s) :
    Memory.wf (dropLine s line) := by
  unfold dropLine
  simp (maxDischargeDepth := 12) [h_s, wf_mk]

@[simp] theorem wf_cacheFill (s : State) (h : HostLine) (h_s : Memory.wf s) :
    Memory.wf (cacheFill s h) := by
  unfold cacheFill
  repeat' split
  all_goals simp (maxDischargeDepth := 12) [h_s, wf_mk]

@[simp] theorem wf_sendAck (s : State) (h : DieHdr) (h_s : Memory.wf s) :
    Memory.wf (sendAck s h) := by
  unfold sendAck
  simp (maxDischargeDepth := 12) [h_s]

@[simp] theorem wf_sendNack (s : State) (h : DieHdr) (attr : Nat) (h_s : Memory.wf s) :
    Memory.wf (sendNack s h attr) := by
  unfold sendNack
  simp (maxDischargeDepth := 12) [h_s]

@[simp] theorem wf_hostPump (n : Nat) : ∀ (s : State), Memory.wf s → Memory.wf (hostPump n s) := by
  induction n with
  | zero => intro s h; exact h
  | succ n ih =>
    intro s h
    unfold hostPump
    repeat' first | (simp (maxDischargeDepth := 12) [h, wf_mk]; done) | split | (apply ih)

@[simp] theorem wf_hostWriteFor (s : State) (a : Nat) (bs : List Byte) (rec : Option Nat) (req : Option DieHdr) (h_s : Memory.wf s) :
    Memory.wf (hostWriteFor s a bs rec req) := by
  unfold hostWriteFor
  dsimp only
  split <;> simp (maxDischargeDepth := 12) [h_s, wf_mk]

@[simp] theorem wf_hostWrite (s : State) (a : Nat) (bs : List Byte) (h_s : Memory.wf s) :
    Memory.wf (hostWrite s a bs) := by
  unfold hostWrite
  simp (maxDischargeDepth := 12) [h_s]

@[simp] theorem wf_setHeldCount (s : State) (h_s : Memory.wf s) :
    Memory.wf (setHeldCount s) := by
  unfold setHeldCount
  simp (maxDischargeDepth := 12) [h_s]

@[simp] theorem wf_evtStore (s : State) (e : EvRec) (h_s : Memory.wf s) :
    Memory.wf (evtStore s e) := by
  unfold evtStore
  simp (maxDischargeDepth := 12) [h_s]

@[simp] theorem wf_cntPut (s : State) (idx part : Nat) (c : Cnt) (h_s : Memory.wf s) :
    Memory.wf (cntPut s idx part c) := by
  unfold cntPut
  simp (maxDischargeDepth := 12) [h_s, wf_mk]

@[simp] theorem wf_evtHold (s : State) (e : EvRec) (h_s : Memory.wf s) :
    Memory.wf (evtHold s e) := by
  unfold evtHold
  dsimp only
  repeat' first | (simp (maxDischargeDepth := 12) [h_s, wf_mk]; done) | split | apply wf_foldl | intro _

@[simp] theorem wf_emitRaw (s : State) (e : EvRec) (h_s : Memory.wf s) :
    Memory.wf (emitRaw s e) := by
  unfold emitRaw
  repeat' split
  all_goals simp (maxDischargeDepth := 12) [h_s, wf_mk]

@[simp] theorem wf_evtDrain (n : Nat) : ∀ (s : State), Memory.wf s → Memory.wf (evtDrain n s) := by
  induction n with
  | zero => intro s h; exact h
  | succ n ih =>
    intro s h
    unfold evtDrain
    repeat' first | (simp (maxDischargeDepth := 12) [h, wf_mk]; done) | split | (apply ih)

@[simp] theorem wf_elogWrite (s : State) (e : EvRec) (h_s : Memory.wf s) :
    Memory.wf (elogWrite s e) := by
  unfold elogWrite
  repeat' split
  all_goals simp (maxDischargeDepth := 12) [h_s, wf_mk]

@[simp] theorem wf_errRaw (s : State) (r : ErrRec) (h_s : Memory.wf s) :
    Memory.wf (errRaw s r) := by
  unfold errRaw
  simp (maxDischargeDepth := 12) [h_s, wf_mk]

@[simp] theorem wf_thrSlot (idx part : Nat) (old new : Cnt) (s : State) (k : Nat) (h_s : Memory.wf s) :
    Memory.wf (thrSlot idx part old new s k) := by
  unfold thrSlot
  dsimp only
  repeat' first | (simp (maxDischargeDepth := 12) [h_s, wf_mk]; done) | split | apply wf_foldl | intro _

@[simp] theorem wf_thrJudge (s : State) (idx part : Nat) (old new : Cnt) (h_s : Memory.wf s) :
    Memory.wf (thrJudge s idx part old new) := by
  unfold thrJudge
  try dsimp only
  repeat' first | (simp (maxDischargeDepth := 12) +contextual [h_s, wf_mk]; done) | split | (apply wf_foldl) | (apply wf_foldl1) | (simp (maxDischargeDepth := 12) +contextual [*, wf_mk]; done) | (intro _)

@[simp] theorem wf_cntInc (s : State) (idx part n : Nat) (h_s : Memory.wf s) :
    Memory.wf (cntInc s idx part n) := by
  unfold cntInc
  repeat' split
  all_goals simp (maxDischargeDepth := 12) [h_s, wf_mk]

@[simp] theorem wf_lossJudge (s s1 : State) (h_s : Memory.wf s) (h_s1 : Memory.wf s1) :
    Memory.wf (lossJudge s s1) := by
  unfold lossJudge
  repeat' split
  all_goals simp (maxDischargeDepth := 12) [h_s, h_s1, wf_mk]

@[simp] theorem wf_emit (s : State) (e : EvRec) (h_s : Memory.wf s) :
    Memory.wf (emit s e) := by
  unfold emit
  simp (maxDischargeDepth := 12) [h_s]

@[simp] theorem wf_errRecord (s : State) (r : ErrRec) (h_s : Memory.wf s) :
    Memory.wf (errRecord s r) := by
  unfold errRecord
  simp (maxDischargeDepth := 12) [h_s]

@[simp] theorem wf_event0 (s : State) (code die : Nat) (part : Option Nat) (pay : List Word) (h_s : Memory.wf s) :
    Memory.wf (event0 s code die part pay) := by
  unfold event0
  simp (maxDischargeDepth := 12) [h_s]

@[simp] theorem wf_setCacheLines (s : State) (a : Nat) (ls : List CLine) (h_s : Memory.wf s) :
    Memory.wf (setCacheLines s a ls) := by
  unfold setCacheLines
  simp (maxDischargeDepth := 12) [h_s, wf_mk]

@[simp] theorem wf_cacheAccess (s : State) (alloc wr : Bool) (a : Nat) (h_s : Memory.wf s) :
    Memory.wf (cacheAccess s alloc wr a) := by
  unfold cacheAccess
  dsimp only
  repeat' first | (simp (maxDischargeDepth := 12) [h_s, wf_mk]; done) | split | apply wf_foldl | intro _

@[simp] theorem wf_cacheUse (s : State) (alloc wr : Bool) (as : List Nat) (h_s : Memory.wf s) :
    Memory.wf (cacheUse s alloc wr as) := by
  unfold cacheUse
  try dsimp only
  repeat' first | (simp (maxDischargeDepth := 12) +contextual [h_s, wf_mk]; done) | split | (apply wf_foldl) | (apply wf_foldl1) | (apply wf_State_capture) | (simp (maxDischargeDepth := 12) +contextual [*, wf_mk]; done) | (intro _)

@[simp] theorem wf_setEntry (s : State) (a : Nat) (e : Entry) (h_s : Memory.wf s) :
    Memory.wf (setEntry s a e) := by
  unfold setEntry
  simp (maxDischargeDepth := 12) [h_s, wf_mk]

@[simp] theorem wf_storeBytes (bs : List Byte) : ∀ (a : Nat) (s : State), Memory.wf s → Memory.wf (storeBytes bs a s) := by
  induction bs with
  | nil => intro a s h; exact h
  | cons b bs ih =>
    intro a s h
    unfold storeBytes
    apply ih
    simp [h, wf_mk]

@[simp] theorem wf_putLine (s : State) (a : Nat) (mask : Nat → Option Byte) (w : Option Tag) (h_s : Memory.wf s) :
    Memory.wf (putLine s a mask w) := by
  unfold putLine
  dsimp only
  repeat' first | (simp (maxDischargeDepth := 12) [h_s, wf_mk]; done) | split | apply wf_foldl | intro _

@[simp] theorem wf_writeLine (s : State) (a : Nat) (mask : Nat → Option Byte) (w : Option Tag) (h_s : Memory.wf s) :
    Memory.wf (writeLine s a mask w) := by
  unfold writeLine
  simp (maxDischargeDepth := 12) [h_s, wf_mk]

@[simp] theorem wf_writeSet (n : Nat) : ∀ (ws : List (Nat × Byte)) (w : Option Tag) (s : State),
    Memory.wf s → Memory.wf (writeSet n ws w s) := by
  induction n with
  | zero => intro ws w s h; exact h
  | succ n ih =>
    intro ws w s h
    unfold writeSet
    split
    · exact h
    · exact h
    · dsimp only
      cases ‹n + 1 = _›
      apply ih; simp_all

@[simp] theorem wf_writeBytes (s : State) (a : Nat) (bs : List Byte) (w : Option Tag) (h_s : Memory.wf s) :
    Memory.wf (writeBytes s a bs w) := by
  unfold writeBytes
  simp (maxDischargeDepth := 12) [h_s]

@[simp] theorem wf_writeAll (s : State) (ws : List (Nat × Byte)) (w : Option Tag) (h_s : Memory.wf s) :
    Memory.wf (writeAll s ws w) := by
  unfold writeAll
  simp (maxDischargeDepth := 12) [h_s]

@[simp] theorem wf_poisonValid (s : State) (a : Nat) (t : Tag) (h_s : Memory.wf s) :
    Memory.wf (poisonValid s a t) := by
  unfold poisonValid
  simp (maxDischargeDepth := 12) [h_s]

@[simp] theorem wf_poisonAll (s : State) (a : Nat) (t : Tag) (h_s : Memory.wf s) :
    Memory.wf (poisonAll s a t) := by
  unfold poisonAll
  simp (maxDischargeDepth := 12) [h_s]

@[simp] theorem wf_invalidate (s : State) (a : Nat) (h_s : Memory.wf s) :
    Memory.wf (invalidate s a) := by
  unfold invalidate
  simp (maxDischargeDepth := 12) [h_s]

@[simp] theorem wf_invalidateRange (s : State) (lo hi : Nat) (h_s : Memory.wf s) :
    Memory.wf (invalidateRange s lo hi) := by
  unfold invalidateRange
  simp (maxDischargeDepth := 12) [h_s, wf_mk]

@[simp] theorem wf_captPoison (s : State) (a : Nat) (t : Tag) (cause tid blk : Nat) (h_s : Memory.wf s) :
    Memory.wf (captPoison s a t cause tid blk) := by
  unfold captPoison
  try dsimp only
  repeat' first | (simp (maxDischargeDepth := 12) +contextual [h_s, wf_mk]; done) | split | (apply wf_foldl) | (apply wf_foldl1) | (apply wf_State_capture) | (simp (maxDischargeDepth := 12) +contextual [*, wf_mk]; done) | (intro _)

@[simp] theorem wf_poisonMismatch (s : State) (a : Nat) (r : Reader) (code cause : Nat) (h_s : Memory.wf s) :
    Memory.wf (poisonMismatch s a r code cause) := by
  unfold poisonMismatch
  dsimp only
  repeat' first | (simp (maxDischargeDepth := 12) [h_s, wf_mk]; done) | split | apply wf_foldl | intro _

@[simp] theorem wf_verifyBlock (s : State) (as : List Nat) (blk : Nat) (r : Reader) (own : Bool) (h_s : Memory.wf s) :
    Memory.wf (verifyBlock s as blk r own).1 := by
  unfold verifyBlock
  dsimp only
  repeat' first | (simp (maxDischargeDepth := 12) [h_s, wf_mk]; done) | split | apply wf_foldl | intro _

theorem wf_verifyBlock_eq {s : State} {as : List Nat} {blk : Nat} {r : Reader} {own : Bool} {t9 : State} {x9 : Bool} (h_s : Memory.wf s) (e9 : verifyBlock s as blk r own = (t9, x9)) : Memory.wf t9 := by
  have h := wf_verifyBlock s as blk r own h_s
  rw [e9] at h
  exact h

@[simp] theorem wf_verifyRead (s : State) (as : List Nat) (r : Reader) (own : Bool) (h_s : Memory.wf s) :
    Memory.wf (verifyRead s as r own).1 := by
  unfold verifyRead
  try dsimp only
  repeat' first | (simp (maxDischargeDepth := 12) +contextual [h_s, wf_mk]; done) | split | (apply wf_foldl) | (apply wf_foldl1) | ((try have hx := wf_verifyBlock_eq (by assumption) ‹verifyBlock _ _ _ _ _  = (_, _)›); (try have hx := wf_verifyBlock_eq (by assumption) ‹verifyBlock _ _ _ _ _  = (_, _)›); (simp (maxDischargeDepth := 12) +contextual [*, wf_mk]; done)) | (simp (maxDischargeDepth := 12) +contextual [*, wf_mk]; done) | (intro _)

theorem wf_verifyRead_eq {s : State} {as : List Nat} {r : Reader} {own : Bool} {t9 : State} {x9 : Bool} (h_s : Memory.wf s) (e9 : verifyRead s as r own = (t9, x9)) : Memory.wf t9 := by
  have h := wf_verifyRead s as r own h_s
  rw [e9] at h
  exact h

@[simp] theorem wf_vread (s : State) (a n : Nat) (r : Reader) (h_s : Memory.wf s) :
    Memory.wf (vread s a n r).1 := by
  unfold vread
  simp (maxDischargeDepth := 12) [h_s]

theorem wf_vread_eq {s : State} {a n : Nat} {r : Reader} {t9 : State} {x9 : Option (List Byte)} (h_s : Memory.wf s) (e9 : vread s a n r = (t9, x9)) : Memory.wf t9 := by
  have h := wf_vread s a n r h_s
  rw [e9] at h
  exact h

/-! ### Fabric -/

@[simp] theorem wf_discardRecord (s : State) (ty : Nat) (h : DieHdr) (h_s : Memory.wf s) :
    Memory.wf (discardRecord s ty h) := by
  unfold discardRecord
  simp (maxDischargeDepth := 12) [h_s]

@[simp] theorem wf_sendDie (s : State) (ty : Nat) (h : DieHdr) (data : List Nat) (h_s : Memory.wf s) :
    Memory.wf (sendDie s ty h data) := by
  unfold sendDie
  dsimp only
  repeat' first | (simp (maxDischargeDepth := 12) [h_s, wf_mk]; done) | split | apply wf_foldl | intro _

@[simp] theorem wf_creditBack (s : State) (ty : Nat) (h : DieHdr) (h_s : Memory.wf s) :
    Memory.wf (creditBack s ty h) := by
  unfold creditBack
  dsimp only
  repeat' first | (simp (maxDischargeDepth := 12) [h_s, wf_mk]; done) | split | apply wf_foldl | intro _

@[simp] theorem wf_sendAccd (s : State) (h : DieHdr) (v : Nat) (h_s : Memory.wf s) :
    Memory.wf (sendAccd s h v) := by
  unfold sendAccd
  dsimp only
  repeat' first | (simp (maxDischargeDepth := 12) [h_s, wf_mk]; done) | split | apply wf_foldl | intro _

@[simp] theorem wf_accRelease (key n : Nat) : ∀ (s : State), Memory.wf s → Memory.wf (accRelease key n s) := by
  induction n with
  | zero => intro s h; exact h
  | succ n ih =>
    intro s h
    unfold accRelease
    repeat' first | (simp (maxDischargeDepth := 12) [h, wf_mk]; done) | split | (apply ih)

@[simp] theorem wf_sendAccds (s : State) (src dst p : Nat) (gs : List Nat) (h_s : Memory.wf s) :
    Memory.wf (sendAccds s src dst p gs) := by
  unfold sendAccds
  try dsimp only
  repeat' first | (simp (maxDischargeDepth := 12) +contextual [h_s, wf_mk]; done) | split | (apply wf_foldl) | (apply wf_foldl1) | (apply wf_State_capture) | (simp (maxDischargeDepth := 12) +contextual [*, wf_mk]; done) | (intro _)

@[simp] theorem wf_sendAccc (s : State) (h : DieHdr) (kind gid opseq count : Nat) (h_s : Memory.wf s) :
    Memory.wf (sendAccc s h kind gid opseq count) := by
  unfold sendAccc
  simp (maxDischargeDepth := 12) [h_s]

/-! ### Lnk -/

@[simp] theorem wf_setLnk (s : State) (l : Nat) (k : Lnk) (h_s : Memory.wf s) :
    Memory.wf (setLnk s l k) := by
  unfold setLnk
  simp (maxDischargeDepth := 12) [h_s, wf_mk]

@[simp] theorem wf_setLnkState (s : State) (l v : Nat) (h_s : Memory.wf s) :
    Memory.wf (setLnkState s l v) := by
  unfold setLnkState
  simp (maxDischargeDepth := 12) [h_s]

@[simp] theorem wf_sendFlit (s : State) (l ty seq : Nat) (pay : List Nat) (h_s : Memory.wf s) :
    Memory.wf (sendFlit s l ty seq pay) := by
  unfold sendFlit
  simp (maxDischargeDepth := 12) [h_s]

@[simp] theorem wf_sendData (s : State) (l : Nat) (t : TxFlit) (h_s : Memory.wf s) :
    Memory.wf (sendData s l t) := by
  unfold sendData
  dsimp only
  repeat' first | (simp (maxDischargeDepth := 12) [h_s, wf_mk]; done) | split | apply wf_foldl | intro _

@[simp] theorem wf_linkSend (s : State) (l : Nat) (t : TxFlit) (ty : Nat) (h : AccHdr) (data : List Nat) (h_s : Memory.wf s) :
    Memory.wf (linkSend s l t ty h data) := by
  unfold linkSend
  try dsimp only
  repeat' first | (simp (maxDischargeDepth := 12) +contextual [h_s, wf_mk]; done) | split | (apply wf_foldl) | (apply wf_foldl1) | (apply wf_State_capture) | (simp (maxDischargeDepth := 12) +contextual [*, wf_mk]; done) | (intro _)

@[simp] theorem wf_replayFrom (s : State) (l ack : Nat) (h_s : Memory.wf s) :
    Memory.wf (replayFrom s l ack) := by
  unfold replayFrom
  try dsimp only
  repeat' first | (simp (maxDischargeDepth := 12) +contextual [h_s, wf_mk]; done) | split | (apply wf_foldl) | (apply wf_foldl1) | (apply wf_State_capture) | (simp (maxDischargeDepth := 12) +contextual [*, wf_mk]; done) | (intro _)

/-! ### Flags -/

@[simp] theorem wf_setFlagRec (s : State) (c k : Nat) (r : FlagRec) (h_s : Memory.wf s) :
    Memory.wf (setFlagRec s c k r) := by
  unfold setFlagRec
  simp (maxDischargeDepth := 12) [h_s, wf_mk]

@[simp] theorem wf_clearPartFlags (s : State) (p k : Nat) (h_s : Memory.wf s) :
    Memory.wf (clearPartFlags s p k) := by
  unfold clearPartFlags
  try dsimp only
  repeat' first | (simp (maxDischargeDepth := 12) +contextual [h_s, wf_mk]; done) | split | (apply wf_foldl) | (apply wf_foldl1) | (simp (maxDischargeDepth := 12) +contextual [*, wf_mk]; done) | (intro _)

/-! ### Queue -/

@[simp] theorem wf_setQueue (s : State) (q : Nat) (v : Queue) (h_s : Memory.wf s) :
    Memory.wf (setQueue s q v) := by
  unfold setQueue
  simp (maxDischargeDepth := 12) [h_s, wf_mk]

@[simp] theorem wf_spillTail (s : State) (q n : Nat) (h_s : Memory.wf s) :
    Memory.wf (spillTail s q n) := by
  unfold spillTail
  try dsimp only
  repeat' first | (simp (maxDischargeDepth := 12) +contextual [h_s, wf_mk]; done) | split | (apply wf_foldl) | (apply wf_foldl1) | (simp (maxDischargeDepth := 12) +contextual [*, wf_mk]; done) | (intro _)

theorem wf_queueMove_some {s : State} {q : Nat} {t : State} (h : Memory.wf s)
    (e : queueMove s q = some t) : Memory.wf t := by
  unfold queueMove at e
  dsimp only at e
  repeat' split at e
  all_goals first | (cases e; done) | (cases e; simp [h])

@[simp] theorem wf_queueFlow (n : Nat) : ∀ (q : Nat) (s : State), Memory.wf s → Memory.wf (queueFlow n q s) := by
  induction n with
  | zero => intro q s h; exact h
  | succ n ih =>
    intro q s h
    unfold queueFlow
    split
    · next hs => exact ih _ _ (wf_queueMove_some h hs)
    · exact h

@[simp] theorem wf_flow (s : State) (q : Nat) (h_s : Memory.wf s) :
    Memory.wf (flow s q) := by
  unfold flow
  simp (maxDischargeDepth := 12) [h_s]

@[simp] theorem wf_queuePut (s : State) (q : Nat) (words : List Word) (pois : Nat) (h_s : Memory.wf s) :
    Memory.wf (queuePut s q words pois) := by
  unfold queuePut
  dsimp only
  repeat' first | (simp (maxDischargeDepth := 12) [h_s, wf_mk]; done) | split | apply wf_foldl | intro _

@[simp] theorem wf_queueRelease (s : State) (q : Nat) (h_s : Memory.wf s) :
    Memory.wf (queueRelease s q) := by
  unfold queueRelease
  dsimp only
  repeat' first | (simp (maxDischargeDepth := 12) [h_s, wf_mk]; done) | split | apply wf_foldl | intro _

theorem wf_queueTake_some {s : State} {q bad : Nat} {e : QEntry} {t : State} (h : Memory.wf s)
    (he : queueTake s q bad = some (e, t)) : Memory.wf t := by
  unfold queueTake at he
  dsimp only at he
  split at he
  · cases he
  · cases he; simp [h]

/-! ### Sched -/

@[simp] theorem wf_setCtx (s : State) (p x : Nat) (c : Ctx) (h_s : Memory.wf s) :
    Memory.wf (setCtx s p x c) := by
  unfold setCtx
  simp (maxDischargeDepth := 12) [h_s, wf_mk]

@[simp] theorem wf_modCtx (s : State) (p x : Nat) (f : Ctx → Ctx) (h_s : Memory.wf s) :
    Memory.wf (modCtx s p x f) := by
  unfold modCtx
  simp (maxDischargeDepth := 12) [h_s]

@[simp] theorem wf_setPart (s : State) (p : Nat) (q : Part) (h_s : Memory.wf s) :
    Memory.wf (setPart s p q) := by
  unfold setPart
  simp (maxDischargeDepth := 12) [h_s, wf_mk]

@[simp] theorem wf_setStrmAt (s : State) (a : StreamId) (t : Stream) (h_s : Memory.wf s) :
    Memory.wf (setStrmAt s a t) := by
  unfold setStrmAt
  simp (maxDischargeDepth := 12) [h_s]

@[simp] theorem wf_modStrmAt (s : State) (a : StreamId) (f : Stream → Stream) (h_s : Memory.wf s) :
    Memory.wf (modStrmAt s a f) := by
  unfold modStrmAt
  simp (maxDischargeDepth := 12) [h_s]

@[simp] theorem wf_bcAdd (s : State) (p x n inc : Nat) (h_s : Memory.wf s) :
    Memory.wf (bcAdd s p x n inc) := by
  unfold bcAdd
  repeat' split
  all_goals simp (maxDischargeDepth := 12) [h_s, wf_mk]

@[simp] theorem wf_writeStatus (s : State) (j : Job) (st progress err : Nat) (h_s : Memory.wf s) :
    Memory.wf (writeStatus s j st progress err) := by
  unfold writeStatus
  repeat' split
  all_goals simp (maxDischargeDepth := 12) [h_s, wf_mk]

@[simp] theorem wf_setJob (s : State) (j : Job) (h_s : Memory.wf s) :
    Memory.wf (setJob s j) := by
  unfold setJob
  simp (maxDischargeDepth := 12) [h_s, wf_mk]

@[simp] theorem wf_countJobs (s : State) (h_s : Memory.wf s) :
    Memory.wf (countJobs s) := by
  unfold countJobs
  simp (maxDischargeDepth := 12) [h_s]

@[simp] theorem wf_jobEnd (s : State) (j : Job) (st progress err : Nat) (h_s : Memory.wf s) :
    Memory.wf (jobEnd s j st progress err) := by
  unfold jobEnd
  simp (maxDischargeDepth := 12) [h_s, wf_mk]

@[simp] theorem wf_jobMove (s : State) (j : Job) (st : JobSt) (progress : Nat) (h_s : Memory.wf s) :
    Memory.wf (jobMove s j st progress) := by
  unfold jobMove
  simp (maxDischargeDepth := 12) [h_s]

@[simp] theorem wf_forgetSteps (s : State) (p x : Nat) (h_s : Memory.wf s) :
    Memory.wf (forgetSteps s p x) := by
  unfold forgetSteps
  simp (maxDischargeDepth := 12) [h_s, wf_mk]

@[simp] theorem wf_trimSteps (p x n : Nat) : ∀ (s : State), Memory.wf s → Memory.wf (trimSteps p x n s) := by
  induction n with
  | zero => intro s h; exact h
  | succ n ih =>
    intro s h
    unfold trimSteps
    split
    · exact h
    · have hx := wf_queueTake_some h ‹queueTake _ _ _ = some _›
      repeat' first | (simp (maxDischargeDepth := 12) [h, hx]; done) | split | (apply ih)

@[simp] theorem wf_trimQueue (s : State) (p x : Nat) (h_s : Memory.wf s) :
    Memory.wf (trimQueue s p x) := by
  unfold trimQueue
  simp (maxDischargeDepth := 12) [h_s]

@[simp] theorem wf_configSteps (s : State) (p : Nat) (h_s : Memory.wf s) :
    Memory.wf (configSteps s p) := by
  unfold configSteps
  try dsimp only
  repeat' first | (simp (maxDischargeDepth := 12) +contextual [h_s, wf_mk]; done) | split | (apply wf_foldl) | (apply wf_foldl1) | (apply wf_State_capture) | (simp (maxDischargeDepth := 12) +contextual [*, wf_mk]; done) | (intro _)

@[simp] theorem wf_dropSteps (s : State) (p : Nat) (h_s : Memory.wf s) :
    Memory.wf (dropSteps s p) := by
  unfold dropSteps
  try dsimp only
  repeat' first | (simp (maxDischargeDepth := 12) +contextual [h_s, wf_mk]; done) | split | (apply wf_foldl) | (apply wf_foldl1) | (apply wf_State_capture) | (simp (maxDischargeDepth := 12) +contextual [*, wf_mk]; done) | (intro _)

@[simp] theorem wf_scheduleCtx (s : State) (p x : Nat) (h_s : Memory.wf s) :
    Memory.wf (scheduleCtx s p x) := by
  unfold scheduleCtx
  simp (maxDischargeDepth := 12) [h_s]

@[simp] theorem wf_decide_ (s : State) (p : Nat) (h_s : Memory.wf s) :
    Memory.wf (decide_ s p) := by
  unfold decide_
  dsimp only
  repeat' first | (simp (maxDischargeDepth := 12) [h_s, wf_mk]; done) | split | apply wf_foldl | intro _

@[simp] theorem wf_saveCtx (s : State) (p x : Nat) (h_s : Memory.wf s) :
    Memory.wf (saveCtx s p x) := by
  unfold saveCtx
  dsimp only
  repeat' first | (simp (maxDischargeDepth := 12) [h_s, wf_mk]; done) | apply wf_writeBytes

/-! ### Slg -/

@[simp] theorem wf_slgHoldUpdate (s : State) (p : Nat) (h_s : Memory.wf s) :
    Memory.wf (slgHoldUpdate s p) := by
  unfold slgHoldUpdate
  simp (maxDischargeDepth := 12) [h_s]

@[simp] theorem wf_slgStore (s : State) (p : Nat) (r : SlgRec) (h_s : Memory.wf s) :
    Memory.wf (slgStore s p r) := by
  unfold slgStore
  simp (maxDischargeDepth := 12) [h_s]

@[simp] theorem wf_slgLostFlush (s : State) (p : Nat) (h_s : Memory.wf s) :
    Memory.wf (slgLostFlush s p) := by
  unfold slgLostFlush
  dsimp only
  repeat' first | (simp (maxDischargeDepth := 12) [h_s, wf_mk]; done) | split | apply wf_foldl | intro _

@[simp] theorem wf_slgLose (s : State) (p : Nat) (h_s : Memory.wf s) :
    Memory.wf (slgLose s p) := by
  unfold slgLose
  dsimp only
  repeat' first | (simp (maxDischargeDepth := 12) [h_s, wf_mk]; done) | split | apply wf_foldl | intro _

@[simp] theorem wf_replaySee (s : State) (p : Nat) (r : SlgRec) (h_s : Memory.wf s) :
    Memory.wf (replaySee s p r) := by
  unfold replaySee
  repeat' split
  all_goals simp (maxDischargeDepth := 12) [h_s, wf_mk]

@[simp] theorem wf_slgWrite (s : State) (p : Nat) (r : SlgRec) (h_s : Memory.wf s) :
    Memory.wf (slgWrite s p r) := by
  unfold slgWrite
  dsimp only
  repeat' first | (simp (maxDischargeDepth := 12) [h_s, wf_mk]; done) | split | apply wf_foldl | intro _

/-! ### Streams -/

@[simp] theorem wf_slgJobEnd (s : State) (p x idx : Nat) (w : Word) (h_s : Memory.wf s) :
    Memory.wf (slgJobEnd s p x idx w) := by
  unfold slgJobEnd
  simp (maxDischargeDepth := 12) [h_s]

@[simp] theorem wf_stepEnd (s : State) (p x st progress err : Nat) (h_s : Memory.wf s) :
    Memory.wf (stepEnd s p x st progress err) := by
  unfold stepEnd
  repeat' split
  all_goals simp (maxDischargeDepth := 12) [h_s, wf_mk]

@[simp] theorem wf_settle (s : State) (p x : Nat) (h_s : Memory.wf s) :
    Memory.wf (settle s p x) := by
  unfold settle
  dsimp only
  repeat' first | (simp (maxDischargeDepth := 12) [h_s, wf_mk]; done) | split | apply wf_foldl | intro _

@[simp] theorem wf_streamFaultAt (s : State) (a : StreamId) (f : SFault) (op pc : Nat) (h_s : Memory.wf s) :
    Memory.wf (streamFaultAt s a f op pc) := by
  unfold streamFaultAt
  simp (maxDischargeDepth := 12) [h_s]

@[simp] theorem wf_streamFault (s : State) (a : StreamId) (f : SFault) (op : Nat) (h_s : Memory.wf s) :
    Memory.wf (streamFault s a f op) := by
  unfold streamFault
  simp (maxDischargeDepth := 12) [h_s]

@[simp] theorem wf_waitOn (s : State) (a : StreamId) (w : Wait) (h_s : Memory.wf s) :
    Memory.wf (waitOn s a w) := by
  unfold waitOn
  dsimp only
  repeat' first | (simp (maxDischargeDepth := 12) [h_s, wf_mk]; done) | split | apply wf_foldl | intro _

@[simp] theorem wf_traceIssue (s : State) (a : StreamId) (w : InstrWord) (h_s : Memory.wf s) :
    Memory.wf (traceIssue s a w) := by
  unfold traceIssue
  try dsimp only
  repeat' first | (simp (maxDischargeDepth := 12) +contextual [h_s, wf_mk]; done) | split | (apply wf_foldl) | (apply wf_foldl1) | (simp (maxDischargeDepth := 12) +contextual [*, wf_mk]; done) | (intro _)

@[simp] theorem wf_advance (s : State) (a : StreamId) (w : InstrWord) (npc : Nat) (h_s : Memory.wf s) :
    Memory.wf (advance s a w npc) := by
  unfold advance
  dsimp only
  repeat' first | (simp (maxDischargeDepth := 12) [h_s, wf_mk]; done) | split | apply wf_foldl | intro _

@[simp] theorem wf_signal (s : State) (a : StreamId) (w : InstrWord) (h_s : Memory.wf s) :
    Memory.wf (signal s a w) := by
  unfold signal
  repeat' split
  all_goals simp (maxDischargeDepth := 12) [h_s, wf_mk]

@[simp] theorem wf_completeNow (s : State) (a : StreamId) (w : InstrWord) (npc : Nat) (h_s : Memory.wf s) :
    Memory.wf (completeNow s a w npc) := by
  unfold completeNow
  simp (maxDischargeDepth := 12) [h_s]

@[simp] theorem wf_issueFlight (s : State) (a : StreamId) (w : InstrWord) (tds : List DescWord) (aux : List Nat) (n : Nat) (h_s : Memory.wf s) :
    Memory.wf (issueFlight s a w tds aux n) := by
  unfold issueFlight
  simp (maxDischargeDepth := 12) [h_s]

@[simp] theorem wf_setFlight (s : State) (a : StreamId) (f : InFlight) (h_s : Memory.wf s) :
    Memory.wf (setFlight s a f) := by
  unfold setFlight
  simp (maxDischargeDepth := 12) [h_s]

@[simp] theorem wf_dropFlight (s : State) (a : StreamId) (i : BitVec 32) (h_s : Memory.wf s) :
    Memory.wf (dropFlight s a i) := by
  unfold dropFlight
  simp (maxDischargeDepth := 12) [h_s]

@[simp] theorem wf_withWordAfter (s : State) (a : StreamId) (w : InstrWord) (r115 : Bool) (op : Nat) (u : Uses) (extra : List (Option SFault)) (k : State → State) (h_s : Memory.wf s) (h_k : ∀ s, Memory.wf s → Memory.wf (k s)) :
    Memory.wf (withWordAfter s a w r115 op u extra k) := by
  unfold withWordAfter
  repeat' split
  all_goals simp (maxDischargeDepth := 12) [h_s, h_k, wf_mk]

@[simp] theorem wf_withWord (s : State) (a : StreamId) (w : InstrWord) (op : Nat) (u : Uses) (extra : List (Option SFault)) (k : State → State) (h_s : Memory.wf s) (h_k : ∀ s, Memory.wf s → Memory.wf (k s)) :
    Memory.wf (withWord s a w op u extra k) := by
  unfold withWord
  try dsimp only
  repeat' first | (simp (maxDischargeDepth := 12) +contextual [h_s, h_k, wf_mk]; done) | split | (apply wf_foldl) | (apply wf_foldl1) | (apply wf_withWordAfter) | (simp (maxDischargeDepth := 12) +contextual [*, wf_mk]; done) | (intro _)

@[simp] theorem wf_putD (s : State) (a : StreamId) (w : InstrWord) (v : Word) (h_s : Memory.wf s) :
    Memory.wf (putD s a w v) := by
  unfold putD
  simp (maxDischargeDepth := 12) [h_s]

/-! ### Fence -/

@[simp] theorem wf_modFence (s : State) (p x g : Nat) (h : FenceG → FenceG) (h_s : Memory.wf s) :
    Memory.wf (modFence s p x g h) := by
  unfold modFence
  simp (maxDischargeDepth := 12) [h_s]

theorem wf_loadFence {s t : State} {p x g : Nat} (h : Memory.wf s) (ht : loadFence s p x g = some t) : Memory.wf t := by
  unfold loadFence at ht
  split at ht
  · cases ht; exact h
  · obtain ⟨r, -, rfl⟩ := Option.map_eq_some_iff.mp ht
    simp [h]

theorem wf_loadFences (p x : Nat) (gs : List Nat) : ∀ {s t : State}, Memory.wf s → loadFences s p x gs = some t → Memory.wf t := by
  induction gs with
  | nil => intro s t h ht; cases ht; exact h
  | cons g gs ih =>
    intro s t h ht
    obtain ⟨u, hu, ht⟩ := Option.bind_eq_some_iff.mp ht
    exact ih (wf_loadFence h hu) ht

@[simp] theorem wf_countReaders (s : State) (p x : Nat) (gs : List Nat) (h_s : Memory.wf s) :
    Memory.wf (countReaders s p x gs) := by
  unfold countReaders
  try dsimp only
  repeat' first | (simp (maxDischargeDepth := 12) +contextual [h_s, wf_mk]; done) | split | (apply wf_foldl) | (apply wf_foldl1) | (simp (maxDischargeDepth := 12) +contextual [*, wf_mk]; done) | (intro _)

@[simp] theorem wf_withFence (s : State) (a : StreamId) (w : InstrWord) (tds : List DescWord) (op : Nat) (k : State → State)
    (h_s : Memory.wf s) (h_k : ∀ s, Memory.wf s → Memory.wf (k s)) : Memory.wf (withFence s a w tds op k) := by
  unfold withFence
  split
  · simp [h_s]
  · next s1 hs =>
    have h1 := wf_loadFences _ _ _ h_s hs
    dsimp only
    repeat' first | (simp [h1, h_k]; done) | split

@[simp] theorem wf_fenceRelease (s : State) (a : StreamId) (d : DescWord) (h_s : Memory.wf s) :
    Memory.wf (fenceRelease s a d).1 := by
  unfold fenceRelease
  repeat' split
  all_goals simp (maxDischargeDepth := 12) [h_s, wf_mk]

theorem wf_fenceRelease_eq {s : State} {a : StreamId} {d : DescWord} {t9 : State} {x9 : Bool} (h_s : Memory.wf s) (e9 : fenceRelease s a d = (t9, x9)) : Memory.wf t9 := by
  have h := wf_fenceRelease s a d h_s
  rw [e9] at h
  exact h

/-! ### Ctl -/

@[simp] theorem wf_scalarOp (a : StreamId) (w : InstrWord) (op : Nat) (u : Uses) (extra : List (Option SFault)) (f : State → Word) (s : State) (h_s : Memory.wf s) :
    Memory.wf (scalarOp a w op u extra f s) := by
  unfold scalarOp
  try dsimp only
  repeat' first | (simp (maxDischargeDepth := 12) +contextual [h_s, wf_mk]; done) | split | (apply wf_foldl) | (apply wf_foldl1) | (apply wf_withWord) | (simp (maxDischargeDepth := 12) +contextual [*, wf_mk]; done) | (intro _)

@[simp] theorem wf_doNop (a : StreamId) (w : InstrWord) (s : State) (h_s : Memory.wf s) :
    Memory.wf (doNop a w s) := by
  unfold doNop
  try dsimp only
  repeat' first | (simp (maxDischargeDepth := 12) +contextual [h_s, wf_mk]; done) | split | (apply wf_foldl) | (apply wf_foldl1) | (apply wf_withWord) | (simp (maxDischargeDepth := 12) +contextual [*, wf_mk]; done) | (intro _)

@[simp] theorem wf_doLi (a : StreamId) (w : InstrWord) (s : State) (h_s : Memory.wf s) :
    Memory.wf (doLi a w s) := by
  unfold doLi
  simp (maxDischargeDepth := 12) [h_s]

@[simp] theorem wf_doAdd (a : StreamId) (w : InstrWord) (s : State) (h_s : Memory.wf s) :
    Memory.wf (doAdd a w s) := by
  unfold doAdd
  simp (maxDischargeDepth := 12) [h_s]

@[simp] theorem wf_doAddi (a : StreamId) (w : InstrWord) (s : State) (h_s : Memory.wf s) :
    Memory.wf (doAddi a w s) := by
  unfold doAddi
  simp (maxDischargeDepth := 12) [h_s]

@[simp] theorem wf_doSub (a : StreamId) (w : InstrWord) (s : State) (h_s : Memory.wf s) :
    Memory.wf (doSub a w s) := by
  unfold doSub
  simp (maxDischargeDepth := 12) [h_s]

@[simp] theorem wf_doMul (a : StreamId) (w : InstrWord) (s : State) (h_s : Memory.wf s) :
    Memory.wf (doMul a w s) := by
  unfold doMul
  simp (maxDischargeDepth := 12) [h_s]

@[simp] theorem wf_doLogic (a : StreamId) (w : InstrWord) (s : State) (h_s : Memory.wf s) :
    Memory.wf (doLogic a w s) := by
  unfold doLogic
  simp (maxDischargeDepth := 12) [h_s]

@[simp] theorem wf_doRdspr (a : StreamId) (w : InstrWord) (s : State) (h_s : Memory.wf s) :
    Memory.wf (doRdspr a w s) := by
  unfold doRdspr
  simp (maxDischargeDepth := 12) [h_s]

@[simp] theorem wf_doShift (a : StreamId) (w : InstrWord) (s : State) (h_s : Memory.wf s) :
    Memory.wf (doShift a w s) := by
  unfold doShift
  simp (maxDischargeDepth := 12) [h_s]

@[simp] theorem wf_doBr (a : StreamId) (w : InstrWord) (s : State) (h_s : Memory.wf s) :
    Memory.wf (doBr a w s) := by
  unfold doBr
  try dsimp only
  repeat' first | (simp (maxDischargeDepth := 12) +contextual [h_s, wf_mk]; done) | split | (apply wf_foldl) | (apply wf_foldl1) | (apply wf_withWord) | (simp (maxDischargeDepth := 12) +contextual [*, wf_mk]; done) | (intro _)

@[simp] theorem wf_doLoop (a : StreamId) (w : InstrWord) (s : State) (h_s : Memory.wf s) :
    Memory.wf (doLoop a w s) := by
  unfold doLoop
  try dsimp only
  repeat' first | (simp (maxDischargeDepth := 12) +contextual [h_s, wf_mk]; done) | split | (apply wf_foldl) | (apply wf_foldl1) | (apply wf_withWord) | (simp (maxDischargeDepth := 12) +contextual [*, wf_mk]; done) | (intro _)

@[simp] theorem wf_doLds (a : StreamId) (w : InstrWord) (s : State) (h_s : Memory.wf s) :
    Memory.wf (doLds a w s) := by
  unfold doLds
  try dsimp only
  repeat' first | (simp (maxDischargeDepth := 12) +contextual [h_s, wf_mk]; done) | split | (apply wf_foldl) | (apply wf_foldl1) | (apply wf_withWordAfter) | (apply wf_withWord) | (simp (maxDischargeDepth := 12) +contextual [*, wf_mk]; done) | (intro _)

@[simp] theorem wf_doSts (a : StreamId) (w : InstrWord) (s : State) (h_s : Memory.wf s) :
    Memory.wf (doSts a w s) := by
  unfold doSts
  try dsimp only
  repeat' first | (simp (maxDischargeDepth := 12) +contextual [h_s, wf_mk]; done) | split | (apply wf_foldl) | (apply wf_foldl1) | (apply wf_withWordAfter) | (apply wf_withWord) | (simp (maxDischargeDepth := 12) +contextual [*, wf_mk]; done) | (intro _)

@[simp] theorem wf_doDld (a : StreamId) (w : InstrWord) (s : State) (h : Memory.wf s) :
    Memory.wf (doDld a w s) := by
  unfold doDld
  extract_lets ad n
  refine wf_withWordAfter _ _ _ _ _ _ _ _ h (fun s hs => ?_)
  try dsimp only
  split
  · exact wf_streamFault _ _ _ _ hs
  · split
    · rename_i e
      exact wf_streamFault _ _ _ _ (wf_vread_eq hs e)
    · rename_i e
      exact wf_completeNow _ _ _ _ (wf_modCtx _ _ _ _ (wf_vread_eq hs e))

@[simp] theorem wf_doDset (a : StreamId) (w : InstrWord) (s : State) (h_s : Memory.wf s) :
    Memory.wf (doDset a w s) := by
  unfold doDset
  try dsimp only
  repeat' first | (simp (maxDischargeDepth := 12) +contextual [h_s, wf_mk]; done) | split | (apply wf_foldl) | (apply wf_foldl1) | (apply wf_withWord) | (simp (maxDischargeDepth := 12) +contextual [*, wf_mk]; done) | (intro _)

@[simp] theorem wf_doEnd (a : StreamId) (w : InstrWord) (s : State) (h_s : Memory.wf s) :
    Memory.wf (doEnd a w s) := by
  unfold doEnd
  try dsimp only
  repeat' first | (simp (maxDischargeDepth := 12) +contextual [h_s, wf_mk]; done) | split | (apply wf_foldl) | (apply wf_foldl1) | (apply wf_withWord) | (simp (maxDischargeDepth := 12) +contextual [*, wf_mk]; done) | (intro _)

/-! ### Sync -/

@[simp] theorem wf_orderedOp (s : State) (a : StreamId) (w : InstrWord) (f : State → State) (h_s : Memory.wf s) (h_f : ∀ s, Memory.wf s → Memory.wf (f s)) :
    Memory.wf (orderedOp s a w f) := by
  unfold orderedOp
  repeat' split
  all_goals simp (maxDischargeDepth := 12) [h_s, h_f, wf_mk]

@[simp] theorem wf_bcsetEffect (s : State) (a : StreamId) (w : InstrWord) (va : Word) (h_s : Memory.wf s) :
    Memory.wf (bcsetEffect s a w va) := by
  unfold bcsetEffect
  simp (maxDischargeDepth := 12) [h_s]

@[simp] theorem wf_doBcset (a : StreamId) (w : InstrWord) (s : State) (h_s : Memory.wf s) :
    Memory.wf (doBcset a w s) := by
  unfold doBcset
  try dsimp only
  repeat' first | (simp (maxDischargeDepth := 12) +contextual [h_s, wf_mk]; done) | split | (apply wf_foldl) | (apply wf_foldl1) | (apply wf_withWord) | (apply wf_orderedOp) | (simp (maxDischargeDepth := 12) +contextual [*, wf_mk]; done) | (intro _)

@[simp] theorem wf_bcincEffect (s : State) (a : StreamId) (w : InstrWord) (h_s : Memory.wf s) :
    Memory.wf (bcincEffect s a w) := by
  unfold bcincEffect
  simp (maxDischargeDepth := 12) [h_s]

@[simp] theorem wf_doBcinc (a : StreamId) (w : InstrWord) (s : State) (h_s : Memory.wf s) :
    Memory.wf (doBcinc a w s) := by
  unfold doBcinc
  try dsimp only
  repeat' first | (simp (maxDischargeDepth := 12) +contextual [h_s, wf_mk]; done) | split | (apply wf_foldl) | (apply wf_foldl1) | (apply wf_withWord) | (apply wf_orderedOp) | (simp (maxDischargeDepth := 12) +contextual [*, wf_mk]; done) | (intro _)

@[simp] theorem wf_doBcwait (a : StreamId) (w : InstrWord) (s : State) (h_s : Memory.wf s) :
    Memory.wf (doBcwait a w s) := by
  unfold doBcwait
  try dsimp only
  repeat' first | (simp (maxDischargeDepth := 12) +contextual [h_s, wf_mk]; done) | split | (apply wf_foldl) | (apply wf_foldl1) | (apply wf_withWord) | (simp (maxDischargeDepth := 12) +contextual [*, wf_mk]; done) | (intro _)

@[simp] theorem wf_doFence (a : StreamId) (w : InstrWord) (s : State) (h_s : Memory.wf s) :
    Memory.wf (doFence a w s) := by
  unfold doFence
  try dsimp only
  repeat' first | (simp (maxDischargeDepth := 12) +contextual [h_s, wf_mk]; done) | split | (apply wf_foldl) | (apply wf_foldl1) | (apply wf_withWord) | (simp (maxDischargeDepth := 12) +contextual [*, wf_mk]; done) | (intro _)

@[simp] theorem wf_doGfence (a : StreamId) (w : InstrWord) (s : State) (h_s : Memory.wf s) :
    Memory.wf (doGfence a w s) := by
  unfold doGfence
  try dsimp only
  repeat' first | (simp (maxDischargeDepth := 12) +contextual [h_s, wf_mk]; done) | split | (apply wf_foldl) | (apply wf_foldl1) | (apply wf_withWord) | (simp (maxDischargeDepth := 12) +contextual [*, wf_mk]; done) | (intro _)

@[simp] theorem wf_doIflush (a : StreamId) (w : InstrWord) (s : State) (h_s : Memory.wf s) :
    Memory.wf (doIflush a w s) := by
  unfold doIflush
  try dsimp only
  repeat' first | (simp (maxDischargeDepth := 12) +contextual [h_s, wf_mk]; done) | split | (apply wf_foldl) | (apply wf_foldl1) | (apply wf_withWord) | (simp (maxDischargeDepth := 12) +contextual [*, wf_mk]; done) | (intro _)

@[simp] theorem wf_eventEffect (s : State) (a : StreamId) (w : InstrWord) (va : Word) (iseq : BitVec 32) (h_s : Memory.wf s) :
    Memory.wf (eventEffect s a w va iseq) := by
  unfold eventEffect
  simp (maxDischargeDepth := 12) [h_s]

@[simp] theorem wf_doEvent (a : StreamId) (w : InstrWord) (s : State) (h_s : Memory.wf s) :
    Memory.wf (doEvent a w s) := by
  unfold doEvent
  try dsimp only
  repeat' first | (simp (maxDischargeDepth := 12) +contextual [h_s, wf_mk]; done) | split | (apply wf_foldl) | (apply wf_foldl1) | (apply wf_withWord) | (apply wf_orderedOp) | (simp (maxDischargeDepth := 12) +contextual [*, wf_mk]; done) | (intro _)

@[simp] theorem wf_doCntrd (a : StreamId) (w : InstrWord) (s : State) (h_s : Memory.wf s) :
    Memory.wf (doCntrd a w s) := by
  unfold doCntrd
  try dsimp only
  repeat' first | (simp (maxDischargeDepth := 12) +contextual [h_s, wf_mk]; done) | split | (apply wf_foldl) | (apply wf_foldl1) | (apply wf_withWord) | (simp (maxDischargeDepth := 12) +contextual [*, wf_mk]; done) | (intro _)

@[simp] theorem wf_doFlagrd (a : StreamId) (w : InstrWord) (s : State) (h_s : Memory.wf s) :
    Memory.wf (doFlagrd a w s) := by
  unfold doFlagrd
  try dsimp only
  repeat' first | (simp (maxDischargeDepth := 12) +contextual [h_s, wf_mk]; done) | split | (apply wf_foldl) | (apply wf_foldl1) | (apply wf_withWord) | (simp (maxDischargeDepth := 12) +contextual [*, wf_mk]; done) | (intro _)

/-! ### Tile -/

@[simp] theorem wf_scaleMisaligned (s : State) (a : StreamId) (f : InFlight) (d : DescWord) (cluster b : Nat) (h_s : Memory.wf s) :
    Memory.wf (scaleMisaligned s a f d cluster b) := by
  unfold scaleMisaligned
  try dsimp only
  repeat' first | (simp (maxDischargeDepth := 12) +contextual [h_s, wf_mk]; done) | split | (apply wf_foldl) | (apply wf_foldl1) | (apply wf_State_capture) | (simp (maxDischargeDepth := 12) +contextual [*, wf_mk]; done) | (intro _)

@[simp] theorem wf_checkRead (a : StreamId) (f : InFlight) (cluster : Nat) (c : Checked) (r : TileRead)
    (h : Memory.wf c.s) : Memory.wf (checkRead a f cluster c r).s := by
  unfold checkRead
  dsimp only
  apply wf_foldl
  · intro s x hs; simp [hs]
  · simp [h]

@[simp] theorem wf_checkReads (s : State) (a : StreamId) (f : InFlight) (cluster : Nat) (rs : List TileRead)
    (h : Memory.wf s) : Memory.wf (checkReads s a f cluster rs).s := by
  unfold checkReads
  suffices ∀ (rs : List TileRead) (c : Checked), Memory.wf c.s → Memory.wf (rs.foldl (checkRead a f cluster) c).s from
    this rs _ h
  intro rs
  induction rs with
  | nil => intro c hc; exact hc
  | cons r rs ih => intro c hc; exact ih _ (wf_checkRead a f cluster c r hc)

@[simp] theorem wf_poisonOut (s : State) (a : StreamId) (f : InFlight) (as : List Nat) (d : DescWord) (h_s : Memory.wf s) :
    Memory.wf (poisonOut s a f as d) := by
  unfold poisonOut
  try dsimp only
  repeat' first | (simp (maxDischargeDepth := 12) +contextual [h_s, wf_mk]; done) | split | (apply wf_foldl) | (apply wf_foldl1) | (simp (maxDischargeDepth := 12) +contextual [*, wf_mk]; done) | (intro _)

@[simp] theorem wf_poisonOuts (s : State) (a : StreamId) (f : InFlight) (outs : List (DescWord × List Nat)) (h_s : Memory.wf s) :
    Memory.wf (poisonOuts s a f outs) := by
  unfold poisonOuts
  try dsimp only
  repeat' first | (simp (maxDischargeDepth := 12) +contextual [h_s, wf_mk]; done) | split | (apply wf_foldl) | (apply wf_foldl1) | (simp (maxDischargeDepth := 12) +contextual [*, wf_mk]; done) | (intro _)

@[simp] theorem wf_recordMarks (s : State) (a : StreamId) (f : InFlight) (cluster : Nat) (ms : List TileMark) (h_s : Memory.wf s) :
    Memory.wf (recordMarks s a f cluster ms) := by
  unfold recordMarks
  dsimp only
  repeat' first | (simp (maxDischargeDepth := 12) [h_s, wf_mk]; done) | split | apply wf_foldl | intro _

@[simp] theorem wf_storeErrRecord (s : State) (a : StreamId) (f : InFlight) (core : Nat) (e : StoreErr) (h_s : Memory.wf s) :
    Memory.wf (storeErrRecord s a f core e) := by
  unfold storeErrRecord
  repeat' split
  all_goals simp (maxDischargeDepth := 12) [h_s, wf_mk]

@[simp] theorem wf_nackRecord (s : State) (a : StreamId) (f : InFlight) (core ad : Nat) (h_s : Memory.wf s) :
    Memory.wf (nackRecord s a f core ad) := by
  unfold nackRecord
  simp (maxDischargeDepth := 12) [h_s]

@[simp] theorem wf_runTiles (s : State) (a : StreamId) (f : InFlight) (t core : Nat) (err : StoreErr) (reads : List TileRead) (outs : List (DescWord × List Nat)) (compute : State → TileOut) (h_s : Memory.wf s) :
    Memory.wf (runTiles s a f t core err reads outs compute) := by
  unfold runTiles
  dsimp only
  repeat' first | (simp (maxDischargeDepth := 12) [h_s, wf_mk]; done) | split | apply wf_foldl | intro _

@[simp] theorem wf_runTile (s : State) (a : StreamId) (f : InFlight) (t core : Nat) (err : StoreErr) (reads : List TileRead) (dOut : DescWord) (outs : List Nat) (compute : State → TileOut) (h_s : Memory.wf s) :
    Memory.wf (runTile s a f t core err reads dOut outs compute) := by
  unfold runTile
  simp (maxDischargeDepth := 12) [h_s]

/-! ### Issue -/

@[simp] theorem wf_issueTensor (o : TOp) (a : StreamId) (w : InstrWord) (s : State) (h_s : Memory.wf s) :
    Memory.wf (issueTensor o a w s) := by
  unfold issueTensor
  try dsimp only
  repeat' first | (simp (maxDischargeDepth := 12) +contextual [h_s, wf_mk]; done) | split | (apply wf_foldl) | (apply wf_foldl1) | (apply wf_State_capture) | (apply wf_withWordAfter) | (apply wf_withWord) | (apply wf_withFence) | (simp (maxDischargeDepth := 12) +contextual [*, wf_mk]; done) | (intro _)

end Sys2Proof.Machine
end

