-- ==== Sys2Proof/Laws/KeepTensor.lean ====
section
/-! SUPPORT. The canonical form of the stores is kept by the tensor instructions and their tiles. -/

namespace Sys2Proof.Machine

/-! ### Move -/

@[simp] theorem wf_doCopy (a : StreamId) (w : InstrWord) (s : State) (h_s : Memory.wf s) :
    Memory.wf (doCopy a w s) := by
  unfold doCopy
  simp (maxDischargeDepth := 12) [h_s]

@[simp] theorem wf_tileCopy (s : State) (a : StreamId) (f : InFlight) (t core : Nat) (e : StoreErr) (h_s : Memory.wf s) :
    Memory.wf (tileCopy s a f t core e) := by
  unfold tileCopy
  simp (maxDischargeDepth := 12) [h_s]

@[simp] theorem wf_doCopyt (a : StreamId) (w : InstrWord) (s : State) (h_s : Memory.wf s) :
    Memory.wf (doCopyt a w s) := by
  unfold doCopyt
  simp (maxDischargeDepth := 12) [h_s]

@[simp] theorem wf_tileCopyt (s : State) (a : StreamId) (f : InFlight) (t core : Nat) (e : StoreErr) (h_s : Memory.wf s) :
    Memory.wf (tileCopyt s a f t core e) := by
  unfold tileCopyt
  simp (maxDischargeDepth := 12) [h_s]

@[simp] theorem wf_doFill (a : StreamId) (w : InstrWord) (s : State) (h_s : Memory.wf s) :
    Memory.wf (doFill a w s) := by
  unfold doFill
  simp (maxDischargeDepth := 12) [h_s]

@[simp] theorem wf_tileFill (s : State) (a : StreamId) (f : InFlight) (t core : Nat) (e : StoreErr) (h_s : Memory.wf s) :
    Memory.wf (tileFill s a f t core e) := by
  unfold tileFill
  simp (maxDischargeDepth := 12) [h_s]

@[simp] theorem wf_issueRows (op : Nat) (x1 : Nat) (mv ix : Nat) (a : StreamId) (w : InstrWord) (s : State) (h : Memory.wf s) :
    Memory.wf (issueRows op x1 mv ix a w s) := by
  unfold issueRows
  extract_lets o tds ad n
  clear_value n ad
  refine wf_withWordAfter _ _ _ _ _ _ _ _ h (fun s hs => ?_)
  split
  · exact wf_streamFault _ _ _ _ hs
  · split
    · rename_i e
      exact wf_streamFault _ _ _ _ (wf_vread_eq hs e)
    · rename_i e
      have h1 := wf_vread_eq hs e
      extract_lets p
      split
      · exact wf_withFence _ _ _ _ _ _ h1 (fun s hs => wf_issueFlight _ _ _ _ _ _ hs)
      · exact wf_streamFault _ _ _ _ h1

@[simp] theorem wf_doGather (a : StreamId) (w : InstrWord) (s : State) (h_s : Memory.wf s) :
    Memory.wf (doGather a w s) := by
  unfold doGather
  simp (maxDischargeDepth := 12) [h_s, wf_mk]

@[simp] theorem wf_doScatter (a : StreamId) (w : InstrWord) (s : State) (h_s : Memory.wf s) :
    Memory.wf (doScatter a w s) := by
  unfold doScatter
  simp (maxDischargeDepth := 12) [h_s, wf_mk]

@[simp] theorem wf_tileGather (s : State) (a : StreamId) (f : InFlight) (t core : Nat) (e : StoreErr) (h_s : Memory.wf s) :
    Memory.wf (tileGather s a f t core e) := by
  unfold tileGather
  simp (maxDischargeDepth := 12) [h_s]

@[simp] theorem wf_tileScatter (s : State) (a : StreamId) (f : InFlight) (t core : Nat) (e : StoreErr) (h_s : Memory.wf s) :
    Memory.wf (tileScatter s a f t core e) := by
  unfold tileScatter
  repeat' split
  all_goals simp (maxDischargeDepth := 12) [h_s, wf_mk]

@[simp] theorem wf_doPrefetch (a : StreamId) (w : InstrWord) (s : State) (h_s : Memory.wf s) :
    Memory.wf (doPrefetch a w s) := by
  unfold doPrefetch
  try dsimp only
  repeat' first | (simp (maxDischargeDepth := 12) +contextual [h_s, wf_mk]; done) | split | (apply wf_foldl) | (apply wf_foldl1) | (apply wf_State_capture) | (apply wf_withWordAfter) | (apply wf_withWord) | (apply wf_withFence) | (simp (maxDischargeDepth := 12) +contextual [*, wf_mk]; done) | (intro _)

/-! ### Prod -/

@[simp] theorem wf_putAcc (s : State) (a : StreamId) (strict : Bool) (q : AccTile) (acc : List Nat) (h_s : Memory.wf s) :
    Memory.wf (putAcc s a strict q acc) := by
  have h := (wf_iff s).mp h_s
  unfold putAcc
  dsimp only
  split
  · exact (wf_iff _).mpr ⟨h.1, h.2.1, h.2.2.1, smWf_smPutRun _ _ _ _ h.2.2.2⟩
  · exact (wf_iff _).mpr ⟨h.1, h.2.1, smWf_smPutRun _ _ _ _ h.2.2.1, h.2.2.2⟩
  · exact h_s

@[simp] theorem wf_putOut (s : State) (a : StreamId) (f : InFlight) (core : Nat) (o : TileOut) (h_s : Memory.wf s) :
    Memory.wf (putOut s a f core o).1 := by
  unfold putOut
  simp (maxDischargeDepth := 12) [h_s]

theorem wf_putOut_eq {s : State} {a : StreamId} {f : InFlight} {core : Nat} {o : TileOut} {t9 : State} {x9 : InFlight} (h_s : Memory.wf s) (e9 : putOut s a f core o = (t9, x9)) : Memory.wf t9 := by
  have h := wf_putOut s a f core o h_s
  rw [e9] at h
  exact h

@[simp] theorem wf_Prod_writeTile (p : Prod) (s : State) (a : StreamId) (f : InFlight) (t core : Nat) (h_s : Memory.wf s) :
    Memory.wf (Prod.writeTile p s a f t core).1 := by
  unfold Prod.writeTile
  try dsimp only
  repeat' first | (simp (maxDischargeDepth := 12) +contextual [h_s, wf_mk]; done) | split | (apply wf_foldl) | (apply wf_foldl1) | ((try have hx := wf_putOut_eq (by assumption) ‹putOut _ _ _ _ _  = (_, _)›); (try have hx := wf_putOut_eq (by assumption) ‹putOut _ _ _ _ _  = (_, _)›); (simp (maxDischargeDepth := 12) +contextual [*, wf_mk]; done)) | (simp (maxDischargeDepth := 12) +contextual [*, wf_mk]; done) | (intro _)

theorem wf_Prod_writeTile_eq {p : Prod} {s : State} {a : StreamId} {f : InFlight} {t core : Nat} {t9 : State} {x9 : InFlight} (h_s : Memory.wf s) (e9 : Prod.writeTile p s a f t core = (t9, x9)) : Memory.wf t9 := by
  have h := wf_Prod_writeTile p s a f t core h_s
  rw [e9] at h
  exact h

@[simp] theorem wf_Geo_clearSplit (g : Geo) (s : State) (a : StreamId) (iseq : BitVec 32) (h_s : Memory.wf s) :
    Memory.wf (Geo.clearSplit g s a iseq) := by
  unfold Geo.clearSplit
  repeat' split
  all_goals simp (maxDischargeDepth := 12) [h_s, wf_mk]

@[simp] theorem wf_Prod_addSplit (p : Prod) (s : State) (a : StreamId) (f : InFlight) (t : Nat) (acc : List Nat) (h_s : Memory.wf s) :
    Memory.wf (Prod.addSplit p s a f t acc) := by
  unfold Prod.addSplit
  simp (maxDischargeDepth := 12) [h_s, wf_mk]

@[simp] theorem wf_Prod_contain (p : Prod) (s : State) (a : StreamId) (f : InFlight) (t : Nat) (pois : Bool) (h_s : Memory.wf s) :
    Memory.wf (Prod.contain p s a f t pois).1 := by
  unfold Prod.contain
  repeat' split
  all_goals simp (maxDischargeDepth := 12) [h_s, wf_mk]

theorem wf_Prod_contain_eq {p : Prod} {s : State} {a : StreamId} {f : InFlight} {t : Nat} {pois : Bool} {t9 : State} {x9 : InFlight} (h_s : Memory.wf s) (e9 : Prod.contain p s a f t pois = (t9, x9)) : Memory.wf t9 := by
  have h := wf_Prod_contain p s a f t pois h_s
  rw [e9] at h
  exact h

@[simp] theorem wf_Prod_writeBlock (p : Prod) (s : State) (a : StreamId) (f : InFlight) (b : Nat × Nat) (core : Nat) (h_s : Memory.wf s) :
    Memory.wf (Prod.writeBlock p s a f b core).1 := by
  unfold Prod.writeBlock
  try dsimp only
  repeat' first | (simp (maxDischargeDepth := 12) +contextual [h_s, wf_mk]; done) | split | (apply wf_foldl) | (apply wf_foldl1) | ((try have hx := wf_putOut_eq (by assumption) ‹putOut _ _ _ _ _  = (_, _)›); (try have hx := wf_Prod_contain_eq (by assumption) ‹Prod.contain _ _ _ _ _ _  = (_, _)›); (try have hx := wf_putOut_eq (by assumption) ‹putOut _ _ _ _ _  = (_, _)›); (try have hx := wf_Prod_contain_eq (by assumption) ‹Prod.contain _ _ _ _ _ _  = (_, _)›); (simp (maxDischargeDepth := 12) +contextual [*, wf_mk]; done)) | (simp (maxDischargeDepth := 12) +contextual [*, wf_mk]; done) | (intro _)

@[simp] theorem wf_Prod_tileEnd (p : Prod) (s : State) (a : StreamId) (f : InFlight) (t core : Nat) (err : StoreErr)
    (h : Memory.wf s) : Memory.wf (p.tileEnd s a f t core err) := by
  unfold Prod.tileEnd
  split
  · exact h
  · extract_lets key e0 x lo hi withC last es c s0 nack s1 f1 pois b
    split
    · exact h
    · split
      · exact h
      · extract_lets old acc s2 f2 r r2
        have hc : Memory.wf c.s := wf_checkReads _ _ _ _ _ h
        have h0 : Memory.wf s0 := wf_storeErrRecord _ _ _ _ _ hc
        have h1 : Memory.wf s1 := by
          cases hn : nack <;> simp [s1, hn, h0]
        have hs2 : Memory.wf s2 := wf_putAcc _ _ _ _ _ h1
        have hr : Memory.wf r.1 := by
          simp only [r]
          clear_value s2
          repeat' split
          all_goals first | exact h1 | exact hs2 | simp [h1, hs2]
        clear_value r
        have h2 : Memory.wf r2.1 := by
          simp only [r2]
          split
          · exact wf_Prod_writeBlock _ _ _ _ _ _ hr
          · exact hr
        exact wf_setFlight _ _ _ h2

/-! ### Mm -/

@[simp] theorem wf_issueProd (o : TOp) (g : List DescWord → Geo) (a : StreamId) (w : InstrWord) (s : State) (h_s : Memory.wf s) :
    Memory.wf (issueProd o g a w s) := by
  unfold issueProd
  dsimp only
  repeat' first | (simp (maxDischargeDepth := 12) [h_s, wf_mk]; done) | split | apply wf_foldl | intro _

@[simp] theorem wf_doMm (a : StreamId) (w : InstrWord) (s : State) (h_s : Memory.wf s) :
    Memory.wf (doMm a w s) := by
  unfold doMm
  simp (maxDischargeDepth := 12) [h_s]

@[simp] theorem wf_doMmacc (a : StreamId) (w : InstrWord) (s : State) (h_s : Memory.wf s) :
    Memory.wf (doMmacc a w s) := by
  unfold doMmacc
  simp (maxDischargeDepth := 12) [h_s]

@[simp] theorem wf_tileMm (s : State) (a : StreamId) (f : InFlight) (t core : Nat) (e : StoreErr) (h_s : Memory.wf s) :
    Memory.wf (tileMm s a f t core e) := by
  unfold tileMm
  simp (maxDischargeDepth := 12) [h_s]

/-! ### Conv -/

@[simp] theorem wf_doConv (a : StreamId) (w : InstrWord) (s : State) (h_s : Memory.wf s) :
    Memory.wf (doConv a w s) := by
  unfold doConv
  simp (maxDischargeDepth := 12) [h_s]

@[simp] theorem wf_doConvg (a : StreamId) (w : InstrWord) (s : State) (h_s : Memory.wf s) :
    Memory.wf (doConvg a w s) := by
  unfold doConvg
  simp (maxDischargeDepth := 12) [h_s]

@[simp] theorem wf_doConvbd (a : StreamId) (w : InstrWord) (s : State) (h_s : Memory.wf s) :
    Memory.wf (doConvbd a w s) := by
  unfold doConvbd
  simp (maxDischargeDepth := 12) [h_s]

@[simp] theorem wf_doConvbw (a : StreamId) (w : InstrWord) (s : State) (h_s : Memory.wf s) :
    Memory.wf (doConvbw a w s) := by
  unfold doConvbw
  simp (maxDischargeDepth := 12) [h_s]

@[simp] theorem wf_tileConv (s : State) (a : StreamId) (f : InFlight) (t core : Nat) (e : StoreErr) (h_s : Memory.wf s) :
    Memory.wf (tileConv s a f t core e) := by
  unfold tileConv
  simp (maxDischargeDepth := 12) [h_s]

@[simp] theorem wf_doPool (a : StreamId) (w : InstrWord) (s : State) (h_s : Memory.wf s) :
    Memory.wf (doPool a w s) := by
  unfold doPool
  simp (maxDischargeDepth := 12) [h_s]

@[simp] theorem wf_tilePool (s : State) (a : StreamId) (f : InFlight) (t core : Nat) (err : StoreErr) (h_s : Memory.wf s) :
    Memory.wf (tilePool s a f t core err) := by
  unfold tilePool
  dsimp only
  repeat' first | (simp (maxDischargeDepth := 12) [h_s, wf_mk]; done) | split | apply wf_foldl | intro _

/-! ### Vec -/

@[simp] theorem wf_elemTile (s : State) (a : StreamId) (f : InFlight) (t core : Nat) (err : StoreErr) (rd : List Nat) (fn : State → Nat → Nat → Elem) (h_s : Memory.wf s) :
    Memory.wf (elemTile s a f t core err rd fn) := by
  unfold elemTile
  simp (maxDischargeDepth := 12) [h_s]

@[simp] theorem wf_doVbin (a : StreamId) (w : InstrWord) (s : State) (h_s : Memory.wf s) :
    Memory.wf (doVbin a w s) := by
  unfold doVbin
  simp (maxDischargeDepth := 12) [h_s]

@[simp] theorem wf_tileVbin (s : State) (a : StreamId) (f : InFlight) (t core : Nat) (e : StoreErr) (h_s : Memory.wf s) :
    Memory.wf (tileVbin s a f t core e) := by
  unfold tileVbin
  simp (maxDischargeDepth := 12) [h_s]

@[simp] theorem wf_doVfma (a : StreamId) (w : InstrWord) (s : State) (h_s : Memory.wf s) :
    Memory.wf (doVfma a w s) := by
  unfold doVfma
  simp (maxDischargeDepth := 12) [h_s]

@[simp] theorem wf_tileVfma (s : State) (a : StreamId) (f : InFlight) (t core : Nat) (e : StoreErr) (h_s : Memory.wf s) :
    Memory.wf (tileVfma s a f t core e) := by
  unfold tileVfma
  simp (maxDischargeDepth := 12) [h_s]

@[simp] theorem wf_doVun (a : StreamId) (w : InstrWord) (s : State) (h_s : Memory.wf s) :
    Memory.wf (doVun a w s) := by
  unfold doVun
  simp (maxDischargeDepth := 12) [h_s]

@[simp] theorem wf_tileVun (s : State) (a : StreamId) (f : InFlight) (t core : Nat) (e : StoreErr) (h_s : Memory.wf s) :
    Memory.wf (tileVun s a f t core e) := by
  unfold tileVun
  simp (maxDischargeDepth := 12) [h_s]

@[simp] theorem wf_doVcvt (a : StreamId) (w : InstrWord) (s : State) (h_s : Memory.wf s) :
    Memory.wf (doVcvt a w s) := by
  unfold doVcvt
  simp (maxDischargeDepth := 12) [h_s]

@[simp] theorem wf_tileVcvt (s : State) (a : StreamId) (f : InFlight) (t core : Nat) (e : StoreErr) (h_s : Memory.wf s) :
    Memory.wf (tileVcvt s a f t core e) := by
  unfold tileVcvt
  simp (maxDischargeDepth := 12) [h_s]

@[simp] theorem wf_doNorm (a : StreamId) (w : InstrWord) (s : State) (h_s : Memory.wf s) :
    Memory.wf (doNorm a w s) := by
  unfold doNorm
  simp (maxDischargeDepth := 12) [h_s]

@[simp] theorem wf_tileNorm (s : State) (a : StreamId) (f : InFlight) (t core : Nat) (e : StoreErr) (h_s : Memory.wf s) :
    Memory.wf (tileNorm s a f t core e) := by
  unfold tileNorm
  simp (maxDischargeDepth := 12) [h_s]

@[simp] theorem wf_mvSingular (s : State) (a : StreamId) (cluster iseq b : Nat) (h_s : Memory.wf s) :
    Memory.wf (mvSingular s a cluster iseq b) := by
  unfold mvSingular
  dsimp only
  repeat' first | (simp (maxDischargeDepth := 12) [h_s, wf_mk]; done) | split | apply wf_foldl | intro _

@[simp] theorem wf_doMinv (a : StreamId) (w : InstrWord) (s : State) (h_s : Memory.wf s) :
    Memory.wf (doMinv a w s) := by
  unfold doMinv
  simp (maxDischargeDepth := 12) [h_s]

@[simp] theorem wf_tileMinv (s : State) (a : StreamId) (f : InFlight) (t core : Nat) (e : StoreErr) (h : Memory.wf s) :
    Memory.wf (tileMinv s a f t core e) := by
  unfold tileMinv
  extract_lets x z n st ps es stBase stAddrs s1
  have h1 : Memory.wf s1 := wf_runTiles _ _ _ _ _ _ _ _ _ h
  clear_value s1
  repeat' split
  all_goals simp [h1]

@[simp] theorem wf_doRsum (a : StreamId) (w : InstrWord) (s : State) (h_s : Memory.wf s) :
    Memory.wf (doRsum a w s) := by
  unfold doRsum
  simp (maxDischargeDepth := 12) [h_s]

@[simp] theorem wf_doRmax (a : StreamId) (w : InstrWord) (s : State) (h_s : Memory.wf s) :
    Memory.wf (doRmax a w s) := by
  unfold doRmax
  simp (maxDischargeDepth := 12) [h_s]

@[simp] theorem wf_doRmin (a : StreamId) (w : InstrWord) (s : State) (h_s : Memory.wf s) :
    Memory.wf (doRmin a w s) := by
  unfold doRmin
  simp (maxDischargeDepth := 12) [h_s]

@[simp] theorem wf_doRssq (a : StreamId) (w : InstrWord) (s : State) (h_s : Memory.wf s) :
    Memory.wf (doRssq a w s) := by
  unfold doRssq
  simp (maxDischargeDepth := 12) [h_s]

@[simp] theorem wf_tileRed (s : State) (a : StreamId) (f : InFlight) (t core : Nat) (e : StoreErr) (h_s : Memory.wf s) :
    Memory.wf (tileRed s a f t core e) := by
  unfold tileRed
  simp (maxDischargeDepth := 12) [h_s]

/-! ### Tab -/

@[simp] theorem wf_doTfn (a : StreamId) (w : InstrWord) (s : State) (h_s : Memory.wf s) :
    Memory.wf (doTfn a w s) := by
  unfold doTfn
  simp (maxDischargeDepth := 12) [h_s]

@[simp] theorem wf_tileTfn (s : State) (a : StreamId) (f : InFlight) (t core : Nat) (err : StoreErr) (h_s : Memory.wf s) :
    Memory.wf (tileTfn s a f t core err) := by
  unfold tileTfn
  simp (maxDischargeDepth := 12) [h_s]

@[simp] theorem wf_doTder (a : StreamId) (w : InstrWord) (s : State) (h_s : Memory.wf s) :
    Memory.wf (doTder a w s) := by
  unfold doTder
  simp (maxDischargeDepth := 12) [h_s]

@[simp] theorem wf_tileTder (s : State) (a : StreamId) (f : InFlight) (t core : Nat) (err : StoreErr) (h_s : Memory.wf s) :
    Memory.wf (tileTder s a f t core err) := by
  unfold tileTder
  simp (maxDischargeDepth := 12) [h_s]

@[simp] theorem wf_doTload (a : StreamId) (w : InstrWord) (s : State) (h_s : Memory.wf s) :
    Memory.wf (doTload a w s) := by
  unfold doTload
  simp (maxDischargeDepth := 12) [h_s]

@[simp] theorem wf_putSlot (s : State) (a : StreamId) (k : Nat) (img : Option (List Byte)) (h_s : Memory.wf s) :
    Memory.wf (putSlot s a k img) := by
  unfold putSlot
  simp (maxDischargeDepth := 12) [h_s]

@[simp] theorem wf_tileTload (s : State) (a : StreamId) (f : InFlight) (t core : Nat) (err : StoreErr) (h_s : Memory.wf s) :
    Memory.wf (tileTload s a f t core err) := by
  unfold tileTload
  dsimp only
  repeat' first | (simp (maxDischargeDepth := 12) [h_s, wf_mk]; done) | split | apply wf_foldl | intro _

@[simp] theorem wf_doSmax (a : StreamId) (w : InstrWord) (s : State) (h_s : Memory.wf s) :
    Memory.wf (doSmax a w s) := by
  unfold doSmax
  simp (maxDischargeDepth := 12) [h_s]

@[simp] theorem wf_tileSmax (s : State) (a : StreamId) (f : InFlight) (t core : Nat) (err : StoreErr) (h_s : Memory.wf s) :
    Memory.wf (tileSmax s a f t core err) := by
  unfold tileSmax
  simp (maxDischargeDepth := 12) [h_s]

/-! ### Qnt -/

@[simp] theorem wf_doQnt (a : StreamId) (w : InstrWord) (s : State) (h_s : Memory.wf s) :
    Memory.wf (doQnt a w s) := by
  unfold doQnt
  simp (maxDischargeDepth := 12) [h_s]

@[simp] theorem wf_tileQnt (s : State) (a : StreamId) (f : InFlight) (t core : Nat) (err : StoreErr) (h_s : Memory.wf s) :
    Memory.wf (tileQnt s a f t core err) := by
  unfold tileQnt
  simp (maxDischargeDepth := 12) [h_s]

@[simp] theorem wf_doDqnt (a : StreamId) (w : InstrWord) (s : State) (h_s : Memory.wf s) :
    Memory.wf (doDqnt a w s) := by
  unfold doDqnt
  simp (maxDischargeDepth := 12) [h_s]

@[simp] theorem wf_tileDqnt (s : State) (a : StreamId) (f : InFlight) (t core : Nat) (err : StoreErr) (h_s : Memory.wf s) :
    Memory.wf (tileDqnt s a f t core err) := by
  unfold tileDqnt
  simp (maxDischargeDepth := 12) [h_s]

@[simp] theorem wf_doAmax (a : StreamId) (w : InstrWord) (s : State) (h_s : Memory.wf s) :
    Memory.wf (doAmax a w s) := by
  unfold doAmax
  simp (maxDischargeDepth := 12) [h_s]

@[simp] theorem wf_tileAmax (s : State) (a : StreamId) (f : InFlight) (t core : Nat) (err : StoreErr) (h_s : Memory.wf s) :
    Memory.wf (tileAmax s a f t core err) := by
  unfold tileAmax
  simp (maxDischargeDepth := 12) [h_s]

@[simp] theorem wf_doFprint (a : StreamId) (w : InstrWord) (s : State) (h_s : Memory.wf s) :
    Memory.wf (doFprint a w s) := by
  unfold doFprint
  try dsimp only
  repeat' first | (simp (maxDischargeDepth := 12) +contextual [h_s, wf_mk]; done) | split | (apply wf_foldl) | (apply wf_foldl1) | (apply wf_State_capture) | (apply wf_withWordAfter) | (apply wf_withWord) | (apply wf_withFence) | (simp (maxDischargeDepth := 12) +contextual [*, wf_mk]; done) | (intro _)

@[simp] theorem wf_doReserved (a : StreamId) (w : InstrWord) (s : State) (h_s : Memory.wf s) :
    Memory.wf (doReserved a w s) := by
  unfold doReserved
  repeat' split
  all_goals simp (maxDischargeDepth := 12) [h_s, wf_mk]

/-! ### Upd -/

@[simp] theorem wf_issueUpd (fn : Nat) (a : StreamId) (w : InstrWord) (s : State) (h_s : Memory.wf s) :
    Memory.wf (issueUpd fn a w s) := by
  unfold issueUpd
  dsimp only
  repeat' first | (simp (maxDischargeDepth := 12) [h_s, wf_mk]; done) | split | apply wf_foldl | intro _

@[simp] theorem wf_doUpdApply (a : StreamId) (w : InstrWord) (s : State) (h_s : Memory.wf s) :
    Memory.wf (doUpdApply a w s) := by
  unfold doUpdApply
  repeat' split
  all_goals simp (maxDischargeDepth := 12) [h_s, wf_mk]

@[simp] theorem wf_doUpdNorm (a : StreamId) (w : InstrWord) (s : State) (h_s : Memory.wf s) :
    Memory.wf (doUpdNorm a w s) := by
  unfold doUpdNorm
  simp (maxDischargeDepth := 12) [h_s]

@[simp] theorem wf_doUpdPack (a : StreamId) (w : InstrWord) (s : State) (h_s : Memory.wf s) :
    Memory.wf (doUpdPack a w s) := by
  unfold doUpdPack
  simp (maxDischargeDepth := 12) [h_s]

@[simp] theorem wf_doReqnt (a : StreamId) (w : InstrWord) (s : State) (h_s : Memory.wf s) :
    Memory.wf (doReqnt a w s) := by
  unfold doReqnt
  simp (maxDischargeDepth := 12) [h_s]

@[simp] theorem wf_addNorm (s : State) (n : Nat) (r : Rec) (t : Tag) (h_s : Memory.wf s) :
    Memory.wf (addNorm s n r t) := by
  unfold addNorm
  simp (maxDischargeDepth := 12) [h_s]

@[simp] theorem wf_tileApply (s : State) (a : StreamId) (f : InFlight) (hy : Hyper) (t core : Nat) (h : Memory.wf s) :
    Memory.wf (tileApply s a f hy t core) := by
  unfold tileApply
  exact wf_runTiles _ _ _ _ _ _ _ _ _ h

@[simp] theorem wf_lambTerms (s : State) (a : StreamId) (f : InFlight) (h : Hyper) (t : Nat) (h_s : Memory.wf s) :
    Memory.wf (lambTerms s a f h t) := by
  unfold lambTerms
  simp (maxDischargeDepth := 12) [h_s]

@[simp] theorem wf_tileLamb2 (s : State) (a : StreamId) (f : InFlight) (h : Hyper) (r : Val) (t core : Nat) (h_s : Memory.wf s) :
    Memory.wf (tileLamb2 s a f h r t core) := by
  unfold tileLamb2
  repeat' split
  all_goals simp (maxDischargeDepth := 12) [h_s, wf_mk]

@[simp] theorem wf_tilePack (s : State) (a : StreamId) (f : InFlight) (t core : Nat) (h_s : Memory.wf s) :
    Memory.wf (tilePack s a f t core) := by
  unfold tilePack
  simp (maxDischargeDepth := 12) [h_s]

@[simp] theorem wf_tileNormAdd (s : State) (a : StreamId) (f : InFlight) (n t core : Nat) (h_s : Memory.wf s) :
    Memory.wf (tileNormAdd s a f n t core) := by
  unfold tileNormAdd
  simp (maxDischargeDepth := 12) [h_s]

@[simp] theorem wf_tileReqnt (s : State) (a : StreamId) (f : InFlight) (t core : Nat) (h_s : Memory.wf s) :
    Memory.wf (tileReqnt s a f t core) := by
  unfold tileReqnt
  simp (maxDischargeDepth := 12) [h_s]

@[simp] theorem wf_allTiles (a : StreamId) (iseq : BitVec 32) (n : Nat) (g : State → InFlight → Nat → Nat → State) (s : State) (h_s : Memory.wf s) (h_g : ∀ s a b c, Memory.wf s → Memory.wf (g s a b c)) :
    Memory.wf (allTiles a iseq n g s) := by
  unfold allTiles
  try dsimp only
  repeat' first | (simp (maxDischargeDepth := 12) +contextual [h_s, h_g, wf_mk]; done) | split | (apply wf_foldl) | (apply wf_foldl1) | (simp (maxDischargeDepth := 12) +contextual [*, wf_mk]; done) | (intro _)

@[simp] theorem wf_upSkip (s : State) (a : StreamId) (h_s : Memory.wf s) :
    Memory.wf (upSkip s a) := by
  unfold upSkip
  simp (maxDischargeDepth := 12) [h_s]

@[simp] theorem wf_normSkip (s : State) (a : StreamId) (f : InFlight) (h_s : Memory.wf s) :
    Memory.wf (normSkip s a f) := by
  unfold normSkip
  simp (maxDischargeDepth := 12) [h_s]

@[simp] theorem wf_runApply (s : State) (a : StreamId) (f : InFlight) (r : BitVec 512) (c : Val) (h : Memory.wf s) :
    Memory.wf (runApply s a f r c) := by
  unfold runApply
  extract_lets hy n s1 ratio
  have h1 : Memory.wf s1 := by
    refine wf_allTiles _ _ _ _ _ h (fun s f t c hs => ?_)
    extract_lets u
    have hu : Memory.wf u := wf_tileApply _ _ _ _ _ _ hs
    clear_value u
    split
    · split
      · exact wf_lambTerms _ _ _ _ _ hu
      · exact hu
    · exact hu
  clear_value s1 ratio
  exact wf_ite (wf_allTiles _ _ _ _ _ h1 (fun s f t c hs => wf_tileLamb2 _ _ _ _ _ _ _ hs)) h1

@[simp] theorem wf_updRun (s : State) (a : StreamId) (f : InFlight) (h : Memory.wf s) :
    Memory.wf (updRun s a f).1 := by
  unfold updRun
  extract_lets r n
  clear_value r n
  split
  · exact wf_allTiles _ _ _ _ _ h (fun s f t c hs => wf_tileReqnt _ _ _ _ _ hs)
  · split
    · exact wf_upSkip _ _ h
    · split
      · exact wf_allTiles _ _ _ _ _ h (fun s f t c hs => wf_tilePack _ _ _ _ _ hs)
      · split
        · split
          · exact h
          · exact wf_allTiles _ _ _ _ _ h (fun s f t c hs => wf_tileNormAdd _ _ _ _ _ _ hs)
        · split
          · exact wf_runApply _ _ _ _ _ h
          · split
            · exact wf_normSkip _ _ _ h
            · exact wf_runApply _ _ _ _ _ h

theorem wf_updRun_eq {s : State} {a : StreamId} {f : InFlight} {t9 : State} {x9 : Bool} (h_s : Memory.wf s)
    (e9 : updRun s a f = (t9, x9)) : Memory.wf t9 := by
  have h := wf_updRun s a f h_s
  rw [e9] at h
  exact h

theorem wf_fenceTry_some {s : State} {a : StreamId} {f : InFlight} {t : State} (h : Memory.wf s)
    (e : fenceTry s a f = some t) : Memory.wf t := by
  unfold fenceTry at e
  repeat' split at e
  all_goals first | (cases e; done) | (cases e; first | exact h | simp [h] | (split <;> simp [h]))

@[simp] theorem wf_fenceDone (s : State) (a : StreamId) (f : InFlight) (h_s : Memory.wf s) :
    Memory.wf (fenceDone s a f) := by
  unfold fenceDone
  repeat' split
  all_goals simp (maxDischargeDepth := 12) [h_s, wf_mk]

end Sys2Proof.Machine
end

