-- ==== Sys2Proof/Laws/KeepGroups.lean ====
section
/-! SUPPORT. The canonical form of the stores is kept by groups, collectives, links and stream events. -/

namespace Sys2Proof.Machine

/-! ### Group -/

@[simp] theorem wf_setW7 (s : State) (p k hi lo v : Nat) (h_s : Memory.wf s) :
    Memory.wf (setW7 s p k hi lo v) := by
  unfold setW7
  simp (maxDischargeDepth := 12) [h_s]

@[simp] theorem wf_accSend (s : State) (p k u dst ty opseq off aux : Nat) (pois : Bool) (data : List Nat) (h_s : Memory.wf s) :
    Memory.wf (accSend s p k u dst ty opseq off aux pois data) := by
  unfold accSend
  dsimp only
  repeat' first | (simp (maxDischargeDepth := 12) [h_s, wf_mk]; done) | split | apply wf_foldl | intro _

@[simp] theorem wf_leadSend (s : State) (p k dst ty opseq : Nat) (data : List Nat) (h_s : Memory.wf s) :
    Memory.wf (leadSend s p k dst ty opseq data) := by
  unfold leadSend
  simp (maxDischargeDepth := 12) [h_s, wf_mk]

@[simp] theorem wf_slgMember (s : State) (p k : Nat) (h_s : Memory.wf s) :
    Memory.wf (slgMember s p k) := by
  unfold slgMember
  simp (maxDischargeDepth := 12) [h_s]

@[simp] theorem wf_groupDown (s : State) (p k cause rank : Nat) (h_s : Memory.wf s) :
    Memory.wf (groupDown s p k cause rank) := by
  unfold groupDown
  simp (maxDischargeDepth := 12) [h_s]

@[simp] theorem wf_setColl (s : State) (c : Coll) (h_s : Memory.wf s) :
    Memory.wf (setColl s c) := by
  unfold setColl
  simp (maxDischargeDepth := 12) [h_s, wf_mk]

@[simp] theorem wf_dropColl (s : State) (c : Coll) (h_s : Memory.wf s) :
    Memory.wf (dropColl s c) := by
  unfold dropColl
  simp (maxDischargeDepth := 12) [h_s, wf_mk]

@[simp] theorem wf_collsAcked (s : State) (at_ : Nat → Bool) (p gid : Nat) (seq : Nat → Bool) (n : Nat) (h_s : Memory.wf s) :
    Memory.wf (collsAcked s at_ p gid seq n) := by
  unfold collsAcked
  simp (maxDischargeDepth := 12) [h_s, wf_mk]

@[simp] theorem wf_captAccFault (s : State) (d p k cause rank link strm ctx : Nat) (h_s : Memory.wf s) :
    Memory.wf (captAccFault s d p k cause rank link strm ctx) := by
  unfold captAccFault
  try dsimp only
  repeat' first | (simp (maxDischargeDepth := 12) +contextual [h_s, wf_mk]; done) | split | (apply wf_foldl) | (apply wf_foldl1) | (apply wf_State_capture) | (simp (maxDischargeDepth := 12) +contextual [*, wf_mk]; done) | (intro _)

@[simp] theorem wf_collFailAt (s : State) (d : Nat) (c : Coll) (cause rank link : Nat) (h_s : Memory.wf s) :
    Memory.wf (collFailAt s d c cause rank link) := by
  unfold collFailAt
  extract_lets s1 lead s2 s3 s4 a
  have h2 : Memory.wf s2 := wf_foldl _ (fun s x hs => by simp [hs]) _ _ (by simp [s1, h_s])
  have h3 : Memory.wf s3 := wf_foldl _ (fun s x hs => by simp [hs]) _ _ h2
  have h4 : Memory.wf s4 := by simp [s4, h3]
  clear_value s4
  split <;> simp [h4]

@[simp] theorem wf_collFail (s : State) (c : Coll) (cause rank link : Nat) (h_s : Memory.wf s) :
    Memory.wf (collFail s c cause rank link) := by
  unfold collFail
  simp (maxDischargeDepth := 12) [h_s, wf_mk]

@[simp] theorem wf_failColls (s : State) (p k cause rank link : Nat) (h_s : Memory.wf s) :
    Memory.wf (failColls s p k cause rank link) := by
  unfold failColls
  try dsimp only
  repeat' first | (simp (maxDischargeDepth := 12) +contextual [h_s, wf_mk]; done) | split | (apply wf_foldl) | (apply wf_foldl1) | (simp (maxDischargeDepth := 12) +contextual [*, wf_mk]; done) | (intro _)

@[simp] theorem wf_groupFail (s : State) (p k cause rank link : Nat) (h_s : Memory.wf s) :
    Memory.wf (groupFail s p k cause rank link) := by
  unfold groupFail
  simp (maxDischargeDepth := 12) [h_s]

@[simp] theorem wf_accForward (s : State) (u : Option Nat) (ty : Nat) (h : AccHdr) (data : List Nat) (h_s : Memory.wf s) :
    Memory.wf (accForward s u ty h data) := by
  unfold accForward
  dsimp only
  repeat' first | (simp (maxDischargeDepth := 12) [h_s, wf_mk]; done) | split | apply wf_foldl | intro _

@[simp] theorem wf_checkRoute (s : State) (p k link : Nat) (h_s : Memory.wf s) :
    Memory.wf (checkRoute s p k link) := by
  unfold checkRoute
  dsimp only
  repeat' first | (simp (maxDischargeDepth := 12) [h_s, wf_mk]; done) | split | apply wf_foldl | intro _

@[simp] theorem wf_checkRoutes (s : State) (link : Nat) (h_s : Memory.wf s) :
    Memory.wf (checkRoutes s link) := by
  unfold checkRoutes
  try dsimp only
  repeat' first | (simp (maxDischargeDepth := 12) +contextual [h_s, wf_mk]; done) | split | (apply wf_foldl) | (apply wf_foldl1) | (simp (maxDischargeDepth := 12) +contextual [*, wf_mk]; done) | (dsimp only) | (intro _)

@[simp] theorem wf_groupActive (s : State) (p k fmt gens : Nat) (h_s : Memory.wf s) :
    Memory.wf (groupActive s p k fmt gens) := by
  unfold groupActive
  simp (maxDischargeDepth := 12) [h_s]

@[simp] theorem wf_failPartGroups (s : State) (p : Nat) (h_s : Memory.wf s) :
    Memory.wf (failPartGroups s p) := by
  unfold failPartGroups
  try dsimp only
  repeat' first | (simp (maxDischargeDepth := 12) +contextual [h_s, wf_mk]; done) | split | (apply wf_foldl) | (apply wf_foldl1) | (simp (maxDischargeDepth := 12) +contextual [*, wf_mk]; done) | (intro _)

/-! ### Coll -/

@[simp] theorem wf_modFlight (s : State) (c : Coll) (k : InFlight → InFlight) (h_s : Memory.wf s) :
    Memory.wf (modFlight s c k) := by
  unfold modFlight
  try dsimp only
  repeat' first | (simp (maxDischargeDepth := 12) +contextual [h_s, wf_mk]; done) | split | (apply wf_foldl) | (apply wf_foldl1) | (apply wf_State_capture) | (simp (maxDischargeDepth := 12) +contextual [*, wf_mk]; done) | (intro _)

@[simp] theorem wf_accVerify (s : State) (c : Coll) (d : DescWord) (lo n : Nat) (h_s : Memory.wf s) :
    Memory.wf (accVerify s c d lo n) := by
  unfold accVerify
  extract_lets es s1 bad
  have h1 : Memory.wf s1 := wf_verifyRead _ _ _ _ h_s
  clear_value s1
  split
  · exact h1
  · exact wf_modFlight _ _ _ (wf_foldl _ (fun s x hs => by simp [hs]) _ _ h1)

@[simp] theorem wf_collSend (s : State) (c : Coll) (u dst ty off aux : Nat) (pois : Bool) (data : List Nat) (h_s : Memory.wf s) :
    Memory.wf (collSend s c u dst ty off aux pois data).1 := by
  unfold collSend
  simp (maxDischargeDepth := 12) [h_s]


theorem wf_collSend_eq {s : State} {c : Coll} {u dst ty off aux : Nat} {pois : Bool} {data : List Nat} {t9 : State} {x9 : Coll} (h_s : Memory.wf s) (e9 : collSend s c u dst ty off aux pois data = (t9, x9)) : Memory.wf t9 := by
  have h := wf_collSend s c u dst ty off aux pois data h_s
  rw [e9] at h
  exact h

@[simp] theorem wf_collTell (s : State) (c : Coll) (dsts : List Nat) (ty aux : Nat) (data : List Nat) (h_s : Memory.wf s) :
    Memory.wf (collTell s c dsts ty aux data).1 := by
  unfold collTell
  try dsimp only
  repeat' first | (simp (maxDischargeDepth := 12) +contextual [h_s, wf_mk]; done) | split | (apply wf_foldl) | (apply wf_foldl1) | (apply wf_State_capture) | (simp (maxDischargeDepth := 12) +contextual [*, wf_mk]; done) | (intro _)


theorem wf_collTell_eq {s : State} {c : Coll} {dsts : List Nat} {ty aux : Nat} {data : List Nat} {t9 : State} {x9 : Coll} (h_s : Memory.wf s) (e9 : collTell s c dsts ty aux data = (t9, x9)) : Memory.wf t9 := by
  have h := wf_collTell s c dsts ty aux data h_s
  rw [e9] at h
  exact h

@[simp] theorem wf_sendBytes (s : State) (c : Coll) (dst off aux : Nat) (i n m : Nat) (bs : List (Nat × Bool))
    (h_s : Memory.wf s) : Memory.wf (sendBytes s c dst off aux i n m bs).1 := by
  have key : ∀ (l : List (List (Nat × Bool))) (r : (State × Coll) × Nat), Memory.wf r.1.1 → Memory.wf
      (l.foldl (fun (x : (State × Coll) × Nat) gs =>
        let u := unitOf s c.part (i + n * (16 * x.2) / max 1 bs.length) m
        (collSend x.1.1 x.1.2 u dst 1 (off + 16 * x.2) aux (gs.any Prod.snd) (gs.map Prod.fst), x.2 + gs.length)) r).1.1 := by
    intro l
    induction l with
    | nil => exact fun _ h => h
    | cons g l ih => exact fun r h => ih _ (by simp [h])
  exact key _ _ h_s

@[simp] theorem wf_accPoison (s : State) (c : Coll) (d : DescWord) (as : List Nat) (h_s : Memory.wf s) :
    Memory.wf (accPoison s c d as) := by
  unfold accPoison
  try dsimp only
  repeat' first | (simp (maxDischargeDepth := 12) +contextual [h_s, wf_mk]; done) | split | (apply wf_foldl) | (apply wf_foldl1) | (simp (maxDischargeDepth := 12) +contextual [*, wf_mk]; done) | (intro _)

@[simp] theorem wf_accWrite (s : State) (c : Coll) (f : InFlight) (o : TileOut) (bad : List Nat) (h_s : Memory.wf s) :
    Memory.wf (accWrite s c f o bad) := by
  unfold accWrite
  simp (maxDischargeDepth := 12) [h_s]

@[simp] theorem wf_gatWrite (s : State) (c : Coll) (f : InFlight) (sh : Nat) (h_s : Memory.wf s) :
    Memory.wf (gatWrite s c f sh) := by
  unfold gatWrite
  repeat' split
  all_goals simp (maxDischargeDepth := 12) [h_s, wf_mk]

@[simp] theorem wf_collAct (s : State) (c : Coll) (f : InFlight) (x : CollAct) (h_s : Memory.wf s) :
    Memory.wf (collAct s c f x).1 := by
  unfold collAct
  dsimp only
  repeat' first | (simp (maxDischargeDepth := 12) [h_s, wf_mk]; done) | split | apply wf_foldl | intro _


theorem wf_collAct_eq {s : State} {c : Coll} {f : InFlight} {x : CollAct} {t9 : State} {x9 : Coll} (h_s : Memory.wf s) (e9 : collAct s c f x = (t9, x9)) : Memory.wf t9 := by
  have h := wf_collAct s c f x h_s
  rw [e9] at h
  exact h

@[simp] theorem wf_collPump (a : StreamId) (i : BitVec 32) (n : Nat) : ∀ (s : State), Memory.wf s → Memory.wf (collPump a i n s) := by
  induction n with
  | zero => intro s h; exact h
  | succ n ih =>
    intro s h
    unfold collPump
    repeat' first | (simp (maxDischargeDepth := 12) [h, wf_mk]; done) | split | (apply ih)

@[simp] theorem wf_collGo (s : State) (a : StreamId) (i : BitVec 32) (h_s : Memory.wf s) :
    Memory.wf (collGo s a i) := by
  unfold collGo
  repeat' split
  all_goals simp (maxDischargeDepth := 12) [h_s, wf_mk]

/-! ### Col -/

@[simp] theorem wf_startColl (s : State) (a : StreamId) (f : InFlight) (h_s : Memory.wf s) :
    Memory.wf (startColl s a f) := by
  unfold startColl
  dsimp only
  repeat' first | (simp (maxDischargeDepth := 12) [h_s, wf_mk]; done) | split | apply wf_foldl | intro _

@[simp] theorem wf_collDeliver (s : State) (c : Coll) (m : AccMsg) (h_s : Memory.wf s) :
    Memory.wf (collDeliver s c m) := by
  unfold collDeliver
  dsimp only
  repeat' first | (simp (maxDischargeDepth := 12) [h_s, wf_mk]; done) | split | apply wf_foldl | intro _

@[simp] theorem wf_replayEarly (a : StreamId) (i : BitVec 32) (n : Nat) : ∀ (s : State), Memory.wf s → Memory.wf (replayEarly a i n s) := by
  induction n with
  | zero => intro s h; exact h
  | succ n ih =>
    intro s h
    unfold replayEarly
    repeat' first | (simp (maxDischargeDepth := 12) [h, wf_mk]; done) | split | (apply ih)

@[simp] theorem wf_issueColl (o : TOp) (clear : List DescWord → Option Geo) (a : StreamId) (w : InstrWord) (s : State) (h_s : Memory.wf s) :
    Memory.wf (issueColl o clear a w s) := by
  unfold issueColl
  try dsimp only
  repeat' first | (simp (maxDischargeDepth := 12) +contextual [h_s, wf_mk]; done) | split | (apply wf_foldl) | (apply wf_foldl1) | (apply wf_State_capture) | (apply wf_withWordAfter) | (apply wf_withWord) | (apply wf_withFence) | (simp (maxDischargeDepth := 12) +contextual [*, wf_mk]; done) | (intro _)

@[simp] theorem wf_doRs (a : StreamId) (w : InstrWord) (s : State) (h_s : Memory.wf s) :
    Memory.wf (doRs a w s) := by
  unfold doRs
  simp (maxDischargeDepth := 12) [h_s]

@[simp] theorem wf_doAg (a : StreamId) (w : InstrWord) (s : State) (h_s : Memory.wf s) :
    Memory.wf (doAg a w s) := by
  unfold doAg
  simp (maxDischargeDepth := 12) [h_s]

@[simp] theorem wf_doAr (a : StreamId) (w : InstrWord) (s : State) (h_s : Memory.wf s) :
    Memory.wf (doAr a w s) := by
  unfold doAr
  simp (maxDischargeDepth := 12) [h_s]

@[simp] theorem wf_doSend (a : StreamId) (w : InstrWord) (s : State) (h_s : Memory.wf s) :
    Memory.wf (doSend a w s) := by
  unfold doSend
  simp (maxDischargeDepth := 12) [h_s]

@[simp] theorem wf_doRecv (a : StreamId) (w : InstrWord) (s : State) (h_s : Memory.wf s) :
    Memory.wf (doRecv a w s) := by
  unfold doRecv
  simp (maxDischargeDepth := 12) [h_s]

@[simp] theorem wf_doMmrs (a : StreamId) (w : InstrWord) (s : State) (h_s : Memory.wf s) :
    Memory.wf (doMmrs a w s) := by
  unfold doMmrs
  simp (maxDischargeDepth := 12) [h_s]

@[simp] theorem wf_doMmag (a : StreamId) (w : InstrWord) (s : State) (h_s : Memory.wf s) :
    Memory.wf (doMmag a w s) := by
  unfold doMmag
  simp (maxDischargeDepth := 12) [h_s]

@[simp] theorem wf_tileMmrs (s : State) (a : StreamId) (f : InFlight) (t core : Nat) (e : StoreErr) (h_s : Memory.wf s) :
    Memory.wf (tileMmrs s a f t core e) := by
  unfold tileMmrs
  simp (maxDischargeDepth := 12) [h_s]

@[simp] theorem wf_tileMmag (s : State) (a : StreamId) (f : InFlight) (t core : Nat) (e : StoreErr) (h_s : Memory.wf s) :
    Memory.wf (tileMmag s a f t core e) := by
  unfold tileMmag
  repeat' split
  all_goals simp (maxDischargeDepth := 12) [h_s, wf_mk]

@[simp] theorem wf_accMessage (s : State) (m : AccMsg) (h_s : Memory.wf s) :
    Memory.wf (accMessage s m) := by
  unfold accMessage
  repeat' split
  all_goals simp (maxDischargeDepth := 12) [h_s, wf_mk]

@[simp] theorem wf_doAccordData (h : AccHdr) (data : List (BitVec 128)) (s : State) (h_s : Memory.wf s) :
    Memory.wf (doAccordData h data s) := by
  unfold doAccordData
  simp (maxDischargeDepth := 12) [h_s]

@[simp] theorem wf_doAccordDone (h : AccHdr) (s : State) (h_s : Memory.wf s) :
    Memory.wf (doAccordDone h s) := by
  unfold doAccordDone
  simp (maxDischargeDepth := 12) [h_s]

@[simp] theorem wf_doHdr (h : AccHdr) (d : CollDigest) (s : State) (h_s : Memory.wf s) :
    Memory.wf (doHdr h d s) := by
  unfold doHdr
  simp (maxDischargeDepth := 12) [h_s]

@[simp] theorem wf_doGrant (h : AccHdr) (s : State) (h_s : Memory.wf s) :
    Memory.wf (doGrant h s) := by
  unfold doGrant
  simp (maxDischargeDepth := 12) [h_s]

@[simp] theorem wf_doNrec (h : AccHdr) (r : BitVec 384) (s : State) (h_s : Memory.wf s) :
    Memory.wf (doNrec h r s) := by
  unfold doNrec
  simp (maxDischargeDepth := 12) [h_s]

@[simp] theorem wf_doAccordAbort (h : AccHdr) (s : State) (h_s : Memory.wf s) :
    Memory.wf (doAccordAbort h s) := by
  unfold doAccordAbort
  dsimp only
  repeat' first | (simp (maxDischargeDepth := 12) [h_s, wf_mk]; done) | split | apply wf_foldl | intro _

@[simp] theorem wf_sendMember (s : State) (p k : Nat) (lap2 : Bool) (fmt gens : Nat) (h_s : Memory.wf s) :
    Memory.wf (sendMember s p k lap2 fmt gens) := by
  unfold sendMember
  simp (maxDischargeDepth := 12) [h_s]

@[simp] theorem wf_lapOne (s : State) (p k : Nat) (m : MemberMsg) (h_s : Memory.wf s) :
    Memory.wf (lapOne s p k m) := by
  unfold lapOne
  dsimp only
  repeat' first | (simp (maxDischargeDepth := 12) [h_s, wf_mk]; done) | split | apply wf_foldl | intro _

@[simp] theorem wf_doAccordMember (h : AccHdr) (m : MemberMsg) (s : State) (h_s : Memory.wf s) :
    Memory.wf (doAccordMember h m s) := by
  unfold doAccordMember
  dsimp only
  repeat' first | (simp (maxDischargeDepth := 12) [h_s, wf_mk]; done) | split | apply wf_foldl | intro _

@[simp] theorem wf_gcmd (s : State) (d p k : Nat) (ok : State → Bool) (f : State → State) (h_s : Memory.wf s) (h_f : ∀ s, Memory.wf s → Memory.wf (f s)) :
    Memory.wf (gcmd s d p k ok f) := by
  unfold gcmd
  repeat' split
  all_goals simp (maxDischargeDepth := 12) [h_s, h_f, wf_mk]

@[simp] theorem wf_dropEarly (s : State) (gid my : Nat) (h_s : Memory.wf s) :
    Memory.wf (dropEarly s gid my) := by
  unfold dropEarly
  simp (maxDischargeDepth := 12) [h_s, wf_mk]

@[simp] theorem wf_doGroupActivate (d : Fin 8) (p : Fin 16) (g : BitVec 8) (s : State) (h_s : Memory.wf s) :
    Memory.wf (doGroupActivate d p g s) := by
  unfold doGroupActivate
  try dsimp only
  repeat' first | (simp (maxDischargeDepth := 12) +contextual [h_s, wf_mk]; done) | split | (apply wf_foldl) | (apply wf_foldl1) | (apply wf_gcmd) | (simp (maxDischargeDepth := 12) +contextual [*, wf_mk]; done) | (intro _)

@[simp] theorem wf_doGroupDeactivate (d : Fin 8) (p : Fin 16) (g : BitVec 8) (s : State) (h_s : Memory.wf s) :
    Memory.wf (doGroupDeactivate d p g s) := by
  unfold doGroupDeactivate
  try dsimp only
  repeat' first | (simp (maxDischargeDepth := 12) +contextual [h_s, wf_mk]; done) | split | (apply wf_foldl) | (apply wf_foldl1) | (apply wf_gcmd) | (simp (maxDischargeDepth := 12) +contextual [*, wf_mk]; done) | (intro _)

@[simp] theorem wf_doGroupActivationTimeout (p : Fin 16) (g : BitVec 8) (s : State) (h_s : Memory.wf s) :
    Memory.wf (doGroupActivationTimeout p g s) := by
  unfold doGroupActivationTimeout
  repeat' split
  all_goals simp (maxDischargeDepth := 12) [h_s, wf_mk]

@[simp] theorem wf_sendBlkx (s : State) (p k dst : Nat) (x : FpRec) (h_s : Memory.wf s) :
    Memory.wf (sendBlkx s p k dst x) := by
  unfold sendBlkx
  try dsimp only
  repeat' first | (simp (maxDischargeDepth := 12) +contextual [h_s, wf_mk]; done) | split | (apply wf_foldl) | (apply wf_foldl1) | (apply wf_State_capture) | (simp (maxDischargeDepth := 12) +contextual [*, wf_mk]; done) | (intro _)

@[simp] theorem wf_fpHold (s : State) (x : FpRec) (h_s : Memory.wf s) :
    Memory.wf (fpHold s x) := by
  unfold fpHold
  repeat' split
  all_goals simp (maxDischargeDepth := 12) [h_s, wf_mk]

@[simp] theorem wf_fpMeet (s : State) (k : Nat) (x : FpRec) (h_s : Memory.wf s) :
    Memory.wf (fpMeet s k x) := by
  unfold fpMeet
  repeat' split
  all_goals simp (maxDischargeDepth := 12) [h_s, wf_mk]

@[simp] theorem wf_fpSelf (s : State) (p : Nat) (d : DescWord) (gstep : Nat) (h_s : Memory.wf s) :
    Memory.wf (fpSelf s p d gstep) := by
  unfold fpSelf
  dsimp only
  repeat' first | (simp (maxDischargeDepth := 12) [h_s, wf_mk]; done) | split | apply wf_foldl | intro _

@[simp] theorem wf_doFpx (h : AccHdr) (tid : BitVec 32) (gstep fp : BitVec 64) (s : State) (h_s : Memory.wf s) :
    Memory.wf (doFpx h tid gstep fp s) := by
  unfold doFpx
  repeat' split
  all_goals simp (maxDischargeDepth := 12) [h_s, wf_mk]

@[simp] theorem wf_fpMismatch (s : State) (p k : Nat) (x : FpRec) (blk : Nat) (h_s : Memory.wf s) :
    Memory.wf (fpMismatch s p k x blk) := by
  unfold fpMismatch
  try dsimp only
  repeat' first | (simp (maxDischargeDepth := 12) +contextual [h_s, wf_mk]; done) | split | (apply wf_foldl) | (apply wf_foldl1) | (apply wf_State_capture) | (simp (maxDischargeDepth := 12) +contextual [*, wf_mk]; done) | (intro _)

@[simp] theorem wf_doBlkx (h : AccHdr) (tid : BitVec 32) (gstep : BitVec 64) (crcs : List (BitVec 32)) (s : State) (h_s : Memory.wf s) :
    Memory.wf (doBlkx h tid gstep crcs s) := by
  unfold doBlkx
  dsimp only
  repeat' first | (simp (maxDischargeDepth := 12) [h_s, wf_mk]; done) | split | apply wf_foldl | intro _

@[simp] theorem wf_doUpdFencePass (a : StreamId) (i : BitVec 32) (s : State) (h : Memory.wf s) :
    Memory.wf (doUpdFencePass a i s) := by
  unfold doUpdFencePass
  split
  · exact h
  · split
    · exact h
    · rename_i f _ _
      extract_lets load g
      have hl : ∀ s1, load = some s1 → Memory.wf s1 := by
        intro s1 e1
        simp only [load] at e1
        split at e1
        · exact wf_loadFence h e1
        · cases e1; exact h
      clear_value load
      split
      · simp [h]
      · have h1 := hl _ rfl
        split
        · exact h1
        · rename_i s2 e2
          have h2 : Memory.wf s2 := by
            split at e2
            · cases e2
            · exact wf_fenceTry_some h1 e2
          extract_lets r
          have hr : Memory.wf r.1 := wf_updRun _ _ _ (wf_setFlight _ _ _ h2)
          clear_value r
          split <;> simp [hr]

/-! ### Links -/

@[simp] theorem wf_trainStart (s : State) (l : Nat) (h_s : Memory.wf s) :
    Memory.wf (trainStart s l) := by
  unfold trainStart
  simp (maxDischargeDepth := 12) [h_s]

@[simp] theorem wf_lnkIdle (s : State) (l st : Nat) (h_s : Memory.wf s) :
    Memory.wf (lnkIdle s l st) := by
  unfold lnkIdle
  simp (maxDischargeDepth := 12) [h_s]

@[simp] theorem wf_trainFail (s : State) (l step : Nat) (h_s : Memory.wf s) :
    Memory.wf (trainFail s l step) := by
  unfold trainFail
  dsimp only
  repeat' first | (simp (maxDischargeDepth := 12) [h_s, wf_mk]; done) | split | apply wf_foldl | intro _

@[simp] theorem wf_linkLost (s : State) (l cause st : Nat) (h_s : Memory.wf s) :
    Memory.wf (linkLost s l cause st) := by
  unfold linkLost
  try dsimp only
  repeat' first | (simp (maxDischargeDepth := 12) +contextual [h_s, wf_mk]; done) | split | (apply wf_foldl) | (apply wf_foldl1) | (simp (maxDischargeDepth := 12) +contextual [*, wf_mk]; done) | (dsimp only) | (intro _)

@[simp] theorem wf_sendDown (s : State) (l : Nat) (h_s : Memory.wf s) :
    Memory.wf (sendDown s l) := by
  unfold sendDown
  try dsimp only
  repeat' first | (simp (maxDischargeDepth := 12) +contextual [h_s, wf_mk]; done) | split | (apply wf_foldl) | (apply wf_foldl1) | (apply wf_State_capture) | (simp (maxDischargeDepth := 12) +contextual [*, wf_mk]; done) | (intro _)

@[simp] theorem wf_lnkDown (s : State) (l cause st : Nat) (h_s : Memory.wf s) :
    Memory.wf (lnkDown s l cause st) := by
  unfold lnkDown
  repeat' split
  all_goals simp (maxDischargeDepth := 12) [h_s, wf_mk]

@[simp] theorem wf_doLnkEnable (l : Nat) (s : State) (h_s : Memory.wf s) :
    Memory.wf (doLnkEnable l s) := by
  unfold doLnkEnable
  repeat' split
  all_goals simp (maxDischargeDepth := 12) [h_s, wf_mk]

@[simp] theorem wf_doLnkDisable (l : Nat) (s : State) (h_s : Memory.wf s) :
    Memory.wf (doLnkDisable l s) := by
  unfold doLnkDisable
  repeat' split
  all_goals simp (maxDischargeDepth := 12) [h_s, wf_mk]

@[simp] theorem wf_restoreRates (s : State) (l : Nat) (h_s : Memory.wf s) :
    Memory.wf (restoreRates s l) := by
  unfold restoreRates
  simp (maxDischargeDepth := 12) [h_s]

@[simp] theorem wf_doLnkRetrain (l : Nat) (s : State) (h_s : Memory.wf s) :
    Memory.wf (doLnkRetrain l s) := by
  unfold doLnkRetrain
  repeat' split
  all_goals simp (maxDischargeDepth := 12) [h_s, wf_mk]

@[simp] theorem wf_doBasePage (l : Nat) (cap serial port : Nat) (ack : Bool) (lanes : Nat) (s : State) (h_s : Memory.wf s) :
    Memory.wf (doBasePage l cap serial port ack lanes s) := by
  unfold doBasePage
  dsimp only
  repeat' first | (simp (maxDischargeDepth := 12) [h_s, wf_mk]; done) | split | apply wf_foldl | intro _

@[simp] theorem wf_doTrainingStepTimeout (l step : Nat) (s : State) (h_s : Memory.wf s) :
    Memory.wf (doTrainingStepTimeout l step s) := by
  unfold doTrainingStepTimeout
  dsimp only
  repeat' first | (simp (maxDischargeDepth := 12) [h_s, wf_mk]; done) | split | apply wf_foldl | intro _

@[simp] theorem wf_doTrainingRestart (l : Nat) (s : State) (h_s : Memory.wf s) :
    Memory.wf (doTrainingRestart l s) := by
  unfold doTrainingRestart
  repeat' split
  all_goals simp (maxDischargeDepth := 12) [h_s, wf_mk]

@[simp] theorem wf_flitAcked (l : Nat) (s : State) (t : TxFlit) (h_s : Memory.wf s) :
    Memory.wf (flitAcked l s t) := by
  unfold flitAcked
  try dsimp only
  repeat' first | (simp (maxDischargeDepth := 12) +contextual [h_s, wf_mk]; done) | split | (apply wf_foldl) | (apply wf_foldl1) | (apply wf_State_capture) | (simp (maxDischargeDepth := 12) +contextual [*, wf_mk]; done) | (intro _)

@[simp] theorem wf_takeHeader (s : State) (l : Nat) (f : Flit) (h_s : Memory.wf s) :
    Memory.wf (takeHeader s l f) := by
  unfold takeHeader
  extract_lets k s1 left s2
  have h2 : Memory.wf s2 := wf_foldl _ (fun s x hs => by simp [hs]) _ _ (by simp [s1, h_s])
  clear_value s2
  split <;> simp [h2]

@[simp] theorem wf_linkUp (s : State) (l w : Nat) (h_s : Memory.wf s) :
    Memory.wf (linkUp s l w) := by
  unfold linkUp
  simp (maxDischargeDepth := 12) [h_s]

@[simp] theorem wf_stepSix (s : State) (l : Nat) (h_s : Memory.wf s) :
    Memory.wf (stepSix s l) := by
  unfold stepSix
  dsimp only
  repeat' first | (simp (maxDischargeDepth := 12) [h_s, wf_mk]; done) | split | apply wf_foldl | intro _

@[simp] theorem wf_doKeepaliveSend (l : Nat) (s : State) (h_s : Memory.wf s) :
    Memory.wf (doKeepaliveSend l s) := by
  unfold doKeepaliveSend
  repeat' split
  all_goals simp (maxDischargeDepth := 12) [h_s, wf_mk]

@[simp] theorem wf_doKeepaliveFlit (l : Nat) (f : Flit) (s : State) (h_s : Memory.wf s) :
    Memory.wf (doKeepaliveFlit l f s) := by
  unfold doKeepaliveFlit
  try dsimp only
  repeat' first | (simp (maxDischargeDepth := 12) +contextual [h_s, wf_mk]; done) | split | (apply wf_foldl) | (apply wf_foldl1) | (apply wf_State_capture) | (simp (maxDischargeDepth := 12) +contextual [*, wf_mk]; done) | (intro _)

@[simp] theorem wf_doIdleFlit (l : Nat) (f : Flit) (s : State) (h_s : Memory.wf s) :
    Memory.wf (doIdleFlit l f s) := by
  unfold doIdleFlit
  try dsimp only
  repeat' first | (simp (maxDischargeDepth := 12) +contextual [h_s, wf_mk]; done) | split | (apply wf_foldl) | (apply wf_foldl1) | (apply wf_State_capture) | (simp (maxDischargeDepth := 12) +contextual [*, wf_mk]; done) | (intro _)

@[simp] theorem wf_doDataFlit (l : Nat) (f : Flit) (s : State) (h_s : Memory.wf s) :
    Memory.wf (doDataFlit l f s) := by
  unfold doDataFlit
  try dsimp only
  repeat' first | (simp (maxDischargeDepth := 12) +contextual [h_s, wf_mk]; done) | split | (apply wf_foldl) | (apply wf_foldl1) | (apply wf_State_capture) | (simp (maxDischargeDepth := 12) +contextual [*, wf_mk]; done) | (intro _)

@[simp] theorem wf_doDownFlit (l : Nat) (f : Flit) (s : State) (h_s : Memory.wf s) :
    Memory.wf (doDownFlit l f s) := by
  unfold doDownFlit
  repeat' split
  all_goals simp (maxDischargeDepth := 12) [h_s, wf_mk]

@[simp] theorem wf_lnkRecover (s : State) (l : Nat) (h_s : Memory.wf s) :
    Memory.wf (lnkRecover s l) := by
  unfold lnkRecover
  repeat' split
  all_goals simp (maxDischargeDepth := 12) [h_s, wf_mk]

@[simp] theorem wf_doLaneFailure (l lane : Nat) (s : State) (h_s : Memory.wf s) :
    Memory.wf (doLaneFailure l lane s) := by
  unfold doLaneFailure
  dsimp only
  repeat' first | (simp (maxDischargeDepth := 12) [h_s, wf_mk]; done) | split | apply wf_foldl | intro _

@[simp] theorem wf_doRecoveryPattern (l : Nat) (s : State) (h_s : Memory.wf s) :
    Memory.wf (doRecoveryPattern l s) := by
  unfold doRecoveryPattern
  repeat' split
  all_goals simp (maxDischargeDepth := 12) [h_s, wf_mk]

@[simp] theorem wf_doLinkRecoveryDone (l : Nat) (s : State) (h_s : Memory.wf s) :
    Memory.wf (doLinkRecoveryDone l s) := by
  unfold doLinkRecoveryDone
  dsimp only
  repeat' first | (simp (maxDischargeDepth := 12) [h_s, wf_mk]; done) | split | apply wf_foldl | intro _

@[simp] theorem wf_doLinkRecoveryTimeout (l : Nat) (s : State) (h_s : Memory.wf s) :
    Memory.wf (doLinkRecoveryTimeout l s) := by
  unfold doLinkRecoveryTimeout
  repeat' split
  all_goals simp (maxDischargeDepth := 12) [h_s, wf_mk]

@[simp] theorem wf_doKeepaliveWindowEnd (l : Nat) (seen : Bool) (s : State) (h_s : Memory.wf s) :
    Memory.wf (doKeepaliveWindowEnd l seen s) := by
  unfold doKeepaliveWindowEnd
  dsimp only
  repeat' first | (simp (maxDischargeDepth := 12) [h_s, wf_mk]; done) | split | apply wf_foldl | intro _

/-! ### StreamEv -/

@[simp] theorem wf_doBlockFetch (a : StreamId) (b : Nat) (s : State) (h_s : Memory.wf s) :
    Memory.wf (doBlockFetch a b s) := by
  unfold doBlockFetch
  try dsimp only
  repeat' first | (simp (maxDischargeDepth := 12) +contextual [h_s, wf_mk]; done) | split | (apply wf_foldl) | (apply wf_foldl1) | ((try have hx := wf_vread_eq (by assumption) ‹vread _ _ _ _  = (_, _)›); (try have hx := wf_vread_eq (by assumption) ‹vread _ _ _ _  = (_, _)›); (simp (maxDischargeDepth := 12) +contextual [*, wf_mk]; done)) | (simp (maxDischargeDepth := 12) +contextual [*, wf_mk]; done) | (intro _)

@[simp] theorem wf_doTileClaim (a : StreamId) (i : BitVec 32) (cluster core : Nat) (s : State) (h_s : Memory.wf s) :
    Memory.wf (doTileClaim a i cluster core s) := by
  unfold doTileClaim
  dsimp only
  repeat' first | (simp (maxDischargeDepth := 12) [h_s, wf_mk]; done) | split | apply wf_foldl | intro _

@[simp] theorem wf_tileOf (s : State) (a : StreamId) (f : InFlight) (t core : Nat) (e : StoreErr) (h_s : Memory.wf s) :
    Memory.wf (tileOf s a f t core e) := by
  unfold tileOf
  repeat' split
  all_goals simp (maxDischargeDepth := 12) [h_s, wf_mk]

@[simp] theorem wf_releaseItem (s : State) (a : StreamId) (i : BitVec 32) (t core : Nat) (h_s : Memory.wf s) :
    Memory.wf (releaseItem s a i t core) := by
  unfold releaseItem
  repeat' split
  all_goals simp (maxDischargeDepth := 12) [h_s, wf_mk]

@[simp] theorem wf_doTileEnd (a : StreamId) (i : BitVec 32) (t core : Nat) (e : StoreErr) (s : State) (h_s : Memory.wf s) :
    Memory.wf (doTileEnd a i t core e s) := by
  unfold doTileEnd
  repeat' split
  all_goals simp (maxDischargeDepth := 12) [h_s, wf_mk]

@[simp] theorem wf_orderedEffect (s : State) (a : StreamId) (f : InFlight) (h_s : Memory.wf s) :
    Memory.wf (orderedEffect s a f) := by
  unfold orderedEffect
  repeat' split
  all_goals simp (maxDischargeDepth := 12) [h_s, wf_mk]

@[simp] theorem wf_countComplete (s : State) (a : StreamId) (f : InFlight) (h_s : Memory.wf s) :
    Memory.wf (countComplete s a f) := by
  unfold countComplete
  dsimp only
  repeat' first | (simp (maxDischargeDepth := 12) [h_s, wf_mk]; done) | split | apply wf_foldl | intro _

@[simp] theorem wf_doInstructionComplete (a : StreamId) (i : BitVec 32) (s : State) (h_s : Memory.wf s) :
    Memory.wf (doInstructionComplete a i s) := by
  unfold doInstructionComplete
  dsimp only
  repeat' first | (simp (maxDischargeDepth := 12) [h_s, wf_mk]; done) | split | apply wf_foldl | intro _

@[simp] theorem wf_doFenceWatchdogExpiry (a : StreamId) (s : State) (h_s : Memory.wf s) :
    Memory.wf (doFenceWatchdogExpiry a s) := by
  unfold doFenceWatchdogExpiry
  dsimp only
  repeat' first | (simp (maxDischargeDepth := 12) [h_s, wf_mk]; done) | split | apply wf_foldl | intro _

end Sys2Proof.Machine
end

