-- ==== Sys2Proof/Laws/KeepFeed.lean ====
section
/-! SUPPORT. The canonical form of the stores is kept by pipes, intake and jobs. -/

namespace Sys2Proof.Machine

/-! ### Pipes -/

@[simp] theorem wf_setPipe (s : State) (m n : Nat) (p : Pipe) (h_s : Memory.wf s) :
    Memory.wf (setPipe s m n p) := by
  unfold setPipe
  simp (maxDischargeDepth := 12) [h_s, wf_mk]

@[simp] theorem wf_modPipe (s : State) (m n : Nat) (f : Pipe → Pipe) (h_s : Memory.wf s) :
    Memory.wf (modPipe s m n f) := by
  unfold modPipe
  simp (maxDischargeDepth := 12) [h_s]

@[simp] theorem wf_setRing (s : State) (m n st : Nat) (h_s : Memory.wf s) :
    Memory.wf (setRing s m n st) := by
  unfold setRing
  simp (maxDischargeDepth := 12) [h_s]

@[simp] theorem wf_setVocabFree (s : State) (m : Nat) (h_s : Memory.wf s) :
    Memory.wf (setVocabFree s m) := by
  unfold setVocabFree
  simp (maxDischargeDepth := 12) [h_s]

@[simp] theorem wf_ringEvent (s : State) (m n code v w1 : Nat) (h_s : Memory.wf s) :
    Memory.wf (ringEvent s m n code v w1) := by
  unfold ringEvent
  simp (maxDischargeDepth := 12) [h_s]

@[simp] theorem wf_faultPulls (s : State) (m n : Nat) (h_s : Memory.wf s) :
    Memory.wf (faultPulls s m n) := by
  unfold faultPulls
  try dsimp only
  repeat' first | (simp (maxDischargeDepth := 12) +contextual [h_s, wf_mk]; done) | split | (apply wf_foldl) | (apply wf_foldl1) | (simp (maxDischargeDepth := 12) +contextual [*, wf_mk]; done) | (intro _)

@[simp] theorem wf_haltPipe (s : State) (m n st : Nat) (h_s : Memory.wf s) :
    Memory.wf (haltPipe s m n st) := by
  unfold haltPipe
  simp (maxDischargeDepth := 12) [h_s]

@[simp] theorem wf_failPipe (s : State) (m n cause : Nat) (h_s : Memory.wf s) :
    Memory.wf (failPipe s m n cause) := by
  unfold failPipe
  repeat' split
  all_goals simp (maxDischargeDepth := 12) [h_s, wf_mk]

@[simp] theorem wf_failPipesOf (s : State) (p : Nat) (h_s : Memory.wf s) :
    Memory.wf (failPipesOf s p) := by
  unfold failPipesOf
  try dsimp only
  repeat' first | (simp (maxDischargeDepth := 12) +contextual [h_s, wf_mk]; done) | split | (apply wf_foldl) | (apply wf_foldl1) | (simp (maxDischargeDepth := 12) +contextual [*, wf_mk]; done) | (intro _)

@[simp] theorem wf_shardHeader (s : State) (p : Pipe) (w : Word) (h : Memory.wf s) :
    Memory.wf (shardHeader s p w).1 := by
  unfold shardHeader
  extract_lets base
  have hv := wf_vread s base 64 (mediaReader p) h
  split
  · exact h
  · split <;> rename_i e <;> rw [e] at hv <;> exact hv

theorem wf_shardHeader_eq {s : State} {p : Pipe} {w : Word} {t9 : State} {x9 : Option (List Byte)} (h_s : Memory.wf s) (e9 : shardHeader s p w = (t9, x9)) : Memory.wf t9 := by
  have h := wf_shardHeader s p w h_s
  rw [e9] at h
  exact h

@[simp] theorem wf_intakeFail (s : State) (m n : Nat) (p : Pipe) (x : Sample) (drop : Bool) (sid : Nat) (h_s : Memory.wf s) :
    Memory.wf (intakeFail s m n p x drop sid) := by
  unfold intakeFail
  simp (maxDischargeDepth := 12) [h_s]

@[simp] theorem wf_liveDrop (s : State) (m n : Nat) (p : Pipe) (x : Sample) (reason : Nat) (h_s : Memory.wf s) :
    Memory.wf (liveDrop s m n p x reason) := by
  unfold liveDrop
  simp (maxDischargeDepth := 12) [h_s]

@[simp] theorem wf_captFail (s : State) (m n pos cause : Nat) (h_s : Memory.wf s) :
    Memory.wf (captFail s m n pos cause) := by
  unfold captFail
  try dsimp only
  repeat' first | (simp (maxDischargeDepth := 12) +contextual [h_s, wf_mk]; done) | split | (apply wf_foldl) | (apply wf_foldl1) | (apply wf_State_capture) | (simp (maxDischargeDepth := 12) +contextual [*, wf_mk]; done) | (intro _)

@[simp] theorem wf_liveFlush (s : State) (m n : Nat) (p : Pipe) (b pos : Nat) (h_s : Memory.wf s) :
    Memory.wf (liveFlush s m n p b pos) := by
  unfold liveFlush
  simp (maxDischargeDepth := 12) [h_s]

@[simp] theorem wf_joinBucket (s : State) (m n : Nat) (x : Sample) (h_s : Memory.wf s) :
    Memory.wf (joinBucket s m n x) := by
  unfold joinBucket
  dsimp only
  repeat' first | (simp (maxDischargeDepth := 12) [h_s, wf_mk]; done) | split | apply wf_foldl | intro _

@[simp] theorem wf_drainPos (k : Nat) : ∀ (m n : Nat) (s : State), Memory.wf s → Memory.wf (drainPos k m n s) := by
  induction k with
  | zero => intro m n s h; exact h
  | succ k ih =>
    intro m n s h
    unfold drainPos
    dsimp only
    repeat' first | (simp (maxDischargeDepth := 12) [h, wf_mk]; done) | split | (apply ih)

@[simp] theorem wf_drainRing (s : State) (m n : Nat) (h_s : Memory.wf s) :
    Memory.wf (drainRing s m n) := by
  unfold drainRing
  simp (maxDischargeDepth := 12) [h_s]

@[simp] theorem wf_failSample (s : State) (m n : Nat) (x : Sample) (cause : Nat) (h_s : Memory.wf s) :
    Memory.wf (failSample s m n x cause) := by
  unfold failSample
  dsimp only
  repeat' first | (simp (maxDischargeDepth := 12) [h_s, wf_mk]; done) | split | apply wf_foldl | intro _

/-! ### Intake -/

@[simp] theorem wf_ringErr (s : State) (m n : Nat) (h_s : Memory.wf s) :
    Memory.wf (ringErr s m n) := by
  unfold ringErr
  simp (maxDischargeDepth := 12) [h_s]

@[simp] theorem wf_clearRingCnts (s : State) (m n : Nat) (h_s : Memory.wf s) :
    Memory.wf (clearRingCnts s m n) := by
  unfold clearRingCnts
  try dsimp only
  repeat' first | (simp (maxDischargeDepth := 12) +contextual [h_s, wf_mk]; done) | split | (apply wf_foldl) | (apply wf_foldl1) | (simp (maxDischargeDepth := 12) +contextual [*, wf_mk]; done) | (intro _)

@[simp] theorem wf_acceptStart (s : State) (m n : Nat) (p : Pipe) (h : Memory.wf s) :
    Memory.wf (acceptStart s m n p) := by
  unfold acceptStart
  extract_lets s1 s2 s3 s4
  have h1 : Memory.wf s1 := by simp [s1, h]
  have h2 : Memory.wf s2 := h1
  have h3 : Memory.wf s3 := wf_State_setFld _ _ _ _ _ (wf_State_setFld _ _ _ _ _ (wf_setRing _ _ _ _ h2))
  have h4 : Memory.wf s4 := wf_foldl _ (fun s x hs => wf_State_setReg _ _ _ hs) _ _ h3
  exact wf_setVocabFree _ _ (wf_clearRingCnts _ _ _ h4)

@[simp] theorem wf_doAtzStart (m n : Nat) (s : State) (h_s : Memory.wf s) :
    Memory.wf (doAtzStart m n s) := by
  unfold doAtzStart
  repeat' split
  all_goals simp (maxDischargeDepth := 12) [h_s, wf_mk]

@[simp] theorem wf_doAtzStop (m n : Nat) (s : State) (h_s : Memory.wf s) :
    Memory.wf (doAtzStop m n s) := by
  unfold doAtzStop
  repeat' split
  all_goals simp (maxDischargeDepth := 12) [h_s, wf_mk]

@[simp] theorem wf_doPipelineIdle (m n : Nat) (s : State) (h_s : Memory.wf s) :
    Memory.wf (doPipelineIdle m n s) := by
  unfold doPipelineIdle
  repeat' split
  all_goals simp (maxDischargeDepth := 12) [h_s, wf_mk]

@[simp] theorem wf_doSubTailWrite (m n : Nat) (v : BitVec 32) (s : State) (h_s : Memory.wf s) :
    Memory.wf (doSubTailWrite m n v s) := by
  unfold doSubTailWrite
  repeat' split
  all_goals simp (maxDischargeDepth := 12) [h_s, wf_mk]

@[simp] theorem wf_pushSubmission (m n : Nat) (bad : Nat) (s : State) (h_s : Memory.wf s) :
    Memory.wf (pushSubmission m n bad s) := by
  unfold pushSubmission
  dsimp only
  repeat' first | (simp (maxDischargeDepth := 12) [h_s, wf_mk]; done) | split | apply wf_foldl | intro _

theorem wf_takeEntry_some {s : State} {m n : Nat} {e : QEntry} {t : State} (h : Memory.wf s)
    (he : takeEntry s m n = some (e, t)) : Memory.wf t := by
  unfold takeEntry at he
  dsimp only at he
  split at he
  · cases he; simp [h]
  · obtain ⟨⟨x, u⟩, hx, he⟩ := Option.map_eq_some_iff.mp he
    cases he
    have := wf_queueTake_some h hx
    simp [this]

@[simp] theorem wf_assignPositions (s : State) (m n : Nat) (w : List Word) (h : List Byte) (h_s : Memory.wf s) :
    Memory.wf (assignPositions s m n w h) := by
  unfold assignPositions
  dsimp only
  repeat' first | (simp (maxDischargeDepth := 12) [h_s, wf_mk]; done) | split | apply wf_foldl | intro _

@[simp] theorem wf_doSubmissionTake (m n : Nat) (s : State) (h : Memory.wf s) :
    Memory.wf (doSubmissionTake m n s) := by
  unfold doSubmissionTake
  extract_lets p
  split
  · exact h
  · split
    · exact h
    · rename_i e s1 he
      have h1 := wf_takeEntry_some h he
      clear he
      extract_lets w rest
      clear_value w rest
      split
      · simp [h1]
      · split
        · split <;> simp [h1]
        · split
          · simp [h1]
          · split
            · rename_i hs
              simp [wf_shardHeader_eq h1 hs]
            · rename_i hs
              simp [wf_shardHeader_eq h1 hs]

@[simp] theorem wf_admitSample (s : State) (m n : Nat) (x : Sample) (h_s : Memory.wf s) :
    Memory.wf (admitSample s m n x) := by
  unfold admitSample
  try dsimp only
  repeat' first | (simp (maxDischargeDepth := 12) +contextual [h_s, wf_mk]; done) | split | (apply wf_foldl) | (apply wf_foldl1) | ((try have hx := wf_vread_eq (by assumption) ‹vread _ _ _ _  = (_, _)›); (try have hx := wf_vread_eq (by assumption) ‹vread _ _ _ _  = (_, _)›); (simp (maxDischargeDepth := 12) +contextual [*, wf_mk]; done)) | (simp (maxDischargeDepth := 12) +contextual [*, wf_mk]; done) | (intro _)

@[simp] theorem wf_doSampleStart (m n pos : Nat) (s : State) (h : Memory.wf s) :
    Memory.wf (doSampleStart m n pos s) := by
  unfold doSampleStart
  extract_lets p x
  clear_value x
  split
  · split
    · simp [h]
    · extract_lets a
      split
      · rename_i hs
        simp [wf_vread_eq h hs]
      · rename_i hs
        have h1 := wf_vread_eq h hs
        extract_lets y
        split <;> simp [h1]
  · exact h

@[simp] theorem wf_resolution (s : State) (p : Pipe) (x : Sample) (h_s : Memory.wf s) :
    Memory.wf (resolution s p x).1 := by
  unfold resolution
  try dsimp only
  repeat' first | (simp (maxDischargeDepth := 12) +contextual [h_s, wf_mk]; done) | split | (apply wf_foldl) | (apply wf_foldl1) | ((try have hx := wf_vread_eq (by assumption) ‹vread _ _ _ _  = (_, _)›); (try have hx := wf_vread_eq (by assumption) ‹vread _ _ _ _  = (_, _)›); (simp (maxDischargeDepth := 12) +contextual [*, wf_mk]; done)) | (simp (maxDischargeDepth := 12) +contextual [*, wf_mk]; done) | (intro _)

theorem wf_resolution_eq {s : State} {p : Pipe} {x : Sample} {t9 : State} {x9 : (Nat ⊕ Sample)} (h_s : Memory.wf s) (e9 : resolution s p x = (t9, x9)) : Memory.wf t9 := by
  have h := wf_resolution s p x h_s
  rw [e9] at h
  exact h

@[simp] theorem wf_doWorkBudgetExceeded (m n pos : Nat) (s : State) (h_s : Memory.wf s) :
    Memory.wf (doWorkBudgetExceeded m n pos s) := by
  unfold doWorkBudgetExceeded
  dsimp only
  repeat' first | (simp (maxDischargeDepth := 12) [h_s, wf_mk]; done) | split | apply wf_foldl | intro _

@[simp] theorem wf_resolveSample (s : State) (m n : Nat) (x : Sample) (h_s : Memory.wf s) :
    Memory.wf (resolveSample s m n x) := by
  unfold resolveSample
  dsimp only
  repeat' first | (simp (maxDischargeDepth := 12) [h_s, wf_mk]; done) | split | apply wf_foldl | intro _

@[simp] theorem wf_doSampleResolved (m n pos : Nat) (s : State) (h_s : Memory.wf s) :
    Memory.wf (doSampleResolved m n pos s) := by
  unfold doSampleResolved
  dsimp only
  repeat' first | (simp (maxDischargeDepth := 12) [h_s, wf_mk]; done) | split | apply wf_foldl | intro _

@[simp] theorem wf_reserveEntry (s : State) (p : Pipe) (a : Nat) (h : Memory.wf s) :
    Memory.wf (reserveEntry s p a).1 := by
  unfold reserveEntry
  split
  · exact h
  · split
    · exact h
    · split
      · rename_i hs
        exact wf_shardHeader_eq h hs
      · rename_i hs
        exact wf_shardHeader_eq h hs

theorem wf_reserveEntry_eq {s : State} {p : Pipe} {a : Nat} {t9 : State} {x9 : Option (Nat × Nat)} (h : Memory.wf s)
    (e9 : reserveEntry s p a = (t9, x9)) : Memory.wf t9 := by
  have h := wf_reserveEntry s p a h
  rw [e9] at h
  exact h

@[simp] theorem wf_reserveWarn (s : State) (m n pos : Nat) (h_s : Memory.wf s) :
    Memory.wf (reserveWarn s m n pos) := by
  unfold reserveWarn
  dsimp only
  repeat' first | (simp (maxDischargeDepth := 12) [h_s, wf_mk]; done) | split | apply wf_foldl | intro _

@[simp] theorem wf_doReserveAssign (m n pos : Nat) (s : State) (h : Memory.wf s) :
    Memory.wf (doReserveAssign m n pos s) := by
  unfold doReserveAssign
  extract_lets p cur
  clear_value cur
  split
  · rename_i x _ _
    have h1 : Memory.wf (intakeFail (modPipe s m n fun p => putSample p { x with stage := .dropped }) m n p x true 0) :=
      wf_intakeFail _ _ _ _ _ _ _ (wf_modPipe _ _ _ _ h)
    have h2 : Memory.wf (reserveWarn (s.setFld (rRingRes m n) 31 0 (cur + 1)) m n pos) :=
      wf_reserveWarn _ _ _ _ (wf_State_setFld _ _ _ _ _ h)
    split
    · exact h
    · split
      · exact wf_drainRing _ _ _ (wf_cntInc _ _ _ _ (wf_ringEvent _ _ _ _ _ _ h1))
      · have h3 := wf_reserveEntry _ p (pRes p + 16 * cur) h2
        dsimp only
        generalize reserveEntry _ _ _ = e at h3 ⊢
        rcases e with ⟨s2, _ | ⟨a, b⟩⟩
        · exact wf_failSample _ _ _ _ _ (wf_intakeFail _ _ _ _ _ _ _ h3)
        · exact wf_modPipe _ _ _ _ (wf_intakeFail _ _ _ _ _ _ _ h3)
  · exact h

@[simp] theorem wf_doBatchPublish (m n : Nat) (s : State) (h_s : Memory.wf s) :
    Memory.wf (doBatchPublish m n s) := by
  unfold doBatchPublish
  dsimp only
  repeat' first | (simp (maxDischargeDepth := 12) [h_s, wf_mk]; done) | split | apply wf_foldl | intro _

@[simp] theorem wf_doEodFlush (m n : Nat) (s : State) (h_s : Memory.wf s) :
    Memory.wf (doEodFlush m n s) := by
  unfold doEodFlush
  dsimp only
  repeat' first | (simp (maxDischargeDepth := 12) [h_s, wf_mk]; done) | split | apply wf_foldl | intro _

@[simp] theorem wf_keepFrame (s : State) (m n : Nat) (x : Sample) (h_s : Memory.wf s) :
    Memory.wf (keepFrame s m n x) := by
  unfold keepFrame
  simp (maxDischargeDepth := 12) [h_s]

@[simp] theorem wf_dropFrame (s : State) (m n : Nat) (x : Sample) (h_s : Memory.wf s) :
    Memory.wf (dropFrame s m n x) := by
  unfold dropFrame
  simp (maxDischargeDepth := 12) [h_s]

@[simp] theorem wf_doLiveFrameTake (m n : Nat) (s : State) (h : Memory.wf s) :
    Memory.wf (doLiveFrameTake m n s) := by
  unfold doLiveFrameTake
  extract_lets p
  split
  · exact h
  · split
    · exact h
    · rename_i e s1 he
      have h1 := wf_takeEntry_some h he
      clear he
      extract_lets w x
      clear_value w x
      split
      · simp [h1]
      · split
        · simp [h1]
        · split
          · split
            · exact h1
            · extract_lets sid s2
              have h2 : Memory.wf s2 := by simp [s2, h1]
              clear_value s2
              repeat' split
              all_goals simp [h1, h2]
          · split <;> simp [h1]

@[simp] theorem wf_doLiveFlushTimeout (m n b : Nat) (s : State) (h : Memory.wf s) :
    Memory.wf (doLiveFlushTimeout m n b s) := by
  unfold doLiveFlushTimeout
  extract_lets p
  clear_value p
  split
  · exact h
  · split
    · exact h
    · exact wf_liveFlush _ _ _ _ _ _ (wf_setPipe _ _ _ _ h)

@[simp] theorem wf_doAtomizerDieFault (m : Nat) (unit : BitVec 8) (third : Bool) (s : State) (h : Memory.wf s) :
    Memory.wf (doAtomizerDieFault m unit third s) := by
  unfold doAtomizerDieFault
  split
  · exact h
  · extract_lets s1 s2 s3 src
    have h2 : Memory.wf s2 := wf_foldl _ (fun s x hs => wf_failPipe _ _ _ _ hs) _ _ (wf_errRecord _ _ h)
    have h3 : Memory.wf s3 := wf_State_setRBit _ _ _ _ (wf_State_setRBit _ _ _ _ h2)
    clear_value s3
    split
    · exact wf_same h3 rfl rfl rfl rfl
    · exact h3

@[simp] theorem wf_doAtomizerDieResetDone (m : Nat) (s : State) (h : Memory.wf s) :
    Memory.wf (doAtomizerDieResetDone m s) := by
  unfold doAtomizerDieResetDone
  split
  · exact h
  · extract_lets s1
    have h1 : Memory.wf s1 := wf_foldl _ (fun s x hs => wf_modPipe _ _ _ _ hs) _ _ h
    exact wf_setVocabFree _ _ (wf_State_setRBit _ _ _ _ (wf_State_setRBit _ _ _ _ h1))

/-! ### Intk -/

@[simp] theorem wf_bindRing (s : State) (m n : Nat) (a : StreamId) (h_s : Memory.wf s) :
    Memory.wf (bindRing s m n a) := by
  unfold bindRing
  simp (maxDischargeDepth := 12) [h_s]

@[simp] theorem wf_slgPull (s : State) (a : StreamId) (m n seq : Nat) (b : Batch) (h_s : Memory.wf s) :
    Memory.wf (slgPull s a m n seq b) := by
  unfold slgPull
  simp (maxDischargeDepth := 12) [h_s]

@[simp] theorem wf_lowWater (s : State) (m n seq : Nat) (h_s : Memory.wf s) :
    Memory.wf (lowWater s m n seq) := by
  unfold lowWater
  dsimp only
  repeat' first | (simp (maxDischargeDepth := 12) [h_s, wf_mk]; done) | split | apply wf_foldl | intro _

@[simp] theorem wf_bindBatch (s : State) (a : StreamId) (w : InstrWord) (p : Pipe) (b : Batch) (h_s : Memory.wf s) :
    Memory.wf (bindBatch s a w p b) := by
  unfold bindBatch
  repeat' split
  all_goals simp (maxDischargeDepth := 12) [h_s, wf_mk]

@[simp] theorem wf_takeBatch (s : State) (a : StreamId) (w : InstrWord) (b : Batch) (h_s : Memory.wf s) :
    Memory.wf (takeBatch s a w b) := by
  unfold takeBatch
  simp (maxDischargeDepth := 12) [h_s]

@[simp] theorem wf_doPull (a : StreamId) (w : InstrWord) (s : State) (h_s : Memory.wf s) :
    Memory.wf (doPull a w s) := by
  unfold doPull
  try dsimp only
  repeat' first | (simp (maxDischargeDepth := 12) +contextual [h_s, wf_mk]; done) | split | (apply wf_foldl) | (apply wf_foldl1) | (apply wf_withWord) | (simp (maxDischargeDepth := 12) +contextual [*, wf_mk]; done) | (intro _)

@[simp] theorem wf_doRel (a : StreamId) (w : InstrWord) (s : State) (h_s : Memory.wf s) :
    Memory.wf (doRel a w s) := by
  unfold doRel
  try dsimp only
  repeat' first | (simp (maxDischargeDepth := 12) +contextual [h_s, wf_mk]; done) | split | (apply wf_foldl) | (apply wf_foldl1) | (apply wf_withWordAfter) | (apply wf_withWord) | (simp (maxDischargeDepth := 12) +contextual [*, wf_mk]; done) | (intro _)

/-! ### Wait -/

@[simp] theorem wf_redo (a : StreamId) (w : InstrWord) (s : State) (h_s : Memory.wf s) :
    Memory.wf (redo a w s) := by
  unfold redo
  repeat' split
  all_goals simp (maxDischargeDepth := 12) [h_s, wf_mk]

@[simp] theorem wf_doWaitSatisfied (a : StreamId) (s : State) (h_s : Memory.wf s) :
    Memory.wf (doWaitSatisfied a s) := by
  unfold doWaitSatisfied
  dsimp only
  repeat' first | (simp (maxDischargeDepth := 12) [h_s, wf_mk]; done) | split | apply wf_foldl | intro _

/-! ### Jobs -/

@[simp] theorem wf_wantLine (s : State) (l : Nat) (h_s : Memory.wf s) :
    Memory.wf (wantLine s l) := by
  unfold wantLine
  repeat' split
  all_goals simp (maxDischargeDepth := 12) [h_s, wf_mk]

@[simp] theorem wf_wantRecord (s : State) (i : Nat) (h_s : Memory.wf s) :
    Memory.wf (wantRecord s i) := by
  unfold wantRecord
  dsimp only
  repeat' first | (simp (maxDischargeDepth := 12) [h_s, wf_mk]; done) | split | apply wf_foldl | intro _

@[simp] theorem wf_scanTable (s : State) (h_s : Memory.wf s) :
    Memory.wf (scanTable s) := by
  unfold scanTable
  try dsimp only
  repeat' first | (simp (maxDischargeDepth := 12) +contextual [h_s, wf_mk]; done) | split | (apply wf_foldl) | (apply wf_foldl1) | (simp (maxDischargeDepth := 12) +contextual [*, wf_mk]; done) | (intro _)

@[simp] theorem wf_startScan (s : State) (h_s : Memory.wf s) :
    Memory.wf (startScan s) := by
  unfold startScan
  repeat' split
  all_goals simp (maxDischargeDepth := 12) [h_s, wf_mk]

@[simp] theorem wf_pushStep (s : State) (j : Job) (h_s : Memory.wf s) :
    Memory.wf (pushStep s j) := by
  unfold pushStep
  try dsimp only
  repeat' first | (simp (maxDischargeDepth := 12) +contextual [h_s, wf_mk]; done) | split | (apply wf_foldl) | (apply wf_foldl1) | (apply wf_State_capture) | (simp (maxDischargeDepth := 12) +contextual [*, wf_mk]; done) | (intro _)

@[simp] theorem wf_addJob (s : State) (j : Job) (h_s : Memory.wf s) :
    Memory.wf (addJob s j) := by
  unfold addJob
  simp (maxDischargeDepth := 12) [h_s, wf_mk]

@[simp] theorem wf_jobFinal (s : State) (j : Job) (st progress err : Nat) (h_s : Memory.wf s) :
    Memory.wf (jobFinal s j st progress err) := by
  unfold jobFinal
  repeat' split
  all_goals simp (maxDischargeDepth := 12) [h_s, wf_mk]

@[simp] theorem wf_doJobTake (i : Nat) (s : State) (h_s : Memory.wf s) :
    Memory.wf (doJobTake i s) := by
  unfold doJobTake
  dsimp only
  repeat' first | (simp (maxDischargeDepth := 12) [h_s, wf_mk]; done) | split | apply wf_foldl | intro _

@[simp] theorem wf_doJobTableScan (s : State) (h_s : Memory.wf s) :
    Memory.wf (doJobTableScan s) := by
  unfold doJobTableScan
  repeat' split
  all_goals simp (maxDischargeDepth := 12) [h_s, wf_mk]

@[simp] theorem wf_entryCheck (j : Job) (s : State) (e : List Byte) (h : Memory.wf s) :
    Memory.wf (entryCheck j s e).1 := by
  unfold entryCheck
  extract_lets list n
  split
  · exact h
  · split <;> rename_i hs <;> exact wf_vread_eq h hs

@[simp] theorem wf_serveCheck (s : State) (j : Job) (h : Memory.wf s) :
    Memory.wf (serveCheck s j).1 := by
  unfold serveCheck
  split
  · exact h
  · split
    · rename_i hs
      exact wf_vread_eq h hs
    · rename_i hs
      refine wf_foldl1 _ (fun r x hr => ?_) _ _ (wf_vread_eq h hs)
      split
      · exact wf_entryCheck _ _ _ hr
      · exact hr

@[simp] theorem wf_stepCheck (s : State) (j : Job) (h : Memory.wf s) :
    Memory.wf (stepCheck s j).1 := by
  unfold stepCheck
  repeat' split
  all_goals first | exact h | exact wf_serveCheck _ _ h

@[simp] theorem wf_decideFor (s : State) (p x : Nat) (h_s : Memory.wf s) :
    Memory.wf (decideFor s p x) := by
  unfold decideFor
  repeat' split
  all_goals simp (maxDischargeDepth := 12) [h_s, wf_mk]

@[simp] theorem wf_doJobStep (i : Nat) (s : State) (h : Memory.wf s) :
    Memory.wf (doJobStep i s) := by
  unfold doJobStep
  split
  · exact h
  · extract_lets c
    have hc : Memory.wf c.1 := wf_stepCheck _ _ h
    clear_value c
    split <;> simp [hc]

@[simp] theorem wf_slgJob (s : State) (j : Job) (h_s : Memory.wf s) :
    Memory.wf (slgJob s j) := by
  unfold slgJob
  simp (maxDischargeDepth := 12) [h_s]

@[simp] theorem wf_doStepStart (p : Fin 16) (x : Fin 8) (s : State) (h_s : Memory.wf s) :
    Memory.wf (doStepStart p x s) := by
  unfold doStepStart
  dsimp only
  repeat' first | (simp (maxDischargeDepth := 12) [h_s, wf_mk]; done) | split | apply wf_foldl | intro _

@[simp] theorem wf_abortStep (s : State) (j : Job) (err : Nat) (h_s : Memory.wf s) :
    Memory.wf (abortStep s j err) := by
  unfold abortStep
  repeat' split
  all_goals simp (maxDischargeDepth := 12) [h_s, wf_mk]

@[simp] theorem wf_stopCtx (s : State) (p x : Nat) (h_s : Memory.wf s) :
    Memory.wf (stopCtx s p x) := by
  unfold stopCtx
  try dsimp only
  repeat' first | (simp (maxDischargeDepth := 12) +contextual [h_s, wf_mk]; done) | split | (apply wf_foldl) | (apply wf_foldl1) | (simp (maxDischargeDepth := 12) +contextual [*, wf_mk]; done) | (intro _)

@[simp] theorem wf_doJobAbort (i : Nat) (s : State) (h_s : Memory.wf s) :
    Memory.wf (doJobAbort i s) := by
  unfold doJobAbort
  dsimp only
  repeat' first | (simp (maxDischargeDepth := 12) [h_s, wf_mk]; done) | split | apply wf_foldl | intro _

@[simp] theorem wf_longChecked (s : State) (j : Job) (err : Nat) (h_s : Memory.wf s) :
    Memory.wf (longChecked s j err) := by
  unfold longChecked
  repeat' split
  all_goals simp (maxDischargeDepth := 12) [h_s, wf_mk]

@[simp] theorem wf_longProgress (s : State) (j : Job) (n : Nat) (h_s : Memory.wf s) :
    Memory.wf (longProgress s j n) := by
  unfold longProgress
  simp (maxDischargeDepth := 12) [h_s]

@[simp] theorem wf_doQuantumExpiry (p : Nat) (s : State) (h_s : Memory.wf s) :
    Memory.wf (doQuantumExpiry p s) := by
  unfold doQuantumExpiry
  repeat' split
  all_goals simp (maxDischargeDepth := 12) [h_s, wf_mk]

@[simp] theorem wf_dropBuffers (s : State) (p : Nat) (h : Memory.wf s) :
    Memory.wf (dropBuffers s p) := by
  unfold dropBuffers
  exact wf_foldl _ (fun s x hs => wf_modCtx _ _ _ _ hs) _ _ h

@[simp] theorem wf_doPreemptionDrained (p : Nat) (s : State) (h : Memory.wf s) :
    Memory.wf (doPreemptionDrained p s) := by
  unfold doPreemptionDrained
  extract_lets q
  clear_value q
  split
  · exact h
  · split
    · exact h
    · rename_i x _ _
      extract_lets s1
      have h1 : Memory.wf s1 := wf_dropBuffers _ _ (wf_saveCtx _ _ _ h)
      clear_value s1
      split
      · rename_i y _
        extract_lets s2
        have h2 : Memory.wf s2 := wf_scheduleCtx _ _ _ h1
        exact wf_ite h2 (wf_cntInc _ _ _ _ h2)
      · exact wf_setPart _ _ _ h1

end Sys2Proof.Machine
end

