-- ==== Sys2Proof/Laws/KeepBoard.lean ====
section
/-! SUPPORT. The canonical form of the stores is kept by reset, memory, die messages, queues, guests and partitions. -/

namespace Sys2Proof.Machine

/-! ### Boot -/

@[simp] theorem wf_setSlot (s : State) (ty : Nat) (v : Option (List Byte)) (h_s : Memory.wf s) :
    Memory.wf (setSlot s ty v) := by
  unfold setSlot
  simp (maxDischargeDepth := 12) [h_s, wf_mk]

@[simp] theorem wf_extend (s : State) (i kind : Nat) (d rec : List Byte) (h_s : Memory.wf s) :
    Memory.wf (extend s i kind d rec) := by
  unfold extend
  simp (maxDischargeDepth := 12) [h_s, wf_mk]

@[simp] theorem wf_extendRec (s : State) (i kind : Nat) (rec : List Byte) (h_s : Memory.wf s) :
    Memory.wf (extendRec s i kind rec) := by
  unfold extendRec
  simp (maxDischargeDepth := 12) [h_s]

@[simp] theorem wf_extendImage (s : State) (i : Nat) (b : Option (List Byte)) (h_s : Memory.wf s) :
    Memory.wf (extendImage s i b) := by
  unfold extendImage
  repeat' split
  all_goals simp (maxDischargeDepth := 12) [h_s, wf_mk]

@[simp] theorem wf_extendDebug (s : State) (level port ev flags : Nat) (tok : List Byte) (h_s : Memory.wf s) :
    Memory.wf (extendDebug s level port ev flags tok) := by
  unfold extendDebug
  simp (maxDischargeDepth := 12) [h_s]

@[simp] theorem wf_extendConfig (s : State) (h_s : Memory.wf s) :
    Memory.wf (extendConfig s) := by
  unfold extendConfig
  simp (maxDischargeDepth := 12) [h_s]

@[simp] theorem wf_repairWrite (s : State) (f : Repair → Repair) (h_s : Memory.wf s) :
    Memory.wf (repairWrite s f) := by
  unfold repairWrite
  dsimp only
  repeat' first | (simp (maxDischargeDepth := 12) [h_s, wf_mk]; done) | split | apply wf_foldl | intro _

@[simp] theorem wf_repairAtReset (s : State) (h_s : Memory.wf s) :
    Memory.wf (repairAtReset s).1 := by
  unfold repairAtReset
  dsimp only
  repeat' first | (simp (maxDischargeDepth := 12) [h_s, wf_mk]; done) | split | apply wf_foldl | intro _

theorem wf_repairAtReset_eq {s : State} {t9 : State} {x9 : List Nat} (h_s : Memory.wf s) (e9 : repairAtReset s = (t9, x9)) : Memory.wf t9 := by
  have h := wf_repairAtReset s h_s
  rw [e9] at h
  exact h

@[simp] theorem wf_fieldRepairs (f : BoardFacts) (s : State) (h_s : Memory.wf s) :
    Memory.wf (fieldRepairs f s) := by
  unfold fieldRepairs
  dsimp only
  repeat' first | (simp (maxDischargeDepth := 12) [h_s, wf_mk]; done) | split | apply wf_foldl | intro _

@[simp] theorem wf_firmwareMap (s : State) (r : Nat) (h_s : Memory.wf s) :
    Memory.wf (firmwareMap s r) := by
  unfold firmwareMap
  simp (maxDischargeDepth := 12) [h_s]

@[simp] theorem wf_assignDie (s : State) (d : Nat) (h_s : Memory.wf s) :
    Memory.wf (assignDie s d) := by
  unfold assignDie
  simp (maxDischargeDepth := 12) [h_s, wf_mk]

@[simp] theorem wf_assignSite (s : State) (m : Nat) (h_s : Memory.wf s) :
    Memory.wf (assignSite s m) := by
  unfold assignSite
  simp (maxDischargeDepth := 12) [h_s, wf_mk]

@[simp] theorem wf_dieRegs (f : BoardFacts) (r : Repair) (allow : Option (List Byte)) (s : State) (d : Nat) (h_s : Memory.wf s) :
    Memory.wf (dieRegs f r allow s d) := by
  unfold dieRegs
  simp (maxDischargeDepth := 12) [h_s, wf_mk]

@[simp] theorem wf_hubRegs (f : BoardFacts) (r : Repair) (out : List Nat) (atzOk : Bool) (allow : Option (List Byte)) (s : State)
    (h_s : Memory.wf s) : Memory.wf (hubRegs f r out atzOk allow s) := by
  unfold hubRegs
  extract_lets ds clus media s1 s2 s3 s4 s5
  have h4 : Memory.wf s4 := wf_foldl _ (fun s x hs => by simp [hs]) _ _
    (wf_State_setFld _ _ _ _ _ (wf_State_setFld _ _ _ _ _ (wf_State_setFld _ _ _ _ _ (wf_State_setReg _ _ _ h_s))))
  have h5 : Memory.wf s5 := wf_State_setReg _ _ _ h4
  exact wf_firmwareMap _ _ (wf_State_setReg _ _ _ h5)

@[simp] theorem wf_modTables (f : BoardFacts) (r : Repair) (allow : Option (List Byte)) (s : State) (h_s : Memory.wf s) :
    Memory.wf (modTables f r allow s) := by
  unfold modTables
  simp (maxDischargeDepth := 12) [h_s, wf_mk]

@[simp] theorem wf_admitGuest (f : BoardFacts) (r : Repair) (atzOk : Bool) (allow : Option (List Byte)) (s : State) (m : Nat) (h_s : Memory.wf s) :
    Memory.wf (admitGuest f r atzOk allow s m) := by
  unfold admitGuest
  dsimp only
  repeat' first | (simp (maxDischargeDepth := 12) [h_s, wf_mk]; done) | split | apply wf_foldl | intro _

@[simp] theorem wf_discover (f : BoardFacts) (out : List Nat) (atzOk : Bool) (allow : Option (List Byte)) (s : State) (h : Memory.wf s) :
    Memory.wf (discover f out atzOk allow s) := by
  unfold discover
  extract_lets s1 s2 r s3 s4 s5
  have h1 : Memory.wf s1 := wf_foldl _ (fun s x hs => by simp [hs]) _ _ h
  have h2 : Memory.wf s2 := wf_foldl _ (fun s x hs => by simp [hs]) _ _ h1
  clear_value s2
  have h3 : Memory.wf s3 := by simp [s3, h2]
  have h4 : Memory.wf s4 := wf_foldl _ (fun s x hs => by simp [hs]) _ _ h3
  have h5 : Memory.wf s5 := wf_foldl _ (fun s x hs => by simp [hs]) _ _ h4
  exact wf_hubRegs _ _ _ _ _ _ h5

@[simp] theorem wf_rejectEvent (s : State) (ty st src : Nat) (h_s : Memory.wf s) :
    Memory.wf (rejectEvent s ty st src) := by
  unfold rejectEvent
  simp (maxDischargeDepth := 12) [h_s]

@[simp] theorem wf_enterRecovery (s : State) (ty st : Nat) (h_s : Memory.wf s) :
    Memory.wf (enterRecovery s ty st) := by
  unfold enterRecovery
  simp (maxDischargeDepth := 12) [h_s, wf_mk]

@[simp] theorem wf_commitImage (s : State) (b : List Byte) (h_s : Memory.wf s) :
    Memory.wf (commitImage s b) := by
  unfold commitImage
  dsimp only
  repeat' first | (simp (maxDischargeDepth := 12) [h_s, wf_mk]; done) | split | apply wf_foldl | intro _

@[simp] theorem wf_trainLinks (s : State) (h_s : Memory.wf s) :
    Memory.wf (trainLinks s) := by
  unfold trainLinks
  try dsimp only
  repeat' first | (simp (maxDischargeDepth := 12) +contextual [h_s, wf_mk]; done) | split | (apply wf_foldl) | (apply wf_foldl1) | (simp (maxDischargeDepth := 12) +contextual [*, wf_mk]; done) | (intro _)

@[simp] theorem wf_pageRecord (s : State) (page : Nat) (h_s : Memory.wf s) :
    Memory.wf (pageRecord s page) := by
  unfold pageRecord
  simp (maxDischargeDepth := 12) [h_s]

@[simp] theorem wf_moduleReady (s : State) (imgs : List (List Byte)) (h_s : Memory.wf s) :
    Memory.wf (moduleReady s imgs) := by
  unfold moduleReady
  try dsimp only
  repeat' first | (simp (maxDischargeDepth := 12) +contextual [h_s, wf_mk]; done) | split | (apply wf_foldl) | (apply wf_foldl1) | (simp (maxDischargeDepth := 12) +contextual [*, wf_mk]; done) | (intro _)

@[simp] theorem wf_shortEdges (f : BoardFacts) (s : State) (h_s : Memory.wf s) :
    Memory.wf (shortEdges f s) := by
  unfold shortEdges
  try dsimp only
  repeat' first | (simp (maxDischargeDepth := 12) +contextual [h_s, wf_mk]; done) | split | (apply wf_foldl) | (apply wf_foldl1) | (simp (maxDischargeDepth := 12) +contextual [*, wf_mk]; done) | (intro _)

@[simp] theorem wf_bootOptional (s : State) (ty i : Nat) (h_s : Memory.wf s) :
    Memory.wf (bootOptional s ty i) := by
  unfold bootOptional
  repeat' split
  all_goals simp (maxDischargeDepth := 12) [h_s, wf_mk]

@[simp] theorem wf_extendGuests (f : BoardFacts) (s : State) (h_s : Memory.wf s) :
    Memory.wf (extendGuests f s) := by
  unfold extendGuests
  try dsimp only
  repeat' first | (simp (maxDischargeDepth := 12) +contextual [h_s, wf_mk]; done) | split | (apply wf_foldl) | (apply wf_foldl1) | (simp (maxDischargeDepth := 12) +contextual [*, wf_mk]; done) | (intro _)

@[simp] theorem wf_bringUp (f : BoardFacts) (s : State) (h : Memory.wf s) :
    Memory.wf (bringUp f s) := by
  unfold bringUp
  extract_lets s0 s1 idOk s2 s3 s4 s5 src s6 r s7
  have h0 : Memory.wf s0 := wf_extend _ _ _ _ _ h
  have h2 : Memory.wf s2 := wf_State_setRBit _ _ _ _ (wf_extendImage _ _ _ h0)
  have h3 : Memory.wf s3 := wf_ite h2 (wf_event0 _ _ _ _ _ h2)
  have h4 : Memory.wf s4 := wf_extendDebug _ _ _ _ _ _ (wf_extendConfig _ h3)
  have h5 : Memory.wf s5 := wf_bootOptional _ _ _ (wf_bootOptional _ _ _ (wf_extendImage _ _ _ h4))
  have h6 : Memory.wf s6 := wf_ite (wf_shortEdges _ _ (wf_same h5 rfl rfl rfl rfl)) h5
  have hr : Memory.wf r.1 := wf_repairAtReset _ h6
  have h7 : Memory.wf s7 := wf_discover _ _ _ _ _ hr
  split
  · exact wf_enterRecovery _ _ _ h0
  · split
    · exact wf_enterRecovery _ _ _ h4
    · exact wf_moduleReady _ _ (wf_extendGuests _ _ h7)

@[simp] theorem wf_wipe (cold : Bool) (s : State) :
    Memory.wf (wipe cold s) := by
  have : Memory.wf State.reset := rfl
  exact this

@[simp] theorem wf_setPhase (s : State) (p : Phase) (h_s : Memory.wf s) :
    Memory.wf (setPhase s p) := by
  unfold setPhase
  simp (maxDischargeDepth := 12) [h_s, wf_mk]

@[simp] theorem wf_sendDowns (s : State) (h_s : Memory.wf s) :
    Memory.wf (sendDowns s) := by
  unfold sendDowns
  try dsimp only
  repeat' first | (simp (maxDischargeDepth := 12) +contextual [h_s, wf_mk]; done) | split | (apply wf_foldl) | (apply wf_foldl1) | (simp (maxDischargeDepth := 12) +contextual [*, wf_mk]; done) | (intro _)

@[simp] theorem wf_warmBegin (auto : Bool) (s : State) (h_s : Memory.wf s) :
    Memory.wf (warmBegin auto s) := by
  unfold warmBegin
  simp (maxDischargeDepth := 12) [h_s, wf_mk]

@[simp] theorem wf_fatal (s : State) (r : ErrRec) (h_s : Memory.wf s) :
    Memory.wf (fatal s r) := by
  unfold fatal
  dsimp only
  repeat' first | (simp (maxDischargeDepth := 12) [h_s, wf_mk]; done) | split | apply wf_foldl | intro _

@[simp] theorem wf_lineBad (s : State) (line : Nat) (h_s : Memory.wf s) :
    Memory.wf (lineBad s line) := by
  unfold lineBad
  try dsimp only
  repeat' first | (simp (maxDischargeDepth := 12) +contextual [h_s, wf_mk]; done) | split | (apply wf_foldl) | (apply wf_foldl1) | (apply wf_State_capture) | (simp (maxDischargeDepth := 12) +contextual [*, wf_mk]; done) | (intro _)

@[simp] theorem wf_doPowerUp (f : BoardFacts) (s : State) (h_s : Memory.wf s) :
    Memory.wf (doPowerUp f s) := by
  unfold doPowerUp
  repeat' split
  all_goals simp (maxDischargeDepth := 12) [h_s, wf_mk]

@[simp] theorem wf_doPowerDown (s : State) (h_s : Memory.wf s) :
    Memory.wf (doPowerDown s) := by
  unfold doPowerDown
  repeat' split
  all_goals simp (maxDischargeDepth := 12) [h_s, wf_mk]

@[simp] theorem wf_doWarmResetAssert (s : State) (h_s : Memory.wf s) :
    Memory.wf (doWarmResetAssert s) := by
  unfold doWarmResetAssert
  repeat' split
  all_goals simp (maxDischargeDepth := 12) [h_s, wf_mk]

@[simp] theorem wf_doWarmResetRelease (f : BoardFacts) (s : State) (h_s : Memory.wf s) :
    Memory.wf (doWarmResetRelease f s) := by
  unfold doWarmResetRelease
  repeat' split
  all_goals simp (maxDischargeDepth := 12) [h_s, wf_mk]

@[simp] theorem wf_trip (s : State) (cause sensor : Nat) (h_s : Memory.wf s) :
    Memory.wf (trip s cause sensor) := by
  unfold trip
  try dsimp only
  repeat' first | (simp (maxDischargeDepth := 12) +contextual [h_s, wf_mk]; done) | split | (apply wf_foldl) | (apply wf_foldl1) | (apply wf_State_capture) | (simp (maxDischargeDepth := 12) +contextual [*, wf_mk]; done) | (intro _)

@[simp] theorem wf_doTripFastOvercurrent (s : State) (h_s : Memory.wf s) :
    Memory.wf (doTripFastOvercurrent s) := by
  unfold doTripFastOvercurrent
  simp (maxDischargeDepth := 12) [h_s]

@[simp] theorem wf_doTripSlowOvercurrent (s : State) (h_s : Memory.wf s) :
    Memory.wf (doTripSlowOvercurrent s) := by
  unfold doTripSlowOvercurrent
  simp (maxDischargeDepth := 12) [h_s]

@[simp] theorem wf_doTripPowerStage (stage : Fin 8) (s : State) (h_s : Memory.wf s) :
    Memory.wf (doTripPowerStage stage s) := by
  unfold doTripPowerStage
  simp (maxDischargeDepth := 12) [h_s]

@[simp] theorem wf_doTripUnderVoltage (s : State) (h_s : Memory.wf s) :
    Memory.wf (doTripUnderVoltage s) := by
  unfold doTripUnderVoltage
  simp (maxDischargeDepth := 12) [h_s]

@[simp] theorem wf_doTripOverVoltage (s : State) (h_s : Memory.wf s) :
    Memory.wf (doTripOverVoltage s) := by
  unfold doTripOverVoltage
  simp (maxDischargeDepth := 12) [h_s]

@[simp] theorem wf_doTripLatchClear (s : State) (h_s : Memory.wf s) :
    Memory.wf (doTripLatchClear s) := by
  unfold doTripLatchClear
  repeat' split
  all_goals simp (maxDischargeDepth := 12) [h_s, wf_mk]

@[simp] theorem wf_doInputRecovery (f : BoardFacts) (s : State) (h_s : Memory.wf s) :
    Memory.wf (doInputRecovery f s) := by
  unfold doInputRecovery
  repeat' split
  all_goals simp (maxDischargeDepth := 12) [h_s, wf_mk]

/-! ### Mem -/

@[simp] theorem wf_retirePage (s : State) (page : Nat) (h_s : Memory.wf s) :
    Memory.wf (retirePage s page) := by
  unfold retirePage
  dsimp only
  repeat' first | (simp (maxDischargeDepth := 12) [h_s, wf_mk]; done) | split | apply wf_foldl | intro _

@[simp] theorem wf_rowRepair (s : State) (a : Nat) (r : DramRow) (h_s : Memory.wf s) :
    Memory.wf (rowRepair s a r) := by
  unfold rowRepair
  dsimp only
  repeat' first | (simp (maxDischargeDepth := 12) [h_s, wf_mk]; done) | split | apply wf_foldl | intro _

@[simp] theorem wf_rowCount (s : State) (a : Nat) (r : DramRow) (h_s : Memory.wf s) :
    Memory.wf (rowCount s a r) := by
  unfold rowCount
  dsimp only
  repeat' first | (simp (maxDischargeDepth := 12) [h_s, wf_mk]; done) | split | apply wf_foldl | intro _

@[simp] theorem wf_doSoftRowRepairDone (stack : Nat) (r : DramRow) (s : State) (h_s : Memory.wf s) :
    Memory.wf (doSoftRowRepairDone stack r s) := by
  unfold doSoftRowRepairDone
  dsimp only
  repeat' first | (simp (maxDischargeDepth := 12) [h_s, wf_mk]; done) | split | apply wf_foldl | intro _

@[simp] theorem wf_doRowTrackerClear (stack : Nat) (s : State) (h_s : Memory.wf s) :
    Memory.wf (doRowTrackerClear stack s) := by
  unfold doRowTrackerClear
  simp (maxDischargeDepth := 12) [h_s, wf_mk]

@[simp] theorem wf_memPoison (s : State) (a code cause d0 : Nat) (h_s : Memory.wf s) :
    Memory.wf (memPoison s a code cause d0) := by
  unfold memPoison
  dsimp only
  repeat' first | (simp (maxDischargeDepth := 12) [h_s, wf_mk]; done) | split | apply wf_foldl | intro _

@[simp] theorem wf_sliceUncorrectable (s : State) (a : Nat) (h_s : Memory.wf s) :
    Memory.wf (sliceUncorrectable s a) := by
  unfold sliceUncorrectable
  simp (maxDischargeDepth := 12) [h_s, wf_mk]

@[simp] theorem wf_sliceCorrected (s : State) (a : Nat) (h_s : Memory.wf s) :
    Memory.wf (sliceCorrected s a) := by
  unfold sliceCorrected
  simp (maxDischargeDepth := 12) [h_s]

@[simp] theorem wf_cacheEcc (s : State) (a : Nat) (e : Ecc) (c : CLine) (h_s : Memory.wf s) :
    Memory.wf (cacheEcc s a e c) := by
  unfold cacheEcc
  dsimp only
  repeat' first | (simp (maxDischargeDepth := 12) [h_s, wf_mk]; done) | split | apply wf_foldl | intro _

@[simp] theorem wf_sliceEcc (s : State) (a : Nat) (e : Ecc) (h_s : Memory.wf s) :
    Memory.wf (sliceEcc s a e) := by
  unfold sliceEcc
  repeat' split
  all_goals simp (maxDischargeDepth := 12) [h_s, wf_mk]

@[simp] theorem wf_hbmEcc (s : State) (a : Nat) (e : Ecc) (r : DramRow) (h_s : Memory.wf s) :
    Memory.wf (hbmEcc s a e r) := by
  unfold hbmEcc
  repeat' split
  all_goals simp (maxDischargeDepth := 12) [h_s, wf_mk]

@[simp] theorem wf_eccRead (s : State) (a : Nat) (e : Ecc) (r : DramRow) (h_s : Memory.wf s) :
    Memory.wf (eccRead s a e r) := by
  unfold eccRead
  repeat' split
  all_goals simp (maxDischargeDepth := 12) [h_s, wf_mk]

@[simp] theorem wf_scrubCheck (s : State) (a : Nat) (h_s : Memory.wf s) :
    Memory.wf (scrubCheck s a) := by
  unfold scrubCheck
  dsimp only
  repeat' first | (simp (maxDischargeDepth := 12) [h_s, wf_mk]; done) | split | apply wf_foldl | intro _

@[simp] theorem wf_doPatrolScrub (a : Nat) (e : Ecc) (r : DramRow) (s : State) (h_s : Memory.wf s) :
    Memory.wf (doPatrolScrub a e r s) := by
  unfold doPatrolScrub
  repeat' split
  all_goals simp (maxDischargeDepth := 12) [h_s, wf_mk]

@[simp] theorem wf_doMeminitGo (s : State) (h_s : Memory.wf s) :
    Memory.wf (doMeminitGo s) := by
  unfold doMeminitGo
  dsimp only
  repeat' first | (simp (maxDischargeDepth := 12) [h_s, wf_mk]; done) | split | apply wf_foldl | intro _

@[simp] theorem wf_doMeminitDone (s : State) (h : Memory.wf s) :
    Memory.wf (doMeminitDone s) := by
  unfold doMeminitDone
  split
  · have ht := wf_State_setRBit _ rMeminitCtl 2 true (wf_State_setRBit s rMeminitCtl 1 (anyEnabling s) h)
    exact wf_same ht rfl rfl rfl rfl
  · exact h

@[simp] theorem wf_dropWays (s : State) (d : Nat) (ws : List Nat) (h_s : Memory.wf s) :
    Memory.wf (dropWays s d ws) := by
  unfold dropWays
  simp (maxDischargeDepth := 12) [h_s, wf_mk]

@[simp] theorem wf_doSsWayWrite (d : Nat) (mode : Bool) (v : Word) (s : State) (h : Memory.wf s) :
    Memory.wf (doSsWayWrite d mode v s) := by
  unfold doSsWayWrite
  extract_lets r t ch busy t1
  have ht : Memory.wf t := wf_State_softWrite _ _ _ h
  clear_value ch
  have h1 : Memory.wf t1 := by
    simp only [t1]
    clear_value t
    exact wf_foldl _ (fun s x hs => wf_ite (wf_invalidateRange _ _ _ hs) hs) _ _ ht
  clear_value t t1
  repeat' split
  all_goals simp [h, ht, h1]

@[simp] theorem wf_doSsWayChangeDone (d : Nat) (s : State) (h_s : Memory.wf s) :
    Memory.wf (doSsWayChangeDone d s) := by
  unfold doSsWayChangeDone
  simp (maxDischargeDepth := 12) [h_s]

/-! ### Die -/

@[simp] theorem wf_dieMsg (ty vc : Nat) (h : DieHdr) (s : State) (k : State → State) (h_s : Memory.wf s) (h_k : ∀ s, Memory.wf s → Memory.wf (k s)) :
    Memory.wf (dieMsg ty vc h s k) := by
  unfold dieMsg
  dsimp only
  repeat' first | (simp (maxDischargeDepth := 12) [h_s, h_k, wf_mk]; done) | split | apply wf_foldl | intro _

@[simp] theorem wf_dropReq (s : State) (r : DieReq) (h_s : Memory.wf s) :
    Memory.wf (dropReq s r) := by
  unfold dropReq
  simp (maxDischargeDepth := 12) [h_s, wf_mk]

@[simp] theorem wf_setReq (s : State) (r n : DieReq) (h_s : Memory.wf s) :
    Memory.wf (setReq s r n) := by
  unfold setReq
  simp (maxDischargeDepth := 12) [h_s, wf_mk]

@[simp] theorem wf_withRoom (s : State) (h : DieHdr) (i : Instr) (k : State → State) (h_s : Memory.wf s) (h_k : ∀ s, Memory.wf s → Memory.wf (k s)) :
    Memory.wf (withRoom s h i k) := by
  unfold withRoom
  dsimp only
  repeat' first | (simp (maxDischargeDepth := 12) [h_s, h_k, wf_mk]; done) | split | apply wf_foldl | intro _

@[simp] theorem wf_addReq (s : State) (ty : Nat) (h : DieHdr) (h_s : Memory.wf s) :
    Memory.wf (addReq s ty h) := by
  unfold addReq
  repeat' split
  all_goals simp (maxDischargeDepth := 12) [h_s, wf_mk]

@[simp] theorem wf_captRefuse (s : State) (a ty port reason : Nat) (h_s : Memory.wf s) :
    Memory.wf (captRefuse s a ty port reason) := by
  unfold captRefuse
  try dsimp only
  repeat' first | (simp (maxDischargeDepth := 12) +contextual [h_s, wf_mk]; done) | split | (apply wf_foldl) | (apply wf_foldl1) | (apply wf_State_capture) | (simp (maxDischargeDepth := 12) +contextual [*, wf_mk]; done) | (intro _)

@[simp] theorem wf_answerRead (s : State) (h : DieHdr) (h_s : Memory.wf s) :
    Memory.wf (answerRead s h) := by
  unfold answerRead
  dsimp only
  repeat' first | (simp (maxDischargeDepth := 12) [h_s, wf_mk]; done) | split | apply wf_foldl | intro _

@[simp] theorem wf_hostRead64 (s0 : State) (h : DieHdr) (e : Ecc) (h_s0 : Memory.wf s0) :
    Memory.wf (hostRead64 s0 h e) := by
  unfold hostRead64
  dsimp only
  repeat' first | (simp (maxDischargeDepth := 12) [h_s0, wf_mk]; done) | split | apply wf_foldl | intro _

@[simp] theorem wf_serveRd (h : DieHdr) (e : Ecc) (r : DramRow) (s0 : State) (h_s0 : Memory.wf s0) :
    Memory.wf (serveRd h e r s0) := by
  unfold serveRd
  dsimp only
  repeat' first | (simp (maxDischargeDepth := 12) [h_s0, wf_mk]; done) | split | apply wf_foldl | intro _

@[simp] theorem wf_doRd (h : DieHdr) (e : Ecc) (r : DramRow) (s : State) (h_s : Memory.wf s) :
    Memory.wf (doRd h e r s) := by
  unfold doRd
  try dsimp only
  repeat' first | (simp (maxDischargeDepth := 12) +contextual [h_s, wf_mk]; done) | split | (apply wf_foldl) | (apply wf_foldl1) | (apply wf_dieMsg) | (simp (maxDischargeDepth := 12) +contextual [*, wf_mk]; done) | (intro _)

@[simp] theorem wf_writeLineFrom (s : State) (a : Nat) (mask : Nat → Option Byte) (contrib : Half) (h_s : Memory.wf s) :
    Memory.wf (writeLineFrom s a mask contrib) := by
  unfold writeLineFrom
  dsimp only
  repeat' first | (simp (maxDischargeDepth := 12) [h_s, wf_mk]; done) | split | apply wf_foldl | intro _

@[simp] theorem wf_hostWriteMask (s : State) (a : Nat) (mask : BitVec 64) (data : BitVec 512) (h : DieHdr) (h_s : Memory.wf s) :
    Memory.wf (hostWriteMask s a mask data h) := by
  unfold hostWriteMask
  dsimp only
  split
  · simp [h_s]
  · exact wf_foldl _ (fun s x hs => wf_hostWriteFor _ _ _ _ _ hs) _ _ h_s

@[simp] theorem wf_serveWrite (ty : Nat) (h : DieHdr) (mask : BitVec 64) (data : BitVec 512) (e : Ecc) (r : DramRow) (s0 : State) (h_s0 : Memory.wf s0) :
    Memory.wf (serveWrite ty h mask data e r s0) := by
  unfold serveWrite
  dsimp only
  repeat' first | (simp (maxDischargeDepth := 12) [h_s0, wf_mk]; done) | split | apply wf_foldl | intro _

@[simp] theorem wf_doWr (h : DieHdr) (data : BitVec 512) (e : Ecc) (r : DramRow) (s : State) (h_s : Memory.wf s) :
    Memory.wf (doWr h data e r s) := by
  unfold doWr
  try dsimp only
  repeat' first | (simp (maxDischargeDepth := 12) +contextual [h_s, wf_mk]; done) | split | (apply wf_foldl) | (apply wf_foldl1) | (apply wf_State_capture) | (simp (maxDischargeDepth := 12) +contextual [*, wf_mk]; done) | (intro _)

@[simp] theorem wf_doWrp (h : DieHdr) (mask : BitVec 64) (data : BitVec 512) (e : Ecc) (r : DramRow) (s : State) (h_s : Memory.wf s) :
    Memory.wf (doWrp h mask data e r s) := by
  unfold doWrp
  try dsimp only
  repeat' first | (simp (maxDischargeDepth := 12) +contextual [h_s, wf_mk]; done) | split | (apply wf_foldl) | (apply wf_foldl1) | (apply wf_State_capture) | (simp (maxDischargeDepth := 12) +contextual [*, wf_mk]; done) | (intro _)

@[simp] theorem wf_serveUpdate (ty : Nat) (h : DieHdr) (k : State → State) (s0 : State) (h_s0 : Memory.wf s0) (h_k : ∀ s, Memory.wf s → Memory.wf (k s)) :
    Memory.wf (serveUpdate ty h k s0) := by
  unfold serveUpdate
  dsimp only
  repeat' first | (simp (maxDischargeDepth := 12) [h_s0, h_k, wf_mk]; done) | split | apply wf_foldl | intro _

@[simp] theorem wf_serveRadd (h : DieHdr) (rec : BitVec 384) (s : State) (h_s : Memory.wf s) : Memory.wf (serveRadd h rec s) := by
  unfold serveRadd
  exact wf_serveUpdate _ _ _ _ h_s fun s hs => by simp [hs]

@[simp] theorem wf_doRadd (h : DieHdr) (rec : BitVec 384) (s : State) (h_s : Memory.wf s) :
    Memory.wf (doRadd h rec s) := by
  unfold doRadd
  try dsimp only
  repeat' first | (simp (maxDischargeDepth := 12) +contextual [h_s, wf_mk]; done) | split | (apply wf_foldl) | (apply wf_foldl1) | (apply wf_dieUpdate) | (simp (maxDischargeDepth := 12) +contextual [*, wf_mk]; done) | (intro _)

@[simp] theorem wf_servePois (h : DieHdr) (tag : Tag) (s : State) (h_s : Memory.wf s) : Memory.wf (servePois h tag s) := by
  unfold servePois
  exact wf_serveUpdate _ _ _ _ h_s fun s hs => by simp [hs]

@[simp] theorem wf_doPois (h : DieHdr) (tag : Tag) (s : State) (h_s : Memory.wf s) :
    Memory.wf (doPois h tag s) := by
  unfold doPois
  try dsimp only
  repeat' first | (simp (maxDischargeDepth := 12) +contextual [h_s, wf_mk]; done) | split | (apply wf_foldl) | (apply wf_foldl1) | (apply wf_dieUpdate) | (simp (maxDischargeDepth := 12) +contextual [*, wf_mk]; done) | (intro _)

@[simp] theorem wf_serveInv (h : DieHdr) (s : State) (h_s : Memory.wf s) : Memory.wf (serveInv h s) := by
  unfold serveInv
  exact wf_serveUpdate _ _ _ _ h_s fun s hs => by simp [hs]

@[simp] theorem wf_doInv (h : DieHdr) (s : State) (h_s : Memory.wf s) :
    Memory.wf (doInv h s) := by
  unfold doInv
  try dsimp only
  repeat' first | (simp (maxDischargeDepth := 12) +contextual [h_s, wf_mk]; done) | split | (apply wf_foldl) | (apply wf_foldl1) | (apply wf_dieUpdate) | (simp (maxDischargeDepth := 12) +contextual [*, wf_mk]; done) | (intro _)

@[simp] theorem wf_serveCnt (h : DieHdr) (target : CntTarget) (x : Fin 8) (inc : BitVec 32) (s0 : State) (h_s0 : Memory.wf s0) :
    Memory.wf (serveCnt h target x inc s0) := by
  unfold serveCnt
  dsimp only
  repeat' first | (simp (maxDischargeDepth := 12) [h_s0, wf_mk]; done) | split | apply wf_foldl | intro _

@[simp] theorem wf_doCnt (h : DieHdr) (target : CntTarget) (x : Fin 8) (inc : BitVec 32) (s : State) (h_s : Memory.wf s) :
    Memory.wf (doCnt h target x inc s) := by
  unfold doCnt
  try dsimp only
  repeat' first | (simp (maxDischargeDepth := 12) +contextual [h_s, wf_mk]; done) | split | (apply wf_foldl) | (apply wf_foldl1) | (apply wf_dieMsg) | (simp (maxDischargeDepth := 12) +contextual [*, wf_mk]; done) | (intro _)

@[simp] theorem wf_serveEvt (h : DieHdr) (rec : BitVec 512) (s0 : State) (h_s0 : Memory.wf s0) :
    Memory.wf (serveEvt h rec s0) := by
  unfold serveEvt
  dsimp only
  repeat' first | (simp (maxDischargeDepth := 12) [h_s0, wf_mk]; done) | split | apply wf_foldl | intro _

@[simp] theorem wf_doEvt (h : DieHdr) (rec : BitVec 512) (s : State) (h_s : Memory.wf s) :
    Memory.wf (doEvt h rec s) := by
  unfold doEvt
  try dsimp only
  repeat' first | (simp (maxDischargeDepth := 12) +contextual [h_s, wf_mk]; done) | split | (apply wf_foldl) | (apply wf_foldl1) | (apply wf_dieMsg) | (simp (maxDischargeDepth := 12) +contextual [*, wf_mk]; done) | (intro _)

theorem wf_waitingReq {i : Instr} {q : DieHdr × (State → State)} (e : waitingReq i = some q) (s : State)
    (h_s : Memory.wf s) : Memory.wf (q.2 s) := by
  unfold waitingReq at e
  split at e <;> cases e <;> simp [h_s]

@[simp] theorem wf_serveWaits (s : State) (h_s : Memory.wf s) : Memory.wf (serveWaits s) := by
  unfold serveWaits
  split
  · split
    · next hq => exact wf_waitingReq hq _ (by simp [h_s, wf_mk])
    · exact h_s
  · exact h_s

@[simp] theorem wf_endReq (s : State) (r : DieReq) (h_s : Memory.wf s) :
    Memory.wf (endReq s r) := by
  unfold endReq
  simp (maxDischargeDepth := 12) [h_s]

@[simp] theorem wf_doRdata (h : DieHdr) (data : BitVec 512) (s : State) (h_s : Memory.wf s) :
    Memory.wf (doRdata h data s) := by
  unfold doRdata
  try dsimp only
  repeat' first | (simp (maxDischargeDepth := 12) +contextual [h_s, wf_mk]; done) | split | (apply wf_foldl) | (apply wf_foldl1) | (apply wf_dieMsg) | (simp (maxDischargeDepth := 12) +contextual [*, wf_mk]; done) | (intro _)

@[simp] theorem wf_doChk (h : DieHdr) (crc : BitVec 32) (lstate : BitVec 128) (contrib : BitVec 32) (s : State) (h_s : Memory.wf s) :
    Memory.wf (doChk h crc lstate contrib s) := by
  unfold doChk
  try dsimp only
  repeat' first | (simp (maxDischargeDepth := 12) +contextual [h_s, wf_mk]; done) | split | (apply wf_foldl) | (apply wf_foldl1) | (apply wf_dieMsg) | (simp (maxDischargeDepth := 12) +contextual [*, wf_mk]; done) | (intro _)

@[simp] theorem wf_doAck (h : DieHdr) (s : State) (h_s : Memory.wf s) :
    Memory.wf (doAck h s) := by
  unfold doAck
  try dsimp only
  repeat' first | (simp (maxDischargeDepth := 12) +contextual [h_s, wf_mk]; done) | split | (apply wf_foldl) | (apply wf_foldl1) | (apply wf_dieMsg) | (simp (maxDischargeDepth := 12) +contextual [*, wf_mk]; done) | (intro _)

@[simp] theorem wf_mediaNack (s : State) (m p a : Nat) (h_s : Memory.wf s) :
    Memory.wf (mediaNack s m p a) := by
  unfold mediaNack
  try dsimp only
  repeat' first | (simp (maxDischargeDepth := 12) +contextual [h_s, wf_mk]; done) | split | (apply wf_foldl) | (apply wf_foldl1) | (apply wf_State_capture) | (simp (maxDischargeDepth := 12) +contextual [*, wf_mk]; done) | (intro _)

@[simp] theorem wf_doNack (h : DieHdr) (s : State) (h_s : Memory.wf s) :
    Memory.wf (doNack h s) := by
  unfold doNack
  try dsimp only
  repeat' first | (simp (maxDischargeDepth := 12) +contextual [h_s, wf_mk]; done) | split | (apply wf_foldl) | (apply wf_foldl1) | (apply wf_dieMsg) | (simp (maxDischargeDepth := 12) +contextual [*, wf_mk]; done) | (intro _)

@[simp] theorem wf_doDisc (h : DieHdr) (num : BitVec 4) (s : State) (h_s : Memory.wf s) :
    Memory.wf (doDisc h num s) := by
  unfold doDisc
  try dsimp only
  repeat' first | (simp (maxDischargeDepth := 12) +contextual [h_s, wf_mk]; done) | split | (apply wf_foldl) | (apply wf_foldl1) | (apply wf_dieMsg) | (simp (maxDischargeDepth := 12) +contextual [*, wf_mk]; done) | (intro _)

@[simp] theorem wf_doDack (h : DieHdr) (error : BitVec 8) (s : State) (h_s : Memory.wf s) :
    Memory.wf (doDack h error s) := by
  unfold doDack
  try dsimp only
  repeat' first | (simp (maxDischargeDepth := 12) +contextual [h_s, wf_mk]; done) | split | (apply wf_foldl) | (apply wf_foldl1) | (apply wf_dieMsg) | (simp (maxDischargeDepth := 12) +contextual [*, wf_mk]; done) | (intro _)

@[simp] theorem wf_accDispatch (dh : DieHdr) (ty : Nat) (h : AccHdr) (gs : List Nat) (s : State) (h_s : Memory.wf s) :
    Memory.wf (accDispatch dh ty h gs s) := by
  unfold accDispatch
  repeat' split
  all_goals simp (maxDischargeDepth := 12) [h_s, wf_mk]

@[simp] theorem wf_accReceipt (dh : DieHdr) (ty : Nat) (h : AccHdr) (s : State) (h_s : Memory.wf s) :
    Memory.wf (accReceipt dh ty h s) := by
  unfold accReceipt
  try dsimp only
  repeat' first | (simp (maxDischargeDepth := 12) +contextual [h_s, wf_mk]; done) | split | (apply wf_foldl) | (apply wf_foldl1) | (apply wf_State_capture) | (simp (maxDischargeDepth := 12) +contextual [*, wf_mk]; done) | (intro _)

@[simp] theorem wf_accParse (dh : DieHdr) (key : Nat) (n : Nat) : ∀ (s : State), Memory.wf s → Memory.wf (accParse dh key n s) := by
  induction n with
  | zero => intro s h; exact h
  | succ n ih =>
    intro s h
    unfold accParse
    dsimp only
    repeat' first | (simp (maxDischargeDepth := 12) [h, wf_mk]; done) | split | (apply ih)

@[simp] theorem wf_doAccd (h : DieHdr) (data : BitVec 512) (s : State) (h_s : Memory.wf s) :
    Memory.wf (doAccd h data s) := by
  unfold doAccd
  try dsimp only
  repeat' first | (simp (maxDischargeDepth := 12) +contextual [h_s, wf_mk]; done) | split | (apply wf_foldl) | (apply wf_foldl1) | (apply wf_dieMsg) | (simp (maxDischargeDepth := 12) +contextual [*, wf_mk]; done) | (intro _)

@[simp] theorem wf_doAccc (h : DieHdr) (kind : AcccKind) (gid : BitVec 16) (opseq : BitVec 32) (count : BitVec 64) (s : State) (h_s : Memory.wf s) :
    Memory.wf (doAccc h kind gid opseq count s) := by
  unfold doAccc
  try dsimp only
  repeat' first | (simp (maxDischargeDepth := 12) +contextual [h_s, wf_mk]; done) | split | (apply wf_foldl) | (apply wf_foldl1) | (apply wf_dieMsg) | (simp (maxDischargeDepth := 12) +contextual [*, wf_mk]; done) | (intro _)

@[simp] theorem wf_doAccordUnitFault (d : Nat) (s : State) (h : Memory.wf s) :
    Memory.wf (doAccordUnitFault d s) := by
  unfold doAccordUnitFault
  split
  · exact h
  · extract_lets on lead s1 s2 q
    have h1 : Memory.wf s1 := wf_errRecord _ _ h
    have h2 : Memory.wf s2 := wf_foldl _ (fun s x hs => wf_collFailAt _ _ _ _ _ _ hs) _ _ h1
    clear_value s2 q
    exact wf_setQueue _ _ _ (by simp [h2, wf_mk])

@[simp] theorem wf_setMod (s : State) (e m v : Nat) (h_s : Memory.wf s) :
    Memory.wf (setMod s e m v) := by
  unfold setMod
  simp (maxDischargeDepth := 12) [h_s, wf_mk]

@[simp] theorem wf_edgeRegs (s : State) (e : Nat) (h_s : Memory.wf s) :
    Memory.wf (edgeRegs s e) := by
  unfold edgeRegs
  repeat' split
  all_goals simp (maxDischargeDepth := 12) [h_s, wf_mk]

@[simp] theorem wf_modOut (s : State) (e m : Nat) (h_s : Memory.wf s) :
    Memory.wf (modOut s e m) := by
  unfold modOut
  dsimp only
  repeat' first | (simp (maxDischargeDepth := 12) [h_s, wf_mk]; done) | split | apply wf_foldl | intro _

@[simp] theorem wf_modRetrain (s : State) (e m lane : Nat) (h_s : Memory.wf s) :
    Memory.wf (modRetrain s e m lane) := by
  unfold modRetrain
  extract_lets k used s1 src s2 s3
  have h1 : Memory.wf s1 := by simp [s1, h_s]
  split
  · have h2 : Memory.wf s2 := wf_setMod _ _ _ _ (by simp [h1, wf_mk])
    have h3 : Memory.wf s3 := wf_foldl _ (fun s x hs => by simp [hs]) _ _ h2
    simp [h3]
  · simp [h1]

@[simp] theorem wf_doBridgeModuleRetrain (e m lane : Nat) (s : State) (h_s : Memory.wf s) :
    Memory.wf (doBridgeModuleRetrain e m lane s) := by
  unfold doBridgeModuleRetrain
  repeat' split
  all_goals simp (maxDischargeDepth := 12) [h_s, wf_mk]

@[simp] theorem wf_doBridgeFlitReplay (e m lane : Nat) (s : State) (h_s : Memory.wf s) :
    Memory.wf (doBridgeFlitReplay e m lane s) := by
  unfold doBridgeFlitReplay
  dsimp only
  repeat' first | (simp (maxDischargeDepth := 12) [h_s, wf_mk]; done) | split | apply wf_foldl | intro _

@[simp] theorem wf_doModuleRetrainDone (e m : Nat) (ok : Bool) (s : State) (h_s : Memory.wf s) :
    Memory.wf (doModuleRetrainDone e m ok s) := by
  unfold doModuleRetrainDone
  repeat' split
  all_goals simp (maxDischargeDepth := 12) [h_s, wf_mk]

/-! ### Feed -/

@[simp] theorem wf_ctxFault (s : State) (p : Fin 16) (x : Fin 8) (f : SFault) (h_s : Memory.wf s) :
    Memory.wf (ctxFault s p x f) := by
  unfold ctxFault
  repeat' split
  all_goals simp (maxDischargeDepth := 12) [h_s, wf_mk]

@[simp] theorem wf_queueVictims (q : Nat) (es : List QEntry) (s : State) (h_s : Memory.wf s) :
    Memory.wf (queueVictims q es s) := by
  unfold queueVictims
  try dsimp only
  repeat' first | (simp (maxDischargeDepth := 12) +contextual [h_s, wf_mk]; done) | split | (apply wf_foldl) | (apply wf_foldl1) | (simp (maxDischargeDepth := 12) +contextual [*, wf_mk]; done) | (intro _)

@[simp] theorem wf_queueReset (s : State) (q cause : Nat) (h_s : Memory.wf s) :
    Memory.wf (queueReset s q cause) := by
  unfold queueReset
  simp (maxDischargeDepth := 12) [h_s]

@[simp] theorem wf_doQueuePush (q : Nat) (payload : List Word) (parity : Nat) (ptr : Bool) (s : State) (h_s : Memory.wf s) :
    Memory.wf (doQueuePush q payload parity ptr s) := by
  unfold doQueuePush
  repeat' split
  all_goals simp (maxDischargeDepth := 12) [h_s, wf_mk]

@[simp] theorem wf_stepParity (s : State) (q bad : Nat) (h_s : Memory.wf s) :
    Memory.wf (stepParity s q bad) := by
  unfold stepParity
  dsimp only
  repeat' first | (simp (maxDischargeDepth := 12) [h_s, wf_mk]; done) | split | apply wf_foldl | intro _

@[simp] theorem wf_doQueuePop (q parity : Nat) (ptr : Bool) (s : State) (h : Memory.wf s) :
    Memory.wf (doQueuePop q parity ptr s) := by
  unfold doQueuePop
  split
  · exact h
  · split
    · split
      · split
        · rename_i hs
          simp [wf_queueTake_some h hs]
        · exact h
      · exact h
    · split
      · split
        · simp [h]
        · rcases hq : queueTake s q 0 with _ | ⟨e, t⟩
          · exact h
          · exact wf_queueTake_some h hq
      · split <;> simp [h]

@[simp] theorem wf_doQueueTailTimeout (q : Nat) (s : State) (h_s : Memory.wf s) :
    Memory.wf (doQueueTailTimeout q s) := by
  unfold doQueueTailTimeout
  dsimp only
  repeat' first | (simp (maxDischargeDepth := 12) [h_s, wf_mk]; done) | split | apply wf_foldl | intro _

/-! ### Guest -/

@[simp] theorem wf_setSite (s : State) (m : Nat) (g : GSite) (h_s : Memory.wf s) :
    Memory.wf (setSite s m g) := by
  unfold setSite
  simp (maxDischargeDepth := 12) [h_s, wf_mk]

@[simp] theorem wf_dropWindow (s : State) (m k cause : Nat) (h_s : Memory.wf s) :
    Memory.wf (dropWindow s m k cause) := by
  unfold dropWindow
  simp (maxDischargeDepth := 12) [h_s]

@[simp] theorem wf_dropWindows (s : State) (cause : Nat) (f : Nat → Nat → Bool) (h_s : Memory.wf s) :
    Memory.wf (dropWindows s cause f) := by
  unfold dropWindows
  try dsimp only
  repeat' first | (simp (maxDischargeDepth := 12) +contextual [h_s, wf_mk]; done) | split | (apply wf_foldl) | (apply wf_foldl1) | (simp (maxDischargeDepth := 12) +contextual [*, wf_mk]; done) | (intro _)

@[simp] theorem wf_doGuestWindowWrite (m k : Nat) (size : Bool) (v : Word) (s : State) (h_s : Memory.wf s) :
    Memory.wf (doGuestWindowWrite m k size v s) := by
  unfold doGuestWindowWrite
  dsimp only
  repeat' first | (simp (maxDischargeDepth := 12) [h_s, wf_mk]; done) | split | apply wf_foldl | intro _

@[simp] theorem wf_violation (s : State) (m kind ty addr : Nat) (h_s : Memory.wf s) :
    Memory.wf (violation s m kind ty addr) := by
  unfold violation
  try dsimp only
  repeat' first | (simp (maxDischargeDepth := 12) +contextual [h_s, wf_mk]; done) | split | (apply wf_foldl) | (apply wf_foldl1) | (apply wf_State_capture) | (simp (maxDischargeDepth := 12) +contextual [*, wf_mk]; done) | (intro _)

@[simp] theorem wf_guestViolates (s : State) (m kind ty : Nat) (h : DieHdr) (h_s : Memory.wf s) :
    Memory.wf (guestViolates s m kind ty h) := by
  unfold guestViolates
  repeat' split
  all_goals simp (maxDischargeDepth := 12) [h_s, wf_mk]

@[simp] theorem wf_takeTokens (s : State) (m : Nat) (g : GuestMsg) (h_s : Memory.wf s) :
    Memory.wf (takeTokens s m g) := by
  unfold takeTokens
  simp (maxDischargeDepth := 12) [h_s]

@[simp] theorem wf_guestMem (s : State) (k m : Nat) (g : GuestMsg) (h_s : Memory.wf s) :
    Memory.wf (guestMem s k m g) := by
  unfold guestMem
  repeat' split
  all_goals simp (maxDischargeDepth := 12) [h_s, wf_mk]

@[simp] theorem wf_guestHost (s : State) (k m : Nat) (g : GuestMsg) (h_s : Memory.wf s) :
    Memory.wf (guestHost s k m g) := by
  unfold guestHost
  dsimp only
  repeat' first | (simp (maxDischargeDepth := 12) [h_s, wf_mk]; done) | split | apply wf_foldl | intro _

@[simp] theorem wf_guestForward (s : State) (m : Nat) (g : GuestMsg) (h_s : Memory.wf s) :
    Memory.wf (guestForward s m g) := by
  unfold guestForward
  repeat' split
  all_goals simp (maxDischargeDepth := 12) [h_s, wf_mk]

@[simp] theorem wf_guestEnter (s : State) (m : Nat) (g : GuestMsg) (h_s : Memory.wf s) :
    Memory.wf (guestEnter s m g) := by
  unfold guestEnter
  dsimp only
  repeat' first | (simp (maxDischargeDepth := 12) [h_s, wf_mk]; done) | split | apply wf_foldl | intro _

@[simp] theorem wf_guestEvt (s : State) (m : Nat) (data : BitVec 512) (limited : Bool) (h_s : Memory.wf s) :
    Memory.wf (guestEvt s m data limited) := by
  unfold guestEvt
  repeat' split
  all_goals simp (maxDischargeDepth := 12) [h_s, wf_mk]

@[simp] theorem wf_doGuestMessage (m ty : Nat) (h : DieHdr) (mask : BitVec 64) (data : BitVec 512) (sideband limited : Bool) (s : State) (h_s : Memory.wf s) :
    Memory.wf (doGuestMessage m ty h mask data sideband limited s) := by
  unfold doGuestMessage
  dsimp only
  repeat' first | (simp (maxDischargeDepth := 12) [h_s, wf_mk]; done) | split | apply wf_foldl | intro _

@[simp] theorem wf_refill (s : State) (m us : Nat) (h_s : Memory.wf s) :
    Memory.wf (refill s m us) := by
  unfold refill
  simp (maxDischargeDepth := 12) [h_s]

theorem wf_releaseOne_some {s : State} {m : Nat} {rd : Bool} {t : State} (h : Memory.wf s)
    (e : releaseOne s m rd = some t) : Memory.wf t := by
  unfold releaseOne at e
  dsimp only at e
  repeat' split at e
  all_goals first | (cases e; done) | (cases e; exact wf_guestForward _ _ _ (wf_takeTokens _ _ _ (wf_setSite _ _ _ h)))

@[simp] theorem wf_releaseAll (k : Nat) : ∀ (m : Nat) (rd : Bool) (s : State), Memory.wf s → Memory.wf (releaseAll k m rd s) := by
  induction k with
  | zero => intro m rd s h; exact h
  | succ k ih =>
    intro m rd s h
    unfold releaseAll
    split
    · next hs => exact ih _ _ _ (wf_releaseOne_some h hs)
    · exact h

@[simp] theorem wf_doGuestTokenRelease (m us : Nat) (s : State) (h_s : Memory.wf s) :
    Memory.wf (doGuestTokenRelease m us s) := by
  unfold doGuestTokenRelease
  repeat' split
  all_goals simp (maxDischargeDepth := 12) [h_s, wf_mk]

/-! ### Parts -/

@[simp] theorem wf_setPartState (s : State) (p v : Nat) (h_s : Memory.wf s) :
    Memory.wf (setPartState s p v) := by
  unfold setPartState
  simp (maxDischargeDepth := 12) [h_s]

@[simp] theorem wf_clearPartCnts (s : State) (p : Nat) (h_s : Memory.wf s) :
    Memory.wf (clearPartCnts s p) := by
  unfold clearPartCnts
  simp (maxDischargeDepth := 12) [h_s, wf_mk]

@[simp] theorem wf_doPartitionEnable (p : Nat) (s : State) (h_s : Memory.wf s) :
    Memory.wf (doPartitionEnable p s) := by
  unfold doPartitionEnable
  repeat' split
  all_goals simp (maxDischargeDepth := 12) [h_s, wf_mk]

@[simp] theorem wf_invalidateParts (s : State) (p : Nat) (h_s : Memory.wf s) :
    Memory.wf (invalidateParts s p) := by
  unfold invalidateParts
  try dsimp only
  repeat' first | (simp (maxDischargeDepth := 12) +contextual [h_s, wf_mk]; done) | split | (apply wf_foldl) | (apply wf_foldl1) | (simp (maxDischargeDepth := 12) +contextual [*, wf_mk]; done) | (intro _)

@[simp] theorem wf_doPartitionEnabled (p : Nat) (s : State) (h_s : Memory.wf s) :
    Memory.wf (doPartitionEnabled p s) := by
  unfold doPartitionEnabled
  repeat' split
  all_goals simp (maxDischargeDepth := 12) [h_s, wf_mk]

@[simp] theorem wf_disableBegin (s : State) (p cause err : Nat) (leave : Bool) (h_s : Memory.wf s) :
    Memory.wf (disableBegin s p cause err leave) := by
  unfold disableBegin
  simp (maxDischargeDepth := 12) [h_s]

@[simp] theorem wf_doPartitionDisable (p : Nat) (s : State) (h_s : Memory.wf s) :
    Memory.wf (doPartitionDisable p s) := by
  unfold doPartitionDisable
  repeat' split
  all_goals simp (maxDischargeDepth := 12) [h_s, wf_mk]

@[simp] theorem wf_dropRep (s : State) (h_s : Memory.wf s) :
    Memory.wf (dropRep s) := by
  unfold dropRep
  repeat' split
  all_goals simp (maxDischargeDepth := 12) [h_s, wf_mk]

@[simp] theorem wf_abortJob (err : Nat) (s : State) (j : Job) (h_s : Memory.wf s) :
    Memory.wf (abortJob err s j) := by
  unfold abortJob
  repeat' split
  all_goals simp (maxDischargeDepth := 12) [h_s, wf_mk]

@[simp] theorem wf_abortJobs (s : State) (p err : Nat) (h : Memory.wf s) :
    Memory.wf (abortJobs s p err) := by
  unfold abortJobs
  exact wf_dropRep _ (wf_foldl _ (fun s x hs => wf_abortJob _ _ _ hs) _ _ h)

@[simp] theorem wf_loseContexts (s : State) (p : Nat) (h : Memory.wf s) :
    Memory.wf (loseContexts s p) := by
  unfold loseContexts
  extract_lets s1 s2 q s3 src
  have h1 : Memory.wf s1 := wf_foldl _ (fun s x hs => wf_dropColl _ _ hs) _ _ h
  have h2 : Memory.wf s2 := wf_dropSteps _ _ (wf_foldl _ (fun s x hs => wf_setCtx _ _ _ _ hs) _ _ h1)
  clear_value s2
  have h3 : Memory.wf s3 := wf_setPart _ _ _ h2
  simp [h3, wf_mk]

@[simp] theorem wf_disableEnd (s : State) (p : Nat) (h_s : Memory.wf s) :
    Memory.wf (disableEnd s p) := by
  unfold disableEnd
  simp (maxDischargeDepth := 12) [h_s]

@[simp] theorem wf_leadWrite (s : State) (c : Nat) (f : Nat → State) (h_s : Memory.wf s) (h_f : ∀ x, Memory.wf (f x)) :
    Memory.wf (leadWrite s c f) := by
  unfold leadWrite
  repeat' split
  all_goals simp (maxDischargeDepth := 12) [h_s, h_f, wf_mk]

@[simp] theorem wf_doCluStepWrite (c : Nat) (v : Word) (s : State) (h_s : Memory.wf s) :
    Memory.wf (doCluStepWrite c v s) := by
  unfold doCluStepWrite
  simp (maxDischargeDepth := 12) [h_s]

@[simp] theorem wf_doCluSeedWrite (c : Nat) (v : Word) (s : State) (h_s : Memory.wf s) :
    Memory.wf (doCluSeedWrite c v s) := by
  unfold doCluSeedWrite
  simp (maxDischargeDepth := 12) [h_s]

@[simp] theorem wf_doCluClipWrite (c : Nat) (v : Word) (s : State) (h_s : Memory.wf s) :
    Memory.wf (doCluClipWrite c v s) := by
  unfold doCluClipWrite
  repeat' split
  all_goals simp (maxDischargeDepth := 12) [h_s, wf_mk]

@[simp] theorem wf_decideIf (s : State) (p : Nat) (h_s : Memory.wf s) :
    Memory.wf (decideIf s p) := by
  unfold decideIf
  repeat' split
  all_goals simp (maxDischargeDepth := 12) [h_s, wf_mk]

@[simp] theorem wf_doSillageEnable (p : Nat) (v : BitVec 32) (s : State) (h_s : Memory.wf s) :
    Memory.wf (doSillageEnable p v s) := by
  unfold doSillageEnable
  dsimp only
  repeat' first | (simp (maxDischargeDepth := 12) [h_s, wf_mk]; done) | split | apply wf_foldl | intro _

@[simp] theorem wf_doSillageHeadWrite (p : Nat) (v : BitVec 32) (s : State) (h_s : Memory.wf s) :
    Memory.wf (doSillageHeadWrite p v s) := by
  unfold doSillageHeadWrite
  repeat' split
  all_goals simp (maxDischargeDepth := 12) [h_s, wf_mk]

/-! ### Reset -/

@[simp] theorem wf_retire (s : State) (c phys : Nat) (gone : Bool) (h_s : Memory.wf s) :
    Memory.wf (retire s c phys gone) := by
  unfold retire
  simp (maxDischargeDepth := 12) [h_s]

@[simp] theorem wf_showBusy (s : State) (h_s : Memory.wf s) :
    Memory.wf (showBusy s) := by
  unfold showBusy
  dsimp only
  repeat' first | (simp (maxDischargeDepth := 12) [h_s, wf_mk]; done) | split | apply wf_foldl | intro _

@[simp] theorem wf_rstErr (s : State) (h_s : Memory.wf s) :
    Memory.wf (rstErr s) := by
  unfold rstErr
  simp (maxDischargeDepth := 12) [h_s]

@[simp] theorem wf_endPartWork (s : State) (p : Nat) (h : Memory.wf s) :
    Memory.wf (endPartWork s p) := by
  unfold endPartWork
  split
  · extract_lets s1 s2
    have h1 : Memory.wf s1 := wf_foldl _ (fun s x hs => wf_collFail _ _ _ _ _ hs) _ _ (wf_failPipesOf _ _ h)
    have h2 : Memory.wf s2 := wf_loseContexts _ _ (wf_abortJobs _ _ _ h1)
    exact wf_setPart _ _ _ h2
  · exact h

@[simp] theorem wf_loseStores (s : State) (c : Nat) (h_s : Memory.wf s) :
    Memory.wf (loseStores s c) := by
  unfold loseStores
  simp (maxDischargeDepth := 12) [h_s, wf_mk]

@[simp] theorem wf_clusterReset (s : State) (c : Nat) (h_s : Memory.wf s) :
    Memory.wf (clusterReset s c) := by
  unfold clusterReset
  dsimp only
  repeat' first | (simp (maxDischargeDepth := 12) [h_s, wf_mk]; done) | split | apply wf_foldl | intro _

@[simp] theorem wf_leaveService (s : State) (c : Nat) (h_s : Memory.wf s) :
    Memory.wf (leaveService s c) := by
  unfold leaveService
  repeat' split
  all_goals simp (maxDischargeDepth := 12) [h_s, wf_mk]

@[simp] theorem wf_coreGone (s : State) (c phys cause : Nat) (h_s : Memory.wf s) :
    Memory.wf (coreGone s c phys cause) := by
  unfold coreGone
  simp (maxDischargeDepth := 12) [h_s]

@[simp] theorem wf_coreFault (s : State) (c phys cause : Nat) (h_s : Memory.wf s) :
    Memory.wf (coreFault s c phys cause) := by
  unfold coreFault
  repeat' split
  all_goals simp (maxDischargeDepth := 12) [h_s, wf_mk]

@[simp] theorem wf_doCoreEngineParity (c core : Nat) (s : State) (h_s : Memory.wf s) :
    Memory.wf (doCoreEngineParity c core s) := by
  unfold doCoreEngineParity
  repeat' split
  all_goals simp (maxDischargeDepth := 12) [h_s, wf_mk]

@[simp] theorem wf_doTileWatchdog (c core : Nat) (s : State) (h_s : Memory.wf s) :
    Memory.wf (doTileWatchdog c core s) := by
  unfold doTileWatchdog
  repeat' split
  all_goals simp (maxDischargeDepth := 12) [h_s, wf_mk]

@[simp] theorem wf_countStoreErr (s : State) (core : Nat) (h_s : Memory.wf s) :
    Memory.wf (countStoreErr s core) := by
  unfold countStoreErr
  repeat' split
  all_goals simp (maxDischargeDepth := 12) [h_s, wf_mk]

@[simp] theorem wf_doTileEndOn (a : StreamId) (i : BitVec 32) (t core : Nat) (e : StoreErr) (s : State) (h_s : Memory.wf s) :
    Memory.wf (doTileEndOn a i t core e s) := by
  unfold doTileEndOn
  dsimp only
  repeat' first | (simp (maxDischargeDepth := 12) [h_s, wf_mk]; done) | split | apply wf_foldl | intro _

@[simp] theorem wf_doClusterReset (src : CmdSrc) (c : Nat) (s : State) (h_s : Memory.wf s) :
    Memory.wf (doClusterReset src c s) := by
  unfold doClusterReset
  repeat' split
  all_goals simp (maxDischargeDepth := 12) [h_s, wf_mk]

@[simp] theorem wf_resumePart (s : State) (c : Nat) (h_s : Memory.wf s) :
    Memory.wf (resumePart s c) := by
  unfold resumePart
  repeat' split
  all_goals simp (maxDischargeDepth := 12) [h_s, wf_mk]

@[simp] theorem wf_clusterBack (s : State) (c : Nat) (h_s : Memory.wf s) :
    Memory.wf (clusterBack s c) := by
  unfold clusterBack
  simp (maxDischargeDepth := 12) [h_s]

@[simp] theorem wf_doClusterResetDone (c : Nat) (failed : BitVec 33) (s : State) (h : Memory.wf s) :
    Memory.wf (doClusterResetDone c failed s) := by
  unfold doClusterResetDone
  split
  · extract_lets bad again src s1 t s2
    clear_value bad
    have h1 : Memory.wf s1 := by simp [s1, h, wf_mk]
    have h2 : Memory.wf s2 := by
      simp only [s2]
      split
      · exact wf_resumePart _ _ h1
      · split
        · exact wf_clusterBack _ _ h1
        · split
          · exact wf_clusterBack _ _ (wf_errRecord _ _ (wf_State_setRBit _ _ _ _ (wf_State_nextFresh _ (wf_retire _ _ _ _ (wf_cntInc _ _ _ _ h1)))))
          · exact wf_coreGone _ _ _ _ (wf_foldl _ (fun s x hs => wf_retire _ _ _ _ hs) _ _ (wf_State_nextFresh _ (wf_cntInc _ _ _ _ h1)))
    exact wf_showBusy _ (wf_foldl _ (fun s x hs => wf_coreFault _ _ _ _ hs) _ _ h2)
  · exact h

@[simp] theorem wf_partitionReset (s : State) (p : Nat) (h_s : Memory.wf s) :
    Memory.wf (partitionReset s p) := by
  unfold partitionReset
  repeat' split
  all_goals simp (maxDischargeDepth := 12) [h_s, wf_mk]

@[simp] theorem wf_doPartitionReset (src : CmdSrc) (p : Nat) (s : State) (h_s : Memory.wf s) :
    Memory.wf (doPartitionReset src p s) := by
  unfold doPartitionReset
  repeat' split
  all_goals simp (maxDischargeDepth := 12) [h_s, wf_mk]

@[simp] theorem wf_doSequencerDisagreement (p : Fin 16) (k : Strm) (pc : BitVec 32) (s : State) (h_s : Memory.wf s) :
    Memory.wf (doSequencerDisagreement p k pc s) := by
  unfold doSequencerDisagreement
  repeat' split
  all_goals simp (maxDischargeDepth := 12) [h_s, wf_mk]

@[simp] theorem wf_doPartitionDisableDone (p : Nat) (s : State) (h : Memory.wf s) :
    Memory.wf (doPartitionDisableDone p s) := by
  unfold doPartitionDisableDone
  split
  · exact h
  · extract_lets s1
    have h1 : Memory.wf s1 := wf_disableEnd _ _ h
    clear_value s1
    split
    · exact wf_showBusy _ (wf_foldl _ (fun s x hs => wf_ite (wf_clusterReset _ _ hs) hs) _ _ h1)
    · exact h1

@[simp] theorem wf_doClusterThrottle (c : Nat) (s : State) (h_s : Memory.wf s) :
    Memory.wf (doClusterThrottle c s) := by
  unfold doClusterThrottle
  repeat' split
  all_goals simp (maxDischargeDepth := 12) [h_s, wf_mk]

@[simp] theorem wf_doClusterUnthrottle (c : Nat) (s : State) (h_s : Memory.wf s) :
    Memory.wf (doClusterUnthrottle c s) := by
  unfold doClusterUnthrottle
  simp (maxDischargeDepth := 12) [h_s, wf_mk]

end Sys2Proof.Machine
end

