-- ==== Sys2Proof/Laws/KeepSecurity.lean ====
section
/-! SUPPORT. The canonical form of the stores is kept by security, long operations, replay, power and management. -/

namespace Sys2Proof.Machine

/-! ### Sec -/

@[simp] theorem wf_mbxDone (s : State) (st : Nat) (h_s : Memory.wf s) :
    Memory.wf (mbxDone s st) := by
  unfold mbxDone
  simp (maxDischargeDepth := 12) [h_s]

@[simp] theorem wf_secCommand (port : DbgPort) (s : State) (f : State → State) (h_s : Memory.wf s) (h_f : ∀ s, Memory.wf s → Memory.wf (f s)) :
    Memory.wf (secCommand port s f) := by
  unfold secCommand
  repeat' split
  all_goals simp (maxDischargeDepth := 12) [h_s, h_f, wf_mk]

@[simp] theorem wf_setSubmit (s : State) (kind len : Nat) (h_s : Memory.wf s) :
    Memory.wf (setSubmit s kind len) := by
  unfold setSubmit
  simp (maxDischargeDepth := 12) [h_s]

@[simp] theorem wf_storeRsp (s : State) (b : List Byte) (h_s : Memory.wf s) :
    Memory.wf (storeRsp s b) := by
  unfold storeRsp
  try dsimp only
  repeat' first | (simp (maxDischargeDepth := 12) +contextual [h_s, wf_mk]; done) | split | (apply wf_foldl) | (apply wf_foldl1) | (simp (maxDischargeDepth := 12) +contextual [*, wf_mk]; done) | (intro _)

@[simp] theorem wf_takeFresh (s : State) (words : Nat) (h_s : Memory.wf s) :
    Memory.wf (takeFresh s words) := by
  unfold takeFresh
  simp (maxDischargeDepth := 12) [h_s, wf_mk]

@[simp] theorem wf_dropNonce (s : State) (h_s : Memory.wf s) :
    Memory.wf (dropNonce s) := by
  unfold dropNonce
  simp (maxDischargeDepth := 12) [h_s, wf_mk]

@[simp] theorem wf_doNewNonce (port : DbgPort) (s : State) (h_s : Memory.wf s) :
    Memory.wf (doNewNonce port s) := by
  unfold doNewNonce
  try dsimp only
  repeat' first | (simp (maxDischargeDepth := 12) +contextual [h_s, wf_mk]; done) | split | (apply wf_foldl) | (apply wf_foldl1) | (apply wf_secCommand) | (simp (maxDischargeDepth := 12) +contextual [*, wf_mk]; done) | (intro _)

@[simp] theorem wf_doNonceExpiry (s : State) (h_s : Memory.wf s) :
    Memory.wf (doNonceExpiry s) := by
  unfold doNonceExpiry
  repeat' split
  all_goals simp (maxDischargeDepth := 12) [h_s, wf_mk]

@[simp] theorem wf_dropLines (s : State) (h_s : Memory.wf s) :
    Memory.wf (dropLines s) := by
  unfold dropLines
  try dsimp only
  repeat' first | (simp (maxDischargeDepth := 12) +contextual [h_s, wf_mk]; done) | split | (apply wf_foldl) | (apply wf_foldl1) | (simp (maxDischargeDepth := 12) +contextual [*, wf_mk]; done) | (intro _)

@[simp] theorem wf_writeBack (s : State) (h_s : Memory.wf s) :
    Memory.wf (writeBack s) := by
  unfold writeBack
  try dsimp only
  repeat' first | (simp (maxDischargeDepth := 12) +contextual [h_s, wf_mk]; done) | split | (apply wf_foldl) | (apply wf_foldl1) | (simp (maxDischargeDepth := 12) +contextual [*, wf_mk]; done) | (intro _)

@[simp] theorem wf_scrubBegin (s : State) (h_s : Memory.wf s) :
    Memory.wf (scrubBegin s) := by
  unfold scrubBegin
  simp (maxDischargeDepth := 12) [h_s]

@[simp] theorem wf_scrubEnd (s : State) (h_s : Memory.wf s) :
    Memory.wf (scrubEnd s) := by
  unfold scrubEnd
  simp (maxDischargeDepth := 12) [h_s, wf_mk]

@[simp] theorem wf_zeroise (s : State) (h_s : Memory.wf s) :
    Memory.wf (zeroise s) := by
  unfold zeroise
  simp (maxDischargeDepth := 12) [h_s, wf_mk]

@[simp] theorem wf_provision (s : State) (h_s : Memory.wf s) :
    Memory.wf (provision s) := by
  unfold provision
  dsimp only
  repeat' first | (simp (maxDischargeDepth := 12) [h_s, wf_mk]; done) | split | apply wf_foldl | intro _

@[simp] theorem wf_lifeCheck (s : State) (b : List Byte) (h_s : Memory.wf s) :
    Memory.wf (lifeCheck s b).1 := by
  unfold lifeCheck
  dsimp only
  repeat' first | (simp (maxDischargeDepth := 12) [h_s, wf_mk]; done) | split | apply wf_foldl | intro _

theorem wf_lifeCheck_eq {s : State} {b : List Byte} {t9 : State} {x9 : Nat} (h_s : Memory.wf s) (e9 : lifeCheck s b = (t9, x9)) : Memory.wf t9 := by
  have h := wf_lifeCheck s b h_s
  rw [e9] at h
  exact h

@[simp] theorem wf_lifeSubmit (port : DbgPort) (len : Nat) (s : State) (h_s : Memory.wf s) :
    Memory.wf (lifeSubmit port len s) := by
  unfold lifeSubmit
  try dsimp only
  repeat' first | (simp (maxDischargeDepth := 12) +contextual [h_s, wf_mk]; done) | split | (apply wf_foldl) | (apply wf_foldl1) | (apply wf_secCommand) | ((try have hx := wf_lifeCheck_eq (by assumption) ‹lifeCheck _ _  = (_, _)›); (try have hx := wf_lifeCheck_eq (by assumption) ‹lifeCheck _ _  = (_, _)›); (simp (maxDischargeDepth := 12) +contextual [*, wf_mk]; done)) | (simp (maxDischargeDepth := 12) +contextual [*, wf_mk]; done) | (intro _)

@[simp] theorem wf_doDeploy (port : DbgPort) (len : BitVec 13) (s : State) (h_s : Memory.wf s) :
    Memory.wf (doDeploy port len s) := by
  unfold doDeploy
  repeat' split
  all_goals simp (maxDischargeDepth := 12) [h_s, wf_mk]

@[simp] theorem wf_doRevoke (port : DbgPort) (len : BitVec 13) (s : State) (h_s : Memory.wf s) :
    Memory.wf (doRevoke port len s) := by
  unfold doRevoke
  repeat' split
  all_goals simp (maxDischargeDepth := 12) [h_s, wf_mk]

@[simp] theorem wf_doReturnLife (port : DbgPort) (len : BitVec 13) (s : State) (h_s : Memory.wf s) :
    Memory.wf (doReturnLife port len s) := by
  unfold doReturnLife
  repeat' split
  all_goals simp (maxDischargeDepth := 12) [h_s, wf_mk]

@[simp] theorem wf_closeSess (s : State) (cause : Nat) (h_s : Memory.wf s) :
    Memory.wf (closeSess s cause) := by
  unfold closeSess
  repeat' split
  all_goals simp (maxDischargeDepth := 12) [h_s, wf_mk]

@[simp] theorem wf_openSess (s : State) (q : Session) (h_s : Memory.wf s) :
    Memory.wf (openSess s q) := by
  unfold openSess
  repeat' split
  all_goals simp (maxDischargeDepth := 12) [h_s, wf_mk]

@[simp] theorem wf_openNext (s : State) (h_s : Memory.wf s) :
    Memory.wf (openNext s) := by
  unfold openNext
  repeat' split
  all_goals simp (maxDischargeDepth := 12) [h_s, wf_mk]

@[simp] theorem wf_enterSess (s : State) (q : Session) (h_s : Memory.wf s) :
    Memory.wf (enterSess s q) := by
  unfold enterSess
  dsimp only
  repeat' first | (simp (maxDischargeDepth := 12) [h_s, wf_mk]; done) | split | apply wf_foldl | intro _

@[simp] theorem wf_tokenCheck (s : State) (b : List Byte) (h_s : Memory.wf s) :
    Memory.wf (tokenCheck s b).1 := by
  unfold tokenCheck
  dsimp only
  repeat' first | (simp (maxDischargeDepth := 12) [h_s, wf_mk]; done) | split | apply wf_foldl | intro _

theorem wf_tokenCheck_eq {s : State} {b : List Byte} {t9 : State} {x9 : Nat} (h_s : Memory.wf s) (e9 : tokenCheck s b = (t9, x9)) : Memory.wf t9 := by
  have h := wf_tokenCheck s b h_s
  rw [e9] at h
  exact h

@[simp] theorem wf_doDebugToken (port : DbgPort) (len : BitVec 13) (s : State) (h_s : Memory.wf s) :
    Memory.wf (doDebugToken port len s) := by
  unfold doDebugToken
  try dsimp only
  repeat' first | (simp (maxDischargeDepth := 12) +contextual [h_s, wf_mk]; done) | split | (apply wf_foldl) | (apply wf_foldl1) | (apply wf_secCommand) | ((try have hx := wf_tokenCheck_eq (by assumption) ‹tokenCheck _ _  = (_, _)›); (try have hx := wf_tokenCheck_eq (by assumption) ‹tokenCheck _ _  = (_, _)›); (simp (maxDischargeDepth := 12) +contextual [*, wf_mk]; done)) | (simp (maxDischargeDepth := 12) +contextual [*, wf_mk]; done) | (intro _)

@[simp] theorem wf_doDebugRequest (port : DbgPort) (level : BitVec 2) (s : State) (h_s : Memory.wf s) :
    Memory.wf (doDebugRequest port level s) := by
  unfold doDebugRequest
  try dsimp only
  repeat' first | (simp (maxDischargeDepth := 12) +contextual [h_s, wf_mk]; done) | split | (apply wf_foldl) | (apply wf_foldl1) | (apply wf_secCommand) | (simp (maxDischargeDepth := 12) +contextual [*, wf_mk]; done) | (intro _)

@[simp] theorem wf_doDebugScrubDone (s : State) (h_s : Memory.wf s) :
    Memory.wf (doDebugScrubDone s) := by
  unfold doDebugScrubDone
  dsimp only
  repeat' first | (simp (maxDischargeDepth := 12) [h_s, wf_mk]; done) | split | apply wf_foldl | intro _

@[simp] theorem wf_doCloseSession (port : DbgPort) (s : State) (h_s : Memory.wf s) :
    Memory.wf (doCloseSession port s) := by
  unfold doCloseSession
  try dsimp only
  repeat' first | (simp (maxDischargeDepth := 12) +contextual [h_s, wf_mk]; done) | split | (apply wf_foldl) | (apply wf_foldl1) | (apply wf_secCommand) | (simp (maxDischargeDepth := 12) +contextual [*, wf_mk]; done) | (intro _)

@[simp] theorem wf_doSessionDurationExpiry (s : State) (h_s : Memory.wf s) :
    Memory.wf (doSessionDurationExpiry s) := by
  unfold doSessionDurationExpiry
  repeat' split
  all_goals simp (maxDischargeDepth := 12) [h_s, wf_mk]

@[simp] theorem wf_restartSess (s : State) (h_s : Memory.wf s) :
    Memory.wf (restartSess s) := by
  unfold restartSess
  dsimp only
  repeat' first | (simp (maxDischargeDepth := 12) [h_s, wf_mk]; done) | split | apply wf_foldl | intro _

@[simp] theorem wf_doDebugHalt (p : Fin 16) (x : Fin 8) (s : State) (h_s : Memory.wf s) :
    Memory.wf (doDebugHalt p x s) := by
  unfold doDebugHalt
  repeat' split
  all_goals simp (maxDischargeDepth := 12) [h_s, wf_mk]

@[simp] theorem wf_doDebugResume (p : Fin 16) (x : Fin 8) (s : State) (h_s : Memory.wf s) :
    Memory.wf (doDebugResume p x s) := by
  unfold doDebugResume
  repeat' split
  all_goals simp (maxDischargeDepth := 12) [h_s, wf_mk]

@[simp] theorem wf_setSpdm (s : State) (port : SpdmPort) (n : Nat) (h_s : Memory.wf s) :
    Memory.wf (setSpdm s port n) := by
  unfold setSpdm
  simp (maxDischargeDepth := 12) [h_s, wf_mk]

@[simp] theorem wf_spdmReply (port : SpdmPort) (r : State × List Byte) (h_r : Memory.wf r.1) :
    Memory.wf (spdmReply port r) := by
  unfold spdmReply
  repeat' split
  all_goals simp (maxDischargeDepth := 12) [h_r, wf_mk]

@[simp] theorem wf_spdmRequest (port : SpdmPort) (s : State) (f : State → State × List Byte) (h_s : Memory.wf s) (h_f : ∀ s, Memory.wf s → Memory.wf (f s).1) :
    Memory.wf (spdmRequest port s f) := by
  unfold spdmRequest
  try dsimp only
  repeat' first | (simp (maxDischargeDepth := 12) +contextual [h_s, h_f, wf_mk]; done) | split | (apply wf_foldl) | (apply wf_foldl1) | (apply wf_secCommand) | (simp (maxDischargeDepth := 12) +contextual [*, wf_mk]; done) | (intro _)

@[simp] theorem wf_spdmAgreed (port : SpdmPort) (s : State) (f : State → State × List Byte) (h_s : Memory.wf s) (h_f : ∀ s, Memory.wf s → Memory.wf (f s).1) :
    Memory.wf (spdmAgreed port s f).1 := by
  unfold spdmAgreed
  repeat' split
  all_goals simp (maxDischargeDepth := 12) [h_s, h_f, wf_mk]

@[simp] theorem wf_doGetVersion (port : SpdmPort) (s : State) (h_s : Memory.wf s) :
    Memory.wf (doGetVersion port s) := by
  unfold doGetVersion
  try dsimp only
  repeat' first | (simp (maxDischargeDepth := 12) +contextual [h_s, wf_mk]; done) | split | (apply wf_foldl) | (apply wf_foldl1) | (apply wf_spdmRequest) | (simp (maxDischargeDepth := 12) +contextual [*, wf_mk]; done) | (intro _)

@[simp] theorem wf_doGetCapabilities (port : SpdmPort) (s : State) (h_s : Memory.wf s) :
    Memory.wf (doGetCapabilities port s) := by
  unfold doGetCapabilities
  try dsimp only
  repeat' first | (simp (maxDischargeDepth := 12) +contextual [h_s, wf_mk]; done) | split | (apply wf_foldl) | (apply wf_foldl1) | (apply wf_spdmRequest) | (simp (maxDischargeDepth := 12) +contextual [*, wf_mk]; done) | (intro _)

@[simp] theorem wf_doNegotiateAlgorithms (port : SpdmPort) (asymOk hashOk measOk : Bool) (s : State) (h_s : Memory.wf s) :
    Memory.wf (doNegotiateAlgorithms port asymOk hashOk measOk s) := by
  unfold doNegotiateAlgorithms
  try dsimp only
  repeat' first | (simp (maxDischargeDepth := 12) +contextual [h_s, wf_mk]; done) | split | (apply wf_foldl) | (apply wf_foldl1) | (apply wf_spdmRequest) | (simp (maxDischargeDepth := 12) +contextual [*, wf_mk]; done) | (intro _)

@[simp] theorem wf_doGetDigests (port : SpdmPort) (s : State) (h : Memory.wf s) :
    Memory.wf (doGetDigests port s) := by
  unfold doGetDigests
  refine wf_spdmRequest _ _ _ h (fun s hs => wf_spdmAgreed _ _ _ hs (fun s hs => ?_))
  try dsimp only
  repeat' split
  all_goals first | exact hs | exact wf_State_nextFresh _ (wf_takeFresh _ _ hs) | exact wf_takeFresh _ _ hs

@[simp] theorem wf_doGetCertificate (port : SpdmPort) (slot offset length : Nat) (s : State) (h : Memory.wf s) :
    Memory.wf (doGetCertificate port slot offset length s) := by
  unfold doGetCertificate
  refine wf_spdmRequest _ _ _ h (fun s hs => wf_spdmAgreed _ _ _ hs (fun s hs => ?_))
  try dsimp only
  repeat' split
  all_goals first | exact hs | exact wf_State_nextFresh _ (wf_takeFresh _ _ hs) | exact wf_takeFresh _ _ hs

@[simp] theorem wf_doChallenge (port : SpdmPort) (slot : Nat) (summary : Bool) (s : State) (h : Memory.wf s) :
    Memory.wf (doChallenge port slot summary s) := by
  unfold doChallenge
  refine wf_spdmRequest _ _ _ h (fun s hs => wf_spdmAgreed _ _ _ hs (fun s hs => ?_))
  try dsimp only
  repeat' split
  all_goals first | exact hs | exact wf_State_nextFresh _ (wf_takeFresh _ _ hs) | exact wf_takeFresh _ _ hs

@[simp] theorem wf_doGetMeasurements (port : SpdmPort) (index : BitVec 8) (signed : Bool) (s : State) (h : Memory.wf s) :
    Memory.wf (doGetMeasurements port index signed s) := by
  unfold doGetMeasurements
  refine wf_spdmRequest _ _ _ h (fun s hs => wf_spdmAgreed _ _ _ hs (fun s hs => ?_))
  try dsimp only
  repeat' split
  all_goals first | exact hs | exact wf_State_nextFresh _ (wf_takeFresh _ _ hs) | exact wf_takeFresh _ _ hs

@[simp] theorem wf_spdmBytes (b : List Byte) (s : State) (h_s : Memory.wf s) :
    Memory.wf (spdmBytes b s) := by
  unfold spdmBytes
  dsimp only
  repeat' first | (simp (maxDischargeDepth := 12) [h_s, wf_mk]; done) | split | apply wf_foldl | intro _

@[simp] theorem wf_mbxWrite (port : DbgPort) (v : Word) (s : State) (h_s : Memory.wf s) :
    Memory.wf (mbxWrite port v s) := by
  unfold mbxWrite
  try dsimp only
  repeat' first | (simp (maxDischargeDepth := 12) +contextual [h_s, wf_mk]; done) | split | (apply wf_foldl) | (apply wf_foldl1) | (apply wf_secCommand) | (simp (maxDischargeDepth := 12) +contextual [*, wf_mk]; done) | (intro _)

@[simp] theorem wf_doRecoveryLoad (obj : List Byte) (s : State) (h_s : Memory.wf s) :
    Memory.wf (doRecoveryLoad obj s) := by
  unfold doRecoveryLoad
  repeat' split
  all_goals simp (maxDischargeDepth := 12) [h_s, wf_mk]

@[simp] theorem wf_doRecoveryLoadDone (readBackOk : Bool) (s : State) (h_s : Memory.wf s) :
    Memory.wf (doRecoveryLoadDone readBackOk s) := by
  unfold doRecoveryLoadDone
  dsimp only
  repeat' first | (simp (maxDischargeDepth := 12) [h_s, wf_mk]; done) | split | apply wf_foldl | intro _

@[simp] theorem wf_tapInstr (s : State) (ir : Nat) (capture : Word) (h_s : Memory.wf s) :
    Memory.wf (tapInstr s ir capture) := by
  unfold tapInstr
  repeat' split
  all_goals simp (maxDischargeDepth := 12) [h_s, wf_mk]

@[simp] theorem wf_doBypass (s : State) (h_s : Memory.wf s) :
    Memory.wf (doBypass s) := by
  unfold doBypass
  simp (maxDischargeDepth := 12) [h_s]

@[simp] theorem wf_doIdcode (s : State) (h_s : Memory.wf s) :
    Memory.wf (doIdcode s) := by
  unfold doIdcode
  simp (maxDischargeDepth := 12) [h_s]

@[simp] theorem wf_setPins (s : State) (v : Word) (h_s : Memory.wf s) :
    Memory.wf (setPins s v) := by
  unfold setPins
  repeat' split
  all_goals simp (maxDischargeDepth := 12) [h_s, wf_mk]

@[simp] theorem wf_doSamplePreload (pins : BitVec 64) (s : State) (h_s : Memory.wf s) :
    Memory.wf (doSamplePreload pins s) := by
  unfold doSamplePreload
  simp (maxDischargeDepth := 12) [h_s]

@[simp] theorem wf_doExtest (pins : BitVec 64) (s : State) (h_s : Memory.wf s) :
    Memory.wf (doExtest pins s) := by
  unfold doExtest
  repeat' split
  all_goals simp (maxDischargeDepth := 12) [h_s, wf_mk]

@[simp] theorem wf_doDbgMbx (v : BitVec 64) (hostSameCycle : Bool) (s : State) (h_s : Memory.wf s) :
    Memory.wf (doDbgMbx v hostSameCycle s) := by
  unfold doDbgMbx
  repeat' split
  all_goals simp (maxDischargeDepth := 12) [h_s, wf_mk]

@[simp] theorem wf_doDbgData (v : BitVec 64) (s : State) (h_s : Memory.wf s) :
    Memory.wf (doDbgData v s) := by
  unfold doDbgData
  repeat' split
  all_goals simp (maxDischargeDepth := 12) [h_s, wf_mk]

@[simp] theorem wf_doTapReset (s : State) (h_s : Memory.wf s) :
    Memory.wf (doTapReset s) := by
  unfold doTapReset
  repeat' split
  all_goals simp (maxDischargeDepth := 12) [h_s, wf_mk]

/-! ### LongOps -/

@[simp] theorem wf_doJobBist (i : Nat) (s : State) (h_s : Memory.wf s) :
    Memory.wf (doJobBist i s) := by
  unfold doJobBist
  repeat' split
  all_goals simp (maxDischargeDepth := 12) [h_s, wf_mk]

@[simp] theorem wf_exportDescs (s : State) (j : Job) (h_s : Memory.wf s) :
    Memory.wf (exportDescs s j).1 := by
  unfold exportDescs
  simp (maxDischargeDepth := 12) [h_s]

theorem wf_exportDescs_eq {s : State} {j : Job} {t9 : State} {x9 : Option (List DescWord)} (h_s : Memory.wf s) (e9 : exportDescs s j = (t9, x9)) : Memory.wf t9 := by
  have h := wf_exportDescs s j h_s
  rw [e9] at h
  exact h

@[simp] theorem wf_destRefused (s : State) (j : Job) (lo : Nat) (h_s : Memory.wf s) :
    Memory.wf (destRefused s j lo).1 := by
  unfold destRefused
  simp (maxDischargeDepth := 12) [h_s]


theorem wf_destRefused_eq {s : State} {j : Job} {lo : Nat} {t9 : State} {x9 : Nat} (h_s : Memory.wf s) (e9 : destRefused s j lo = (t9, x9)) : Memory.wf t9 := by
  have h := wf_destRefused s j lo h_s
  rw [e9] at h
  exact h

@[simp] theorem wf_exportCheck (s : State) (j : Job) (h_s : Memory.wf s) :
    Memory.wf (exportCheck s j).1 := by
  unfold exportCheck
  try dsimp only
  repeat' first | (simp (maxDischargeDepth := 12) +contextual [h_s, wf_mk]; done) | split | (apply wf_foldl) | (apply wf_foldl1) | ((try have hx := wf_exportDescs_eq (by assumption) ‹exportDescs _ _  = (_, _)›); (try have hx := wf_destRefused_eq (by assumption) ‹destRefused _ _ _  = (_, _)›); (try have hx := wf_exportDescs_eq (by assumption) ‹exportDescs _ _  = (_, _)›); (try have hx := wf_destRefused_eq (by assumption) ‹destRefused _ _ _  = (_, _)›); (simp (maxDischargeDepth := 12) +contextual [*, wf_mk]; done)) | (simp (maxDischargeDepth := 12) +contextual [*, wf_mk]; done) | (intro _)

theorem wf_exportCheck_eq {s : State} {j : Job} {t9 : State} {x9 : Nat} (h_s : Memory.wf s) (e9 : exportCheck s j = (t9, x9)) : Memory.wf t9 := by
  have h := wf_exportCheck s j h_s
  rw [e9] at h
  exact h

@[simp] theorem wf_exportEnd (s : State) (j : Job) (st err : Nat) (h_s : Memory.wf s) :
    Memory.wf (exportEnd s j st err) := by
  unfold exportEnd
  simp (maxDischargeDepth := 12) [h_s]

@[simp] theorem wf_doJobExport (i : Nat) (s : State) (h : Memory.wf s) :
    Memory.wf (doJobExport i s) := by
  unfold doJobExport
  split
  · exact h
  · extract_lets c
    have hc : Memory.wf c.1 := wf_exportCheck _ _ h
    clear_value c
    split
    · exact wf_exportEnd _ _ _ _ hc
    · exact wf_longChecked _ _ _ hc

@[simp] theorem wf_readSegs (p : Nat) (gs : List Seg) : ∀ (s : State), Memory.wf s → Memory.wf (readSegs p gs s).1 := by
  induction gs with
  | nil => intro s h; exact h
  | cons g gs ih =>
    intro s h
    cases g with
    | lit b => exact ih s h
    | mem a n =>
      unfold readSegs
      split
      · exact ih s h
      · have hv := wf_vread s a n (hubReader p) h
        repeat' split
        all_goals (rename_i e; rw [e] at hv; first | exact hv | exact ih _ hv)

@[simp] theorem wf_hostWriteAll (s : State) (a : Nat) (b : List Byte) (h_s : Memory.wf s) :
    Memory.wf (hostWriteAll s a b) := by
  unfold hostWriteAll
  try dsimp only
  repeat' first | (simp (maxDischargeDepth := 12) +contextual [h_s, wf_mk]; done) | split | (apply wf_foldl) | (apply wf_foldl1) | (simp (maxDischargeDepth := 12) +contextual [*, wf_mk]; done) | (intro _)

@[simp] theorem wf_exportBytes (s : State) (j : Job) (lo hi : Nat) (h : Memory.wf s) :
    Memory.wf (exportBytes s j lo hi).1 := by
  unfold exportBytes
  split
  · exact wf_exportDescs_eq h (by assumption)
  · rename_i hs
    have h1 := wf_exportDescs_eq h hs
    rename_i s1 ds
    have h2 := wf_readSegs (jPart j) (segRange (exportSegs s1 j ds) lo (hi - lo)) s1 h1
    split
    · rename_i hs2
      rw [hs2] at h2
      exact h2
    · rename_i hs2
      rw [hs2] at h2
      split
      · exact wf_hostWriteAll _ _ _ h2
      · exact wf_destRefused _ _ _ h2

@[simp] theorem wf_exportDone (s : State) (j : Job) (h : Memory.wf s) :
    Memory.wf (exportDone s j) := by
  unfold exportDone
  extract_lets n c j1
  have hc : Memory.wf c.1 := wf_exportBytes _ _ _ _ h
  clear_value c
  split
  · exact wf_exportEnd _ _ _ _ hc
  · exact wf_slgWrite _ _ _ (wf_exportEnd _ _ _ _ hc)

@[simp] theorem wf_doJobScrub (i : Nat) (s : State) (h_s : Memory.wf s) :
    Memory.wf (doJobScrub i s) := by
  unfold doJobScrub
  repeat' split
  all_goals simp (maxDischargeDepth := 12) [h_s, wf_mk]

@[simp] theorem wf_scrubMib (s : State) (j : Job) (lo hi : Nat) (h_s : Memory.wf s) :
    Memory.wf (scrubMib s j lo hi) := by
  unfold scrubMib
  try dsimp only
  repeat' first | (simp (maxDischargeDepth := 12) +contextual [h_s, wf_mk]; done) | split | (apply wf_foldl) | (apply wf_foldl1) | (simp (maxDischargeDepth := 12) +contextual [*, wf_mk]; done) | (intro _)

@[simp] theorem wf_flashReject (s : State) (j : Job) (ty st : Nat) (h_s : Memory.wf s) :
    Memory.wf (flashReject s j ty st) := by
  unfold flashReject
  simp (maxDischargeDepth := 12) [h_s]

@[simp] theorem wf_fillThrough (s : State) (a : Nat) (b : List Byte) (h_s : Memory.wf s) :
    Memory.wf (fillThrough s a b) := by
  unfold fillThrough
  try dsimp only
  repeat' first | (simp (maxDischargeDepth := 12) +contextual [h_s, wf_mk]; done) | split | (apply wf_foldl) | (apply wf_foldl1) | (apply wf_State_capture) | (simp (maxDischargeDepth := 12) +contextual [*, wf_mk]; done) | (intro _)

@[simp] theorem wf_doJobFlash (i : Nat) (obj : List Byte) (s : State) (h_s : Memory.wf s) :
    Memory.wf (doJobFlash i obj s) := by
  unfold doJobFlash
  dsimp only
  repeat' first | (simp (maxDischargeDepth := 12) [h_s, wf_mk]; done) | split | apply wf_foldl | intro _

@[simp] theorem wf_flashOver (s : State) (h_s : Memory.wf s) :
    Memory.wf (flashOver s) := by
  unfold flashOver
  simp (maxDischargeDepth := 12) [h_s, wf_mk]

@[simp] theorem wf_doBistClusterDone (c : Nat) (failed : BitVec 34) (s : State) (h_s : Memory.wf s) :
    Memory.wf (doBistClusterDone c failed s) := by
  unfold doBistClusterDone
  try dsimp only
  repeat' first | (simp (maxDischargeDepth := 12) +contextual [h_s, wf_mk]; done) | split | (apply wf_foldl) | (apply wf_foldl1) | (simp (maxDischargeDepth := 12) +contextual [*, wf_mk]; done) | (intro _)

/-! ### Replay -/

@[simp] theorem wf_doJobReplay (i : Nat) (s : State) (h_s : Memory.wf s) :
    Memory.wf (doJobReplay i s) := by
  unfold doJobReplay
  repeat' split
  all_goals simp (maxDischargeDepth := 12) [h_s, wf_mk]

@[simp] theorem wf_replayEnd (s : State) (q : Replay) (st err : Nat) (h : Memory.wf s) :
    Memory.wf (replayEnd s q st err) := by
  unfold replayEnd
  extract_lets s1 src s2 s3
  have h1 : Memory.wf s1 := wf_foldl _ (fun s x hs => by
    extract_lets t y u src
    have ht : Memory.wf t := wf_ite hs (wf_stopCtx _ _ _ hs)
    have hu : Memory.wf u := wf_setPart _ _ _ ht
    exact wf_countJobs _ (wf_same hu rfl rfl rfl rfl)) _ _ h
  have h2 : Memory.wf s2 := wf_same h1 rfl rfl rfl rfl
  have h3 : Memory.wf s3 := by
    simp only [s3]
    split
    · exact wf_jobEnd _ _ _ _ _ h2
    · exact h2
  exact wf_decide_ _ _ h3

@[simp] theorem wf_replayAt (s : State) (q : Replay) (n : Nat) (h_s : Memory.wf s) :
    Memory.wf (replayAt s q n) := by
  unfold replayAt
  simp (maxDischargeDepth := 12) [h_s, wf_mk]

@[simp] theorem wf_applyHostLine (s : State) (a : Nat) (mask : BitVec 64) (data : BitVec 512) (h_s : Memory.wf s) :
    Memory.wf (applyHostLine s a mask data) := by
  unfold applyHostLine
  try dsimp only
  repeat' first | (simp (maxDischargeDepth := 12) +contextual [h_s, wf_mk]; done) | split | (apply wf_foldl) | (apply wf_foldl1) | (simp (maxDischargeDepth := 12) +contextual [*, wf_mk]; done) | (intro _)

@[simp] theorem wf_replayStep (s : State) (q : Replay) (r : Option (List Word)) (h_s : Memory.wf s) :
    Memory.wf (replayStep s q r) := by
  unfold replayStep
  dsimp only
  repeat' first | (simp (maxDischargeDepth := 12) [h_s, wf_mk]; done) | split | apply wf_foldl | intro _

@[simp] theorem wf_replayReg (s : State) (q : Replay) (r : Option (List Word)) (h_s : Memory.wf s) :
    Memory.wf (replayReg s q r) := by
  unfold replayReg
  repeat' split
  all_goals simp (maxDischargeDepth := 12) [h_s, wf_mk]

@[simp] theorem wf_replayJobEnd (s : State) (q : Replay) (n : Nat) (r : Option (List Word)) (h_s : Memory.wf s) :
    Memory.wf (replayJobEnd s q n r) := by
  unfold replayJobEnd
  dsimp only
  repeat' first | (simp (maxDischargeDepth := 12) [h_s, wf_mk]; done) | split | apply wf_foldl | intro _

@[simp] theorem wf_replayPull (s : State) (q : Replay) (n : Nat) (r : Option (List Word)) (h_s : Memory.wf s) :
    Memory.wf (replayPull s q n r) := by
  unfold replayPull
  dsimp only
  repeat' first | (simp (maxDischargeDepth := 12) [h_s, wf_mk]; done) | split | apply wf_foldl | intro _

@[simp] theorem wf_replayFailRec (s : State) (q : Replay) (n : Nat) (r : Option (List Word)) (h_s : Memory.wf s) :
    Memory.wf (replayFailRec s q n r) := by
  unfold replayFailRec
  dsimp only
  repeat' first | (simp (maxDischargeDepth := 12) [h_s, wf_mk]; done) | split | apply wf_foldl | intro _

theorem wf_flushLate_some {s : State} {m n : Nat} {r : List Word} {t : State} (h : Memory.wf s)
    (e : flushLate s m n r = some t) : Memory.wf t := by
  unfold flushLate at e
  dsimp only at e
  split at e
  · split at e <;> cases e
    simp [h]
  · cases e

theorem wf_dropLate_some {s : State} {m n : Nat} {r : List Word} {t : State} (h : Memory.wf s)
    (e : dropLate s m n r = some t) : Memory.wf t := by
  unfold dropLate at e
  dsimp only at e
  split at e
  · cases e
  · split at e
    · cases e; simp [h]
    · split at e
      · obtain ⟨x, -, rfl⟩ := Option.map_eq_some_iff.mp e
        exact wf_cntInc _ _ _ _ (wf_liveDrop _ _ _ _ _ _ (wf_setPipe _ _ _ _ h))
      · cases e

@[simp] theorem wf_replayLive (s : State) (q : Replay) (n : Nat) (r : Option (List Word)) (h_s : Memory.wf s) :
    Memory.wf (replayLive s q n r) := by
  unfold replayLive
  extract_lets m k keep s1
  have hk : Memory.wf keep := by simp [keep, h_s]
  have h1 : Memory.wf s1 := by
    simp only [s1]
    split
    · exact h_s
    · split
      · exact wf_flushLate_some h_s (by assumption)
      · exact wf_dropLate_some h_s (by assumption)
      · exact hk
  simp [h1]

@[simp] theorem wf_replayMember (s : State) (q : Replay) (n : Nat) (r : Option (List Word)) (h_s : Memory.wf s) :
    Memory.wf (replayMember s q n r) := by
  unfold replayMember
  repeat' split
  all_goals simp (maxDischargeDepth := 12) [h_s, wf_mk]

@[simp] theorem wf_doReplayRecord (s : State) (h_s : Memory.wf s) :
    Memory.wf (doReplayRecord s) := by
  unfold doReplayRecord
  dsimp only
  repeat' first | (simp (maxDischargeDepth := 12) [h_s, wf_mk]; done) | split | apply wf_foldl | intro _

@[simp] theorem wf_replayDone (s : State) (q : Replay) (h_s : Memory.wf s) :
    Memory.wf (replayDone s q) := by
  unfold replayDone
  repeat' split
  all_goals simp (maxDischargeDepth := 12) [h_s, wf_mk]

@[simp] theorem wf_replayStart (s : State) (j : Job) (h_s : Memory.wf s) :
    Memory.wf (replayStart s j) := by
  unfold replayStart
  dsimp only
  repeat' first | (simp (maxDischargeDepth := 12) [h_s, wf_mk]; done) | split | apply wf_foldl | intro _

@[simp] theorem wf_cmpCheck (s : State) (a : StreamId) (w : List Word) (h_s : Memory.wf s) :
    Memory.wf (cmpCheck s a w) := by
  unfold cmpCheck
  try dsimp only
  repeat' first | (simp (maxDischargeDepth := 12) +contextual [h_s, wf_mk]; done) | split | (apply wf_foldl) | (apply wf_foldl1) | (apply wf_State_capture) | (simp (maxDischargeDepth := 12) +contextual [*, wf_mk]; done) | (intro _)

@[simp] theorem wf_cmpRecord (a : StreamId) (last : Nat) (s : State) (x : Nat × Nat × DescWord) (h_s : Memory.wf s) :
    Memory.wf (cmpRecord a last s x) := by
  unfold cmpRecord
  simp (maxDischargeDepth := 12) [h_s]

@[simp] theorem wf_doComparatorGroupEnd (a : StreamId) (s : State) (h : Memory.wf s) :
    Memory.wf (doComparatorGroupEnd a s) := by
  unfold doComparatorGroupEnd
  extract_lets t last xs s1 s2 s3
  split
  · exact h
  · have h1 : Memory.wf s1 := wf_foldl _ (fun s x hs => wf_cmpRecord _ _ _ _ hs) _ _ h
    have h2 : Memory.wf s2 := wf_modStrmAt _ _ _ h1
    have h3 : Memory.wf s3 := by
      simp only [s3]
      split
      · exact wf_ite (wf_replayEnd _ _ _ _ h2) h2
      · exact h2
    exact wf_settle _ _ _ h3

@[simp] theorem wf_longBegin (s : State) (j : Job) (h_s : Memory.wf s) :
    Memory.wf (longBegin s j) := by
  unfold longBegin
  repeat' split
  all_goals simp (maxDischargeDepth := 12) [h_s, wf_mk]

@[simp] theorem wf_doLongOperationStart (op : LongOp) (s : State) (h_s : Memory.wf s) :
    Memory.wf (doLongOperationStart op s) := by
  unfold doLongOperationStart
  repeat' split
  all_goals simp (maxDischargeDepth := 12) [h_s, wf_mk]

@[simp] theorem wf_longWork (s : State) (j : Job) (n : Nat) (h : Memory.wf s) :
    Memory.wf (longWork s j n).1 := by
  unfold longWork
  split
  · exact wf_exportBytes _ _ _ _ h
  · exact wf_scrubMib _ _ _ _ h
  · exact h

@[simp] theorem wf_doLongOperationUnitDone (op : LongOp) (n : Nat) (s : State) (h : Memory.wf s) :
    Memory.wf (doLongOperationUnitDone op n s) := by
  unfold doLongOperationUnitDone
  split
  · exact h
  · extract_lets c
    have hc : Memory.wf c.1 := wf_longWork _ _ _ h
    clear_value c
    split
    · exact h
    · split
      · exact wf_exportEnd _ _ _ _ hc
      · exact wf_longProgress _ _ _ hc

@[simp] theorem wf_longFinish (s : State) (j : Job) (how : LongEnd) (h_s : Memory.wf s) :
    Memory.wf (longFinish s j how) := by
  unfold longFinish
  repeat' split
  all_goals simp (maxDischargeDepth := 12) [h_s, wf_mk]

@[simp] theorem wf_doLongOperationEnd (op : LongOp) (how : LongEnd) (s : State) (h_s : Memory.wf s) :
    Memory.wf (doLongOperationEnd op how s) := by
  unfold doLongOperationEnd
  repeat' split
  all_goals simp (maxDischargeDepth := 12) [h_s, wf_mk]

/-! ### Power -/

@[simp] theorem wf_restartBegin (s : State) (cause : Nat) (h_s : Memory.wf s) :
    Memory.wf (restartBegin s cause) := by
  unfold restartBegin
  dsimp only
  repeat' first | (simp (maxDischargeDepth := 12) [h_s, wf_mk]; done) | split | apply wf_foldl | intro _

@[simp] theorem wf_doHubRestart (src : CmdSrc) (s : State) (h_s : Memory.wf s) :
    Memory.wf (doHubRestart src s) := by
  unfold doHubRestart
  repeat' split
  all_goals simp (maxDischargeDepth := 12) [h_s, wf_mk]

@[simp] theorem wf_doControlProcessorWatchdog (s : State) (h_s : Memory.wf s) :
    Memory.wf (doControlProcessorWatchdog s) := by
  unfold doControlProcessorWatchdog
  repeat' split
  all_goals simp (maxDischargeDepth := 12) [h_s, wf_mk]

@[simp] theorem wf_cluGone (s : State) (c : Nat) (h_s : Memory.wf s) :
    Memory.wf (cluGone s c) := by
  unfold cluGone
  simp (maxDischargeDepth := 12) [h_s]

@[simp] theorem wf_dieGone (s : State) (d : Nat) (h_s : Memory.wf s) :
    Memory.wf (dieGone s d) := by
  unfold dieGone
  try dsimp only
  repeat' first | (simp (maxDischargeDepth := 12) +contextual [h_s, wf_mk]; done) | split | (apply wf_foldl) | (apply wf_foldl1) | (simp (maxDischargeDepth := 12) +contextual [*, wf_mk]; done) | (intro _)

@[simp] theorem wf_hubGoOn (s : State) (h_s : Memory.wf s) :
    Memory.wf (hubGoOn s) := by
  unfold hubGoOn
  simp (maxDischargeDepth := 12) [h_s]

@[simp] theorem wf_doHubRestartDone (idents : List (Option (BitVec 32))) (s : State) (h : Memory.wf s) :
    Memory.wf (doHubRestartDone idents s) := by
  unfold doHubRestartDone
  extract_lets bad s1 s2 s3 s4 src
  split
  · exact h
  · have h1 : Memory.wf s1 := wf_foldl _ (fun s x hs => wf_dieGone _ _ hs) _ _ h
    have h3 : Memory.wf s3 := wf_State_setRBit _ _ _ _ (wf_State_setRBit _ _ _ _ (wf_State_setFld _ _ _ _ _ h1))
    have h4 : Memory.wf s4 := wf_hubGoOn _ (wf_errRecord _ _ h3)
    exact wf_showBusy _ h4

@[simp] theorem wf_doHeartbeatTick (s : State) (h_s : Memory.wf s) :
    Memory.wf (doHeartbeatTick s) := by
  unfold doHeartbeatTick
  repeat' split
  all_goals simp (maxDischargeDepth := 12) [h_s, wf_mk]

@[simp] theorem wf_ddErr (s : State) (h_s : Memory.wf s) :
    Memory.wf (ddErr s) := by
  unfold ddErr
  simp (maxDischargeDepth := 12) [h_s]

@[simp] theorem wf_ddLose (s : State) (h_s : Memory.wf s) :
    Memory.wf (ddLose s) := by
  unfold ddLose
  simp (maxDischargeDepth := 12) [h_s, wf_mk]

@[simp] theorem wf_portIdle (s : State) (n : Nat) (h_s : Memory.wf s) :
    Memory.wf (portIdle s n) := by
  unfold portIdle
  simp (maxDischargeDepth := 12) [h_s]

@[simp] theorem wf_drydown (s : State) (src : Nat) (h_s : Memory.wf s) :
    Memory.wf (drydown s src) := by
  unfold drydown
  simp (maxDischargeDepth := 12) [h_s, wf_mk]

@[simp] theorem wf_doDrydownEnter (src : CmdSrc) (s : State) (h_s : Memory.wf s) :
    Memory.wf (doDrydownEnter src s) := by
  unfold doDrydownEnter
  repeat' split
  all_goals simp (maxDischargeDepth := 12) [h_s, wf_mk]

@[simp] theorem wf_drydownLeave (s : State) (src port : Nat) (h_s : Memory.wf s) :
    Memory.wf (drydownLeave s src port) := by
  unfold drydownLeave
  simp (maxDischargeDepth := 12) [h_s, wf_mk]

@[simp] theorem wf_doDrydownExit (src : CmdSrc) (s : State) (h_s : Memory.wf s) :
    Memory.wf (doDrydownExit src s) := by
  unfold doDrydownExit
  repeat' split
  all_goals simp (maxDischargeDepth := 12) [h_s, wf_mk]

@[simp] theorem wf_doDrydownWake (port : Nat) (s : State) (h_s : Memory.wf s) :
    Memory.wf (doDrydownWake port s) := by
  unfold doDrydownWake
  repeat' split
  all_goals simp (maxDischargeDepth := 12) [h_s, wf_mk]

@[simp] theorem wf_doSensorRead (k code : Nat) (present : Bool) (s : State) (h_s : Memory.wf s) :
    Memory.wf (doSensorRead k code present s) := by
  unfold doSensorRead
  repeat' split
  all_goals simp (maxDischargeDepth := 12) [h_s, wf_mk]

@[simp] theorem wf_doSecurityControllerFault (detail : Word) (s : State) (h_s : Memory.wf s) :
    Memory.wf (doSecurityControllerFault detail s) := by
  unfold doSecurityControllerFault
  repeat' split
  all_goals simp (maxDischargeDepth := 12) [h_s, wf_mk]

@[simp] theorem wf_doHubSwitchUncorrectable (vc port : Nat) (s : State) (h_s : Memory.wf s) :
    Memory.wf (doHubSwitchUncorrectable vc port s) := by
  unfold doHubSwitchUncorrectable
  repeat' split
  all_goals simp (maxDischargeDepth := 12) [h_s, wf_mk]

@[simp] theorem wf_doCounterClearSelected (s : State) (h_s : Memory.wf s) :
    Memory.wf (doCounterClearSelected s) := by
  unfold doCounterClearSelected
  repeat' split
  all_goals simp (maxDischargeDepth := 12) [h_s, wf_mk]

@[simp] theorem wf_doCounterClearAll (s : State) (h_s : Memory.wf s) :
    Memory.wf (doCounterClearAll s) := by
  unfold doCounterClearAll
  repeat' split
  all_goals simp (maxDischargeDepth := 12) [h_s, wf_mk]

@[simp] theorem wf_doThresholdRearm (k : Nat) (s : State) (h_s : Memory.wf s) :
    Memory.wf (doThresholdRearm k s) := by
  unfold doThresholdRearm
  repeat' split
  all_goals simp (maxDischargeDepth := 12) [h_s, wf_mk]

@[simp] theorem wf_doPpsEdge (s : State) (h_s : Memory.wf s) :
    Memory.wf (doPpsEdge s) := by
  unfold doPpsEdge
  dsimp only
  repeat' first | (simp (maxDischargeDepth := 12) [h_s, wf_mk]; done) | split | apply wf_foldl | intro _

@[simp] theorem wf_doPtpHoldoverTimeout (s : State) (h_s : Memory.wf s) :
    Memory.wf (doPtpHoldoverTimeout s) := by
  unfold doPtpHoldoverTimeout
  repeat' split
  all_goals simp (maxDischargeDepth := 12) [h_s, wf_mk]

@[simp] theorem wf_doPtpEnable (v : BitVec 32) (s : State) (h_s : Memory.wf s) :
    Memory.wf (doPtpEnable v s) := by
  unfold doPtpEnable
  dsimp only
  repeat' first | (simp (maxDischargeDepth := 12) [h_s, wf_mk]; done) | split | apply wf_foldl | intro _

/-! ### Mgmt -/

@[simp] theorem wf_setDyn (s : State) (t : I3cTarget) (a : Nat) (h_s : Memory.wf s) :
    Memory.wf (setDyn s t a) := by
  unfold setDyn
  simp (maxDischargeDepth := 12) [h_s, wf_mk]

@[simp] theorem wf_doSetdasa (t : I3cTarget) (addr : BitVec 7) (s : State) (h_s : Memory.wf s) :
    Memory.wf (doSetdasa t addr s) := by
  unfold doSetdasa
  repeat' split
  all_goals simp (maxDischargeDepth := 12) [h_s, wf_mk]

@[simp] theorem wf_doEntdaa (t : I3cTarget) (addr : BitVec 7) (s : State) (h_s : Memory.wf s) :
    Memory.wf (doEntdaa t addr s) := by
  unfold doEntdaa
  repeat' split
  all_goals simp (maxDischargeDepth := 12) [h_s, wf_mk]

@[simp] theorem wf_doSetnewda (t : I3cTarget) (addr : BitVec 7) (s : State) (h_s : Memory.wf s) :
    Memory.wf (doSetnewda t addr s) := by
  unfold doSetnewda
  repeat' split
  all_goals simp (maxDischargeDepth := 12) [h_s, wf_mk]

@[simp] theorem wf_doRstdaa (bus : I3cBus) (s : State) (h_s : Memory.wf s) :
    Memory.wf (doRstdaa bus s) := by
  unfold doRstdaa
  repeat' split
  all_goals simp (maxDischargeDepth := 12) [h_s, wf_mk]

@[simp] theorem wf_mgmtReply (s : State) (kind : Nat) (data : List Nat) (h_s : Memory.wf s) :
    Memory.wf (mgmtReply s kind data) := by
  unfold mgmtReply
  simp (maxDischargeDepth := 12) [h_s]

@[simp] theorem wf_cccRead (s : State) (t : I3cTarget) (kind : Nat) (v : Nat) (h_s : Memory.wf s) :
    Memory.wf (cccRead s t kind v) := by
  unfold cccRead
  repeat' split
  all_goals simp (maxDischargeDepth := 12) [h_s, wf_mk]

@[simp] theorem wf_doGetpid (t : I3cTarget) (s : State) (h_s : Memory.wf s) :
    Memory.wf (doGetpid t s) := by
  unfold doGetpid
  simp (maxDischargeDepth := 12) [h_s]

@[simp] theorem wf_doGetbcr (t : I3cTarget) (s : State) (h_s : Memory.wf s) :
    Memory.wf (doGetbcr t s) := by
  unfold doGetbcr
  simp (maxDischargeDepth := 12) [h_s]

@[simp] theorem wf_doGetdcr (t : I3cTarget) (s : State) (h_s : Memory.wf s) :
    Memory.wf (doGetdcr t s) := by
  unfold doGetdcr
  simp (maxDischargeDepth := 12) [h_s]

@[simp] theorem wf_doGetstatus (t : I3cTarget) (s : State) (h_s : Memory.wf s) :
    Memory.wf (doGetstatus t s) := by
  unfold doGetstatus
  simp (maxDischargeDepth := 12) [h_s]

@[simp] theorem wf_doEnec (t : I3cTarget) (enable : Bool) (s : State) (h_s : Memory.wf s) :
    Memory.wf (doEnec t enable s) := by
  unfold doEnec
  repeat' split
  all_goals simp (maxDischargeDepth := 12) [h_s, wf_mk]

@[simp] theorem wf_doSetEndpointId (eid : BitVec 8) (s : State) (h_s : Memory.wf s) :
    Memory.wf (doSetEndpointId eid s) := by
  unfold doSetEndpointId
  repeat' split
  all_goals simp (maxDischargeDepth := 12) [h_s, wf_mk]

@[simp] theorem wf_pldm (s : State) (kind : Nat) (data : List Nat) (h_s : Memory.wf s) :
    Memory.wf (pldm s kind data) := by
  unfold pldm
  repeat' split
  all_goals simp (maxDischargeDepth := 12) [h_s, wf_mk]

@[simp] theorem wf_doGetTid (s : State) (h_s : Memory.wf s) :
    Memory.wf (doGetTid s) := by
  unfold doGetTid
  simp (maxDischargeDepth := 12) [h_s]

@[simp] theorem wf_doGetPldmVersion (ty : Nat) (s : State) (h_s : Memory.wf s) :
    Memory.wf (doGetPldmVersion ty s) := by
  unfold doGetPldmVersion
  simp (maxDischargeDepth := 12) [h_s]

@[simp] theorem wf_doGetPldmTypes (s : State) (h_s : Memory.wf s) :
    Memory.wf (doGetPldmTypes s) := by
  unfold doGetPldmTypes
  simp (maxDischargeDepth := 12) [h_s]

@[simp] theorem wf_doGetPldmCommands (ty : Nat) (s : State) (h_s : Memory.wf s) :
    Memory.wf (doGetPldmCommands ty s) := by
  unfold doGetPldmCommands
  simp (maxDischargeDepth := 12) [h_s]

@[simp] theorem wf_doGetPdrRepositoryInfo (s : State) (h_s : Memory.wf s) :
    Memory.wf (doGetPdrRepositoryInfo s) := by
  unfold doGetPdrRepositoryInfo
  simp (maxDischargeDepth := 12) [h_s]

@[simp] theorem wf_doGetPdr (handle : Nat) (s : State) (h_s : Memory.wf s) :
    Memory.wf (doGetPdr handle s) := by
  unfold doGetPdr
  simp (maxDischargeDepth := 12) [h_s]

@[simp] theorem wf_doGetSensorReading (id : Nat) (s : State) (h_s : Memory.wf s) :
    Memory.wf (doGetSensorReading id s) := by
  unfold doGetSensorReading
  simp (maxDischargeDepth := 12) [h_s]

@[simp] theorem wf_doGetFruRecordTableMetadata (s : State) (h_s : Memory.wf s) :
    Memory.wf (doGetFruRecordTableMetadata s) := by
  unfold doGetFruRecordTableMetadata
  simp (maxDischargeDepth := 12) [h_s]

@[simp] theorem wf_doGetFruRecordTable (s : State) (h_s : Memory.wf s) :
    Memory.wf (doGetFruRecordTable s) := by
  unfold doGetFruRecordTable
  simp (maxDischargeDepth := 12) [h_s]

end Sys2Proof.Machine
end

