-- ==== Sys2Proof/Laws/KeepHost.lean ====
section
/-! SUPPORT. The canonical form of the stores is kept by the host link and register accesses. -/

namespace Sys2Proof.Machine

/-! ### HostLink -/

@[simp] theorem wf_shlMsg (ty ch : Nat) (h : ShlHdr) (s : State) (k : State → State) (h_s : Memory.wf s) (h_k : ∀ s, Memory.wf s → Memory.wf (k s)) :
    Memory.wf (shlMsg ty ch h s k) := by
  unfold shlMsg
  try dsimp only
  repeat' first | (simp (maxDischargeDepth := 12) +contextual [h_s, h_k, wf_mk]; done) | split | (apply wf_foldl) | (apply wf_foldl1) | (apply wf_State_capture) | (simp (maxDischargeDepth := 12) +contextual [*, wf_mk]; done) | (intro _)

@[simp] theorem wf_unsend (s : State) (n : Nat) (h_s : Memory.wf s) :
    Memory.wf (unsend s n) := by
  unfold unsend
  simp (maxDischargeDepth := 12) [h_s, wf_mk]

@[simp] theorem wf_linkBack (s : State) (n : Nat) (h_s : Memory.wf s) :
    Memory.wf (linkBack s n) := by
  unfold linkBack
  dsimp only
  repeat' first | (simp (maxDischargeDepth := 12) [h_s, wf_mk]; done) | split | apply wf_foldl | intro _

@[simp] theorem wf_doShlPortUp (n : Nat) (r64 x16 rev : Bool) (failed : Nat) (s : State) (h_s : Memory.wf s) :
    Memory.wf (doShlPortUp n r64 x16 rev failed s) := by
  unfold doShlPortUp
  dsimp only
  repeat' first | (simp (maxDischargeDepth := 12) [h_s, wf_mk]; done) | split | apply wf_foldl | intro _

@[simp] theorem wf_portLeave (s : State) (n cause : Nat) (h_s : Memory.wf s) :
    Memory.wf (portLeave s n cause) := by
  unfold portLeave
  dsimp only
  repeat' first | (simp (maxDischargeDepth := 12) [h_s, wf_mk]; done) | split | apply wf_foldl | intro _

@[simp] theorem wf_doShlPortDown (n cause : Nat) (s : State) (h_s : Memory.wf s) :
    Memory.wf (doShlPortDown n cause s) := by
  unfold doShlPortDown
  repeat' split
  all_goals simp (maxDischargeDepth := 12) [h_s, wf_mk]

@[simp] theorem wf_portEnable (t : State) (n : Nat) (h_t : Memory.wf t) :
    Memory.wf (portEnable t n) := by
  unfold portEnable
  repeat' split
  all_goals simp (maxDischargeDepth := 12) [h_t, wf_mk]

@[simp] theorem wf_doShlCtlWrite (v : BitVec 32) (s : State) (h_s : Memory.wf s) :
    Memory.wf (doShlCtlWrite v s) := by
  unfold doShlCtlWrite
  repeat' split
  all_goals simp (maxDischargeDepth := 12) [h_s, wf_mk]

@[simp] theorem wf_doShlHwinWrite (k : Nat) (ctl : Bool) (v : Word) (s : State) (h_s : Memory.wf s) :
    Memory.wf (doShlHwinWrite k ctl v s) := by
  unfold doShlHwinWrite
  repeat' split
  all_goals simp (maxDischargeDepth := 12) [h_s, wf_mk]

@[simp] theorem wf_answerWaiting (s : State) (line : Nat) (f : State → DieHdr → State) (h_s : Memory.wf s) (h_f : ∀ s x, Memory.wf s → Memory.wf (f s x)) :
    Memory.wf (answerWaiting s line f) := by
  unfold answerWaiting
  try dsimp only
  repeat' first | (simp (maxDischargeDepth := 12) +contextual [h_s, h_f, wf_mk]; done) | split | (apply wf_foldl) | (apply wf_foldl1) | (simp (maxDischargeDepth := 12) +contextual [*, wf_mk]; done) | (intro _)

@[simp] theorem wf_rdataTo (data : Nat) (pois : Bool) (s : State) (h : DieHdr) (h_s : Memory.wf s) :
    Memory.wf (rdataTo data pois s h) := by
  unfold rdataTo
  simp (maxDischargeDepth := 12) [h_s]

@[simp] theorem wf_statusLost (s : State) (i a : Nat) (h_s : Memory.wf s) :
    Memory.wf (statusLost s i a) := by
  unfold statusLost
  simp (maxDischargeDepth := 12) [h_s]

@[simp] theorem wf_failWrites (s : State) (line : Nat) (p : HostWr → Bool) (h_s : Memory.wf s) :
    Memory.wf (failWrites s line p) := by
  unfold failWrites
  try dsimp only
  repeat' first | (simp (maxDischargeDepth := 12) +contextual [h_s, wf_mk]; done) | split | (apply wf_foldl) | (apply wf_foldl1) | (simp (maxDischargeDepth := 12) +contextual [*, wf_mk]; done) | (intro _)

@[simp] theorem wf_lineArrives (s : State) (r : HostReq) (data : BitVec 512) (h_s : Memory.wf s) :
    Memory.wf (lineArrives s r data) := by
  unfold lineArrives
  try dsimp only
  repeat' first | (simp (maxDischargeDepth := 12) +contextual [h_s, wf_mk]; done) | split | (apply wf_foldl) | (apply wf_foldl1) | (apply wf_answerWaiting) | (simp (maxDischargeDepth := 12) +contextual [*, wf_mk]; done) | (intro _)

@[simp] theorem wf_doShlData (h : ShlHdr) (pois refused : Bool) (data : BitVec 512) (s : State) (h_s : Memory.wf s) :
    Memory.wf (doShlData h pois refused data s) := by
  unfold doShlData
  try dsimp only
  repeat' first | (simp (maxDischargeDepth := 12) +contextual [h_s, wf_mk]; done) | split | (apply wf_foldl) | (apply wf_foldl1) | (apply wf_shlMsg) | (apply wf_answerWaiting) | (simp (maxDischargeDepth := 12) +contextual [*, wf_mk]; done) | (intro _)

@[simp] theorem wf_lostStatus (s : State) (line : Nat) (h_s : Memory.wf s) :
    Memory.wf (lostStatus s line) := by
  unfold lostStatus
  try dsimp only
  repeat' first | (simp (maxDischargeDepth := 12) +contextual [h_s, wf_mk]; done) | split | (apply wf_foldl) | (apply wf_foldl1) | (simp (maxDischargeDepth := 12) +contextual [*, wf_mk]; done) | (intro _)

@[simp] theorem wf_doCmp (h : ShlHdr) (refused : Bool) (s : State) (h_s : Memory.wf s) :
    Memory.wf (doCmp h refused s) := by
  unfold doCmp
  try dsimp only
  repeat' first | (simp (maxDischargeDepth := 12) +contextual [h_s, wf_mk]; done) | split | (apply wf_foldl) | (apply wf_foldl1) | (apply wf_shlMsg) | (simp (maxDischargeDepth := 12) +contextual [*, wf_mk]; done) | (intro _)

@[simp] theorem wf_shareLine (s : State) (line : Nat) (h_s : Memory.wf s) :
    Memory.wf (shareLine s line) := by
  unfold shareLine
  simp (maxDischargeDepth := 12) [h_s, wf_mk]

@[simp] theorem wf_snoopDone (s : State) (h : ShlHdr) (data : List Byte) (h_s : Memory.wf s) :
    Memory.wf (snoopDone s h data) := by
  unfold snoopDone
  simp (maxDischargeDepth := 12) [h_s]

@[simp] theorem wf_wakeEngine (s : State) (line : Nat) (h_s : Memory.wf s) :
    Memory.wf (wakeEngine s line) := by
  unfold wakeEngine
  repeat' split
  all_goals simp (maxDischargeDepth := 12) [h_s, wf_mk]

@[simp] theorem wf_snoop (ty : Nat) (share bad : Bool) (h : ShlHdr) (s : State) (h_s : Memory.wf s) :
    Memory.wf (snoop ty share bad h s) := by
  unfold snoop
  try dsimp only
  repeat' first | (simp (maxDischargeDepth := 12) +contextual [h_s, wf_mk]; done) | split | (apply wf_foldl) | (apply wf_foldl1) | (apply wf_shlMsg) | (simp (maxDischargeDepth := 12) +contextual [*, wf_mk]; done) | (intro _)

@[simp] theorem wf_doSnpi (h : ShlHdr) (bad : Bool) (s : State) (h_s : Memory.wf s) :
    Memory.wf (doSnpi h bad s) := by
  unfold doSnpi
  simp (maxDischargeDepth := 12) [h_s]

@[simp] theorem wf_doSnps (h : ShlHdr) (bad : Bool) (s : State) (h_s : Memory.wf s) :
    Memory.wf (doSnps h bad s) := by
  unfold doSnps
  simp (maxDischargeDepth := 12) [h_s]

@[simp] theorem wf_doTakeRecord (i : Nat) (bad : Option Nat) (s : State) (h_s : Memory.wf s) :
    Memory.wf (doTakeRecord i bad s) := by
  unfold doTakeRecord
  dsimp only
  repeat' first | (simp (maxDischargeDepth := 12) [h_s, wf_mk]; done) | split | apply wf_foldl | intro _

@[simp] theorem wf_doHostAccessTimeout (tag : Nat) (s : State) (h_s : Memory.wf s) :
    Memory.wf (doHostAccessTimeout tag s) := by
  unfold doHostAccessTimeout
  try dsimp only
  repeat' first | (simp (maxDischargeDepth := 12) +contextual [h_s, wf_mk]; done) | split | (apply wf_foldl) | (apply wf_foldl1) | (apply wf_answerWaiting) | (simp (maxDischargeDepth := 12) +contextual [*, wf_mk]; done) | (intro _)

/-! ### RegWrite -/

@[simp] theorem wf_repin (s : State) (h_s : Memory.wf s) :
    Memory.wf (repin s) := by
  unfold repin
  simp (maxDischargeDepth := 12) [h_s, wf_mk]

@[simp] theorem wf_jobtabWrite (v : Word) (s : State) (h_s : Memory.wf s) :
    Memory.wf (jobtabWrite v s) := by
  unfold jobtabWrite
  dsimp only
  repeat' first | (simp (maxDischargeDepth := 12) [h_s, wf_mk]; done) | split | apply wf_foldl | intro _

@[simp] theorem wf_doJobtabEnable (v : BitVec 32) (s : State) (h_s : Memory.wf s) :
    Memory.wf (doJobtabEnable v s) := by
  unfold doJobtabEnable
  repeat' split
  all_goals simp (maxDischargeDepth := 12) [h_s, wf_mk]

@[simp] theorem wf_doJobtabDisable (v : BitVec 32) (s : State) (h_s : Memory.wf s) :
    Memory.wf (doJobtabDisable v s) := by
  unfold doJobtabDisable
  repeat' split
  all_goals simp (maxDischargeDepth := 12) [h_s, wf_mk]

@[simp] theorem wf_evtCtlWrite (v : Word) (s : State) (h_s : Memory.wf s) :
    Memory.wf (evtCtlWrite v s) := by
  unfold evtCtlWrite
  dsimp only
  repeat' first | (simp (maxDischargeDepth := 12) [h_s, wf_mk]; done) | split | apply wf_foldl | intro _

@[simp] theorem wf_doEvtRingEnable (v : BitVec 32) (s : State) (h_s : Memory.wf s) :
    Memory.wf (doEvtRingEnable v s) := by
  unfold doEvtRingEnable
  repeat' split
  all_goals simp (maxDischargeDepth := 12) [h_s, wf_mk]

@[simp] theorem wf_doEvtHeadWrite (v : BitVec 32) (s : State) (h_s : Memory.wf s) :
    Memory.wf (doEvtHeadWrite v s) := by
  unfold doEvtHeadWrite
  repeat' split
  all_goals simp (maxDischargeDepth := 12) [h_s, wf_mk]

@[simp] theorem wf_guardWrite (s : State) (ok : Bool) (a : Nat) (v : Word) (err ebit : Nat) (h_s : Memory.wf s) :
    Memory.wf (guardWrite s ok a v err ebit) := by
  unfold guardWrite
  repeat' split
  all_goals simp (maxDischargeDepth := 12) [h_s, wf_mk]

@[simp] theorem wf_partWrite (s : State) (p j a : Nat) (v : Word) (h_s : Memory.wf s) :
    Memory.wf (partWrite s p j a v) := by
  unfold partWrite
  dsimp only
  repeat' first | (simp (maxDischargeDepth := 12) [h_s, wf_mk]; done) | split | apply wf_foldl | intro _

@[simp] theorem wf_slgRegWrite (s : State) (p j a : Nat) (v : Word) (h_s : Memory.wf s) :
    Memory.wf (slgRegWrite s p j a v) := by
  unfold slgRegWrite
  repeat' split
  all_goals simp (maxDischargeDepth := 12) [h_s, wf_mk]

@[simp] theorem wf_thrWrite (s : State) (k : Nat) (v : Word) (h_s : Memory.wf s) :
    Memory.wf (thrWrite s k v) := by
  unfold thrWrite
  dsimp only
  repeat' first | (simp (maxDischargeDepth := 12) [h_s, wf_mk]; done) | split | apply wf_foldl | intro _

@[simp] theorem wf_fwWrite (s : State) (m j a : Nat) (v : Word) (h_s : Memory.wf s) :
    Memory.wf (fwWrite s m j a v) := by
  unfold fwWrite
  repeat' split
  all_goals simp (maxDischargeDepth := 12) [h_s, wf_mk]

@[simp] theorem wf_hubWrite (s : State) (o : Nat) (v : Word) (h : Memory.wf s) :
    Memory.wf (hubWrite s o v) := by
  unfold hubWrite
  dsimp only
  repeat' first | with_reducible apply wf_ite | split
  all_goals simp [h]

@[simp] theorem wf_shlWrite (s : State) (o : Nat) (v : Word) (h_s : Memory.wf s) :
    Memory.wf (shlWrite s o v) := by
  unfold shlWrite
  repeat' split
  all_goals simp (maxDischargeDepth := 12) [h_s, wf_mk]

@[simp] theorem wf_secWrite (s : State) (o : Nat) (v : Word) (h_s : Memory.wf s) :
    Memory.wf (secWrite s o v) := by
  unfold secWrite
  repeat' split
  all_goals simp (maxDischargeDepth := 12) [h_s, wf_mk]

@[simp] theorem wf_pwrWrite (src : CmdSrc) (s : State) (o : Nat) (v : Word) (h_s : Memory.wf s) :
    Memory.wf (pwrWrite src s o v) := by
  unfold pwrWrite
  repeat' split
  all_goals simp (maxDischargeDepth := 12) [h_s, wf_mk]

@[simp] theorem wf_leadGuard (s : State) (c o : Nat) (v : Word) (h_s : Memory.wf s) :
    Memory.wf (leadGuard s c o v) := by
  unfold leadGuard
  repeat' split
  all_goals simp (maxDischargeDepth := 12) [h_s, wf_mk]

@[simp] theorem wf_cluWrite (s : State) (c o : Nat) (v : Word) (h_s : Memory.wf s) :
    Memory.wf (cluWrite s c o v) := by
  unfold cluWrite
  repeat' split
  all_goals simp (maxDischargeDepth := 12) [h_s, wf_mk]

@[simp] theorem wf_dieWrite (s : State) (d o : Nat) (v : Word) (h_s : Memory.wf s) :
    Memory.wf (dieWrite s d o v) := by
  unfold dieWrite
  repeat' split
  all_goals simp (maxDischargeDepth := 12) [h_s, wf_mk]

@[simp] theorem wf_accRegWrite (s : State) (d o : Nat) (v : Word) (h_s : Memory.wf s) :
    Memory.wf (accRegWrite s d o v) := by
  unfold accRegWrite
  dsimp only
  repeat' first | (simp (maxDischargeDepth := 12) [h_s, wf_mk]; done) | split | apply wf_foldl | intro _

@[simp] theorem wf_lnkCtlWrite (s : State) (l : Nat) (v : Word) (h_s : Memory.wf s) :
    Memory.wf (lnkCtlWrite s l v) := by
  unfold lnkCtlWrite
  repeat' split
  all_goals simp (maxDischargeDepth := 12) [h_s, wf_mk]

@[simp] theorem wf_lnkWrite (s : State) (l o : Nat) (v : Word) (h_s : Memory.wf s) :
    Memory.wf (lnkWrite s l o v) := by
  unfold lnkWrite
  repeat' split
  all_goals simp (maxDischargeDepth := 12) [h_s, wf_mk]

@[simp] theorem wf_atzWrite (s : State) (m o : Nat) (v : Word) (h_s : Memory.wf s) :
    Memory.wf (atzWrite s m o v) := by
  unfold atzWrite
  dsimp only
  repeat' first | (simp (maxDischargeDepth := 12) [h_s, wf_mk]; done) | split | apply wf_foldl | intro _

@[simp] theorem wf_regApply (src : CmdSrc) (s : State) (a : Nat) (v : Word) (h : Memory.wf s) :
    Memory.wf (regApply src s a v) := by
  unfold regApply
  dsimp only
  repeat' with_reducible apply wf_ite
  all_goals simp [h]

@[simp] theorem wf_regHalves (s : State) (a b n : Nat) (v : Word) (f : State → Word → State) (h_s : Memory.wf s) (h_f : ∀ s x, Memory.wf s → Memory.wf (f s x)) :
    Memory.wf (regHalves s a b n v f) := by
  unfold regHalves
  repeat' split
  all_goals simp (maxDischargeDepth := 12) [h_s, h_f, wf_mk]

/-! ### HostAcc -/

@[simp] theorem wf_hostRefuse (s : State) (a ty port reason : Nat) (h_s : Memory.wf s) :
    Memory.wf (hostRefuse s a ty port reason) := by
  unfold hostRefuse
  simp (maxDischargeDepth := 12) [h_s]

@[simp] theorem wf_hostData (s : State) (h : ShlHdr) (pois refused : Bool) (data : List Byte) (h_s : Memory.wf s) :
    Memory.wf (hostData s h pois refused data) := by
  unfold hostData
  simp (maxDischargeDepth := 12) [h_s]

@[simp] theorem wf_hostCmp (s : State) (h : ShlHdr) (refused : Bool) (h_s : Memory.wf s) :
    Memory.wf (hostCmp s h refused) := by
  unfold hostCmp
  simp (maxDischargeDepth := 12) [h_s]

@[simp] theorem wf_doMrd (h : ShlHdr) (bytes : Nat) (s : State) (h_s : Memory.wf s) :
    Memory.wf (doMrd h bytes s) := by
  unfold doMrd
  try dsimp only
  repeat' first | (simp (maxDischargeDepth := 12) +contextual [h_s, wf_mk]; done) | split | (apply wf_foldl) | (apply wf_foldl1) | (apply wf_shlMsg) | ((try have hx := wf_verifyRead_eq (by assumption) ‹verifyRead _ _ _ _  = (_, _)›); (try have hx := wf_verifyRead_eq (by assumption) ‹verifyRead _ _ _ _  = (_, _)›); (simp (maxDischargeDepth := 12) +contextual [*, wf_mk]; done)) | (simp (maxDischargeDepth := 12) +contextual [*, wf_mk]; done) | (intro _)

@[simp] theorem wf_hostRegWrite (s : State) (a n : Nat) (v : Word) (h_s : Memory.wf s) :
    Memory.wf (hostRegWrite s a n v).1 := by
  unfold hostRegWrite
  try dsimp only
  repeat' first | (simp (maxDischargeDepth := 12) +contextual [h_s, wf_mk]; done) | split | (apply wf_foldl) | (apply wf_foldl1) | (apply wf_regHalves) | (simp (maxDischargeDepth := 12) +contextual [*, wf_mk]; done) | (intro _)

theorem wf_hostRegWrite_eq {s : State} {a n : Nat} {v : Word} {t9 : State} {x9 : Nat} (h_s : Memory.wf s) (e9 : hostRegWrite s a n v = (t9, x9)) : Memory.wf t9 := by
  have h := wf_hostRegWrite s a n v h_s
  rw [e9] at h
  exact h

@[simp] theorem wf_hostWriteMsg (ty : Nat) (h : ShlHdr) (mask : BitVec 64) (data : BitVec 512) (s : State) (h_s : Memory.wf s) :
    Memory.wf (hostWriteMsg ty h mask data s) := by
  unfold hostWriteMsg
  try dsimp only
  repeat' first | (simp (maxDischargeDepth := 12) +contextual [h_s, wf_mk]; done) | split | (apply wf_foldl) | (apply wf_foldl1) | (apply wf_shlMsg) | ((try have hx := wf_hostRegWrite_eq (by assumption) ‹hostRegWrite _ _ _ _  = (_, _)›); (try have hx := wf_hostRegWrite_eq (by assumption) ‹hostRegWrite _ _ _ _  = (_, _)›); (simp (maxDischargeDepth := 12) +contextual [*, wf_mk]; done)) | (simp (maxDischargeDepth := 12) +contextual [*, wf_mk]; done) | (intro _)

@[simp] theorem wf_doMwr (h : ShlHdr) (data : BitVec 512) (s : State) (h_s : Memory.wf s) :
    Memory.wf (doMwr h data s) := by
  unfold doMwr
  simp (maxDischargeDepth := 12) [h_s]

@[simp] theorem wf_doMwrp (h : ShlHdr) (mask : BitVec 64) (data : BitVec 512) (s : State) (h_s : Memory.wf s) :
    Memory.wf (doMwrp h mask data s) := by
  unfold doMwrp
  simp (maxDischargeDepth := 12) [h_s]

@[simp] theorem wf_controllerWrite (s : State) (a n : Nat) (v : Word) (h_s : Memory.wf s) :
    Memory.wf (controllerWrite s a n v) := by
  unfold controllerWrite
  try dsimp only
  repeat' first | (simp (maxDischargeDepth := 12) +contextual [h_s, wf_mk]; done) | split | (apply wf_foldl) | (apply wf_foldl1) | (apply wf_regHalves) | (simp (maxDischargeDepth := 12) +contextual [*, wf_mk]; done) | (intro _)

@[simp] theorem wf_doRegisterWrite (src : RegSrc) (a n : Nat) (v : Word) (s : State) (h_s : Memory.wf s) :
    Memory.wf (doRegisterWrite src a n v s) := by
  unfold doRegisterWrite
  dsimp only
  repeat' first | (simp (maxDischargeDepth := 12) [h_s, wf_mk]; done) | split | apply wf_foldl | intro _

@[simp] theorem wf_doI3cRegisterWrite (o : Nat) (data : List Byte) (s : State) (h_s : Memory.wf s) :
    Memory.wf (doI3cRegisterWrite o data s) := by
  unfold doI3cRegisterWrite
  repeat' split
  all_goals simp (maxDischargeDepth := 12) [h_s, wf_mk]

@[simp] theorem wf_debugByte (s : State) (p : Nat × Byte) (h_s : Memory.wf s) :
    Memory.wf (debugByte s p) := by
  unfold debugByte
  repeat' split
  all_goals simp (maxDischargeDepth := 12) [h_s, wf_mk]

@[simp] theorem wf_debugDevice (s : State) (a : Nat) (data : List Byte) (h_s : Memory.wf s) :
    Memory.wf (debugDevice s a data) := by
  unfold debugDevice
  try dsimp only
  repeat' first | (simp (maxDischargeDepth := 12) +contextual [h_s, wf_mk]; done) | split | (apply wf_foldl) | (apply wf_foldl1) | (simp (maxDischargeDepth := 12) +contextual [*, wf_mk]; done) | (intro _)

@[simp] theorem wf_debugRegister (s : State) (a : Nat) (data : List Byte) (h_s : Memory.wf s) :
    Memory.wf (debugRegister s a data) := by
  unfold debugRegister
  try dsimp only
  repeat' first | (simp (maxDischargeDepth := 12) +contextual [h_s, wf_mk]; done) | split | (apply wf_foldl) | (apply wf_foldl1) | (apply wf_regHalves) | (simp (maxDischargeDepth := 12) +contextual [*, wf_mk]; done) | (intro _)

theorem debugStore_wf (m : SMap Byte) (size a : Nat) (data : List Byte) (h : smWf 0#8 m) :
    smWf 0#8 (debugStore m size a data) := by
  unfold debugStore
  generalize (List.range data.length).zip data = l
  induction l generalizing m with
  | nil => exact h
  | cons x l ih =>
    apply ih
    dsimp only
    split
    · exact smWf_smSet _ _ _ _ h
    · exact h

@[simp] theorem wf_doDebugMemoryWrite (space : DebugSpace) (a : Nat) (data : List Byte) (s : State) (h : Memory.wf s) :
    Memory.wf (doDebugMemoryWrite space a data s) := by
  unfold doDebugMemoryWrite
  split
  · exact h
  · split
    · exact wf_debugDevice _ _ _ h
    · exact (wf_iff _).mpr ⟨wf_mem (s := s) h, wf_ent (s := s) h, debugStore_wf _ _ _ _ (wf_cstore h), wf_accm (s := s) h⟩
    · exact (wf_iff _).mpr ⟨wf_mem (s := s) h, wf_ent (s := s) h, wf_cstore (s := s) h, debugStore_wf _ _ _ _ (wf_accm h)⟩
    · exact wf_debugRegister _ _ _ h

end Sys2Proof.Machine
end

