-- ==== Sys2Proof/Laws/State.lean ====
section
/-! SUPPORT. State: one law per field for each update, so that no proof unfolds a record update; and a read after
a write of each keyed part. -/

namespace Sys2Proof.Machine

variable (s : State)

/-! ### withPending -/

@[simp] theorem withPending_pending (q : List Instr) : (s.withPending q).pending = q := rfl
@[simp] theorem withPending_regs (q : List Instr) : (s.withPending q).regs = s.regs := rfl
@[simp] theorem withPending_mem (q : List Instr) : (s.withPending q).mem = s.mem := rfl
@[simp] theorem withPending_ent (q : List Instr) : (s.withPending q).ent = s.ent := rfl
@[simp] theorem withPending_cache (q : List Instr) : (s.withPending q).cache = s.cache := rfl
@[simp] theorem withPending_cstore (q : List Instr) : (s.withPending q).cstore = s.cstore := rfl
@[simp] theorem withPending_accm (q : List Instr) : (s.withPending q).accm = s.accm := rfl
@[simp] theorem withPending_ctxs (q : List Instr) : (s.withPending q).ctxs = s.ctxs := rfl
@[simp] theorem withPending_parts (q : List Instr) : (s.withPending q).parts = s.parts := rfl
@[simp] theorem withPending_trace (q : List Instr) : (s.withPending q).trace = s.trace := rfl
@[simp] theorem withPending_flags (q : List Instr) : (s.withPending q).flags = s.flags := rfl
@[simp] theorem withPending_ringOwn (q : List Instr) : (s.withPending q).ringOwn = s.ringOwn := rfl
@[simp] theorem withPending_hub (q : List Instr) : (s.withPending q).hub = s.hub := rfl
@[simp] theorem withPending_acc (q : List Instr) : (s.withPending q).acc = s.acc := rfl
@[simp] theorem withPending_lnks (q : List Instr) : (s.withPending q).lnks = s.lnks := rfl
@[simp] theorem withPending_queues (q : List Instr) : (s.withPending q).queues = s.queues := rfl
@[simp] theorem withPending_pipes (q : List Instr) : (s.withPending q).pipes = s.pipes := rfl
@[simp] theorem withPending_ptp (q : List Instr) : (s.withPending q).ptp = s.ptp := rfl
@[simp] theorem withPending_mod (q : List Instr) : (s.withPending q).mod = s.mod := rfl
@[simp] theorem withPending_fabr (q : List Instr) : (s.withPending q).fabr = s.fabr := rfl
@[simp] theorem withPending_sec (q : List Instr) : (s.withPending q).sec = s.sec := rfl
@[simp] theorem withPending_mgmt (q : List Instr) : (s.withPending q).mgmt = s.mgmt := rfl
@[simp] theorem withPending_out (q : List Instr) : (s.withPending q).out = s.out := rfl
@[simp] theorem withPending_clk (q : List Instr) : (s.withPending q).clk = s.clk := rfl
@[simp] theorem withPending_fab (q : List Instr) : (s.withPending q).fab = s.fab := rfl
@[simp] theorem withPending_fresh (q : List Instr) : (s.withPending q).fresh = s.fresh := rfl

/-! ### setReg -/

@[simp] theorem setReg_pending (a : Nat) (v : Word) : (s.setReg a v).pending = s.pending := rfl
@[simp] theorem setReg_regs (a : Nat) (v : Word) : (s.setReg a v).regs = smSet (regDefault a) s.regs a v := rfl
@[simp] theorem setReg_mem (a : Nat) (v : Word) : (s.setReg a v).mem = s.mem := rfl
@[simp] theorem setReg_ent (a : Nat) (v : Word) : (s.setReg a v).ent = s.ent := rfl
@[simp] theorem setReg_cache (a : Nat) (v : Word) : (s.setReg a v).cache = s.cache := rfl
@[simp] theorem setReg_cstore (a : Nat) (v : Word) : (s.setReg a v).cstore = s.cstore := rfl
@[simp] theorem setReg_accm (a : Nat) (v : Word) : (s.setReg a v).accm = s.accm := rfl
@[simp] theorem setReg_ctxs (a : Nat) (v : Word) : (s.setReg a v).ctxs = s.ctxs := rfl
@[simp] theorem setReg_parts (a : Nat) (v : Word) : (s.setReg a v).parts = s.parts := rfl
@[simp] theorem setReg_trace (a : Nat) (v : Word) : (s.setReg a v).trace = s.trace := rfl
@[simp] theorem setReg_flags (a : Nat) (v : Word) : (s.setReg a v).flags = s.flags := rfl
@[simp] theorem setReg_ringOwn (a : Nat) (v : Word) : (s.setReg a v).ringOwn = s.ringOwn := rfl
@[simp] theorem setReg_hub (a : Nat) (v : Word) : (s.setReg a v).hub = s.hub := rfl
@[simp] theorem setReg_acc (a : Nat) (v : Word) : (s.setReg a v).acc = s.acc := rfl
@[simp] theorem setReg_lnks (a : Nat) (v : Word) : (s.setReg a v).lnks = s.lnks := rfl
@[simp] theorem setReg_queues (a : Nat) (v : Word) : (s.setReg a v).queues = s.queues := rfl
@[simp] theorem setReg_pipes (a : Nat) (v : Word) : (s.setReg a v).pipes = s.pipes := rfl
@[simp] theorem setReg_ptp (a : Nat) (v : Word) : (s.setReg a v).ptp = s.ptp := rfl
@[simp] theorem setReg_mod (a : Nat) (v : Word) : (s.setReg a v).mod = s.mod := rfl
@[simp] theorem setReg_fabr (a : Nat) (v : Word) : (s.setReg a v).fabr = s.fabr := rfl
@[simp] theorem setReg_sec (a : Nat) (v : Word) : (s.setReg a v).sec = s.sec := rfl
@[simp] theorem setReg_mgmt (a : Nat) (v : Word) : (s.setReg a v).mgmt = s.mgmt := rfl
@[simp] theorem setReg_out (a : Nat) (v : Word) : (s.setReg a v).out = s.out := rfl
@[simp] theorem setReg_clk (a : Nat) (v : Word) : (s.setReg a v).clk = s.clk := rfl
@[simp] theorem setReg_fab (a : Nat) (v : Word) : (s.setReg a v).fab = s.fab := rfl
@[simp] theorem setReg_fresh (a : Nat) (v : Word) : (s.setReg a v).fresh = s.fresh := rfl

/-! ### send -/

@[simp] theorem send_pending (m : OutMsg) : (s.send m).pending = s.pending := rfl
@[simp] theorem send_regs (m : OutMsg) : (s.send m).regs = s.regs := rfl
@[simp] theorem send_mem (m : OutMsg) : (s.send m).mem = s.mem := rfl
@[simp] theorem send_ent (m : OutMsg) : (s.send m).ent = s.ent := rfl
@[simp] theorem send_cache (m : OutMsg) : (s.send m).cache = s.cache := rfl
@[simp] theorem send_cstore (m : OutMsg) : (s.send m).cstore = s.cstore := rfl
@[simp] theorem send_accm (m : OutMsg) : (s.send m).accm = s.accm := rfl
@[simp] theorem send_ctxs (m : OutMsg) : (s.send m).ctxs = s.ctxs := rfl
@[simp] theorem send_parts (m : OutMsg) : (s.send m).parts = s.parts := rfl
@[simp] theorem send_trace (m : OutMsg) : (s.send m).trace = s.trace := rfl
@[simp] theorem send_flags (m : OutMsg) : (s.send m).flags = s.flags := rfl
@[simp] theorem send_ringOwn (m : OutMsg) : (s.send m).ringOwn = s.ringOwn := rfl
@[simp] theorem send_hub (m : OutMsg) : (s.send m).hub = s.hub := rfl
@[simp] theorem send_acc (m : OutMsg) : (s.send m).acc = s.acc := rfl
@[simp] theorem send_lnks (m : OutMsg) : (s.send m).lnks = s.lnks := rfl
@[simp] theorem send_queues (m : OutMsg) : (s.send m).queues = s.queues := rfl
@[simp] theorem send_pipes (m : OutMsg) : (s.send m).pipes = s.pipes := rfl
@[simp] theorem send_ptp (m : OutMsg) : (s.send m).ptp = s.ptp := rfl
@[simp] theorem send_mod (m : OutMsg) : (s.send m).mod = s.mod := rfl
@[simp] theorem send_fabr (m : OutMsg) : (s.send m).fabr = s.fabr := rfl
@[simp] theorem send_sec (m : OutMsg) : (s.send m).sec = s.sec := rfl
@[simp] theorem send_mgmt (m : OutMsg) : (s.send m).mgmt = s.mgmt := rfl
@[simp] theorem send_out (m : OutMsg) : (s.send m).out = s.out ++ [m] := rfl
@[simp] theorem send_clk (m : OutMsg) : (s.send m).clk = s.clk := rfl
@[simp] theorem send_fab (m : OutMsg) : (s.send m).fab = s.fab := rfl
@[simp] theorem send_fresh (m : OutMsg) : (s.send m).fresh = s.fresh := rfl

/-! ### sends -/

@[simp] theorem sends_pending (ms : List OutMsg) : (s.sends ms).pending = s.pending := rfl
@[simp] theorem sends_regs (ms : List OutMsg) : (s.sends ms).regs = s.regs := rfl
@[simp] theorem sends_mem (ms : List OutMsg) : (s.sends ms).mem = s.mem := rfl
@[simp] theorem sends_ent (ms : List OutMsg) : (s.sends ms).ent = s.ent := rfl
@[simp] theorem sends_cache (ms : List OutMsg) : (s.sends ms).cache = s.cache := rfl
@[simp] theorem sends_cstore (ms : List OutMsg) : (s.sends ms).cstore = s.cstore := rfl
@[simp] theorem sends_accm (ms : List OutMsg) : (s.sends ms).accm = s.accm := rfl
@[simp] theorem sends_ctxs (ms : List OutMsg) : (s.sends ms).ctxs = s.ctxs := rfl
@[simp] theorem sends_parts (ms : List OutMsg) : (s.sends ms).parts = s.parts := rfl
@[simp] theorem sends_trace (ms : List OutMsg) : (s.sends ms).trace = s.trace := rfl
@[simp] theorem sends_flags (ms : List OutMsg) : (s.sends ms).flags = s.flags := rfl
@[simp] theorem sends_ringOwn (ms : List OutMsg) : (s.sends ms).ringOwn = s.ringOwn := rfl
@[simp] theorem sends_hub (ms : List OutMsg) : (s.sends ms).hub = s.hub := rfl
@[simp] theorem sends_acc (ms : List OutMsg) : (s.sends ms).acc = s.acc := rfl
@[simp] theorem sends_lnks (ms : List OutMsg) : (s.sends ms).lnks = s.lnks := rfl
@[simp] theorem sends_queues (ms : List OutMsg) : (s.sends ms).queues = s.queues := rfl
@[simp] theorem sends_pipes (ms : List OutMsg) : (s.sends ms).pipes = s.pipes := rfl
@[simp] theorem sends_ptp (ms : List OutMsg) : (s.sends ms).ptp = s.ptp := rfl
@[simp] theorem sends_mod (ms : List OutMsg) : (s.sends ms).mod = s.mod := rfl
@[simp] theorem sends_fabr (ms : List OutMsg) : (s.sends ms).fabr = s.fabr := rfl
@[simp] theorem sends_sec (ms : List OutMsg) : (s.sends ms).sec = s.sec := rfl
@[simp] theorem sends_mgmt (ms : List OutMsg) : (s.sends ms).mgmt = s.mgmt := rfl
@[simp] theorem sends_out (ms : List OutMsg) : (s.sends ms).out = s.out ++ ms := rfl
@[simp] theorem sends_clk (ms : List OutMsg) : (s.sends ms).clk = s.clk := rfl
@[simp] theorem sends_fab (ms : List OutMsg) : (s.sends ms).fab = s.fab := rfl
@[simp] theorem sends_fresh (ms : List OutMsg) : (s.sends ms).fresh = s.fresh := rfl

/-! ### nextFresh -/

@[simp] theorem nextFresh_pending : (s.nextFresh).pending = s.pending := rfl
@[simp] theorem nextFresh_regs : (s.nextFresh).regs = s.regs := rfl
@[simp] theorem nextFresh_mem : (s.nextFresh).mem = s.mem := rfl
@[simp] theorem nextFresh_ent : (s.nextFresh).ent = s.ent := rfl
@[simp] theorem nextFresh_cache : (s.nextFresh).cache = s.cache := rfl
@[simp] theorem nextFresh_cstore : (s.nextFresh).cstore = s.cstore := rfl
@[simp] theorem nextFresh_accm : (s.nextFresh).accm = s.accm := rfl
@[simp] theorem nextFresh_ctxs : (s.nextFresh).ctxs = s.ctxs := rfl
@[simp] theorem nextFresh_parts : (s.nextFresh).parts = s.parts := rfl
@[simp] theorem nextFresh_trace : (s.nextFresh).trace = s.trace := rfl
@[simp] theorem nextFresh_flags : (s.nextFresh).flags = s.flags := rfl
@[simp] theorem nextFresh_ringOwn : (s.nextFresh).ringOwn = s.ringOwn := rfl
@[simp] theorem nextFresh_hub : (s.nextFresh).hub = s.hub := rfl
@[simp] theorem nextFresh_acc : (s.nextFresh).acc = s.acc := rfl
@[simp] theorem nextFresh_lnks : (s.nextFresh).lnks = s.lnks := rfl
@[simp] theorem nextFresh_queues : (s.nextFresh).queues = s.queues := rfl
@[simp] theorem nextFresh_pipes : (s.nextFresh).pipes = s.pipes := rfl
@[simp] theorem nextFresh_ptp : (s.nextFresh).ptp = s.ptp := rfl
@[simp] theorem nextFresh_mod : (s.nextFresh).mod = s.mod := rfl
@[simp] theorem nextFresh_fabr : (s.nextFresh).fabr = s.fabr := rfl
@[simp] theorem nextFresh_sec : (s.nextFresh).sec = s.sec := rfl
@[simp] theorem nextFresh_mgmt : (s.nextFresh).mgmt = s.mgmt := rfl
@[simp] theorem nextFresh_out : (s.nextFresh).out = s.out := rfl
@[simp] theorem nextFresh_clk : (s.nextFresh).clk = s.clk := rfl
@[simp] theorem nextFresh_fab : (s.nextFresh).fab = s.fab := rfl
@[simp] theorem nextFresh_fresh : (s.nextFresh).fresh = s.fresh + 1 := rfl

/-! ### idle -/

@[simp] theorem idle_pending : (idle s).pending = s.pending := rfl
@[simp] theorem idle_regs : (idle s).regs = s.regs := rfl
@[simp] theorem idle_mem : (idle s).mem = s.mem := rfl
@[simp] theorem idle_ent : (idle s).ent = s.ent := rfl
@[simp] theorem idle_cache : (idle s).cache = s.cache := rfl
@[simp] theorem idle_cstore : (idle s).cstore = s.cstore := rfl
@[simp] theorem idle_accm : (idle s).accm = s.accm := rfl
@[simp] theorem idle_ctxs : (idle s).ctxs = s.ctxs := rfl
@[simp] theorem idle_parts : (idle s).parts = s.parts := rfl
@[simp] theorem idle_trace : (idle s).trace = s.trace := rfl
@[simp] theorem idle_flags : (idle s).flags = s.flags := rfl
@[simp] theorem idle_ringOwn : (idle s).ringOwn = s.ringOwn := rfl
@[simp] theorem idle_hub : (idle s).hub = s.hub := rfl
@[simp] theorem idle_acc : (idle s).acc = s.acc := rfl
@[simp] theorem idle_lnks : (idle s).lnks = s.lnks := rfl
@[simp] theorem idle_queues : (idle s).queues = s.queues := rfl
@[simp] theorem idle_pipes : (idle s).pipes = s.pipes := rfl
@[simp] theorem idle_ptp : (idle s).ptp = s.ptp := rfl
@[simp] theorem idle_mod : (idle s).mod = s.mod := rfl
@[simp] theorem idle_fabr : (idle s).fabr = s.fabr := rfl
@[simp] theorem idle_sec : (idle s).sec = s.sec := rfl
@[simp] theorem idle_mgmt : (idle s).mgmt = s.mgmt := rfl
@[simp] theorem idle_out : (idle s).out = s.out := rfl
@[simp] theorem idle_clk : (idle s).clk = s.clk + 1 := rfl
@[simp] theorem idle_fab : (idle s).fab = s.fab + 40 := rfl
@[simp] theorem idle_fresh : (idle s).fresh = s.fresh := rfl

/-! ### setEntry -/

@[simp] theorem setEntry_pending (a : Nat) (e : Entry) : (setEntry s a e).pending = s.pending := rfl
@[simp] theorem setEntry_regs (a : Nat) (e : Entry) : (setEntry s a e).regs = s.regs := rfl
@[simp] theorem setEntry_mem (a : Nat) (e : Entry) : (setEntry s a e).mem = s.mem := rfl
@[simp] theorem setEntry_ent (a : Nat) (e : Entry) : (setEntry s a e).ent = smSet emptyEntry s.ent (a / 4096) e := rfl
@[simp] theorem setEntry_cstore (a : Nat) (e : Entry) : (setEntry s a e).cstore = s.cstore := rfl
@[simp] theorem setEntry_accm (a : Nat) (e : Entry) : (setEntry s a e).accm = s.accm := rfl
@[simp] theorem setEntry_ctxs (a : Nat) (e : Entry) : (setEntry s a e).ctxs = s.ctxs := rfl
@[simp] theorem setEntry_parts (a : Nat) (e : Entry) : (setEntry s a e).parts = s.parts := rfl
@[simp] theorem setEntry_trace (a : Nat) (e : Entry) : (setEntry s a e).trace = s.trace := rfl
@[simp] theorem setEntry_flags (a : Nat) (e : Entry) : (setEntry s a e).flags = s.flags := rfl
@[simp] theorem setEntry_ringOwn (a : Nat) (e : Entry) : (setEntry s a e).ringOwn = s.ringOwn := rfl
@[simp] theorem setEntry_hub (a : Nat) (e : Entry) : (setEntry s a e).hub = s.hub := rfl
@[simp] theorem setEntry_acc (a : Nat) (e : Entry) : (setEntry s a e).acc = s.acc := rfl
@[simp] theorem setEntry_lnks (a : Nat) (e : Entry) : (setEntry s a e).lnks = s.lnks := rfl
@[simp] theorem setEntry_queues (a : Nat) (e : Entry) : (setEntry s a e).queues = s.queues := rfl
@[simp] theorem setEntry_pipes (a : Nat) (e : Entry) : (setEntry s a e).pipes = s.pipes := rfl
@[simp] theorem setEntry_ptp (a : Nat) (e : Entry) : (setEntry s a e).ptp = s.ptp := rfl
@[simp] theorem setEntry_mod (a : Nat) (e : Entry) : (setEntry s a e).mod = s.mod := rfl
@[simp] theorem setEntry_fabr (a : Nat) (e : Entry) : (setEntry s a e).fabr = s.fabr := rfl
@[simp] theorem setEntry_sec (a : Nat) (e : Entry) : (setEntry s a e).sec = s.sec := rfl
@[simp] theorem setEntry_mgmt (a : Nat) (e : Entry) : (setEntry s a e).mgmt = s.mgmt := rfl
@[simp] theorem setEntry_out (a : Nat) (e : Entry) : (setEntry s a e).out = s.out := rfl
@[simp] theorem setEntry_clk (a : Nat) (e : Entry) : (setEntry s a e).clk = s.clk := rfl
@[simp] theorem setEntry_fab (a : Nat) (e : Entry) : (setEntry s a e).fab = s.fab := rfl
@[simp] theorem setEntry_fresh (a : Nat) (e : Entry) : (setEntry s a e).fresh = s.fresh := rfl

/-! ### setCtx -/

@[simp] theorem setCtx_pending (p x : Nat) (c : Ctx) : (setCtx s p x c).pending = s.pending := rfl
@[simp] theorem setCtx_regs (p x : Nat) (c : Ctx) : (setCtx s p x c).regs = s.regs := rfl
@[simp] theorem setCtx_mem (p x : Nat) (c : Ctx) : (setCtx s p x c).mem = s.mem := rfl
@[simp] theorem setCtx_ent (p x : Nat) (c : Ctx) : (setCtx s p x c).ent = s.ent := rfl
@[simp] theorem setCtx_cache (p x : Nat) (c : Ctx) : (setCtx s p x c).cache = s.cache := rfl
@[simp] theorem setCtx_cstore (p x : Nat) (c : Ctx) : (setCtx s p x c).cstore = s.cstore := rfl
@[simp] theorem setCtx_accm (p x : Nat) (c : Ctx) : (setCtx s p x c).accm = s.accm := rfl
@[simp] theorem setCtx_ctxs (p x : Nat) (c : Ctx) : (setCtx s p x c).ctxs = smSet emptyCtx s.ctxs (ctxKey p x) c := rfl
@[simp] theorem setCtx_parts (p x : Nat) (c : Ctx) : (setCtx s p x c).parts = s.parts := rfl
@[simp] theorem setCtx_trace (p x : Nat) (c : Ctx) : (setCtx s p x c).trace = s.trace := rfl
@[simp] theorem setCtx_flags (p x : Nat) (c : Ctx) : (setCtx s p x c).flags = s.flags := rfl
@[simp] theorem setCtx_ringOwn (p x : Nat) (c : Ctx) : (setCtx s p x c).ringOwn = s.ringOwn := rfl
@[simp] theorem setCtx_hub (p x : Nat) (c : Ctx) : (setCtx s p x c).hub = s.hub := rfl
@[simp] theorem setCtx_acc (p x : Nat) (c : Ctx) : (setCtx s p x c).acc = s.acc := rfl
@[simp] theorem setCtx_lnks (p x : Nat) (c : Ctx) : (setCtx s p x c).lnks = s.lnks := rfl
@[simp] theorem setCtx_queues (p x : Nat) (c : Ctx) : (setCtx s p x c).queues = s.queues := rfl
@[simp] theorem setCtx_pipes (p x : Nat) (c : Ctx) : (setCtx s p x c).pipes = s.pipes := rfl
@[simp] theorem setCtx_ptp (p x : Nat) (c : Ctx) : (setCtx s p x c).ptp = s.ptp := rfl
@[simp] theorem setCtx_mod (p x : Nat) (c : Ctx) : (setCtx s p x c).mod = s.mod := rfl
@[simp] theorem setCtx_fabr (p x : Nat) (c : Ctx) : (setCtx s p x c).fabr = s.fabr := rfl
@[simp] theorem setCtx_sec (p x : Nat) (c : Ctx) : (setCtx s p x c).sec = s.sec := rfl
@[simp] theorem setCtx_mgmt (p x : Nat) (c : Ctx) : (setCtx s p x c).mgmt = s.mgmt := rfl
@[simp] theorem setCtx_out (p x : Nat) (c : Ctx) : (setCtx s p x c).out = s.out := rfl
@[simp] theorem setCtx_clk (p x : Nat) (c : Ctx) : (setCtx s p x c).clk = s.clk := rfl
@[simp] theorem setCtx_fab (p x : Nat) (c : Ctx) : (setCtx s p x c).fab = s.fab := rfl
@[simp] theorem setCtx_fresh (p x : Nat) (c : Ctx) : (setCtx s p x c).fresh = s.fresh := rfl

/-! ### setPart -/

@[simp] theorem setPart_pending (p : Nat) (q : Part) : (setPart s p q).pending = s.pending := rfl
@[simp] theorem setPart_regs (p : Nat) (q : Part) : (setPart s p q).regs = s.regs := rfl
@[simp] theorem setPart_mem (p : Nat) (q : Part) : (setPart s p q).mem = s.mem := rfl
@[simp] theorem setPart_ent (p : Nat) (q : Part) : (setPart s p q).ent = s.ent := rfl
@[simp] theorem setPart_cache (p : Nat) (q : Part) : (setPart s p q).cache = s.cache := rfl
@[simp] theorem setPart_cstore (p : Nat) (q : Part) : (setPart s p q).cstore = s.cstore := rfl
@[simp] theorem setPart_accm (p : Nat) (q : Part) : (setPart s p q).accm = s.accm := rfl
@[simp] theorem setPart_ctxs (p : Nat) (q : Part) : (setPart s p q).ctxs = s.ctxs := rfl
@[simp] theorem setPart_parts (p : Nat) (q : Part) : (setPart s p q).parts = smSet emptyPart s.parts p q := rfl
@[simp] theorem setPart_trace (p : Nat) (q : Part) : (setPart s p q).trace = s.trace := rfl
@[simp] theorem setPart_flags (p : Nat) (q : Part) : (setPart s p q).flags = s.flags := rfl
@[simp] theorem setPart_ringOwn (p : Nat) (q : Part) : (setPart s p q).ringOwn = s.ringOwn := rfl
@[simp] theorem setPart_hub (p : Nat) (q : Part) : (setPart s p q).hub = s.hub := rfl
@[simp] theorem setPart_acc (p : Nat) (q : Part) : (setPart s p q).acc = s.acc := rfl
@[simp] theorem setPart_lnks (p : Nat) (q : Part) : (setPart s p q).lnks = s.lnks := rfl
@[simp] theorem setPart_queues (p : Nat) (q : Part) : (setPart s p q).queues = s.queues := rfl
@[simp] theorem setPart_pipes (p : Nat) (q : Part) : (setPart s p q).pipes = s.pipes := rfl
@[simp] theorem setPart_ptp (p : Nat) (q : Part) : (setPart s p q).ptp = s.ptp := rfl
@[simp] theorem setPart_mod (p : Nat) (q : Part) : (setPart s p q).mod = s.mod := rfl
@[simp] theorem setPart_fabr (p : Nat) (q : Part) : (setPart s p q).fabr = s.fabr := rfl
@[simp] theorem setPart_sec (p : Nat) (q : Part) : (setPart s p q).sec = s.sec := rfl
@[simp] theorem setPart_mgmt (p : Nat) (q : Part) : (setPart s p q).mgmt = s.mgmt := rfl
@[simp] theorem setPart_out (p : Nat) (q : Part) : (setPart s p q).out = s.out := rfl
@[simp] theorem setPart_clk (p : Nat) (q : Part) : (setPart s p q).clk = s.clk := rfl
@[simp] theorem setPart_fab (p : Nat) (q : Part) : (setPart s p q).fab = s.fab := rfl
@[simp] theorem setPart_fresh (p : Nat) (q : Part) : (setPart s p q).fresh = s.fresh := rfl

/-! ### setFlagRec -/

@[simp] theorem setFlagRec_pending (c k : Nat) (r : FlagRec) : (setFlagRec s c k r).pending = s.pending := rfl
@[simp] theorem setFlagRec_regs (c k : Nat) (r : FlagRec) : (setFlagRec s c k r).regs = s.regs := rfl
@[simp] theorem setFlagRec_mem (c k : Nat) (r : FlagRec) : (setFlagRec s c k r).mem = s.mem := rfl
@[simp] theorem setFlagRec_ent (c k : Nat) (r : FlagRec) : (setFlagRec s c k r).ent = s.ent := rfl
@[simp] theorem setFlagRec_cache (c k : Nat) (r : FlagRec) : (setFlagRec s c k r).cache = s.cache := rfl
@[simp] theorem setFlagRec_cstore (c k : Nat) (r : FlagRec) : (setFlagRec s c k r).cstore = s.cstore := rfl
@[simp] theorem setFlagRec_accm (c k : Nat) (r : FlagRec) : (setFlagRec s c k r).accm = s.accm := rfl
@[simp] theorem setFlagRec_ctxs (c k : Nat) (r : FlagRec) : (setFlagRec s c k r).ctxs = s.ctxs := rfl
@[simp] theorem setFlagRec_parts (c k : Nat) (r : FlagRec) : (setFlagRec s c k r).parts = s.parts := rfl
@[simp] theorem setFlagRec_trace (c k : Nat) (r : FlagRec) : (setFlagRec s c k r).trace = s.trace := rfl
@[simp] theorem setFlagRec_flags (c k : Nat) (r : FlagRec) :
    (setFlagRec s c k r).flags = smSet noFlags s.flags (c * 4 + k) r := rfl
@[simp] theorem setFlagRec_ringOwn (c k : Nat) (r : FlagRec) : (setFlagRec s c k r).ringOwn = s.ringOwn := rfl
@[simp] theorem setFlagRec_hub (c k : Nat) (r : FlagRec) : (setFlagRec s c k r).hub = s.hub := rfl
@[simp] theorem setFlagRec_acc (c k : Nat) (r : FlagRec) : (setFlagRec s c k r).acc = s.acc := rfl
@[simp] theorem setFlagRec_lnks (c k : Nat) (r : FlagRec) : (setFlagRec s c k r).lnks = s.lnks := rfl
@[simp] theorem setFlagRec_queues (c k : Nat) (r : FlagRec) : (setFlagRec s c k r).queues = s.queues := rfl
@[simp] theorem setFlagRec_pipes (c k : Nat) (r : FlagRec) : (setFlagRec s c k r).pipes = s.pipes := rfl
@[simp] theorem setFlagRec_ptp (c k : Nat) (r : FlagRec) : (setFlagRec s c k r).ptp = s.ptp := rfl
@[simp] theorem setFlagRec_mod (c k : Nat) (r : FlagRec) : (setFlagRec s c k r).mod = s.mod := rfl
@[simp] theorem setFlagRec_fabr (c k : Nat) (r : FlagRec) : (setFlagRec s c k r).fabr = s.fabr := rfl
@[simp] theorem setFlagRec_sec (c k : Nat) (r : FlagRec) : (setFlagRec s c k r).sec = s.sec := rfl
@[simp] theorem setFlagRec_mgmt (c k : Nat) (r : FlagRec) : (setFlagRec s c k r).mgmt = s.mgmt := rfl
@[simp] theorem setFlagRec_out (c k : Nat) (r : FlagRec) : (setFlagRec s c k r).out = s.out := rfl
@[simp] theorem setFlagRec_clk (c k : Nat) (r : FlagRec) : (setFlagRec s c k r).clk = s.clk := rfl
@[simp] theorem setFlagRec_fab (c k : Nat) (r : FlagRec) : (setFlagRec s c k r).fab = s.fab := rfl
@[simp] theorem setFlagRec_fresh (c k : Nat) (r : FlagRec) : (setFlagRec s c k r).fresh = s.fresh := rfl

/-! ### setLnk -/

@[simp] theorem setLnk_pending (l : Nat) (k : Lnk) : (setLnk s l k).pending = s.pending := rfl
@[simp] theorem setLnk_regs (l : Nat) (k : Lnk) : (setLnk s l k).regs = s.regs := rfl
@[simp] theorem setLnk_mem (l : Nat) (k : Lnk) : (setLnk s l k).mem = s.mem := rfl
@[simp] theorem setLnk_ent (l : Nat) (k : Lnk) : (setLnk s l k).ent = s.ent := rfl
@[simp] theorem setLnk_cache (l : Nat) (k : Lnk) : (setLnk s l k).cache = s.cache := rfl
@[simp] theorem setLnk_cstore (l : Nat) (k : Lnk) : (setLnk s l k).cstore = s.cstore := rfl
@[simp] theorem setLnk_accm (l : Nat) (k : Lnk) : (setLnk s l k).accm = s.accm := rfl
@[simp] theorem setLnk_ctxs (l : Nat) (k : Lnk) : (setLnk s l k).ctxs = s.ctxs := rfl
@[simp] theorem setLnk_parts (l : Nat) (k : Lnk) : (setLnk s l k).parts = s.parts := rfl
@[simp] theorem setLnk_trace (l : Nat) (k : Lnk) : (setLnk s l k).trace = s.trace := rfl
@[simp] theorem setLnk_flags (l : Nat) (k : Lnk) : (setLnk s l k).flags = s.flags := rfl
@[simp] theorem setLnk_ringOwn (l : Nat) (k : Lnk) : (setLnk s l k).ringOwn = s.ringOwn := rfl
@[simp] theorem setLnk_hub (l : Nat) (k : Lnk) : (setLnk s l k).hub = s.hub := rfl
@[simp] theorem setLnk_acc (l : Nat) (k : Lnk) : (setLnk s l k).acc = s.acc := rfl
@[simp] theorem setLnk_lnks (l : Nat) (k : Lnk) : (setLnk s l k).lnks = smSet emptyLnk s.lnks l k := rfl
@[simp] theorem setLnk_queues (l : Nat) (k : Lnk) : (setLnk s l k).queues = s.queues := rfl
@[simp] theorem setLnk_pipes (l : Nat) (k : Lnk) : (setLnk s l k).pipes = s.pipes := rfl
@[simp] theorem setLnk_ptp (l : Nat) (k : Lnk) : (setLnk s l k).ptp = s.ptp := rfl
@[simp] theorem setLnk_mod (l : Nat) (k : Lnk) : (setLnk s l k).mod = s.mod := rfl
@[simp] theorem setLnk_fabr (l : Nat) (k : Lnk) : (setLnk s l k).fabr = s.fabr := rfl
@[simp] theorem setLnk_sec (l : Nat) (k : Lnk) : (setLnk s l k).sec = s.sec := rfl
@[simp] theorem setLnk_mgmt (l : Nat) (k : Lnk) : (setLnk s l k).mgmt = s.mgmt := rfl
@[simp] theorem setLnk_out (l : Nat) (k : Lnk) : (setLnk s l k).out = s.out := rfl
@[simp] theorem setLnk_clk (l : Nat) (k : Lnk) : (setLnk s l k).clk = s.clk := rfl
@[simp] theorem setLnk_fab (l : Nat) (k : Lnk) : (setLnk s l k).fab = s.fab := rfl
@[simp] theorem setLnk_fresh (l : Nat) (k : Lnk) : (setLnk s l k).fresh = s.fresh := rfl

/-! ### setQueue -/

@[simp] theorem setQueue_pending (q : Nat) (v : Queue) : (setQueue s q v).pending = s.pending := rfl
@[simp] theorem setQueue_regs (q : Nat) (v : Queue) : (setQueue s q v).regs = s.regs := rfl
@[simp] theorem setQueue_mem (q : Nat) (v : Queue) : (setQueue s q v).mem = s.mem := rfl
@[simp] theorem setQueue_ent (q : Nat) (v : Queue) : (setQueue s q v).ent = s.ent := rfl
@[simp] theorem setQueue_cache (q : Nat) (v : Queue) : (setQueue s q v).cache = s.cache := rfl
@[simp] theorem setQueue_cstore (q : Nat) (v : Queue) : (setQueue s q v).cstore = s.cstore := rfl
@[simp] theorem setQueue_accm (q : Nat) (v : Queue) : (setQueue s q v).accm = s.accm := rfl
@[simp] theorem setQueue_ctxs (q : Nat) (v : Queue) : (setQueue s q v).ctxs = s.ctxs := rfl
@[simp] theorem setQueue_parts (q : Nat) (v : Queue) : (setQueue s q v).parts = s.parts := rfl
@[simp] theorem setQueue_trace (q : Nat) (v : Queue) : (setQueue s q v).trace = s.trace := rfl
@[simp] theorem setQueue_flags (q : Nat) (v : Queue) : (setQueue s q v).flags = s.flags := rfl
@[simp] theorem setQueue_ringOwn (q : Nat) (v : Queue) : (setQueue s q v).ringOwn = s.ringOwn := rfl
@[simp] theorem setQueue_hub (q : Nat) (v : Queue) : (setQueue s q v).hub = s.hub := rfl
@[simp] theorem setQueue_acc (q : Nat) (v : Queue) : (setQueue s q v).acc = s.acc := rfl
@[simp] theorem setQueue_lnks (q : Nat) (v : Queue) : (setQueue s q v).lnks = s.lnks := rfl
@[simp] theorem setQueue_queues (q : Nat) (v : Queue) : (setQueue s q v).queues = smSet emptyQueue s.queues q v := rfl
@[simp] theorem setQueue_pipes (q : Nat) (v : Queue) : (setQueue s q v).pipes = s.pipes := rfl
@[simp] theorem setQueue_ptp (q : Nat) (v : Queue) : (setQueue s q v).ptp = s.ptp := rfl
@[simp] theorem setQueue_mod (q : Nat) (v : Queue) : (setQueue s q v).mod = s.mod := rfl
@[simp] theorem setQueue_fabr (q : Nat) (v : Queue) : (setQueue s q v).fabr = s.fabr := rfl
@[simp] theorem setQueue_sec (q : Nat) (v : Queue) : (setQueue s q v).sec = s.sec := rfl
@[simp] theorem setQueue_mgmt (q : Nat) (v : Queue) : (setQueue s q v).mgmt = s.mgmt := rfl
@[simp] theorem setQueue_out (q : Nat) (v : Queue) : (setQueue s q v).out = s.out := rfl
@[simp] theorem setQueue_clk (q : Nat) (v : Queue) : (setQueue s q v).clk = s.clk := rfl
@[simp] theorem setQueue_fab (q : Nat) (v : Queue) : (setQueue s q v).fab = s.fab := rfl
@[simp] theorem setQueue_fresh (q : Nat) (v : Queue) : (setQueue s q v).fresh = s.fresh := rfl

/-! ### setPipe -/

@[simp] theorem setPipe_pending (m n : Nat) (p : Pipe) : (setPipe s m n p).pending = s.pending := rfl
@[simp] theorem setPipe_regs (m n : Nat) (p : Pipe) : (setPipe s m n p).regs = s.regs := rfl
@[simp] theorem setPipe_mem (m n : Nat) (p : Pipe) : (setPipe s m n p).mem = s.mem := rfl
@[simp] theorem setPipe_ent (m n : Nat) (p : Pipe) : (setPipe s m n p).ent = s.ent := rfl
@[simp] theorem setPipe_cache (m n : Nat) (p : Pipe) : (setPipe s m n p).cache = s.cache := rfl
@[simp] theorem setPipe_cstore (m n : Nat) (p : Pipe) : (setPipe s m n p).cstore = s.cstore := rfl
@[simp] theorem setPipe_accm (m n : Nat) (p : Pipe) : (setPipe s m n p).accm = s.accm := rfl
@[simp] theorem setPipe_ctxs (m n : Nat) (p : Pipe) : (setPipe s m n p).ctxs = s.ctxs := rfl
@[simp] theorem setPipe_parts (m n : Nat) (p : Pipe) : (setPipe s m n p).parts = s.parts := rfl
@[simp] theorem setPipe_trace (m n : Nat) (p : Pipe) : (setPipe s m n p).trace = s.trace := rfl
@[simp] theorem setPipe_flags (m n : Nat) (p : Pipe) : (setPipe s m n p).flags = s.flags := rfl
@[simp] theorem setPipe_ringOwn (m n : Nat) (p : Pipe) : (setPipe s m n p).ringOwn = s.ringOwn := rfl
@[simp] theorem setPipe_hub (m n : Nat) (p : Pipe) : (setPipe s m n p).hub = s.hub := rfl
@[simp] theorem setPipe_acc (m n : Nat) (p : Pipe) : (setPipe s m n p).acc = s.acc := rfl
@[simp] theorem setPipe_lnks (m n : Nat) (p : Pipe) : (setPipe s m n p).lnks = s.lnks := rfl
@[simp] theorem setPipe_queues (m n : Nat) (p : Pipe) : (setPipe s m n p).queues = s.queues := rfl
@[simp] theorem setPipe_pipes (m n : Nat) (p : Pipe) :
    (setPipe s m n p).pipes = smSet emptyPipe s.pipes (pipeKey m n) p := rfl
@[simp] theorem setPipe_ptp (m n : Nat) (p : Pipe) : (setPipe s m n p).ptp = s.ptp := rfl
@[simp] theorem setPipe_mod (m n : Nat) (p : Pipe) : (setPipe s m n p).mod = s.mod := rfl
@[simp] theorem setPipe_fabr (m n : Nat) (p : Pipe) : (setPipe s m n p).fabr = s.fabr := rfl
@[simp] theorem setPipe_sec (m n : Nat) (p : Pipe) : (setPipe s m n p).sec = s.sec := rfl
@[simp] theorem setPipe_mgmt (m n : Nat) (p : Pipe) : (setPipe s m n p).mgmt = s.mgmt := rfl
@[simp] theorem setPipe_out (m n : Nat) (p : Pipe) : (setPipe s m n p).out = s.out := rfl
@[simp] theorem setPipe_clk (m n : Nat) (p : Pipe) : (setPipe s m n p).clk = s.clk := rfl
@[simp] theorem setPipe_fab (m n : Nat) (p : Pipe) : (setPipe s m n p).fab = s.fab := rfl
@[simp] theorem setPipe_fresh (m n : Nat) (p : Pipe) : (setPipe s m n p).fresh = s.fresh := rfl

/-! ### setPhase -/

@[simp] theorem setPhase_pending (p : Phase) : (setPhase s p).pending = s.pending := rfl
@[simp] theorem setPhase_regs (p : Phase) : (setPhase s p).regs = s.regs := rfl
@[simp] theorem setPhase_mem (p : Phase) : (setPhase s p).mem = s.mem := rfl
@[simp] theorem setPhase_ent (p : Phase) : (setPhase s p).ent = s.ent := rfl
@[simp] theorem setPhase_cache (p : Phase) : (setPhase s p).cache = s.cache := rfl
@[simp] theorem setPhase_cstore (p : Phase) : (setPhase s p).cstore = s.cstore := rfl
@[simp] theorem setPhase_accm (p : Phase) : (setPhase s p).accm = s.accm := rfl
@[simp] theorem setPhase_ctxs (p : Phase) : (setPhase s p).ctxs = s.ctxs := rfl
@[simp] theorem setPhase_parts (p : Phase) : (setPhase s p).parts = s.parts := rfl
@[simp] theorem setPhase_trace (p : Phase) : (setPhase s p).trace = s.trace := rfl
@[simp] theorem setPhase_flags (p : Phase) : (setPhase s p).flags = s.flags := rfl
@[simp] theorem setPhase_ringOwn (p : Phase) : (setPhase s p).ringOwn = s.ringOwn := rfl
@[simp] theorem setPhase_hub (p : Phase) : (setPhase s p).hub = s.hub := rfl
@[simp] theorem setPhase_acc (p : Phase) : (setPhase s p).acc = s.acc := rfl
@[simp] theorem setPhase_lnks (p : Phase) : (setPhase s p).lnks = s.lnks := rfl
@[simp] theorem setPhase_queues (p : Phase) : (setPhase s p).queues = s.queues := rfl
@[simp] theorem setPhase_pipes (p : Phase) : (setPhase s p).pipes = s.pipes := rfl
@[simp] theorem setPhase_ptp (p : Phase) : (setPhase s p).ptp = s.ptp := rfl
@[simp] theorem setPhase_mod (p : Phase) : (setPhase s p).mod = { s.mod with phase := p } := rfl
@[simp] theorem setPhase_fabr (p : Phase) : (setPhase s p).fabr = s.fabr := rfl
@[simp] theorem setPhase_sec (p : Phase) : (setPhase s p).sec = s.sec := rfl
@[simp] theorem setPhase_mgmt (p : Phase) : (setPhase s p).mgmt = s.mgmt := rfl
@[simp] theorem setPhase_out (p : Phase) : (setPhase s p).out = s.out := rfl
@[simp] theorem setPhase_clk (p : Phase) : (setPhase s p).clk = s.clk := rfl
@[simp] theorem setPhase_fab (p : Phase) : (setPhase s p).fab = s.fab := rfl
@[simp] theorem setPhase_fresh (p : Phase) : (setPhase s p).fresh = s.fresh := rfl

/-! ### setSite -/

@[simp] theorem setSite_pending (m : Nat) (g : GSite) : (setSite s m g).pending = s.pending := rfl
@[simp] theorem setSite_regs (m : Nat) (g : GSite) : (setSite s m g).regs = s.regs := rfl
@[simp] theorem setSite_mem (m : Nat) (g : GSite) : (setSite s m g).mem = s.mem := rfl
@[simp] theorem setSite_ent (m : Nat) (g : GSite) : (setSite s m g).ent = s.ent := rfl
@[simp] theorem setSite_cache (m : Nat) (g : GSite) : (setSite s m g).cache = s.cache := rfl
@[simp] theorem setSite_cstore (m : Nat) (g : GSite) : (setSite s m g).cstore = s.cstore := rfl
@[simp] theorem setSite_accm (m : Nat) (g : GSite) : (setSite s m g).accm = s.accm := rfl
@[simp] theorem setSite_ctxs (m : Nat) (g : GSite) : (setSite s m g).ctxs = s.ctxs := rfl
@[simp] theorem setSite_parts (m : Nat) (g : GSite) : (setSite s m g).parts = s.parts := rfl
@[simp] theorem setSite_trace (m : Nat) (g : GSite) : (setSite s m g).trace = s.trace := rfl
@[simp] theorem setSite_flags (m : Nat) (g : GSite) : (setSite s m g).flags = s.flags := rfl
@[simp] theorem setSite_ringOwn (m : Nat) (g : GSite) : (setSite s m g).ringOwn = s.ringOwn := rfl
@[simp] theorem setSite_hub (m : Nat) (g : GSite) : (setSite s m g).hub = s.hub := rfl
@[simp] theorem setSite_acc (m : Nat) (g : GSite) : (setSite s m g).acc = s.acc := rfl
@[simp] theorem setSite_lnks (m : Nat) (g : GSite) : (setSite s m g).lnks = s.lnks := rfl
@[simp] theorem setSite_queues (m : Nat) (g : GSite) : (setSite s m g).queues = s.queues := rfl
@[simp] theorem setSite_pipes (m : Nat) (g : GSite) : (setSite s m g).pipes = s.pipes := rfl
@[simp] theorem setSite_ptp (m : Nat) (g : GSite) : (setSite s m g).ptp = s.ptp := rfl
@[simp] theorem setSite_mod (m : Nat) (g : GSite) : (setSite s m g).mod = s.mod := rfl
@[simp] theorem setSite_fabr (m : Nat) (g : GSite) :
    (setSite s m g).fabr = { s.fabr with sites := smSet emptySite s.fabr.sites m g } := rfl
@[simp] theorem setSite_sec (m : Nat) (g : GSite) : (setSite s m g).sec = s.sec := rfl
@[simp] theorem setSite_mgmt (m : Nat) (g : GSite) : (setSite s m g).mgmt = s.mgmt := rfl
@[simp] theorem setSite_out (m : Nat) (g : GSite) : (setSite s m g).out = s.out := rfl
@[simp] theorem setSite_clk (m : Nat) (g : GSite) : (setSite s m g).clk = s.clk := rfl
@[simp] theorem setSite_fab (m : Nat) (g : GSite) : (setSite s m g).fab = s.fab := rfl
@[simp] theorem setSite_fresh (m : Nat) (g : GSite) : (setSite s m g).fresh = s.fresh := rfl

/-! ### setJob -/

@[simp] theorem setJob_pending (j : Job) : (setJob s j).pending = s.pending := rfl
@[simp] theorem setJob_regs (j : Job) : (setJob s j).regs = s.regs := rfl
@[simp] theorem setJob_mem (j : Job) : (setJob s j).mem = s.mem := rfl
@[simp] theorem setJob_ent (j : Job) : (setJob s j).ent = s.ent := rfl
@[simp] theorem setJob_cache (j : Job) : (setJob s j).cache = s.cache := rfl
@[simp] theorem setJob_cstore (j : Job) : (setJob s j).cstore = s.cstore := rfl
@[simp] theorem setJob_accm (j : Job) : (setJob s j).accm = s.accm := rfl
@[simp] theorem setJob_ctxs (j : Job) : (setJob s j).ctxs = s.ctxs := rfl
@[simp] theorem setJob_parts (j : Job) : (setJob s j).parts = s.parts := rfl
@[simp] theorem setJob_trace (j : Job) : (setJob s j).trace = s.trace := rfl
@[simp] theorem setJob_flags (j : Job) : (setJob s j).flags = s.flags := rfl
@[simp] theorem setJob_ringOwn (j : Job) : (setJob s j).ringOwn = s.ringOwn := rfl
@[simp] theorem setJob_hub (j : Job) :
    (setJob s j).hub = { s.hub with jobs := modWhere (fun k => k.idx = j.idx) (fun _ => j) s.hub.jobs } := rfl
@[simp] theorem setJob_acc (j : Job) : (setJob s j).acc = s.acc := rfl
@[simp] theorem setJob_lnks (j : Job) : (setJob s j).lnks = s.lnks := rfl
@[simp] theorem setJob_queues (j : Job) : (setJob s j).queues = s.queues := rfl
@[simp] theorem setJob_pipes (j : Job) : (setJob s j).pipes = s.pipes := rfl
@[simp] theorem setJob_ptp (j : Job) : (setJob s j).ptp = s.ptp := rfl
@[simp] theorem setJob_mod (j : Job) : (setJob s j).mod = s.mod := rfl
@[simp] theorem setJob_fabr (j : Job) : (setJob s j).fabr = s.fabr := rfl
@[simp] theorem setJob_sec (j : Job) : (setJob s j).sec = s.sec := rfl
@[simp] theorem setJob_mgmt (j : Job) : (setJob s j).mgmt = s.mgmt := rfl
@[simp] theorem setJob_out (j : Job) : (setJob s j).out = s.out := rfl
@[simp] theorem setJob_clk (j : Job) : (setJob s j).clk = s.clk := rfl
@[simp] theorem setJob_fab (j : Job) : (setJob s j).fab = s.fab := rfl
@[simp] theorem setJob_fresh (j : Job) : (setJob s j).fresh = s.fresh := rfl

/-! ### cntPut -/

@[simp] theorem cntPut_pending (i p : Nat) (c : Cnt) : (cntPut s i p c).pending = s.pending := rfl
@[simp] theorem cntPut_regs (i p : Nat) (c : Cnt) : (cntPut s i p c).regs = s.regs := rfl
@[simp] theorem cntPut_mem (i p : Nat) (c : Cnt) : (cntPut s i p c).mem = s.mem := rfl
@[simp] theorem cntPut_ent (i p : Nat) (c : Cnt) : (cntPut s i p c).ent = s.ent := rfl
@[simp] theorem cntPut_cache (i p : Nat) (c : Cnt) : (cntPut s i p c).cache = s.cache := rfl
@[simp] theorem cntPut_cstore (i p : Nat) (c : Cnt) : (cntPut s i p c).cstore = s.cstore := rfl
@[simp] theorem cntPut_accm (i p : Nat) (c : Cnt) : (cntPut s i p c).accm = s.accm := rfl
@[simp] theorem cntPut_ctxs (i p : Nat) (c : Cnt) : (cntPut s i p c).ctxs = s.ctxs := rfl
@[simp] theorem cntPut_parts (i p : Nat) (c : Cnt) : (cntPut s i p c).parts = s.parts := rfl
@[simp] theorem cntPut_trace (i p : Nat) (c : Cnt) : (cntPut s i p c).trace = s.trace := rfl
@[simp] theorem cntPut_flags (i p : Nat) (c : Cnt) : (cntPut s i p c).flags = s.flags := rfl
@[simp] theorem cntPut_ringOwn (i p : Nat) (c : Cnt) : (cntPut s i p c).ringOwn = s.ringOwn := rfl
@[simp] theorem cntPut_hub (i p : Nat) (c : Cnt) :
    (cntPut s i p c).hub = { s.hub with cnts := smSet ⟨0, false⟩ s.hub.cnts (cntKey i p) c } := rfl
@[simp] theorem cntPut_acc (i p : Nat) (c : Cnt) : (cntPut s i p c).acc = s.acc := rfl
@[simp] theorem cntPut_lnks (i p : Nat) (c : Cnt) : (cntPut s i p c).lnks = s.lnks := rfl
@[simp] theorem cntPut_queues (i p : Nat) (c : Cnt) : (cntPut s i p c).queues = s.queues := rfl
@[simp] theorem cntPut_pipes (i p : Nat) (c : Cnt) : (cntPut s i p c).pipes = s.pipes := rfl
@[simp] theorem cntPut_ptp (i p : Nat) (c : Cnt) : (cntPut s i p c).ptp = s.ptp := rfl
@[simp] theorem cntPut_mod (i p : Nat) (c : Cnt) : (cntPut s i p c).mod = s.mod := rfl
@[simp] theorem cntPut_fabr (i p : Nat) (c : Cnt) : (cntPut s i p c).fabr = s.fabr := rfl
@[simp] theorem cntPut_sec (i p : Nat) (c : Cnt) : (cntPut s i p c).sec = s.sec := rfl
@[simp] theorem cntPut_mgmt (i p : Nat) (c : Cnt) : (cntPut s i p c).mgmt = s.mgmt := rfl
@[simp] theorem cntPut_out (i p : Nat) (c : Cnt) : (cntPut s i p c).out = s.out := rfl
@[simp] theorem cntPut_clk (i p : Nat) (c : Cnt) : (cntPut s i p c).clk = s.clk := rfl
@[simp] theorem cntPut_fab (i p : Nat) (c : Cnt) : (cntPut s i p c).fab = s.fab := rfl
@[simp] theorem cntPut_fresh (i p : Nat) (c : Cnt) : (cntPut s i p c).fresh = s.fresh := rfl

/-! ### Reads after writes -/

@[simp] theorem reg_setReg (a b : Nat) (v : Word) : (s.setReg a v).reg b = if b = a then v else s.reg b := by
  unfold State.reg State.setReg smSet
  split
  · next hv => rw [smGet_smErase]; split <;> simp_all
  · rw [smGet_smInsert]

@[simp] theorem reg_setFld (a hi lo v b : Nat) :
    (s.setFld a hi lo v).reg b = if b = a then setBits (s.reg a) hi lo v else s.reg b := reg_setReg s a b _

@[simp] theorem reg_setRBit (a i b : Nat) (v : Bool) :
    (s.setRBit a i v).reg b = if b = a then setBit (s.reg a) i v else s.reg b := reg_setReg s a b _

end Sys2Proof.Machine
end

