-- ==== Sys2Proof/Laws/Report.lean ====
section
/-! SUPPORT. Event records, error records and counters: all that writing them can touch. -/

namespace Sys2Proof.Machine

theorem Reported.refl (s : State) : Reported s s := ⟨rfl, fun _ _ _ _ => rfl, rfl⟩

theorem Reported.trans {s t u : State} (h1 : Reported s t) (h2 : Reported t u) : Reported s u := by
  refine ⟨?_, fun a x y z => (h2.regs a x y z).trans (h1.regs a x y z), ?_⟩
  · rw [h2.rest, h1.rest]
  · rw [h2.hub, h1.hub]

theorem Reported.ite {p : Prop} [Decidable p] {s t u : State} (h1 : Reported s t) (h2 : Reported s u) :
    Reported s (if p then t else u) := by split <;> assumption

theorem Reported.foldl {α : Type} (f : State → α → State) (l : List α) (hf : ∀ s x, x ∈ l → Reported s (f s x)) (s : State) :
    Reported s (l.foldl f s) := by
  induction l generalizing s with
  | nil => exact .refl s
  | cons x l ih => exact (hf s x (by simp)).trans (ih (fun s y hy => hf s y (by simp [hy])) (f s x))

/-- A change of the hub that keeps jobs, held halves, dead tags and replay. -/
theorem reported_hub (s : State) (h : Hub) (e : h = { h with jobs := s.hub.jobs, half := s.hub.half, dead := s.hub.dead, lost := s.hub.lost, rep := s.hub.rep, obj := s.hub.obj }) :
    Reported s { s with hub := h } := ⟨rfl, fun _ _ _ _ => rfl, e⟩

theorem reported_evtStat (s : State) (hi lo v : Nat) : Reported s (s.setFld rEvtStat hi lo v) :=
  ⟨rfl, fun a _ h _ => by rw [reg_setFld, if_neg h], rfl⟩

theorem reported_evtCtl (s : State) (i : Nat) (b : Bool) : Reported s (s.setRBit rEvtCtl i b) :=
  ⟨rfl, fun a h _ _ => by rw [reg_setRBit, if_neg h], rfl⟩

theorem reported_thrSel (s : State) (k i : Nat) (b : Bool) (hk : k < 64) : Reported s (s.setRBit (rThrSel k) i b) :=
  ⟨rfl, fun a _ _ h => by rw [reg_setRBit, if_neg (h k hk)], rfl⟩

theorem reported_send (s : State) (m : OutMsg) : Reported s (s.send m) := ⟨rfl, fun _ _ _ _ => rfl, rfl⟩

theorem sendReq_reported (s : State) (r : HostReq) : Reported s (sendReq s r) := by
  unfold sendReq
  dsimp only
  split
  · exact .refl s
  · exact (reported_hub s _ rfl).trans (reported_send _ _)

theorem sendHeld_reported (s : State) : Reported s (sendHeld s) :=
  .ite (.foldl _ _ (fun s r _ => sendReq_reported s r) _) (.refl s)

theorem hostRequest_reported (s : State) (ty line : Nat) (data : List Byte) : Reported s (hostRequest s ty line data) :=
  .ite (.refl s) ((reported_hub s _ rfl).trans (sendHeld_reported _))

theorem hostPump_reported (n : Nat) : ∀ s : State, Reported s (hostPump n s) := by
  induction n with
  | zero => intro s; exact .refl s
  | succ n ih =>
    intro s
    unfold hostPump
    split
    · exact .refl s
    · split
      · split
        · exact hostRequest_reported _ _ _ _
        · refine Reported.trans ?_ (ih _)
          dsimp only
          split
          · exact (reported_hub s _ rfl).trans (reported_send _ _)
          · exact reported_hub s _ rfl
      · exact hostRequest_reported _ _ _ _

theorem hostWriteFor_reported (s : State) (a : Nat) (bs : List Byte) (r : Option Nat)
    (q : Option DieHdr) : Reported s (hostWriteFor s a bs r q) := by
  unfold hostWriteFor
  extract_lets h0 s1
  have h1 : Reported s s1 := reported_hub s _ rfl
  exact .ite h1 (h1.trans (hostPump_reported _ _))

theorem hostWrite_reported (s : State) (a : Nat) (bs : List Byte) : Reported s (hostWrite s a bs) :=
  hostWriteFor_reported _ _ _ _ _

theorem evtStore_reported (s : State) (e : EvRec) : Reported s (evtStore s e) :=
  (reported_evtStat _ _ _ _).trans (hostWrite_reported _ _ _)

theorem evtHold_reported (s : State) (e : EvRec) : Reported s (evtHold s e) := by
  unfold evtHold
  split
  · exact (reported_hub s _ rfl).trans (reported_evtStat _ _ _ _)
  · extract_lets s1 s2
    have h1 : Reported s s1 := (reported_evtCtl s 6 true).trans (reported_evtStat _ _ _ _)
    have h2 : Reported s s2 := h1.trans (reported_hub s1 _ rfl)
    exact .ite (h2.trans (reported_hub s2 _ rfl)) h2

theorem emitRaw_reported (s : State) (e : EvRec) : Reported s (emitRaw s e) :=
  .ite (evtStore_reported _ _) (evtHold_reported _ _)

theorem elogWrite_reported (s : State) (e : EvRec) : Reported s (elogWrite s e) := by
  unfold elogWrite
  split
  · exact reported_hub s _ rfl
  · exact .ite (reported_hub s _ rfl) (.refl s)

theorem errRaw_reported (s : State) (r : ErrRec) : Reported s (errRaw s r) := by
  unfold errRaw
  extract_lets n h0 s1 e
  have h1 : Reported s s1 := reported_hub s _ rfl
  exact (h1.trans (emitRaw_reported _ _)).trans (elogWrite_reported _ _)

theorem thrSlot_reported (idx part : Nat) (old new : Cnt) (s : State) (k : Nat) (hk : k < 64) :
    Reported s (thrSlot idx part old new s k) := by
  unfold thrSlot
  extract_lets sel s1
  have h1 : Reported s s1 := reported_thrSel s k 21 true hk
  exact .ite ((h1.trans (reported_hub s1 _ rfl)).trans (errRaw_reported _ _)) (.refl s)

theorem thrJudge_reported (s : State) (idx part : Nat) (old new : Cnt) : Reported s (thrJudge s idx part old new) :=
  .foldl _ _ (fun s k hk => thrSlot_reported idx part old new s k (List.mem_range.mp hk)) _

/-- Counting touches nothing but the records of a threshold. -/
theorem cntInc_reported (s : State) (idx part n : Nat) : Reported s (cntInc s idx part n) := by
  unfold cntInc
  refine .ite (.refl s) ?_
  extract_lets old new
  exact (reported_hub s _ rfl : Reported s (cntPut s idx part new)).trans (thrJudge_reported _ _ _ _ _)

theorem lossJudge_reported {s t : State} (u : State) (h : Reported s t) : Reported s (lossJudge u t) := by
  unfold lossJudge
  exact .ite h (h.trans (thrJudge_reported _ _ _ _ _))

/-- All that an event record touches. -/
theorem emit_reported (s : State) (e : EvRec) : Reported s (emit s e) := lossJudge_reported s (emitRaw_reported s e)
/-- All that an error record touches. -/
theorem errRecord_reported (s : State) (r : ErrRec) : Reported s (errRecord s r) := lossJudge_reported s (errRaw_reported s r)
theorem event0_reported (s : State) (code die : Nat) (part : Option Nat) (pay : List Word) :
    Reported s (event0 s code die part pay) := emit_reported _ _

end Sys2Proof.Machine
end

