-- ==== Sys2Proof/WellFormed.lean ====
section
/-! DEFINITION. Commands that a sender can send: the opcode of an instruction row's word, and lengths and
ranges as the tables of the manual give them. The meanings take any command; a sender keeps to this form. -/

namespace Sys2Proof

/-- The word of an instruction row holds the row's opcode (R117, R120). -/
def wfOp (w : InstrWord) (op : Nat) : Bool := decide ((w.extractLsb' 0 8).toNat = op)

/-- A word of UPD whose function field X[1:0] is `fn` (R254). -/
def wfUpd (w : InstrWord) (fn : Nat) : Bool := wfOp w 0x90 && decide ((w.extractLsb' 80 2).toNat = fn)

/-- The opcodes of Table 3.5. -/
def rowOpcodes : List Nat :=
  (List.range 0x17) ++ [0x20, 0x21, 0x22, 0x23, 0x24, 0x25, 0x30, 0x31, 0x32, 0x33, 0x40, 0x41, 0x42, 0x43, 0x44,
    0x50, 0x51, 0x52, 0x53, 0x54, 0x55, 0x56, 0x60, 0x61, 0x62, 0x70, 0x71, 0x72, 0x73, 0x80, 0x81, 0x90, 0x91,
    0xA0, 0xA1, 0xA2, 0xA3, 0xA4, 0xB0, 0xB1, 0xC0, 0xC1, 0xC2, 0xC3]

/-- A word whose opcode Table 3.5 does not give (R120). -/
def wfReserved (w : InstrWord) : Bool := !rowOpcodes.contains (w.extractLsb' 0 8).toNat

/-- A flit carries at most 19 granules of payload (R406). -/
def wfFlit (f : Flit) : Bool := decide (f.pay.length ≤ 19)

/-- Numbers of the hardware queues (Table 7.13): jobs, a partition's barrier updates, a die's Accord
control, a ring's submissions. -/
def wfQueue (q : Nat) : Bool := q = 0 || (decide (0x10 ≤ q) && decide (q < 0x28)) || (decide (0x40 ≤ q) && decide (q < 0x60))

/-- A module of an edge: 8 of a hub or column edge, 4 of a media edge (R370). -/
def wfModule (e : Fin 16) (m : Fin 8) : Bool := decide (e.val < 14) || decide (m.val < 4)

/-- Modules found on the 8 hub edges, the 6 column edges and the 2 media edges (R370, R372), numbers
reported across the column edges, and the two media sites. -/
def wfFacts (f : BoardFacts) : Bool :=
  decide (f.hubMods.length = 8) && decide (f.colMods.length = 6) && decide (f.siteMods.length = 2) &&
    decide (f.colNums.length = 6) && decide (f.sites.length = 2) && decide (f.atzFunc.length = 2)

/-- A command in the form that its source sends. -/
def Instr.wf : Instr → Bool
  | .nop _ w => wfOp w 0x00
  | .li _ w => wfOp w 0x01
  | .add _ w => wfOp w 0x02
  | .addi _ w => wfOp w 0x03
  | .sub _ w => wfOp w 0x04
  | .mul _ w => wfOp w 0x05
  | .logic _ w => wfOp w 0x06
  | .rdspr _ w => wfOp w 0x07
  | .shift _ w => wfOp w 0x08
  | .br _ w => wfOp w 0x09
  | .loop _ w => wfOp w 0x0A
  | .lds _ w => wfOp w 0x0B
  | .sts _ w => wfOp w 0x0C
  | .dld _ w => wfOp w 0x0D
  | .dset _ w => wfOp w 0x0E
  | .endStream _ w => wfOp w 0x0F
  | .bcset _ w => wfOp w 0x10
  | .bcinc _ w => wfOp w 0x11
  | .bcwait _ w => wfOp w 0x12
  | .fence _ w => wfOp w 0x13
  | .gfence _ w => wfOp w 0x14
  | .iflush _ w => wfOp w 0x15
  | .event _ w => wfOp w 0x16
  | .copy _ w => wfOp w 0x20
  | .copyt _ w => wfOp w 0x21
  | .fill _ w => wfOp w 0x22
  | .gather _ w => wfOp w 0x23
  | .scatter _ w => wfOp w 0x24
  | .prefetch _ w => wfOp w 0x25
  | .mm _ w => wfOp w 0x30
  | .mmacc _ w => wfOp w 0x31
  | .mmrs _ w => wfOp w 0x32
  | .mmag _ w => wfOp w 0x33
  | .conv _ w => wfOp w 0x40
  | .convg _ w => wfOp w 0x41
  | .convbd _ w => wfOp w 0x42
  | .convbw _ w => wfOp w 0x43
  | .pool _ w => wfOp w 0x44
  | .vbin _ w => wfOp w 0x50
  | .vfma _ w => wfOp w 0x51
  | .vun _ w => wfOp w 0x52
  | .vcvt _ w => wfOp w 0x53
  | .norm _ w => wfOp w 0x54
  | .smax _ w => wfOp w 0x55
  | .minv _ w => wfOp w 0x56
  | .tfn _ w => wfOp w 0x60
  | .tder _ w => wfOp w 0x61
  | .tload _ w => wfOp w 0x62
  | .rsum _ w => wfOp w 0x70
  | .rmax _ w => wfOp w 0x71
  | .rmin _ w => wfOp w 0x72
  | .rssq _ w => wfOp w 0x73
  | .qnt _ w => wfOp w 0x80
  | .dqnt _ w => wfOp w 0x81
  | .updApply _ w => wfUpd w 0
  | .updNorm _ w => wfUpd w 1
  | .updPack _ w => wfUpd w 2
  | .reqnt _ w => wfOp w 0x91
  | .rs _ w => wfOp w 0xA0
  | .ag _ w => wfOp w 0xA1
  | .ar _ w => wfOp w 0xA2
  | .send _ w => wfOp w 0xA3
  | .recv _ w => wfOp w 0xA4
  | .pull _ w => wfOp w 0xB0
  | .rel _ w => wfOp w 0xB1
  | .amax _ w => wfOp w 0xC0
  | .fprint _ w => wfOp w 0xC1
  | .cntrd _ w => wfOp w 0xC2
  | .flagrd _ w => wfOp w 0xC3
  | .reservedOpcode _ w => wfReserved w
  | .registerWrite _ _ n _ => n = 4 || n = 8
  | .mrd _ n => n = 4 || n = 8 || n = 64
  | .keepaliveFlit _ f => wfFlit f
  | .dataFlit _ f => wfFlit f
  | .idleFlit _ f => wfFlit f
  | .downFlit _ f => wfFlit f
  | .accordData h d => decide (d.length = h.len.toNat)
  | .queuePush q p _ _ => wfQueue q && decide (p.length = 7)
  | .queuePop q _ _ => wfQueue q
  | .queueTailTimeout q => wfQueue q
  | .getCertificate _ slot o l => decide (slot < 8) && decide (o < 65536) && decide (l < 65536)
  | .challenge _ slot _ _ => decide (slot < 8)
  | .hubRestartDone l => decide (l.length = 8)
  | .powerUp f => wfFacts f
  | .warmResetRelease f => wfFacts f
  | .inputRecovery f => wfFacts f
  | .i3cRegisterWrite _ o d => decide (o.toNat % 4 = 0) && (d.length = 4 || d.length = 8)
  | .debugMemoryWrite sp _ d => decide (0 < d.length) && (sp != .register || d.length = 4 || d.length = 8)
  | .bridgeModuleRetrain e m _ => wfModule e m
  | .bridgeFlitReplay e m _ => wfModule e m
  | .moduleRetrainDone e m _ => wfModule e m
  | .longOperationUnitDone _ n => decide (0 < n)
  | .updFencePass .. | .instructionBlockFetch .. | .instructionWaitSatisfied .. | .fenceWatchdogExpiry ..
  | .tileClaim .. | .tileEnd .. | .instructionComplete .. | .rd .. | .wr .. | .wrp .. | .radd .. | .pois ..
  | .inv .. | .cnt .. | .evt .. | .rdata .. | .chk .. | .ack .. | .nack .. | .disc .. | .dack .. | .accd ..
  | .accc .. | .patrolScrub .. | .rowTrackerClear .. | .meminitGo | .meminitDone | .ssWayWrite ..
  | .ssWayChangeDone .. | .atzStart .. | .atzStop .. | .pipelineIdle .. | .subTailWrite .. | .submissionTake ..
  | .sampleStart .. | .workBudgetExceeded .. | .sampleResolved .. | .reserveAssign .. | .batchPublish .. | .eodFlush ..
  | .liveFrameTake .. | .liveFlushTimeout .. | .atomizerDieFault .. | .guestMessage .. | .guestTokenRelease ..
  | .guestWindowWrite .. | .lnkEnable .. | .lnkDisable .. | .lnkRetrain .. | .basePage ..
  | .trainingStepTimeout .. | .trainingRestart .. | .keepaliveSend .. | .laneFailure .. | .linkRecoveryDone ..
  | .linkRecoveryTimeout .. | .keepaliveWindowEnd .. | .groupActivate .. | .groupDeactivate ..
  | .groupActivationTimeout .. | .accordMember .. | .accordAbort .. | .accordDone .. | .hdr .. | .grant ..
  | .nrec .. | .fpx .. | .blkx .. | .shlPortUp .. | .shlPortDown .. | .hostAccessTimeout .. | .mwr .. | .mwrp ..
  | .shlData .. | .cmp .. | .snpi .. | .snps .. | .jobTake .. | .jobTableScan | .jobStep .. | .stepStart ..
  | .jobBist .. | .jobExport .. | .jobReplay .. | .jobScrub .. | .jobFlash .. | .jobAbort ..
  | .longOperationStart .. | .bistClusterDone .. | .longOperationEnd .. | .jobtabEnable .. | .jobtabDisable ..
  | .evtRingEnable .. | .evtHeadWrite .. | .quantumExpiry .. | .preemptionDrained .. | .partitionEnable ..
  | .partitionEnabled .. | .partitionDisable .. | .partitionDisableDone .. | .shlCtlWrite .. | .shlHwinWrite ..
  | .cluStepWrite .. | .cluSeedWrite .. | .cluClipWrite .. | .sillageEnable .. | .sillageHeadWrite ..
  | .comparatorGroupEnd .. | .replayRecord | .getVersion .. | .getCapabilities .. | .negotiateAlgorithms ..
  | .getDigests .. | .getMeasurements .. | .deploy .. | .revoke .. | .returnLife .. | .debugToken ..
  | .debugRequest .. | .debugScrubDone | .newNonce .. | .nonceExpiry | .closeSession .. | .sessionDurationExpiry
  | .recoveryLoad .. | .recoveryLoadDone .. | .bypass | .idcode | .samplePreload .. | .extest .. | .dbgMbx ..
  | .dbgData .. | .tapReset | .powerDown | .warmResetAssert | .clusterReset .. | .clusterResetDone ..
  | .partitionReset .. | .hubRestart .. | .controlProcessorWatchdog | .heartbeatTick | .drydownEnter ..
  | .drydownExit .. | .drydownWake .. | .sensorRead .. | .clusterThrottle .. | .clusterUnthrottle ..
  | .tripSlowOvercurrent | .tripFastOvercurrent | .tripUnderVoltage | .tripOverVoltage | .tripPowerStage ..
  | .tripLatchClear | .coreEngineParity .. | .tileWatchdog .. | .sequencerDisagreement .. | .accordUnitFault ..
  | .securityControllerFault .. | .hubSwitchUncorrectable .. | .counterClearSelected | .counterClearAll
  | .thresholdRearm .. | .setdasa .. | .entdaa .. | .setnewda .. | .rstdaa .. | .getpid .. | .getbcr ..
  | .getdcr .. | .getstatus .. | .enec .. | .setEndpointId .. | .getTid | .getPldmVersion .. | .getPldmTypes
  | .getPldmCommands .. | .getPdrRepositoryInfo | .getPdr .. | .getSensorReading .. | .getFruRecordTableMetadata
  | .getFruRecordTable | .ppsEdge | .ptpHoldoverTimeout | .ptpEnable .. | .recoveryPattern ..
  | .softRowRepairDone .. | .atomizerDieResetDone .. | .debugHalt .. | .debugResume .. => true

end Sys2Proof
end

