-- ==== Sys2Proof/Tests/Slice0.lean ====
section
/-! SUPPORT. Tests: commands that are not well formed, and for each statement a state and operands that
meet its hypotheses. -/

set_option Elab.async false

namespace Sys2Proof.Tests

open Sys2Proof.Machine

/-! ### Small states -/

/-- Stream F of context 0 of partition 0. -/
def at0 : StreamId := ⟨0, 0, .F⟩

/-- An instruction word: opcode, descriptor numbers, SD, SA, SB, class field, and further bits. -/
def wd (op tds sd sa sb x : Nat) (more : Nat := 0) : InstrWord :=
  BitVec.ofNat 128 (op + more + tds * 2 ^ 32 + sd * 2 ^ 64 + sa * 2 ^ 69 + sb * 2 ^ 74 + x * 2 ^ 80)

/-- Cluster 0 enabled as partition 0, which owns 64 MiB of stack 0. -/
def part0 : State := ((State.reset.setFld (rPartCtl 0) 3 2 2).setReg (rPartClu 0) 1).setReg (rPartHbm 0 0) (put 32 27 ||| put 1 63)

/-- A stream with `w` at its PC in a window of 8 instructions, with scalar registers. -/
def strm0 (w : InstrWord) (regs : SMap Word) : Stream :=
  { emptyStream with st := .issuing, plen := 8, ibuf := [(0, [w])], regs := regs }

/-- Partition 0 runs context 0, whose stream F stands before `w`. -/
def run0 (s : State) (w : InstrWord) (regs : SMap Word) (td : SMap DescWord) : State :=
  setPart { s with ctxs := [(0, { emptyCtx with started := true, td := td, sF := strm0 w regs })] } 0
    { emptyPart with sched := some 0 }

/-- A scalar instruction is about to issue. -/
def scal (w : InstrWord) : State := run0 part0 w [(1, 5), (2, 3), (3, 0x1000)] []

/-- A contiguous descriptor: format, dimensions, BASE, GROUP, LAYOUT, scale base, PGROUP. -/
def dsc (fmt : Nat) (dims : List Nat) (base : Nat) (group lay sb pg : Nat := 0) : DescWord :=
  let row := if lay = 3 then 32 else if lay = 4 then 16 else dims.getD 0 1 * fmtBits fmt / 8
  let dim := fun k => dims.getD k 1
  let s2 := row * dim 1
  let s3 := s2 * dim 2
  let st := fun k v => if k < dims.length then v * 2 ^ (224 + 32 * k) else 0
  BitVec.ofNat 512 (base + fmt * 2 ^ 48 + group * 2 ^ 52 + dims.length * 2 ^ 54 + lay * 2 ^ 57 + 2 ^ 63 +
    dim 0 * 2 ^ 64 + dim 1 * 2 ^ 96 + dim 2 * 2 ^ 128 + dim 3 * 2 ^ 160 + dim 4 * 2 ^ 192 +
    st 1 row + st 2 s2 + st 3 s3 + st 4 (s3 * dim 3) + sb * 2 ^ 384 + pg * 2 ^ 448)

/-- Descriptors of the tests: 1 to 3 FP32 32 × 2, 4 FP32 4 × 32 and 22 its transpose, 5 MX E4M3 and 18 MX E5M2 32 × 2, 7 BF16 32 × 2, 9 and 10
blocked maps of 16 channels, 11 and 12 dense filters, 13 matrices, 14 a table image, 15 and 16 results of reductions, 23 FP32 4 × 4,
24 and 25 one row. -/
def tds0 : SMap DescWord :=
  [(1, dsc 0 [32, 2] 0x10000), (2, dsc 0 [32, 2] 0x11000), (3, dsc 0 [32, 2] 0x12000), (4, dsc 0 [4, 32] 0x13000),
   (5, dsc 3 [32, 2] 0x14000 (sb := 0x15000)), (7, dsc 1 [32, 2] 0x17000),
   (9, dsc 1 [16, 1, 1, 1, 1] 0x19000 (lay := 1)), (10, dsc 1 [16, 1, 1, 1, 1] 0x1A000 (lay := 1)),
   (11, dsc 1 [16, 1, 1, 16] 0x1B000), (12, dsc 1 [8, 1, 1, 16] 0x1C000), (13, dsc 0 [4, 4, 2] 0x1D000), (14, dsc 0 [1568] 0x1E000),
   (15, dsc 0 [1] 0x20000), (16, dsc 0 [32] 0x21000), (18, dsc 4 [32, 2] 0x24000 (sb := 0x25000)), (22, dsc 0 [32, 4] 0x26000),
   (23, dsc 0 [4, 4] 0x27000), (24, dsc 0 [32, 1] 0x28000), (25, dsc 0 [4, 2] 0x29000)]

/-- Record 0 of the group table at 0x30000: an ACTIVE group of 2 ranks in which this module is rank 0. -/
def group0 : SMap Byte :=
  [(0x30000, 1), (0x30002, 2), (0x30005, 0x20), (0x30038, 2), (0x3003A, 0xFF)]

/-- A tensor instruction is about to issue; context 0 has a staging window of 16 MiB in the scratchpad. -/
def tens (w : InstrWord) : State :=
  let s := ((part0.setReg (rStage 0 0) (put 256 16)).setReg (rSsMode 0) 0xFFF).setReg (rGtab 0 0) (put 0x30000 0 ||| put 1 48)
  run0 { s with mem := group0, ent := [(0x30, ⟨1, 0, emptyTag⟩)] } w [(1, 0x1000), (2, 7)] tds0

/-- CanIssue as a computation. -/
def canIssueB (s : State) (a : StreamId) (w : InstrWord) (o : TOp) : Bool :=
  accepts s a w && decide (iOp w = o.op) && wenMet s a w && decide (firstFault (fieldCheck w o.uses :: o.word) = none) &&
    !tensorWait s a w (o.capture s a w) &&
    decide (firstFault (o.unit s :: descChecks s (o.capture s a w) o.uses.tds o.wr ++ o.checks s (o.capture s a w)) = none) &&
    ((fenceNeeds a (o.capture s a w) w).all fun g =>
      (fenceSeen s a (o.capture s a w) w g).any fun f => !countsIn a (o.capture s a w) w g f || (!f.lock && decide (f.rc < 65535))) &&
    decide ((strmAt s a).pc + 1 < (strmAt s a).plen)

theorem canIssue_of {s : State} {a : StreamId} {w : InstrWord} {o : TOp} (h : canIssueB s a w o = true) : CanIssue s a w o := by
  simp only [canIssueB, Bool.and_eq_true, decide_eq_true_eq, Bool.not_eq_true', List.all_eq_true] at h
  obtain ⟨⟨⟨⟨⟨⟨⟨h1, h2⟩, h3⟩, h4⟩, h5⟩, h6⟩, h7⟩, h8⟩ := h
  refine ⟨⟨h1, h2, h3, h4⟩, h5, h6, fun g hg => ?_, h8⟩
  have := h7 g hg
  cases e : fenceSeen s a (o.capture s a w) w g with
  | none => simp [e] at this
  | some f =>
    refine ⟨f, rfl, fun c => ?_⟩
    simpa [e, c] using this

/-- `o` can issue `wd op tds 0 1 2 x` on the state `tens`. -/
def can (o : StreamId → InstrWord → TOp) (op tds sa sb x : Nat) : Bool :=
  canIssueB (tens (wd op tds 0 sa sb x)) at0 (wd op tds 0 sa sb x) (o at0 (wd op tds 0 sa sb x))

/-- Descriptor numbers of TDA, TDB, TDC, TDD. -/
def td4 (x y z d : Nat) : Nat := x + y * 2 ^ 8 + z * 2 ^ 16 + d * 2 ^ 24

/-! ### Witnesses of the statements' hypotheses, in the order of the statements -/

theorem test_met_scalarResults :
    let ok := fun (w : InstrWord) op u x => Ready (scal w) at0 w op u x ∧ (strmAt (scal w) at0).pc + 1 < (strmAt (scal w) at0).plen
    ok (wd 1 0 4 0 0 9) 0x01 { tds := [], sd := true, x := 2 ^ 48 - 1 } [] ∧
    ok (wd 2 0 4 1 2 0) 0x02 { tds := [], sd := true, sa := true, sb := true } [] ∧
    ok (wd 3 0 4 1 0 9) 0x03 { tds := [], sd := true, sa := true, x := 2 ^ 48 - 1 } [] ∧
    ok (wd 4 0 0 1 2 0) 0x04 { tds := [], sd := true, sa := true, sb := true } [] ∧
    ok (wd 5 0 31 1 2 0) 0x05 { tds := [], sd := true, sa := true, sb := true } [] ∧
    ok (wd 6 0 4 1 2 3) 0x06 { tds := [], sd := true, sa := true, sb := true, x := 3 } [] ∧
    ok (wd 8 0 4 1 0 0xBF) 0x08 { tds := [], sd := true, sa := true, x := 255 }
      [need (xF (wd 8 0 4 1 0 0xBF) 7 6 ≠ 3) 0x02 0 9] := by
  intro ok
  refine ⟨?_, ?_, ?_, ?_, ?_, ?_, ?_⟩ <;> exact ⟨⟨by decide, by decide, by decide, by decide⟩, by decide⟩

theorem test_met_nopAndSpecialValues :
    Ready (scal (wd 0 0 0 0 0 0)) at0 (wd 0 0 0 0 0 0) 0x00 { tds := [] } [] ∧
    (∀ n : Fin 9, Ready (scal (wd 7 0 4 0 0 n)) at0 (wd 7 0 4 0 0 n) 0x07 { tds := [], sd := true, x := 255 }
      [need (xF (wd 7 0 4 0 0 n) 7 0 ≤ 8) 0x02 0 9] ∧
      (strmAt (scal (wd 7 0 4 0 0 n)) at0).pc + 1 < (strmAt (scal (wd 7 0 4 0 0 n)) at0).plen) := by
  refine ⟨⟨by decide, by decide, by decide, by decide⟩, fun n => ⟨⟨?_, ?_, ?_, ?_⟩, ?_⟩⟩ <;> revert n <;> decide +kernel

/-- BR forward by 7 to the last instruction of the window when s1 ≠ s2; LOOP on 5, and on 1, which ends it. -/
theorem test_met_branchTargets :
    let br := wd 9 0 0 1 2 (2 + 7 * 2 ^ 16)
    let lp := wd 0xA 0 0 1 0 (7 * 2 ^ 16)
    let ends := wd 0xA 0 0 4 0 0
    let s4 := run0 part0 ends [(4, 1)] []
    Ready (scal br) at0 br 0x09 { tds := [], sa := true, sb := true, x := 0xFFFFFFFF000F } [need (xF br 3 0 ≤ 6) 0x02 0 9] ∧
    sregOf (strmAt (scal br) at0) (iSa br) ≠ sregOf (strmAt (scal br) at0) (iSb br) ∧
    (strmAt (scal br) at0).pc + xF br 47 16 < (strmAt (scal br) at0).plen ∧
    Ready (scal lp) at0 lp 0x0A { tds := [], sa := true, x := 0xFFFFFFFF0000 } [need (iSa lp ≠ 0) 0x02 0 6] ∧
    sregOf (strmAt (scal lp) at0) (iSa lp) - 1 ≠ 0 ∧
    Ready s4 at0 ends 0x0A { tds := [], sa := true, x := 0xFFFFFFFF0000 } [need (iSa ends ≠ 0) 0x02 0 6] ∧
    sregOf (strmAt s4 at0) (iSa ends) - 1 = 0 ∧ (strmAt s4 at0).pc + 1 < (strmAt s4 at0).plen := by
  refine ⟨⟨?_, ?_, ?_, ?_⟩, ?_, ?_, ⟨?_, ?_, ?_, ?_⟩, ?_, ⟨?_, ?_, ?_, ?_⟩, ?_, ?_⟩ <;> decide

/-- The clauses of BranchTargets that stop: BR and LOOP to one past the window of 8 words and to 1 before it, the first condition
that is none, LOOP on s0. -/
theorem test_met_branchTargets_stops :
    (∀ x, x = 8 ∨ x = 0xFFFFFFFF →
      let br := wd 9 0 0 1 2 (2 + x * 2 ^ 16)
      let lp := wd 0xA 0 0 1 0 (x * 2 ^ 16)
      Ready (scal br) at0 br 0x09 { tds := [], sa := true, sb := true, x := 0xFFFFFFFF000F } [need (xF br 3 0 ≤ 6) 0x02 0 9] ∧
      sregOf (strmAt (scal br) at0) (iSa br) ≠ sregOf (strmAt (scal br) at0) (iSb br) ∧
      ¬ (0 ≤ ((strmAt (scal br) at0).pc : Int) + sext 32 (xF br 47 16) ∧
        ((strmAt (scal br) at0).pc : Int) + sext 32 (xF br 47 16) < (strmAt (scal br) at0).plen) ∧
      Ready (scal lp) at0 lp 0x0A { tds := [], sa := true, x := 0xFFFFFFFF0000 } [need (iSa lp ≠ 0) 0x02 0 6] ∧
      sregOf (strmAt (scal lp) at0) (iSa lp) - 1 ≠ 0) ∧
    (let br := wd 9 0 0 1 2 7
     Ready (scal br) at0 br 0x09 { tds := [], sa := true, sb := true, x := 0xFFFFFFFF000F } [] ∧ 6 < xF br 3 0) ∧
    (let lp := wd 0xA 0 0 0 0 0
     Ready (scal lp) at0 lp 0x0A { tds := [], sa := true, x := 0xFFFFFFFF0000 } [] ∧ iSa lp = 0) := by
  refine ⟨?_, ⟨⟨by decide, by decide, by decide, by decide⟩, by decide⟩, ⟨by decide, by decide, by decide, by decide⟩, by decide⟩
  rintro x (rfl | rfl)
  all_goals exact ⟨⟨by decide, by decide, by decide, by decide⟩, by decide, by decide,
    ⟨by decide, by decide, by decide, by decide⟩, by decide⟩

/-- LDS and STS at the last word of the partition's memory. -/
theorem test_met_scalarMemory :
    let lds := wd 0xB 0 4 3 0 0x3FFEFF8
    let sts := wd 0xC 0 0 3 1 0x3FFEFF8
    (∀ w, w = lds ∨ w = sts →
      (sregOf (strmAt (scal w) at0) (iSa w) + (w.extractLsb 127 80).signExtend 64).toNat = 0x3FFFFF8 ∧
      rangeInPart (scal w) at0.part 0x3FFFFF8 8 = true ∧ (strmAt (scal w) at0).infl = [] ∧
      ∀ i, i < 8 → lstAt (scal w) (0x3FFFFF8 + i) ≠ 2 ∧ addrNack (scal w) (0x3FFFFF8 + i) = 0) ∧
    Ready (scal lds) at0 lds 0x0B { tds := [], sd := true, sa := true, x := 2 ^ 48 - 1 } [] ∧
    Ready (scal sts) at0 sts 0x0C { tds := [], sa := true, sb := true, x := 2 ^ 48 - 1 } [] := by
  intro lds sts
  refine ⟨?_, ⟨by decide, by decide, by decide, by decide⟩, by decide, by decide, by decide, by decide⟩
  rintro w (rfl | rfl) <;> decide +kernel

/-- DSET of BASE of td[255]; DLD of one descriptor, and of 256, which X[16:8] = 0 counts. -/
theorem test_met_descriptorLoads :
    let ds := wd 0xE (255 * 2 ^ 16) 0 3 0 0
    let one := wd 0xD 0 0 3 0 (255 + 256)
    let all := wd 0xD 0 0 3 0 0
    (Ready (scal ds) at0 ds 0x0E { tds := [2], sa := true, x := 15 } [need (xF ds 3 0 ≤ 13) 0x02 0 9] ∧
      (sregOf (strmAt (scal ds) at0) (iSa ds)).toNat < 2 ^ 48) ∧
    ∀ w, w = one ∨ w = all →
      Ready (scal w) at0 w 0x0D { tds := [], sa := true, x := 0x1FFFF } [need (xF w 7 0 + dldCount w ≤ 256) 0x02 0 9] ∧
      (strmAt (scal w) at0).infl = [] ∧ rangeInPart (scal w) at0.part 0x1000 (64 * dldCount w) = true ∧
      (w = one → ReadsClean (scal w) (span 0x1000 (64 * dldCount w)) ⟨strmTag at0 0, some 0, 0xFFFFFFFF, 0⟩) := by
  intro ds one all
  refine ⟨⟨⟨by decide, by decide, by decide, by decide⟩, by decide⟩, ?_⟩
  rintro w (rfl | rfl) <;>
    refine ⟨⟨by decide, by decide, by decide, by decide +kernel⟩, by decide, by decide +kernel, ?_⟩
  · exact fun _ => by unfold ReadsClean; decide +kernel
  · exact fun h => absurd h (by decide)

theorem test_met_barrierCounters :
    let ok := fun (w : InstrWord) op u x => Ready (scal w) at0 w op u x ∧ (strmAt (scal w) at0).infl = []
    let inc := wd 0x11 0 0 0 0 (63 + 0xFFFF * 256)
    ok (wd 0x10 0 0 1 0 63) 0x10 { tds := [], sa := true, x := 0x3F } [] ∧
    ok inc 0x11 { tds := [], x := 0xFFFF3F } [need (xF inc 23 8 ≠ 0) 0x02 0 9] ∧
    ok (wd 0x12 0 0 0 0 63) 0x12 { tds := [], sa := true, x := 0x3F } [] ∧
    (bcOf (ctxAt (scal (wd 0x12 0 0 0 0 63)) at0) 63 - 0).toNat < 2 ^ 31 := by
  intro ok inc
  refine ⟨?_, ?_, ?_, by decide⟩ <;> exact ⟨⟨by decide, by decide, by decide, by decide⟩, by decide⟩

theorem test_met_fencesAndEvents :
    let ok := fun (w : InstrWord) op u => Ready (scal w) at0 w op u [] ∧ (strmAt (scal w) at0).infl = []
    ok (wd 0x13 0 0 0 0 0) 0x13 { tds := [] } ∧ ok (wd 0x14 0 0 0 0 0) 0x14 { tds := [] } ∧
    ok (wd 0x15 0 0 0 0 0) 0x15 { tds := [] } ∧ ok (wd 0x16 0 0 1 0 0xFFFF) 0x16 { tds := [], sa := true, x := 0xFFFF } := by
  intro ok
  refine ⟨?_, ?_, ?_, ?_⟩ <;> exact ⟨⟨by decide, by decide, by decide, by decide⟩, by decide⟩

/-- Stream F ends while stream U still issues. -/
theorem test_met_endStopsStream :
    let w := wd 0xF 0 0 0 0 0
    let s := setStrmAt (scal w) ⟨0, 0, .U⟩ (strm0 w [])
    Ready s at0 w 0x0F { tds := [] } [] ∧ (strmAt s at0).infl = [] ∧ iSen w = false ∧ ((ctxAt s at0).strm .U).st = .issuing := by
  refine ⟨⟨by decide, by decide, by decide, by decide⟩, by decide, by decide, by decide⟩

/-- CNTRD of a counter of the partition and of its OVF; FLAGRD into s30 and s31. -/
theorem test_met_counterAndFlagReads :
    (∀ w, w = wd 0xC2 0 4 0 0 1 ∨ w = wd 0xC2 0 4 0 0 0x8001 →
      Ready (scal w) at0 w 0xC2 { tds := [], sd := true, x := 0xFFFF } [need (cntValid (xF w 15 0 % 0x8000)) 0x02 0 9] ∧
      cntOwned (scal w) at0.part (xF w 15 0 % 0x8000) = true) ∧
    let w := wd 0xC3 0 30 0 0 1
    Ready (scal w) at0 w 0xC3 { tds := [], sd := true, x := 1 } [need (1 ≤ iSd w && iSd w ≤ 30) 0x02 0 5] ∧
      (strmAt (scal w) at0).infl = [] := by
  refine ⟨?_, ⟨by decide, by decide, by decide, by decide⟩, by decide⟩
  rintro w (rfl | rfl) <;> exact ⟨⟨by decide, by decide, by decide, by decide⟩, by decide⟩

/-- COPY, COPYT and FILL; GATHER of row 0 twice and SCATTER, whose list of 4-byte indices lies at 0x1000; PREFETCH in a partition
without cache ways and in one that has some. -/
theorem test_met_movesIssue :
    can copyOp 0x20 (td4 1 0 2 0) 0 0 0 = true ∧ can copytOp 0x21 (td4 22 0 4 0) 0 0 0 = true ∧
    can fillOp 0x22 (td4 0 0 2 0) 1 2 0 = true ∧ can (rowsOp 0x23 0 2) 0x23 (td4 1 0 2 0) 1 0 0 = true ∧
    can (rowsOp 0x24 1 0) 0x24 (td4 1 0 2 0) 1 0 1 = true ∧ can (fun a _ => prefetchOp a) 0x25 (td4 1 0 0 0) 0 0 0 = true ∧
    hasCacheWays (tens (wd 0x25 1 0 0 0 0)) 0 = false ∧
    (let w := wd 0x25 1 0 0 0 0
     let s := (tens w).setReg (rSsMode 0) 0x20002
     hasCacheWays s 0 = true ∧ canIssueB s at0 w (prefetchOp at0) = true) := by decide +kernel

/-- The list that GATHER and SCATTER read: below the row count, meeting nothing in flight, and verified without poison. -/
theorem test_met_indexLists :
    let w := wd 0x23 (td4 1 0 2 0) 0 1 0 0
    let s := tens w
    (∀ i : Fin 2, readNat s (0x1000 + 4 * i.val) 4 < dDim (opDesc s at0 w 0) 1) ∧ hazard s at0 [(0x1000, 0x1007)] [] = false ∧
    ReadsClean s (span 0x1000 8) ⟨strmTag at0 0, some 0, 0xFFFFFFFF, 0⟩ := by unfold ReadsClean; decide +kernel

theorem test_met_productsIssue :
    can (mmOp 0x30 false (xm 39 0) (fun _ => none) (fun _ _ => [])) 0x30 (td4 22 22 23 0) 0 0 (2 ^ 34) = true ∧
    can (mmOp 0x31 true (xm 39 0) (fun _ => none) (fun _ _ => [])) 0x31 (td4 22 22 23 0) 0 0 (2 ^ 34) = true := by decide +kernel

theorem test_met_convolutionsIssue :
    can (cvOp 0x40) 0x40 (td4 9 11 10 0) 0 0 0 = true ∧ can (cvOp 0x41) 0x41 (td4 9 12 10 0) 0 0 0 = true ∧
    can (cvOp 0x42) 0x42 (td4 9 11 10 0) 0 0 0 = true ∧ can (cvOp 0x43) 0x43 (td4 9 10 11 0) 0 0 0 = true ∧
    can poolOp 0x44 (td4 9 0 10 0) 0 0 1 = true := by decide +kernel

theorem test_met_vectorsIssue :
    can vbinOp 0x50 (td4 1 2 3 0) 0 0 9 = true ∧ can vfmaOp 0x51 (td4 1 2 3 1) 0 0 0 = true ∧ can vunOp 0x52 (td4 1 0 3 0) 0 0 8 = true ∧
    can vcvtOp 0x53 (td4 1 0 7 0) 0 0 0 = true ∧ can normOp 0x54 (td4 1 0 3 0) 0 0 0 = true ∧ can smaxOp 0x55 (td4 1 0 3 0) 0 0 0 = true ∧
    can minvOp 0x56 (td4 13 0 13 0) 0 0 0 = true ∧ can (redOp 0x70) 0x70 (td4 1 0 15 0) 0 0 5 = true ∧
    can (redOp 0x71) 0x71 (td4 1 0 16 0) 0 0 1 = true ∧ can (redOp 0x72) 0x72 (td4 1 0 16 0) 0 0 1 = true ∧
    can (redOp 0x73) 0x73 (td4 1 0 15 0) 0 0 5 = true := by decide +kernel

theorem test_met_tablesAndQuantisersIssue :
    can tfnOp 0x60 (td4 1 0 3 0) 0 0 0 = true ∧ can tderOp 0x61 (td4 1 2 3 0) 0 0 0 = true ∧ can tloadOp 0x62 (td4 14 0 0 0) 0 0 3 = true ∧
    can qntOp 0x80 (td4 1 0 5 0) 0 0 0 = true ∧ can dqntOp 0x81 (td4 5 0 3 0) 0 0 0 = true ∧ can amaxOp 0xC0 (td4 1 0 15 0) 0 0 0 = true ∧
    can reqntOp 0x91 (td4 7 0 5 0) 0 0 0 = true := by decide +kernel

/-- The group record that the updates read is the unwritten one: SGD, not frozen, GSTEP 0. -/
theorem test_met_updatesIssue :
    can updOp 0x90 (td4 1 5 7 0) 0 0 0 = true ∧ can updOp 0x90 (td4 1 0 0 0) 0 0 1 = true ∧ can updOp 0x90 (td4 1 5 18 0) 0 0 2 = true ∧
    normWait (tens (wd 0x90 (td4 1 5 7 0) 0 0 0 0)) at0 (wd 0x90 (td4 1 5 7 0) 0 0 0 0) 0 = false ∧
    can (fun a _ => fprintOp a) 0xC1 (td4 1 0 0 0) 0 0 0 = true := by decide +kernel

theorem test_met_collectivesIssue :
    can (colOp 0xA0 (xm 8 0)) 0xA0 (td4 1 0 24 0) 0 0 0 = true ∧ can (colOp 0xA1 (xm 7 0)) 0xA1 (td4 24 0 1 0) 0 0 0 = true ∧
    can (colOp 0xA2 (xm 7 0)) 0xA2 (td4 1 0 2 0) 0 0 0 = true ∧ can (colOp 0xA3 (xm 35 0)) 0xA3 (td4 1 0 0 0) 0 0 256 = true ∧
    can (colOp 0xA4 (xm 35 0)) 0xA4 (td4 0 0 1 0) 0 0 256 = true ∧ can (fusedOp 0x32) 0x32 (td4 22 22 25 0) 0 0 (2 ^ 34) = true ∧
    can (fusedOp 0x33) 0x33 (td4 1 22 23 0) 0 0 (2 ^ 34) = true ∧
    (let w := wd 0xA0 (td4 1 0 24 0) 0 0 0 0
     hazard (tens w) at0 [] (normRange w (some (normAddr (tens w) 0)) false) = false) := by decide +kernel

/-- A slot of the ring free, and nothing held. -/
theorem test_met_recordsAndCounters :
    let s := ((State.reset.setReg rEvtCtl 0x26).setFld (rShlStat 0) 2 0 2)
    s.hub.held = [] ∧ evtSpace s = true ∧ evtSpace State.reset = false ∧ State.reset.hub.held.length < 256 ∧
    ∀ k : Fin 64, s.rbit (rThrSel k) 20 = false := by decide +kernel

/-- Ring 0 of site 9 runs for partition 0 with a batch ready, `pulled` batches taken, bound to stream F of context 0 or free. -/
def intake (w : InstrWord) (pulled bound : Nat) : State :=
  let s := scal w
  let t := (((s.setFld rCap0 8 8 1).setFld rCap0 11 10 1).setFld (rRingCtl 0 0) 3 2 1).setFld (rRingCtl 0 0) 4 4 bound
  setPipe { t with ringOwn := [(0, some 0)] } 0 0
    { emptyPipe with desc := [0, 0x40000, put 1 0 ||| put 2 24], ready := [⟨63, [], true, false, 0, 0, 0⟩], pulled := pulled }

/-- PULL into s29 to s31 of a free ring; REL of batch 0 of a bound one. -/
theorem test_met_intakeInstructions :
    (let w := wd 0xB0 0 29 0 0 0
     let s := intake w 0 0
     accepts s at0 w = true ∧ wenMet s at0 w = true ∧ firstFault [fieldCheck w { tds := [2], sd := true, x := 0x1F },
       need (1 ≤ iSd w && iSd w ≤ 29) 0x02 0 5, need (mediaOk s 0) 0x03 0 0] = none ∧
     firstFault (pullChecks s at0 0 0) = none ∧ (getPipe s 0 0).ready.head?.isSome = true) ∧
    (let w := wd 0xB1 0 0 4 0 0
     let s := intake w 1 1
     accepts s at0 w = true ∧ wenMet s at0 w = true ∧
     firstFault [fieldCheck w { tds := [], sa := true, x := 0x1F }, need (mediaOk s 0) 0x03 0 0] = none ∧
     hazard s at0 [] [relRange s at0 w] = false ∧ firstFault (relChecks s at0 0 0 (sregOf (strmAt s at0) (iSa w)).toNat) = none) := by
  decide +kernel

/-- An instruction in flight with ISEQ 7, `n` tiles, and TDC of 32 × 2 FP32 elements. -/
def fly (w : InstrWord) (n : Nat) (granted : List Nat) (claims : List (Nat × Nat)) (done : List Nat) (aux : List Nat := []) : InFlight :=
  ⟨7, 0, w, [0, 0, dsc 0 [32, 2] 0x10000, 0], 5, 0, aux, n, granted, claims, done, [], [], false, false, false, 0, []⟩

/-- `scal w` with `f` in flight on stream F, and with another instruction in flight on stream U. -/
def flying (w : InstrWord) (f : InFlight) : State :=
  let s := setStrmAt (scal w) at0 { strm0 w [] with infl := [f] }
  setStrmAt s ⟨0, 0, .U⟩ { strm0 w [] with infl := [fly 0 1 [] [] []] }

/-- A reserved opcode, a stream that waits at a word, and a COPY into a read-only descriptor, while stream U has work in flight. -/
theorem test_met_streamsStop :
    let busy := fun w => flying w (fly 0 1 [] [] [])
    (∀ w : InstrWord, w = 0x17 ∨ w = 0x20 ∨ w = 0xFF → (ctxAt (busy w) at0).fault = 0 ∧
      ((ctxAt (busy w) at0).allStrms.any fun t => !t.infl.isEmpty) = true ∧ accepts (busy w) at0 w = true ∧ wenMet (busy w) at0 w = true) ∧
    (∀ w : InstrWord, w = 0x17 ∨ w = 0xFF → ∀ r ∈ [(0x00, 0x16), (0x20, 0x25), (0x30, 0x33), (0x40, 0x44), (0x50, 0x56), (0x60, 0x62),
      (0x70, 0x73), (0x80, 0x81), (0x90, 0x91), (0xA0, 0xA4), (0xB0, 0xB1), (0xC0, 0xC3)], ¬ (r.1 ≤ iOp w ∧ iOp w ≤ r.2)) ∧
    (let s := setStrmAt (busy 0x12) at0 { strm0 0x12 [] with st := .waiting }
     (getPart s 0).sched = some 0 ∧ (strmAt s at0).st = .waiting ∧ bufferWord (strmAt s at0) = some 0x12) ∧
    (let w := wd 0x20 (td4 1 0 2 0) 0 0 0 0
     let s := setStrmAt (tens w) ⟨0, 0, .U⟩ { strm0 w [] with infl := [fly 0 1 [] [] []] }
     let t := modCtx s 0 0 fun c => { c with td := [(1, dsc 0 [32, 2] 0x10000), (2, dsc 0 [32, 2] 0x11000 ||| 2 ^ 62)] }
     let o := copyOp at0 w
     accepts t at0 w = true ∧ wenMet t at0 w = true ∧ firstFault (fieldCheck w o.uses :: o.word) = none ∧
     tensorWait t at0 w (o.capture t at0 w) = false ∧
     firstFault (o.unit t :: descChecks t (o.capture t at0 w) o.uses.tds o.wr ++ o.checks t (o.capture t at0 w)) = some ⟨0x1A, 1, 3⟩) := by
  refine ⟨?_, ?_, by decide +kernel, by decide +kernel⟩
  · rintro w (rfl | rfl | rfl) <;> decide +kernel
  · rintro w (rfl | rfl) <;> decide +kernel

/-- Block 0 of a window of 8 words, not in the buffer; streams that wait at a NOP, a BCWAIT and a COPY that can go on; a D2 session. -/
theorem test_met_fetchWaitAndHalt :
    (let s := setStrmAt (scal 0) at0 { strm0 0 [] with ibuf := [], pbase := 0x40000 }
     (ctxAt s at0).started = true ∧ (strmAt s at0).st = .issuing ∧ (getPart s 0).sched = some 0 ∧ 64 * 0 < (strmAt s at0).plen ∧
     (strmAt s at0).ibuf.any (fun x => decide (x.1 = 0)) = false ∧
     ReadsClean s (span 0x40000 (blockBytes (strmAt s at0) 0)) ⟨strmTag at0 0, some 0, 0xFFFFFFFF, 0⟩) ∧
    (∀ w : InstrWord, w = 0 ∨ w = 0x12 ∨ w = 0x30 ∨ w = 0xB0 → let s := setStrmAt (scal w) at0 { strm0 w [] with st := .waiting }
      (strmAt s at0).st = .waiting ∧ bufferWord (strmAt s at0) = some w ∧ accepts s at0 w = true ∧ wenMet s at0 w = true) ∧
    (let s := setStrmAt (scal 0x12) at0 { strm0 0x12 [] with st := .waiting }
     firstFault [fieldCheck 0 { tds := [] }] = none ∧ firstFault [fieldCheck 0x12 { tds := [], sa := true, x := 0x3F }] = none ∧
     (strmAt s at0).infl = [] ∧ (bcOf (ctxAt s at0) 0 - (sregOf (strmAt s at0) 0).setWidth 32).toNat < 2 ^ 31) ∧
    (let w := wd 0x20 (td4 1 0 2 0) 0 0 0 0
     let s := setStrmAt (tens w) at0 { strm0 w [(1, 0x1000), (2, 7)] with st := .waiting }
     (strmAt s at0).st = .waiting ∧ bufferWord (strmAt s at0) = some w ∧ canIssueB s at0 w (copyOp at0 w) = true) ∧
    (let s := scal 0
     debugD2 { s with sec := { s.sec with sess := some ⟨2, 1, 0, [], 0, false, false⟩ } } = true) := by
  refine ⟨?_, ?_, by decide +kernel, by decide +kernel, by decide +kernel⟩
  · unfold ReadsClean; decide +kernel
  · rintro w (rfl | rfl | rfl | rfl) <;> decide +kernel

/-- The claim of tile 1 by core 31 of cluster 0 after tile 0 went to core 0; the end of a tile that core 0 serves; an instruction whose
tiles have ended. -/
theorem test_met_tilesAndCompletion :
    (let w := wd 0x22 0 0 0 0 0 (2 ^ 25)
     let f := fly w 2 [0] [(0, 0)] []
     let s := flying w f
     findFlight (strmAt s at0) 7 = some f ∧ (getPart s 0).sched = some 0 ∧ (partClusters s 0).idxOf? 0 = some 0 ∧ iDist w = true ∧
     (getPart s 0).draining = false ∧ haltedCtx s 0 0 = false ∧
     (((ctxAt s at0).allStrms.all fun k => k.infl.all fun g => g.claims.all fun c => decide (c.2 ≠ 31)) = true) ∧
     coreFree s at0 f 31 = true ∧
     1 < itemsOf f ∧ 1 % nClusters s 0 = 0 ∧ 1 ∉ f.granted) ∧
    (let w := wd 0x22 0 0 0 0 0
     let f := fly w 1 [] [] []
     let s := flying w f
     findFlight (strmAt s at0) 7 = some f ∧ iOp w = 0x22 ∧ mayEnd s at0 f 0 0 = true ∧ coreFree s at0 f 0 = true ∧
     ((outAddrs (f.tds.getD 2 0) (linElems (f.tds.getD 2 0) 0 16384)).all fun x => addrNack s x = 0) = true) ∧
    (let w := wd 0x22 0 0 0 0 0
     let f := fly w 1 [] [] [0]
     let s := flying w f
     findFlight (strmAt s at0) 7 = some f ∧ f.nTiles ≤ f.done.length ∧ iOp f.w ∉ [0x10, 0x11, 0x16, 0x90, 0x91] ∧
     findColl s at0 7 = none ∧ f.nf = false ∧ f.sat = false ∧ at0.strm ≠ .B ∧ cmpEvery s 0 = 0 ∧ ((ctxAt s at0).strm .U).infl ≠ []) := by
  decide +kernel

/-- An update of a frozen group in flight; an APPLY and a PACK whose group has FENCE = 0, and FENCE = 1 with every reader done; a
stream held at a group end in which nothing, and in which something, was written. -/
theorem test_met_fencePassAndGroupEnd :
    (let w := wd 0x90 0 0 0 0 1
     let f := fly w 0 [] [] [] [16, 0]
     let s := flying w f
     findFlight (strmAt s at0) 7 = some f ∧ iOp f.w = 0x90 ∧ f.passed = false ∧ (getPart s 0).sched = some 0 ∧ xF f.w 1 0 = 1 ∧
     fenceUse w = none ∧ pgFrozen (BitVec.ofNat 512 (f.aux.getD 0 0)) = true) ∧
    (∀ (x : Fin 2) (fence : Bool),
     let w := wd 0x90 0 0 0 0 (2 * x)
     let f := fly w 0 [] [] [] [0, 0]
     let g : FenceG := ⟨fence, 3, 2, 0, 0, 0, 0, 2, false⟩
     let s := modCtx (flying w f) 0 0 fun c => { c with fences := [(0, g)] }
     findFlight (strmAt s at0) 7 = some f ∧ iOp f.w = 0x90 ∧ f.passed = false ∧ (getPart s 0).sched = some 0 ∧
     fenceUse w = some (true, decide (x = 0)) ∧ (loadFence s 0 0 (fenceGroup f)).isSome = true ∧ fenceOf (ctxAt s at0) (fenceGroup f) = some g ∧
     claimsBefore s at0 f = false ∧ g.rc = 0 ∧ g.lock = false ∧ g.rel = g.nmb) ∧
    (∀ l : List (Nat × Nat × DescWord), l = [] ∨ l = [(3, 1, 0)] →
     let s := setStrmAt (flying 0 (fly 0 1 [] [] [])) at0 { strm0 0 [] with hold := true, wrote := l }
     (strmAt s at0).hold = true ∧ (strmAt s at0).infl = [] ∧ (strmAt s at0).wrote = l ∧ s.hub.rep = none ∧
     ((ctxAt s at0).strm .U).infl ≠ []) := by
  refine ⟨by decide +kernel, by decide +kernel, ?_⟩
  rintro l (rfl | rfl) <;> decide +kernel

/-- A descriptor of pictures for partition 0, stored or live: slots at 0x40000, list at 0x60000, reserve at 0x90000, staleness limits at
0xA0000, one bucket of batches of two. -/
def pic0 (live : Nat) : List Word :=
  [put live 4, put 0x40000 0, put 2 0 ||| put 2 24, put 0x60000 0 ||| put 4 48, 0, 0, put 0x90000 0, put 1 0, 0, put 16 0, put 3 0,
   0, 0, 0, 0, 0, 0, put 0xA0000 0, put 1 0, 0, 0, 0, 0, 0, put 2 32, put 1 0 ||| put 1 16 ||| put 1 32 ||| put 1 48]

/-- Ring 0 of site 9 in state `st` with pipeline `p`. -/
def ring0 (st : Nat) (p : Pipe) : State :=
  setPipe ((((part0.setFld rCap0 8 8 1).setFld rCap0 11 10 1).setFld (rRingCtl 0 0) 3 2 st).setRBit (rAtzStat 0) 0 true) 0 0 p

/-- A header from the hub to die 0. -/
def hdr0 (vc a : Nat) (verify : Bool := false) : DieHdr := ⟨BitVec.ofNat 2 vc, 8, 0, 5, 0, BitVec.ofNat 48 a, 0, verify, false, false⟩

/-- The last line of the data range of stack 0, a verifying read, an address without storage, and a slice whose pool is full. -/
theorem test_met_dieReadsAndWrites :
    (∀ a v, (a = 0x8EDFFFFC0 ∧ v = true) ∨ (a = 0x8EE000000 ∧ v = false) ∨ (a = 0xF00000000 ∧ v = false) → let h := hdr0 0 a v
      Heard State.reset h 0 ∧ ¬ (hostAperture ≤ h.addr.toNat ∧ h.dst = 8) ∧
      ∀ ty : Fin 4, poolRoom (creditBack State.reset ty h) h = true) ∧
    (∀ ty : Fin 9, let h := hdr0 0 0x8EDFFFFC0
      let s := addReq (creditBack State.reset ty h) ty h
      addrNack s 0x8EDFFFFC0 = 0 ∧ inStore s 0x8EDFFFFC0 = true) ∧
    (let h := hdr0 0 0xF00000000
     addrNack (addReq (creditBack State.reset 1 h) 1 h) 0xF00000000 ≠ 0) ∧
    (let h := hdr0 0 0x100000000000
     let r : DieReq := ⟨1, h, ⟨0, 0, 0, 0⟩, none, false, false⟩
     let s := { State.reset with fabr := { State.reset.fabr with reqs := List.replicate 192 r } }
     Heard s h 0 ∧ poolRoom (creditBack s 1 h) h = false) := by
  refine ⟨?_, by decide +kernel, by decide +kernel, ⟨⟨by decide +kernel, by decide +kernel, by decide +kernel, by decide +kernel, by decide +kernel⟩,
    by decide +kernel⟩⟩
  rintro a v (⟨rfl, rfl⟩ | ⟨rfl, rfl⟩ | ⟨rfl, rfl⟩) <;>
    exact ⟨⟨by decide +kernel, by decide +kernel, by decide +kernel, by decide +kernel, by decide +kernel⟩, by decide +kernel, by decide +kernel⟩

/-- Every type of update finds room; a barrier counter of the scheduled context; event records of both kinds. -/
theorem test_met_dieUpdates :
    Heard (scal 0) (hdr0 0 0x40000) 0 ∧ (getPart (scal 0) (hdr0 0 0x40000).part.toNat).sched = some 0 ∧
    (∀ ty : Fin 9, let h := hdr0 0 0x40000
      poolRoom (creditBack (scal 0) ty h) h = true ∧ addrNack (addReq (creditBack (scal 0) ty h) ty h) 0x40000 = 0 ∧
      inStore (addReq (creditBack (scal 0) ty h) ty h) 0x40000 = true) ∧
    (evOf 0x0900).code = 0x900 ∧ (evOf 0x0A00).code = 0xA00 :=
  ⟨⟨by decide +kernel, by decide +kernel, by decide +kernel, by decide +kernel, by decide +kernel⟩, by decide +kernel, by decide +kernel,
    by decide +kernel, by decide +kernel⟩

/-- Requests outstanding to die 0 and to media die 9: a read, a verifying read that holds its data, and a write; a die without a number;
a message of five granules of which four have come. -/
theorem test_met_dieResponses :
    let st := fun (r : DieReq) => { State.reset with fabr := { State.reset.fabr with reqs := [r] } }
    let ans := fun d => { hdr0 1 0 with src := 0, dst := d }
    let rq := fun ty v d (k : BitVec 4) => (⟨ty, { hdr0 0 0 v with src := k }, ⟨0, 0, 0, 0⟩, d, false, false⟩ : DieReq)
    Heard (st (rq 1 true none 8)) (ans 8) 1 ∧ Heard (ring0 1 emptyPipe) (ans 9) 1 ∧
    (∀ v : Bool, findReq (st (rq 1 v none 8)) (ans 8) = some (rq 1 v none 8)) ∧
    findReq (st (rq 1 true (some 0) 8)) (ans 8) = some (rq 1 true (some 0) 8) ∧ findReq (st (rq 2 false none 8)) (ans 8) = some (rq 2 false none 8) ∧
    findReq (st (rq 1 false none 9)) (ans 9) = some (rq 1 false none 9) ∧
    crcZ ^^^ (0 : BitVec 32) ^^^ 0 = crcZ ∧ ((State.reset.setReg (rDieIdent 0) 0xF).rbit (rDieIdent 0) 7 = false) ∧
    (hdr0 2 0).src = 8 ∧ guestAt State.reset 8 = false ∧ Heard State.reset (unitHdr 1 0 0) 3 ∧
    (let b := leBytes 64 (4 * 2 ^ 56)
     bF b 0 16 ≠ 0 ∧ b.length < 16 * (min 16 (bF b 0 16 / 2 ^ 56 % 32) + 1)) :=
  ⟨⟨by decide +kernel, by decide +kernel, by decide +kernel, by decide +kernel, by decide +kernel⟩,
    ⟨by decide +kernel, by decide +kernel, by decide +kernel, by decide +kernel, by decide +kernel⟩, by decide +kernel, by decide +kernel,
    by decide +kernel, by decide +kernel, by decide +kernel, by decide +kernel, by decide +kernel, by decide +kernel,
    ⟨by decide +kernel, by decide +kernel, by decide +kernel, by decide +kernel, by decide +kernel⟩, by decide +kernel⟩

/-- A repair under way; a range of one block in stack 0; no partition busy. -/
theorem test_met_memoryUpkeep :
    (let w := rowWord 0 ⟨0, 0, 5⟩
     w ∈ ({ State.reset with fabr := { State.reset.fabr with fixing := [w] } } : State).fabr.fixing) ∧
    (let s := (State.reset.setFld rMeminitBase 47 12 1).setFld rMeminitSize 23 0 1
     s.up = true ∧ s.rbit rMeminitCtl 1 = false ∧ meminitOk s (s.fld rMeminitBase 47 12 * 4096) (s.fld rMeminitSize 23 0) = true) ∧
    meminitOk State.reset 0 0 = false ∧
    ({ State.reset with fabr := { State.reset.fabr with init := true } } : State).fabr.init = true := by decide +kernel

/-- A block that matches its entry, one that does not, and ways of die 0: a write that changes way 0, one that changes none, and one
that takes a way away from started streams. -/
theorem test_met_scrubAndWays :
    (∀ c : BitVec 32, c = emptyEntry.crc ∨ c = 1 →
      let s := { State.reset.setRBit (rScrubCtl (homeDie 0x4000)) 8 true with ent := [(4, ⟨0, c, emptyTag⟩)] }
      s.up = true ∧ addrNack s 0x4000 = 0 ∧ s.rbit (rScrubCtl (homeDie 0x4000)) 8 = true ∧ inStore s 0x4000 = true ∧
      (∀ j : Fin 64, lineState (entryOf s 0x4000) j ≠ 2) ∧ (imageCrc s 0x4000 = (entryOf s 0x4000).crc ↔ c = emptyEntry.crc)) ∧
    (let s := State.reset
     s.up = true ∧ diePresent s 0 = true ∧ s.rbit (rSsMode 0) 62 = false ∧ anyStarted s 0 = false ∧
     wayChanges s (s.softWrite (rSsMode 0) 1) 0 0 = true ∧ wayIs s 0 0 = (0, false, false) ∧
     wayIs (s.softWrite (rSsMode 0) 1) 0 0 = (0, true, false) ∧
     ∀ n : Fin 12, wayChanges s (s.softWrite (rSsMode 0) 0) 0 n = false) ∧
    (let s := (scal 0).setReg (rSsMode 0) 1
     anyStarted s 0 = true ∧ wayChanges s (s.softWrite (rSsMode 0) 0) 0 0 = true ∧ wayIs s 0 0 = (0, true, false) ∧
     s.rbit (rSsMode 0) 62 = false) := by
  refine ⟨?_, by decide +kernel, by decide +kernel⟩
  rintro c (rfl | rfl) <;> decide +kernel

/-- An entry of a queue. -/
def qe (i : Nat) : QEntry := ⟨[BitVec.ofNat 64 i, 0, 0, 0, 0, 0, 0], 0, BitVec.ofNat 32 i⟩

/-- Queues with entries at the head, one whose tail is full, and one with a stranded tail; a running ring with an entry to submit, and with
an entry to take; the queue of a context's steps. -/
theorem test_met_queuesMove :
    (let s := setQueue State.reset 0 { emptyQueue with head := [qe 0, qe 1], seq := 2 }
     let v := getQueue s 0
     s.up = true ∧ isControl 0 = true ∧ queueStalls v = false ∧ v.tail = [] ∧ v.mrd = v.mwr ∧ v.head.length < 16 ∧ v.head = [qe 0, qe 1]) ∧
    queueStalls (getQueue (setQueue State.reset 0 { emptyQueue with tail := (List.range 16).map qe }) 0) = true ∧
    (let s := { ring0 1 { emptyPipe with desc := pic0 0 } with mem := [(0x60000, 4)], ent := [(0x60, ⟨1, 0, emptyTag⟩)] }
     let t := setQueue (s.setReg (rRingTail 0 0) 1) (qIntake 0 0) { freshQueue 0 0 0 0 with head := [qe 0], seq := 1 }
     let v := getQueue t (qIntake 0 0)
     let p := getPipe t 0 0
     let a := pSub p + 64 * (p.pushed % 2 ^ pSubLog p)
     running t 0 0 = true ∧ queueStalls v = false ∧ v.tail = [] ∧ v.mrd = v.mwr ∧ v.head = [qe 0] ∧ p.taken = none ∧
     p.pushed % 2 ^ 32 ≠ t.fld (rRingTail 0 0) 31 0 ∧ lstAt t a = 1 ∧
     bit ((BitVec.ofNat 512 (leNat (rawBytes t a 64))).extractLsb' 128 64) 33 = false) ∧
    isStepQ (qStep 0 7) = true ∧
    (∀ c : Nat, c = 1 ∨ c = 2 →
     let s := setQueue State.reset (qIntake 0 1) { freshQueue c 0x70000 16 100 with head := (List.range 16).map qe, tail := [qe 16] }
     let v := getQueue s (qIntake 0 1)
     v.cls = c ∧ v.tmo ≠ 0 ∧ v.tail ≠ [] ∧ v.tail.length < 16 ∧ v.mrd ≤ v.mwr ∧ v.midLen + v.tail.length ≤ v.depth) := by
  refine ⟨by decide +kernel, by decide +kernel, by decide +kernel, by decide +kernel, ?_⟩
  rintro c (rfl | rfl) <;> decide +kernel

/-- A site whose picture units are present, with the descriptor of a picture ring at 0x50000. -/
def startable (n : Nat) : State :=
  let s := (((ring0 0 emptyPipe).setRBit rCap3 52 true).setFld (rRingDesc 0 0) 47 0 0x50000)
  { s with
    mem := [(0x5000A, 4), (0x50010, BitVec.ofNat 8 n), (0x50013, 2), (0x5001A, 6), (0x5001E, 4), (0x50022, 7), (0x50028, 16), (0x50032, 8),
      (0x500C4, 1), (0x500C8, 1), (0x500CA, 1), (0x500CC, 1), (0x500CE, 1)]
    ent := [(0x50, ⟨0x5555555555, 0, emptyTag⟩)] }

/-- A ring that starts, one whose slot is too small, a site without READY, a running and a stopping ring. -/
theorem test_met_pipelineControl :
    (mediaOk (startable 2) 0 = true ∧ (startable 2).rbit (rAtzStat 0) 0 = true ∧ ringState (startable 2) 0 0 = 0 ∧
     (startCheck (startable 2) 0 0).isRight = true) ∧
    (startCheck (startable 1) 0 0).getLeft? = some 0x03 ∧
    (mediaOk ((startable 2).setRBit (rAtzStat 0) 0 false) 0 = true ∧ ((startable 2).setRBit (rAtzStat 0) 0 false).rbit (rAtzStat 0) 0 = false) ∧
    (mediaOk (ring0 1 emptyPipe) 0 = true ∧ ringState (ring0 1 emptyPipe) 0 0 = 1 ∧
     ∀ (p : Fin 16) (x : Fin 8), ∀ k ∈ [Strm.F, .B, .U], (strmAt (ring0 1 emptyPipe) ⟨p, x, k⟩).wait ≠ .intake 0 0) ∧
    (mediaOk (ring0 2 emptyPipe) 0 = true ∧ ringState (ring0 2 emptyPipe) 0 0 = 2) := by
  refine ⟨by decide +kernel, by decide +kernel, by decide +kernel, by decide +kernel, by decide +kernel⟩

/-- A PNG of one grey pixel. -/
def png0 : List Byte :=
  [137, 80, 78, 71, 13, 10, 26, 10, 0, 0, 0, 13, 73, 72, 68, 82, 0, 0, 0, 1, 0, 0, 0, 1, 8, 0, 0, 0, 0, 58, 126, 155, 85] ++
  [0, 0, 0, 10, 73, 68, 65, 84, 120, 1, 99, 8, 5, 0, 0, 87, 0, 86, 4, 153, 186, 37, 0, 0, 0, 0, 73, 69, 78, 68, 174, 66, 96, 130]

/-- A shard of that PNG at 0x80000 with its index, a reserve entry at 0x90000 that names it, and a limit of 1 us at 0xA0000. -/
def shards (s : State) : State :=
  { s with
    mem := [(0x80000, 0x5A), (0x80001, 0x53), (0x80002, 0x46), (0x80003, 0x31), (0x80004, 1), (0x80008, 1), (0x80010, 64), (0x80019, 16),
      (0x8003C, 101), (0x8003D, 214), (0x8003E, 76), (0x8003F, 163), (0x80040, 3), (0x80048, 128), (0x80050, 67), (0x80054, 1)] ++
      ((List.range 67).zip png0).filterMap (fun p => if p.2 = 0 then none else some (0x80080 + p.1, p.2)) ++ [(0x90002, 8), (0xA0000, 1)]
    ent := [(0x80, ⟨85, 3676492682, emptyTag⟩), (0x90, ⟨1, 0, emptyTag⟩), (0xA0, ⟨1, 0, emptyTag⟩)] }

/-- A running ring with `p` over the descriptor of stored or live pictures. -/
def runs (live : Nat) (p : Pipe) : State := shards (ring0 1 { p with desc := pic0 live })

/-- An entry that names the shard, and one that ends a group. -/
def subEntry (w0 w1 w2 : Nat) : QEntry := ⟨[put w0 0, put w1 0, put w2 0, 0, 0, 0, 0], 0, 0⟩

/-- Sample `pos` of the shard in a stage. -/
def samp (pos : Nat) (st : Stage) : Sample :=
  { emptySample with pos := pos, shard := 0x80000, addr := 0x80080, size := 67, codec := 1, units := 20, stage := st }

/-- The entry that ends a group and the entry of the shard. -/
theorem test_met_samplesProceed_take :
    (∀ w : Nat × Nat × Nat, w = (0, 0, 2 ^ 33) ∨ w = (0x80000, 0, 0) →
      let s := runs 0 { emptyPipe with taken := some (subEntry w.1 w.2.1 w.2.2) }
      running s 0 0 = true ∧ pLive (getPipe s 0 0) = false ∧ (takeEntry s 0 0).isSome = true) ∧
    (let s := runs 0 { emptyPipe with taken := some (subEntry 0x80000 0 0) }
     (match takeEntry s 0 0 with
       | some (_, s1) => match shardHeader s1 (getPipe s 0 0) 0x80000 with
         | (s2, some h) => decide (s2 = s1) && decide (bF h 8 4 = 1)
         | _ => false
       | none => false) = true) := by
  refine ⟨?_, by decide +kernel⟩
  rintro w (rfl | rfl) <;> decide +kernel

/-- A sample that its index entry admits under its budget, one that is not admitted, one of a codec that is off, and a wrong entry. -/
theorem test_met_samplesProceed_start :
    let at_ := fun (w : Word) => runs 0 { emptyPipe with desc := (pic0 0).set 10 w, subs := [⟨0, 1, 0x80000, 0, 0, false⟩] }
    let s := runs 0 { emptyPipe with subs := [⟨0, 1, 0x80000, 0, 0, false⟩] }
    running s 0 0 = true ∧ pLive (getPipe s 0 0) = false ∧ findSample (getPipe s 0 0) 0 = none ∧ (s.reg (rRingPos 0 0)).toNat ≤ 0 ∧
    (match freshSample (getPipe s 0 0) 0 with
      | some x => match vread s (indexAddr s x.shard x.idx) 32 (mediaReader (getPipe s 0 0)) with
        | (t, some e) =>
          let y := indexSample x e (readNat s (x.shard + 24) 8)
          let bs := (vread t y.1.addr y.1.size (mediaReader (getPipe s 0 0))).2.getD []
          let q := getPipe s 0 0
          decide (t = s) && y.2 && decide (codecCause q y.1 = 0) && decide (bs = png0) && (workBudget q y.1 (headersOf 1 bs)).isRight &&
            (workBudget q y.1 (headersOf 1 [])).isLeft && decide (codecCause { q with desc := q.desc.set 10 0 } y.1 = 9) &&
            !(indexSample x e 0).2
        | _ => false
      | none => false) = true ∧ (at_ 0).up = true := by decide +kernel

/-- Samples that decode: within the budget, over it, and broken. -/
theorem test_met_samplesProceed_resolve :
    let s := fun (x : Sample) => runs 0 { emptyPipe with samples := [x] }
    let res := fun (x : Sample) => resolution (s x) (getPipe (s x) 0 0) x
    (∀ (u : Fin 2) (n : Fin 2),
      let x := { samp 1 .decoding with units := 20 * u, size := 66 + n }
      running (s x) 0 0 = true ∧ decoding (s x) 0 0 1 = some x ∧ pLive (getPipe (s x) 0 0) = false ∧ pReplay (getPipe (s x) 0 0) = false ∧
      (res x).1 = s x ∧
      (res x).2.getLeft? = if n = 0 then some 4 else if u = 0 then some 5 else none) ∧
    (let x := samp 1 .decoding
     ((res x).2.getRight?.map (·.pos)) = some 1 ∧
     ((s x).reg (rRingPos 0 0)).toNat ≠ 1 ∧ findSample (getPipe (s x) 0 0) ((s x).reg (rRingPos 0 0)).toNat = none) := by decide +kernel

/-- A failed position at the front; a closed batch; an end marker due; a live frame within and above its limit; a replayed frame that a
record keeps, that one drops, and one of another sequence; an open live bucket. -/
theorem test_met_batchesProceed :
    (let s := runs 0 { emptyPipe with samples := [samp 0 .failed] }
     let p := getPipe s 0 0
     let s1 := reserveWarn (s.setFld (rRingRes 0 0) 31 0 1) 0 0 0
     running s 0 0 = true ∧ (s.reg (rRingPos 0 0)).toNat = 0 ∧ findSample p 0 = some (samp 0 .failed) ∧ p.eods.head? ≠ some 0 ∧
     s.fld (rRingRes 0 0) 31 0 < pResCount p ∧
     (match reserveEntry s1 p (pRes p) with
       | (t, some x) => decide (t = s1) && decide (x = (0x80000, 0))
       | _ => false) = true) ∧
    (let s := ring0 1 { emptyPipe with desc := pic0 0, closed := [⟨0, [samp 0 .ready], false, true, 0, 0, 0⟩] }
     running s 0 0 = true ∧ (getPipe s 0 0).closed.length = 1 ∧
     (s.reg (rRingEmit 0 0)).toNat < (getPipe s 0 0).freed + pDepth (getPipe s 0 0)) ∧
    (let s := ring0 1 { emptyPipe with desc := pic0 0, eods := [0] }
     running s 0 0 = true ∧ (getPipe s 0 0).eods.head? = some (s.reg (rRingPos 0 0)).toNat ∧ (getPipe s 0 0).members = [] ∧
     findSample (getPipe s 0 0) (s.reg (rRingPos 0 0)).toNat = none) ∧
    (∀ (t : Fin 2) (l : Fin 2) (r : Fin 3),
     let kept := if r = 0 then [put 0x12 0, 0, 0, 0, 3] else [put 0x11 0, 0, 0, put (2 + r) 0, 0]
     let s := { runs (2 * l + 1) { emptyPipe with taken := some ⟨[put 0x80080 0, put 1 0, 0, 3, 0, 0, 0], 0, 0⟩, live := [kept] }
                with ptp := { State.reset.ptp with edges := 1, target := 1000000 * t } }
     let p := getPipe s 0 0
     running s 0 0 = true ∧ pLive p = true ∧ pReplay p = decide (l = 1) ∧ nextDecision p = some kept ∧
     (match takeEntry s 0 0 with
       | some (e, s1) => hbmSpan s1 (pPart p) (frameOf s1 e).addr (max 1 (frameOf s1 e).size) && decide ((frameOf s1 e).sid = 3) &&
          decide (e.pois = 0) && decide (e.words.getD 4 0 = 0 ∧ e.words.getD 5 0 = 0 ∧ e.words.getD 6 0 = 0) &&
          (stale s1 p (frameOf s1 e) == decide (t ≠ 0))
       | none => false) = true) ∧
    (let p := { emptyPipe with desc := pic0 1, members := [(0, [samp 0 .ready])] }
     running (ring0 1 p) 0 0 = true ∧ (smGet [] p.members 0).getLast? = some (samp 0 .ready) ∧ pLive p = true ∧ pReplay p = false ∧
     pFlush p ≠ 0) := by decide +kernel

/-- A site whose streams wait for nothing, one whose die is dead and one whose die is not. -/
theorem test_met_mediaDieFaults :
    mediaOk (ring0 1 emptyPipe) 0 = true ∧ 0 ∉ (ring0 1 emptyPipe).hub.dead ∧
    (∀ (p : Fin 16) (x : Fin 8), ∀ k ∈ [Strm.F, .B, .U], (strmAt (ring0 1 emptyPipe) ⟨p, x, k⟩).wait ≠ .intake 0 0) ∧
    (let s := { ring0 1 emptyPipe with hub := { (ring0 1 emptyPipe).hub with dead := [0] } }
     mediaOk s 0 = true ∧ 0 ∈ s.hub.dead) := by decide +kernel

/-- Link 0 present and enabled with every rate and width in both capability words, in a state of LNK_STAT and with `k`, in a
training under that LNK_CTL. -/
def link0 (st : Nat) (k : Lnk) : State :=
  let s := (((State.reset.setRBit rCap3 0 true).setReg (rLnkLocal 0) 0x1FF).setReg (rLnkPartner 0) 0x1FF).setReg (rLnkCtl 0) 0x7F
  setLnk ((s.setFld (rLnkStat 0) 2 0 st).setFld (rLnkStat 0) 11 10 (if 4 ≤ st then 3 else 0)) 0 (if k.ctl = 0 then { k with ctl := 0x7F } else k)

/-- A flit of type `ty` with the right FCRC. -/
def flit0 (ty seq ack : Nat) : Flit :=
  let f : Flit := ⟨false, BitVec.ofNat 12 seq, BitVec.ofNat 12 ack, 0, 0, [], 0⟩
  { f with fcrc := flitCrc 3 ty f }

/-- The same with its FCRC inverted. -/
def badFlit (ty seq ack : Nat) : Flit := { flit0 ty seq ack with fcrc := ~~~ (flit0 ty seq ack).fcrc }

theorem flit0_ok (s : State) (l ty seq ack : Nat) (h : lnkProto s l = 3) : flitOk s l ty (flit0 ty seq ack) = true := by
  simp [flitOk, h, flit0, flitCrc]

theorem badFlit_bad (s : State) (l ty seq ack : Nat) (h : lnkProto s l = 3) : flitOk s l ty (badFlit ty seq ack) = false := by
  simp only [flitOk, h, badFlit, flit0, flitCrc, decide_eq_false_iff_not]
  intro e
  have := congrArg (fun x => x.getLsbD 0) e
  simp at this

/-- Links that are not enabled, with and without a rate, idle, in the exchange of base pages (before the third page, and at it), a pair of
words without a rate in common, one whose step fails for the first and the third time, and one that then has no rate left. -/
theorem test_met_linksTrain :
    (∀ dead : Bool, let s := (link0 0 { emptyLnk with dead := dead }).setRBit (rLnkCtl 0) 0 false
     s.up = true ∧ lnkEn s 0 = false ∧ lnkPresent s 0 = true ∧ (getLnk s 0).dead = dead) ∧ lnkPresent (State.reset.setRBit rCap3 0 false) 0 = false ∧
    (let s := link0 0 emptyLnk
     s.up = true ∧ lnkEn s 0 = true ∧ lnkPresent s 0 = true ∧ lnkLive s 0 = false ∧ (getLnk s 0).step = 0 ∧ lnkState s 0 ≤ 1) ∧
    (∀ (step n cap : Fin 2) (ack : Bool),
     let w : BitVec 64 := if cap = 0 then 0 else 0x1FF
     let page := w.toNat + 1 * 2 ^ 64 + 2 * 2 ^ 112 + 2 ^ 118
     let s := link0 1 { emptyLnk with step := step + 1, page := page, pages := n + 1 }
     let t := doBasePage 0 w.toNat 1 2 ack 15 s
     s.up = true ∧ lnkEn s 0 = true ∧ lnkPresent s 0 = true ∧ (getLnk s 0).step = step + 1 ∧ (getLnk s 0).page = page ∧
     (getLnk s 0).pages = n + 1 ∧ (getLnk s 0).acked = false ∧ (n = 1 → ack = true → selOk t 0 = decide (cap = 1))) ∧
    (∀ step n : Fin 3, let s := link0 (step + 1) { emptyLnk with step := step + 1, fails := n, rate := 3 }
     tryRate s 0 = 3 ∧ (getLnk s 0).step = step + 1 ∧ lnkState s 0 ≤ 3 ∧
       offered (setLnk s 0 { getLnk s 0 with gone := 4 }) 0 (s.reg (rLnkCtl 0)) ≠ 0) ∧
    (let s := (link0 2 { emptyLnk with step := 2, fails := 2, rate := 3 }).setReg (rLnkLocal 0) 0x1FC
     tryRate s 0 = 3 ∧ (getLnk s 0).step = 2 ∧ offered (setLnk s 0 { getLnk s 0 with gone := 4 }) 0 (s.reg (rLnkCtl 0)) = 0) := by
  decide +kernel

/-- A link that is UP, with the flits of Table 10.3 that reach it, a gap, and one at the last step of training before and after its
own keepalive and the partner's. -/
theorem test_met_flitsPass :
    (let s := link0 4 { emptyLnk with rxSeq := 4095, lanes := 15 }
     lnkState s 0 = 4 ∧ flitOk s 0 2 (flit0 2 0 5) = true ∧ flitOk s 0 0 (flit0 0 0 5) = true ∧ flitOk s 0 1 (flit0 1 0 5) = true ∧
     (flit0 1 0 5).seq.toNat = ((getLnk s 0).rxSeq + 1) % 4096 ∧ (getLnk s 0).rxSeq < 4096 ∧ flitOk s 0 1 (badFlit 1 0 5) = false ∧
     (getLnk s 0).gap = false ∧ ((flit0 1 7 5).seq.toNat + 8192 - (getLnk s 0).rxSeq - 1) % 4096 = 7) ∧
    (∀ o i : Bool, let s := link0 3 { emptyLnk with step := 3, lanes := 15, kaOut := o, kaIn := i }
     pastSwitch s 0 = true ∧ (getLnk s 0).kaOut = o ∧ (getLnk s 0).kaIn = i ∧ (flit0 2 0 0xFFF).ack = 0xFFF ∧
     flitOk s 0 2 (flit0 2 0 0xFFF) = true ∧ widthOk s 0 (widthFor s 0 (laneCount (getLnk s 0).lanes)) = true) :=
  ⟨⟨by decide +kernel, flit0_ok _ _ _ _ _ (by decide +kernel), flit0_ok _ _ _ _ _ (by decide +kernel),
    flit0_ok _ _ _ _ _ (by decide +kernel), by decide +kernel, by decide +kernel, badFlit_bad _ _ _ _ _ (by decide +kernel),
    by decide +kernel, by decide +kernel⟩,
   fun o i => ⟨by cases o <;> cases i <;> decide +kernel, by cases o <;> cases i <;> decide +kernel,
    by cases o <;> cases i <;> decide +kernel, by decide +kernel,
    flit0_ok _ _ _ _ _ (by cases o <;> cases i <;> decide +kernel), by cases o <;> cases i <;> decide +kernel⟩⟩

/-- A link alone, UP and in recovery; four lanes of which one may fail, and two of which none may. -/
theorem test_met_linksFail :
    (∀ st : Nat, st = 4 ∨ st = 5 → let s := link0 st { emptyLnk with lanes := 15 }
      LinkAlone s 0 ∧ flitOk s 0 4 (flit0 4 0 5) = true ∧
      (s.up = true ∧ lnkEn s 0 = true ∧ lnkPresent s 0 = true ∧ lnkLive s 0 = true ∧ lnkState s 0 = st ∧
      (getLnk s 0).miss < 3 ∧ widthOk s 0 (widthFor s 0 (laneCount 14)) = true ∧
      widthOk s 0 (widthFor s 0 (laneCount (getLnk s 0).lanes)) = true)) ∧
    (∀ st : Nat, st = 4 ∨ st = 5 → let s := (link0 st { emptyLnk with lanes := 3, miss := 3, ctl := 0xFF }).setReg (rLnkCtl 0) 0xFF
      collsOver s 0 = [] ∧ allGroups s = [] ∧ lnkLive s 0 = true ∧ lnkState s 0 = st ∧ widthOk s 0 (widthFor s 0 (laneCount 2)) = false ∧
      widthOk s 0 (widthFor s 0 (laneCount (getLnk s 0).lanes)) = false ∧ 3 ≤ (getLnk s 0).miss) := by
  refine ⟨?_, by rintro st (rfl | rfl) <;> decide +kernel⟩
  rintro st (rfl | rfl) <;>
    exact ⟨⟨by decide +kernel, by decide +kernel⟩, flit0_ok _ _ _ _ _ (by decide +kernel), by decide +kernel⟩

/-- Partition 0 with one group of two ranks in which this module is rank `my`, in a state. -/
def grpOf (st my : Nat) : State :=
  { part0.setReg (rGtab 0 0) (put 0x30000 0 ||| put 1 48) with
    mem := smSet 0 (smSet 0 group0 0x30038 (BitVec.ofNat 8 st)) 0x30004 (BitVec.ofNat 8 my), ent := [(0x30, ⟨1, 0, emptyTag⟩)] }

/-- The same as rank 0. -/
def grp0 (st : Nat) : State := grpOf st 0

/-- A header to rank 0 of the group from rank 1. -/
def acc0 (opseq : Nat) : AccHdr := ⟨false, 1, 1, 0, BitVec.ofNat 8 opseq, 1, 0, 0⟩

/-- The group INACTIVE, ACTIVATING, ACTIVE and FAILED, with this module as rank 0 and rank 1, without and with a lap held; a die that does
not lead. -/
theorem test_met_groupsForm :
    leadDie part0 0 ≠ 1 ∧
    (∀ (st : Fin 4) (my : Fin 2), let s := grpOf st my
      leadDie s 0 = 0 ∧ diePresent s 0 = true ∧ 0 < gtabCount s 0 ∧ gValid (grpRec s 0 0) = true ∧ slgOn s 0 = false ∧
      gState (grpRec s 0 0) = st ∧ gMy (grpRec s 0 0) = my ∧ s.acc.colls = [] ∧ s.acc.laps = [] ∧
      (let l := (0, acc0 0, ⟨0x1FF, 0, 2, false, false, 0xFF, 4⟩)
       ({ s with acc := { s.acc with laps := [l] } } : State).acc.laps.find? fun x => decide (x.1 = 0 * 256 + 0)) =
        some (0, acc0 0, ⟨0x1FF, 0, 2, false, false, 0xFF, 4⟩)) := by decide +kernel

/-- Messages to the group in each state, an ABORT of a collective that has completed and one that has not, and a group that is not ours. -/
theorem test_met_membersAnswer :
    (∀ (st : Fin 4) (my : Fin 2), let h := { acc0 0 with dstRank := BitVec.ofNat 12 my }
      groupNamed (grpOf st my) h.gid.toNat h.dstRank.toNat = some (0, 0) ∧ slgOn (grpOf st my) 0 = false ∧
      gState (grpRec (grpOf st my) 0 0) = st ∧ gMy (grpRec (grpOf st my) 0 0) = my) ∧
    groupFor (grp0 1) 1 0 = some (0, 0) ∧ groupFor (grp0 2) 1 0 = some (0, 0) ∧ (grp0 2).acc.colls = [] ∧
    (acc0 255).aux = 0 ∧ (gOpseq (grpRec (grp0 2) 0 0) % 256 + 256 - (acc0 255).opseq.toNat) % 256 = 1 ∧
    (gOpseq (grpRec (grp0 2) 0 0) % 256 + 256 - (acc0 0).opseq.toNat) % 256 = 0 ∧
    groupNamed (grp0 2) 2 0 = none ∧ groupFor (grp0 2) 2 0 = none := by decide +kernel

/-- A group without collectives, one with a REDUCE_SCATTER in flight, whose digest is the collective's and is not, and no group. -/
theorem test_met_collectiveMessages :
    groupFor (grp0 0) (acc0 0).gid.toNat (acc0 0).dstRank.toNat = none ∧ groupFor (grp0 2) (acc0 0).gid.toNat (acc0 0).dstRank.toNat = some (0, 0) ∧
    (∀ ty : Fin 10, collFor (grp0 2) 0 0 ⟨ty, acc0 0, [], none⟩ = none) ∧
    (∀ seen : Bool,
     let w := wd 0xA0 (td4 1 0 24 0) 0 0 0 0
     let f := fly w 0 [] [] []
     let s := flying w f
     let c : Coll := ⟨0, 0, 0, 7, 0xA0, 0, 1, 2, 0, false, 0, 0, 0, false, if seen then [1] else [], [], [], [], [], [], [], []⟩
     let g := grp0 2
     let t := { s with regs := g.regs, mem := g.mem, ent := g.ent, acc := { s.acc with colls := [c] } }
     let d := collDigest c f
     groupFor t 1 0 = some (0, 0) ∧ findFlight (strmAt t (collAt c)) c.iseq = some f ∧
     (∀ ty : Fin 8, collFor t 0 0 ⟨ty, acc0 0, [], none⟩ = if seen then some c else none) ∧
     collFor t 0 0 ⟨9, acc0 0, [], none⟩ = (if seen then some c else none) ∧
     (∀ e : Bool, collFor t 0 0 ⟨8, acc0 0, [], some (if e then d else { d with op := 0xA1 })⟩ = if seen then none else some c)) := by
  decide +kernel

/-- A fingerprint alone, one whose pair is held and is equal or not, one that differs and awaits BLKX, with block CRCs to come and with
all there, and our last comparison. -/
theorem test_met_fingerprintMessages :
    groupFor (grp0 2) (acc0 0).gid.toNat (acc0 0).dstRank.toNat = some (0, 0) ∧ groupFor (grp0 0) 1 0 = none ∧
    (let x : FpRec := ⟨0, false, 1, 3, 4, 5, []⟩
     let y : FpRec := ⟨0, true, 1, 3, 4, 5, [7, 8]⟩
     let st := fun l w m => { grp0 2 with acc := { (grp0 2).acc with held := l, wrong := w, last := m } }
     let mine := fun (y : FpRec) => decide (y.part = 0) && decide (y.tid = 3) && decide (y.gstep % 2 ^ 32 = 4 % 2 ^ 32)
     (st [] [] []).acc.held.find? (fpSame x) = none ∧ (st [y] [] []).acc.held.find? (fpSame x) = some y ∧ y.fp = 5 ∧
     ({ x with fp := 6 } : FpRec).fp ≠ y.fp ∧ (st [{ x with fp := 6, own := true }] [] []).acc.held.find? (fpSame { x with fp := 6 }) ≠ none ∧
     ((st [] [] [y]).acc.wrong.find? fun z => mine z.1 && decide (z.1.rank = (acc0 0).srcRank.toNat)) = none ∧
     (st [] [] [y]).acc.last.find? mine = some y ∧
     ((st [] [(y, [])] []).acc.wrong.find? fun z => mine z.1 && decide (z.1.rank = (acc0 0).srcRank.toNat)) = some (y, []) ∧
     (([] : List (BitVec 32)) ++ [7]).length < y.crcs.length ∧ y.crcs.length ≤ (([] : List (BitVec 32)) ++ [7, 9]).length ∧
     (acc0 0).offset = 0 ∧ (grp0 2).rbit (rFpmisRanks (leadDie (grp0 2) 0)) 63 = false) := by decide +kernel

/-- A module in service whose edge is up, with a redundant lane and with none, with few and with many replays, and one that retrains. -/
theorem test_met_bridgeModules :
    let st := fun (l : SMap Nat) (r : SMap (List Nat)) => { State.reset with fabr := { State.reset.fabr with lanes := l, replays := r } }
    (∀ n : Fin 2, let s := st [(0, 4 * n)] [(0, List.replicate (16 * n) 0)]
      modLive s 0 0 = true ∧ smGet 0 s.fabr.lanes (0 * 8 + 0) = 4 * n ∧ (replayTimes s 0).length = 16 * n + 1) ∧
    (let s := st [] [(0, List.replicate 16 0)]
     modLive s 0 0 = true ∧ smGet 0 s.fabr.lanes (0 * 8 + 0) < 4 ∧ 16 < (replayTimes s 0).length) ∧
    modState { State.reset with fabr := { State.reset.fabr with mods := [(7, 1)] } } 0 7 = 1 := by decide +kernel

/-- A verifying read of one block in storage without POISONED lines whose image matches, with no way assigned as cache. -/
theorem readsClean_of_block (s : State) (as : List Nat) (blk : Nat) (r : Reader) (hc : cachesUsed s = false) (hb : blocksOf as = [blk])
    (ha : addrNack s (blk * 4096) = 0) (hl : (as.any fun a => decide (lstAt s a = 2)) = false)
    (hi : imageCrc s (blk * 4096) = (entryOf s (blk * 4096)).crc) : ReadsClean s as r := by
  have h : ∀ a, a ∈ as → lstAt s a ≠ 2 := by simpa using hl
  have no : ¬ ∃ x ∈ as, x / 4096 = blk ∧ lstAt s x = 2 := fun ⟨x, hx, _, e⟩ => h x hx e
  simp [ReadsClean, cacheUse, hc, verifyRead, verifyBlock, hb, ha, hi, no]

/-- Site 8 holds a guest with window 0 over 0x40000 to 0x4FFFF, for partition 0, reads and writes. -/
def guest0 : State :=
  let s := (State.reset.setFld (rFwCtl 0) 9 0 (1 + 4 * 5)).setReg (rFwBase 0 0) (put 0x40000 0 ||| put 1 63)
  s.setReg (rFwSize 0 0) (put 16 0 ||| put 3 37)

/-- A guest's read, its writes, a read outside its window, and a message on another VC. -/
theorem test_met_guestAccesses :
    (guest0.up = true ∧ guestIn guest0 0 = true ∧ fenced guest0 0 = false ∧ winHost guest0 0 0 = false ∧
     (getSite guest0 0).waits = [] ∧ (getSite guest0 0).outs = [] ∧ 0 < max 1 (guest0.fld (rFwRate 0) 42 32) ∧
     (getSite guest0 0).rdUse + 64 ≤ bucketSize guest0 0 ∧ (getSite guest0 0).wrUse + 64 ≤ bucketSize guest0 0) ∧
    (∀ ty : Fin 3, winFor guest0 0 ⟨ty + 1, hdr0 0 0x40000, 0, 0⟩ = .inr 0 ∧
      guestCost ⟨ty + 1, hdr0 0 0x40000, 0, 0⟩ ≤ 64) ∧
    (∀ c, ReadsClean { guest0 with fabr := { guest0.fabr with sites := c } } (span 0x40000 64) ⟨⟨0, 0, 3, 3⟩, some (winPart guest0 0 0), 0xFFFFFFFF, 0⟩) ∧
    (hdr0 0 0x40000).vc = 0 ∧ (hdr0 1 0x40000).vc.toNat ≠ typeVc 1 ∧
    winFor guest0 0 ⟨1, hdr0 0 0x50000, 0, 0⟩ = .inl 1 ∧ guest0.fld (rFwCtl 0) 17 10 + 1 < max 1 (guest0.fld (rFwCtl 0) 9 2) := by
  have hl : ((span 0x40000 64).any fun a => decide (lstAt guest0 a = 2)) = false := by decide +kernel
  have hc : cachesUsed guest0 = false := by decide +kernel
  have ha : addrNack guest0 (0x40 * 4096) = 0 := by decide +kernel
  have hi : imageCrc guest0 (0x40 * 4096) = (entryOf guest0 (0x40 * 4096)).crc := by decide +kernel
  exact ⟨by decide +kernel, by decide +kernel, fun c => readsClean_of_block _ _ 0x40 _ hc (by decide +kernel) ha hl hi, by decide +kernel,
    by decide +kernel, by decide +kernel, by decide +kernel⟩

/-- A valid window and one that is not. -/
theorem test_met_guestUpkeep :
    guest0.up = true ∧ guestIn guest0 0 = true ∧ (getSite guest0 0).waits = [] ∧ winValid guest0 0 0 = true ∧ winValid guest0 0 1 = false := by
  decide +kernel

/-- Port `n` of the host link UP, both enabled. -/
def port0 (s : State) (n : Nat) : State := (s.setFld rShlCtl 3 0 15).setFld (rShlStat n) 2 0 2

/-- Port 1 UP while port 0 trains, port 0 UP alone, both, and none; a valid host window and one that is not. -/
theorem test_met_hostPorts :
    (let s := port0 State.reset 1
     s.up = true ∧ s.hub.hreqs = [] ∧ portUp s 0 = false ∧ portUp s 1 = true ∧ s.rbit rShlCtl 0 = true ∧ s.rbit rShlCtl 3 = true ∧
     s.rbit rShlCtl 2 = true ∧ portUp (port0 s 0) 0 = true ∧ portUp (port0 s 0) 1 = true) ∧
    (∀ k : Fin 2, portUp State.reset k = false) ∧ State.reset.rbit (rHwinBase 0) 63 = false ∧
    (State.reset.setRBit (rHwinBase 0) 63 true).rbit (rHwinBase 0) 63 = true := by decide +kernel

/-- A header of the host on port 0. -/
def shl0 (ch tag addr : Nat) : ShlHdr := ⟨0, BitVec.ofNat 2 ch, BitVec.ofNat 12 tag, BitVec.ofNat 48 addr⟩

/-- A read and a write-back that await their answers, a line that the host snoops, and a die read that waits for a line. -/
theorem test_met_hostCache :
    let st := fun rs ls => let s := port0 State.reset 0; { s with hub := { s.hub with hreqs := rs, hlines := ls } }
    let rd : HostReq := ⟨0, 5, 0x11, 0x40, []⟩
    let wb : HostReq := ⟨0, 6, 0x13, 0x41, []⟩
    let ln : HostLine := ⟨0x42, .modified, leBytes 64 1, false⟩
    let s := st [rd, wb] [ln]
    (s.up = true ∧ portUp s (shl0 1 5 0).port = true ∧ (shl0 1 5 0).ch = 1 ∧ (shl0 2 5 0).ch ≠ 1 ∧
     (s.hub.hreqs.find? fun r => decide (r.port = 0 ∧ r.tag = 5 ∧ (r.ty = 0x11 ∨ r.ty = 0x12))) = some rd ∧ s.fabr.hostq = [] ∧
     (∀ k : Fin 2, (getSite s k).outs = []) ∧ s.hub.hwrites = [] ∧ watched s 0x40 = false ∧ findLine s 0x40 = none ∧ victim s 0x40 = none ∧
     (s.hub.hreqs.find? fun r => decide (r.port = 0 ∧ r.tag = 6 ∧ (r.ty = 0x13 ∨ r.ty = 0x14))) = some wb) ∧
    ((shl0 2 7 0x1080).ch = 2 ∧ (shl0 2 7 0x1080).addr.toNat / 64 = 0x42 ∧ findLine s 0x42 = some ln ∧ ln.st = .modified ∧
     watched s 0x42 = false ∧ findLine s 0x43 = none) ∧
    (let q : DieReq := ⟨1, hdr0 0 (0x800000000000 + 0x1000), ⟨0, 0, 0, 0⟩, none, false, false⟩
     let t := { s with fabr := { s.fabr with hostq := [q] } }
     (t.hub.hreqs.find? fun r => decide (r.tag = 5 ∧ (r.ty = 0x11 ∨ r.ty = 0x12))) = some rd ∧ (∀ k : Fin 2, (getSite t k).outs = []) ∧
     t.hub.hwrites = [] ∧ t.fabr.hostq = [q] ∧ (q.h.addr.toNat - hostAperture) / 64 = 0x40 ∧ longRunning t 3 = none ∧ t.up = true) := by
  decide +kernel

/-- Memory that the host may read and write, and an address that it may not. -/
theorem test_met_hostMemoryAccesses :
    let s := port0 State.reset 0
    ReadsClean s (span 0x40000 64) hostReader ∧
    s.up = true ∧ portUp s 0 = true ∧ (shl0 0 5 0x40000).ch = 0 ∧ isReg 0x40000 = false ∧ memReason s 0x40000 = 0 ∧
    (∀ p : Fin 16, slgOn s p = false) ∧ isReg 0x900000000 = false ∧ memReason s 0xF00000000 ≠ 0 ∧ isReg 0xF00000000 = false :=
  ⟨by unfold ReadsClean; decide +kernel, by decide +kernel⟩

/-- Register 0x120 of die 0, a one-byte write of it, PERIOD_H, PWR_ register 0x88, and a read of 0x120. -/
theorem test_met_registerAccesses :
    let s := port0 State.reset 0
    let a := dieR 0 0x120
    ((regSpec (dieR 0 0x110)).map fun r => r.width) = some 32 ∧ regReason s (dieR 0 0x110) 4 true = 0 ∧
    ((regSpec a).map fun r => r.width) = some 64 ∧ regReason s a 8 true = 0 ∧ s.up = true ∧ anyPortUp s = true ∧
    regReason s a 1 true ≠ 0 ∧ ((regSpec (pwrR 0x88)).map fun r => r.width) = some 64 ∧ (BitVec.ofNat 48 (pwrR 0x88)).toNat = pwrR 0x88 ∧
    s.mod.phase ≠ .off ∧ (shl0 0 5 a).addr = BitVec.ofNat 48 a ∧ (BitVec.ofNat 48 a).toNat = a ∧ a % 8 = 0 ∧ isReg a = true ∧
    (shl0 0 5 a).ch = 0 ∧ portUp s 0 = true ∧ regReason s a 8 false = 0 := by decide +kernel

/-- A job of record `i` with the given words. -/
def job0 (i : Nat) (ws : List Word) (st : JobSt := .queued) (checked : Bool := false) (progress : Nat := 0) : Job :=
  ⟨i, ws ++ List.replicate (16 - ws.length) 0, st, progress, checked, false, false⟩

/-- Jobs in the engine's list. -/
def jobs0 (s : State) (js : List Job) : State := { s with hub := { s.hub with jobs := js } }

/-- Word 0 of a record: TYPE, PARTITION, CONTEXT, PRIO, SUBMIT_SEQ 1. -/
def jw0 (ty p x prio : Nat) : Word := put ty 0 ||| put p 4 ||| put x 8 ||| put prio 12 ||| put 1 32

/-- The words of a STEP of context 1 with one window of 4 instructions. -/
def step1 (prio : Nat) : List Word := [jw0 1 0 1 prio, put 0x2000 0, put 0x40000 0, 0, 0, put 4 0]

/-- A job table of 2 records at host address 0x1000, whose lines and status lines the hub holds: record 0 of TYPE `ty` is pending. -/
def table0 (ty : Nat) : State :=
  let s := (port0 State.reset 0).setFld rJobtabBase 46 12 1
  let t := s.setReg rJobtabCtl (put 2 0 ||| put 1 13)
  let l := fun n b => (⟨n, .exclusive, b, false⟩ : HostLine)
  { t with hub := { t.hub with hlines := [l 0x40 (leBytes 8 (jw0 ty 0 0 0).toNat ++ leBytes 56 0x2000), l 0x41 (leBytes 64 0), l 0x80 (leBytes 64 0)] } }

/-- A pending STEP, a pending record of an unknown TYPE and one with a bad word; a STEP that waits behind a running one and one that
fails; an ABORT of a running STEP, of a waiting one, of none, and one with a wrong field. -/
theorem test_met_jobsTaken :
    (∀ ty : Nat, ty = 1 ∨ ty = 2 ∨ ty = 4 → let s := table0 ty
      jobtabEn s = true ∧ 0 < jobtabCount s ∧ intakePaused s = false ∧
      (match readRecord s 0 with
        | some (ws, st) => recPending s 0 ws st && decide (jType ⟨0, ws, .queued, 0, false, false, false⟩ = ty)
        | none => false) = true ∧ stepQueueFull s 0 0 = false ∧ partState s 0 ≠ 3 ∧
      (getQueue s (qStep 0 0)).mrd ≤ (getQueue s (qStep 0 0)).mwr ∧ jobTypes.contains ty = decide (ty ≠ 4)) ∧
    (∀ k : Fin 3, ((recLine (table0 2) 0 k).map fun l => (findLine (table0 2) l).isSome) = some true) ∧
    (let j := job0 0 (step1 0)
     let k := job0 1 [jw0 1 0 0 0] .running true
     let s := setPart (jobs0 part0 [j, k]) 0 { emptyPart with sched := some 0 }
     unchecked s 0 1 = some j ∧ (stepCheck s j).2 = 0 ∧ slgOn s 0 = false ∧ (getPart (stepCheck s j).1 0).sched = some 0 ∧
     allWait (getCtx (stepCheck s j).1 0 0) = false ∧
     (runnablePrio (setJob (stepCheck s j).1 { j with checked := true }) (jPart j) (jCtx j)).getD 0 ≤
       (runnablePrio (setJob (stepCheck s j).1 { j with checked := true }) (jPart j) 0).getD 0 ∧
     (runnablePrio (setJob (stepCheck s j).1 { j with checked := true }) (jPart j) 0).isSome = true) ∧
    (let j := job0 0 ((step1 0).set 2 1)
     let s := jobs0 part0 [j]
     unchecked s 0 1 = some j ∧ (stepCheck s j).2 ≠ 0 ∧ slgOn s 0 = false ∧ j.replay = false ∧ findLine s (jStatus j / 64) = none ∧
     s.hub.hwrites = []) ∧
    (∀ (w : Fin 2) (r : Fin 3),
     let j := job0 0 [jw0 15 0 1 0, put 0x2000 0, put w 0]
     let k := job0 1 (step1 0) (if r = 1 then .running else .queued) true
     let s := jobs0 part0 (if r = 0 then [j] else [j, k])
     unchecked s 0 15 = some j ∧ headOk j false = true ∧ ((∀ k, k < 14 → jw j (2 + k) = 0) ↔ w = 0) ∧
     runningStep s 0 1 = (if r = 1 then some k else none) ∧
     (s.hub.jobs.find? fun k => decide (jType k = 1) && decide (jPart k = 0) && decide (jCtx k = 1)) = if r = 0 then none else some k) := by
  refine ⟨?_, by decide +kernel, by decide +kernel, by decide +kernel, by decide +kernel⟩
  rintro ty (rfl | rfl | rfl) <;> decide +kernel

/-- A STEP in the step queue of context 1, and what else is queued. -/
def queued0 (j : Job) (js : List Job) (x : Part) : State :=
  setQueue (setPart (jobs0 part0 (j :: js)) 0 x) (qStep 0 1) { freshQueue 2 0x110000 1024 1 with head := [⟨stepWords j, 0, 0⟩], seq := 1 }

/-- A STEP that starts; a quantum that ends before a context of higher priority or of none, a pre-emption whose tiles have drained
for a context that was saved, for one that was not and for the one that runs, and a scan. -/
theorem test_met_stepsScheduled :
    (let j := job0 0 (step1 0) .queued true
     let s := queued0 j [] { emptyPart with sched := some 1 }
     runningStep s 0 1 = none ∧ queuedStep s 0 1 = some j ∧ (getPart s 0).sched = some 1 ∧ (getPart s 0).draining = false ∧
     partState s 0 = 2 ∧ slgHolding s 0 = false ∧ (getCtx s 0 1).started = false ∧ initBase j = 0 ∧ descCount j = 0 ∧ (pwin j 0).2 ≠ 0 ∧
     slgOn s 0 = false ∧ jServe j = false ∧ s.hub.rep = none ∧ j.replay = false) ∧
    (∀ (prio : Fin 2) (saved d : Bool),
     let j := job0 0 (step1 prio) .queued true
     let k := job0 1 [jw0 1 0 0 0] .running true
     let s := modCtx (queued0 j [k] { emptyPart with sched := some 0, draining := d, last := some 0 }) 0 1 fun c => { c with saved := saved }
     (getPart s 0).sched = some 0 ∧ (getPart s 0).draining = d ∧ partState s 0 = 2 ∧ (getCtx s 0 1).saved = saved ∧
     ((getCtx s 0 1).strm .F).st ≠ .faulted ∧ pickCtx s 0 = some 1) ∧
    (let k := job0 1 [jw0 1 0 0 0] .running true
     pickCtx (setPart (jobs0 part0 [k]) 0 { emptyPart with sched := some 0, draining := true }) 0 = some 0) ∧
    jobtabEn (table0 2) = true ∧ intakePaused (table0 2) = false := by decide +kernel

/-- One record of each long operation in the phase that each clause names. -/
theorem test_met_longOperations :
    (let j := job0 0 [jw0 2 0 0 0, put 0x2000 0, 1]
     let s := jobs0 State.reset [j]
     unchecked s 0 2 = some j ∧ longHead j false = true ∧ bits (jw j 2) 63 32 = 0 ∧ zeroFrom j 3 = true) ∧
    (let j := job0 0 [jw0 6 0 0 0, put 0x2000 0, put 0x100000 0, 2]
     let s := jobs0 part0 [j]
     unchecked s 0 6 = some j ∧ longHead j true = true ∧ bits (jw j 2) 63 48 = 0 ∧ sBase j % 4096 = 0 ∧ bits (jw j 3) 63 32 = 0 ∧
     zeroFrom j 4 = true ∧ partState s (jPart j) = 2 ∧ hbmSpan s (jPart j) (sBase j) (sMib j * 0x100000) = true) ∧
    (let j := job0 0 [jw0 7 0 0 0, put 0x2000 0, put 0x3000 0, 1]
     let s := jobs0 State.reset [j]
     unchecked s 0 7 = some j ∧ (∀ k, k ∈ s.hub.jobs → jType k = 7 → k.checked = false ∧ k.st = .queued) ∧ longHead j false = true ∧
     bits (jw j 2) 63 47 = 0 ∧ bits (jw j 3) 63 32 = 0 ∧ zeroFrom j 4 = true ∧ bits (jw j 3) 31 0 = ([0] : List Byte).length) ∧
    (let j := job0 0 [jw0 5 0 0 0, put 0x2000 0, put 0x40000 0, 0, 1, 1]
     let s := jobs0 part0 [j]
     unchecked s 0 5 = some j ∧ longHead j true = true ∧ (jw j 2).toNat < 2 ^ 48 ∧ (jw j 2).toNat % 64 = 0 ∧ bits (jw j 3) 63 32 = 0 ∧
     rFrom j ≤ rTo j ∧ jw j 6 = 0 ∧ bits (jw j 7) 63 32 = 0 ∧ bits (jw j 8) 63 9 = 0 ∧ zeroFrom j 9 = true ∧ partState s (jPart j) = 2 ∧
     arrayOk s (jw j 2).toNat (jw j 3).toNat = true) := by decide +kernel

/-- Long operations that wait, that are in progress and that are at their end. -/
theorem test_met_longOperations_units :
    (∀ op ∈ [LongOp.bist, .scrub, .flash, .exportOp], let j := job0 0 [jw0 (longType op) 0 0 0, put 0x2000 0, put 0x100000 0, 2] .queued true
     let s := jobs0 State.reset [j]
     longRunning s (longType op) = none ∧ longQueued s (longType op) = some j ∧ (op = .bist → bistFree s j = true) ∧ d2Open s = false) ∧
    (let j := fun n => job0 0 [jw0 6 0 0 0, put 0x2000 0, put 0x100000 0, 2] .running true n
     longRunning (jobs0 part0 [j 0]) 6 = some (j 0) ∧ (j 0).progress + 1 ≤ sMib (j 0) ∧ longUnits (jobs0 part0 [j 0]) (j 0) = 2 ∧
     (longWork (jobs0 part0 [j 0]) (j 0) 0).2 = 0 ∧ longRunning (jobs0 part0 [j 2]) 6 = some (j 2) ∧ (j 2).progress = sMib (j 2)) ∧
    (let j := fun n => job0 0 [jw0 2 0 0 0, put 0x2000 0, 2] .running true n
     longRunning (jobs0 State.reset [j 0]) 2 = some (j 0) ∧ (bistMask (j 0))[(j 0).progress]? = some 1 ∧
     longRunning (jobs0 State.reset [j 1]) 2 = some (j 1) ∧ (j 1).progress = (bistMask (j 1)).length) ∧
    (let j := job0 0 [jw0 3 0 0 0, put 0x2000 0] .running true
     longRunning (jobs0 part0 [j]) 3 = some j) ∧
    (let j := job0 0 [jw0 7 0 0 0, put 0x2000 0] .running true 1
     longRunning (jobs0 State.reset [j]) 7 = some j ∧ j.progress = objKib State.reset.hub.obj) := by decide +kernel

/-- An EXPORT of one BF16 tensor to a host window. -/
theorem test_met_longOperations_export :
    let j := job0 0 [jw0 3 0 0 0, put 0x2000 0, put 0x10000 0, 1, put 0x100000 0, put 0x100000 0]
    let p := (((part0.setReg (rHwinBase 0) (put 0x100000 0 ||| put 1 63)).setReg (rHwinCtl 0) (put 256 0 ||| put 0x10001 32 ||| put 3 48)).setReg
      (rPgBase 0) 0x200000)
    let d := dsc 1 [16] 0x40000
    let s := jobs0 (writeBytes p 0x10000 (leBytes 64 d.toNat) none) [j]
    unchecked s 0 3 = some j ∧ (exportCheck s j).2 = 0 := by decide +kernel

/-- Values of HUB_JOBTAB_CTL and HUB_EVT_CTL before and after their enables. -/
theorem test_met_tableAndRing :
    (let s := State.reset
     s.up = true ∧ hubRestarting s = false ∧ bits (2 : BitVec 32) 12 0 = 2 ∧ jobtabEn s = false ∧ bits (0 : BitVec 32) 12 0 = 0 ∧
     s.rbit rEvtCtl 5 = false ∧ bits (0x26 : BitVec 32) 4 0 = 6 ∧ s.hub.held = [] ∧ s.fld rEvtStat 63 41 = 0) ∧
    (let s := State.reset.setReg rEvtCtl 0x26
     s.rbit rEvtCtl 5 = true ∧ bits (0x27 : BitVec 32) 4 0 ≠ s.fld rEvtCtl 4 0) := by decide +kernel

/-- A replay before a record of TYPE 8, of TYPE 1, and of TYPEs 5 and 6. -/
theorem test_met_replaySteps :
    let q : Replay := ⟨0, 0, 0x40000, 0, 0, 2, 1, 1, 0, 0, 0, false, [], false⟩
    let st := fun (t u : BitVec 8) => { part0 with
      hub := { part0.hub with rep := some q }, mem := [(0x40000, t), (0x40040, u)], ent := [(0x40, ⟨5, 0, emptyTag⟩)] }
    (q.next < q.stop ∧ recTy (arrayRec (st 8 1) q.src 0) = 8) ∧
    (let s := st 1 1
     recTy (arrayRec s q.src 0) = 1 ∧ replayJobs s q.part = [] ∧ findJob s q.idx = none ∧ s.up = true ∧
     ledBy s (leadCluster s q.part) = some q.part) ∧
    (let s := st 5 6
     recTy (arrayRec s q.src 0) = 5 ∧ q.next + 1 < q.stop ∧ recTy (arrayRec s q.src 1) = 6 ∧ replayJobs s q.part = []) := by decide +kernel

/-- Partition 0 in each state, one that another holds the cluster of, and an enable with its cluster and range free. -/
theorem test_met_partitionsRun :
    (let s := part0.setFld (rPartCtl 0) 3 2 0
     s.up = true ∧ partState s 0 = 0 ∧ enableCause s 0 = 0 ∧ enableCause (s.setReg (rPartClu 0) 0) 0 ≠ 0) ∧
    (let s := part0.setFld (rPartCtl 0) 3 2 1
     partState s 0 = 1 ∧ scrubbing s = false ∧ s.hub.jobs = [] ∧ gtabCount s 0 = 0 ∧ (∀ (e : Fin 2) (k : Fin 16), running s e k = false) ∧
     (∀ m : Fin 2, guestIn s m = false) ∧ rstClosed s .host = false ∧ s.mod.prst = []) ∧
    (let s := part0.setFld (rPartCtl 0) 3 2 3
     partState s 0 = 3 ∧ jobsOf s 0 = [] ∧ s.hub.rep = none ∧ s.mod.prst = []) ∧
    ledBy part0 0 = some 0 ∧ ledBy part0 1 = none ∧ slgOn part0 0 = false ∧ bit (0x11 : BitVec 32) 0 = true ∧
    (let s := setPart (part0.setFld (rSlgCtl 0) 12 0 0x11) 0 { emptyPart with sched := some 0 }
     slgOn s 0 = true ∧ s.fld (rSlgCtl 0) 12 3 ≠ bits (0x19 : BitVec 32) 12 3 ∧ (getPart s 0).sched ≠ none ∧ (getPart s 0).slgLost = 0) := by
  decide +kernel

/-- A request of 1,152 bytes whose payload has the CODE given. -/
def request0 (code : Nat) : State :=
  (State.reset.setReg (secR 0x1008) (put 128 32)).setReg (secR 0x1400) (put code 32)

/-- A state with sessions of the level, port and DURATION given. -/
def sess0 (level port dur : Nat) (s : State) : State := { s with sec := { s.sec with sess := some ⟨level, port, 0, [], dur, false, false⟩ } }

/-- The mailbox busy and free, a nonce, the lifecycle codes, requests and tokens by level, an open session, a scrub, recovery, a D2
session. -/
theorem test_met_mailboxCommands :
    State.reset.up = true ∧ (State.reset.setRBit rMbxCtl 19 true).rbit rMbxCtl 19 = true ∧ State.reset.rbit rMbxCtl 19 = false ∧
    ({ State.reset with sec := { State.reset.sec with nonce := some [1] } } : State).sec.nonce ≠ none ∧
    (∀ c : Fin 4, payF (reqBytes (request0 c) 1152) 4 1 = c) ∧
    (let s := { State.reset with sec := { State.reset.sec with fuses := { State.reset.sec.fuses with life := 1 } } }
     levelOk s.sec.fuses.life 1 false (s.rbit rSecState 10) = true ∧ entryStatus s 1 false = 0 ∧ entryScrubs s.sec.fuses.life 1 false = false ∧
     scrubbing s = false ∧ levelOk s.sec.fuses.life 2 false (s.rbit rSecState 10) = false) ∧
    (levelOk 0 2 false false = true ∧ entryScrubs 0 2 false = false ∧ longRunning State.reset 7 = none) ∧
    (let s := sess0 2 (portNo .jtag) 5 State.reset
     s.sec.sess.map (·.port) = some (portNo .jtag) ∧ portNo .jtag ≠ portNo .mailbox ∧ s.sec.sess.map (·.dur) = some 5 ∧
     (s.sec.sess.any fun x => decide (2 ≤ x.level)) = true) ∧
    (scrubbing (State.reset.setRBit rSecState 7 true) = true ∧ State.reset.sec.next = none) ∧
    (let r := { port0 State.reset 0 with mod := { State.reset.mod with phase := .recovery } }
     r.mod.phase = .recovery ∧ anyPortUp r = true ∧ r.rbit rRcvCtl 1 = false) ∧ State.reset.sec.sess = none := by decide +kernel

/-- Both transports in every connection state; the identity key present and gone. -/
theorem test_met_spdmAnswers :
    let st := fun n => { State.reset with mgmt := { State.reset.mgmt with eid := 9 }, sec := { State.reset.sec with spdm := [(0, n), (1, n)] } }
    (∀ n ∈ [1, 2, 3], (st n).up = true ∧ (st n).mgmt.eid ≠ 0 ∧ (st n).rbit rMbxCtl 19 = false ∧
      spdmSt (st n) .mctp = n ∧ spdmSt (st n) .mailbox = n) ∧
    (st 3).sec.fuses.kill = false ∧ ((st 3).setRBit rSecState 9 true).rbit rSecState 9 = true := by decide +kernel

/-- The certificate chain has a first byte. -/
theorem test_met_spdmAnswers_chain : 0 < certChain.length := by simp [certChain, leBytes]

/-- A module that is powered, with a session, with and without dynamic addresses and an endpoint ID. -/
theorem test_met_tapAndManagement :
    State.reset.mod.phase ≠ .off ∧ (sess0 3 1 0 State.reset).sec.sess ≠ none ∧ (sess0 3 1 0 State.reset).up = true ∧
    bits (0 : Word) 1 0 = 0 ∧ (∀ t ∈ [I3cTarget.mctp, .reg0, .reg1], dynOf State.reset t = 0 ∧ dynOf (setDyn State.reset t 9) t ≠ 0) ∧
    State.reset.mgmt.eid = 0 ∧ ({ State.reset with mgmt := { State.reset.mgmt with eid := 9 } } : State).mgmt.eid ≠ 0 := by decide +kernel

/-- The phases, latches, readings and enables that the clauses on power name. -/
theorem test_met_powerSequences :
    let ph := fun p l => { State.reset with mod := { State.reset.mod with phase := p, latch := l } }
    ((ph .off 0).mod.phase = .off ∧ (ph .off 5).mod.phase = .off ∧ 5 ≤ (ph .off 5).mod.latch ∧ (ph .reset 0).mod.phase = .reset ∧
      1 ≤ (ph .off 4).mod.latch ∧ (ph .off 4).mod.latch ≤ 4 ∧ State.reset.mod.phase ≠ .off) ∧
    (atPoint 0 (warnPoint 0) = false ∧ ((tripPoint 0).any fun p => atPoint 2000 p) = true) ∧
    (let s := State.reset.setRBit rPtpCtl 0 true
     s.rbit rPtpCtl 0 = true ∧ ({ s with ptp := { s.ptp with first := true } } : State).ptp.first = true ∧
     ({ s with ptp := { s.ptp with first := false } } : State).clk - s.ptp.at_ < 22500000 ∧
     ({ s with ptp := { s.ptp with edges := 1 } } : State).ptp.edges ≠ 0) ∧
    (State.reset.rbit rPtpCtl 0 = false ∧ bit (1 : BitVec 32) 0 = true ∧ State.reset.rbit rTrip 11 = false ∧
      (State.reset.setRBit rTrip 11 true).rbit rTrip 11 = true) ∧
    (State.reset.up = true ∧ scrubbing State.reset = false ∧ hubRestarting State.reset = false ∧ State.reset.mod.hubAt = [] ∧
      State.reset.rbit rRstCtl 11 = false ∧ ddRefuse State.reset = 0 ∧ ddRefuse part0 ≠ 0 ∧ cntValid 0x5000 = true ∧
      cntValid ((State.reset.setReg rCntSel 0x5000).fld rCntSel 15 0) = true ∧ (State.reset.setRBit (rThrSel 0) 21 true).rbit (rThrSel 0) 21 = true) ∧
    ((ph .drydown 0).mod.phase = .drydown ∧ (ph .drydown 0).rbit rDdCtl 9 = true) := by decide +kernel

/-- A hub restart with every die as it was. -/
theorem test_met_powerSequences_hub :
    (∀ d : Fin 8, diePresent State.reset d = true →
      (((List.range 8).map fun d => (some (BitVec.ofNat 8 d) : Option (BitVec 8))).getD d none).map (fun v => bits v 3 0) = some d.val) := by
  decide +kernel

/-- A cluster in service with its spare free, one under reset, a partition whose sequencers disagree, a die without collectives. -/
theorem test_met_faultsContained :
    (let s := State.reset
     s.up = true ∧ s.rbit rCluState 0 = true ∧ s.mod.crst.contains 0 = false ∧ partOf s 0 = none ∧ spareFree s 0 = true ∧
     rstClosed s .host = false ∧ s.mod.slow.contains 0 = false ∧ rstClosed (s.setRBit rRstCtl 11 true) .host = true ∧
     diePresent s 0 = true ∧ s.acc.colls = [] ∧ s.rbit rRasCtl 0 = true ∧ (s.setRBit rRasCtl 0 false).rbit rRasCtl 0 = false) ∧
    (let s := { State.reset with mod := { State.reset.mod with crst := [0] } }
     s.mod.crst.contains 0 = true ∧ s.fabr.gone.contains 0 = false ∧ s.mod.again = [] ∧ partOf s 0 = none) ∧
    (let s := setPart part0 0 { emptyPart with sched := some 0 }
     (getPart s 0).sched = some 0 ∧ partState s 0 = 2 ∧ s.mod.prst.contains 0 = false ∧ gtabCount s 0 = 0 ∧
     (∀ (e : Fin 2) (n : Fin 16), running s e n = false) ∧ ∀ m : Fin 2, guestIn s m = false) := by decide +kernel

/-- The state after reset, from which a step is taken. -/
theorem test_met_stepKeepsMemory :
    Memory.wf State.reset = true ∧ step State.reset = .next { State.reset with clk := State.reset.clk + 1, fab := State.reset.fab + 40 } :=
  ⟨by decide +kernel, rfl⟩

/-! ### Commands that are not well formed, one for each check -/

/-- The rows of Table 3.5 with one opcode each. -/
def opRows : List (Nat × (StreamId → InstrWord → Instr)) :=
  [(0x00, Instr.nop), (0x01, Instr.li), (0x02, Instr.add), (0x03, Instr.addi), (0x04, Instr.sub), (0x05, Instr.mul), (0x06, Instr.logic), (0x07, Instr.rdspr)] ++
  [(0x08, Instr.shift), (0x09, Instr.br), (0x0A, Instr.loop), (0x0B, Instr.lds), (0x0C, Instr.sts), (0x0D, Instr.dld), (0x0E, Instr.dset), (0x0F, Instr.endStream)] ++
  [(0x10, Instr.bcset), (0x11, Instr.bcinc), (0x12, Instr.bcwait), (0x13, Instr.fence), (0x14, Instr.gfence), (0x15, Instr.iflush), (0x16, Instr.event), (0x20, Instr.copy)] ++
  [(0x21, Instr.copyt), (0x22, Instr.fill), (0x23, Instr.gather), (0x24, Instr.scatter), (0x25, Instr.prefetch), (0x30, Instr.mm), (0x31, Instr.mmacc), (0x32, Instr.mmrs)] ++
  [(0x33, Instr.mmag), (0x40, Instr.conv), (0x41, Instr.convg), (0x42, Instr.convbd), (0x43, Instr.convbw), (0x44, Instr.pool), (0x50, Instr.vbin), (0x51, Instr.vfma)] ++
  [(0x52, Instr.vun), (0x53, Instr.vcvt), (0x54, Instr.norm), (0x55, Instr.smax), (0x56, Instr.minv), (0x60, Instr.tfn), (0x61, Instr.tder), (0x62, Instr.tload)] ++
  [(0x70, Instr.rsum), (0x71, Instr.rmax), (0x72, Instr.rmin), (0x73, Instr.rssq), (0x80, Instr.qnt), (0x81, Instr.dqnt), (0x91, Instr.reqnt), (0xA0, Instr.rs)] ++
  [(0xA1, Instr.ag), (0xA2, Instr.ar), (0xA3, Instr.send), (0xA4, Instr.recv), (0xB0, Instr.pull), (0xB1, Instr.rel), (0xC0, Instr.amax), (0xC1, Instr.fprint)] ++
  [(0xC2, Instr.cntrd), (0xC3, Instr.flagrd)]

/-- A row takes its own opcode, and no other; the reserved row takes none of them. -/
theorem test_wf_opcodes : opRows.all (fun r => (r.2 at0 (BitVec.ofNat 128 r.1)).wf && !(r.2 at0 (BitVec.ofNat 128 (r.1 + 1))).wf &&
    !(Instr.reservedOpcode at0 (BitVec.ofNat 128 r.1)).wf) = true ∧ (Instr.reservedOpcode at0 0x17).wf = true := by decide +kernel

theorem test_wf_upd : (Instr.updApply at0 0x90).wf = true ∧ (Instr.updNorm at0 0x90).wf = false ∧ (Instr.updPack at0 0x90).wf = false ∧
    (Instr.updApply at0 (wd 0x90 0 0 0 0 1)).wf = false ∧ (Instr.updNorm at0 (wd 0x90 0 0 0 0 1)).wf = true ∧
    (Instr.updPack at0 (wd 0x90 0 0 0 0 2)).wf = true := by decide +kernel

theorem test_wf_widths : (Instr.registerWrite .host 0 8 0).wf = true ∧ (Instr.registerWrite .host 0 2 0).wf = false ∧
    (Instr.mrd ⟨0, 0, 0, 0⟩ 64).wf = true ∧ (Instr.mrd ⟨0, 0, 0, 0⟩ 16).wf = false ∧
    (Instr.i3cRegisterWrite .i3c0 4 [1, 2, 3, 4]).wf = true ∧ (Instr.i3cRegisterWrite .i3c0 2 [1, 2, 3, 4]).wf = false ∧
    (Instr.i3cRegisterWrite .i3c0 4 [1]).wf = false ∧ (Instr.debugMemoryWrite .device 0 [1]).wf = true ∧
    (Instr.debugMemoryWrite .device 0 []).wf = false ∧ (Instr.debugMemoryWrite .register 0 [1]).wf = false := by decide +kernel

theorem test_wf_lengths :
    let f := fun n => (⟨false, 0, 0, 0, 0, List.replicate n 0, 0⟩ : Flit)
    (Instr.dataFlit 0 (f 19)).wf = true ∧ (Instr.dataFlit 0 (f 20)).wf = false ∧ (Instr.keepaliveFlit 0 (f 20)).wf = false ∧
    (Instr.idleFlit 0 (f 20)).wf = false ∧ (Instr.downFlit 0 (f 20)).wf = false ∧
    (Instr.accordData ⟨false, 0, 0, 0, 0, 1, 0, 0⟩ [0]).wf = true ∧ (Instr.accordData ⟨false, 0, 0, 0, 0, 1, 0, 0⟩ []).wf = false ∧
    (Instr.queuePush 0 (List.replicate 7 0) 0 false).wf = true ∧ (Instr.queuePush 0 [] 0 false).wf = false ∧
    (Instr.queuePush 1 (List.replicate 7 0) 0 false).wf = false ∧ (Instr.queuePop 0x28 0 false).wf = false ∧
    (Instr.queueTailTimeout 0x60).wf = false ∧ (Instr.hubRestartDone (List.replicate 8 none)).wf = true ∧
    (Instr.hubRestartDone []).wf = false ∧ (Instr.longOperationUnitDone .scrub 1).wf = true ∧
    (Instr.longOperationUnitDone .scrub 0).wf = false := by decide +kernel

theorem test_wf_ranges :
    let b := fun n => (⟨0, List.replicate n 8, List.replicate 6 8, [4, 4], List.replicate 6 (0, 0), [.blank, .blank], [15, 15], [], [], 0, 0, 0,
      true, 0⟩ : BoardFacts)
    (Instr.getCertificate .mctp 0 0 65535).wf = true ∧ (Instr.getCertificate .mctp 8 0 0).wf = false ∧
    (Instr.getCertificate .mctp 0 65536 0).wf = false ∧ (Instr.getCertificate .mctp 0 0 65536).wf = false ∧
    (Instr.challenge .mctp 7 0 false).wf = true ∧ (Instr.challenge .mctp 8 0 false).wf = false ∧
    (Instr.powerUp (b 8)).wf = true ∧ (Instr.powerUp (b 7)).wf = false ∧ (Instr.powerUp { b 8 with sites := [.blank] }).wf = false ∧
    (Instr.warmResetRelease (b 7)).wf = false ∧ (Instr.inputRecovery (b 7)).wf = false ∧
    (Instr.bridgeModuleRetrain 14 3 0).wf = true ∧ (Instr.bridgeModuleRetrain 14 4 0).wf = false ∧
    (Instr.bridgeFlitReplay 15 4 0).wf = false ∧ (Instr.moduleRetrainDone 15 7 true).wf = false := by decide +kernel

/-! ### Worked examples of the manual -/

/-- Chapter 2, one MX group: 6.5234375, then times 0.25 plus 0.5 in BF16. -/
theorem test_mx_group :
    let p := fun (a b : Nat) => (mxVal 7 a 0x7E).mul (mxVal 3 b 0x81)
    let s := [(1, 0x38), (7, 0x2C), (0xB, 0x44), (4, 3)].foldl (fun (v : Val) q => v.add (p q.1 q.2)) (decodeVal 0 0x41200000)
    roundWide 0 s = 0x40D0C000 ∧ roundWide 1 ((s.mul (decodeVal 0 0x3E800000)).add (decodeVal 0 0x3F000000)) = 0x4008 := by decide +kernel

/-- Chapter 2, derived scale and ties. -/
theorem test_derived_scale :
    let g := quantGroup 7 none false ([0x41200000, 0x40200000, 0xBF400000, 0x3F000000].map (decodeVal 0))
    g.1 = 0x80 ∧ g.2.map (·.code) = [7, 3, 9, 1] := by decide +kernel

/-- Chapter 5, an FMC-2 row: exponent 130 and the value fields. -/
theorem test_fmc2_row :
    let g := fmcEncode 3 ([.fin false 255 (-5), .fin false 176 (-5), .fin false 77 (-8), .fin true 17 (-4), .fin false 205 (-12)] ++
      List.replicate 27 (.fin false 0 0))
    g.1 = 130 ∧ (g.2.take 5).map (·.code) = [0x20, 0x16, 0x01, 0x44, 0x00] := by decide +kernel

/-- Chapter 3, the word of COPY td9, td7 with WAIT bc3, s6 and SIGNAL bc4. -/
theorem test_copy_word :
    let w : InstrWord := 0x0009000718224320
    iOp w = 0x20 ∧ iTd w 0 = 7 ∧ iTd w 2 = 9 ∧ iSd w = 0 ∧ iWen w = true ∧ iWbc w = 3 ∧ iSen w = true ∧ iSbc w = 4 ∧ iWsrc w = 6 := by
  decide +kernel

/-- Chapter 8, the work budget of a JPEG. -/
theorem test_work_budget :
    let p := { emptyPipe with desc := (pic0 0).set 9 (put 4096 0 ||| put 256 32) |>.set 10 1 }
    workBudget p { emptySample with size := 1800000 } (.jpeg 4000 3000 3 8 .baseline true) = .inr 9004288 := by decide +kernel

end Sys2Proof.Tests
end

section
/-! PROOF. Accesses of the register space (R19, R20, R286 to R288): what a permitted access is, what a whole write leaves by the
access types of a register's fields, and where a read's value stands in its line. -/

namespace Sys2Proof.Machine

/-! ### A write under the access types (R19, R20) -/

/-- Each bit of a register after a write: RW bits take the value, W1C bits written with 1 clear, the others stay. -/
theorem bit_mergeWrite (rw w1c old v : Word) (i : Nat) :
    bit (mergeWrite rw w1c old v) i =
      if bit rw i = true then bit v i else if bit w1c i = true ∧ bit v i = true then false else bit old i := by
  unfold bit mergeWrite
  rw [BitVec.getLsbD_or, BitVec.getLsbD_and, BitVec.getLsbD_and, BitVec.getLsbD_and, BitVec.getLsbD_not, BitVec.getLsbD_not,
    BitVec.getLsbD_and]
  by_cases hi : i < 64
  · cases rw.getLsbD i <;> cases w1c.getLsbD i <;> cases v.getLsbD i <;> simp [hi]
  · have hout : ∀ w : Word, w.getLsbD i = false := fun w => BitVec.getLsbD_of_ge w i (Nat.le_of_not_lt hi)
    simp [hout]

theorem softWrite_of_spec {s : State} {a : Nat} {r : RegSpec} (h : regSpec a = some r) (v : Word) :
    s.softWrite a v = s.setReg a (mergeWrite r.rw r.w1c (s.reg a) v) := by
  unfold State.softWrite
  rw [h]

/-- From `s` to `t` nothing but register `b`, of access types `r`, differs, and its bits are those that a whole write of `x`
leaves (R19, R20). -/
structure Written (r : RegSpec) (b : Nat) (x : Word) (s t : State) : Prop where
  rest : t = { s with regs := t.regs }
  others : ∀ k, k ≠ b → t.reg k = s.reg k
  bits : ∀ i, i < 64 → bit (t.reg b) i =
    if bit r.rw i = true then bit x i else if bit r.w1c i = true ∧ bit x i = true then false else bit (s.reg b) i

theorem softWrite_written {a : Nat} {r : RegSpec} (h : regSpec a = some r) (s : State) (v : Word) :
    Written r a v s (s.softWrite a v) := by
  rw [softWrite_of_spec h]
  refine ⟨rfl, fun k hk => ?_, fun i _ => ?_⟩
  · rw [reg_setReg, if_neg hk]
  · rw [reg_setReg, if_pos rfl, bit_mergeWrite]

/-! ### Registers of 32 bits -/

/-- The low half of a word: what a write of 4 bytes carries (R287). -/
def low32 (v : Word) : Word := v &&& 0xFFFFFFFF#64

theorem getLsbD_low32 (v : Word) (i : Nat) : (low32 v).getLsbD i = (v.getLsbD i && decide (i < 32)) := by
  have hm : (0xFFFFFFFF#64 : Word) = fieldMask 64 31 0 := by decide
  rw [low32, hm, BitVec.getLsbD_and, getLsbD_fieldMask]
  by_cases hi : i < 32
  · have : i < 64 := by omega
    simp [hi, this]
  · simp [hi]

@[simp] theorem low32_low32 (v : Word) : low32 (low32 v) = low32 v := by
  unfold low32
  rw [BitVec.and_assoc, BitVec.and_self]

/-- The register has 64 bits, or 32 and no writable bit above them. -/
def RegSpec.Fits (r : RegSpec) : Prop :=
  r.width = 64 ∨ r.width = 32 ∧ low32 r.rw = r.rw ∧ low32 r.w1c = r.w1c

theorem dieSpec_fits {o : Nat} {r : RegSpec} (h : dieSpec o = some r) : r.Fits := by
  unfold dieSpec at h
  split at h <;> simp only [spec32, spec64, specFw, Option.some.injEq, reduceCtorEq] at h <;> subst h <;>
    unfold RegSpec.Fits <;> decide

/-- A write sees no more of its value than the writable bits select. -/
theorem mergeWrite_low32 {rw w1c : Word} (hrw : low32 rw = rw) (hw1c : low32 w1c = w1c) (old v : Word) :
    mergeWrite rw w1c old (low32 v) = mergeWrite rw w1c old v := by
  have select : ∀ {m : Word}, low32 m = m → low32 v &&& m = v &&& m := by
    intro m hm
    rw [← hm]
    unfold low32
    rw [BitVec.and_assoc, ← BitVec.and_assoc _ m, BitVec.and_comm _ m, BitVec.and_assoc m, BitVec.and_self]
  unfold mergeWrite
  rw [select hrw, BitVec.and_comm w1c, select hw1c, BitVec.and_comm v w1c]

/-! ### Permitted accesses (R286 to R288, Table 11.21) -/

/-- An access is accepted at the register that begins there, at its width or half of it. -/
theorem regAt_eq_some_true {s : State} {a n b : Nat} {r : RegSpec} (h : regSpec a = some r) :
    regAt s a n = some (b, true) ↔
      b = a ∧ a % 4 = 0 ∧ regPopulated s a = true ∧ if r.width = 32 then n = 4 else n = 4 ∨ n = 8 := by
  by_cases hal : a % 4 = 0
  · have hc : a / 4 * 4 = a := by omega
    unfold regAt
    simp only [hc, h, Option.isSome_some, if_true, decide_true, Bool.true_and, Bool.and_true]
    cases regPopulated s a
    · simp
    · rw [if_neg (by simp)]
      split <;> simp [hal, @eq_comm _ a b]
  · have hc : a ≠ a / 4 * 4 := by omega
    unfold regAt
    simp only [decide_eq_false hc, Bool.false_and]
    split
    · split <;> simp [hal]
    · simp [hal]

theorem regReason_eq_zero {s : State} {a n : Nat} {wr : Bool} {r : RegSpec} (h : regSpec a = some r) :
    regReason s a n wr = 0 ↔ regAt s a n = some (a, true) ∧ hostClosed s a wr = false := by
  unfold regReason
  split
  · next hat => simp [hat]
  · next b ok hat =>
    cases ok
    · simp [hat]
    · have hb : b = a := ((regAt_eq_some_true h).mp hat).1
      subst hb
      simp [hat]

/-- Where a whole access of a 64-bit register is permitted, one of its lower half is. -/
theorem regReason_half {s : State} {a : Nat} {wr : Bool} {r : RegSpec} (h : regSpec a = some r) (hw : r.width = 64)
    (h8 : regReason s a 8 wr = 0) : regReason s a 4 wr = 0 := by
  rw [regReason_eq_zero h, regAt_eq_some_true h] at h8 ⊢
  obtain ⟨⟨_, hal, hpop, _⟩, hopen⟩ := h8
  exact ⟨⟨rfl, hal, hpop, by simp [hw]⟩, hopen⟩

/-- A whole write is the block's write of the value, of its low half where the register has 32 bits. -/
theorem regHalves_whole {a : Nat} {r : RegSpec} (h : regSpec a = some r) (hf : r.Fits) (s : State) (v : Word)
    (f : State → Word → State) :
    regHalves s a a (r.width / 8) v f = f s (if r.width = 32 then low32 v else v) := by
  unfold regHalves
  rw [h]
  rcases hf with hw | ⟨hw, -, -⟩ <;> simp [hw, low32]

/-- The lower half of a 64-bit register waits for the upper one (R287). -/
theorem regHalves_lower {a : Nat} {r : RegSpec} (h : regSpec a = some r) (hw : r.width = 64) (s : State) (v : Word)
    (f : State → Word → State) :
    regHalves s a a 4 v f = { s with hub := { s.hub with half := smSet 0 s.hub.half a (v.setWidth 32) } } := by
  unfold regHalves
  rw [h]
  simp [hw]

/-! ### REGISTER_WRITE of the host -/

theorem doRegisterWrite_permitted {s : State} {a n : Nat} {r : RegSpec} (h : regSpec a = some r) (v : Word)
    (hup : s.up = true) (hport : anyPortUp s = true) (h0 : regReason s a n true = 0) :
    doRegisterWrite .host a n v s = regHalves s a a n v fun s v => regApply .host s a v := by
  have hserved : linkServed s = true := by simp [linkServed, hup]
  have hat := ((regReason_eq_zero h).mp h0).1
  simp [doRegisterWrite, hostRegWrite, hserved, hport, h0, hat]

theorem doRegisterWrite_refused {s : State} {a n : Nat} (v : Word)
    (hup : s.up = true) (hport : anyPortUp s = true) (h0 : regReason s a n true ≠ 0) :
    doRegisterWrite .host a n v s = hostRefuse s a 3 (hostPort s a) (regReason s a n true) := by
  have hserved : linkServed s = true := by simp [linkServed, hup]
  simp [doRegisterWrite, hostRegWrite, hserved, hport, h0]

/-! ### Registers of a die -/

theorem regSpec_dieR {d o : Nat} (hd : d < 8) (ho : o < 0x10000) : regSpec (dieR d o) = dieSpec o := by
  have hoff : dieR d o - 0x200000000000 = 0x300000 + d * 0x10000 + o := by unfold dieR; omega
  have hmod : (0x300000 + d * 0x10000 + o) % 0x10000 = o := by omega
  have hbase : ¬ dieR d o < 0x200000000000 := by unfold dieR; omega
  unfold regSpec
  simp only [hoff, hmod, if_neg hbase]
  simp (disch := omega) only [if_neg, if_pos]

theorem regApply_dieR {d o : Nat} (hd : d < 8) (ho : o < 0x10000) (src : CmdSrc) (s : State) (v : Word) :
    regApply src s (dieR d o) v = dieWrite s d o v := by
  have hoff : dieR d o - 0x200000000000 = 0x300000 + d * 0x10000 + o := by unfold dieR; omega
  have hdie : (0x300000 + d * 0x10000 + o - 0x300000) / 0x10000 = d := by omega
  have hmod : (0x300000 + d * 0x10000 + o) % 0x10000 = o := by omega
  unfold regApply
  simp only [hoff, hdie, hmod]
  simp (disch := omega) only [if_neg, if_pos]

/-- The value that a write at offset `o` of a die block acts as: 0 in PERIOD_H of DIE_SCRUB_CTL as 1 (Table 7.18). -/
def diePeriod (o : Nat) (v : Word) : Word := if o = 0x110 ∧ bits v 7 0 = 0 then setBits v 7 0 1 else v

theorem dieWrite_plain {o : Nat} (hmode : o ≠ 0x100) (hpart : o ≠ 0x108) (s : State) (d : Nat) (v : Word) :
    dieWrite s d o v = s.softWrite (dieR d o) (diePeriod o v) := by
  unfold dieWrite diePeriod
  rw [if_neg hmode, if_neg hpart]
  split <;> rfl

theorem low32_diePeriod (o : Nat) (v : Word) : low32 (diePeriod o (low32 v)) = low32 (diePeriod o v) := by
  have hperiod : bits (low32 v) 7 0 = bits v 7 0 := by
    apply Nat.eq_of_testBit_eq
    intro i
    rw [testBit_bits, testBit_bits, getLsbD_low32]
    by_cases hi : i < 7 - 0 + 1
    · have h32 : 0 + i < 32 := by omega
      rw [decide_eq_true h32, Bool.and_true]
    · simp [hi]
  unfold diePeriod
  rw [hperiod]
  split
  · apply BitVec.eq_of_getLsbD_eq
    intro i _
    rw [getLsbD_low32, getLsbD_low32, getLsbD_setBits, getLsbD_setBits, getLsbD_low32]
    split
    · rfl
    · rw [Bool.and_assoc, Bool.and_self]
  · exact low32_low32 v

/-- A whole write of a die's register without a rule of its own. -/
theorem doRegisterWrite_die {a d o : Nat} {r : RegSpec} (h : regSpec a = some r) (ha : a = dieR d o) (hd : d < 8)
    (ho : o < 0x10000) (hmode : o ≠ 0x100) (hpart : o ≠ 0x108) {s : State} (v : Word) (hup : s.up = true)
    (hport : anyPortUp s = true) (h0 : regReason s a (r.width / 8) true = 0) :
    doRegisterWrite .host a (r.width / 8) v s = s.softWrite a (diePeriod o v) := by
  subst ha
  have hf : r.Fits := dieSpec_fits ((regSpec_dieR hd ho).symm.trans h)
  rw [doRegisterWrite_permitted h v hup hport h0, regHalves_whole h hf, regApply_dieR hd ho, dieWrite_plain hmode hpart]
  rcases hf with hw | ⟨hw, hrw, hw1c⟩
  · simp [hw]
  · rw [if_pos hw, softWrite_of_spec h, softWrite_of_spec h, ← mergeWrite_low32 hrw hw1c, low32_diePeriod,
      mergeWrite_low32 hrw hw1c]

/-! ### Registers of the power block, over I3C (R586, R626) -/

theorem regApply_pwrR {o : Nat} (ho : o < 0x10000) (src : CmdSrc) (s : State) (v : Word) :
    regApply src s (pwrR o) v = pwrWrite src s o v := by
  have hoff : pwrR o - 0x200000000000 = 0x30000 + o := by unfold pwrR; omega
  have hin : 0x30000 + o - 0x30000 = o := Nat.add_sub_cancel_left _ _
  unfold regApply
  simp only [hoff, hin]
  simp (disch := omega) only [if_neg, if_pos]

theorem pwrWrite_plain {o : Nat} (hdd : o ≠ 0x08) (hrst : o ≠ 0x10) (hptp : o ≠ 0x80) (src : CmdSrc) (s : State) (v : Word) :
    pwrWrite src s o v = s.softWrite (pwrR o) v := by
  unfold pwrWrite
  rw [if_neg hdd, if_neg hrst, if_neg hptp]

/-- Eight bytes of the management controller are a whole write of a 64-bit PWR_ register without a rule of its own. -/
theorem doI3cRegisterWrite_pwr {a o : Nat} {r : RegSpec} (h : regSpec a = some r) (ha : a = pwrR o) (ho : o < 0x10000)
    (hw : r.width = 64) (hdd : o ≠ 0x08) (hrst : o ≠ 0x10) (hptp : o ≠ 0x80) (hal : o % 4 = 0) {s : State}
    (hon : s.mod.phase ≠ .off) {b : List Byte} (hb : b.length = 8) :
    doI3cRegisterWrite o b s = s.softWrite a (BitVec.ofNat 64 (leNat b)) := by
  subst ha
  have hbus : busOn s = true := by simp [busOn, hon]
  have hin : ¬ (busOn s = false ∨ pwrR o < pwrR 0 ∨ pwrR 0x10000 ≤ pwrR o) := by
    have hlo : pwrR 0 ≤ pwrR o := Nat.add_le_add_left (Nat.zero_le o) _
    have hhi : pwrR o < pwrR 0x10000 := Nat.add_lt_add_left ho _
    simp [hbus, Nat.not_lt.mpr hlo, Nat.not_le.mpr hhi]
  have hpop : regPopulated s (pwrR o) = true := by
    have hhub : pwrR o - 0x200000000000 < 0x100000 := by unfold pwrR; omega
    unfold regPopulated
    simp only [hhub, if_true]
  have hat : regAt s (pwrR o) 8 = some (pwrR o, true) :=
    (regAt_eq_some_true h).mpr ⟨rfl, by unfold pwrR; omega, hpop, by simp [hw]⟩
  have hwhole := regHalves_whole h (.inl hw) s (BitVec.ofNat 64 (leNat b)) fun s v => regApply .controller s (pwrR o) v
  rw [hw] at hwhole
  unfold doI3cRegisterWrite controllerWrite
  rw [if_pos ⟨hal, .inr hb⟩, hb, if_neg hin, hat]
  exact hwhole.trans ((regApply_pwrR ho _ _ _).trans (pwrWrite_plain hdd hrst hptp _ _ _))

/-! ### MRD of a register (R467) -/

theorem overlay_length {old bs : List Byte} {o : Nat} (h : o + bs.length ≤ old.length) :
    (overlay old o bs).length = old.length := by
  simp [overlay]
  omega

/-- The bytes laid over are read in their place. -/
theorem overlay_read {old bs : List Byte} {o : Nat} (h : o ≤ old.length) :
    ((overlay old o bs).drop o).take bs.length = bs := by
  have hlen : (old.take o).length = o := by simp [h]
  unfold overlay
  rw [List.append_assoc, List.drop_left' hlen, List.take_left' rfl]

/-- The line that answers a read of 8 bytes of a register: its value lies in the register's place. -/
theorem regLine_whole {a : Nat} {r : RegSpec} (h : regSpec a = some r) (s : State) :
    regLine s a 8 = overlay (List.replicate 64 0) (a % 64) (leBytes 8 (regRead s a).toNat) := by
  have htake : (leBytes 8 (regRead s a).toNat).take 8 = leBytes 8 (regRead s a).toNat :=
    List.take_of_length_le (by simp [leBytes_length])
  simp [regLine, h, htake]

theorem doMrd_register {h : ShlHdr} {n : Nat} {s : State} (hup : s.up = true) (hport : portUp s h.port = true) (hch : h.ch = 0)
    (hreg : isReg h.addr.toNat = true) (h0 : regReason s h.addr.toNat n false = 0) :
    doMrd h n s = s.send (.shl h.port 0x21 1 h.tag.toNat h.addr.toNat false false (regLine s h.addr.toNat n)) := by
  have hserved : linkServed s = true := by simp [linkServed, hup]
  simp [doMrd, shlMsg, hserved, hport, hch, hreg, h0, hostData]

/-! ### The obligation -/

/-- Settles O47: a permitted write comes down to one write under the access types of the register's fields, a read to one
line with the register's value in its place. -/
theorem registerAccesses : Obligations.RegisterAccesses := by
  unfold Obligations.RegisterAccesses
  intro a r v s h
  refine ⟨?_, ?_, ?_, ?_⟩
  · intro d o ha ho hmode hpart hup hport h0
    refine ⟨?_, fun hw => ?_⟩
    · obtain ⟨hrest, hothers, hbits⟩ := softWrite_written h s (diePeriod o v)
      have hwrite := doRegisterWrite_die h ha d.isLt ho hmode hpart v hup hport h0
      exact ⟨_, congrArg Host.Outcome.next hwrite, hrest, hothers, hbits⟩
    · rw [hw] at h0
      exact congrArg Host.Outcome.next
        ((doRegisterWrite_permitted h v hup hport (regReason_half h hw h0)).trans (regHalves_lower h hw s v _))
  · intro n h0 hup hport
    exact ⟨cntInc s 0x5000 0 1, cntInc_reported s _ _ _, congrArg Host.Outcome.next (doRegisterWrite_refused v hup hport h0)⟩
  · intro o ha hdd hrst hptp hal hon hw bus b hb
    obtain ⟨hrest, hothers, hbits⟩ := softWrite_written h s (BitVec.ofNat 64 (leNat b))
    have hwrite := doI3cRegisterWrite_pwr h ha o.isLt hw (fun e => hdd (BitVec.eq_of_toNat_eq e))
      (fun e => hrst (BitVec.eq_of_toNat_eq e)) (fun e => hptp (BitVec.eq_of_toNat_eq e)) hal hon hb
    exact ⟨_, congrArg Host.Outcome.next hwrite, hrest, hothers, hbits⟩
  · rintro hd rfl hal hreg hch hup hport h0
    have hlen : (leBytes 8 (regRead s hd.addr.toNat).toNat).length = 8 := leBytes_length 8 _
    refine ⟨_, congrArg Host.Outcome.next (doMrd_register hup hport hch hreg h0), _, rfl, ?_, ?_⟩ <;> rw [regLine_whole h]
    · rw [overlay_length (by simp only [hlen, List.length_replicate]; omega), List.length_replicate]
    · have hread := overlay_read (old := List.replicate 64 0) (o := hd.addr.toNat % 64)
        (bs := leBytes 8 (regRead s hd.addr.toNat).toNat) (by simp only [List.length_replicate]; omega)
      rwa [hlen] at hread

end Sys2Proof.Machine
end

section
/-! PROOF. Messages between dies (R42, R374 to R378): what their arrival does, that a die hears them, and that a request is
outstanding. -/

namespace Sys2Proof.Machine

/-! ### Credits (R376, R377) -/

/-- Only the credits of the links, the messages held for one and the messages sent differ. -/
def OnlyLinks (s t : State) : Prop :=
  t = { s with fabr := { s.fabr with credit := t.fabr.credit, held := t.fabr.held, turn := t.fabr.turn }, out := t.out }

theorem sendDie_onlyLinks (s : State) (ty : Nat) (h : DieHdr) (data : List Nat) : OnlyLinks s (sendDie s ty h data) := by
  unfold sendDie
  split
  · rfl
  · split <;> rfl

theorem OnlyLinks.trans {s t u : State} (h1 : OnlyLinks s t) (h2 : OnlyLinks t u) : OnlyLinks s u := by
  unfold OnlyLinks at *
  rw [h2, h1]

/-- An arrival returns its credit, which may let a held message go. -/
theorem creditBack_onlyLinks (s : State) (ty : Nat) (h : DieHdr) : OnlyLinks s (creditBack s ty h) := by
  unfold creditBack
  extract_lets key credits s1
  have h1 : OnlyLinks s s1 := rfl
  split
  · rfl
  · split
    · refine h1.trans (OnlyLinks.trans ?_ (sendDie_onlyLinks _ _ _ _))
      rfl
    · exact h1

/-- A response carries no credit. -/
theorem creditBack_response {h : DieHdr} (hvc : h.vc = 1) (s : State) (ty : Nat) : creditBack s ty h = s := by
  unfold creditBack
  rw [if_pos hvc]

@[simp] theorem creditBack_regs (s : State) (ty : Nat) (h : DieHdr) : (creditBack s ty h).regs = s.regs := by
  rw [creditBack_onlyLinks]

@[simp] theorem creditBack_mod (s : State) (ty : Nat) (h : DieHdr) : (creditBack s ty h).mod = s.mod := by
  rw [creditBack_onlyLinks]

@[simp] theorem creditBack_gone (s : State) (ty : Nat) (h : DieHdr) : (creditBack s ty h).fabr.gone = s.fabr.gone := by
  rw [creditBack_onlyLinks]

@[simp] theorem reg_creditBack (s : State) (ty : Nat) (h : DieHdr) (a : Nat) : (creditBack s ty h).reg a = s.reg a := by
  unfold State.reg
  rw [creditBack_regs]

@[simp] theorem guestAt_creditBack (s : State) (ty : Nat) (h : DieHdr) (d : Nat) :
    guestAt (creditBack s ty h) d = guestAt s d := by
  unfold guestAt State.fld
  rw [reg_creditBack]

@[simp] theorem dieReady_creditBack (s : State) (ty : Nat) (h : DieHdr) (d : Nat) :
    dieReady (creditBack s ty h) d = dieReady s d := by
  simp [dieReady, diePresent, State.rbit]

/-! ### Delivery (R375, R378, R383) -/

/-- A message on its channel between dies that exist, from a source that is no guest. -/
theorem dieMsg_obeyed {ty vc : Nat} {h : DieHdr} {s : State} (hup : s.up = true) (hvc : h.vc.toNat = vc)
    (hsrc : h.src.toNat ≤ 10) (hdst : h.dst.toNat ≤ 10) (hguest : guestAt s h.src.toNat = false)
    (hno : vc = 0 → guestAt s h.dst.toNat = false) (hready : dieReady s h.dst.toNat = true ∨ ty = 0x30) (k : State → State) :
    dieMsg ty vc h s k = k (creditBack s ty h) := by
  have hlawful : ¬ (h.vc.toNat ≠ vc ∨ 10 < h.src.toNat ∨ 10 < h.dst.toNat) := by omega
  have hopen : ¬ (vc = 0 ∧ guestAt s h.dst.toNat = true) := fun ⟨h0, hg⟩ => by simp [hno h0] at hg
  simp [dieMsg, hup, hlawful, hguest, hopen, hready]

theorem Heard.obeyed {s : State} {h : DieHdr} {vc : Nat} (hh : Heard s h vc) (ty : Nat) (k : State → State) :
    dieMsg ty vc h s k = k (creditBack s ty h) :=
  dieMsg_obeyed hh.up hh.chan hh.dies.1 hh.dies.2 hh.guests.1 hh.guests.2 (.inl hh.latched) k

/-- A response that is heard meets the state as it stands. -/
theorem Heard.response {s : State} {h : DieHdr} (hh : Heard s h 1) (ty : Nat) (k : State → State) :
    dieMsg ty 1 h s k = k s := by
  have hvc : h.vc = 1 := BitVec.eq_of_toNat_eq hh.chan
  rw [hh.obeyed, creditBack_response hvc]

/-! ### Outstanding requests (R42, R374) -/

/-- A request that is heard and finds room is taken. -/
theorem Heard.request {s : State} {h : DieHdr} (hh : Heard s h 0) {ty : Nat} (hroom : poolRoom (creditBack s ty h) h = true)
    (i : Instr) (k : State → State) : dieMsg ty 0 h s (fun s => withRoom s h i k) = k (creditBack s ty h) := by
  rw [hh.obeyed, withRoom, if_pos hroom]

/-- The state in which a request that has arrived is outstanding. -/
def taken (s : State) (ty : Nat) (h : DieHdr) : State := addReq (creditBack s ty h) ty h

theorem taken_rest (s : State) (ty : Nat) (h : DieHdr) :
    taken s ty h = { s with fabr := (taken s ty h).fabr, out := (taken s ty h).out, fresh := (taken s ty h).fresh } := by
  unfold taken addReq
  rw [creditBack_onlyLinks]
  split <;> rfl

@[simp] theorem taken_mem (s : State) (ty : Nat) (h : DieHdr) : (taken s ty h).mem = s.mem := by rw [taken_rest]
@[simp] theorem taken_ent (s : State) (ty : Nat) (h : DieHdr) : (taken s ty h).ent = s.ent := by rw [taken_rest]
@[simp] theorem taken_ctxs (s : State) (ty : Nat) (h : DieHdr) : (taken s ty h).ctxs = s.ctxs := by rw [taken_rest]
@[simp] theorem taken_parts (s : State) (ty : Nat) (h : DieHdr) : (taken s ty h).parts = s.parts := by rw [taken_rest]

theorem readByte_congr {s t : State} (hm : t.mem = s.mem) (he : t.ent = s.ent) : readByte t = readByte s := by
  funext x
  unfold readByte rawByte lstAt entryOf
  rw [hm, he]

theorem entryOf_congr {s t : State} (he : t.ent = s.ent) (a : Nat) : entryOf t a = entryOf s a := by
  unfold entryOf
  rw [he]

theorem lstAt_congr {s t : State} (he : t.ent = s.ent) : lstAt t = lstAt s := by
  funext x
  unfold lstAt entryOf
  rw [he]

@[simp] theorem readByte_taken (s : State) (ty : Nat) (h : DieHdr) : readByte (taken s ty h) = readByte s :=
  readByte_congr (taken_mem _ _ _) (taken_ent _ _ _)

@[simp] theorem readNat_taken (s : State) (ty : Nat) (h : DieHdr) (a n : Nat) : readNat (taken s ty h) a n = readNat s a n := by
  unfold readNat readBytes
  rw [readByte_taken]

@[simp] theorem lstAt_taken (s : State) (ty : Nat) (h : DieHdr) : lstAt (taken s ty h) = lstAt s := lstAt_congr (taken_ent _ _ _)

@[simp] theorem getCtx_taken (s : State) (ty : Nat) (h : DieHdr) (p x : Nat) : getCtx (taken s ty h) p x = getCtx s p x := by
  unfold getCtx
  rw [taken_ctxs]

@[simp] theorem getPart_taken (s : State) (ty : Nat) (h : DieHdr) (p : Nat) : getPart (taken s ty h) p = getPart s p := by
  unfold getPart
  rw [taken_parts]

/-- A change of a block that has storage is made and acknowledged. -/
theorem serveUpdate_held {s : State} {ty : Nat} {h : DieHdr} (hnack : addrNack (taken s ty h) h.addr.toNat = 0)
    (hstore : inStore (taken s ty h) h.addr.toNat = true) (k : State → State) :
    serveUpdate ty h k (creditBack s ty h) = sendAck (k (taken s ty h)) h := by
  have hok : ¬ (addrNack (taken s ty h) h.addr.toNat ≠ 0 ∨ inStore (taken s ty h) h.addr.toNat = false) := by
    simp [hnack, hstore]
  unfold serveUpdate
  exact if_neg hok

end Sys2Proof.Machine
end

section
/-! PROOF. Changes that a die asks of another (R97, R304, R305, R481, R487): records added, blocks poisoned and invalidated,
counters and event records. -/

namespace Sys2Proof.Machine

/-! ### RADD, INV (R97, R305) -/

@[simp] theorem readByte_sendAck (s : State) (h : DieHdr) : readByte (sendAck s h) = readByte s := rfl
@[simp] theorem lstAt_sendAck (s : State) (h : DieHdr) : lstAt (sendAck s h) = lstAt s := rfl
@[simp] theorem entryOf_sendAck (s : State) (h : DieHdr) : entryOf (sendAck s h) = entryOf s := rfl

theorem sendAck_writeBytes_eq (s : State) (a : Nat) (bs : List Byte) (w : Option Tag) (h : DieHdr) :
    let t := sendAck (writeBytes s a bs w) h
    t = { s with mem := t.mem, ent := t.ent, out := s.out ++ [.die 0x23 (respHdr h 1 0 false) []], cache := t.cache } := by
  have honly := writeBytes_only s a bs w
  unfold OnlyMemory at honly
  unfold sendAck
  rw [honly]
  rfl

theorem lstAt_invalidate (s : State) (a x : Nat) :
    lstAt (invalidate s a) x = if x / 4096 = a / 4096 then 0 else lstAt s x := by
  have hempty : lineState emptyEntry (x / 64 % 64) = 0 := by simp [lineState, emptyEntry, bits]
  rw [invalidate, lstAt_setEntry, hempty]

/-! ### POIS (R304) -/

/-- The line states of a block whose first `n` lines have become POISONED where they were VALID. -/
def poisonedLines (e : Entry) (n : Nat) : BitVec 128 :=
  (List.range n).foldl (fun l j => if lineState e j = 1 then setLine l j 2 else l) e.lstate

theorem bits_poisonedLines (e : Entry) {k n : Nat} (hn : n ≤ 64) :
    bits (poisonedLines e n) (2 * k + 1) (2 * k) = if k < n ∧ lineState e k = 1 then 2 else lineState e k := by
  induction n with
  | zero => simp [poisonedLines, lineState]
  | succ n ih =>
    have hstep : poisonedLines e (n + 1) =
        if lineState e n = 1 then setLine (poisonedLines e n) n 2 else poisonedLines e n := by
      simp [poisonedLines, List.range_succ]
    have ih := ih (by omega)
    rw [hstep]
    by_cases hvalid : lineState e n = 1
    · have hset := lineState_setLine e (poisonedLines e n) n k 2 (by omega) (by decide)
      rw [if_pos hvalid]
      refine hset.trans ?_
      by_cases hk : k = n
      · subst hk
        simp [hvalid]
      · have hlt : k < n + 1 ↔ k < n := by omega
        simp only [if_neg hk, ih, hlt]
    · rw [if_neg hvalid, ih]
      by_cases hk : k = n
      · subst hk
        simp [hvalid]
      · have hlt : k < n + 1 ↔ k < n := by omega
        simp only [hlt]

theorem lstAt_poisonValid (s : State) (a : Nat) (t : Tag) (x : Nat) :
    lstAt (poisonValid s a t) x = if x / 4096 = a / 4096 ∧ lstAt s x = 1 then 2 else lstAt s x := by
  have hlt : x / 64 % 64 < 64 := Nat.mod_lt _ (by decide)
  have hlines := bits_poisonedLines (entryOf s a) (k := x / 64 % 64) (Nat.le_refl 64)
  unfold poisonValid
  rw [lstAt_setEntry]
  by_cases hblock : x / 4096 = a / 4096
  · have hentry : lstAt s x = lineState (entryOf s a) (x / 64 % 64) := by
      unfold lstAt entryOf
      rw [hblock]
    rw [if_pos hblock, hentry]
    refine hlines.trans ?_
    simp [hlt, hblock]
  · simp [hblock]

theorem entryOf_poisonValid (s : State) (a : Nat) (t : Tag) : (entryOf (poisonValid s a t) a).tag = t := by
  simp [poisonValid, entryOf, setEntry]

theorem captPoison_hubOnly (s : State) (a : Nat) (t : Tag) (cause tid blk : Nat) :
    HubOnly s (captPoison s a t cause tid blk) := by
  unfold captPoison
  refine capture_hub s _ _ _ (HubOnly.trans ?_ (setReg_hubOnly _ _ _))
  exact setReg_hubOnly _ _ _

/-- A poisoning's record and capture change registers and the hub's own state beside the block's entry. -/
theorem poisonMismatch_hubOnly (s : State) (a : Nat) (r : Reader) (code cause : Nat) :
    HubOnly (poisonValid s a r.tag) (poisonMismatch s a r code cause) := by
  unfold poisonMismatch
  dsimp only
  split
  · exact (errRecord_hub _ _).trans (captPoison_hubOnly _ _ _ _ _ _)
  · exact .refl _

theorem poisonMismatch_ent (s : State) (a : Nat) (r : Reader) (code cause : Nat) :
    (poisonMismatch s a r code cause).ent = (poisonValid s a r.tag).ent := by
  rw [poisonMismatch_hubOnly]

theorem sendAck_poisonMismatch_eq (s : State) (a : Nat) (r : Reader) (code cause : Nat) (h : DieHdr) :
    let t := sendAck (poisonMismatch s a r code cause) h
    t = { s with regs := t.regs, hub := t.hub, out := t.out, ent := t.ent } := by
  have hrest := poisonMismatch_hubOnly s a r code cause
  unfold HubOnly at hrest
  unfold sendAck
  rw [hrest]
  rfl

theorem lstAt_poisonMismatch (s : State) (a : Nat) (r : Reader) (code cause x : Nat) :
    lstAt (poisonMismatch s a r code cause) x = if x / 4096 = a / 4096 ∧ lstAt s x = 1 then 2 else lstAt s x := by
  rw [lstAt_congr (poisonMismatch_ent _ _ _ _ _), lstAt_poisonValid]

theorem tag_poisonMismatch (s : State) (a : Nat) (r : Reader) (code cause : Nat) :
    (entryOf (poisonMismatch s a r code cause) a).tag = r.tag := by
  rw [entryOf_congr (poisonMismatch_ent _ _ _ _ _), entryOf_poisonValid]

/-! ### CNT (R487) -/

theorem bcAdd_scheduled {s : State} {p x : Nat} (hsched : (getPart s p).sched = some x) (n inc : Nat) :
    bcAdd s p x n inc = modCtx s p x fun c => { c with bc := smSet 0 c.bc n (bcOf c n + BitVec.ofNat 32 inc) } := by
  rw [bcAdd, if_pos hsched]

/-! ### The obligation -/

/-- Settles O25: each request comes down to its one change of the state that its arrival leaves, and the acknowledgement. -/
theorem dieUpdates : Obligations.DieUpdates := by
  unfold Obligations.DieUpdates
  intro h s hh a ack room took held
  have answers : ∀ {t u : State}, t = u → Host.Outcome.next t = (Host.Outcome.next u : Res) := congrArg _
  refine ⟨?radd, ?pois, ?inv, ?cnt, ?evtError, ?evtOther⟩
  case radd =>
    rintro rec ⟨hroom, hnack, hstore⟩
    refine ⟨_, answers ((hh.request hroom _ _).trans (serveUpdate_held hnack hstore _)), sendAck_writeBytes_eq _ _ _ _ _, ?_⟩
    intro x
    rw [readByte_sendAck, readByte_writeBytes, leBytes_length, readByte_taken, readNat_taken]
  case pois =>
    rintro tag ⟨hroom, hnack, hstore⟩
    refine ⟨_, answers ((hh.request hroom _ _).trans (serveUpdate_held hnack hstore _)), ?_⟩
    refine ⟨sendAck_poisonMismatch_eq _ _ _ _ _ _, ?_, fun x => ?_, List.mem_append_right _ (List.mem_singleton_self _)⟩
    · rw [entryOf_sendAck, tag_poisonMismatch]
    · rw [lstAt_sendAck, lstAt_poisonMismatch, lstAt_taken]
  case inv =>
    rintro ⟨hroom, hnack, hstore⟩
    refine ⟨_, answers ((hh.request hroom _ _).trans (serveUpdate_held hnack hstore _)), rfl, fun x => ?_⟩
    rw [lstAt_sendAck, lstAt_invalidate, lstAt_taken]
  case cnt =>
    intro c x inc hroom hsched
    have hsched' : (getPart (taken s 7 h) h.part.toNat).sched = some x.val := by rwa [getPart_taken]
    refine ⟨_, answers ((hh.request hroom _ _).trans (congrArg (sendAck · h) (bcAdd_scheduled hsched' c.val inc.toNat))), rfl, ?_, ?_⟩
    · intro k hk
      exact (smGet_setCtx _ _ _ _ _).trans ((if_neg hk).trans (by rw [taken_ctxs]))
    · refine ⟨_, (getCtx_setCtx _ _ _ _).trans (by rw [getCtx_taken]), fun n => ?_⟩
      rw [smGet_smSet, BitVec.ofNat_toNat, BitVec.setWidth_eq]
      split
      · next hn => rw [hn]
      · rfl
  case evtError =>
    intro rec hroom hcode
    refine answers ((hh.request hroom _ _).trans ?_)
    exact congrArg (sendAck · h) (if_pos hcode)
  case evtOther =>
    intro rec hroom hcode
    refine answers ((hh.request hroom _ _).trans ?_)
    exact congrArg (sendAck · h) (if_neg hcode)

end Sys2Proof.Machine
end

section
/-! PROOF. Responses at the requester (R303, R374, R378), the numbers that dies latch (R383), and the messages between Accord
units (R435). -/

namespace Sys2Proof.Machine

/-! ### Responses -/

variable {s : State} {h : DieHdr} {r : DieReq}

theorem doRdata_plain (hh : Heard s h 1) (hr : findReq s h = some r) (hty : r.ty = 1) (hv : r.h.verify = false)
    (data : BitVec 512) : doRdata h data s = endReq s r := by
  rw [doRdata, hh.response]
  simp [hr, hty, hv]

/-- The bytes of a verifying read wait for their check response (R303). -/
theorem doRdata_verify (hh : Heard s h 1) (hr : findReq s h = some r) (hty : r.ty = 1) (hv : r.h.verify = true)
    (data : BitVec 512) : doRdata h data s = setReq s r { r with data := some data, pois := h.pois } := by
  rw [doRdata, hh.response]
  simp [hr, hty, hv]

theorem setReq_eq (s : State) (r n : DieReq) :
    setReq s r n = { s with fabr := { s.fabr with reqs := s.fabr.reqs.map fun x => if x = r then n else x } } := by
  simp [setReq, modWhere]

/-- What the reader's bytes of line `a` contribute under the line states of the response (R303). -/
def readerContrib (a : Nat) (lstate : BitVec 128) (data : BitVec 512) : Half :=
  if bits lstate (2 * (a / 64 % 64) + 1) (2 * (a / 64 % 64)) = 1 then crcContrib (a % 4096) (leBytes 64 data.toNat) else 0

theorem doChk_pass (hh : Heard s h 1) (hr : findReq s h = some r) {data : BitVec 512} (hd : r.data = some data)
    (hp : r.pois = false) (hagain : r.again = false) {crc contrib : BitVec 32} {lstate : BitVec 128}
    (hcrc : crcZ ^^^ contrib ^^^ readerContrib (r.h.addr.toNat / 64 * 64) lstate data = crc) :
    doChk h crc lstate contrib s = endReq s r := by
  rw [doChk, hh.response]
  simp only [hr, hd, hp, Bool.false_eq_true, if_false]
  exact (if_pos hcrc).trans (by simp [hagain])

/-- The first mismatch reads again (R304). -/
theorem doChk_mismatch (hh : Heard s h 1) (hr : findReq s h = some r) {data : BitVec 512} (hd : r.data = some data)
    (hp : r.pois = false) (hagain : r.again = false) {crc contrib : BitVec 32} {lstate : BitVec 128}
    (hcrc : crcZ ^^^ contrib ^^^ readerContrib (r.h.addr.toNat / 64 * 64) lstate data ≠ crc) :
    doChk h crc lstate contrib s = sendDie (setReq s r { r with data := none, again := true }) 0x01 r.h [] := by
  rw [doChk, hh.response]
  simp only [hr, hd, hp, Bool.false_eq_true, if_false]
  exact (if_neg hcrc).trans (by simp [hagain])

theorem doAck_closes (hh : Heard s h 1) (hr : findReq s h = some r) (hty : r.ty ≠ 1) : doAck h s = endReq s r := by
  rw [doAck, hh.response]
  simp [hr, hty]

theorem doNack_read (hh : Heard s h 1) (hr : findReq s h = some r) (hty : r.ty = 1) (hd : h.dst.toNat < 9) :
    doNack h s = endReq s r := by
  have hd' : ¬ 9 ≤ h.dst.toNat := by omega
  rw [doNack, hh.response]
  simp [hr, hty, hd']

theorem doNack_media (hh : Heard s h 1) (hr : findReq s h = some r) (hty : r.ty = 1) (hd : 9 ≤ h.dst.toNat) :
    doNack h s = endReq (mediaNack s (h.dst.toNat - 9) r.h.part.toNat (r.h.addr.toNat / 64 * 64)) r := by
  rw [doNack, hh.response]
  simp [hr, hty, hd]

/-- The contained record of an operation whose request is refused (R378). -/
def operationRecord (h : DieHdr) (r : DieReq) : ErrRec :=
  { code := 0x0906, cls := 3, die := h.dst.toNat, part := some r.h.part.toNat, unit := (dieUnit h.dst.toNat).1
    index := (dieUnit h.dst.toNat).2, cause := h.attr.toNat % 16, addr := r.h.addr.toNat }

theorem doNack_operation (hh : Heard s h 1) (hr : findReq s h = some r) (hty : r.ty ≠ 1) :
    doNack h s = endReq (errRecord s (operationRecord h r)) r := by
  rw [doNack, hh.response]
  simp [hr, hty, operationRecord]

/-! ### Die management (R383) -/

/-- A die that has no number takes the one that the hub gives it, and answers without an error. -/
theorem doDisc_latches (hup : s.up = true) (hvc : h.vc = 2) (hdst : h.dst.toNat < 8)
    (hguest : guestAt s h.src.toNat = false) (hhub : h.src = 8) (hfree : s.rbit (rDieIdent h.dst.toNat) 7 = false) (num : BitVec 4) :
    doDisc h num s = sendDie ((creditBack s 0x30 h).setReg (rDieIdent h.dst.toNat)
      (put num.toNat 0 ||| put (num.toNat / 4 % 2) 4 ||| put (num.toNat % 4) 5 ||| put 1 7)) 0x31 (dackHdr h) [0] := by
  have hcame : (creditBack s 0x30 h).rbit (rDieIdent h.dst.toNat) 7 = false := by rwa [State.rbit, reg_creditBack]
  rw [doDisc, dieMsg_obeyed (vc := 2) hup (congrArg BitVec.toNat hvc) (by simp [hhub]) (by omega) hguest nofun (.inr rfl)]
  simp [hhub, hcame, Nat.not_le.mpr hdst]

theorem doDack_noted (hup : s.up = true) (hvc : h.vc = 2) (hsrc : h.src.toNat ≤ 10)
    (hguest : guestAt s h.src.toNat = false) (hhub : h.dst = 8) :
    doDack h 0 s = { creditBack s 0x31 h with fabr := { (creditBack s 0x31 h).fabr with
      acked := smSet 0 (creditBack s 0x31 h).fabr.acked h.src.toNat (h.src.toNat + 1) } } := by
  have hready : dieReady s h.dst.toNat = true := by simp [hhub, dieReady]
  rw [doDack, dieMsg_obeyed (vc := 2) hup (congrArg BitVec.toNat hvc) hsrc (by simp [hhub]) hguest nofun (.inl hready)]
  simp [hhub]

/-! ### Messages between Accord units (R435) -/

/-- The bytes of a message that is not whole yet stay. -/
theorem accParse_incomplete {key : Nat} (hfirst : bF (smGet [] s.acc.inbuf key) 0 16 ≠ 0)
    (hlong : 16 ≤ (smGet [] s.acc.inbuf key).length)
    (hshort : (smGet [] s.acc.inbuf key).length < 16 * (min 16 (bF (smGet [] s.acc.inbuf key) 0 16 / 2 ^ 56 % 32) + 1))
    (fuel : Nat) : accParse h key fuel s = s := by
  cases fuel with
  | zero => rfl
  | succ fuel =>
    unfold accParse
    simp only [if_neg (Nat.not_lt.mpr hlong), if_neg hfirst, if_pos hshort]

theorem doAccd_incomplete (hh : Heard s h 3) {data : BitVec 512} {b : List Byte}
    (hb : b = smGet [] (creditBack s 0x38 h).acc.inbuf (accKey h) ++ leBytes 64 data.toNat) (hfirst : bF b 0 16 ≠ 0)
    (hshort : b.length < 16 * (min 16 (bF b 0 16 / 2 ^ 56 % 32) + 1)) :
    doAccd h data s = sendAccc { creditBack s 0x38 h with acc := { (creditBack s 0x38 h).acc with
      inbuf := smSet [] (creditBack s 0x38 h).acc.inbuf (accKey h) b } } (unitHdr h.dst.toNat h.src.toNat h.part.toNat) 1 0 0 accdGrans := by
  have hlong : 16 ≤ b.length := by
    rw [hb, List.length_append, leBytes_length]
    omega
  rw [doAccd, hh.obeyed]
  simp only [← hb]
  rw [accParse_incomplete] <;> simp only [smGet_smSet_same] <;> assumption

theorem doAccc_credit (hh : Heard s h 3) (gid : BitVec 16) (opseq : BitVec 32) (count : BitVec 64) :
    doAccc h .credit gid opseq count s = accRelease (h.dst.toNat * 16 + h.src.toNat) (creditBack s 0x39 h).acc.hold.length
      { creditBack s 0x39 h with acc := { (creditBack s 0x39 h).acc with
        credit := smMod 0 (creditBack s 0x39 h).acc.credit (h.dst.toNat * 16 + h.src.toNat) (fun n => n + count.toNat) } } := by
  rw [doAccc, hh.obeyed]

end Sys2Proof.Machine
end

section
/-! PROOF. The obligation on responses, DISC and DACK, and the Accord messages between dies. -/

namespace Sys2Proof.Machine

/-- Settles O26: each response closes, keeps or repeats the request that it answers; the other messages act as their
own lemmas say. -/
theorem dieResponses : Obligations.DieResponses := by
  unfold Obligations.DieResponses
  intro h r s reqs gone
  have answers : ∀ {t u : State}, t = u → Host.Outcome.next t = (Host.Outcome.next u : Res) := congrArg _
  refine ⟨fun hh hr => ⟨?rdata, ?rdataVerify, ?chk, ?ack, ?nack, ?nackMedia, ?nackOther⟩, fun hup hvc hsrc hdst hguest => ⟨?disc, ?dack⟩,
    fun hh => ⟨?accd, ?accc⟩⟩
  case rdata => exact fun data hty hv => answers (doRdata_plain hh hr hty hv data)
  case rdataVerify => exact fun data hty hv => answers ((doRdata_verify hh hr hty hv data).trans (setReq_eq _ _ _))
  case chk =>
    intro crc lstate contrib data hd hp hagain a own
    refine ⟨fun hcrc => answers (doChk_pass hh hr hd hp hagain hcrc), fun hcrc => answers ?_⟩
    exact (doChk_mismatch hh hr hd hp hagain hcrc).trans (by rw [setReq_eq])
  case ack => exact fun hty => answers (doAck_closes hh hr hty)
  case nack => exact fun hty hd => answers (doNack_read hh hr hty hd)
  case nackMedia => exact fun hty hd => answers (doNack_media hh hr hty hd)
  case nackOther => exact fun hty => ⟨_, errRecord_reported s _, answers (doNack_operation hh hr hty)⟩
  case disc => exact fun num hhub hd hfree => answers (doDisc_latches hup hvc hd hguest hhub hfree num)
  case dack => exact fun hhub => answers (doDack_noted hup hvc hsrc hguest hhub)
  case accd => exact fun data hfirst hshort => answers (doAccd_incomplete hh rfl hfirst hshort)
  case accc => exact fun gid opseq count => answers (doAccc_credit hh gid opseq count)

end Sys2Proof.Machine
end

section
/-! PROOF. What the end of a partition's work leaves alone (R489, R579): HUB_CLU_STATE, the registers that say which clusters
and what state each partition has, the module's own state and the repair record. -/

namespace Sys2Proof.Machine

/-! ### Registers that stand -/

/-- HUB_CLU_STATE, and HUB_PARTp_CTL and the cluster mask of a partition. -/
def Standing (a : Nat) : Prop := a = rCluState ∨ ∃ p, p < 16 ∧ (a = rPartCtl p ∨ a = rPartClu p)

theorem standing_cluState : Standing rCluState := .inl rfl
theorem standing_partCtl {p : Nat} (hp : p < 16) : Standing (rPartCtl p) := .inr ⟨p, hp, .inl rfl⟩
theorem standing_partClu {p : Nat} (hp : p < 16) : Standing (rPartClu p) := .inr ⟨p, hp, .inr rfl⟩

/-- Where these registers lie. -/
theorem Standing.place {a : Nat} (h : Standing a) :
    a = 0x200000000030 ∨ 0x200000002000 ≤ a ∧ a < 0x200000003000 ∧ a % 0x100 < 0x10 := by
  rcases h with rfl | ⟨p, hp, rfl | rfl⟩
  · exact .inl rfl
  · unfold rPartCtl hubR
    omega
  · unfold rPartClu hubR
    omega

theorem not_standing_evtCtl : ¬ Standing rEvtCtl := fun h => by
  have := h.place
  unfold rEvtCtl hubR at this
  omega

theorem not_standing_evtStat : ¬ Standing rEvtStat := fun h => by
  have := h.place
  unfold rEvtStat hubR at this
  omega

theorem not_standing_thrSel (k : Nat) : ¬ Standing (rThrSel k) := fun h => by
  have := h.place
  unfold rThrSel hubR at this
  omega

theorem not_standing_jobStat : ¬ Standing rJobStat := fun h => by
  have := h.place
  unfold rJobStat hubR at this
  omega

theorem not_standing_slgStat (p : Nat) : ¬ Standing (rSlgStat p) := fun h => by
  have := h.place
  unfold rSlgStat hubR at this
  omega

theorem not_standing_slgTail (p : Nat) : ¬ Standing (rSlgTail p) := fun h => by
  have := h.place
  unfold rSlgTail hubR at this
  omega

theorem not_standing_slgOldest (p : Nat) : ¬ Standing (rSlgOldest p) := fun h => by
  have := h.place
  unfold rSlgOldest hubR at this
  omega

theorem not_standing_accFault (d : Nat) : ¬ Standing (rAccFault d) := fun h => by
  have := h.place
  unfold rAccFault accR at this
  omega

theorem not_standing_ringCtl (m n : Nat) : ¬ Standing (rRingCtl m n) := fun h => by
  have := h.place
  unfold rRingCtl atzR at this
  omega

theorem not_standing_fwBase (m : Nat) {k : Nat} (hk : k < 8) : ¬ Standing (rFwBase m k) := fun h => by
  have := h.place
  unfold rFwBase hubR at this
  omega

/-! ### The relation -/

/-- From `s` to `t` the clusters in service, every partition's clusters and state, the module's own state and both copies of
the repair record are as before. -/
structure Steady (s t : State) : Prop where
  regs : ∀ a, Standing a → t.reg a = s.reg a
  mod : t.mod = s.mod
  repairs : t.fabr.repA = s.fabr.repA ∧ t.fabr.repB = s.fabr.repB

theorem Steady.refl (s : State) : Steady s s := ⟨fun _ _ => rfl, rfl, rfl, rfl⟩

theorem Steady.trans {s t u : State} (h1 : Steady s t) (h2 : Steady t u) : Steady s u :=
  ⟨fun a ha => (h2.regs a ha).trans (h1.regs a ha), h2.mod.trans h1.mod, h2.repairs.1.trans h1.repairs.1,
    h2.repairs.2.trans h1.repairs.2⟩

theorem Steady.ite {p : Prop} [Decidable p] {s t u : State} (h1 : Steady s t) (h2 : Steady s u) :
    Steady s (if p then t else u) := by split <;> assumption

theorem Steady.foldl {α : Type} (f : State → α → State) (hf : ∀ s x, Steady s (f s x)) :
    ∀ (l : List α) (s : State), Steady s (l.foldl f s)
  | [], s => .refl s
  | x :: l, s => (hf s x).trans (Steady.foldl f hf l (f s x))

/-- A change of anything but registers, the module's own state and the fabric. -/
theorem Steady.of_eq {s t : State} (hregs : t.regs = s.regs) (hmod : t.mod = s.mod) (hfabr : t.fabr = s.fabr) : Steady s t :=
  ⟨fun a _ => by unfold State.reg; rw [hregs], hmod, by rw [hfabr], by rw [hfabr]⟩

theorem steady_setReg (s : State) {a : Nat} (ha : ¬ Standing a) (v : Word) : Steady s (s.setReg a v) := by
  refine ⟨fun b hb => ?_, rfl, rfl, rfl⟩
  have hne : b ≠ a := fun e => ha (e ▸ hb)
  rw [reg_setReg, if_neg hne]

theorem steady_setFld (s : State) {a : Nat} (ha : ¬ Standing a) (hi lo v : Nat) : Steady s (s.setFld a hi lo v) :=
  steady_setReg s ha _

theorem steady_setRBit (s : State) {a : Nat} (ha : ¬ Standing a) (i : Nat) (b : Bool) : Steady s (s.setRBit a i b) :=
  steady_setReg s ha _

theorem steady_capture (s : State) {a : Nat} (vbit : Nat) {f : State → State} (hf : Steady s (f s)) :
    Steady s (s.capture a vbit f) := .ite (.refl s) hf

theorem Reported.steady {s t : State} (h : Reported s t) : Steady s t := by
  refine ⟨fun a ha => h.regs a ?_ ?_ fun k _ => ?_, ?_, ?_, ?_⟩
  · exact fun e => not_standing_evtCtl (e ▸ ha)
  · exact fun e => not_standing_evtStat (e ▸ ha)
  · exact fun e => not_standing_thrSel k (e ▸ ha)
  all_goals rw [h.rest]

theorem OnlyMemory.steady {s t : State} (h : OnlyMemory s t) : Steady s t := by
  unfold OnlyMemory at h
  rw [h]
  exact .of_eq rfl rfl rfl

/-! ### What stands says which cluster a partition holds -/

theorem Steady.rbit {s t : State} (h : Steady s t) {a : Nat} (ha : Standing a) (i : Nat) : t.rbit a i = s.rbit a i := by
  unfold State.rbit
  rw [h.regs a ha]

theorem Steady.partState {s t : State} (h : Steady s t) {p : Nat} (hp : p < 16) : partState t p = partState s p := by
  unfold Machine.partState State.fld
  rw [h.regs _ (standing_partCtl hp)]

/-! ### Contexts and their jobs -/

theorem steady_setCtx (s : State) (p x : Nat) (c : Ctx) : Steady s (setCtx s p x c) := .of_eq rfl rfl rfl
theorem steady_setPart (s : State) (p : Nat) (q : Part) : Steady s (setPart s p q) := .of_eq rfl rfl rfl
theorem steady_setQueue (s : State) (q : Nat) (v : Queue) : Steady s (setQueue s q v) := .of_eq rfl rfl rfl
theorem steady_modStrmAt (s : State) (a : StreamId) (f : Stream → Stream) : Steady s (modStrmAt s a f) := steady_setCtx _ _ _ _

/-- A decision point changes contexts and partitions alone (R485). -/
theorem decide_rest (s : State) (p : Nat) :
    decide_ s p = { s with ctxs := (decide_ s p).ctxs, parts := (decide_ s p).parts } := by
  unfold decide_
  dsimp only
  split
  · rfl
  · split
    · rfl
    · split <;> rfl
    · rfl

theorem steady_decide (s : State) (p : Nat) : Steady s (decide_ s p) := by
  rw [decide_rest]
  exact .of_eq rfl rfl rfl

theorem steady_slgHoldUpdate (s : State) (p : Nat) : Steady s (slgHoldUpdate s p) :=
  steady_setRBit s (not_standing_slgStat p) _ _

theorem steady_slgStore (s : State) (p : Nat) (r : SlgRec) : Steady s (slgStore s p r) := by
  unfold slgStore
  refine Steady.trans ?_ (steady_slgHoldUpdate _ _)
  refine Steady.trans ?_ (steady_setReg _ (not_standing_slgOldest p) _)
  refine Steady.trans ?_ (steady_setPart _ _ _)
  exact (writeBytes_only _ _ _ _).steady.trans (steady_setReg _ (not_standing_slgTail p) _)

theorem steady_slgLostFlush (s : State) (p : Nat) : Steady s (slgLostFlush s p) :=
  .ite ((steady_setPart _ _ _).trans (steady_slgStore _ _ _)) (.refl s)

theorem steady_slgLose (s : State) (p : Nat) : Steady s (slgLose s p) := by
  unfold slgLose
  extract_lets n s1 q st s2
  have hlost : Steady s s1 :=
    (steady_setFld s (not_standing_slgStat p) _ _ _).trans (steady_setRBit _ (not_standing_slgStat p) _ _)
  have hpart : Steady s s2 := hlost.trans (steady_setPart _ _ _)
  exact .ite hpart (hpart.trans (event0_reported _ _ _ _ _).steady)

theorem steady_replaySee (s : State) (p : Nat) (r : SlgRec) : Steady s (replaySee s p r) := by
  unfold replaySee
  split
  · exact .ite (.of_eq rfl rfl rfl) (.refl s)
  · exact .refl s

theorem steady_slgWrite (s : State) (p : Nat) (r : SlgRec) : Steady s (slgWrite s p r) := by
  unfold slgWrite
  extract_lets seen flushed
  have hseen : Steady s seen := steady_replaySee s p r
  have hflushed : Steady s flushed := hseen.trans (steady_slgLostFlush _ _)
  refine .ite hseen (.ite ?_ ?_)
  · exact (hflushed.trans (steady_slgLose _ _)).trans (steady_slgHoldUpdate _ _)
  · exact hflushed.trans (steady_slgStore _ _ _)

theorem steady_jobEnd (s : State) (j : Job) (st progress err : Nat) : Steady s (jobEnd s j st progress err) := by
  have hstatus : Steady s (writeStatus s j st progress err) := .ite (.refl s) (hostWriteFor_reported _ _ _ _ _).steady
  unfold jobEnd
  refine hstatus.trans (Steady.trans ?_ (steady_setFld _ not_standing_jobStat _ _ _))
  exact .of_eq rfl rfl rfl

theorem steady_jobFinal (s : State) (j : Job) (st progress err : Nat) : Steady s (jobFinal s j st progress err) :=
  Steady.trans (.ite (steady_slgWrite _ _ _) (.refl s)) (steady_jobEnd _ _ _ _ _)

theorem steady_stepEnd (s : State) (p x st progress err : Nat) : Steady s (stepEnd s p x st progress err) := by
  unfold stepEnd
  split
  · exact .refl s
  · exact (steady_slgWrite _ _ _).trans (steady_jobEnd _ _ _ _ _)

theorem steady_settle (s : State) (p x : Nat) : Steady s (settle s p x) := by
  unfold settle
  extract_lets c s1 s2 q s3
  have hjob : Steady s s1 := .ite (steady_stepEnd _ _ _ _ _ _) (steady_stepEnd _ _ _ _ _ _)
  have hctx : Steady s s2 := hjob.trans (steady_setCtx _ _ _ _)
  have hpart : Steady s s3 := .ite (hctx.trans (steady_setPart _ _ _)) hctx
  exact .ite (hpart.trans (steady_decide _ _)) (.refl s)

theorem steady_streamFaultAt (s : State) (a : StreamId) (f : SFault) (op pc : Nat) : Steady s (streamFaultAt s a f op pc) :=
  (steady_setCtx _ _ _ _).trans (steady_settle _ _ _)

theorem steady_abortStep (s : State) (j : Job) (err : Nat) : Steady s (abortStep s j err) :=
  .ite (steady_jobFinal _ _ _ _ _) ((steady_jobFinal _ _ _ _ _).trans (emit_reported _ _).steady)

theorem steady_abortJob (err : Nat) (s : State) (j : Job) : Steady s (abortJob err s j) :=
  .ite (steady_abortStep _ _ _) (steady_jobFinal _ _ _ _ _)

theorem steady_dropRep (s : State) : Steady s (dropRep s) := by
  unfold dropRep
  split
  · exact .ite (.of_eq rfl rfl rfl) (.refl s)
  · exact .refl s

theorem steady_abortJobs (s : State) (p err : Nat) : Steady s (abortJobs s p err) :=
  (Steady.foldl _ (steady_abortJob err) _ _).trans (steady_dropRep _)

/-! ### Collectives and groups -/

theorem steady_setLnk (s : State) (l : Nat) (k : Lnk) : Steady s (setLnk s l k) := .of_eq rfl rfl rfl
theorem steady_send (s : State) (m : OutMsg) : Steady s (s.send m) := .of_eq rfl rfl rfl

theorem steady_sendFlit (s : State) (l ty seq : Nat) (pay : List Nat) : Steady s (sendFlit s l ty seq pay) := by
  unfold sendFlit
  refine Steady.trans ?_ (steady_send _ _)
  refine Steady.trans ?_ (steady_setLnk _ _ _)
  exact .of_eq rfl rfl rfl

theorem steady_sendData (s : State) (l : Nat) (t : TxFlit) : Steady s (sendData s l t) := by
  unfold sendData
  extract_lets k t1 s1
  have hkept : Steady s s1 := steady_setLnk _ _ _
  exact .ite (hkept.trans (steady_sendFlit _ _ _ _ _)) hkept

theorem steady_linkSend (s : State) (l : Nat) (t : TxFlit) (ty : Nat) (h : AccHdr) (data : List Nat) :
    Steady s (linkSend s l t ty h data) :=
  (steady_send _ _).trans (.foldl _ (fun s _ => steady_sendData s l _) _ _)

theorem OnlyLinks.steady {s t : State} (h : OnlyLinks s t) : Steady s t := by
  unfold OnlyLinks at h
  rw [h]
  exact ⟨fun _ _ => rfl, rfl, rfl, rfl⟩

theorem steady_sendAccd (s : State) (h : DieHdr) (v : Nat) : Steady s (sendAccd s h v) := by
  unfold sendAccd
  refine .ite (Steady.trans ?_ (sendDie_onlyLinks _ _ _ _).steady) (.of_eq rfl rfl rfl)
  exact .of_eq rfl rfl rfl

theorem steady_accSend (s : State) (p k u dst ty opseq off aux : Nat) (pois : Bool) (data : List Nat) :
    Steady s (accSend s p k u dst ty opseq off aux pois data) :=
  .ite (.refl s) (.ite (steady_linkSend _ _ _ _ _ _) (.foldl _ (fun s v => steady_sendAccd s _ v) _ _))

theorem steady_captAccFault (s : State) (d p k cause rank link strm ctx : Nat) :
    Steady s (captAccFault s d p k cause rank link strm ctx) :=
  steady_capture s _ (steady_setReg s (not_standing_accFault d) _)

theorem steady_dropColl (s : State) (c : Coll) : Steady s (dropColl s c) := .of_eq rfl rfl rfl

theorem steady_collFailAt (s : State) (d : Nat) (c : Coll) (cause rank link : Nat) :
    Steady s (collFailAt s d c cause rank link) := by
  unfold collFailAt
  extract_lets s1 lead s2 s3 s4 a
  have hranks : Steady s s2 := (steady_dropColl s c).trans (.foldl _ (fun s _ => steady_accSend s _ _ _ _ _ _ _ _ _ _) _ _)
  have hunits : Steady s s3 := hranks.trans (.foldl _ (fun s _ => (sendDie_onlyLinks s _ _ _).steady) _ _)
  have hcount : Steady s s4 := (hunits.trans (steady_captAccFault _ _ _ _ _ _ _ _ _)).trans (cntInc_reported _ _ _ _).steady
  split
  · exact (hcount.trans (steady_modStrmAt _ _ _)).trans (steady_streamFaultAt _ _ _ _ _)
  · exact hcount

theorem steady_collFail (s : State) (c : Coll) (cause rank link : Nat) : Steady s (collFail s c cause rank link) :=
  steady_collFailAt _ _ _ _ _ _

theorem steady_groupDown (s : State) (p k cause rank : Nat) : Steady s (groupDown s p k cause rank) := by
  unfold groupDown
  refine Steady.trans ?_ (steady_slgWrite _ _ _)
  refine Steady.trans ?_ (event0_reported _ _ _ _ _).steady
  exact (writeBytes_only _ _ _ _).steady.trans (writeBytes_only _ _ _ _).steady

theorem steady_failPartGroups (s : State) (p : Nat) : Steady s (failPartGroups s p) := by
  refine .foldl _ (fun _ _ => .ite ?_ (.refl _)) _ _
  exact (steady_groupDown _ _ _ _ _).trans (.foldl _ (fun s c => steady_collFail s c _ _ _) _ _)

/-! ### Pipelines, guest windows and contexts of a partition -/

theorem steady_faultPulls (s : State) (m n : Nat) : Steady s (faultPulls s m n) :=
  .foldl _ (fun _ _ => .foldl _ (fun s _ => .ite (steady_streamFaultAt _ _ _ _ _) (.refl s)) _ _) _ _

theorem steady_haltPipe (s : State) (m n st : Nat) : Steady s (haltPipe s m n st) := by
  unfold haltPipe
  refine Steady.trans ?_ (steady_faultPulls _ _ _)
  refine Steady.trans ?_ (steady_setFld _ (not_standing_ringCtl m n) _ _ _)
  refine Steady.trans ?_ (steady_setFld _ (not_standing_ringCtl m n) _ _ _)
  exact .of_eq rfl rfl rfl

theorem steady_failPipe (s : State) (m n cause : Nat) : Steady s (failPipe s m n cause) :=
  .ite (((steady_setFld s (not_standing_ringCtl m n) _ _ _).trans (steady_haltPipe _ _ _ _)).trans
    (event0_reported _ _ _ _ _).steady) (.refl s)

theorem steady_failPipesOf (s : State) (p : Nat) : Steady s (failPipesOf s p) :=
  .foldl _ (fun s _ => .ite (steady_failPipe _ _ _ _) (.refl s)) _ _

theorem steady_dropWindow (s : State) (m : Nat) {k : Nat} (hk : k < 8) (cause : Nat) : Steady s (dropWindow s m k cause) := by
  unfold dropWindow
  refine Steady.trans ?_ (event0_reported _ _ _ _ _).steady
  exact steady_setRBit s (not_standing_fwBase m hk) _ _

theorem steady_dropWindows (s : State) (cause : Nat) (f : Nat → Nat → Bool) : Steady s (dropWindows s cause f) :=
  .foldl _ (fun s _ => .ite (steady_dropWindow s _ (Nat.mod_lt _ (by decide)) cause) (.refl s)) _ _

theorem steady_loseContexts (s : State) (p : Nat) : Steady s (loseContexts s p) := by
  unfold loseContexts
  extract_lets s1 s2 q s3
  have hcolls : Steady s s1 := .foldl _ steady_dropColl _ _
  have hctxs : Steady s s2 :=
    (hcolls.trans (.foldl _ (fun s _ => steady_setCtx _ _ _ _) _ _)).trans (.foldl _ (fun s _ => steady_setQueue _ _ _) _ _)
  have hpart : Steady s s3 := hctxs.trans (steady_setPart _ _ _)
  clear_value s3
  exact hpart.trans (.of_eq rfl rfl rfl)

/-- The end of a partition's work (R489, R579). -/
theorem steady_endPartWork (s : State) (p : Nat) : Steady s (endPartWork s p) := by
  unfold endPartWork
  refine .ite ?_ (.refl s)
  extract_lets s1 s2
  have hcolls : Steady s s1 := (steady_failPipesOf s p).trans (.foldl _ (fun s c => steady_collFail s c _ _ _) _ _)
  have hlost : Steady s s2 := (hcolls.trans (steady_abortJobs _ _ _)).trans (steady_loseContexts _ _)
  exact hlost.trans (steady_setPart _ _ _)

end Sys2Proof.Machine
end

section
/-! PROOF. Faults of cores and clusters (R52, R568, R579, R588, R598): the repair record, a cluster's reset and its end, and
throttling. -/

namespace Sys2Proof.Machine

/-! ### The repair record (R596, R597) -/

/-- What is written is the copy in use. -/
theorem repairOf_repairWrite (s : State) (f : Repair → Repair) :
    repairOf (repairWrite s f) = { f (repairOf s) with gen := (repairOf s).gen + 1 } := by
  unfold repairWrite
  rcases ha : s.fabr.repA with _ | a <;> rcases hb : s.fabr.repB with _ | b
  · simp [repairOf, ha, hb]
  · simp [repairOf, ha, hb]
  · simp [repairOf, ha, hb]
  · by_cases hgen : a.gen < b.gen
    · have hne : a ≠ b := fun e => by simp [e] at hgen
      simp [repairOf, ha, hb, hgen, hne]
    · simp [repairOf, ha, hb, hgen]

theorem cluWord_retire (s : State) (c phys : Nat) (gone : Bool) (d : Nat) :
    cluWord (retire s c phys gone) d = if d = c then retireWord (cluWord s c) phys gone else cluWord s d := by
  unfold cluWord retire
  rw [repairOf_repairWrite]
  simp only [smGet_smMod]

theorem repairWrite_rest (s : State) (f : Repair → Repair) : repairWrite s f = { s with fabr := (repairWrite s f).fabr } := by
  unfold repairWrite
  dsimp only
  split <;> rfl

theorem retire_rest (s : State) (c phys : Nat) (gone : Bool) :
    retire s c phys gone = { s with fabr := (retire s c phys gone).fabr } := repairWrite_rest _ _

theorem Steady.cluWord {s t : State} (h : Steady s t) (c : Nat) : cluWord t c = cluWord s c := by
  unfold Machine.cluWord repairOf
  rw [h.repairs.1, h.repairs.2]

/-! ### HUB_CLU_STATE and the partition of a cluster -/

theorem rbit_setRBit_same (s : State) (a : Nat) {i : Nat} (hi : i < 64) (b : Bool) : (s.setRBit a i b).rbit a i = b := by
  unfold State.rbit
  rw [reg_setRBit, if_pos rfl, bit_setBit, if_pos rfl, decide_eq_true hi, Bool.true_and]

/-- Which partition holds a cluster follows from the partitions' registers. -/
theorem partOf_congr {s t : State} (hctl : ∀ p, p < 16 → t.reg (rPartCtl p) = s.reg (rPartCtl p))
    (hclu : ∀ p, p < 16 → t.reg (rPartClu p) = s.reg (rPartClu p)) (c : Nat) : partOf t c = partOf s c := by
  unfold partOf State.rbit State.fld
  refine List.find?_congr fun p hp => ?_
  rw [hctl p (List.mem_range.mp hp), hclu p (List.mem_range.mp hp)]

theorem Steady.partOf {s t : State} (h : Steady s t) (c : Nat) : partOf t c = partOf s c :=
  partOf_congr (fun _ hp => h.regs _ (standing_partCtl hp)) (fun _ hp => h.regs _ (standing_partClu hp)) c

theorem partOf_setCluState (s : State) (i : Nat) (b : Bool) (c : Nat) : partOf (s.setRBit rCluState i b) c = partOf s c := by
  refine partOf_congr (fun p _ => ?_) (fun p _ => ?_) c
  · have hne : rPartCtl p ≠ rCluState := by unfold rPartCtl rCluState hubR; omega
    rw [reg_setRBit, if_neg hne]
  · have hne : rPartClu p ≠ rCluState := by unfold rPartClu rCluState hubR; omega
    rw [reg_setRBit, if_neg hne]

/-! ### A cluster's reset begins (R579) -/

/-- The cluster is out of HUB_CLU_STATE, its stores are lost, the reset is counted and under way. -/
def resetUnderWay (s : State) (c : Nat) : State :=
  let t := cntInc (loseStores (s.setRBit rCluState c false) c) (0x6020 + c) 0 1
  { t with mod := { t.mod with crst := t.mod.crst ++ [c] } }

theorem counted_reported (s : State) (c : Nat) : Reported (loseStores (s.setRBit rCluState c false) c)
    (cntInc (loseStores (s.setRBit rCluState c false) c) (0x6020 + c) 0 1) := cntInc_reported _ _ _ _

theorem resetUnderWay_mod (s : State) (c : Nat) :
    (resetUnderWay s c).mod = { s.mod with crst := s.mod.crst ++ [c] } := by
  have hmod := (counted_reported s c).steady.mod
  unfold resetUnderWay
  simp only [hmod]
  rfl

theorem resetUnderWay_cluState (s : State) {c : Nat} (hc : c < 64) : (resetUnderWay s c).rbit rCluState c = false :=
  ((counted_reported s c).steady.rbit standing_cluState c).trans (rbit_setRBit_same s rCluState hc false)

theorem resetUnderWay_cluWord (s : State) (c d : Nat) : cluWord (resetUnderWay s c) d = cluWord s d :=
  (counted_reported s c).steady.cluWord d

theorem resetUnderWay_partOf (s : State) (c : Nat) : partOf (resetUnderWay s c) c = partOf s c :=
  ((counted_reported s c).steady.partOf c).trans (partOf_setCluState s c false c)

theorem resetUnderWay_data (s : State) (c : Nat) : (resetUnderWay s c).mem = s.mem ∧ (resetUnderWay s c).ctxs = s.ctxs := by
  have hrest := (counted_reported s c).rest
  unfold resetUnderWay
  rw [hrest]
  exact ⟨rfl, rfl⟩

theorem clusterReset_eq {s : State} {c : Nat} (h : s.mod.crst.contains c = false) :
    clusterReset s c = match partOf s c with
      | some p => endPartWork (resetUnderWay s c) p
      | none => resetUnderWay s c := by
  rw [← resetUnderWay_partOf s c, clusterReset, if_neg (by rw [h]; exact Bool.false_ne_true)]
  rfl

/-- A cluster that no partition holds takes no work along. -/
theorem clusterReset_free {s : State} {c : Nat} (h : s.mod.crst.contains c = false) (hfree : partOf s c = none) :
    clusterReset s c = resetUnderWay s c := by
  rw [clusterReset_eq h, hfree]

theorem clusterReset_steady {s : State} {c : Nat} (h : s.mod.crst.contains c = false) :
    Steady (resetUnderWay s c) (clusterReset s c) := by
  rw [clusterReset_eq h]
  split
  · exact steady_endPartWork _ _
  · exact .refl _

/-- The cluster has left service and is in reset; of the module's own state nothing else has changed. -/
structure InReset (s t : State) (c : Nat) : Prop where
  out : t.rbit rCluState c = false
  mod : t.mod = { s.mod with crst := s.mod.crst ++ [c] }
  words : ∀ d, cluWord t d = cluWord s d

theorem clusterReset_inReset {s : State} {c : Nat} (hc : c < 64) (h : s.mod.crst.contains c = false) :
    InReset s (clusterReset s c) c := by
  have hkeep := clusterReset_steady h
  refine ⟨?_, hkeep.mod.trans (resetUnderWay_mod s c), fun d => ?_⟩
  · exact (hkeep.rbit standing_cluState c).trans (resetUnderWay_cluState s hc)
  · exact (hkeep.cluWord d).trans (resetUnderWay_cluWord s c d)

theorem InReset.crst {s t : State} {c : Nat} (h : InReset s t c) : t.mod.crst = s.mod.crst ++ [c] := by rw [h.mod]

theorem resetUnderWay_rstCtl (s : State) (c : Nat) : (resetUnderWay s c).reg rRstCtl = s.reg rRstCtl := by
  refine ((counted_reported s c).regs rRstCtl (by decide) (by decide) fun k _ => ?_).trans ?_
  · unfold rRstCtl pwrR rThrSel hubR
    omega
  · exact (reg_setRBit s rCluState c rRstCtl false).trans (if_neg (by decide))

/-! ### A core fault with the spare free (R52, R598) -/

/-- The state in which the fault is counted, the core retired and the record written, before the reset. -/
def coreRetired (s : State) (c phys cause : Nat) : State :=
  let t := cntInc s (0x6000 + c) 0 1
  errRecord ((retire t c phys false).setRBit rCluState c false) (coreRecord t c phys cause 0x090A)

theorem coreFault_spare {s : State} {c : Nat} (hin : s.rbit rCluState c = true) (h : s.mod.crst.contains c = false)
    (hspare : spareFree s c = true) (phys cause : Nat) :
    coreFault s c phys cause = clusterReset (coreRetired s c phys cause) c := by
  unfold coreFault
  rw [if_neg (by rw [h]; exact Bool.false_ne_true), if_neg (by rw [hin]; exact Bool.false_ne_true.symm)]
  exact if_pos hspare

theorem coreRetired_rest (s : State) (c phys cause : Nat) :
    coreRetired s c phys cause = { s with regs := (coreRetired s c phys cause).regs, hub := (coreRetired s c phys cause).hub
                                          out := (coreRetired s c phys cause).out, fabr := (coreRetired s c phys cause).fabr } := by
  unfold coreRetired
  extract_lets t
  have ht : Reported s t := cntInc_reported _ _ _ _
  have hretire := retire_rest t c phys false
  have hrecord := (errRecord_reported ((retire t c phys false).setRBit rCluState c false) (coreRecord t c phys cause 0x090A)).rest
  rw [hrecord]
  simp only [State.setRBit, State.setReg]
  rw [hretire, ht.rest]

theorem coreRetired_data (s : State) (c phys cause : Nat) : (coreRetired s c phys cause).mod = s.mod ∧
    (coreRetired s c phys cause).mem = s.mem ∧ (coreRetired s c phys cause).ctxs = s.ctxs := by
  rw [coreRetired_rest]
  exact ⟨rfl, rfl, rfl⟩

theorem coreRetired_cluWord (s : State) (c phys cause d : Nat) :
    cluWord (coreRetired s c phys cause) d = if d = c then retireWord (cluWord s c) phys false else cluWord s d := by
  unfold coreRetired
  extract_lets t
  have ht : Steady s t := (cntInc_reported _ _ _ _).steady
  rw [(errRecord_reported _ _).steady.cluWord, ← ht.cluWord c, ← ht.cluWord d]
  exact cluWord_retire t c phys false d

theorem coreRetired_partOf (s : State) (c phys cause : Nat) : partOf (coreRetired s c phys cause) c = partOf s c := by
  unfold coreRetired
  extract_lets t
  have ht : Steady s t := (cntInc_reported _ _ _ _).steady
  rw [(errRecord_reported _ _).steady.partOf, partOf_setCluState, ← ht.partOf c, retire_rest]
  rfl

/-- What such a fault leaves: the cluster in reset, and the core retired in the repair record. -/
structure CoreReplaced (s t : State) (c phys : Nat) : Prop where
  out : t.rbit rCluState c = false
  crst : t.mod.crst = s.mod.crst ++ [c]
  word : cluWord t c = retireWord (cluWord s c) phys false
  others : ∀ d, d ≠ c → cluWord t d = cluWord s d

theorem coreFault_replaced {s : State} {c : Nat} (hc : c < 64) (hin : s.rbit rCluState c = true)
    (h : s.mod.crst.contains c = false) (hspare : spareFree s c = true) (phys cause : Nat) :
    CoreReplaced s (coreFault s c phys cause) c phys := by
  obtain ⟨hmod, -, -⟩ := coreRetired_data s c phys cause
  have hnew := (congrArg (fun m : Mod => m.crst.contains c) hmod).trans h
  have hreset := clusterReset_inReset hc hnew
  rw [coreFault_spare hin h hspare]
  refine ⟨hreset.out, by rw [hreset.crst, hmod], ?_, fun d hd => ?_⟩
  · rw [hreset.words, coreRetired_cluWord, if_pos rfl]
  · rw [hreset.words, coreRetired_cluWord, if_neg hd]

theorem coreFault_data {s : State} {c : Nat} (hin : s.rbit rCluState c = true)
    (h : s.mod.crst.contains c = false) (hspare : spareFree s c = true) (hfree : partOf s c = none) (phys cause : Nat) :
    (coreFault s c phys cause).mem = s.mem ∧ (coreFault s c phys cause).ctxs = s.ctxs := by
  obtain ⟨hmod, hmem, hctxs⟩ := coreRetired_data s c phys cause
  have hnew := (congrArg (fun m : Mod => m.crst.contains c) hmod).trans h
  rw [coreFault_spare hin h hspare, clusterReset_free hnew ((coreRetired_partOf s c phys cause).trans hfree)]
  obtain ⟨hmem', hctxs'⟩ := resetUnderWay_data (coreRetired s c phys cause) c
  exact ⟨hmem'.trans hmem, hctxs'.trans hctxs⟩

/-- Both reports of a failed core come down to its fault. -/
theorem coreReport_fault {s : State} (hup : s.up = true) {c core : Fin 32} {i : Instr}
    (hi : i = .coreEngineParity c core ∨ i = .tileWatchdog c core) :
    ∃ cause, exec i s = .next (coreFault s c (physOf s c core) cause) := by
  rcases hi with rfl | rfl
  · have hrun : doCoreEngineParity c core s = coreFault s c (physOf s c core) 1 := if_pos hup
    exact ⟨1, congrArg Host.Outcome.next hrun⟩
  · have hrun : doTileWatchdog c core s = coreFault s c (physOf s c core) 2 := if_pos hup
    exact ⟨2, congrArg Host.Outcome.next hrun⟩

/-! ### The commands of PWR_RST_CTL (R588) -/

theorem showBusy_rest (s : State) :
    showBusy s = { s with regs := (showBusy s).regs, mod := { s.mod with cmd := (showBusy s).mod.cmd } } := by
  unfold showBusy
  dsimp only
  split <;> rfl

theorem reg_showBusy (s : State) {a : Nat} (ha : a ≠ rRstCtl) : (showBusy s).reg a = s.reg a := by
  have hset : ∀ b, (s.setRBit rRstCtl 11 b).reg a = s.reg a := fun b => by rw [reg_setRBit, if_neg ha]
  unfold showBusy
  dsimp only
  split
  · exact hset _
  · exact hset _

theorem showBusy_busy {s : State} (h : rstBusy s = true) : showBusy s = s.setRBit rRstCtl 11 true := by
  simp [showBusy, h]

/-- PWR_RST_CTL names the cluster, and the command is in progress. -/
def resetNamed (s : State) (c : Nat) : State :=
  let t := s.setFld rRstCtl 6 2 c
  { t with mod := { t.mod with cmd := (1, c) } }

theorem doClusterReset_taken {s : State} {src : CmdSrc} {c : Nat} (hup : s.up = true) (hopen : rstClosed s src = false)
    (hin : s.rbit rCluState c = true) : doClusterReset src c s = showBusy (clusterReset (resetNamed s c) c) := by
  have htaken : ¬ (rstClosed s src = true ∨ s.rbit rCluState c = false) := by simp [hopen, hin]
  unfold doClusterReset
  rw [if_neg (by simp [hup]), if_neg htaken]
  rfl

theorem doClusterReset_refused {s : State} {src : CmdSrc} {c : Nat} (hup : s.up = true)
    (h : rstClosed s src = true ∨ s.rbit rCluState c = false) : doClusterReset src c s = s.setRBit rRstCtl 12 true := by
  unfold doClusterReset
  rw [if_neg (by simp [hup]), if_pos h]
  rfl

theorem cluState_ne_rstCtl : rCluState ≠ rRstCtl := by decide

theorem doClusterReset_inReset {s : State} {src : CmdSrc} {c : Nat} (hc : c < 64) (hup : s.up = true)
    (hopen : rstClosed s src = false) (hin : s.rbit rCluState c = true) (h : s.mod.crst.contains c = false) :
    (doClusterReset src c s).rbit rCluState c = false ∧ (doClusterReset src c s).mod.crst = s.mod.crst ++ [c] := by
  rw [doClusterReset_taken hup hopen hin]
  have hreset := clusterReset_inReset (s := resetNamed s c) hc h
  refine ⟨?_, ?_⟩
  · unfold State.rbit
    rw [reg_showBusy _ cluState_ne_rstCtl]
    exact hreset.out
  · rw [showBusy_rest]
    exact hreset.crst

/-- With no partition to end, the command names the cluster and is busy until its reset has ended. -/
theorem doClusterReset_free {s : State} {src : CmdSrc} {c : Nat} (hc : c < 32) (hup : s.up = true)
    (hopen : rstClosed s src = false) (hin : s.rbit rCluState c = true) (h : s.mod.crst.contains c = false)
    (hfree : partOf s c = none) :
    let t := doClusterReset src c s
    t.mem = s.mem ∧ t.ctxs = s.ctxs ∧ t.fld rRstCtl 6 2 = c ∧ t.rbit rRstCtl 11 = true ∧ t.mod.cmd = (1, c) := by
  have hfree' : partOf (resetNamed s c) c = none := by
    refine (partOf_congr (fun p _ => ?_) (fun p _ => ?_) c).trans hfree
    · have hne : rPartCtl p ≠ rRstCtl := by unfold rPartCtl rRstCtl hubR pwrR; omega
      exact (reg_setFld s rRstCtl 6 2 c _).trans (if_neg hne)
    · have hne : rPartClu p ≠ rRstCtl := by unfold rPartClu rRstCtl hubR pwrR; omega
      exact (reg_setFld s rRstCtl 6 2 c _).trans (if_neg hne)
  have hmod := resetUnderWay_mod (resetNamed s c) c
  have hbusy : rstBusy (resetUnderWay (resetNamed s c) c) = true := by
    unfold rstBusy
    rw [hmod]
    simp [resetNamed]
  have hreg : (resetUnderWay (resetNamed s c) c).reg rRstCtl = setBits (s.reg rRstCtl) 6 2 c :=
    (resetUnderWay_rstCtl _ c).trans ((reg_setFld s rRstCtl 6 2 c rRstCtl).trans (if_pos rfl))
  obtain ⟨hmem, hctxs⟩ := resetUnderWay_data (resetNamed s c) c
  intro t
  have ht : t = (resetUnderWay (resetNamed s c) c).setRBit rRstCtl 11 true :=
    (doClusterReset_taken hup hopen hin).trans (by rw [clusterReset_free (s := resetNamed s c) h hfree', showBusy_busy hbusy])
  rw [ht]
  refine ⟨hmem, hctxs, ?_, rbit_setRBit_same _ _ (by decide) _, congrArg Mod.cmd hmod⟩
  unfold State.fld
  rw [reg_setRBit, if_pos rfl, hreg, setBit, bits_setBits_other _ _ _ _ _ _ (by decide), bits_setBits_same _ _ _ _ (by decide)]
  exact Nat.mod_eq_of_lt hc

end Sys2Proof.Machine
end

section
/-! PROOF. The end of a cluster's reset (R579), sequencers that disagree (R489), an Accord unit's fault (R598), and fatal
errors of the hub (R593, R595). -/

namespace Sys2Proof.Machine

/-! ### A cluster comes back (R579) -/

theorem resumePart_rest (s : State) (c : Nat) :
    resumePart s c = { s with ctxs := (resumePart s c).ctxs, parts := (resumePart s c).parts } := by
  unfold resumePart
  split
  · split
    · rfl
    · split
      · split
        · rw [decide_rest]
          rfl
        · rfl
      · rfl
  · rfl

theorem resumePart_free {s : State} {c : Nat} (h : partOf s c = none) : resumePart s c = s := by
  unfold resumePart
  rw [h]

/-- The reset of a cluster is over: what came of it is forgotten. -/
def resetEnded (s : State) (c : Nat) : State :=
  { s with mod := { s.mod with
    crst := s.mod.crst.filter fun k => k ≠ c
    again := s.mod.again.filter fun f => f.clu ≠ c
    coreErr := s.mod.coreErr.filter fun k => k / 32 ≠ c } }

/-- With the self-test passed and no fault waiting, the cluster returns to service. -/
theorem doClusterResetDone_passed {s : State} {c : Nat} (hin : s.mod.crst.contains c = true)
    (hdie : s.fabr.gone.contains (c / 4) = false) (hnone : ∀ f, f ∈ s.mod.again → f.clu ≠ c) :
    doClusterResetDone c 0 s = showBusy (clusterBack (resetEnded s c) c) := by
  have hbad : ((List.range 33).filter fun i => bit (0 : BitVec 33) i && !bit (cluWord s c) i) = [] := by simp [bit]
  have hagain : (s.mod.again.filter fun f => f.clu = c) = [] := by
    simpa [List.filter_eq_nil_iff] using hnone
  unfold doClusterResetDone
  rw [if_pos hin]
  simp only [hbad, hagain, List.foldl_nil]
  rw [if_neg (by rw [hdie]; exact Bool.false_ne_true)]
  rfl

theorem clusterBack_rest (s : State) (c : Nat) : clusterBack s c =
    { s.setRBit rCluState c true with ctxs := (clusterBack s c).ctxs, parts := (clusterBack s c).parts } :=
  resumePart_rest _ _

theorem clusterBack_free {s : State} {c : Nat} (h : partOf s c = none) : clusterBack s c = s.setRBit rCluState c true :=
  resumePart_free ((partOf_setCluState s c true c).trans h)

theorem doClusterResetDone_back {s : State} {c : Nat} (hc : c < 64) (hin : s.mod.crst.contains c = true)
    (hdie : s.fabr.gone.contains (c / 4) = false) (hnone : ∀ f, f ∈ s.mod.again → f.clu ≠ c) :
    (doClusterResetDone c 0 s).rbit rCluState c = true ∧
      (doClusterResetDone c 0 s).mod.crst = s.mod.crst.filter (fun k => k ≠ c) ∧
      ∀ k, k ∈ (doClusterResetDone c 0 s).mod.coreErr → k / 32 ≠ c := by
  rw [doClusterResetDone_passed hin hdie hnone]
  refine ⟨?_, ?_⟩
  · unfold State.rbit
    rw [reg_showBusy _ cluState_ne_rstCtl, clusterBack_rest]
    exact rbit_setRBit_same (resetEnded s c) rCluState hc true
  · rw [showBusy_rest, clusterBack_rest]
    exact ⟨rfl, fun k hk => of_decide_eq_true (List.mem_filter.mp hk).2⟩

/-- With no partition to resume, nothing but registers and the module's own state changes. -/
theorem doClusterResetDone_free {s : State} {c : Nat} (hin : s.mod.crst.contains c = true)
    (hdie : s.fabr.gone.contains (c / 4) = false) (hnone : ∀ f, f ∈ s.mod.again → f.clu ≠ c) (hfree : partOf s c = none) :
    doClusterResetDone c 0 s =
      { s with regs := (doClusterResetDone c 0 s).regs, mod := (doClusterResetDone c 0 s).mod } := by
  rw [doClusterResetDone_passed hin hdie hnone, clusterBack_free (s := resetEnded s c) hfree, showBusy_rest]
  rfl

/-! ### Sequencers that disagree (R489, R598) -/

/-- The record of a disagreement (Table 15.3). -/
def disagreement (s : State) (p : Fin 16) (k : Strm) (pc : BitVec 32) (x : Nat) : ErrRec :=
  { code := 0x090C, cls := 3, die := leadCluster s p / 4, part := some p.val, ctx := x, unit := 1, index := leadCluster s p
    cause := strmNo k, strm := strmNo k, d0 := ((getCtx s p x).strm k).pc, d1 := pc.toNat }

/-- The partition is noted as under reset. -/
def resetNoted (s : State) (p : Nat) : State := { s with mod := { s.mod with prst := s.mod.prst ++ [p] } }

theorem doSequencerDisagreement_eq {s : State} {p : Fin 16} {x : Nat} (hsched : (getPart s p).sched = some x)
    (hstate : partState s p = 2) (hno : s.mod.prst.contains p.val = false) (k : Strm) (pc : BitVec 32) :
    doSequencerDisagreement p k pc s =
      disableBegin (resetNoted (errRecord s (disagreement s p k pc x)) p) p 1 0x46 false := by
  have hon : ¬ (partState s p ≠ 2 ∨ s.mod.prst.contains p.val = true) := by
    rw [hno]
    simp [hstate]
  have hrec := (errRecord_reported s (disagreement s p k pc x)).steady
  have hstate' : ¬ partState (errRecord s (disagreement s p k pc x)) p = 3 := by
    rw [hrec.partState p.isLt, hstate]
    decide
  unfold doSequencerDisagreement
  rw [hsched]
  dsimp only
  rw [if_neg hon]
  exact if_neg hstate'

/-- The partition is DISABLING with its cause, and no new tile begins. -/
def disabling (s : State) (p cause err : Nat) (leave : Bool) : State :=
  let t := (setPartState s p 3).setFld (rPartCtl p) 6 4 cause
  setPart t p { getPart t p with draining := true, cause := err, leave := leave }

theorem partState_disabling (s : State) (p cause err : Nat) (leave : Bool) :
    partState (disabling s p cause err leave) p = 3 := by
  have hreg : (disabling s p cause err leave).reg (rPartCtl p) =
      setBits (setBits (s.reg (rPartCtl p)) 3 2 3) 6 4 cause := by
    refine (reg_setFld _ (rPartCtl p) 6 4 cause _).trans ((if_pos rfl).trans ?_)
    exact congrArg (setBits · 6 4 cause) ((reg_setFld s (rPartCtl p) 3 2 3 _).trans (if_pos rfl))
  unfold partState State.fld
  rw [hreg, bits_setBits_other _ _ _ _ _ _ (by decide), bits_setBits_same _ _ _ _ (by decide)]
  rfl

theorem disableBegin_eq (s : State) (p cause err : Nat) (leave : Bool) : disableBegin s p cause err leave =
    dropWindows (failPipesOf (failPartGroups (disabling s p cause err leave) p) p) 2
      fun m k => winPart (disabling s p cause err leave) m k = p := rfl

theorem disableBegin_steady (s : State) (p cause err : Nat) (leave : Bool) :
    Steady (disabling s p cause err leave) (disableBegin s p cause err leave) := by
  rw [disableBegin_eq]
  exact ((steady_failPartGroups _ _).trans (steady_failPipesOf _ _)).trans (steady_dropWindows _ _ _)

theorem doSequencerDisagreement_disables {s : State} {p : Fin 16} {x : Nat} (hsched : (getPart s p).sched = some x)
    (hstate : partState s p = 2) (hno : s.mod.prst.contains p.val = false) (k : Strm) (pc : BitVec 32) :
    partState (doSequencerDisagreement p k pc s) p = 3 ∧
      (doSequencerDisagreement p k pc s).mod.prst = s.mod.prst ++ [p.val] := by
  have hrec := (errRecord_reported s (disagreement s p k pc x)).steady.mod
  have hkeep := disableBegin_steady (resetNoted (errRecord s (disagreement s p k pc x)) p) p 1 0x46 false
  rw [doSequencerDisagreement_eq hsched hstate hno]
  refine ⟨(hkeep.partState p.isLt).trans (partState_disabling _ _ _ _ _), ?_⟩
  rw [hkeep.mod]
  exact congrArg (fun m : Mod => m.prst ++ [p.val]) hrec

/-! #### Nothing of the partition beside its streams -/

theorem foldl_unchanged {α β : Type} {f : α → β → α} {l : List β} {a : α} (h : ∀ x, x ∈ l → f a x = a) : l.foldl f a = a := by
  induction l with
  | nil => rfl
  | cons x l ih => rw [List.foldl_cons, h x (by simp), ih fun y hy => h y (by simp [hy])]

/-- Groups, pipelines and guest windows look the same in both states. -/
structure SameEnds (s t : State) : Prop where
  data : t.mem = s.mem ∧ t.ent = s.ent ∧ t.pipes = s.pipes
  masks : ∀ p, p < 16 → t.reg (rPartClu p) = s.reg (rPartClu p)
  above : ∀ a, 0x200000006000 ≤ a → t.reg a = s.reg a
  guests : ∀ a, 0x200000000900 ≤ a → a < 0x200000001000 → t.reg a = s.reg a

theorem SameEnds.leadDie {s t : State} (h : SameEnds s t) {p : Nat} (hp : p < 16) : leadDie t p = leadDie s p := by
  unfold Machine.leadDie leadCluster partClusters State.rbit
  rw [h.masks p hp]

theorem SameEnds.gtab {s t : State} (h : SameEnds s t) {p : Nat} (hp : p < 16) :
    t.reg (rGtab (Machine.leadDie t p) p) = s.reg (rGtab (Machine.leadDie s p) p) := by
  rw [h.leadDie hp]
  refine h.above _ ?_
  unfold rGtab accR
  omega

theorem SameEnds.gtabCount {s t : State} (h : SameEnds s t) {p : Nat} (hp : p < 16) : gtabCount t p = gtabCount s p := by
  unfold Machine.gtabCount State.fld
  rw [h.gtab hp]

theorem SameEnds.grpRec {s t : State} (h : SameEnds s t) {p : Nat} (hp : p < 16) (k : Nat) : grpRec t p k = grpRec s p k := by
  obtain ⟨hmem, hent, -⟩ := h.data
  unfold Machine.grpRec grpAddr State.fld readNat readBytes
  rw [h.gtab hp, readByte_congr hmem hent]

theorem SameEnds.getPipe {s t : State} (h : SameEnds s t) (m n : Nat) : getPipe t m n = getPipe s m n := by
  obtain ⟨-, -, hpipes⟩ := h.data
  unfold Machine.getPipe
  rw [hpipes]

theorem SameEnds.running {s t : State} (h : SameEnds s t) (m n : Nat) : running t m n = running s m n := by
  unfold Machine.running ringState State.fld
  rw [h.above _ (by unfold rRingCtl atzR; omega)]

theorem SameEnds.guestIn {s t : State} (h : SameEnds s t) {m : Nat} (hm : m < 2) : guestIn t m = guestIn s m := by
  unfold Machine.guestIn State.rbit
  rw [h.guests _ (by unfold rFwCtl hubR; omega) (by unfold rFwCtl hubR; omega)]

theorem SameEnds.winValid {s t : State} (h : SameEnds s t) {m k : Nat} (hm : m < 2) (hk : k < 8) :
    winValid t m k = winValid s m k := by
  unfold Machine.winValid State.rbit
  rw [h.guests _ (by unfold rFwBase hubR; omega) (by unfold rFwBase hubR; omega)]

theorem SameEnds.winPart {s t : State} (h : SameEnds s t) {m k : Nat} (hm : m < 2) (hk : k < 8) :
    winPart t m k = winPart s m k := by
  unfold Machine.winPart State.fld
  rw [h.guests _ (by unfold rFwSize hubR; omega) (by unfold rFwSize hubR; omega)]

/-- Nothing of the partition ends but its streams: no ACTIVE group, no running pipeline, no valid guest window. -/
structure StreamsOnly (s : State) (p : Nat) : Prop where
  groups : ∀ g, g < gtabCount s p → gState (grpRec s p g) ≠ 2
  pipes : ∀ m n, m < 2 → n < 16 → running s m n = true → pPart (getPipe s m n) ≠ p
  windows : ∀ m n, m < 2 → n < 8 → guestIn s m = true → winValid s m n = true → winPart s m n ≠ p

theorem StreamsOnly.congr {s t : State} {p : Nat} (h : StreamsOnly s p) (hp : p < 16) (ht : SameEnds s t) : StreamsOnly t p := by
  refine ⟨fun g hg => ?_, fun m n hm hn => ?_, fun m n hm hn => ?_⟩
  · rw [ht.gtabCount hp] at hg
    rw [ht.grpRec hp]
    exact h.groups g hg
  · rw [ht.running, ht.getPipe]
    exact h.pipes m n hm hn
  · rw [ht.guestIn hm, ht.winValid hm hn, ht.winPart hm hn]
    exact h.windows m n hm hn

theorem failPartGroups_none {s : State} {p : Nat} (h : StreamsOnly s p) : failPartGroups s p = s :=
  foldl_unchanged fun k hk => if_neg (h.groups k (List.mem_range.mp hk))

theorem failPipesOf_none {s : State} {p : Nat} (h : StreamsOnly s p) : failPipesOf s p = s := by
  refine foldl_unchanged fun k hk => ?_
  have hk := List.mem_range.mp hk
  split
  · next hpart =>
    have hoff : ¬ running s (k / 16) (k % 16) = true := fun hrun => h.pipes _ _ (by omega) (by omega) hrun hpart
    exact if_neg hoff
  · rfl

theorem dropWindows_none {s : State} {p : Nat} (h : StreamsOnly s p) (cause : Nat) :
    dropWindows s cause (fun m k => winPart s m k = p) = s := by
  refine foldl_unchanged fun i hi => if_neg ?_
  have hi := List.mem_range.mp hi
  have hwin := h.windows (i / 8) (i % 8) (by omega) (by omega)
  simpa using hwin

theorem disableBegin_streamsOnly {s : State} {p : Nat} (cause err : Nat) (leave : Bool)
    (h : StreamsOnly (disabling s p cause err leave) p) : disableBegin s p cause err leave = disabling s p cause err leave := by
  rw [disableBegin_eq, failPartGroups_none h, failPipesOf_none h, dropWindows_none h]

theorem Reported.reg_above {s t : State} (h : Reported s t) {a : Nat} (ha : 0x200000006000 ≤ a) : t.reg a = s.reg a := by
  refine h.regs a ?_ ?_ fun k _ => ?_
  · unfold rEvtCtl hubR
    omega
  · unfold rEvtStat hubR
    omega
  · unfold rThrSel hubR
    omega

theorem Reported.reg_below {s t : State} (h : Reported s t) {a : Nat} (ha : a < 0x200000001000) : t.reg a = s.reg a := by
  refine h.regs a ?_ ?_ fun k _ => ?_
  · unfold rEvtCtl hubR
    omega
  · unfold rEvtStat hubR
    omega
  · unfold rThrSel hubR
    omega

theorem reg_disabling (s : State) (p cause err : Nat) (leave : Bool) {a : Nat} (ha : a ≠ rPartCtl p) :
    (disabling s p cause err leave).reg a = s.reg a :=
  (reg_setFld _ (rPartCtl p) 6 4 cause a).trans ((if_neg ha).trans ((reg_setFld s (rPartCtl p) 3 2 3 a).trans (if_neg ha)))

theorem sameEnds_disabling {s u : State} (h : Reported s u) {p : Nat} (hp : p < 16) (cause err : Nat) (leave : Bool) :
    SameEnds s (disabling (resetNoted u p) p cause err leave) := by
  refine ⟨?_, fun q hq => ?_, fun a ha => ?_, fun a hlo hhi => ?_⟩
  · rw [h.rest]
    exact ⟨rfl, rfl, rfl⟩
  · refine (reg_disabling _ _ _ _ _ ?_).trans (h.steady.regs _ (standing_partClu hq))
    unfold rPartClu rPartCtl hubR
    omega
  · refine (reg_disabling _ _ _ _ _ ?_).trans (h.reg_above ha)
    unfold rPartCtl hubR
    omega
  · refine (reg_disabling _ _ _ _ _ ?_).trans (h.reg_below hhi)
    unfold rPartCtl hubR
    omega

theorem disabling_rest (s : State) (p cause err : Nat) (leave : Bool) :
    let t := disabling (resetNoted s p) p cause err leave
    t = { s with regs := t.regs, parts := t.parts, mod := { s.mod with prst := s.mod.prst ++ [p] } } := rfl

/-- Where nothing of the partition but its streams ends, the partition's registers and state change beside the record. -/
theorem doSequencerDisagreement_alone {s : State} {p : Fin 16} {x : Nat} (hsched : (getPart s p).sched = some x)
    (hstate : partState s p = 2) (hno : s.mod.prst.contains p.val = false) (halone : StreamsOnly s p) (k : Strm)
    (pc : BitVec 32) : doSequencerDisagreement p k pc s =
      disabling (resetNoted (errRecord s (disagreement s p k pc x)) p) p 1 0x46 false := by
  have hends := sameEnds_disabling (errRecord_reported s (disagreement s p k pc x)) p.isLt 1 0x46 false
  rw [doSequencerDisagreement_eq hsched hstate hno]
  exact disableBegin_streamsOnly 1 0x46 false (halone.congr p.isLt hends)

/-! ### An Accord unit's fault (R598) -/

/-- The record of the fault, which comes first. -/
def unitFault (s : State) (d : Nat) : State := errRecord s { code := 0x090E, cls := 3, die := d, unit := 6, index := d }

/-- Collectives in flight of the partitions that hold clusters of die `d`. -/
def collsOn (s : State) (d : Nat) : List Coll :=
  s.acc.colls.filter fun c => (partClusters s c.part).any fun k => k / 4 = d

/-- The unit of die `d` is reset in state `t`: it holds no message of a stream, and no fingerprint of the partitions that the die
leads in `s`. -/
def unitReset (s t : State) (d : Nat) : State :=
  let lead := fun (x : FpRec) => decide (leadDie s x.part = d)
  let q := getQueue t (0x20 + d)
  setQueue { t with acc := { t.acc with
    early := []
    held := t.acc.held.filter fun x => !lead x
    wrong := t.acc.wrong.filter fun x => !lead x.1
    last := t.acc.last.filter fun x => !lead x
    inbuf := t.acc.inbuf.filter fun p => p.1 / 16 ≠ d ∧ p.1 % 16 ≠ d
    credit := t.acc.credit.filter fun p => p.1 / 16 ≠ d ∧ p.1 % 16 ≠ d
    sent := t.acc.sent.filter fun p => p.1 / 16 ≠ d ∧ p.1 % 16 ≠ d
    hold := t.acc.hold.filter fun p => accKey p.1 / 16 ≠ d ∧ accKey p.1 % 16 ≠ d } } (0x20 + d) (freshQueue q.cls q.base q.depth q.tmo)

theorem unitFault_acc (s : State) (d : Nat) : (unitFault s d).acc = s.acc := by
  rw [unitFault, (errRecord_reported _ _).rest]

theorem doAccordUnitFault_eq {s : State} {d : Nat} (hup : s.up = true) (hd : diePresent s d = true) :
    doAccordUnitFault d s =
      unitReset s ((collsOn s d).foldl (fun t c => collFailAt t d c 2 0xFFF 0x3F) (unitFault s d)) d := by
  have hon : ¬ ((!s.up) = true ∨ diePresent s d = false) := by simp [hup, hd]
  have hcolls : collsOn s d = (unitFault s d).acc.colls.filter fun c => (partClusters s c.part).any fun k => k / 4 = d := by
    rw [unitFault_acc, collsOn]
  rw [hcolls]
  unfold doAccordUnitFault unitReset unitFault
  dsimp only
  rw [if_neg hon]

theorem unitReset_rest (s t : State) (d : Nat) :
    unitReset s t d = { t with acc := (unitReset s t d).acc, queues := (unitReset s t d).queues } := rfl

theorem unitReset_colls (s t : State) (d : Nat) : (unitReset s t d).acc.colls = t.acc.colls := rfl

theorem unitReset_early (s t : State) (d : Nat) : (unitReset s t d).acc.early = [] := rfl

theorem unitReset_inbuf (s t : State) (d : Nat) {q : Nat × List Byte} (hq : q ∈ (unitReset s t d).acc.inbuf) :
    q.1 / 16 ≠ d ∧ q.1 % 16 ≠ d := of_decide_eq_true (List.mem_filter.mp hq).2

theorem collsOn_none {s : State} {d : Nat} (h : ∀ q, q ∈ s.acc.colls → ∀ k, k ∈ partClusters s q.part → k / 4 ≠ d) :
    collsOn s d = [] := by
  unfold collsOn
  rw [List.filter_eq_nil_iff]
  intro c hc
  simpa using h c hc

/-! ### Fatal errors of the hub (R593, R595) -/

theorem smGet_filter_key {α : Type} (d : α) (f : Nat × α → Bool) {k : Nat} (hk : ∀ v, f (k, v) = true) :
    ∀ m : SMap α, smGet d (m.filter f) k = smGet d m k
  | [] => rfl
  | (j, v) :: m => by
    by_cases hj : j = k
    · subst hj
      simp [hk, smGet]
    · by_cases hf : f (j, v) = true
      · simp [hf, smGet, hj, smGet_filter_key d f hk m]
      · simp [hf, smGet, hj, smGet_filter_key d f hk m]

theorem smGet_smSet_ne {α : Type} [DecidableEq α] (d e : α) (m : SMap α) {k j : Nat} (v : α) (h : j ≠ k) :
    smGet d (smSet e m k v) j = smGet d m j := by
  unfold smSet
  split
  · rw [smGet_smErase, if_neg h]
  · rw [smGet_smInsert, if_neg h]

theorem smGet_foldl_smSet {α : Type} [DecidableEq α] (d : α) {a : Nat} {key : Nat → Nat} (e v : Nat → α)
    {l : List Nat} (h : ∀ n, n ∈ l → key n ≠ a) (m : SMap α) :
    smGet d (l.foldl (fun m n => smSet (e n) m (key n) (v n)) m) a = smGet d m a := by
  induction l generalizing m with
  | nil => rfl
  | cons n l ih => rw [List.foldl_cons, ih fun k hk => h k (by simp [hk]), smGet_smSet_ne _ _ _ _ (h n (by simp)).symm]

/-- A warm reset keeps the registers of the always-on domain (R577). -/
theorem warmRegs_alwaysOn (s : State) {a : Nat} (hlo : 0x200000030000 ≤ a) (hhi : a < 0x200000040000) :
    smGet (regDefault a) (warmRegs s) a = s.reg a := by
  have hlnk : ∀ l, l ∈ List.range 48 → rLnkStat l ≠ a := fun l _ => by
    unfold rLnkStat lnkR
    omega
  have hshl : ∀ n, n ∈ List.range 2 → rShlStat n ≠ a := fun n hn => by
    have hn := List.mem_range.mp hn
    unfold rShlStat shlR
    omega
  have hsec : a ≠ rSecState := by
    unfold rSecState secR
    omega
  have hkeep : ∀ v : Word, decide ((0x200000030000 ≤ (a, v).1 ∧ (a, v).1 < 0x200000040000) ∨ (a, v).1 = rCapEpoch) = true :=
    fun v => decide_eq_true (.inl ⟨hlo, hhi⟩)
  unfold warmRegs
  dsimp only
  rw [smGet_foldl_smSet (key := rLnkStat) _ _ _ hlnk, smGet_foldl_smSet (key := rShlStat) _ _ _ hshl,
    smGet_smSet_ne _ _ _ _ hsec, smGet_filter_key _ _ hkeep]
  rfl

theorem foldl_regs {α : Type} {f : State → α → State} (hf : ∀ s x, (f s x).regs = s.regs) :
    ∀ (l : List α) (s : State), (l.foldl f s).regs = s.regs
  | [], _ => rfl
  | x :: l, s => (foldl_regs hf l (f s x)).trans (hf s x)

theorem sendFlit_regs (s : State) (l ty seq : Nat) (pay : List Nat) : (sendFlit s l ty seq pay).regs = s.regs := rfl

theorem sendDowns_regs (s : State) : (sendDowns s).regs = s.regs := by
  have hdown : ∀ s l, (sendDown s l).regs = s.regs := fun s l => foldl_regs (fun s _ => sendFlit_regs s l 4 0 []) _ _
  refine foldl_regs (fun s l => ?_) _ _
  split
  · exact hdown s l
  · rfl

/-- The fatal sequence without the automatic reset: the module holds, PWR_FATAL names the code, memory and contexts are gone. -/
theorem fatal_held {s : State} (h : s.rbit rRasCtl 0 = false) {r : ErrRec} {n : Nat} (hn : r.code % 256 = n) :
    (fatal s r).mod.phase = .halted ∧ (fatal s r).reg rFatal = put n 0 ||| put 1 8 ∧
      (fatal s r).mem = [] ∧ (fatal s r).ctxs = [] := by
  subst hn
  have hras : ((errRecord s { r with cls := 4 }).setReg rFatal (put (r.code % 256) 0 ||| put 1 8)).rbit rRasCtl 0 = false := by
    have hreg : (errRecord s { r with cls := 4 }).reg rRasCtl = s.reg rRasCtl := by
      refine (errRecord_reported _ _).regs rRasCtl (by decide) (by decide) fun k _ => ?_
      unfold rRasCtl rThrSel hubR
      omega
    unfold State.rbit at h ⊢
    rwa [reg_setReg, if_neg (by decide), hreg]
  have hheld : fatal s r = setPhase (wipe false (sendDowns
      ((errRecord s { r with cls := 4 }).setReg rFatal (put (r.code % 256) 0 ||| put 1 8)))) .halted := by
    unfold fatal
    dsimp only
    rw [hras]
    rfl
  rw [hheld]
  refine ⟨rfl, ?_, rfl, rfl⟩
  refine (warmRegs_alwaysOn _ (by decide) (by decide)).trans ?_
  unfold State.reg
  rw [sendDowns_regs]
  exact (reg_setReg _ rFatal rFatal _).trans (if_pos rfl)

end Sys2Proof.Machine
end

section
/-! PROOF. The obligation on contained faults and fatal errors. -/

namespace Sys2Proof.Machine

theorem doClusterThrottle_taken {s : State} {c : Nat} (hup : s.up = true) (hin : s.rbit rCluState c = true)
    (hslow : s.mod.slow.contains c = false) :
    doClusterThrottle c s = { s with mod := { s.mod with slow := s.mod.slow ++ [c] } } := if_pos ⟨hup, hin, hslow⟩

theorem doSecurityControllerFault_up {s : State} (hup : s.up = true) (v : Word) : doSecurityControllerFault v s =
    fatal s { code := 0x09F3, cls := 4, unit := 10, cause := bits v 7 0, d0 := bits v 63 8 } :=
  if_pos (by rw [hup, Bool.true_or])

theorem doHubSwitchUncorrectable_up {s : State} (hup : s.up = true) (vc port : Nat) : doHubSwitchUncorrectable vc port s =
    fatal s { code := 0x09F5, cls := 4, unit := 8, cause := vc, d0 := port } :=
  if_pos (by rw [hup, Bool.true_or])

/-- Settles O58: each fault comes down to the lemma about its own operation; what else a partition's work leaves alone is
`steady_endPartWork` and `disableBegin_steady`. -/
theorem faultsContained : Obligations.FaultsContained := by
  unfold Obligations.FaultsContained
  intro c s hup out dead
  have answers : ∀ {t u : State}, t = u → Host.Outcome.next t = (Host.Outcome.next u : Res) := congrArg _
  have hc64 : c.val < 64 := Nat.lt_trans c.isLt (by decide)
  refine ⟨?throttle, ?held, ?free, ?refused, rfl, ?back, ?backFree, ?disagree, ?disagreeAlone, ?unit, ?unitAlone, ?fatal⟩
  case throttle => exact fun hin hslow => answers (doClusterThrottle_taken hup hin hslow)
  case held =>
    refine fun hin hcrst => ⟨fun hspare core i hi => ?_, fun src hopen => ?_⟩
    · obtain ⟨cause, hrun⟩ := coreReport_fault hup hi
      have hfault := coreFault_replaced hc64 hin hcrst hspare (physOf s c core) cause
      exact ⟨_, hrun, hfault.out, hfault.crst, hfault.word⟩
    · exact ⟨_, rfl, doClusterReset_inReset hc64 hup hopen hin hcrst⟩
  case free =>
    refine fun hin hcrst hfree => ⟨fun hspare core i hi => ?_, fun src hopen => ?_⟩
    · obtain ⟨cause, hrun⟩ := coreReport_fault hup hi
      have hfault := coreFault_replaced hc64 hin hcrst hspare (physOf s c core) cause
      obtain ⟨hmem, hctxs⟩ := coreFault_data hin hcrst hspare hfree (physOf s c core) cause
      exact ⟨_, hrun, ⟨hfault.out, hfault.crst, hmem, hctxs⟩, hfault.word, hfault.others⟩
    · obtain ⟨hout, hin'⟩ := doClusterReset_inReset (src := src) hc64 hup hopen hin hcrst
      obtain ⟨hmem, hctxs, hfld, hbusy, hcmd⟩ := doClusterReset_free (src := src) c.isLt hup hopen hin hcrst hfree
      exact ⟨_, rfl, ⟨hout, hin', hmem, hctxs⟩, hfld, hbusy, hcmd⟩
  case refused => exact fun src h => answers (doClusterReset_refused hup h)
  case back =>
    intro hin hdie hnone
    obtain ⟨hback, hcrst, -⟩ := doClusterResetDone_back hc64 hin hdie hnone
    exact ⟨_, rfl, hback, hcrst⟩
  case backFree =>
    intro hin hdie hnone hfree
    obtain ⟨hback, hcrst, herr⟩ := doClusterResetDone_back hc64 hin hdie hnone
    exact ⟨_, rfl, doClusterResetDone_free hin hdie hnone hfree, hback, hcrst, herr⟩
  case disagree =>
    intro p k pc x hsched hstate hno
    exact ⟨_, rfl, doSequencerDisagreement_disables hsched hstate hno k pc⟩
  case disagreeAlone =>
    intro p k pc x hsched hstate hno hgroups hpipes hwindows
    have halone := doSequencerDisagreement_alone hsched hstate hno ⟨hgroups, hpipes, hwindows⟩ k pc
    exact ⟨errRecord s (disagreement s p k pc x), errRecord_reported _ _, _, answers halone, disabling_rest _ _ _ _ _,
      partState_disabling _ _ _ _ _⟩
  case unit =>
    intro d hd
    have hrun := doAccordUnitFault_eq hup hd
    exact ⟨_, answers hrun, unitReset_early _ _ _, fun q hq => unitReset_inbuf _ _ _ hq⟩
  case unitAlone =>
    intro d hd hcolls
    have hrun := doAccordUnitFault_eq hup hd
    rw [collsOn_none hcolls, List.foldl_nil] at hrun
    refine ⟨unitFault s d, errRecord_reported _ _, _, answers hrun, unitReset_rest _ _ _, ?_, unitReset_early _ _ _,
      fun q hq => unitReset_inbuf _ _ _ hq⟩
    exact (unitReset_colls s (unitFault s d) d).trans (congrArg AccSt.colls (unitFault_acc s d))
  case fatal =>
    refine fun hras => ⟨fun v => ?_, fun vc pt => ?_⟩
    · exact ⟨_, answers (doSecurityControllerFault_up hup v), fatal_held hras (by simp)⟩
    · exact ⟨_, answers (doHubSwitchUncorrectable_up hup _ _), fatal_held hras (by simp)⟩

end Sys2Proof.Machine
end

section
/-! PROOF. What the instructions of a stream share: one that completes at once, one that stops its stream (R124 to R127), and a
context that does not settle while a stream of it goes on. -/

namespace Sys2Proof.Machine

variable {s : State} {a : StreamId} {w : InstrWord} {op : Nat} {u : Uses} {extra : List (Option SFault)} {f : SFault}

theorem next_congr {t v : State} (h : t = v) : (Host.Outcome.next t : Res) = .next v := congrArg _ h

theorem fault_of_accepts (h : accepts s a w = true) : (ctxAt s a).fault = 0 := by
  simp only [accepts, Bool.and_eq_true, decide_eq_true_eq] at h
  simp_all

theorem sregOf_congr {t v : Stream} (h : t.regs = v.regs) (n : Nat) : sregOf t n = sregOf v n := by
  unfold sregOf
  rw [h]

theorem put_zero (v : Nat) : put v 0 = BitVec.ofNat 64 v := rfl

/-! ### Completion at once -/

/-- From `s` to `t` the instruction has completed: in the stream's own context nothing but the PC, the issue count and the
signal shows it. -/
structure PlainDone (s t : State) (a : StreamId) (w : InstrWord) : Prop where
  frame : OnlyStream s t a
  done : Completed s t a w ((strmAt s a).pc + 1)
  regs : (strmAt t a).regs = (strmAt s a).regs
  descs : (ctxAt t a).td = (ctxAt s a).td
  counters : ∀ n, bcOf (ctxAt t a) n = signalled s a w n

theorem completeNow_plain (w : InstrWord) (hsched : (getPart s a.part).sched = some a.ctx.val)
    (hn : (strmAt s a).pc + 1 < (strmAt s a).plen) :
    PlainDone s (completeNow s a w ((strmAt s a).pc + 1)) a w ∧ OnlyCtxs s (completeNow s a w ((strmAt s a).pc + 1)) := by
  obtain ⟨frame, rest, done, regs, descs, counters⟩ := completeNow_spec s a w _ hsched hn
  exact ⟨⟨frame, done, regs, descs, counters⟩, rest⟩

section SameContexts

variable {v t : State}

theorem ctxAt_congr (hv : v.ctxs = s.ctxs) (a : StreamId) : ctxAt v a = ctxAt s a := by
  unfold ctxAt getCtx
  rw [hv]

theorem strmAt_congr (hv : v.ctxs = s.ctxs) (a : StreamId) : strmAt v a = strmAt s a := by
  unfold strmAt
  rw [ctxAt_congr hv]

theorem OnlyStream.of_ctxs (hv : v.ctxs = s.ctxs) (h : OnlyStream v t a) : OnlyStream s t a := by
  obtain ⟨ctxs, strms, ctx⟩ := h
  rw [ctxAt_congr hv] at ctx
  exact ⟨fun k hk => (ctxs k hk).trans (by rw [hv]), fun k hk => (strms k hk).trans (by rw [ctxAt_congr hv]), ctx⟩

theorem Completed.of_ctxs {npc : Nat} (hv : v.ctxs = s.ctxs) (h : Completed v t a w npc) : Completed s t a w npc := by
  obtain ⟨pc, iseq, running, infl⟩ := h
  rw [strmAt_congr hv] at iseq infl
  exact ⟨pc, iseq, running, infl⟩

theorem signalled_congr (hv : v.ctxs = s.ctxs) (n : Nat) : signalled v a w n = signalled s a w n := by
  unfold signalled
  rw [ctxAt_congr hv]

/-- A completion seen from a state with the same contexts. -/
theorem PlainDone.of_ctxs (hv : v.ctxs = s.ctxs) (h : PlainDone v t a w) : PlainDone s t a w := by
  obtain ⟨frame, done, regs, descs, counters⟩ := h
  rw [strmAt_congr hv] at done regs
  rw [ctxAt_congr hv] at descs
  exact ⟨frame.of_ctxs hv, done.of_ctxs hv, regs, descs, fun n => (counters n).trans (signalled_congr hv n)⟩

theorem completeNow_plain_of_ctxs (w : InstrWord) (hv : v.ctxs = s.ctxs) (hsched : (getPart v a.part).sched = some a.ctx.val)
    (hn : (strmAt s a).pc + 1 < (strmAt s a).plen) :
    PlainDone s (completeNow v a w ((strmAt s a).pc + 1)) a w ∧ OnlyCtxs v (completeNow v a w ((strmAt s a).pc + 1)) := by
  rw [← strmAt_congr hv a] at hn ⊢
  obtain ⟨plain, rest⟩ := completeNow_plain w hsched hn
  exact ⟨plain.of_ctxs hv, rest⟩

end SameContexts

/-- A scalar instruction that is ready answers a state in which of the registers sD alone has changed. -/
theorem scalarOp_answers {g : State → Word} (h : Ready s a w op u extra) (hn : (strmAt s a).pc + 1 < (strmAt s a).plen) :
    ∃ t, (Host.Outcome.next (scalarOp a w op u extra g s) : Res) = .next t ∧ ScalarDone s t a w (g s) :=
  ⟨_, next_congr (withWord_ready h _), putD_spec s a w _ h.taken hn⟩

/-! ### Checks that pass -/

theorem firstFault_eq_none {l : List (Option SFault)} : firstFault l = none ↔ ∀ e, e ∈ l → e = none := by
  induction l with
  | nil => simp [firstFault]
  | cons e l ih => cases e <;> simp [firstFault, ih]

theorem need_eq_none {c : Bool} {code kind operand : Nat} : need c code kind operand = none ↔ c = true := by
  unfold need
  split <;> simp_all

/-- What a check of the word that passes says. -/
theorem Ready.checked {c : Bool} {code kind operand : Nat} (h : Ready s a w op u [need c code kind operand]) : c = true :=
  need_eq_none.mp (firstFault_eq_none.mp h.checks _ (List.mem_cons_of_mem _ (List.mem_singleton_self _)))

theorem hazard_idle (h : (strmAt s a).infl = []) (rd wr : List (Nat × Nat)) : hazard s a rd wr = false := by
  unfold hazard
  rw [h]
  rfl

/-- An instruction that is ready and waits for no earlier one goes on. -/
theorem withWordAfter_free {r115 : Bool} (hfree : r115 = false) (h : Ready s a w op u extra) (k : State → State) :
    withWordAfter s a w r115 op u extra k = k s := by
  rw [hfree]
  exact withWordAfter_ready h k

theorem drained_idle (h : (strmAt s a).infl = []) : drained s a = true := by
  unfold drained
  rw [h]
  rfl

/-! ### A context that goes on -/

theorem ctxDone_strm {c : Ctx} (h : ctxDone c = true) (k : Strm) :
    (c.strm k).infl = [] ∧ ((c.strm k).st = .ended ∨ (c.strm k).st = .faulted ∨ c.fault ≠ 0) := by
  have hk : c.strm k ∈ c.allStrms := by cases k <;> simp [Ctx.strm, Ctx.allStrms]
  unfold ctxDone at h
  rw [Bool.and_eq_true, List.all_eq_true] at h
  have hidle := h.2 _ hk
  simp only [Bool.and_eq_true, Bool.or_eq_true, List.isEmpty_iff, decide_eq_true_eq, or_assoc] at hidle
  exact ⟨hidle.1.1, hidle.2⟩

theorem ctxDone_of_issuing {c : Ctx} {k : Strm} (hfault : c.fault = 0) (hk : (c.strm k).st = .issuing) : ctxDone c = false := by
  by_contra h
  have := ctxDone_strm (Bool.not_eq_false _ ▸ h) k
  simp [hk, hfault] at this

theorem ctxDone_of_flight {c : Ctx} {k : Strm} (hk : (c.strm k).infl ≠ []) : ctxDone c = false := by
  by_contra h
  exact hk (ctxDone_strm (Bool.not_eq_false _ ▸ h) k).1

theorem settle_of_not_done {p x : Nat} (h : ctxDone (getCtx s p x) = false) : settle s p x = s := by
  unfold settle
  simp [h]

/-! ### A stream that stops -/

/-- The context's first fault has stopped stream `a`; the context has not settled yet. -/
def faultedState (s : State) (a : StreamId) (f : SFault) (op : Nat) : State :=
  setCtx s a.part a.ctx { (ctxAt s a).setStrm a.strm
    { strmAt s a with st := .faulted, wait := .none, fault := faultWord f a.ctx op (strmAt s a).pc } with fault := f.code }

theorem streamFault_eq (hfirst : (ctxAt s a).fault = 0) (f : SFault) (op : Nat) :
    streamFault s a f op = settle (faultedState s a f op) a.part a.ctx := by
  unfold streamFault streamFaultAt faultedState
  simp only [hfirst, if_true]
  rfl

theorem ctxAt_faultedState (s : State) (a : StreamId) (f : SFault) (op : Nat) :
    ctxAt (faultedState s a f op) a = { (ctxAt s a).setStrm a.strm { strmAt s a with
      st := .faulted, wait := .none, fault := faultWord f a.ctx op (strmAt s a).pc } with fault := f.code } :=
  getCtx_setCtx _ _ _ _

theorem strm_withFault (c : Ctx) (e : Nat) (k : Strm) : ({ c with fault := e } : Ctx).strm k = c.strm k := by cases k <;> rfl

theorem faultedState_stopped (s : State) (a : StreamId) (f : SFault) (op : Nat) : Stopped s (faultedState s a f op) a f op := by
  have hstrm : strmAt (faultedState s a f op) a = { strmAt s a with
      st := .faulted, wait := .none, fault := faultWord f a.ctx op (strmAt s a).pc } := by
    rw [strmAt, ctxAt_faultedState, strm_withFault, strm_setStrm]
  refine ⟨rfl, fun k hk => ?_, fun k hk => ?_, ?_, ?_, ?_⟩
  · rw [faultedState, smGet_setCtx, if_neg hk]
  · rw [ctxAt_faultedState, strm_withFault, strm_setStrm_ne _ _ hk]
  · rw [hstrm]
    exact ⟨rfl, rfl, rfl, rfl, rfl⟩
  · rw [hstrm]
    rfl
  · rw [ctxAt_faultedState]
    simp

theorem stops_of_eq {i : Instr} {v : State} (hi : exec i s = .next v) (hfirst : (ctxAt s a).fault = 0)
    (hv : v = streamFault s a f op) : Stops i s a f op :=
  ⟨_, faultedState_stopped s a f op, hi.trans (next_congr (hv.trans (streamFault_eq hfirst f op)))⟩

/-- An instruction whose fields pass and whose own check of the word fails stops its stream. -/
theorem withWord_faults (h : Ready s a w op u []) (k : State → State) :
    withWord s a w op u [some f] k = streamFault s a f op := by
  obtain ⟨taken, opcode, met, checks⟩ := h
  have hfields : fieldCheck w u = none := by
    cases hc : fieldCheck w u with
    | none => rfl
    | some g => rw [hc] at checks; cases checks
  simp [withWord, withWordAfter, taken, opcode, met, hfields, firstFault]

theorem need_eq_some {c : Bool} (hc : c = false) (code kind operand : Nat) :
    need c code kind operand = some ⟨code, kind, operand⟩ := by
  rw [hc]
  rfl

end Sys2Proof.Machine
end

section
/-! PROOF. The scalar instructions (Table 3.5, R107, R128), the branches (R129) and END (R132). -/

namespace Sys2Proof.Machine

/-- Settles O2: each instruction is `scalarOp` with its own function. -/
theorem scalarResults : Obligations.ScalarResults := by
  unfold Obligations.ScalarResults
  intro a w s hn x y imm n
  exact ⟨fun h => scalarOp_answers h hn, fun h => scalarOp_answers h hn, fun h => scalarOp_answers h hn,
    fun h => scalarOp_answers h hn, fun h => scalarOp_answers h hn, fun h => scalarOp_answers h hn,
    fun h => scalarOp_answers h hn⟩

/-- Settles O3: NOP is a bare completion, RDSPR the scalar instruction of `sprValue`. -/
theorem nopAndSpecialValues : Obligations.NopAndSpecialValues := by
  unfold Obligations.NopAndSpecialValues
  intro a w s hn
  refine ⟨fun h => ?nop, fun h => ?rdspr⟩
  case nop =>
    obtain ⟨plain, rest⟩ := completeNow_plain w (sched_of_accepts h.taken) hn
    exact ⟨_, next_congr (withWord_ready h _), plain.frame, rest, plain.done, sregOf_congr plain.regs, plain.descs, plain.counters⟩
  case rdspr =>
    obtain ⟨t, e, done⟩ := scalarOp_answers (g := fun s => sprValue s a (xF w 7 0)) h hn
    refine ⟨t, _, e, done, ?_⟩
    refine ⟨?_, ?_, ?_, ?_, ?_, ?_, ?_, ?_, ?_⟩ <;> intro hx <;> rw [hx] <;> rfl

/-! ### BR and LOOP -/

/-- The condition of BR as R129 lists it. -/
def brHolds (x y : Word) (n : Nat) : Prop :=
  if n = 0 then True else if n = 1 then x = y else if n = 2 then x ≠ y
    else if n = 3 then x.toNat < y.toNat else if n = 4 then y.toNat ≤ x.toNat
    else if n = 5 then x.toInt < y.toInt else y.toInt ≤ x.toInt

theorem brCond_iff (n : Nat) (x y : Word) : brCond n x y = true ↔ brHolds x y n := by
  unfold brCond brHolds
  split
  case h_7 h0 h1 h2 h3 h4 h5 => rw [if_neg h0, if_neg h1, if_neg h2, if_neg h3, if_neg h4, if_neg h5, decide_eq_true_eq]
  all_goals simp

theorem targetOk_iff (t : Stream) (w : InstrWord) : targetOk t w = true ↔ 0 ≤ brTarget t w ∧ brTarget t w < t.plen := by
  simp [targetOk]

theorem brTarget_toNat {t : Stream} (h : targetOk t w = true) :
    ((brTarget t w).toNat : Int) = brTarget t w ∧ (brTarget t w).toNat < t.plen := by
  have := (targetOk_iff t w).mp h
  omega

/-- Settles O4: each case is one branch of the instruction, a completion at the next PC or a stop. -/
theorem branchTargets : Obligations.BranchTargets := by
  unfold Obligations.BranchTargets
  intro a w s x y target inside cond br lp
  have hcond : ∀ n, brCond n (vA s a w) (vB s a w) = true ↔ cond n := fun n => brCond_iff n x y
  have hinside : targetOk (strmAt s a) w = true ↔ inside := targetOk_iff _ _
  refine ⟨fun h hin hnext => ?br, fun h hc hout => ?brOut, fun h hbad => ?brBad, fun h hin hnext => ?loop,
    fun h hc hout => ?loopOut, fun h hbad => ?loopBad⟩
  case br =>
    have hsched := sched_of_accepts h.taken
    by_cases hc : cond (xF w 3 0)
    · obtain ⟨htarget, hlt⟩ := brTarget_toNat (hinside.mpr (hin hc))
      have hdo : doBr a w s = completeNow s a w (brTarget (strmAt s a) w).toNat :=
        (withWord_ready h _).trans (by simp only [(hcond _).mpr hc, hinside.mpr (hin hc), if_true])
      obtain ⟨frame, rest, done, regs, td, counters⟩ := completeNow_spec s a w _ hsched hlt
      exact ⟨_, _, next_congr hdo, frame, rest, done, fun _ => htarget, fun hn => absurd hc hn, regs, td, counters⟩
    · have hdo : doBr a w s = completeNow s a w ((strmAt s a).pc + 1) :=
        (withWord_ready h _).trans (if_neg fun hb => hc ((hcond _).mp hb))
      obtain ⟨frame, rest, done, regs, td, counters⟩ := completeNow_spec s a w _ hsched (hnext hc)
      exact ⟨_, _, next_congr hdo, frame, rest, done, fun hb => absurd hb hc, fun _ => rfl, regs, td, counters⟩
  case brOut =>
    refine stops_of_eq rfl (fault_of_accepts h.taken) ((withWord_ready h _).trans ?_)
    exact (if_pos ((hcond _).mpr hc)).trans (if_neg fun hb => hout (hinside.mp hb))
  case brBad =>
    refine stops_of_eq rfl (fault_of_accepts h.taken) ?_
    have hneed := need_eq_some (decide_eq_false (Nat.not_le.mpr hbad)) 0x02 0 9
    exact (congrArg (fun e => withWord s a w 0x09 br [e] _) hneed).trans (withWord_faults h _)
  case loop =>
    by_cases hz : x - 1 = 0
    · have hdo : doLoop a w s = completeNow (modStrmAt s a fun t => setSreg t (iSa w) (x - 1)) a w ((strmAt s a).pc + 1) :=
        (withWord_ready h _).trans (if_pos hz)
      obtain ⟨frame, rest, done, regs, td, counters⟩ := setD_spec s a w (iSa w) (x - 1) _ h.taken (hnext hz)
      exact ⟨_, _, next_congr hdo, frame, rest, done, fun hn => absurd hz hn, fun _ => rfl, regs, td, counters⟩
    · obtain ⟨htarget, hlt⟩ := brTarget_toNat (hinside.mpr (hin hz))
      have hdo : doLoop a w s =
          completeNow (modStrmAt s a fun t => setSreg t (iSa w) (x - 1)) a w (brTarget (strmAt s a) w).toNat :=
        (withWord_ready h _).trans ((if_neg hz).trans (if_pos (hinside.mpr (hin hz))))
      obtain ⟨frame, rest, done, regs, td, counters⟩ := setD_spec s a w (iSa w) (x - 1) _ h.taken hlt
      exact ⟨_, _, next_congr hdo, frame, rest, done, fun _ => htarget, fun hn => absurd hn hz, regs, td, counters⟩
  case loopOut =>
    refine stops_of_eq rfl (fault_of_accepts h.taken) ((withWord_ready h _).trans ?_)
    exact (if_neg hc).trans (if_neg fun hb => hout (hinside.mp hb))
  case loopBad =>
    refine stops_of_eq rfl (fault_of_accepts h.taken) ?_
    have hneed := need_eq_some (decide_eq_false (not_not.mpr hbad)) 0x02 0 6
    exact (congrArg (fun e => withWord s a w 0x0A lp [e] _) hneed).trans (withWord_faults h _)

/-! ### END -/

theorem signal_off {s : State} {a : StreamId} {w : InstrWord} (h : iSen w = false) : signal s a w = s := by
  unfold signal
  simp [h]

/-- The state in which a stream has just ended, the signal left aside. -/
def endedState (s : State) (a : StreamId) (w : InstrWord) : State :=
  modStrmAt { s with trace := (traceIssue s a w).trace } a fun t =>
    { t with st := .ended, wait := .none, iseq := t.iseq + 1, hold := groupEnds s a w }

theorem doEnd_drained {s : State} {a : StreamId} {w : InstrWord} (h : Ready s a w 0x0F { tds := [] } [])
    (hidle : (strmAt s a).infl = []) (hsen : iSen w = false) : doEnd a w s = settle (endedState s a w) a.part a.ctx := by
  refine (withWord_ready h _).trans ((if_pos (drained_idle hidle)).trans ?_)
  dsimp only
  rw [signal_off hsen, traceIssue_rest]
  rfl

/-- Settles O9: the stream that still issues keeps the context from settling. -/
theorem endStopsStream : Obligations.EndStopsStream := by
  unfold Obligations.EndStopsStream
  rintro a w s h hidle hsen ⟨k, hk, hissuing⟩
  have hctx : ctxAt (endedState s a w) a = (ctxAt s a).setStrm a.strm { strmAt s a with
      st := .ended, wait := .none, iseq := (strmAt s a).iseq + 1, hold := groupEnds s a w } := ctxAt_modStrmAt _ _ _
  have hstrm : strmAt (endedState s a w) a = { strmAt s a with
      st := .ended, wait := .none, iseq := (strmAt s a).iseq + 1, hold := groupEnds s a w } := by
    rw [strmAt, hctx, strm_setStrm]
  have hsettle : settle (endedState s a w) a.part a.ctx = endedState s a w := by
    refine settle_of_not_done (ctxDone_of_issuing (k := k) ?_ ?_)
    · exact (congrArg Ctx.fault hctx).trans ((setStrm_fault _ _ _).trans (fault_of_accepts h.taken))
    · exact (congrArg (fun c => (Ctx.strm c k).st) hctx).trans (by rw [strm_setStrm_ne _ _ hk, hissuing])
  refine ⟨_, next_congr ((doEnd_drained h hidle hsen).trans hsettle), ⟨fun j hj => ?_, fun j hj => ?_, ?_⟩, rfl, ?_⟩
  · exact (smGet_setCtx _ _ _ _ _).trans (if_neg hj)
  · rw [hctx, strm_setStrm_ne _ _ hj]
  · rw [hctx]
    simp
  · rw [hstrm, hctx]
    simp [hidle]

end Sys2Proof.Machine
end

section
/-! PROOF. The instructions that read and write device memory for a scalar or for descriptors: LDS and STS (R130), DLD and DSET
(R131). -/

namespace Sys2Proof.Machine

variable {s : State} {a : StreamId} {w : InstrWord}

/-! ### Bytes read -/

theorem readBytes_getD (s : State) (x : Nat) {i n : Nat} (h : i < n) : (readBytes s x n).getD i 0 = readByte s (x + i) := by
  unfold readBytes
  simp [List.getD, h]

@[simp] theorem readBytes_cacheUse (s : State) (alloc wr : Bool) (as : List Nat) (x n : Nat) :
    readBytes (cacheUse s alloc wr as) x n = readBytes s x n := by
  simp [readBytes]

theorem getD_take_drop {α : Type} (l : List α) (d : α) (k : Nat) {i n : Nat} (h : i < n) :
    ((l.drop k).take n).getD i d = l.getD (k + i) d := by
  simp [List.getD, List.getElem?_drop, h]

/-- Lines that are not poisoned and have storage deliver their bytes to a read without verification. -/
theorem nread_clean {x n : Nat} (h : ∀ i, i < n → lstAt s (x + i) ≠ 2 ∧ addrNack s (x + i) = 0) :
    nread s x n = some (readBytes s x n) := by
  unfold nread
  rw [if_neg]
  simpa [span] using h

theorem vread_clean {x n : Nat} {r : Reader} (h : ReadsClean s (span x n) r) :
    vread s x n r = (cacheUse s (r.tag.agent = 1) false (span x n), some (readBytes s x n)) := by
  unfold ReadsClean at h
  unfold vread
  rw [h, ← readBytes_cacheUse s (r.tag.agent = 1) false (span x n)]
  rfl

theorem OnlyCtxs.readByte_eq {t : State} (h : OnlyCtxs s t) : readByte t = readByte s := by
  unfold OnlyCtxs at h
  exact readByte_congr (by rw [h]) (by rw [h])

/-- A byte of a word as it is stored. -/
theorem leBytes_word (v : Word) {i : Nat} (h : i < 8) : (leBytes 8 v.toNat).getD i 0 = v.extractLsb' (8 * i) 8 := by
  rw [leBytes_getD 8 _ _ h, BitVec.extractLsb', Nat.shiftRight_eq_div_pow, Nat.pow_mul]

theorem cacheUse_ctxs (s : State) (alloc wr : Bool) (as : List Nat) : (cacheUse s alloc wr as).ctxs = s.ctxs := by
  rw [cacheUse_eq]

theorem accepts_cacheUse (alloc wr : Bool) (as : List Nat) (h : accepts s a w = true) :
    accepts (cacheUse s alloc wr as) a w = true :=
  (accepts_of_fences w (onlyFences_cacheUse s a alloc wr as)).trans h

/-! ### LDS and STS -/

theorem ldsOk_true {x : Nat} (halign : x % 8 = 0) (hpart : rangeInPart s a.part x 8 = true) : ¬ ((!ldsOk s a x) = true) := by
  simp [ldsOk, halign, hpart]

/-- The state after LDS: its line used, the word in sD. -/
theorem doLds_clean (h : Ready s a w 0x0B { tds := [], sd := true, sa := true, x := 2 ^ 48 - 1 } [])
    (hidle : (strmAt s a).infl = []) (halign : ldsAddr s a w % 8 = 0) (hpart : rangeInPart s a.part (ldsAddr s a w) 8 = true)
    (hclean : ∀ i, i < 8 → lstAt s (ldsAddr s a w + i) ≠ 2 ∧ addrNack s (ldsAddr s a w + i) = 0) :
    doLds a w s = completeNow (putD (cacheUse s true false [ldsAddr s a w]) a w
      (BitVec.ofNat 64 (leNat (readBytes s (ldsAddr s a w) 8)))) a w ((strmAt s a).pc + 1) := by
  unfold doLds
  extract_lets ad
  refine (withWordAfter_free (hazard_idle hidle _ _) h _).trans ?_
  refine (if_neg (ldsOk_true halign hpart)).trans ?_
  rw [show nread s ad 8 = _ from nread_clean hclean]

/-- Memory after STS. -/
def stsState (s : State) (a : StreamId) (w : InstrWord) : State :=
  writeBytes s (ldsAddr s a w) (leBytes 8 (sregOf (strmAt s a) (iSb w)).toNat) (some (strmTag a (strmAt s a).iseq))

theorem doSts_ready (h : Ready s a w 0x0C { tds := [], sa := true, sb := true, x := 2 ^ 48 - 1 } [])
    (hidle : (strmAt s a).infl = []) (halign : ldsAddr s a w % 8 = 0) (hpart : rangeInPart s a.part (ldsAddr s a w) 8 = true) :
    doSts a w s = completeNow (stsState s a w) a w ((strmAt s a).pc + 1) := by
  unfold doSts
  extract_lets ad
  refine (withWordAfter_free (hazard_idle hidle _ _) h _).trans ?_
  exact if_neg (ldsOk_true halign hpart)

theorem stsState_only (s : State) (a : StreamId) (w : InstrWord) : OnlyMemory s (stsState s a w) := writeBytes_only _ _ _ _

theorem readByte_stsState (s : State) (a : StreamId) (w : InstrWord) (x : Nat) :
    readByte (stsState s a w) x = if ldsAddr s a w ≤ x ∧ x < ldsAddr s a w + 8 then
      (sregOf (strmAt s a) (iSb w)).extractLsb' (8 * (x - ldsAddr s a w)) 8 else readByte s x := by
  rw [stsState, readByte_writeBytes, leBytes_length]
  refine if_ctx_congr Iff.rfl (fun hx => ?_) fun _ => rfl
  exact leBytes_word _ (by omega)

theorem OnlyMemory.ctxs {t : State} (h : OnlyMemory s t) : t.ctxs = s.ctxs := by
  rw [h]

theorem OnlyMemory.parts {t : State} (h : OnlyMemory s t) : t.parts = s.parts := by
  rw [h]

theorem sched_congr {t : State} (h : t.parts = s.parts) (p : Nat) : (getPart t p).sched = (getPart s p).sched := by
  unfold getPart
  rw [h]

/-- Settles O5: the word that LDS delivers is read byte by byte, and STS writes each byte of sB. -/
theorem scalarMemory : Obligations.ScalarMemory := by
  unfold Obligations.ScalarMemory
  intro a w s hn ad halign hpart hidle
  refine ⟨fun h hclean => ?lds, fun h => ?sts⟩
  case lds =>
    have hstrm : strmAt (cacheUse s true false [ad]) a = strmAt s a := strmAt_congr (cacheUse_ctxs _ _ _ _) a
    have hdone := putD_spec (cacheUse s true false [ad]) a w (BitVec.ofNat 64 (leNat (readBytes s ad 8)))
      (accepts_cacheUse _ _ _ h.taken) (by rwa [hstrm])
    rw [hstrm] at hdone
    refine ⟨_, _, _, cacheUse_eq s true false [ad], next_congr (doLds_clean h hidle halign hpart hclean), hdone, fun i hi => ?_⟩
    rw [byte_of_leNat 64 _ i (by omega), readBytes_getD s ad hi]
  case sts =>
    have hmem := stsState_only s a w
    obtain ⟨plain, rest⟩ := completeNow_plain_of_ctxs w hmem.ctxs
      ((sched_congr hmem.parts _).trans (sched_of_accepts h.taken)) hn
    have hread := fun x => (congrFun rest.readByte_eq x).trans (readByte_stsState s a w x)
    refine ⟨_, next_congr (doSts_ready h hidle halign hpart), plain.frame, ?_, plain.done, plain.regs, plain.descs,
      plain.counters, fun i hi => ?_, fun x hx => ?_⟩
    · unfold OnlyCtxs at rest
      unfold OnlyMemory at hmem
      rw [rest, hmem]
    · rw [hread, if_pos (by change ad ≤ _ ∧ _ < ad + 8; omega)]
      exact congrArg (fun k => BitVec.extractLsb' (8 * k) 8 _) (Nat.add_sub_cancel_left ad i)
    · rw [hread, if_neg (by change ¬ (ad ≤ _ ∧ _ < ad + 8); omega)]

/-! ### DSET -/

/-- The fields that DSET selects (R131). -/
theorem dsetField_table : ∀ k ≤ 13, dsetField k =
    [(0, 48), (64, 32), (96, 32), (128, 32), (160, 32), (192, 32), (256, 32), (288, 32), (320, 32), (352, 32), (384, 48), (224, 32),
      (432, 16), (448, 12)].getD k (0, 0) ∧ 0 < (dsetField k).2 := by decide

/-- Every bit after a field of `n` bits from `lo` is written. -/
theorem bit_setBits_width (d : DescWord) {lo n v i : Nat} (hn : 0 < n) (hi : i < 512) :
    bit (setBits d (lo + n - 1) lo v) i = if lo ≤ i ∧ i < lo + n then v.testBit (i - lo) else bit d i := by
  have hwidth : lo + (lo + n - 1 - lo + 1) = lo + n := by omega
  unfold bit
  rw [getLsbD_setBits, hwidth, decide_eq_true hi, Bool.true_and]

/-- The context with one field of descriptor `k` written. -/
def fieldSet (k lo n v : Nat) (c : Ctx) : Ctx := { c with td := smMod 0 c.td k fun d => setBits d (lo + n - 1) lo v }

theorem doDset_fits {lo n : Nat} (h : Ready s a w 0x0E { tds := [2], sa := true, x := 15 } [need (xF w 3 0 ≤ 13) 0x02 0 9])
    (hfield : dsetField (xF w 3 0) = (lo, n)) (hfits : (sregOf (strmAt s a) (iSa w)).toNat < 2 ^ n) :
    doDset a w s = completeNow (modCtx s a.part a.ctx (fieldSet (iTd w 2) lo n (sregOf (strmAt s a) (iSa w)).toNat)) a w
      ((strmAt s a).pc + 1) := by
  refine (withWord_ready h _).trans ?_
  dsimp only
  rw [hfield]
  exact if_neg (Nat.not_le.mpr hfits)

/-! ### DLD -/

/-- The cache ways after DLD has read its block. -/
def dldRead (s : State) (a : StreamId) (w : InstrWord) : State :=
  cacheUse s ((strmTag a (strmAt s a).iseq).agent = 1) false (span (sregOf (strmAt s a) (iSa w)).toNat (64 * dldCount w))

/-- The context with the descriptors of a block loaded. -/
def descsLoaded (first n : Nat) (bs : List Byte) (c : Ctx) : Ctx := { c with td := putDescs c.td first bs n }

theorem doDld_clean (h : Ready s a w 0x0D { tds := [], sa := true, x := 0x1FFFF } [need (xF w 7 0 + dldCount w ≤ 256) 0x02 0 9])
    (hidle : (strmAt s a).infl = []) {x : Nat} (hx : (sregOf (strmAt s a) (iSa w)).toNat = x) (halign : x % 64 = 0)
    (hpart : rangeInPart s a.part x (64 * dldCount w) = true)
    (hclean : ReadsClean s (span x (64 * dldCount w)) ⟨strmTag a (strmAt s a).iseq, some a.part, 0xFFFFFFFF, 0⟩) :
    doDld a w s = completeNow (modCtx (dldRead s a w) a.part a.ctx
      (descsLoaded (xF w 7 0) (dldCount w) (readBytes s x (64 * dldCount w)))) a w ((strmAt s a).pc + 1) := by
  subst hx
  unfold doDld
  extract_lets ad n
  have hin : ¬ (ad % 64 ≠ 0 ∨ rangeInPart s a.part ad (64 * n) = false) :=
    not_or.mpr ⟨not_not.mpr halign, fun hb => absurd (hpart.symm.trans hb) nofun⟩
  refine (withWordAfter_free (hazard_idle hidle _ _) h _).trans ?_
  refine (if_neg hin).trans ?_
  rw [show vread s ad (64 * n) ⟨strmTag a (strmAt s a).iseq, some a.part, 0xFFFFFFFF, 0⟩ = _ from vread_clean hclean]
  rfl

/-- Settles O6: DSET completes over the table with one field written, DLD over the table with the block's descriptors. -/
theorem descriptorLoads : Obligations.DescriptorLoads := by
  unfold Obligations.DescriptorLoads
  intro a w s hn x
  refine ⟨fun h lo n hfield hfits => ?dset, fun h hidle halign hpart hclean => ?dld⟩
  case dset =>
    obtain ⟨htable, hwide⟩ := dsetField_table _ (of_decide_eq_true h.checked)
    have hf : dsetField (xF w 3 0) = (lo, n) := htable.trans hfield.symm
    rw [hf] at hwide
    obtain ⟨frame, rest, done, regs, descs, counters⟩ := modCtx_complete s a w ((strmAt s a).pc + 1) (fieldSet (iTd w 2) lo n x)
      (fun c => ⟨fun k => by cases k <;> rfl, rfl, rfl, rfl, rfl, rfl, rfl⟩) h.taken hn
    refine ⟨_, next_congr (doDset_fits h hf hfits), frame, rest, done, regs, counters, fun k hk => ?_, fun i hi => ?_⟩
    · rw [descs, fieldSet, smGet_smMod, if_neg hk]
    · rw [descs, fieldSet, smGet_smMod, if_pos rfl, bit_setBits_width _ hwide hi]
  case dld =>
    have hctxs : (dldRead s a w).ctxs = s.ctxs := cacheUse_ctxs _ _ _ _
    have hstrm : strmAt (dldRead s a w) a = strmAt s a := strmAt_congr hctxs a
    obtain ⟨frame, rest, done, regs, descs, counters⟩ := modCtx_complete (dldRead s a w) a w ((strmAt s a).pc + 1)
      (descsLoaded (xF w 7 0) (dldCount w) (readBytes s x (64 * dldCount w)))
      (fun c => ⟨fun k => by cases k <;> rfl, rfl, rfl, rfl, rfl, rfl, rfl⟩) (accepts_cacheUse _ _ _ h.taken) (by rwa [hstrm])
    have hget := putDescs_get (readBytes s x (64 * dldCount w)) (xF w 7 0) (dldCount w) (ctxAt s a).td
    rw [ctxAt_congr hctxs, descsLoaded] at descs
    refine ⟨_, next_congr (doDld_clean h hidle rfl halign hpart hclean), frame.of_ctxs hctxs, ?_, done.of_ctxs hctxs,
      regs.trans (by rw [hstrm]), fun n => (counters n).trans (signalled_congr hctxs n), fun k hk => ?_, fun i j hi hj => ?_⟩
    · unfold OnlyCtxs at rest
      unfold OnlyIssue
      rw [rest, dldRead, cacheUse_eq]
    · rw [descs, hget, if_neg (by omega)]
    · rw [descs, hget, if_pos (by omega), byte_of_leNat 512 _ j (by omega), getD_take_drop _ _ _ hj,
        readBytes_getD _ _ (by omega), Nat.add_sub_cancel_left, Nat.add_assoc]

end Sys2Proof.Machine
end

section
/-! PROOF. The SYNC instructions (R111, R135) and the STAT instructions that read counters and flags (R148, R149). -/

namespace Sys2Proof.Machine

variable {s v t : State} {a : StreamId} {w : InstrWord}

/-! ### Completion after an effect on the stream -/

theorem OnlyStream.trans (h : OnlyStream s v a) (g : OnlyStream v t a) : OnlyStream s t a := by
  obtain ⟨c1, c2, c3, c4, c5, c6⟩ := g.ctx
  obtain ⟨d1, d2, d3, d4, d5, d6⟩ := h.ctx
  exact ⟨fun k hk => (g.ctxs k hk).trans (h.ctxs k hk), fun k hk => (g.strms k hk).trans (h.strms k hk),
    c1.trans d1, c2.trans d2, c3.trans d3, c4.trans d4, c5.trans d5, c6.trans d6⟩

theorem onlyStream_modStrmAt (s : State) (a : StreamId) (f : Stream → Stream) : OnlyStream s (modStrmAt s a f) a := by
  refine ⟨fun k hk => (smGet_setCtx _ _ _ _ _).trans (if_neg hk), fun k hk => ?_, ?_⟩
  · rw [ctxAt_modStrmAt, strm_setStrm_ne _ _ hk]
  · rw [ctxAt_modStrmAt]
    simp

/-- From `s` to `v` an instruction at the PC has had its effect but has not completed: in contexts it has touched no more than
the stream's registers and the descriptors. -/
structure Effected (s v : State) (a : StreamId) : Prop where
  frame : OnlyStream s v a
  strm : (strmAt v a).pc = (strmAt s a).pc ∧ (strmAt v a).plen = (strmAt s a).plen ∧ (strmAt v a).iseq = (strmAt s a).iseq ∧
    (strmAt v a).infl = (strmAt s a).infl
  bc : (ctxAt v a).bc = (ctxAt s a).bc

theorem Effected.complete (h : Effected s v a) (w : InstrWord) (hsched : (getPart v a.part).sched = some a.ctx.val)
    (hn : (strmAt s a).pc + 1 < (strmAt s a).plen) {t : State} (ht : t = completeNow v a w ((strmAt s a).pc + 1)) :
    OnlyStream s t a ∧ OnlyCtxs v t ∧ Completed s t a w ((strmAt s a).pc + 1) ∧ (strmAt t a).regs = (strmAt v a).regs ∧
      (ctxAt t a).td = (ctxAt v a).td ∧ ∀ n, bcOf (ctxAt t a) n = signalled s a w n := by
  obtain ⟨frame, ⟨hpc, hplen, hiseq, hinfl⟩, hbc⟩ := h
  subst ht
  obtain ⟨frame', rest, done, regs, descs, counters⟩ := completeNow_spec v a w ((strmAt s a).pc + 1) hsched (by rwa [hplen])
  refine ⟨frame.trans frame', rest, ⟨done.pc, done.iseq.trans (by rw [hiseq]), done.running, done.infl.trans hinfl⟩, regs, descs,
    fun n => (counters n).trans ?_⟩
  unfold signalled bcOf
  rw [hbc]

/-- A write of scalar registers, whatever else outside contexts differs. -/
theorem effected_of_regs {f : Stream → Stream} (hf : ∀ t, (f t).pc = t.pc ∧ (f t).plen = t.plen ∧ (f t).iseq = t.iseq ∧
    (f t).infl = t.infl) (hv : v.ctxs = (modStrmAt s a f).ctxs) : Effected s v a := by
  have hsame : OnlyStream (modStrmAt s a f) v a := .of_ctxs hv ⟨fun _ _ => rfl, fun _ _ => rfl, rfl, rfl, rfl, rfl, rfl, rfl⟩
  refine ⟨(onlyStream_modStrmAt s a f).trans hsame, ?_, ?_⟩
  · rw [strmAt_congr hv, strmAt_modStrmAt]
    exact hf _
  · rw [ctxAt_congr hv, ctxAt_modStrmAt, setStrm_bc]

/-! ### Barrier counters -/

theorem orderedOp_idle (h : (strmAt s a).infl = []) (f : State → State) :
    orderedOp s a w f = completeNow (f s) a w ((strmAt s a).pc + 1) := if_pos (drained_idle h)

/-- The context with barrier counter `k` changed by `g`. -/
def counterChanged (k : Nat) (g : Half → Half) (c : Ctx) : Ctx := { c with bc := smSet 0 c.bc k (g (bcOf c k)) }

theorem bcOf_counterChanged (k : Nat) (g : Half → Half) (c : Ctx) (n : Nat) :
    bcOf (counterChanged k g c) n = if n = k then g (bcOf c k) else bcOf c n := smGet_smSet _ _ _ _ _

theorem add_ite_one (p : Prop) [Decidable p] (x : Half) : (if p then x + 1 else x) = x + if p then 1 else 0 := by
  split <;> simp

/-- An instruction that changes one counter completes: beside it only the signal's counter differs. -/
theorem counterChanged_complete (k : Nat) (g : Half → Half) (htaken : accepts s a w = true)
    (hn : (strmAt s a).pc + 1 < (strmAt s a).plen) {t : State}
    (ht : t = completeNow (modCtx s a.part a.ctx (counterChanged k g)) a w ((strmAt s a).pc + 1)) :
    OnlyStream s t a ∧ OnlyCtxs s t ∧ Completed s t a w ((strmAt s a).pc + 1) ∧ (strmAt t a).regs = (strmAt s a).regs ∧
      (ctxAt t a).td = (ctxAt s a).td ∧ ∀ n, bcOf (ctxAt t a) n =
        (if n = k then g (bcOf (ctxAt s a) k) else bcOf (ctxAt s a) n) + if iSen w = true ∧ n = iSbc w then 1 else 0 := by
  subst ht
  obtain ⟨frame, rest, done, regs, descs, counters⟩ := modCtx_complete s a w ((strmAt s a).pc + 1) (counterChanged k g)
    (fun c => ⟨fun k => by cases k <;> rfl, rfl, rfl, rfl, rfl, rfl, rfl⟩) htaken hn
  refine ⟨frame, rest, done, regs, descs, fun n => ?_⟩
  rw [counters, bcOf_counterChanged, add_ite_one]

/-- Settles O7: BCSET and BCINC change their counter, BCWAIT none. -/
theorem barrierCounters : Obligations.BarrierCounters := by
  unfold Obligations.BarrierCounters
  intro a w s hn hidle x done
  refine ⟨fun h => ?bcset, fun h => ?bcinc, fun h hmet => ?bcwait⟩
  case bcset =>
    exact ⟨_, next_congr ((withWord_ready h _).trans (orderedOp_idle hidle _)), counterChanged_complete _ (fun _ => x) h.taken hn rfl⟩
  case bcinc =>
    have hadd : bcincEffect s a w = modCtx s a.part a.ctx (counterChanged (xF w 5 0) (· + BitVec.ofNat 32 (xF w 23 8))) :=
      bcAdd_scheduled (sched_of_accepts h.taken) _ _
    exact ⟨_, next_congr ((withWord_ready h _).trans (orderedOp_idle hidle _)),
      counterChanged_complete _ _ h.taken hn (congrArg (completeNow · a w _) hadd)⟩
  case bcwait =>
    obtain ⟨plain, rest⟩ := completeNow_plain w (sched_of_accepts h.taken) hn
    refine ⟨_, next_congr ((withWord_ready h _).trans (if_pos (decide_eq_true hmet))), plain.frame, rest, plain.done, plain.regs,
      plain.descs, fun n => ?_⟩
    have hsame : (if n = xF w 5 0 then bcOf (ctxAt s a) (xF w 5 0) else bcOf (ctxAt s a) n) = bcOf (ctxAt s a) n :=
      ite_eq_right_iff.mpr fun hk => by rw [hk]
    rw [plain.counters, signalled, add_ite_one, hsame]

/-! ### Fences and events -/

/-- EVENT completes from the state that holds its record. -/
theorem event_complete (hsched : (getPart s a.part).sched = some a.ctx.val) (hn : (strmAt s a).pc + 1 < (strmAt s a).plen) :
    let e := eventEffect s a w (vA s a w) (strmAt s a).iseq
    PlainDone e (completeNow e a w ((strmAt s a).pc + 1)) a w ∧ OnlyCtxs e (completeNow e a w ((strmAt s a).pc + 1)) := by
  intro e
  have hhub : HubOnly s e := emit_hub _ _
  unfold HubOnly at hhub
  have hstrm : strmAt e a = strmAt s a := strmAt_congr (by rw [hhub]) a
  have hparts : e.parts = s.parts := by rw [hhub]
  rw [← hstrm] at hn ⊢
  exact completeNow_plain w ((sched_congr hparts _).trans hsched) hn

/-- Settles O8: the fences are bare completions, IFLUSH drops the buffer afterwards, EVENT completes over its record. -/
theorem fencesAndEvents : Obligations.FencesAndEvents := by
  unfold Obligations.FencesAndEvents
  intro a w s hn done
  refine ⟨fun h hidle => ?fence, fun h hidle => ?gfence, fun h => ?iflush, fun h hidle => ?event⟩
  case fence =>
    obtain ⟨plain, rest⟩ := completeNow_plain w (sched_of_accepts h.taken) hn
    exact ⟨_, next_congr ((withWord_ready h _).trans (if_pos (drained_idle hidle))), plain.frame, rest, plain.done, plain.regs,
      plain.descs, plain.counters⟩
  case gfence =>
    obtain ⟨plain, rest⟩ := completeNow_plain w (sched_of_accepts h.taken) hn
    exact ⟨_, next_congr ((withWord_ready h _).trans (if_pos (drained_idle hidle))), plain.frame, rest, plain.done, plain.regs,
      plain.descs, plain.counters⟩
  case iflush =>
    obtain ⟨⟨frame, done, regs, descs, counters⟩, rest⟩ := completeNow_plain w (sched_of_accepts h.taken) hn
    refine ⟨_, next_congr (withWord_ready h _), ⟨frame.trans (onlyStream_modStrmAt _ _ _), ?_, ?_, ?_, ?_, fun n => ?_⟩, ?_⟩
    · unfold OnlyCtxs at rest ⊢
      rw [rest]
      rfl
    · refine ⟨?_, ?_, ?_, ?_⟩ <;> rw [strmAt_modStrmAt]
      exacts [done.pc, done.iseq, done.running, done.infl]
    · rw [strmAt_modStrmAt]
      exact regs
    · rw [ctxAt_modStrmAt, setStrm_td]
      exact descs
    · rw [ctxAt_modStrmAt, bcOf, setStrm_bc]
      exact counters n
    · rw [strmAt_modStrmAt]
  case event =>
    obtain ⟨plain, rest⟩ := event_complete (sched_of_accepts h.taken) hn
    exact ⟨_, next_congr ((withWord_ready h _).trans (orderedOp_idle hidle _)), plain.frame, rest, plain.done, plain.regs,
      plain.descs, plain.counters⟩

/-! ### CNTRD and FLAGRD -/

theorem clearFlags_rest (k : Nat) (l : List Nat) (s : State) :
    l.foldl (fun s c => setFlagRec s c k noFlags) s =
      { s with flags := (l.foldl (fun s c => setFlagRec s c k noFlags) s).flags } := by
  induction l generalizing s with
  | nil => rfl
  | cons c l ih =>
    rw [List.foldl_cons, ih]
    rfl

theorem flagRec_setFlagRec (s : State) (r : FlagRec) {c d j k : Nat} (hj : j < 4) (hk : k < 4) :
    flagRec (setFlagRec s d k r) c j = if c = d ∧ j = k then r else flagRec s c j := by
  unfold flagRec setFlagRec
  rw [smGet_smSet]
  refine if_congr ?_ rfl rfl
  omega

theorem flagRec_clearFlags {k : Nat} (hk : k < 4) (l : List Nat) (s : State) {c j : Nat} (hj : j < 4) :
    flagRec (l.foldl (fun s c => setFlagRec s c k noFlags) s) c j = if c ∈ l ∧ j = k then noFlags else flagRec s c j := by
  induction l generalizing s with
  | nil => simp
  | cons d l ih =>
    rw [List.foldl_cons, ih, flagRec_setFlagRec _ _ hj hk]
    by_cases hd : c = d <;> by_cases hl : c ∈ l <;> by_cases he : j = k <;> simp [hd, hl, he]

theorem mem_partClusters {p c : Nat} : c ∈ partClusters s p ↔ c < 32 ∧ s.rbit (rPartClu p) c = true := by
  simp [partClusters]

theorem strmNo_lt (k : Strm) : strmNo k < 4 := by cases k <;> decide

/-- What FLAGRD writes to its stream's registers. -/
def flagsRead (w : InstrWord) (r : FlagRec) (t : Stream) : Stream :=
  setSreg (setSreg t (iSd w) (flagWord r)) (iSd w + 1) (flagPos r)

/-- The state after FLAGRD, which has not completed. -/
def flagrdState (s : State) (a : StreamId) (w : InstrWord) : State :=
  let s1 := modStrmAt s a (flagsRead w (partFlags s a.part (strmNo a.strm)))
  if xF w 0 0 = 1 then clearPartFlags s1 a.part (strmNo a.strm) else s1

theorem flagrdState_rest (s : State) (a : StreamId) (w : InstrWord) : flagrdState s a w =
    { modStrmAt s a (flagsRead w (partFlags s a.part (strmNo a.strm))) with flags := (flagrdState s a w).flags } := by
  unfold flagrdState
  extract_lets s1
  split
  · exact clearFlags_rest _ _ _
  · rfl

theorem flagrdState_kept (h : xF w 0 0 = 0) : (flagrdState s a w).flags = s.flags := by
  unfold flagrdState
  simp only [h]
  rfl

theorem flagRec_flagrdState (h : xF w 0 0 = 1) {c k : Nat} (hc : c < 32) (hk : k < 4) : flagRec (flagrdState s a w) c k =
    if s.rbit (rPartClu a.part) c = true ∧ k = strmNo a.strm then noFlags else flagRec s c k := by
  unfold flagrdState
  extract_lets s1
  rw [if_pos h, clearPartFlags, flagRec_clearFlags (strmNo_lt _) _ _ hk]
  refine if_congr (and_congr_left' ?_) rfl rfl
  exact mem_partClusters.trans (and_iff_right hc)

theorem flagrdState_ctxs (s : State) (a : StreamId) (w : InstrWord) :
    (flagrdState s a w).ctxs = (modStrmAt s a (flagsRead w (partFlags s a.part (strmNo a.strm)))).ctxs := by
  rw [flagrdState_rest]

theorem flagrdState_effected (s : State) (a : StreamId) (w : InstrWord) : Effected s (flagrdState s a w) a := by
  refine effected_of_regs (fun t => ?_) (flagrdState_ctxs s a w)
  obtain ⟨pc1, plen1, iseq1, infl1⟩ := setSreg_pc t (iSd w) (flagWord (partFlags s a.part (strmNo a.strm)))
  obtain ⟨pc2, plen2, iseq2, infl2⟩ := setSreg_pc (setSreg t (iSd w) (flagWord (partFlags s a.part (strmNo a.strm)))) (iSd w + 1)
    (flagPos (partFlags s a.part (strmNo a.strm)))
  exact ⟨pc2.trans pc1, plen2.trans plen1, iseq2.trans iseq1, infl2.trans infl1⟩

/-- Settles O10: CNTRD is a scalar instruction with the counter's value, FLAGRD completes over its two registers. -/
theorem counterAndFlagReads : Obligations.CounterAndFlagReads := by
  unfold Obligations.CounterAndFlagReads
  intro a w s hn i
  refine ⟨fun h hown => ?cntrd, fun h hidle => ?flagrd⟩
  case cntrd =>
    have hread : ¬ (!cntOwned s a.part (i % 0x8000)) = true := by simp [hown]
    have hdo : doCntrd a w s = _ := (withWord_ready h _).trans (if_neg hread)
    refine ⟨_, next_congr (hdo.trans ?_), putD_spec s a w _ h.taken hn⟩
    refine congrArg (fun v => completeNow (putD s a w v) a w ((strmAt s a).pc + 1)) ?_
    refine if_ctx_congr Iff.rfl (fun hi => ?_) fun _ => rfl
    rw [Nat.mod_eq_of_lt hi]
  case flagrd =>
    have hsd : 1 ≤ iSd w ∧ iSd w ≤ 30 := by simpa using h.checked
    have hdo : doFlagrd a w s = completeNow (flagrdState s a w) a w ((strmAt s a).pc + 1) :=
      (withWord_ready h _).trans (if_pos (drained_idle hidle))
    have hrest := flagrdState_rest s a w
    have hctxs := flagrdState_ctxs s a w
    have hparts : (flagrdState s a w).parts = s.parts := by
      rw [hrest]
      rfl
    have hsched := (sched_congr hparts a.part).trans (sched_of_accepts h.taken)
    obtain ⟨frame, rest, done, regs, descs, counters⟩ := (flagrdState_effected s a w).complete w hsched hn rfl
    have hflags : (completeNow (flagrdState s a w) a w ((strmAt s a).pc + 1)).flags = (flagrdState s a w).flags := by rw [rest]
    refine ⟨_, next_congr hdo, frame, ?_, done, fun n => ?_, ?_, counters, fun hx => ?_, fun hx c k hc hk => ?_⟩
    · unfold OnlyCtxs at rest
      rw [rest, hrest]
      rfl
    · rw [sregOf_congr regs, strmAt_congr hctxs, strmAt_modStrmAt, flagsRead, sregOf_setSreg, sregOf_setSreg]
      have h1 : iSd w + 1 ≠ 0 := Nat.succ_ne_zero _
      have h2 : iSd w ≠ 0 := by omega
      by_cases hn1 : n = iSd w + 1
      · simp [hn1]
      · simp [hn1, h2]
    · rw [descs, ctxAt_congr hctxs, ctxAt_modStrmAt, setStrm_td]
    · rw [hflags, flagrdState_kept hx]
    · refine Eq.trans ?_ (flagRec_flagrdState hx hc (by omega))
      unfold flagRec
      rw [hflags]

end Sys2Proof.Machine
end

section
/-! PROOF. The issue of the MOVE instructions (R110, R115, R139 to R142, R271). -/

namespace Sys2Proof.Machine

variable {s : State} {a : StreamId} {w : InstrWord}

/-- An instruction whose command is the issue of `o`. -/
theorem issues_tensor {i : Instr} {o : TOp} (hi : exec i s = .next (issueTensor o a w s)) :
    Issues i s a w o (o.plan s (o.capture s a w)).1 (o.plan s (o.capture s a w)).2 := fun h =>
  ⟨_, hi, (issueTensor_spec o s a w h).2, (issueTensor_spec o s a w h).1⟩

/-! ### GATHER and SCATTER -/

theorem idxList_cacheUse (alloc wr : Bool) (as : List Nat) (x n : Nat) :
    idxList (cacheUse s alloc wr as) x n = idxList s x n := by
  simp [idxList, readNat]

theorem fenceSeen_of_fences {u : State} (h : OnlyFences s u a) (hctx : ctxAt u a = ctxAt s a) (tds : List DescWord) (g : Nat) :
    fenceSeen u a tds w g = fenceSeen s a tds w g := by
  unfold fenceSeen
  rw [hctx, pgRecord_only h]

/-- The cache ways after an index list of `n` entries has been read. -/
def listRead (s : State) (a : StreamId) (w : InstrWord) (n : Nat) : State :=
  cacheUse s ((strmTag a (strmAt s a).iseq).agent = 1) false (span (vA s a w).toNat (4 * n))

theorem idxList_listRead (s : State) (a : StreamId) (w : InstrWord) (n : Nat) :
    idxList (listRead s a w n) (vA (listRead s a w n) a w).toNat n = idxList s (vA s a w).toNat n := by
  have hstrm : strmAt (listRead s a w n) a = strmAt s a := strmAt_congr (cacheUse_ctxs _ _ _ _) a
  unfold vA
  rw [hstrm]
  exact idxList_cacheUse _ _ _ _ _

/-- GATHER and SCATTER reach the fence unit with the list that they have read. -/
theorem issueRows_reads {op x1 mv ix n : Nat} (h : CanIssue s a w (rowsOp op x1 mv a w))
    (hn : dDim (((rowsOp op x1 mv a w).capture s a w).getD mv 0) 1 = n)
    (hidle : hazard s a [((vA s a w).toNat, (vA s a w).toNat + 4 * n - 1)] [] = false)
    (hread : ReadsClean s (span (vA s a w).toNat (4 * n)) ⟨strmTag a (strmAt s a).iseq, some a.part, 0xFFFFFFFF, 0⟩)
    (hrows : ∀ i, i ∈ idxList s (vA s a w).toNat n → i < dDim (((rowsOp op x1 mv a w).capture s a w).getD ix 0) 1) :
    issueRows op x1 mv ix a w s = withFence (listRead s a w n) a w ((rowsOp op x1 mv a w).capture s a w) op fun s' =>
      issueFlight s' a w ((rowsOp op x1 mv a w).capture s a w) (idxList s (vA s a w).toNat n)
        (elemTiles (((rowsOp op x1 mv a w).capture s a w).getD mv 0)) := by
  subst hn
  have hfree : (tensorWait s a w ((rowsOp op x1 mv a w).capture s a w) || hazard s a
      [((vA s a w).toNat, (vA s a w).toNat + 4 * dDim (((rowsOp op x1 mv a w).capture s a w).getD mv 0) 1 - 1)] []) = false := by
    rw [h.free, hidle]
    rfl
  unfold issueRows
  extract_lets o tds x n
  refine (withWordAfter_free hfree h.ready _).trans ?_
  rw [show firstFault (o.unit s :: descChecks s tds o.uses.tds o.wr ++ o.checks s tds) = none from h.checks]
  dsimp only
  rw [show vread s x (4 * n) ⟨strmTag a (strmAt s a).iseq, some a.part, 0xFFFFFFFF, 0⟩ = _ from vread_clean hread]
  have hplan : o.plan (listRead s a w n) tds = (idxList s x n, elemTiles (tds.getD mv 0)) :=
    congrArg (·, elemTiles (tds.getD mv 0)) (idxList_listRead s a w n)
  change (if ((o.plan (listRead s a w n) tds).1.all fun i => decide (i < dDim (tds.getD ix 0) 1)) = true then _ else _) = _
  rw [if_pos (by rw [hplan, List.all_eq_true]; exact fun i hi => decide_eq_true (hrows i hi))]
  change withFence (listRead s a w n) a w tds op (fun s' =>
    issueFlight s' a w tds (o.plan (listRead s a w n) tds).1 (o.plan (listRead s a w n) tds).2) = _
  rw [hplan]

theorem issueRows_issued {op x1 mv ix n : Nat} (h : CanIssue s a w (rowsOp op x1 mv a w))
    (hn : dDim (((rowsOp op x1 mv a w).capture s a w).getD mv 0) 1 = n)
    (hidle : hazard s a [((vA s a w).toNat, (vA s a w).toNat + 4 * n - 1)] [] = false)
    (hread : ReadsClean s (span (vA s a w).toNat (4 * n)) ⟨strmTag a (strmAt s a).iseq, some a.part, 0xFFFFFFFF, 0⟩)
    (hrows : ∀ i, i ∈ idxList s (vA s a w).toNat n → i < dDim (((rowsOp op x1 mv a w).capture s a w).getD ix 0) 1) :
    ∃ t, (Host.Outcome.next (issueRows op x1 mv ix a w s) : Res) = .next t ∧ OnlyIssue s t ∧
      Issued s t a w ((rowsOp op x1 mv a w).capture s a w) (idxList s (vA s a w).toNat n)
        (elemTiles (((rowsOp op x1 mv a w).capture s a w).getD mv 0)) := by
  have hcache : OnlyFences s (listRead s a w n) a := onlyFences_cacheUse s a _ _ _
  have hseen := fenceSeen_of_fences (w := w) hcache (ctxAt_cacheUse _ _ _ _ _) ((rowsOp op x1 mv a w).capture s a w)
  obtain ⟨u, hu, hfences, hcount⟩ := withFence_spec (listRead s a w n) a w ((rowsOp op x1 mv a w).capture s a w) op
    (fun s' => issueFlight s' a w ((rowsOp op x1 mv a w).capture s a w) (idxList s (vA s a w).toNat n)
      (elemTiles (((rowsOp op x1 mv a w).capture s a w).getD mv 0))) (fun g hg => by rw [hseen]; exact h.fence g hg)
  obtain ⟨issued, only⟩ := issued_of_fences (w := w) (idxList s (vA s a w).toNat n)
    (elemTiles (((rowsOp op x1 mv a w).capture s a w).getD mv 0)) (hcache.trans hfences)
    (fun g => (hcount g).trans (by rw [hseen])) h.window
  exact ⟨_, next_congr ((issueRows_reads h hn hidle hread hrows).trans hu), only, issued⟩

/-! ### PREFETCH in a partition without cache ways -/

theorem OnlyFences.counted {u : State} {tds : List DescWord} (h : OnlyFences s u a)
    (hf : ∀ g, fenceOf (ctxAt u a) g = (fenceSeen s a tds w g).map fun f =>
      if countsIn a tds w g f then { f with rc := f.rc + 1 } else f) : FencesCounted s u a w tds :=
  ⟨h.rest, h.ctxs, h.ctx, hf⟩

/-- PREFETCH reads its operand alone. -/
theorem prefetch_free {tds : List DescWord} (hop : iOp w = 0x25) (h : tensorWait s a w tds = false) :
    hazard s a (maskRanges tds 1) [] = false := by
  have hroles : roles w = (1, 0) := by simp [roles, hop]
  have hslots : ∀ read, slotRange w read = [] := fun read => by cases read <;> simp [slotRange, hop]
  have hwrites : maskRanges tds 0 = [] := by simp [maskRanges]
  have hhazard := (Bool.or_eq_false_iff.mp h).2
  rwa [hroles, hslots, hslots, hwrites, List.append_nil, List.append_nil] at hhazard

/-- Where it can issue and no cache way takes the lines, PREFETCH completes behind the fence unit. -/
theorem doPrefetch_completes (hways : hasCacheWays s a.part = false) (h : CanIssue s a w (prefetchOp a)) :
    ∃ u, OnlyFences s u a ∧ FencesCounted s u a w ((prefetchOp a).capture s a w) ∧
      doPrefetch a w s = completeNow u a w ((strmAt s a).pc + 1) := by
  obtain ⟨u, hu, hfences, hcount⟩ := withFence_spec s a w ((prefetchOp a).capture s a w) (prefetchOp a).op
    (fun s => completeNow s a w ((strmAt s a).pc + 1)) h.fence
  refine ⟨u, hfences, hfences.counted hcount, ?_⟩
  rw [← strmAt_of_fences hfences]
  unfold doPrefetch
  extract_lets o tds
  rw [if_neg (by rw [hways]; nofun)]
  refine (withWordAfter_free (prefetch_free h.ready.opcode h.free) h.ready _).trans ?_
  rw [show firstFault (o.unit s :: descChecks s tds o.uses.tds o.wr ++ o.checks s tds) = none from h.checks]
  exact hu

/-- Settles O11: each instruction issues through `issueTensor` or `issueRows`, and PREFETCH completes where nothing is cached. -/
theorem movesIssue : Obligations.MovesIssue := by
  unfold Obligations.MovesIssue
  intro a w s d
  refine ⟨issues_tensor rfl, issues_tensor rfl, issues_tensor rfl, ?rows, fun hways => ?prefetch, fun hways h => ?completes⟩
  case rows =>
    intro list read idle
    exact ⟨fun hidle hread hrows h => issueRows_issued h rfl hidle hread hrows,
      fun hidle hread hrows h => issueRows_issued h rfl hidle hread hrows⟩
  case prefetch => exact issues_tensor (next_congr (if_pos hways))
  case completes =>
    obtain ⟨u, hfences, hcounted, hdo⟩ := doPrefetch_completes hways h
    have hstrm : strmAt u a = strmAt s a := strmAt_of_fences hfences
    have hctx := hfences.ctx
    have hcomplete := completeNow_plain w (sched_of_accepts ((accepts_of_fences w hfences).trans h.ready.taken))
      (by rw [hstrm]; exact h.window)
    rw [hstrm] at hcomplete
    obtain ⟨⟨frame, done, regs, descs, counters⟩, rest⟩ := hcomplete
    rw [hstrm] at regs
    have hbc : (ctxAt u a).bc = (ctxAt s a).bc := by rw [hctx]
    refine ⟨u, _, hcounted, next_congr hdo, frame, ?_, ?_, regs, descs.trans (by rw [hctx]), fun n => (counters n).trans ?_⟩
    · have hrest := hfences.rest
      unfold OnlyCtxs at rest
      unfold OnlyIssue
      rw [rest, hrest]
    · exact ⟨done.pc.trans (by rw [hstrm]), done.iseq.trans (by rw [hstrm]), done.running, done.infl.trans (by rw [hstrm])⟩
    · unfold signalled bcOf
      rw [hbc]

end Sys2Proof.Machine
end

section
/-! PROOF. PULL and REL (R143 to R145, R358), and what the Sillage recorder leaves alone (R508 to R512). -/

namespace Sys2Proof.Machine

variable {s t u : State} {a : StreamId} {w : InstrWord}

/-! ### The recorder -/

/-- Only registers, the hub, memory and the recorder's own part of each partition differ: what is scheduled stays. -/
structure Recorded (s t : State) : Prop where
  rest : t = { s with regs := t.regs, parts := t.parts, hub := t.hub, out := t.out, mem := t.mem, ent := t.ent, cache := t.cache }
  sched : ∀ p, (getPart t p).sched = (getPart s p).sched

theorem Recorded.refl (s : State) : Recorded s s := ⟨rfl, fun _ => rfl⟩

theorem Recorded.trans (h : Recorded s t) (g : Recorded t u) : Recorded s u :=
  ⟨by rw [g.rest, h.rest], fun p => (g.sched p).trans (h.sched p)⟩

theorem Recorded.ite {c : Prop} [Decidable c] (h : Recorded s t) (g : Recorded s u) : Recorded s (if c then t else u) := by
  split <;> assumption

theorem HubOnly.recorded (h : HubOnly s t) : Recorded s t := by
  unfold HubOnly at h
  exact ⟨by rw [h], sched_congr (by rw [h])⟩

theorem OnlyMemory.recorded (h : OnlyMemory s t) : Recorded s t := by
  unfold OnlyMemory at h
  exact ⟨by rw [h], sched_congr (by rw [h])⟩

theorem getPart_setPart (s : State) (p j : Nat) (q : Part) : getPart (setPart s p q) j = if j = p then q else getPart s j :=
  smGet_smSet _ _ _ _ _

theorem setPart_recorded {p : Nat} {q : Part} (h : q.sched = (getPart s p).sched) : Recorded s (setPart s p q) := by
  refine ⟨rfl, fun j => ?_⟩
  rw [getPart_setPart]
  split
  · next hj => rw [h, hj]
  · rfl

theorem slgHoldUpdate_recorded (s : State) (p : Nat) : Recorded s (slgHoldUpdate s p) := (setRBit_hub _ _ _ _).recorded

theorem slgStore_recorded (s : State) (p : Nat) (r : SlgRec) : Recorded s (slgStore s p r) := by
  unfold slgStore
  extract_lets k n a s1 q st steps kept s2
  have hstored : Recorded s s1 := (writeBytes_only _ _ _ _).recorded
  have htail : Recorded s1 (s1.setReg (rSlgTail p) (BitVec.ofNat 64 (k + 1))) := (setReg_hubOnly _ _ _).recorded
  have h1 := hstored.trans htail
  have hpart : q.sched = (getPart (s1.setReg (rSlgTail p) (BitVec.ofNat 64 (k + 1))) p).sched := (h1.sched p).symm
  have h2 : Recorded s s2 := by
    refine h1.trans (setPart_recorded ?_)
    exact hpart
  have h3 : Recorded s2 (s2.setReg (rSlgOldest p) (put ((kept.head?.map Prod.fst).getD st) 0)) := (setReg_hubOnly _ _ _).recorded
  exact (h2.trans h3).trans (slgHoldUpdate_recorded _ _)

theorem slgLostFlush_recorded (s : State) (p : Nat) : Recorded s (slgLostFlush s p) := by
  unfold slgLostFlush
  extract_lets q
  have hpart : Recorded s (setPart s p { q with slgLost := 0 }) := by
    refine setPart_recorded ?_
    rfl
  exact .ite (hpart.trans (slgStore_recorded _ _ _)) (.refl s)

theorem slgLose_recorded (s : State) (p : Nat) : Recorded s (slgLose s p) := by
  unfold slgLose
  extract_lets n s1 q st s2
  have h1 : Recorded s s1 := ((setFld_hub _ _ _ _ _).trans (setRBit_hub _ _ _ _)).recorded
  have h2 : Recorded s s2 := by
    refine h1.trans (setPart_recorded ?_)
    rfl
  exact .ite h2 (h2.trans (event0_hub _ _ _ _ _).recorded)

theorem replaySee_recorded (s : State) (p : Nat) (r : SlgRec) : Recorded s (replaySee s p r) := by
  unfold replaySee
  split
  · exact .ite (hubSet_hub _ _).recorded (.refl s)
  · exact .refl s

theorem slgWrite_recorded (s : State) (p : Nat) (r : SlgRec) : Recorded s (slgWrite s p r) := by
  unfold slgWrite
  extract_lets s0 s1
  have h0 : Recorded s s0 := replaySee_recorded s p r
  have h1 : Recorded s s1 := h0.trans (slgLostFlush_recorded s0 p)
  exact .ite h0 (.ite (h1.trans ((slgLose_recorded _ _).trans (slgHoldUpdate_recorded _ _))) (h1.trans (slgStore_recorded _ _ _)))

theorem slgPull_recorded (s : State) (a : StreamId) (m n seq : Nat) (b : Batch) : Recorded s (slgPull s a m n seq b) :=
  slgWrite_recorded _ _ _

/-! ### Rings -/

theorem getPipe_modPipe (s : State) (m n i j : Nat) (f : Pipe → Pipe) :
    getPipe (modPipe s m n f) i j = if pipeKey i j = pipeKey m n then f (getPipe s m n) else getPipe s i j :=
  smGet_smSet _ _ _ _ _

theorem getPipe_congr (h : t.pipes = s.pipes) (m n : Nat) : getPipe t m n = getPipe s m n := by
  unfold getPipe
  rw [h]

/-- The low-water alarm changes of the rings no more than its own arming. -/
theorem lowWater_spec (s : State) (m n seq : Nat) :
    let t := lowWater s m n seq
    t = { s with pipes := t.pipes, regs := t.regs, hub := t.hub, out := t.out } ∧
      (∃ arm, getPipe t m n = { getPipe s m n with armed := arm }) ∧
      ∀ i j, pipeKey i j ≠ pipeKey m n → getPipe t i j = getPipe s i j := by
  intro t
  by_cases hlow : (getPipe s m n).armed = true ∧ (getPipe s m n).ready.length < pLow (getPipe s m n)
  · have ht : t = ringEvent (modPipe s m n fun p => { p with armed := false }) m n 0x0301 (getPipe s m n).ready.length seq :=
      if_pos hlow
    have hevent : HubOnly (modPipe s m n fun p => { p with armed := false }) t := ht ▸ event0_hub _ _ _ _ _
    unfold HubOnly at hevent
    clear ht
    have hpipe := fun i j => (getPipe_congr (show t.pipes = (modPipe s m n _).pipes by rw [hevent]) i j).trans
      (getPipe_modPipe s m n i j _)
    refine ⟨?_, ⟨false, (hpipe m n).trans (if_pos rfl)⟩, fun i j hij => (hpipe i j).trans (if_neg hij)⟩
    rw [hevent]
    rfl
  · have ht : t = s := if_neg hlow
    rw [ht]
    exact ⟨rfl, ⟨_, rfl⟩, fun _ _ _ => rfl⟩

/-! ### REL -/

theorem doRel_ready (h : Ready s a w 0xB1 { tds := [], sa := true, x := 0x1F } [need (mediaOk s (xF w 0 0)) 0x03 0 0])
    (hfree : hazard s a [] [relRange s a w] = false)
    (hchecks : firstFault (relChecks s a (xF w 0 0) (xF w 4 1) (sregOf (strmAt s a) (iSa w)).toNat) = none) :
    doRel a w s = completeNow (modPipe s (xF w 0 0) (xF w 4 1) fun p => { p with freed := p.freed + 1 }) a w
      ((strmAt s a).pc + 1) := by
  unfold doRel
  refine (withWordAfter_free hfree h _).trans ?_
  rw [show firstFault (relChecks s a (xSite w) (xRing w) (vA s a w).toNat) = none from hchecks]
  rfl

/-! ### PULL -/

theorem Effected.trans (h : Effected s t a) (g : Effected t u a) : Effected s u a := by
  obtain ⟨pc1, plen1, iseq1, infl1⟩ := h.strm
  obtain ⟨pc2, plen2, iseq2, infl2⟩ := g.strm
  exact ⟨h.frame.trans g.frame, ⟨pc2.trans pc1, plen2.trans plen1, iseq2.trans iseq1, infl2.trans infl1⟩, g.bc.trans h.bc⟩

theorem effected_same (h : t.ctxs = s.ctxs) : Effected s t a := by
  refine ⟨.of_ctxs h ⟨fun _ _ => rfl, fun _ _ => rfl, rfl, rfl, rfl, rfl, rfl, rfl⟩, ?_, by rw [ctxAt_congr h]⟩
  rw [strmAt_congr h]
  exact ⟨rfl, rfl, rfl, rfl⟩

/-- The context with a descriptor changed. -/
def descChanged (k : Nat) (g : DescWord → DescWord) (c : Ctx) : Ctx := { c with td := smMod 0 c.td k g }

theorem strm_descChanged (k : Nat) (g : DescWord → DescWord) (c : Ctx) (j : Strm) : (descChanged k g c).strm j = c.strm j := by
  cases j <;> rfl

theorem effected_descChanged (s : State) (a : StreamId) (k : Nat) (g : DescWord → DescWord) :
    Effected s (modCtx s a.part a.ctx (descChanged k g)) a := by
  have hctx : ctxAt (modCtx s a.part a.ctx (descChanged k g)) a = descChanged k g (ctxAt s a) := ctxAt_modCtx _ _ _
  have hstrm : ∀ j, (ctxAt (modCtx s a.part a.ctx (descChanged k g)) a).strm j = (ctxAt s a).strm j := fun j => by
    rw [hctx, strm_descChanged]
  refine ⟨⟨fun j hj => (smGet_setCtx _ _ _ _ _).trans (if_neg hj), fun j _ => hstrm j, ?_⟩, ?_, ?_⟩
  · rw [hctx]
    exact ⟨rfl, rfl, rfl, rfl, rfl, rfl⟩
  · unfold strmAt
    rw [hstrm]
    exact ⟨rfl, rfl, rfl, rfl⟩
  · rw [hctx]
    rfl

/-- What PULL writes to its stream's registers. -/
def batchRegs (w : InstrWord) (p : Pipe) (b : Batch) (t : Stream) : Stream :=
  setSreg (setSreg (setSreg t (iSd w) (BitVec.ofNat 64 p.pulled)) (iSd w + 1) (BitVec.ofNat 64 b.members.length)) (iSd w + 2)
    (BitVec.ofNat 64 b.bucket)

theorem batchRegs_strm (w : InstrWord) (p : Pipe) (b : Batch) (t : Stream) : (batchRegs w p b t).pc = t.pc ∧
    (batchRegs w p b t).plen = t.plen ∧ (batchRegs w p b t).iseq = t.iseq ∧ (batchRegs w p b t).infl = t.infl := by
  unfold batchRegs
  simp only [(setSreg_pc _ _ _).1, (setSreg_pc _ _ _).2.1, (setSreg_pc _ _ _).2.2.1, (setSreg_pc _ _ _).2.2.2, and_self]

theorem sregOf_batchRegs (p : Pipe) (b : Batch) (t : Stream) (h : 1 ≤ iSd w) (k : Nat) :
    sregOf (batchRegs w p b t) k = if k = iSd w then BitVec.ofNat 64 p.pulled
      else if k = iSd w + 1 then BitVec.ofNat 64 b.members.length
      else if k = iSd w + 2 then BitVec.ofNat 64 b.bucket else sregOf t k := by
  have hne : iSd w ≠ 0 := by omega
  rw [batchRegs, sregOf_setSreg, sregOf_setSreg, sregOf_setSreg]
  by_cases h2 : k = iSd w + 2
  · simp [h2]
  · by_cases h1 : k = iSd w + 1
    · simp [h1]
    · simp [h1, h2, hne]

theorem bindBatch_eq (s : State) (a : StreamId) (w : InstrWord) (p : Pipe) (b : Batch) : bindBatch s a w p b =
    if b.members = [] then modStrmAt s a (batchRegs w p b)
    else modCtx (modStrmAt s a (batchRegs w p b)) a.part a.ctx (descChanged (iTd w 2) (batchDesc p b p.pulled)) := rfl

theorem bindBatch_effected (s : State) (a : StreamId) (w : InstrWord) (p : Pipe) (b : Batch) :
    Effected s (bindBatch s a w p b) a := by
  have hregs : Effected s (modStrmAt s a (batchRegs w p b)) a := effected_of_regs (batchRegs_strm w p b) rfl
  rw [bindBatch_eq]
  split
  · exact hregs
  · exact hregs.trans (effected_descChanged _ _ _ _)

theorem bindBatch_rest (s : State) (a : StreamId) (w : InstrWord) (p : Pipe) (b : Batch) :
    bindBatch s a w p b = { s with ctxs := (bindBatch s a w p b).ctxs } := by
  rw [bindBatch_eq]
  split <;> rfl

theorem bindBatch_regs (s : State) (a : StreamId) (w : InstrWord) (p : Pipe) (b : Batch) :
    (strmAt (bindBatch s a w p b) a).regs = (batchRegs w p b (strmAt s a)).regs := by
  rw [bindBatch_eq]
  split
  · rw [strmAt_modStrmAt]
  · rw [strmAt, ctxAt_modCtx, strm_descChanged, ctxAt_modStrmAt, strm_setStrm]

theorem bindBatch_descs (s : State) (a : StreamId) (w : InstrWord) (p : Pipe) (b : Batch) (k : Nat) :
    smGet 0 (ctxAt (bindBatch s a w p b) a).td k = if k = iTd w 2 ∧ b.members ≠ [] then
      batchDesc p b p.pulled (smGet 0 (ctxAt s a).td (iTd w 2)) else smGet 0 (ctxAt s a).td k := by
  rw [bindBatch_eq]
  by_cases hb : b.members = []
  · simp [hb]
  · rw [if_neg hb, ctxAt_modCtx, descChanged, smGet_smMod, ctxAt_modStrmAt, setStrm_td]
    exact if_congr (and_iff_left hb).symm rfl rfl

/-- The state after PULL, its ring bound, has taken `b`; it has not completed. -/
def batchTaken (s : State) (a : StreamId) (w : InstrWord) (b : Batch) : State :=
  let m := xSite w
  let n := xRing w
  let p := getPipe s m n
  let t := strmAt s a
  let wait := if t.st = .waiting ∧ t.wait = .intake m n then timeNs s - t.since else 0
  let s1 := cntInc (bindBatch s a w p b) (ringCnt m n 13) 0 wait
  let s2 := slgPull (modPipe s1 m n fun p => { p with ready := p.ready.drop 1, pulled := p.pulled + 1 }) a m n p.pulled b
  lowWater s2 m n p.pulled

theorem takeBatch_eq (s : State) (a : StreamId) (w : InstrWord) (b : Batch) :
    takeBatch s a w b = completeNow (batchTaken s a w b) a w ((strmAt s a).pc + 1) := rfl

theorem doPull_takes {b : Batch} (h : Ready s a w 0xB0 { tds := [2], sd := true, x := 0x1F }
      [need (1 ≤ iSd w && iSd w ≤ 29) 0x02 0 5, need (mediaOk s (xSite w)) 0x03 0 0])
    (hchecks : firstFault (pullChecks s a (xSite w) (xRing w)) = none)
    (hhead : (getPipe s (xSite w) (xRing w)).ready.head? = some b) :
    doPull a w s = takeBatch (bindRing s (xSite w) (xRing w) a) a w b := by
  refine (withWord_ready h _).trans ?_
  dsimp only
  rw [hchecks]
  dsimp only
  rw [hhead]

/-- What PULL leaves alone before it completes, and what becomes of the rings. -/
theorem batchTaken_spec (s : State) (a : StreamId) (w : InstrWord) (b : Batch) :
    let m := xSite w
    let n := xRing w
    let p := getPipe s m n
    let t := batchTaken s a w b
    t = { s with ctxs := t.ctxs, pipes := t.pipes, parts := t.parts, regs := t.regs, hub := t.hub, out := t.out, mem := t.mem,
                 ent := t.ent, cache := t.cache } ∧
      t.ctxs = (bindBatch s a w p b).ctxs ∧ (∀ q, (getPart t q).sched = (getPart s q).sched) ∧
      (∃ arm, getPipe t m n = { p with ready := p.ready.drop 1, pulled := p.pulled + 1, armed := arm }) ∧
      ∀ i j, pipeKey i j ≠ pipeKey m n → getPipe t i j = getPipe s i j := by
  unfold batchTaken
  extract_lets m n p t0 wait s1 s2 t
  have h0 : bindBatch s a w p b = { s with ctxs := (bindBatch s a w p b).ctxs } := bindBatch_rest _ _ _ _ _
  have h1 : HubOnly (bindBatch s a w p b) s1 := cntInc_hub _ _ _ _
  unfold HubOnly at h1
  have h2 : Recorded (modPipe s1 m n fun p => { p with ready := p.ready.drop 1, pulled := p.pulled + 1 }) s2 :=
    slgPull_recorded _ _ _ _ _ _
  obtain ⟨hrest3, ⟨arm, harm⟩, hothers⟩ := lowWater_spec s2 m n p.pulled
  have h3 : t = { s2 with pipes := t.pipes, regs := t.regs, hub := t.hub, out := t.out } := hrest3
  have hpipes1 : s1.pipes = s.pipes := by rw [h1, h0]
  have hpipes2 : s2.pipes = (modPipe s1 m n fun p => { p with ready := p.ready.drop 1, pulled := p.pulled + 1 }).pipes := by
    rw [h2.rest]
  have hpipe := fun i j => (getPipe_congr hpipes2 i j).trans (getPipe_modPipe s1 m n i j _)
  have hparts1 : s1.parts = s.parts := by rw [h1, h0]
  have hrest2 : s2 = { s1 with regs := s2.regs, parts := s2.parts, hub := s2.hub, out := s2.out, mem := s2.mem, ent := s2.ent,
                                cache := s2.cache, pipes := s2.pipes } := by
    rw [hpipes2]
    exact h2.rest
  refine ⟨?_, ?_, fun q => ?_, ⟨arm, ?_⟩, fun i j hij => ?_⟩
  · clear_value t s2 s1
    rw [h3, hrest2, h1, h0]
  · rw [h3, hrest2, h1]
  · exact (sched_congr (show t.parts = s2.parts by rw [h3]) q).trans ((h2.sched q).trans (sched_congr hparts1 q))
  · exact harm.trans (by rw [hpipe, if_pos rfl, getPipe_congr hpipes1])
  · exact (hothers i j hij).trans (by rw [hpipe, if_neg hij, getPipe_congr hpipes1])

/-- Settles O19: PULL completes over the batch that it has bound, REL over the slot that it has given up. -/
theorem intakeInstructions : Obligations.IntakeInstructions := by
  unfold Obligations.IntakeInstructions
  intro a w s hn m n p
  refine ⟨fun b h hchecks hhead => ?pull, fun h hfree hchecks => ?rel⟩
  case pull =>
    have hsd : 1 ≤ iSd w ∧ iSd w ≤ 29 := by
      have := need_eq_none.mp (firstFault_eq_none.mp h.checks _ (List.mem_cons_of_mem _ List.mem_cons_self))
      simpa using this
    obtain ⟨v, hv, hbound⟩ : ∃ v, v = bindRing s m n a ∧ v = { s with regs := v.regs } := ⟨_, rfl, rfl⟩
    have hvstrm : strmAt v a = strmAt s a := strmAt_congr (by rw [hbound]) a
    have hvctx : ctxAt v a = ctxAt s a := ctxAt_congr (by rw [hbound]) a
    have hvpipe : ∀ i j, getPipe v i j = getPipe s i j := getPipe_congr (by rw [hbound])
    have hvsched : ∀ q, (getPart v q).sched = (getPart s q).sched := sched_congr (by rw [hbound])
    have hdo : doPull a w s = completeNow (batchTaken v a w b) a w ((strmAt s a).pc + 1) := by
      rw [← hvstrm, hv]
      exact (doPull_takes h hchecks hhead).trans (takeBatch_eq _ _ _ _)
    obtain ⟨hrest, hctxs, hsched, hpipe, hothers⟩ := batchTaken_spec v a w b
    rw [hvpipe] at hctxs hpipe
    have heffect : Effected s (batchTaken v a w b) a :=
      (effected_same (by rw [hbound])).trans ((bindBatch_effected _ _ _ _ _).trans (effected_same hctxs))
    obtain ⟨frame, rest, done, regs, descs, counters⟩ := heffect.complete w
      ((hsched _).trans ((hvsched _).trans (sched_of_accepts h.taken))) hn rfl
    unfold OnlyCtxs at rest
    have hpipes : ∀ i j, getPipe (completeNow (batchTaken v a w b) a w ((strmAt s a).pc + 1)) i j = getPipe (batchTaken v a w b) i j :=
      getPipe_congr (by rw [rest])
    refine ⟨_, next_congr hdo, frame, ?_, done, fun k => ?_, fun k => ?_, counters, ?_, fun i j hij => ?_⟩
    · rw [rest, hrest, hbound]
    · rw [sregOf_congr (regs.trans ((congrArg Stream.regs (strmAt_congr hctxs a)).trans (bindBatch_regs _ _ _ _ _))), hvstrm]
      exact sregOf_batchRegs _ _ _ hsd.1 k
    · rw [descs, ctxAt_congr hctxs, bindBatch_descs, hvctx]
      rfl
    · rw [hpipes]
      exact hpipe
    · rw [hpipes, ← hvpipe]
      exact hothers i j hij
  case rel =>
    obtain ⟨plain, rest⟩ := completeNow_plain_of_ctxs (s := s) (v := modPipe s m n fun p => { p with freed := p.freed + 1 }) w rfl
      (sched_of_accepts h.taken) hn
    unfold OnlyCtxs at rest
    have hpipe := fun i j => (getPipe_congr (show (completeNow (modPipe s m n fun p => { p with freed := p.freed + 1 }) a w
      ((strmAt s a).pc + 1)).pipes = _ by rw [rest]) i j).trans (getPipe_modPipe s m n i j _)
    refine ⟨_, next_congr (doRel_ready h hfree hchecks), plain.frame, ?_, plain.done, plain.regs, plain.descs, plain.counters,
      (hpipe m n).trans (if_pos rfl), fun i j hij => (hpipe i j).trans (if_neg hij)⟩
    rw [rest]
    rfl

end Sys2Proof.Machine
end

section
/-! PROOF. Streams that stop beside their branches (R120, R123, R138), blocks that enter the instruction buffer (R112, R114), the
end of a wait (R133, R134) and the debug session's halt (R544). -/

namespace Sys2Proof.Machine

variable {s : State} {a : StreamId} {w : InstrWord}

/-! ### Streams that stop -/

/-- The ranges of opcodes that Table 3.5 lists. -/
def opcodeRanges : List (Nat × Nat) :=
  [(0x00, 0x16), (0x20, 0x25), (0x30, 0x33), (0x40, 0x44), (0x50, 0x56), (0x60, 0x62), (0x70, 0x73), (0x80, 0x81), (0x90, 0x91),
    (0xA0, 0xA4), (0xB0, 0xB1), (0xC0, 0xC3)]

theorem opcodes_inRanges : ∀ n ∈ opcodes, ∃ r ∈ opcodeRanges, r.1 ≤ n ∧ n ≤ r.2 := by decide

theorem doReserved_stops (htaken : accepts s a w = true) (hmet : wenMet s a w = true)
    (hnone : ∀ r ∈ opcodeRanges, ¬ (r.1 ≤ iOp w ∧ iOp w ≤ r.2)) : doReserved a w s = streamFault s a ⟨0x01, 0, 0⟩ (iOp w) := by
  have hop : opcodes.contains (iOp w) = false := by
    by_contra hin
    obtain ⟨r, hr, hrange⟩ := opcodes_inRanges (iOp w) (by simpa using hin)
    exact hnone r hr hrange
  unfold doReserved
  rw [htaken, hop, if_pos (by rfl), if_pos hmet]

theorem doFenceWatchdogExpiry_waiting (hsched : (getPart s a.part).sched = some a.ctx.val) (hst : (strmAt s a).st = .waiting)
    (hw : bufferWord (strmAt s a) = some w) : doFenceWatchdogExpiry a s = streamFault s a ⟨0x12, 2, 0⟩ (iOp w) := by
  unfold doFenceWatchdogExpiry
  rw [if_neg (not_not.mpr hsched), if_pos hst, hw]
  rfl

theorem issueTensor_faults {o : TOp} {f : SFault} (h : Ready s a w o.op o.uses o.word)
    (hfree : tensorWait s a w (o.capture s a w) = false)
    (hf : firstFault (o.unit s :: descChecks s (o.capture s a w) o.uses.tds o.wr ++ o.checks s (o.capture s a w)) = some f) :
    issueTensor o a w s = streamFault s a f o.op := by
  unfold issueTensor
  refine (withWordAfter_free hfree h _).trans ?_
  dsimp only
  rw [hf]

/-- A stopped stream keeps what it has in flight, so that the context does not settle before that has completed. -/
theorem Stopped.settle {u : State} {f : SFault} {op : Nat} (h : Stopped s u a f op)
    (hflight : ((ctxAt s a).allStrms.any fun t => !t.infl.isEmpty) = true) : settle u a.part a.ctx = u := by
  obtain ⟨k, hk⟩ : ∃ k, ((ctxAt s a).strm k).infl ≠ [] := by
    simp only [Ctx.allStrms, List.any_cons, List.any_nil, Bool.or_false, Bool.or_eq_true, Bool.not_eq_true',
      List.isEmpty_eq_false_iff] at hflight
    rcases hflight with hF | hB | hU
    exacts [⟨.F, hF⟩, ⟨.B, hB⟩, ⟨.U, hU⟩]
  refine settle_of_not_done (ctxDone_of_flight (k := k) ?_)
  by_cases hka : k = a.strm
  · obtain ⟨-, -, -, hinfl, -⟩ := h.strm
    subst hka
    exact fun hempty => hk (hinfl.symm.trans hempty)
  · exact fun hempty => hk ((congrArg Stream.infl (h.strms k hka)).symm.trans hempty)

/-- Settles O20: each command is a stream fault, and what is in flight keeps the context open. -/
theorem streamsStop : Obligations.StreamsStop := by
  unfold Obligations.StreamsStop
  intro a w s
  refine ⟨fun htaken hmet hnone => ?reserved, fun hfault hsched hst hw => ?watchdog, fun f h hfree hf => ?copy,
    fun hflight u f op h => h.settle hflight⟩
  case reserved => exact stops_of_eq rfl (fault_of_accepts htaken) (doReserved_stops htaken hmet hnone)
  case watchdog => exact stops_of_eq rfl hfault (doFenceWatchdogExpiry_waiting hsched hst hw)
  case copy => exact stops_of_eq rfl (fault_of_accepts h.taken) (issueTensor_faults h hfree hf)

/-! ### Block fetch -/

theorem chunks_length {α : Type} {n : Nat} (hn : 0 < n) : ∀ (fuel k : Nat) (l : List α), l.length = n * k → k ≤ fuel →
    (chunks n fuel l).length = k := by
  intro fuel
  induction fuel with
  | zero => intro k l _ hk; simp only [chunks, List.length_nil]; omega
  | succ fuel ih =>
    intro k l hl hk
    cases l with
    | nil =>
      rcases Nat.mul_eq_zero.mp hl.symm with h0 | h0
      · omega
      · rw [h0]; rfl
    | cons x xs =>
      cases k with
      | zero => simp at hl
      | succ k =>
        rw [chunks, List.length_cons, ih k _ ?_ (by omega)]
        rw [List.length_drop, hl, Nat.mul_succ, Nat.add_sub_cancel]

theorem chunks_getElem? {α : Type} {n : Nat} (hn : 0 < n) : ∀ (fuel k i : Nat) (l : List α), l.length = n * k → k ≤ fuel → i < k →
    (chunks n fuel l)[i]? = some ((l.drop (n * i)).take n) := by
  intro fuel
  induction fuel with
  | zero => intro k i l _ hk hi; omega
  | succ fuel ih =>
    intro k i l hl hk hi
    cases l with
    | nil =>
      have hpos : 0 < n * k := Nat.mul_pos hn (by omega)
      simp only [List.length_nil] at hl
      omega
    | cons x xs =>
      cases i with
      | zero => simp [chunks]
      | succ i =>
        obtain ⟨k, rfl⟩ : ∃ m, k = m + 1 := ⟨k - 1, by omega⟩
        rw [chunks, List.getElem?_cons_succ, ih k i _ ?_ (by omega) (by omega), List.drop_drop, Nat.mul_succ, Nat.add_comm]
        rw [List.length_drop, hl, Nat.mul_succ, Nat.add_sub_cancel]

/-- The instruction words of a block's bytes. -/
def blockWords (bs : List Byte) : List InstrWord := (chunks 16 64 bs).map fun x => BitVec.ofNat 128 (leNat x)

theorem blockWords_length {bs : List Byte} {k : Nat} (h : bs.length = 16 * k) (hk : k ≤ 64) : (blockWords bs).length = k := by
  rw [blockWords, List.length_map, chunks_length (by decide) 64 k bs h hk]

theorem blockWords_byte {bs : List Byte} {k i j : Nat} (h : bs.length = 16 * k) (hk : k ≤ 64) (hi : i < k) (hj : j < 16) :
    ((blockWords bs).getD i 0).extractLsb' (8 * j) 8 = bs.getD (16 * i + j) 0 := by
  have hword : (blockWords bs).getD i 0 = BitVec.ofNat 128 (leNat ((bs.drop (16 * i)).take 16)) := by
    rw [List.getD, blockWords, List.getElem?_map, chunks_getElem? (by decide) 64 k i bs h hk hi]
    rfl
  rw [hword, byte_of_leNat 128 _ j (by omega), getD_take_drop _ _ _ hj]

theorem blockBytes_eq (t : Stream) (b : Nat) : blockBytes t b = 16 * min 64 (t.plen - 64 * b) := by
  unfold blockBytes
  omega

/-- The cache ways after block `b` has been read. -/
def blockRead (s : State) (a : StreamId) (b : Nat) : State :=
  cacheUse s ((strmTag a (strmAt s a).iseq).agent = 1) false (span ((strmAt s a).pbase + 1024 * b) (blockBytes (strmAt s a) b))

/-- The stream with a block's words put before the others of its buffer. -/
def withBlock (b : Nat) (ws : List InstrWord) (t : Stream) : Stream := { t with ibuf := ((b, ws) :: t.ibuf).take 64 }

theorem doBlockFetch_clean {b : Nat} (hstarted : (ctxAt s a).started = true)
    (hst : (strmAt s a).st = .issuing ∨ (strmAt s a).st = .waiting) (hsched : (getPart s a.part).sched = some a.ctx.val)
    (hin : 64 * b < (strmAt s a).plen) (hnew : (strmAt s a).ibuf.any (fun x => decide (x.1 = b)) = false)
    (hclean : ReadsClean s (span ((strmAt s a).pbase + 1024 * b) (blockBytes (strmAt s a) b))
      ⟨strmTag a (strmAt s a).iseq, some a.part, 0xFFFFFFFF, 0⟩) :
    doBlockFetch a b s = modStrmAt (blockRead s a b) a
      (withBlock b (blockWords (readBytes s ((strmAt s a).pbase + 1024 * b) (blockBytes (strmAt s a) b)))) := by
  have hgo : ¬ ((ctxAt s a).started = false ∨ ((strmAt s a).st ≠ .issuing ∧ (strmAt s a).st ≠ .waiting) ∨
      (getPart s a.part).sched ≠ some a.ctx.val ∨ (strmAt s a).plen ≤ 64 * b ∨
      ((strmAt s a).ibuf.any fun x => x.1 = b) = true) := by
    rw [hstarted, hnew]
    rcases hst with hst | hst <;> simp [hst, hsched, hin]
  unfold doBlockFetch
  extract_lets c t
  refine (if_neg hgo).trans ?_
  rw [show vread s (t.pbase + 1024 * b) (blockBytes t b) ⟨strmTag a t.iseq, some a.part, 0xFFFFFFFF, 0⟩ = _ from vread_clean hclean]
  rfl

/-! ### The end of a wait -/

theorem waitSatisfied_redo (hst : (strmAt s a).st = .waiting) (hw : bufferWord (strmAt s a) = some w) :
    exec (.instructionWaitSatisfied a) s = .next (redo a w s) := by
  refine next_congr (v := redo a w s) ?_
  unfold doWaitSatisfied
  extract_lets t
  refine (if_pos hst).trans ?_
  rw [hw]

/-! ### Halted contexts -/

theorem haltedCtx_iff {p x : Nat} : haltedCtx s p x = true ↔ ctxKey p x ∈ s.sec.halted := by
  simp [haltedCtx]

theorem accepts_halted (h : haltedCtx s a.part a.ctx = true) : accepts s a w = false := by
  unfold accepts
  simp [h]

theorem doDebugHalt_halts (hd : debugD2 s = true) (a : StreamId) :
    let t := doDebugHalt a.part a.ctx s
    t = { s with sec := { s.sec with halted := t.sec.halted } } ∧ haltedCtx t a.part a.ctx = true ∧
      ∀ p x, ctxKey p x ≠ ctxKey a.part a.ctx → haltedCtx t p x = haltedCtx s p x := by
  intro t
  by_cases hin : haltedCtx s a.part a.ctx = true
  · have ht : t = s := if_neg fun hb => absurd (hb.2.symm.trans hin) nofun
    rw [ht]
    exact ⟨rfl, hin, fun _ _ _ => rfl⟩
  · have ht : t = { s with sec := { s.sec with halted := s.sec.halted ++ [ctxKey a.part a.ctx] } } :=
      if_pos ⟨hd, Bool.not_eq_true _ ▸ hin⟩
    rw [ht]
    refine ⟨rfl, haltedCtx_iff.mpr (List.mem_append_right _ (List.mem_singleton_self _)), fun p x hk => ?_⟩
    rw [Bool.eq_iff_iff, haltedCtx_iff, haltedCtx_iff]
    simp [hk]

theorem doDebugResume_resumes (hd : debugD2 s = true) (a : StreamId) :
    let t := doDebugResume a.part a.ctx s
    t = { s with sec := { s.sec with halted := t.sec.halted } } ∧ haltedCtx t a.part a.ctx = false ∧
      ∀ p x, ctxKey p x ≠ ctxKey a.part a.ctx → haltedCtx t p x = haltedCtx s p x := by
  intro t
  have ht : t = { s with sec := { s.sec with halted := s.sec.halted.filter fun k => k ≠ ctxKey a.part a.ctx } } := if_pos hd
  rw [ht]
  refine ⟨rfl, ?_, fun p x hk => ?_⟩
  · rw [← Bool.not_eq_true, haltedCtx_iff]
    simp
  · rw [Bool.eq_iff_iff, haltedCtx_iff, haltedCtx_iff]
    simp [hk]

/-- Settles O21: the block's words are read back byte by byte, a wait ends in the instruction's own command, and a session's halt
is one entry in its list. -/
theorem fetchWaitAndHalt : Obligations.FetchWaitAndHalt := by
  unfold Obligations.FetchWaitAndHalt
  intro a w s
  refine ⟨fun b hstarted hst hsched hin hnew hclean => ?fetch, fun hst hw => ?wait, fun hd => ?halt⟩
  case fetch =>
    have hlen : (readBytes s ((strmAt s a).pbase + 1024 * b) (blockBytes (strmAt s a) b)).length =
        16 * min 64 ((strmAt s a).plen - 64 * b) := by simp [readBytes, blockBytes_eq]
    have hctxs : (blockRead s a b).ctxs = s.ctxs := cacheUse_ctxs _ _ _ _
    have hwords := blockWords_length hlen (Nat.min_le_left _ _)
    refine ⟨_, blockWords (readBytes s ((strmAt s a).pbase + 1024 * b) (blockBytes (strmAt s a) b)),
      next_congr (doBlockFetch_clean hstarted hst hsched hin hnew hclean), .of_ctxs hctxs (onlyStream_modStrmAt _ _ _), ?_, ?_, ?_, ?_,
      hwords, fun i j hi hj => ?_⟩
    · rw [blockRead, cacheUse_eq]
      rfl
    · rw [strmAt_modStrmAt, strmAt_congr hctxs]
      rfl
    · rw [ctxAt_modStrmAt, setStrm_td, ctxAt_congr hctxs]
    · rw [ctxAt_modStrmAt, setStrm_bc, ctxAt_congr hctxs]
    · rw [hwords] at hi
      rw [blockWords_byte hlen (Nat.min_le_left _ _) hi hj, readBytes_getD _ _ (by rw [blockBytes_eq]; omega), ← Nat.add_assoc]
  case wait =>
    have hown : ∀ {i : Instr}, .next (redo a w s) = exec i s → exec (.instructionWaitSatisfied a) s = exec i s :=
      (waitSatisfied_redo hst hw).trans
    refine ⟨?own, ?upd, ⟨fun h hn => ?nop, fun h hn hempty hpassed => ?bcwait⟩, fun h => ?copy⟩
    case own =>
      simp only [List.forall_mem_cons, List.not_mem_nil, false_imp_iff, implies_true, and_true]
      and_intros
      all_goals exact fun hop => hown (by unfold redo; rw [hop]; rfl)
    case upd =>
      refine fun hop => hown ?_
      unfold redo
      rw [hop]
      split_ifs <;> rfl
    case nop =>
      obtain ⟨plain, rest⟩ := completeNow_plain w (sched_of_accepts h.taken) hn
      have hcmd : exec (.instructionWaitSatisfied a) s = exec (.nop a w) s := hown (by unfold redo; rw [h.opcode]; rfl)
      exact ⟨_, hcmd.trans (next_congr (withWord_ready h _)), plain.frame, rest, plain.done, plain.regs, plain.descs, plain.counters⟩
    case bcwait =>
      obtain ⟨plain, rest⟩ := completeNow_plain w (sched_of_accepts h.taken) hn
      have hcmd : exec (.instructionWaitSatisfied a) s = exec (.bcwait a w) s := hown (by unfold redo; rw [h.opcode]; rfl)
      exact ⟨_, hcmd.trans (next_congr ((withWord_ready h _).trans (if_pos (decide_eq_true hpassed)))), plain.frame, rest, plain.done,
        plain.regs, plain.descs, plain.counters⟩
    case copy =>
      have hcmd : exec (.instructionWaitSatisfied a) s = exec (.copy a w) s :=
        hown (by unfold redo; rw [show iOp w = 0x20 from h.ready.opcode]; rfl)
      exact issues_tensor (o := copyOp a w) (hcmd.trans rfl) h
  case halt =>
    obtain ⟨rest, halted, others⟩ := doDebugHalt_halts hd a
    obtain ⟨rest', resumed, others'⟩ := doDebugResume_resumes hd a
    exact ⟨⟨_, rfl, rest, halted, accepts_halted halted, others⟩, ⟨_, rfl, rest', resumed, others'⟩⟩

end Sys2Proof.Machine
end

section
/-! PROOF. A pre-emption reads the stored bytes of a save area (R486), those of INVALID lines too, which a read gives as 0 (R301). -/

namespace Sys2Proof.Machine

variable {s t : State}

/-! ### Stored bytes of other lines -/

theorem rawByte_congr (h : t.mem = s.mem) (b : Nat) : rawByte t b = rawByte s b := by rw [rawByte, h, rawByte]

theorem rawByte_putLine_other {a b : Nat} (h : b / 64 ≠ a / 64) (mask : Nat → Option Byte) (w : Option Tag) :
    rawByte (putLine s a mask w) b = rawByte s b := by
  unfold putLine
  extract_lets base j e full st old new image diff
  have hbase : base = a / 64 * 64 := rfl
  have hlen : new.length = 64 := by simp [new, maskLine]
  have hout : ¬ (base ≤ b ∧ b < base + new.length) := by omega
  have hstored : rawByte (storeBytes new base s) b = rawByte s b := by rw [rawByte_storeBytes, if_neg hout]
  split
  · exact hstored
  · exact hstored

theorem rawByte_writeLine_other {a b : Nat} (h : b / 64 ≠ a / 64) (mask : Nat → Option Byte) (w : Option Tag) :
    rawByte (writeLine s a mask w) b = rawByte s b :=
  (rawByte_putLine_other h mask w).trans (rawByte_congr (cacheUse_mem _ _ _ _) b)

theorem rawByte_writeSet_other {b : Nat} (n : Nat) : ∀ (ws : List (Nat × Byte)) (w : Option Tag) (s : State),
    (∀ p ∈ ws, b / 64 ≠ p.1 / 64) → rawByte (writeSet n ws w s) b = rawByte s b := by
  induction n with
  | zero => intro ws w s _; rfl
  | succ n ih =>
    intro ws w s h
    rcases ws with _ | ⟨⟨a, v⟩, ws⟩
    · rfl
    · rw [List.forall_mem_cons] at h
      exact (ih _ _ _ fun p hp => h.2 p (List.mem_of_mem_filter hp)).trans (rawByte_writeLine_other h.1 _ _)

/-- A write that ends below a line leaves the line's bytes. -/
theorem rawByte_writeBytes_below {a b n : Nat} {bs : List Byte} (hlen : bs.length = n) (h : a + n ≤ b / 64 * 64) (w : Option Tag) :
    rawByte (writeBytes s a bs w) b = rawByte s b := by
  refine rawByte_writeSet_other _ _ _ _ fun p hp => ?_
  obtain ⟨q, hq, rfl⟩ := List.mem_map.mp hp
  have hlt : q.1 < bs.length := List.mem_range.mp (List.of_mem_zip hq).1
  rw [hlen] at hlt
  show b / 64 ≠ (a + q.1) / 64
  omega

/-! ### A context goes out -/

/-- `t` differs from `s` at most in contexts, in memory with its caches and in the next free value. -/
def OnlySaved (s t : State) : Prop :=
  t = { s with ctxs := t.ctxs, mem := t.mem, ent := t.ent, cache := t.cache, fresh := t.fresh }

theorem OnlySaved.trans {u : State} (h1 : OnlySaved s t) (h2 : OnlySaved t u) : OnlySaved s u := by
  unfold OnlySaved at h1 h2 ⊢
  rw [h2, h1]

theorem OnlyMemory.onlySaved (h : OnlyMemory s t) : OnlySaved s t := by
  unfold OnlyMemory at h
  unfold OnlySaved
  rw [h]

theorem OnlySaved.pickCtx_eq (h : OnlySaved s t) (p : Nat) : pickCtx t p = pickCtx s p := by
  unfold OnlySaved at h
  rw [h]
  rfl

theorem OnlySaved.saveArea_eq (h : OnlySaved s t) (p x : Nat) : saveArea t p x = saveArea s p x := by
  unfold OnlySaved at h
  rw [h]
  rfl

/-- A number taken from the free values. -/
theorem OnlySaved.of_fresh (s : State) (n : Nat) : OnlySaved s { s with fresh := n } := rfl

theorem OnlySaved.of_ctxs (s : State) (c : SMap Ctx) : OnlySaved s { s with ctxs := c } := rfl

theorem OnlyMemory.ctxs_eq (h : OnlyMemory s t) : t.ctxs = s.ctxs := by
  unfold OnlyMemory at h
  rw [h]

theorem words_length (n k : Nat) (f : Nat → Nat) : ((List.range n).flatMap fun i => leBytes k (f i)).length = n * k := by
  simp [List.length_flatMap, leBytes_length]

theorem saveStream_length (z : Stream) : (saveStream z).length = 0x400 := by
  rw [saveStream, List.length_append, List.length_append, List.length_append, words_length, leBytes_length, leBytes_length,
    List.length_replicate]

/-- `t` differs from `s` at most as memory writes that end below `hi` change it, and in the next free value. -/
structure WrittenBelow (hi : Nat) (s t : State) : Prop where
  only : OnlySaved s t
  ctxs : t.ctxs = s.ctxs
  raw : ∀ b, hi ≤ b / 64 * 64 → rawByte t b = rawByte s b

theorem WrittenBelow.refl (hi : Nat) (s : State) : WrittenBelow hi s s := ⟨rfl, rfl, fun _ _ => rfl⟩

theorem WrittenBelow.fresh {hi : Nat} (h : WrittenBelow hi s t) (n : Nat) : WrittenBelow hi s { t with fresh := n } :=
  ⟨h.only.trans (OnlySaved.of_fresh t n), h.ctxs, h.raw⟩

theorem WrittenBelow.write {hi a n : Nat} {bs : List Byte} {w : Option Tag} (h : WrittenBelow hi s t) (hlen : bs.length = n)
    (hn : a + n ≤ hi) : WrittenBelow hi s (writeBytes t a bs w) :=
  have only := writeBytes_only t a bs w
  ⟨h.only.trans only.onlySaved, only.ctxs_eq.trans h.ctxs,
    fun b hb => (rawByte_writeBytes_below hlen (hn.trans hb) w).trans (h.raw b hb)⟩

/-- A context's save area is written, below `saveArea + 0x10000`; then the context is marked. -/
theorem saveCtx_eq (s : State) (p x : Nat) : ∃ m, saveCtx s p x = modCtx m p x (fun c => { c with saved := c.started }) ∧
    WrittenBelow (saveArea s p x + 0x10000) s m := by
  unfold saveCtx
  extract_lets a c s1 s2 s3 s4 s5 s6
  have h1 : WrittenBelow (a + 0x10000) s s1 := (WrittenBelow.refl _ s).write (saveStream_length _) (by omega)
  have h2 : WrittenBelow (a + 0x10000) s s2 := h1.write (saveStream_length _) (by omega)
  have h3 : WrittenBelow (a + 0x10000) s s3 := h2.write (saveStream_length _) (by omega)
  have h4 : WrittenBelow (a + 0x10000) s s4 := h3.write (words_length _ _ _) (by omega)
  have h5 : WrittenBelow (a + 0x10000) s s5 := h4.write (words_length _ _ _) (by omega)
  exact ⟨s6, rfl, (h5.fresh (s5.fresh + 5632)).write (words_length _ _ _) (by omega)⟩

theorem getCtx_modCtx_same (s : State) (p x : Nat) (f : Ctx → Ctx) : getCtx (modCtx s p x f) p x = f (getCtx s p x) :=
  getCtx_setCtx _ _ _ _

theorem getCtx_modCtx_other {x y : Nat} (h : y ≠ x) (s : State) (p : Nat) (f : Ctx → Ctx) :
    getCtx (modCtx s p x f) p y = getCtx s p y :=
  (smGet_setCtx _ _ _ _ _).trans (if_neg fun hk => h (Nat.add_left_cancel hk))

/-- A context without its streams' instruction buffers. -/
def Ctx.noBuffers (c : Ctx) : Ctx := c.mapStrms fun z => { z with ibuf := [] }

theorem foldl_modCtx_eq (p : Nat) (f : Ctx → Ctx) (l : List Nat) : ∀ s : State,
    ∃ c, l.foldl (fun s x => modCtx s p x f) s = { s with ctxs := c } := by
  induction l with
  | nil => exact fun s => ⟨s.ctxs, rfl⟩
  | cons x l ih =>
    intro s
    obtain ⟨c, hc⟩ := ih (modCtx s p x f)
    exact ⟨c, hc⟩

theorem dropBuffers_eq (s : State) (p : Nat) : ∃ c, dropBuffers s p = { s with ctxs := c } :=
  foldl_modCtx_eq p Ctx.noBuffers (List.range 8) s

theorem getCtx_foldl_noBuffers (p n : Nat) (s : State) (y : Nat) :
    getCtx ((List.range n).foldl (fun s x => modCtx s p x Ctx.noBuffers) s) p y =
      if y < n then (getCtx s p y).noBuffers else getCtx s p y := by
  induction n with
  | zero => rfl
  | succ n ih =>
    rw [List.range_succ, List.foldl_append, List.foldl_cons, List.foldl_nil]
    by_cases hy : y = n
    · rw [hy] at ih ⊢
      rw [getCtx_modCtx_same, ih, if_neg (Nat.lt_irrefl n), if_pos (Nat.lt_succ_self n)]
    · rw [getCtx_modCtx_other hy, ih]
      exact if_congr (by omega) rfl rfl

theorem getCtx_dropBuffers {y : Nat} (h : y < 8) (s : State) (p : Nat) : getCtx (dropBuffers s p) p y = (getCtx s p y).noBuffers :=
  (getCtx_foldl_noBuffers p 8 s y).trans (if_pos h)

/-- What the departure of context `x` leaves: the stored bytes above its save area, and the other contexts without buffers. -/
theorem departed_spec (s : State) (p x : Nat) :
    let d := dropBuffers (saveCtx s p x) p
    OnlySaved s d ∧ (∀ b, saveArea s p x + 0x10000 ≤ b / 64 * 64 → rawByte d b = rawByte s b) ∧
      ∀ y, y < 8 → y ≠ x → getCtx d p y = (getCtx s p y).noBuffers := by
  intro d
  obtain ⟨m, hm, written⟩ := saveCtx_eq s p x
  obtain ⟨c, hc⟩ := dropBuffers_eq (saveCtx s p x) p
  refine ⟨?_, fun b hb => ?_, fun y hy hne => ?_⟩
  · rw [show d = _ from hc, hm]
    exact written.only.trans (OnlySaved.of_ctxs m c)
  · rw [show d = _ from hc, hm]
    exact written.raw b hb
  · have hkept : getCtx m p y = getCtx s p y := by rw [getCtx, written.ctxs, getCtx]
    rw [show getCtx d p y = _ from getCtx_dropBuffers hy _ p, hm, getCtx_modCtx_other hne, hkept]

/-! ### A context comes in -/

theorem rawBytes_slice (s : State) {a n i k : Nat} (h : i + k ≤ n) : ((rawBytes s a n).drop i).take k = rawBytes s (a + i) k := by
  refine List.ext_getElem (by simp [rawBytes]; omega) fun m hm _ => ?_
  simp [rawBytes, Nat.add_assoc]

theorem sregOf_loadStream {z : Stream} (hz : z.st ≠ .faulted) (b : List Byte) {i : Nat} (hi : i < 31) :
    sregOf (loadStream b z) (i + 1) = BitVec.ofNat 64 (leNat ((b.drop (16 + 8 * i)).take 8)) := by
  have hregs : ∀ n, i < n → smGet 0 ((List.range n).foldl (fun m i => smSet 0 m (i + 1)
      (BitVec.ofNat 64 (leNat ((b.drop (16 + 8 * i)).take 8)))) []) (i + 1) =
      BitVec.ofNat 64 (leNat ((b.drop (16 + 8 * i)).take 8)) := by
    intro n
    induction n with
    | zero => intro hn; omega
    | succ n ih =>
      intro hn
      rw [List.range_succ, List.foldl_append, List.foldl_cons, List.foldl_nil, smGet_smSet]
      split
      next heq => rw [Nat.add_right_cancel heq]
      next hne => exact ih (by omega)
  rw [sregOf, if_neg (Nat.succ_ne_zero i), loadStream, if_neg hz]
  exact hregs 31 hi

/-- The registers of a saved context's stream F are the stored bytes of its save area. -/
theorem sregOf_scheduleCtx {p y i : Nat} (hsaved : (getCtx s p y).saved = true) (hz : (getCtx s p y).sF.st ≠ .faulted) (hi : i < 31) :
    sregOf (getCtx (scheduleCtx s p y) p y).sF (i + 1) =
      BitVec.ofNat 64 (leNat (rawBytes s (saveArea s p y + (16 + 8 * i)) 8)) := by
  have hload : (getCtx (scheduleCtx s p y) p y).sF =
      loadStream ((rawBytes s (saveArea s p y) 0x5000).take 0x400) (getCtx s p y).sF := by
    rw [scheduleCtx, getCtx_modCtx_same, restorePend, loadCtx]
    exact congrArg Ctx.sF (if_pos hsaved)
  rw [hload, sregOf_loadStream hz _ hi, List.drop_take, List.take_take, Nat.min_eq_left (by omega), rawBytes_slice s (by omega)]

/-- Where another context comes in, it does so from the state that the outgoing one leaves, and a pre-emption is counted. -/
theorem doPreemptionDrained_other {p x y : Nat} (hsched : (getPart s p).sched = some x) (hdrain : (getPart s p).draining = true)
    (hstate : partState s p = 2) (hpick : pickCtx s p = some y) (hne : x ≠ y) :
    doPreemptionDrained p s = cntInc (scheduleCtx (dropBuffers (saveCtx s p x) p) p y) 0x0020 p 1 := by
  obtain ⟨only, -, -⟩ := departed_spec s p x
  have hpicked := (only.pickCtx_eq p).trans hpick
  simp only [doPreemptionDrained, hsched, hdrain, hstate, hpicked, hne, Bool.true_eq_false, ne_eq, not_true_eq_false, or_self,
    if_false]

theorem saveArea_mod (s : State) (p x : Nat) : saveArea s p x % 64 = 0 := by
  unfold saveArea
  omega

theorem saveArea_apart (s : State) (p : Nat) {x y : Nat} (h : x < y) : saveArea s p x + 0x10000 ≤ saveArea s p y := by
  unfold saveArea
  omega

/-- The registers that come in are the stored bytes of the save area, whatever the states of their lines. -/
theorem sregOf_preempted {p x y i : Nat} (hsched : (getPart s p).sched = some x) (hdrain : (getPart s p).draining = true)
    (hstate : partState s p = 2) (hpick : pickCtx s p = some y) (hxy : x < y) (hy : y < 8) (hsaved : (getCtx s p y).saved = true)
    (hz : (getCtx s p y).sF.st ≠ .faulted) (hi : i < 31) :
    sregOf (getCtx (doPreemptionDrained p s) p y).sF (i + 1) =
      BitVec.ofNat 64 (leNat (rawBytes s (saveArea s p y + (16 + 8 * i)) 8)) := by
  obtain ⟨only, raw, ctxs⟩ := departed_spec s p x
  have hctx := ctxs y hy hxy.ne'
  have hcounted : (cntInc (scheduleCtx (dropBuffers (saveCtx s p x) p) p y) 0x0020 p 1).ctxs =
      (scheduleCtx (dropBuffers (saveCtx s p x) p) p y).ctxs := by
    have hhub := cntInc_hub (scheduleCtx (dropBuffers (saveCtx s p x) p) p y) 0x0020 p 1
    unfold HubOnly at hhub
    rw [hhub]
  have hbytes : rawBytes (dropBuffers (saveCtx s p x) p) (saveArea s p y + (16 + 8 * i)) 8 =
      rawBytes s (saveArea s p y + (16 + 8 * i)) 8 := by
    refine List.map_congr_left fun n _ => raw _ ?_
    have halign := saveArea_mod s p y
    have hapart := saveArea_apart s p hxy
    omega
  rw [doPreemptionDrained_other hsched hdrain hstate hpick hxy.ne, getCtx, hcounted, ← getCtx,
    sregOf_scheduleCtx (by rw [hctx]; exact hsaved) (by rw [hctx]; exact hz) hi, only.saveArea_eq, hbytes]

theorem next_inj {u v : State} (h : (Host.Outcome.next u : Res) = .next v) : u = v := by
  injection h

theorem exec_preemptionDrained (p : Fin 16) (s : State) : exec (.preemptionDrained p) s = .next (doPreemptionDrained p s) := rfl

/-- O49 asks that the stored bytes of s1 in a save area are what a read gives. -/
theorem stored_eq_read_of_stepsScheduled (h : Obligations.StepsScheduled) {p : Fin 16} {x : Fin 8} {y : Nat}
    (hsched : (getPart s p).sched = some x.val) (hdrain : (getPart s p).draining = true) (hstate : partState s p = 2)
    (hpick : pickCtx s p = some y) (hxy : x.val < y) (hy : y < 8) (hsaved : (getCtx s p y).saved = true)
    (hz : (getCtx s p y).sF.st ≠ .faulted) :
    BitVec.ofNat 64 (leNat (rawBytes s (saveArea s p y + 16) 8)) = BitVec.ofNat 64 (readNat s (saveArea s p y + 16) 8) := by
  obtain ⟨-, -, drained, -⟩ := h p x s
  obtain ⟨t, ht, -, -, -, -, -, -, regs⟩ := drained y hy hsched hdrain hstate hpick
  obtain ⟨restored, -⟩ := regs 0 0 (by decide) (by decide) hz
  rw [exec_preemptionDrained] at ht
  have hread := restored hxy.ne' hsaved
  rw [← next_inj ht] at hread
  exact (sregOf_preempted (i := 0) hsched hdrain hstate hpick hxy hy hsaved hz (by decide)).symm.trans hread

/-! ### The counterexample -/

/-- Partition 0 is enabled and drains: context 0 goes out, context 1 with its running STEP comes in. Context 1 was saved, and the
first byte of s1 in its save area is stored as 1, in a line that is INVALID. -/
def staleArea : State :=
  { State.reset.setReg (rPartCtl 0) 8 with
    mem := smSet 0 [] 0x20010 1, ctxs := smSet emptyCtx [] (ctxKey 0 1) { emptyCtx with saved := true }
    parts := smSet emptyPart [] 0 { emptyPart with sched := some 0, draining := true }
    hub := { Hub.reset with jobs := [⟨0, [0x101], .running, 0, true, false, false⟩] } }

/-- Refutes O49: in `staleArea` the pre-emption reads s1 = 1 from the save area, where a read of the INVALID line gives 0. -/
theorem not_stepsScheduled : ¬ Obligations.StepsScheduled := fun h => by
  have hsame := stored_eq_read_of_stepsScheduled (s := staleArea) (p := 0) (x := 0) (y := 1) h (by decide) (by decide) (by decide)
    (by decide) (by decide) (by decide) (by decide) (by decide)
  exact absurd hsame (by decide)

end Sys2Proof.Machine
end

section
/-! PROOF. The issue of the products MM and MMACC (R155, R180): what clearing the split area does, and that the instruction is in
flight as every tensor instruction is. -/

namespace Sys2Proof.Machine

variable {s t v : State} {a : StreamId} {w : InstrWord}

/-! ### The split area -/

/-- Bytes of the split area of a product: none where K is not split. -/
def Geo.splitSize (g : Geo) : Nat := if 1 < g.ks then g.bm * g.m1 * g.bn * g.n1 * 48 else 0

/-- The split area reads 0 once it is cleared, every other byte as before. -/
theorem readByte_clearSplit (g : Geo) (s : State) (a : StreamId) (iseq : BitVec 32) (x : Nat) :
    readByte (g.clearSplit s a iseq) x =
      if g.splitAddr s a 0 0 ≤ x ∧ x < g.splitAddr s a 0 0 + g.splitSize then 0 else readByte s x := by
  unfold Geo.clearSplit Geo.splitSize
  by_cases hsplit : 1 < g.ks
  · simp only [if_pos hsplit, readByte_writeBytes, List.length_replicate]
    refine ite_congr rfl (fun hx => ?_) fun _ => rfl
    rw [List.getD_replicate]
    omega
  · rw [if_neg hsplit, if_neg hsplit, if_neg (by omega)]

theorem clearSplit_only (g : Geo) (s : State) (a : StreamId) (iseq : BitVec 32) : OnlyMemory s (g.clearSplit s a iseq) := by
  unfold Geo.clearSplit
  split
  · exact writeBytes_only _ _ _ _
  · exact .refl s

/-- Issuing an instruction leaves the split area where it is. -/
theorem OnlyIssue.splitAddr (h : OnlyIssue s t) (g : Geo) (m n : Nat) : g.splitAddr t a m n = g.splitAddr s a m n := by
  rw [h]
  rfl

theorem OnlyIssue.readByte (h : OnlyIssue s t) (x : Nat) : readByte t x = readByte s x := by
  rw [h]
  rfl

/-! ### Issue -/

/-- An instruction in flight stays so whatever memory holds. -/
theorem Issued.of_memory {tds : List DescWord} {aux : List Nat} {n : Nat} (hmem : OnlyMemory t v) (h : Issued s t a w tds aux n) :
    Issued s v a w tds aux n := by
  obtain ⟨ctxs, strms, ctx, fences, strm, infl⟩ := h
  have hctx := ctxAt_congr hmem.ctxs a
  have hstrm := strmAt_congr hmem.ctxs a
  rw [← hctx] at ctx
  rw [← hstrm] at strm infl
  exact ⟨fun k hk => hmem.ctxs ▸ ctxs k hk, fun k hk => hctx ▸ strms k hk, ctx, fun g => hctx ▸ fences g, strm, infl⟩

/-- A product that can issue clears the split area that its captured descriptors give. -/
theorem issueProd_eq {o : TOp} (g : List DescWord → Geo) (h : CanIssue s a w o) :
    issueProd o g a w s = (g (o.capture s a w)).clearSplit (issueTensor o a w s) a (strmAt s a).iseq := by
  have hinfl := (issueTensor_spec o s a w h).1.infl
  unfold issueProd
  dsimp only
  rw [hinfl, List.getLast?_concat]
  exact if_pos ⟨rfl, by simp⟩

/-- The geometry of MM and MMACC is that of TDA and TDB as captured. -/
theorem mmGeoOf_capture (op : Nat) (acc : Bool) (x : Nat) (unit : State → Option SFault)
    (extra : State → List DescWord → List (Option SFault)) :
    mmGeoOf w ((mmOp op acc x unit extra a w).capture s a w) = mmGeo w (opDesc s a w 0) (opDesc s a w 1) := by
  unfold mmGeoOf TOp.capture mmOp mmUses
  cases mmRst w <;> rfl

/-- MM and MMACC have L0 tiles times K extents as their tiles. -/
theorem mmOp_plan (op : Nat) (acc : Bool) (x : Nat) (unit : State → Option SFault)
    (extra : State → List DescWord → List (Option SFault)) :
    (mmOp op acc x unit extra a w).plan s ((mmOp op acc x unit extra a w).capture s a w) =
      ([], (mmGeo w (opDesc s a w 0) (opDesc s a w 1)).tiles * (mmGeo w (opDesc s a w 0) (opDesc s a w 1)).e) :=
  congrArg (fun g : Geo => ([], g.tiles * g.e)) (mmGeoOf_capture op acc x unit extra)

/-- What the issue of a product leaves: the instruction in flight, its split area zero and every other byte as it was. -/
theorem issueProd_issued {o : TOp} (g : List DescWord → Geo) (h : CanIssue s a w o) :
    let t := issueProd o g a w s
    let geo := g (o.capture s a w)
    let area := geo.splitAddr s a 0 0
    t = { s with ctxs := t.ctxs, trace := t.trace, mem := t.mem, ent := t.ent, cache := t.cache } ∧
      Issued s t a w (o.capture s a w) (o.plan s (o.capture s a w)).1 (o.plan s (o.capture s a w)).2 ∧
      (∀ x, area ≤ x → x < area + geo.splitSize → readByte t x = 0) ∧
      ∀ x, (x < area ∨ area + geo.splitSize ≤ x) → readByte t x = readByte s x := by
  intro t geo area
  obtain ⟨issued, only⟩ := issueTensor_spec o s a w h
  have ht : t = geo.clearSplit (issueTensor o a w s) a (strmAt s a).iseq := issueProd_eq g h
  have hmem : OnlyMemory (issueTensor o a w s) t := ht ▸ clearSplit_only _ _ _ _
  have hread : ∀ x, readByte t x = if area ≤ x ∧ x < area + geo.splitSize then 0 else readByte s x := fun x => by
    rw [ht, readByte_clearSplit, only.splitAddr, only.readByte]
  refine ⟨?frame, issued.of_memory hmem, fun x hlo hhi => ?inside, fun x hx => ?outside⟩
  case frame =>
    unfold OnlyMemory at hmem
    rw [hmem, only]
  case inside => rw [hread, if_pos ⟨hlo, hhi⟩]
  case outside => rw [hread, if_neg (by omega)]

/-- Settles O12: MM and MMACC issue through `issueProd`, over the geometry of TDA and TDB. -/
theorem productsIssue : Obligations.ProductsIssue := by
  unfold Obligations.ProductsIssue
  intro a w s g area size issues
  have product : ∀ op acc (i : Instr), exec i s = .next (issueProd (mmOp op acc (xm 39 0) (fun _ => none) (fun _ _ => []) a w)
      (mmGeoOf w) a w s) → issues i op acc := fun op acc i hi h => by
    have issued := issueProd_issued (mmGeoOf w) h
    rw [mmGeoOf_capture, mmOp_plan] at issued
    exact ⟨_, hi, issued⟩
  exact ⟨product 0x30 false _ rfl, product 0x31 true _ rfl⟩

end Sys2Proof.Machine
end

section
/-! PROOF. TILE_END in a cluster that is not in service (R62, R579): a contained cluster ends no tile, so FILL stores nothing
there. -/

namespace Sys2Proof.Machine

variable {s : State} {a : StreamId} {i : BitVec 32} {f : InFlight} {t : Nat} {core : Fin 1024}

theorem exec_tileEnd_contained (h : s.rbit rCluState (core.val / 32) = false) (e : StoreErr) :
    exec (.tileEnd a i t core e) s = .next s :=
  next_congr (if_neg (by rw [h]; nofun))

/-- The statement has the cluster of every core that may end a tile of FILL in service. -/
theorem inService_of_tilesAndCompletion (h : Obligations.TilesAndCompletion) (hf : findFlight (strmAt s a) i = some f)
    (hsched : (getPart s a.part).sched = some a.ctx.val) (hop : iOp f.w = 0x22) (hend : mayEnd s a f t core = true)
    (hfree : coreFree s a f core = true) (hstore : ∀ x, x ∈ outAddrs (f.tds.getD 2 0)
      (linElems (f.tds.getD 2 0) (t * 16384) 16384) → addrNack s x = 0) : s.rbit rCluState (core.val / 32) = true := by
  by_contra hout
  obtain ⟨-, fill, -⟩ := h a i f s hf hsched
  obtain ⟨u, g, hu, -, -, hg, hdone, -⟩ := fill t core hop hend hfree hstore
  rw [exec_tileEnd_contained (Bool.eq_false_iff.mpr hout)] at hu
  rw [← next_inj hu, hf] at hg
  obtain rfl := Option.some.inj hg
  simp at hdone

/-! ### The counterexample -/

/-- A FILL of the one FP32 element at 0x10000, in flight with its one tile not ended. -/
def oneFill : InFlight where
  iseq := 7
  pc := 0
  w := 0x22
  tds := [0, 0, BitVec.ofNat 512 (0x10000 + 2 ^ 54 + 2 ^ 63 + 2 ^ 64 + 2 ^ 96 + 2 ^ 128 + 2 ^ 160 + 2 ^ 192), 0]
  sa := 5
  sb := 0
  aux := []
  nTiles := 1
  granted := []
  claims := []
  done := []
  bad := []
  seen := []
  nf := false
  sat := false
  passed := false
  t0 := 0
  accs := []

/-- Context 0 of partition 0 is scheduled with `oneFill` in flight in stream F; cluster 0, the only one of the partition, is not
in service. -/
def containedFill : State :=
  { (State.reset.setReg (rPartClu 0) 1).setRBit rCluState 0 false with
    ctxs := smSet emptyCtx [] (ctxKey 0 0)
      { emptyCtx with started := true, sF := { emptyStream with st := .issuing, infl := [oneFill] } }
    parts := smSet emptyPart [] 0 { emptyPart with sched := some 0 } }

/-- Refutes O22: in `containedFill` TILE_END of tile 0 on core 0 leaves the state as it was. -/
theorem not_tilesAndCompletion : ¬ Obligations.TilesAndCompletion := fun h => by
  have hend : mayEnd containedFill ⟨0, 0, .F⟩ oneFill 0 (0 : Fin 1024) = true := by decide
  have hfree : coreFree containedFill ⟨0, 0, .F⟩ oneFill (0 : Fin 1024) = true := by decide +kernel
  have hstore : ∀ x, x ∈ outAddrs (oneFill.tds.getD 2 0) (linElems (oneFill.tds.getD 2 0) (0 * 16384) 16384) →
      addrNack containedFill x = 0 := by decide +kernel
  have hservice := inService_of_tilesAndCompletion (i := 7) h rfl (by decide) (by decide) hend hfree hstore
  exact absurd hservice (by decide)

end Sys2Proof.Machine
end

section
/-! PROOF. The issue of the convolutions and POOL (R206 to R224), of the vector instructions and reductions (R225 to R231), and of
the table and quantising instructions (R238 to R248). -/

namespace Sys2Proof.Machine

variable {s : State} {a : StreamId} {w : InstrWord} {o : TOp} {i : Instr} {k : Nat} {aux : List Nat}

/-! ### Captured operands and their tiles -/

/-- An operand field that the instruction uses is captured as the context's descriptor (R110). -/
theorem capture_getD_used (hk : k < 4) (hused : k ∈ o.uses.tds) : (o.capture s a w).getD k 0 = opDesc s a w k := by
  have hlen : k < (capture4 s a w o.uses.tds).length := by
    rwa [capture4, List.length_map, List.length_range]
  unfold TOp.capture
  rw [List.getD_append _ _ _ _ hlen, List.getD_eq_getElem _ _ hlen]
  simp only [capture4, List.getElem_map, List.getElem_range]
  exact if_pos (List.contains_iff_mem.mpr hused)

/-- An instruction that writes TDC in element tiles issues as the tiles of the context's TDC (R192). -/
theorem issues_elemTiles (hi : exec i s = .next (issueTensor o a w s)) (hused : 2 ∈ o.uses.tds)
    (hplan : o.plan s (o.capture s a w) = (aux, elemTiles ((o.capture s a w).getD 2 0))) :
    Issues i s a w o aux (ceilDiv (dCount (opDesc s a w 2)) 16384) := by
  have issues := issues_tensor hi
  rwa [hplan, capture_getD_used (by decide) hused] at issues

/-- POOL uses TDC, with or without the container of its indices. -/
theorem poolOp_uses_tdc (a : StreamId) (w : InstrWord) : 2 ∈ (poolOp a w).uses.tds := by
  change 2 ∈ if plTdd w then [0, 2, 3] else [0, 2]
  split <;> decide

/-- NORM uses TDC whichever of γ, β and dy it reads. -/
theorem normOp_uses_tdc (a : StreamId) (w : InstrWord) : 2 ∈ (normOp a w).uses.tds := by
  change 2 ∈ (nmUses w).tds
  simp [nmUses]

/-- SMAX uses TDC forward and backward. -/
theorem smaxOp_uses_tdc (a : StreamId) (w : InstrWord) : 2 ∈ (smaxOp a w).uses.tds := by
  change 2 ∈ if smBwd w then [0, 2, 3] else [0, 2]
  split <;> decide

/-- QNT uses TDC with derived and with given scales. -/
theorem qntOp_uses_tdc (a : StreamId) (w : InstrWord) : 2 ∈ (qntOp a w).uses.tds := by
  change 2 ∈ if qnGiven w then [0, 2, 3] else [0, 2]
  split <;> decide

/-- An element-wise instruction with TDC among its operands issues as the element tiles of TDC (R225). -/
theorem issues_elemOp {op x : Nat} {tds : List Nat} {word : List (Option SFault)}
    (hi : exec i s = .next (issueTensor (elemOp op tds x word a) a w s)) (hused : 2 ∈ tds) :
    Issues i s a w (elemOp op tds x word a) [] (ceilDiv (dCount (opDesc s a w 2)) 16384) :=
  issues_elemTiles hi hused rfl

/-- A reduction issues as the element tiles of its result (R227). -/
theorem issues_redOp {op : Nat} (hi : exec i s = .next (issueTensor (redOp op a w) a w s)) :
    Issues i s a w (redOp op a w) [] (ceilDiv (dCount (opDesc s a w 2)) 16384) :=
  issues_elemTiles hi (List.mem_pair.mpr (.inr rfl)) rfl

/-- NORM issues as one tile for each row of TDC (R228). -/
theorem issues_norm : Issues (.norm a w) s a w (normOp a w) [] (dRows (opDesc s a w 2)) := by
  have issues : Issues (.norm a w) s a w (normOp a w) [] (dRows (((normOp a w).capture s a w).getD 2 0)) := issues_tensor rfl
  rwa [capture_getD_used (by decide) (normOp_uses_tdc a w)] at issues

/-- MINV issues as one tile for each work unit of the problems that TDA holds (R231). -/
theorem issues_minv : Issues (.minv a w) s a w (minvOp a w) []
    (ceilDiv (dDim (opDesc s a w 0) 2) (mvUnit (dDim (opDesc s a w 0) 0))) := by
  have hcapture : ((minvOp a w).capture s a w).getD 0 0 = opDesc s a w 0 :=
    capture_getD_used (by decide) (List.mem_pair.mpr (.inl rfl))
  have issues : Issues (.minv a w) s a w (minvOp a w) [] (ceilDiv (dDim (((minvOp a w).capture s a w).getD 0 0) 2)
      (mvUnit (dDim (((minvOp a w).capture s a w).getD 0 0) 0))) := issues_tensor rfl
  rwa [hcapture] at issues

/-- A convolution issues as the L0 tiles times K extents of its geometry over the captured descriptors (R206). -/
theorem issues_cvOp {op : Nat} (hi : exec i s = .next (issueTensor (cvOp op a w) a w s)) :
    Issues i s a w (cvOp op a w) [] ((cvProd w ((cvOp op a w).capture s a w)).g.tiles *
      (cvProd w ((cvOp op a w).capture s a w)).g.e) :=
  issues_tensor hi

/-! ### The obligations -/

/-- Settles O14: VBIN to VCVT issue as `elemOp` does, the reductions as `redOp` does; NORM and MINV have their own cuts. -/
theorem vectorsIssue : Obligations.VectorsIssue := by
  unfold Obligations.VectorsIssue
  intro a w s n
  refine ⟨?vbin, ?vfma, ?vun, ?vcvt, issues_norm, ?smax, issues_minv, ?sum, ?max, ?min, ?squares⟩
  case vbin => exact issues_elemOp rfl (by decide)
  case vfma => exact issues_elemOp rfl (by decide)
  case vun => exact issues_elemOp rfl (by decide)
  case vcvt => exact issues_elemOp rfl (by decide)
  case smax => exact issues_elemTiles rfl (smaxOp_uses_tdc a w) rfl
  case sum => exact issues_redOp rfl
  case max => exact issues_redOp rfl
  case min => exact issues_redOp rfl
  case squares => exact issues_redOp rfl

/-- Settles O15: the `plan` of TFN reads SEED and STEP of the lead cluster, that of TLOAD is one tile and that of REQNT none. -/
theorem tablesAndQuantisersIssue : Obligations.TablesAndQuantisersIssue := by
  unfold Obligations.TablesAndQuantisersIssue
  intro a w s n lead
  refine ⟨?tfn, ?tder, ?tload, ?qnt, ?dqnt, ?amax, ?reqnt⟩
  case tfn => exact issues_elemTiles rfl (List.mem_pair.mpr (.inr rfl)) rfl
  case tder => exact issues_elemTiles rfl (show 2 ∈ [0, 1, 2] by decide) rfl
  case tload => exact issues_tensor rfl
  case qnt => exact issues_elemTiles rfl (qntOp_uses_tdc a w) rfl
  case dqnt => exact issues_elemTiles rfl (List.mem_pair.mpr (.inr rfl)) rfl
  case amax => exact issues_elemTiles rfl (List.mem_pair.mpr (.inr rfl)) rfl
  case reqnt => exact issues_tensor rfl

/-- Settles O13: the four convolutions issue as `cvOp` does, POOL as the element tiles of TDC. -/
theorem convolutionsIssue : Obligations.ConvolutionsIssue := by
  unfold Obligations.ConvolutionsIssue
  intro a w s n
  exact ⟨issues_cvOp rfl, issues_cvOp rfl, issues_cvOp rfl, issues_cvOp rfl,
    issues_elemTiles rfl (poolOp_uses_tdc a w) rfl⟩

end Sys2Proof.Machine
end

section
/-! PROOF. The issue of UPD (R252, R254), and FPRINT, which completes behind the fence unit (R147). -/

namespace Sys2Proof.Machine

variable {s : State} {a : StreamId} {w : InstrWord} {i : Instr} {fn : Nat}

/-! ### UPD -/

/-- A UPD of the function that the command names issues once no earlier one holds the norm record that it uses. -/
theorem issueUpd_free (hfree : normWait s a w (upRecord s a.part ((updOp a w).capture s a w)) = false) (hfn : upFn w = fn) :
    issueUpd fn a w s = issueTensor (updOp a w) a w s := by
  refine if_pos ?_
  rw [hfree, Bool.and_false, decide_eq_true hfn]
  rfl

theorem issues_updOp (hi : exec i s = .next (issueUpd fn a w s))
    (hfree : normWait s a w (upRecord s a.part ((updOp a w).capture s a w)) = false) (hfn : upFn w = fn) :
    Issues i s a w (updOp a w) ((updOp a w).plan s ((updOp a w).capture s a w)).1 0 :=
  issues_tensor (hi.trans (next_congr (issueUpd_free hfree hfn)))

/-- APPLY goes on to its issue where X[1:0] names it and not 3, which is no function. -/
theorem exec_updApply (hfn : upFn w = 0) : exec (.updApply a w) s = .next (issueUpd 0 a w s) :=
  next_congr (if_neg (by rw [hfn]; decide))

/-! ### FPRINT -/

/-- The fingerprint is over the entries of the blocks, which the fence unit leaves alone. -/
theorem fingerprint_of_fences {u : State} (h : OnlyFences s u a) (d : DescWord) : fingerprint u d = fingerprint s d := by
  rw [h.rest]
  rfl

/-- Where it can issue, FPRINT completes with the fingerprint of the context's TDA once its readers have counted. -/
theorem doFprint_completes (h : CanIssue s a w (fprintOp a)) :
    ∃ u, OnlyFences s u a ∧ FencesCounted s u a w ((fprintOp a).capture s a w) ∧
      doFprint a w s = completeNow (putD u a w (fingerprint s (opDesc s a w 0))) a w ((strmAt u a).pc + 1) := by
  obtain ⟨u, hu, hfences, hcount⟩ := withFence_spec s a w ((fprintOp a).capture s a w) (fprintOp a).op
    (fun v => completeNow (putD v a w (fingerprint v (((fprintOp a).capture s a w).getD 0 0))) a w ((strmAt v a).pc + 1)) h.fence
  have htda : ((fprintOp a).capture s a w).getD 0 0 = opDesc s a w 0 := capture_getD_used (by decide) (List.mem_singleton_self 0)
  rw [fingerprint_of_fences hfences, htda] at hu
  refine ⟨u, hfences, hfences.counted hcount, ?_⟩
  unfold doFprint
  extract_lets o tds
  refine (withWordAfter_free h.free h.ready _).trans ?_
  rw [show firstFault (o.unit s :: descChecks s tds o.uses.tds o.wr ++ o.checks s tds) = none from h.checks]
  exact hu

/-- Settles O16: the three forms of UPD issue through `issueUpd`, and FPRINT writes sD behind the fence unit. -/
theorem updatesIssue : Obligations.UpdatesIssue := by
  unfold Obligations.UpdatesIssue
  intro a w s r aux
  refine ⟨fun hfree => ⟨fun hfn => ?apply, fun hfn => ?norm, fun hfn => ?pack⟩, fun h => ?fprint⟩
  case apply => exact issues_updOp (exec_updApply hfn) hfree hfn
  case norm => exact issues_updOp rfl hfree hfn
  case pack => exact issues_updOp rfl hfree hfn
  case fprint =>
    obtain ⟨u, hfences, hcounted, hdo⟩ := doFprint_completes h
    have htaken : accepts u a w = true := (accepts_of_fences w hfences).trans h.ready.taken
    have hwindow : (strmAt u a).pc + 1 < (strmAt u a).plen := by
      rw [strmAt_of_fences hfences]
      exact h.window
    exact ⟨u, _, hcounted, next_congr hdo, putD_spec u a w _ htaken hwindow⟩

end Sys2Proof.Machine
end

section
/-! PROOF. UPD_FENCE_PASS (R256, R273, R274) and COMPARATOR_GROUP_END (R516). -/

namespace Sys2Proof.Machine

variable {s u v : State} {a : StreamId} {i : BitVec 32} {f : InFlight} {g : FenceG} {rel lock : Bool}

/-! ### The fence of a group (R273, Table 6.5) -/

theorem fenceTry_unfenced (huse : fenceUse f.w = none) : fenceTry s a f = some s := by
  unfold fenceTry
  rw [huse]

/-- A group with FENCE = 0 holds nothing. -/
theorem fenceTry_off (huse : fenceUse f.w = some (rel, lock)) (hgroup : fenceOf (ctxAt s a) (fenceGroup f) = some g)
    (hoff : g.fence = false) : fenceTry s a f = some s := by
  simp [fenceTry, huse, hgroup, hoff]

/-- Under the condition of Table 6.5 the stall counts and the lock is set. -/
theorem fenceTry_open (huse : fenceUse f.w = some (rel, lock)) (hgroup : fenceOf (ctxAt s a) (fenceGroup f) = some g)
    (hon : g.fence = true) (hopen : fenceOpen g rel = true) :
    let v := cntInc s (0x10 + g.vstage) a.part (timeNs s - f.t0)
    fenceTry s a f = some (if lock = true then modFence v a.part a.ctx (fenceGroup f) fun g => { g with lock := true } else v) := by
  simp [fenceTry, huse, hgroup, hon, hopen]

theorem fenceOpen_of_counts (hrc : g.rc = 0) (hlock : g.lock = false) (hrel : rel = true → g.nmb = 0 ∨ g.rel = g.nmb) :
    fenceOpen g rel = true := by
  cases rel with
  | false => simp [fenceOpen, hrc, hlock]
  | true => simpa [fenceOpen, hrc, hlock] using .inr (hrel rfl)

theorem claimsBefore_unfenced (huse : fenceUse f.w = none) : claimsBefore s a f = false := by
  unfold claimsBefore
  rw [huse]
  rfl

/-! ### Execution past the fence -/

/-- The instruction executes in `u`, its fence passed; an APPLY that wrote its master is checked (R442). -/
def runPassed (u : State) (a : StreamId) (f : InFlight) : State :=
  let g := { f with passed := true }
  let r := updRun (setFlight u a g) a g
  if r.2 = true then fpSelf r.1 a.part (f.tds.getD 2 0) (pgGstep (BitVec.ofNat 512 (f.aux.getD 0 0))) else r.1

/-- The command names an update or REQNT of the scheduled context that has not passed its fence. -/
structure AtFence (s : State) (a : StreamId) (i : BitVec 32) (f : InFlight) : Prop where
  flight : findFlight (strmAt s a) i = some f
  opcode : iOp f.w = 0x90 ∨ iOp f.w = 0x91
  waits : f.passed = false
  sched : (getPart s a.part).sched = some a.ctx.val

/-- The group's fence fields read in `u`, no older claim first, and the fence lets the instruction by into `v`. -/
theorem AtFence.passes (h : AtFence s a i f)
    (hload : (if (fenceUse f.w).isSome = true then loadFence s a.part a.ctx (fenceGroup f) else some s) = some u)
    (hclaims : claimsBefore u a f = false) (htry : fenceTry u a f = some v) :
    exec (.updFencePass a i) s = .next (runPassed v a f) := by
  refine next_congr ?_
  have hmeant : ¬ ((iOp f.w ≠ 0x90 ∧ iOp f.w ≠ 0x91) ∨ f.passed = true ∨ (getPart s a.part).sched ≠ some a.ctx.val) := by
    rintro (⟨hupd, hreqnt⟩ | hpassed | hother)
    · exact h.opcode.elim hupd hreqnt
    · simp [h.waits] at hpassed
    · exact hother h.sched
  unfold doUpdFencePass
  simp only [h.flight]
  rw [if_neg hmeant, hload]
  simp only [hclaims, htry]
  rfl

theorem AtFence.passes_unfenced (h : AtFence s a i f) (huse : fenceUse f.w = none) :
    exec (.updFencePass a i) s = .next (runPassed s a f) :=
  h.passes (by rw [huse]; rfl) (claimsBefore_unfenced huse) (fenceTry_unfenced huse)

theorem AtFence.passes_fenced (h : AtFence s a i f) (huse : fenceUse f.w = some (rel, lock))
    (hload : loadFence s a.part a.ctx (fenceGroup f) = some u) (hclaims : claimsBefore u a f = false)
    (htry : fenceTry u a f = some v) : exec (.updFencePass a i) s = .next (runPassed v a f) :=
  h.passes (by rw [huse]; exact hload) hclaims htry

/-! ### A frozen group (R256) -/

theorem updRun_frozen (hop : iOp f.w = 0x90) (hfrozen : pgFrozen (BitVec.ofNat 512 (f.aux.getD 0 0)) = true) :
    updRun s a f = (upSkip s a, false) := by
  unfold updRun
  rw [if_neg (by rw [hop]; decide)]
  exact if_pos hfrozen

theorem runPassed_frozen (hop : iOp f.w = 0x90) (hfrozen : pgFrozen (BitVec.ofNat 512 (f.aux.getD 0 0)) = true) :
    runPassed s a f = upSkip (setFlight s a { f with passed := true }) a := by
  have hrun : ∀ u, updRun u a { f with passed := true } = (upSkip u a, false) := fun u => updRun_frozen hop hfrozen
  unfold runPassed
  simp only [hrun]
  rfl

/-- The skip is a count, and what a threshold of its counter reports. -/
theorem upSkip_reported (s : State) (a : StreamId) : Reported s (upSkip s a) := cntInc_reported _ _ _ _

theorem iseq_of_findFlight {t : Stream} (h : findFlight t i = some f) : f.iseq = i := by
  have hfound := List.find?_some h
  exact of_decide_eq_true hfound

theorem setFlight_infl (s : State) (a : StreamId) (f : InFlight) :
    (strmAt (setFlight s a f) a).infl = (strmAt s a).infl.map fun g => if g.iseq = f.iseq then f else g := by
  unfold setFlight modWhere
  rw [strmAt_modStrmAt]
  simp only [decide_eq_true_eq]

/-- UPD NORM waits at no fence (Table 6.5). -/
theorem fenceUse_norm {w : InstrWord} (hop : iOp w = 0x90) (hfn : xF w 1 0 = 1) : fenceUse w = none := by
  simp [fenceUse, upFn, hop, hfn]

/-! ### The end of a comparator group (R516) -/

/-- The partition of the replay that runs, and whether it stops at a divergence. -/
def replayKind (s : State) : Option (Nat × Bool) := s.hub.rep.map fun q => (q.part, q.stopDiv)

theorem replayKind_of_rep (h : u.hub.rep = s.hub.rep) : replayKind u = replayKind s := by
  rw [replayKind, h, replayKind]

theorem OnlyMemory.replayKind (h : OnlyMemory s u) : replayKind u = replayKind s := by
  refine replayKind_of_rep ?_
  rw [h]

theorem Reported.replayKind (h : Reported s u) : replayKind u = replayKind s := by
  refine replayKind_of_rep ?_
  rw [h.hub]

@[simp] theorem replayKind_setReg (s : State) (r : Nat) (x : Word) : replayKind (s.setReg r x) = replayKind s := rfl
@[simp] theorem replayKind_setFld (s : State) (r hi lo n : Nat) : replayKind (s.setFld r hi lo n) = replayKind s := rfl
@[simp] theorem replayKind_setRBit (s : State) (r n : Nat) (b : Bool) : replayKind (s.setRBit r n b) = replayKind s := rfl
@[simp] theorem replayKind_setPart (s : State) (p : Nat) (q : Part) : replayKind (setPart s p q) = replayKind s := rfl
@[simp] theorem replayKind_writeBytes (s : State) (n : Nat) (bs : List Byte) (w : Option Tag) :
    replayKind (writeBytes s n bs w) = replayKind s := (writeBytes_only s n bs w).replayKind
@[simp] theorem replayKind_event0 (s : State) (code die : Nat) (part : Option Nat) (pay : List Word) :
    replayKind (event0 s code die part pay) = replayKind s := (event0_reported s code die part pay).replayKind

@[simp] theorem replayKind_slgHoldUpdate (s : State) (p : Nat) : replayKind (slgHoldUpdate s p) = replayKind s := rfl

@[simp] theorem replayKind_slgStore (s : State) (p : Nat) (r : SlgRec) : replayKind (slgStore s p r) = replayKind s := by
  simp [slgStore]

@[simp] theorem replayKind_slgLostFlush (s : State) (p : Nat) : replayKind (slgLostFlush s p) = replayKind s := by
  simp [slgLostFlush, apply_ite replayKind]

@[simp] theorem replayKind_slgLose (s : State) (p : Nat) : replayKind (slgLose s p) = replayKind s := by
  simp [slgLose, apply_ite replayKind]

/-- A record that a replay sees is kept with it; the replay goes on. -/
@[simp] theorem replayKind_replaySee (s : State) (p : Nat) (r : SlgRec) : replayKind (replaySee s p r) = replayKind s := by
  unfold replaySee
  split
  · next q hq =>
    have hseen : replayKind { s with hub := { s.hub with rep := some { q with seen := q.seen ++ [slgWords s p r 0] } } } =
        replayKind s := by
      rw [replayKind, replayKind, hq]
      rfl
    rw [apply_ite replayKind, hseen, ite_self]
  · rfl

@[simp] theorem replayKind_slgWrite (s : State) (p : Nat) (r : SlgRec) : replayKind (slgWrite s p r) = replayKind s := by
  simp [slgWrite, apply_ite replayKind]

theorem replayKind_capture {h : State → State} (hh : replayKind (h s) = replayKind s) (av vbit : Nat) :
    replayKind (s.capture av vbit h) = replayKind s := by
  simp [State.capture, apply_ite replayKind, hh]

/-- A divergence marks the replay that it belongs to and reports it; partition and stop at a divergence stay. -/
@[simp] theorem replayKind_cmpCheck (s : State) (a : StreamId) (w : List Word) : replayKind (cmpCheck s a w) = replayKind s := by
  unfold cmpCheck
  split
  · rfl
  · next q hq =>
    have hmarked : replayKind { s with hub := { s.hub with rep := some { q with diverged := true } } } = replayKind s := by
      rw [replayKind, replayKind, hq]
      rfl
    cases cmpRef s q w with
    | none => simp
    | some r =>
      dsimp only
      simp only [apply_ite replayKind]
      rw [replayKind_capture (by simp), replayKind_event0, hmarked, ite_self, ite_self]

@[simp] theorem replayKind_cmpRecord (a : StreamId) (last : Nat) (s : State) (x : Nat × Nat × DescWord) :
    replayKind (cmpRecord a last s x) = replayKind s := by
  simp [cmpRecord]

theorem replayKind_foldl_cmpRecord (a : StreamId) (last : Nat) (xs : List (Nat × Nat × DescWord)) (s : State) :
    replayKind (xs.foldl (cmpRecord a last) s) = replayKind s := by
  induction xs generalizing s with
  | nil => rfl
  | cons x xs ih => exact (ih _).trans (replayKind_cmpRecord a last s x)

/-- No replay of the partition stops at a divergence. -/
theorem replayKind_ne_stop {p : Nat} : replayKind s ≠ some (p, true) ↔
    ∀ q, s.hub.rep = some q → q.part = p → q.stopDiv = false := by
  simp [replayKind]

/-- The records that a group has to write, in issue order. -/
def groupRecords (t : Stream) : List (Nat × Nat × DescWord) :=
  (sortNat (t.wrote.map Prod.fst)).filterMap fun n => t.wrote.find? fun x => decide (x.1 = n)

/-- The group has ended: its records stand and the stream is held no longer. -/
def groupEnded (s : State) (a : StreamId) : State :=
  modStrmAt ((groupRecords (strmAt s a)).foldl (cmpRecord a (((strmAt s a).iseq.toNat + 2 ^ 32 - 1) % 2 ^ 32)) s) a
    fun t => { t with hold := false, wrote := [] }

theorem replayKind_groupEnded (s : State) (a : StreamId) : replayKind (groupEnded s a) = replayKind s :=
  replayKind_foldl_cmpRecord _ _ _ _

/-- The stream goes on where no replay of the partition stops at a divergence. -/
theorem exec_comparatorGroupEnd (hhold : (strmAt s a).hold = true) (hinfl : (strmAt s a).infl = [])
    (hgoes : replayKind s ≠ some (a.part.val, true)) :
    exec (.comparatorGroupEnd a) s = .next (settle (groupEnded s a) a.part a.ctx) := by
  have hends : ¬ ((strmAt s a).hold = false ∨ (strmAt s a).infl ≠ []) := by simp [hhold, hinfl]
  rw [← replayKind_groupEnded s a, replayKind_ne_stop] at hgoes
  refine next_congr ((if_neg hends).trans (congrArg (fun u => settle u a.part a.ctx) ?_))
  split
  · next q hq =>
    refine if_neg ?_
    rintro ⟨hpart, -, hstop⟩
    simp [hgoes q hq hpart] at hstop
  · rfl

/-- A group that wrote nothing leaves no record. -/
theorem groupEnded_nothing (hwrote : (strmAt s a).wrote = []) :
    groupEnded s a = modStrmAt s a fun t => { t with hold := false, wrote := [] } := by
  have hnone : groupRecords (strmAt s a) = [] := by
    unfold groupRecords
    rw [hwrote]
    rfl
  unfold groupEnded
  rw [hnone]
  rfl

/-- The context goes on while another of its streams has work in flight. -/
theorem settle_modStrmAt_of_other {k : Strm} (hk : k ≠ a.strm) (hflight : ((ctxAt s a).strm k).infl ≠ []) (h : Stream → Stream) :
    settle (modStrmAt s a h) a.part a.ctx = modStrmAt s a h := by
  refine settle_of_not_done (ctxDone_of_flight (k := k) ?_)
  change ((ctxAt (modStrmAt s a h) a).strm k).infl ≠ []
  rwa [ctxAt_modStrmAt, strm_setStrm_ne _ _ hk]

/-- Settles O23: `AtFence.passes` for each case of Table 6.5, `runPassed_frozen` and `exec_comparatorGroupEnd`. -/
theorem fencePassAndGroupEnd : Obligations.FencePassAndGroupEnd := by
  unfold Obligations.FencePassAndGroupEnd
  intro a i f s
  refine ⟨fun hf hop hwaits hsched => ⟨fun huse => ?unfenced, fun rel lock u g huse hload hgroup hclaims => ⟨fun hoff => ?off,
    fun hon hrc hlock hrel => ?opened⟩⟩, fun hf hop hwaits hsched hfn hfrozen => ?frozen, fun hhold hinfl hgoes => ?recorded,
    fun hhold hinfl hwrote hrep hother => ?nothing⟩
  case unfenced => exact AtFence.passes_unfenced ⟨hf, hop, hwaits, hsched⟩ huse
  case off => exact AtFence.passes_fenced ⟨hf, hop, hwaits, hsched⟩ huse hload hclaims (fenceTry_off huse hgroup hoff)
  case opened =>
    exact AtFence.passes_fenced ⟨hf, hop, hwaits, hsched⟩ huse hload hclaims
      (fenceTry_open huse hgroup hon (fenceOpen_of_counts hrc hlock hrel))
  case frozen =>
    have hpass := AtFence.passes_unfenced ⟨hf, .inl hop, hwaits, hsched⟩ (fenceUse_norm hop hfn)
    rw [runPassed_frozen hop hfrozen] at hpass
    refine ⟨_, setFlight s a { f with passed := true }, hpass, upSkip_reported _ _, rfl, onlyStream_modStrmAt _ _ _, ?_, ?_, ?_, ?_⟩
    · rw [setFlight_infl, ← iseq_of_findFlight hf]
    · rw [setFlight, strmAt_modStrmAt]
    · rw [setFlight, ctxAt_modStrmAt, setStrm_td]
    · rw [setFlight, ctxAt_modStrmAt, setStrm_bc]
  case recorded => exact exec_comparatorGroupEnd hhold hinfl (replayKind_ne_stop.mpr hgoes)
  case nothing =>
    obtain ⟨k, hk, hflight⟩ := hother
    have hgoes : replayKind s ≠ some (a.part.val, true) := by simp [replayKind, hrep]
    have hend := exec_comparatorGroupEnd hhold hinfl hgoes
    rw [groupEnded_nothing hwrote, settle_modStrmAt_of_other hk hflight] at hend
    refine ⟨_, hend, onlyStream_modStrmAt _ _ _, rfl, strmAt_modStrmAt _ _ _, ?_, ?_⟩
    · rw [ctxAt_modStrmAt, setStrm_td]
    · rw [ctxAt_modStrmAt, setStrm_bc]

end Sys2Proof.Machine
end

section
/-! PROOF. The state after reset (R278 to R282, R301). -/

namespace Sys2Proof.Machine

variable {c d o p r : Nat}

/-! ### Registers -/

theorem smGet_of_not_mem {α : Type} {v : α} {m : SMap α} {k : Nat} (h : ∀ q, q ∈ m → q.1 ≠ k) : smGet v m k = v := by
  induction m with
  | nil => rfl
  | cons q m ih =>
    obtain ⟨hq, hm⟩ := List.forall_mem_cons.mp h
    exact (if_neg hq).trans (ih hm)

theorem regDefault_eq_elim (r : Nat) : regDefault r = (regSpec r).elim 0 RegSpec.reset := by
  unfold regDefault
  cases regSpec r <;> rfl

/-- A register that discovery does not write holds the reset value of its table. -/
theorem reg_reset (hfab : rFabStat ≠ r) (hdie : ∀ d, d < 8 → rDieIdent d ≠ r ∧ rEdgeStat d ≠ r) :
    State.reset.reg r = (regSpec r).elim 0 RegSpec.reset := by
  refine (smGet_of_not_mem fun q hq => ?_).trans (regDefault_eq_elim r)
  change q ∈ discoveredRegs at hq
  simp only [discoveredRegs, List.mem_cons, List.mem_flatMap, List.mem_range, List.not_mem_nil, or_false] at hq
  obtain rfl | ⟨d, hd, rfl | rfl⟩ := hq
  · exact hfab
  · exact (hdie d hd).1
  · exact (hdie d hd).2

/-- The registers of every cluster block are those of its tables (Table 7.2). -/
theorem regSpec_cluR (hc : c < 32) (ho : o < 0x10000) : regSpec (cluR c o) = cluSpec o := by
  have hoff : cluR c o - 0x200000000000 = 0x100000 + c * 0x10000 + o := by unfold cluR; omega
  have hmod : (0x100000 + c * 0x10000 + o) % 0x10000 = o := by omega
  have hbase : ¬ cluR c o < 0x200000000000 := by unfold cluR; omega
  unfold regSpec
  simp only [hoff, hmod, if_neg hbase]
  simp (disch := omega) only [if_neg, if_pos]

theorem regSpec_hubR (ho : o < 0x10000) : regSpec (hubR o) = hubSpec o := by
  have hoff : hubR o - 0x200000000000 = o := Nat.add_sub_cancel_left _ _
  have hbase : ¬ hubR o < 0x200000000000 := by unfold hubR; omega
  unfold regSpec
  simp only [hoff, if_neg hbase, if_pos ho]

theorem reg_reset_cluR (hc : c < 32) (ho : o < 0x10000) :
    State.reset.reg (cluR c o) = (cluSpec o).elim 0 RegSpec.reset := by
  rw [← regSpec_cluR hc ho]
  refine reg_reset ?_ fun d hd => ?_
  · unfold rFabStat hubR cluR; omega
  · unfold rDieIdent rEdgeStat dieR cluR; omega

/-- Of a die's registers discovery writes DIE_IDENT and DIE_EDGE_STAT alone. -/
theorem reg_reset_dieR (hd : d < 8) (ho : o < 0x200) : State.reset.reg (dieR d o) = (dieSpec o).elim 0 RegSpec.reset := by
  rw [← regSpec_dieR hd (by omega)]
  refine reg_reset ?_ fun j hj => ?_
  · unfold rFabStat hubR dieR; omega
  · unfold rDieIdent rEdgeStat dieR; omega

theorem reg_reset_hubR (hfab : o ≠ 0x800) (ho : o < 0x10000) :
    State.reset.reg (hubR o) = (hubSpec o).elim 0 RegSpec.reset := by
  rw [← regSpec_hubR ho]
  refine reg_reset ?_ fun d hd => ?_
  · unfold rFabStat hubR; omega
  · unfold rDieIdent rEdgeStat dieR hubR; omega

/-- CTL of every partition (Table 11.23): TAIL_US 0x000A, all else 0. -/
theorem hubSpec_partCtl (hp : p < 16) : hubSpec (0x2000 + 0x100 * p) = spec32 (mk 31 16) (m1 11) 0x000A0000 := by
  have hreg : (0x2000 + 0x100 * p) % 0x100 = 0 := by omega
  unfold hubSpec
  simp (disch := omega) only [if_neg, if_pos, hreg]
  rfl

theorem hubSpec_slgCtl (hp : p < 16) : hubSpec (0x3008 + 0x80 * p) = spec32 (mk 20 0) 0 0x2200 := by
  have hreg : (0x3008 + 0x80 * p) % 0x80 = 8 := by omega
  unfold hubSpec
  simp (disch := omega) only [if_neg, if_pos, hreg]
  rfl

theorem reg_reset_slgCtl (hp : p < 16) : State.reset.reg (rSlgCtl p) = 0x2200 := by
  rw [rSlgCtl, reg_reset_hubR (by omega) (by omega), hubSpec_slgCtl hp]
  rfl

theorem partState_reset (hp : p < 16) : partState State.reset p = 0 := by
  rw [partState, State.fld, rPartCtl, reg_reset_hubR (by omega) (by omega), hubSpec_partCtl hp]
  decide

/-- Discovery leaves in DIE_IDENT the number and place of the die, latched. -/
theorem reg_reset_dieIdent (d : Fin 8) : State.reset.reg (rDieIdent d) = dieIdent d := by
  revert d
  decide

theorem dieIdent_fields (d : Fin 8) : bits (dieIdent d) 3 0 = d ∧ bit (dieIdent d) 7 = true := by
  revert d
  decide

/-! ### Contexts and memory -/

theorem getCtx_reset (p x : Nat) : getCtx State.reset p x = emptyCtx := rfl

theorem entryOf_reset (x : Nat) : entryOf State.reset x = ⟨0, crcZ, emptyTag⟩ := rfl

/-- No byte is stored, so that every byte reads 0 whatever the state of its line. -/
theorem readByte_reset (x : Nat) : readByte State.reset x = 0 := by
  have hraw : rawByte State.reset x = 0 := rfl
  rw [readByte, hraw, ite_self]

theorem wf_reset : Memory.wf State.reset = true := rfl

/-- Settles O59: the tables of each block give the registers, but for DIE_IDENT, which holds what discovery has found. -/
theorem resetState : Obligations.ResetState := by
  unfold Obligations.ResetState
  intro s
  refine ⟨rfl, rfl, rfl, rfl, rfl, rfl, by decide, by decide, by decide, by decide, fun c => ?clusters, fun d => ?dies, fun p => ?parts,
    fun x => ⟨readByte_reset x, entryOf_reset x⟩, wf_reset⟩
  case clusters =>
    have hclu : ∀ o, o < 0x10000 → s.reg (cluR c o) = (cluSpec o).elim 0 RegSpec.reset := fun o => reg_reset_cluR c.isLt
    exact ⟨hclu 0x240 (by decide), hclu 0x500 (by decide), hclu 0x508 (by decide), hclu 0x708 (by decide), hclu 0x710 (by decide),
      hclu 0x720 (by decide)⟩
  case dies =>
    obtain ⟨hnumber, hlatched⟩ := dieIdent_fields d
    refine ⟨reg_reset_dieR (o := 0x110) d.isLt (by decide), ?_, ?_⟩
    · rw [State.fld, reg_reset_dieIdent, hnumber]
    · rw [State.rbit, reg_reset_dieIdent, hlatched]
  case parts => exact ⟨reg_reset_slgCtl p.isLt, partState_reset p.isLt, fun x => getCtx_reset p x⟩

end Sys2Proof.Machine
end

section
/-! PROOF. Lines that a die reads and writes at another (R296, R302, R303, R374 to R378). -/

namespace Sys2Proof.Machine

variable {s t : State} {h : DieHdr} {e : Ecc}

/-! ### A word without an error (Table 7.6) -/

/-- Read without an error a word is neither counted nor poisoned, wherever it is held. -/
theorem eccRead_clean (hword : e.secded = .clean) (hdie : e.onDie = .none) (s : State) (a : Nat) (r : DramRow) :
    eccRead s a e r = s := by
  unfold eccRead
  split
  · split
    · simp [cacheEcc, hword]
    · simp [hbmEcc, hword, hdie]
  · simp [sliceEcc, hword]

/-! ### Reads (R303) -/

/-- The messages that answer a read: RDATA, and CHK where a verifying read meets a line that has an entry. -/
def readReply (s : State) (h : DieHdr) (stored : Bool) : List OutMsg :=
  let a := h.addr.toNat / 64 * 64
  .die 0x21 (respHdr h 1 0 (!inEntries a && decide (lstAt s a = 2))) [lineData s h.addr.toNat] ::
    if h.verify = true ∧ stored = true then
      [.die 0x22 (respHdr h 1 0 false) [(entryOf s h.addr.toNat).crc.toNat, (entryOf s h.addr.toNat).lstate.toNat,
        (imageCrc s a ^^^ crcZ ^^^ (if lstAt s a = 1 then crcContrib (a % 4096) (rawBytes s a 64) else 0)).toNat]]
    else []

theorem lineData_line (s : State) (a : Nat) : lineData s (a / 64 * 64) = lineData s a := by
  have hline : a / 64 * 64 / 64 = a / 64 := Nat.mul_div_cancel _ (by decide)
  rw [lineData, lineData, hline]

theorem entryOf_line (s : State) (a : Nat) : entryOf s (a / 64 * 64) = entryOf s a := by
  have hblock : a / 64 * 64 / 4096 = a / 4096 := by omega
  rw [entryOf, entryOf, hblock]

theorem answerRead_eq (s : State) (h : DieHdr) :
    answerRead s h = s.sends (readReply s h (inStore s (h.addr.toNat / 64 * 64))) := by
  unfold answerRead readReply
  dsimp only
  rw [lineData_line, entryOf_line]
  split
  · simp [State.send, State.sends]
  · rfl

/-- What a read answers follows from bytes and entries. -/
theorem readReply_congr (hmem : t.mem = s.mem) (hent : t.ent = s.ent) (h : DieHdr) (stored : Bool) :
    readReply t h stored = readReply s h stored := by
  have hraw : rawByte t = rawByte s := funext fun x => rawByte_congr hmem x
  have hentry : entryOf t = entryOf s := funext (entryOf_congr hent)
  unfold readReply lineData storeByte imageCrc rawBytes
  rw [hraw, hentry, readByte_congr hmem hent, lstAt_congr hent]

theorem inStore_cacheUse (s : State) (alloc wr : Bool) (as : List Nat) (a : Nat) :
    inStore (cacheUse s alloc wr as) a = inStore s a := by
  rw [cacheUse_eq]
  rfl

/-- A read of a line that has storage, met without an error: its use of the cache ways, and the answer. -/
theorem serveRd_clean (hword : e.secded = .clean) (hdie : e.onDie = .none)
    (hhost : ¬ (hostAperture ≤ h.addr.toNat ∧ h.dst = 8)) (r : DramRow)
    (hnack : addrNack (taken s 1 h) h.addr.toNat = 0) :
    serveRd h e r (creditBack s 1 h) = (cacheUse (taken s 1 h) (allocates h) false [h.addr.toNat]).sends
      (readReply s h (inStore (taken s 1 h) (h.addr.toNat / 64 * 64))) := by
  unfold serveRd
  refine (if_neg hhost).trans ((if_neg (not_not.mpr hnack)).trans ?_)
  rw [eccRead_clean hword hdie, answerRead_eq, inStore_cacheUse]
  refine congrArg _ (readReply_congr ?_ ?_ h _)
  · rw [cacheUse_mem]
    exact taken_mem s 1 h
  · rw [cacheUse_ent]
    exact taken_ent s 1 h

/-- A read where no storage answers is refused (R378). -/
theorem serveRd_nack (hhost : ¬ (hostAperture ≤ h.addr.toNat ∧ h.dst = 8)) (r : DramRow)
    (hnack : addrNack (taken s 1 h) h.addr.toNat ≠ 0) :
    serveRd h e r (creditBack s 1 h) = sendNack (taken s 1 h) h (addrNack (taken s 1 h) h.addr.toNat) := by
  unfold serveRd
  exact (if_neg hhost).trans (if_pos hnack)

/-- A request that finds no room waits (R42). -/
theorem Heard.waits (hh : Heard s h 0) {ty : Nat} (hfull : poolRoom (creditBack s ty h) h = false) (i : Instr)
    (k : State → State) : dieMsg ty 0 h s (fun s => withRoom s h i k) = { creditBack s ty h with
      fabr := { (creditBack s ty h).fabr with waits := (creditBack s ty h).fabr.waits ++ [i] } } := by
  rw [hh.obeyed, withRoom, hfull]
  rfl

/-! ### Writes (R302) -/

theorem extractByte_eq {n : Nat} (w : BitVec n) (i : Nat) :
    BitVec.ofNat 8 (bits w (8 * i + 7) (8 * i)) = w.extractLsb' (8 * i) 8 := by
  have hwidth : 8 * i + 7 - 8 * i + 1 = 8 := by omega
  apply BitVec.eq_of_toNat_eq
  rw [BitVec.toNat_ofNat, bits, hwidth, Nat.mod_mod, BitVec.extractLsb'_toNat]

theorem maskOf_getD (mask : BitVec 64) (data : BitVec 512) (i : Nat) (b : Byte) :
    (maskOf mask data i).getD b = if bit mask i = true then data.extractLsb' (8 * i) 8 else b := by
  unfold maskOf
  rw [extractByte_eq]
  split <;> rfl

/-- The CRC of an entry says nothing about its lines. -/
theorem readByte_setEntry_crc (s : State) (a : Nat) (c : Half) (x : Nat) :
    readByte (setEntry s a { entryOf s a with crc := c }) x = readByte s x := by
  have hstate : lstAt (setEntry s a { entryOf s a with crc := c }) x = lstAt s x := by
    rw [lstAt_setEntry]
    split
    · next hblock =>
      have hentry : entryOf s x = entryOf s a := by rw [entryOf, hblock, entryOf]
      rw [lstAt, hentry]
      rfl
    · rfl
  rw [readByte, hstate]
  rfl

/-- Bytes written under the producer's contribution read as written, every other byte as before. -/
theorem readByte_writeLineFrom (s : State) (a : Nat) (mask : Nat → Option Byte) (contrib : Half) (x : Nat) :
    readByte (writeLineFrom s a mask contrib) x =
      if x / 64 = a / 64 then (mask (x % 64)).getD (readByte s x) else readByte s x := by
  unfold writeLineFrom
  dsimp only
  split
  · exact readByte_writeLine _ _ _ _ _
  · rw [readByte_setEntry_crc, readByte_writeLine]

theorem writeLineFrom_only (s : State) (a : Nat) (mask : Nat → Option Byte) (contrib : Half) :
    OnlyMemory s (writeLineFrom s a mask contrib) := by
  have hline : OnlyMemory s (writeLine s a mask none) := writeLine_only _ _ _ _
  unfold writeLineFrom
  dsimp only
  split
  · exact hline
  · exact hline.trans rfl

/-- The line that a write leaves, before its acknowledgement. -/
def lineWritten (s : State) (h : DieHdr) (mask : BitVec 64) (data : BitVec 512) : State :=
  writeLineFrom (cacheUse s (allocates h) true [h.addr.toNat]) h.addr.toNat (maskOf mask data) h.attr

theorem lineWritten_only (s : State) (h : DieHdr) (mask : BitVec 64) (data : BitVec 512) : OnlyMemory s (lineWritten s h mask data) := by
  refine OnlyMemory.trans ?_ (writeLineFrom_only _ _ _ _)
  unfold OnlyMemory
  rw [cacheUse_eq]

theorem readByte_lineWritten (s : State) (h : DieHdr) (mask : BitVec 64) (data : BitVec 512) (x : Nat) :
    readByte (lineWritten s h mask data) x = if x / 64 = h.addr.toNat / 64 ∧ bit mask (x % 64) = true then
      data.extractLsb' (8 * (x % 64)) 8 else readByte s x := by
  rw [lineWritten, readByte_writeLineFrom, maskOf_getD, readByte_cacheUse, ite_and]

/-- A write of a line that has an entry, met without an error, is made and acknowledged. -/
theorem serveWrite_clean {ty : Nat} (hword : e.secded = .clean) (hdie : e.onDie = .none)
    (hhost : ¬ (hostAperture ≤ h.addr.toNat ∧ h.dst = 8)) (mask : BitVec 64) (data : BitVec 512) (r : DramRow)
    (hnack : addrNack (taken s ty h) h.addr.toNat = 0) (hstore : inStore (taken s ty h) h.addr.toNat = true) :
    serveWrite ty h mask data e r (creditBack s ty h) = sendAck (lineWritten (taken s ty h) h mask data) h := by
  have hok : ¬ (addrNack (taken s ty h) h.addr.toNat ≠ 0 ∨ inStore (taken s ty h) h.addr.toNat = false) := by
    simp [hnack, hstore]
  unfold serveWrite
  refine (if_neg hhost).trans ((if_neg hok).trans ?_)
  rw [eccRead_clean hword hdie]
  rfl

/-- Only the line, its entry, its cache way and the acknowledgement differ after a write, and the selected bytes read as written. -/
theorem lineWritten_acked (s : State) (h : DieHdr) (ty : Nat) (mask : BitVec 64) (data : BitVec 512) :
    let v := taken s ty h
    let t := sendAck (lineWritten v h mask data) h
    t = { v with mem := t.mem, ent := t.ent, out := t.out, cache := t.cache } ∧
      t.out = v.out ++ [.die 0x23 (respHdr h 1 0 false) []] ∧
      ∀ x, readByte t x = if x / 64 = h.addr.toNat / 64 ∧ bit mask (x % 64) = true then
        data.extractLsb' (8 * (x % 64)) 8 else readByte s x := by
  intro v t
  have honly := lineWritten_only v h mask data
  unfold OnlyMemory at honly
  refine ⟨?_, ?_, fun x => ?_⟩
  · simp only [t, sendAck]
    rw [honly]
    rfl
  · simp only [t, sendAck, send_out]
    rw [honly]
  · simp only [t]
    rw [readByte_sendAck, readByte_lineWritten, readByte_taken]

/-! ### The obligation -/

/-- Settles O24: a read comes down to its answer, a write to `lineWritten` and its acknowledgement. -/
theorem dieReadsAndWrites : Obligations.DieReadsAndWrites := by
  unfold Obligations.DieReadsAndWrites
  intro h e r s hh hword hdie hhost a came took rd
  refine ⟨fun hroom hnack => ?read, fun hroom hnack => ?refused, fun hfull => ?waits, ?partialWrite, ?wholeWrite⟩
  case read => exact next_congr ((hh.request hroom _ _).trans (serveRd_clean hword hdie hhost r hnack))
  case refused => exact next_congr ((hh.request hroom _ _).trans (serveRd_nack hhost r hnack))
  case waits => exact next_congr (hh.waits hfull _ _)
  case partialWrite =>
    intro mask data wr hroom hnack hstore
    exact ⟨_, next_congr ((hh.request hroom _ _).trans (serveWrite_clean hword hdie hhost mask data r hnack hstore)),
      lineWritten_acked s h 3 mask data⟩
  case wholeWrite =>
    intro data wr hroom hnack hstore
    obtain ⟨hrest, hout, hbytes⟩ := lineWritten_acked s h 2 (BitVec.allOnes 64) data
    refine ⟨_, next_congr ((hh.request hroom _ _).trans (serveWrite_clean hword hdie hhost _ data r hnack hstore)), hrest, hout,
      fun x => (hbytes x).trans ?_⟩
    have hall : bit (BitVec.allOnes 64) (x % 64) = true := by
      rw [bit, BitVec.getLsbD_allOnes, decide_eq_true (Nat.mod_lt x (by decide))]
    simp only [hall, and_true]
    rfl

end Sys2Proof.Machine
end

section
/-! PROOF. Soft row repair, the row tracker and HUB_MEMINIT (R293, R320, R599). -/

namespace Sys2Proof.Machine

variable {s t : State}

/-! ### Rows (R293, R599) -/

/-- A repair that ends: the row is on its spare, and its errors count from 0. -/
def rowRepaired (s : State) (w : Nat) : State :=
  { s with fabr := { s.fabr with
    fixing := s.fabr.fixing.filter (fun x => decide (x ≠ w)), soft := s.fabr.soft ++ [w], rows := smSet 0 s.fabr.rows w 0 } }

theorem doSoftRowRepairDone_reported {k : Nat} {r : DramRow} (hfixing : rowWord k r ∈ s.fabr.fixing) :
    Reported (firmwareMap (rowRepaired s (rowWord k r)) (rHbmRepair (k / 2))) (doSoftRowRepairDone k r s) := by
  unfold doSoftRowRepairDone
  rw [if_pos (List.contains_iff_mem.mpr hfixing)]
  exact (cntInc_reported _ _ _ _).trans (errRecord_reported _ _)

/-- Of a map filtered by its keys, the keys left out read as the default. -/
theorem smGet_filter_keys {α : Type} (d : α) (f : Nat → Bool) (m : SMap α) (k : Nat) :
    smGet d (m.filter fun q => f q.1) k = if f k = true then smGet d m k else d := by
  split
  · next hk => exact smGet_filter_key d _ (fun _ => hk) m
  · next hk =>
    refine smGet_of_not_mem fun q hq hkey => hk ?_
    exact hkey ▸ (List.mem_filter.mp hq).2

/-! ### HUB_MEMINIT (R320) -/

theorem entryOf_invalidateRange (s : State) (lo hi a : Nat) : entryOf (invalidateRange s lo hi) a =
    if lo ≤ a / 4096 ∧ a / 4096 < hi then emptyEntry else entryOf s a := by
  have hkept : (decide (a / 4096 < lo ∨ hi ≤ a / 4096) = true) ↔ ¬ (lo ≤ a / 4096 ∧ a / 4096 < hi) := by
    rw [decide_eq_true_iff]
    omega
  refine (smGet_filter_keys emptyEntry (fun n => decide (n < lo ∨ hi ≤ n)) s.ent (a / 4096)).trans ?_
  simp only [hkept, ite_not]
  rfl

theorem lineState_emptyEntry (j : Nat) : lineState emptyEntry j = 0 := by simp [lineState, emptyEntry, bits]

theorem lstAt_invalidateRange (s : State) (lo hi a : Nat) : lstAt (invalidateRange s lo hi) a =
    if lo ≤ a / 4096 ∧ a / 4096 < hi then 0 else lstAt s a := by
  rw [lstAt, entryOf_invalidateRange]
  split
  · exact lineState_emptyEntry _
  · rfl

theorem reg_congr (h : t.regs = s.regs) (a : Nat) : t.reg a = s.reg a := by rw [State.reg, h, State.reg]

theorem rbit_congr (h : t.regs = s.regs) (a i : Nat) : t.rbit a i = s.rbit a i := by rw [State.rbit, reg_congr h, State.rbit]

theorem rbit_setRBit_other (s : State) (a : Nat) {i j : Nat} (h : j ≠ i) (b : Bool) :
    (s.setRBit a i b).rbit a j = s.rbit a j := by
  unfold State.rbit
  rw [reg_setRBit, if_pos rfl, bit_setBit, if_neg h]

/-- An accepted start of HUB_MEMINIT. -/
def meminitBegun (s : State) : State :=
  let a := s.fld rMeminitBase 47 12
  let t := (invalidateRange s a (a + s.fld rMeminitSize 23 0)).setRBit rMeminitCtl 1 true
  { t with fabr := { t.fabr with init := true } }

theorem doMeminitGo_begins (hup : s.up = true) (hidle : s.rbit rMeminitCtl 1 = false)
    (hok : meminitOk s (s.fld rMeminitBase 47 12 * 4096) (s.fld rMeminitSize 23 0) = true) :
    doMeminitGo s = meminitBegun s := by
  have hblock : s.fld rMeminitBase 47 12 * 4096 / 4096 = s.fld rMeminitBase 47 12 := Nat.mul_div_cancel _ (by decide)
  unfold doMeminitGo
  simp only [hup, hidle, hok, hblock]
  rfl

theorem doMeminitGo_refused (hup : s.up = true) (h : s.rbit rMeminitCtl 1 = true ∨
    meminitOk s (s.fld rMeminitBase 47 12 * 4096) (s.fld rMeminitSize 23 0) = false) :
    doMeminitGo s = s.setRBit rMeminitCtl 3 true := by
  unfold doMeminitGo
  simp only [hup]
  exact if_pos h

/-- The range of a start becomes INVALID, and nothing else of the memory changes. -/
theorem meminitBegun_spec (s : State) :
    let a := s.fld rMeminitBase 47 12 * 4096
    let t := meminitBegun s
    t = { s with ent := t.ent, regs := t.regs, fabr := { s.fabr with init := true } } ∧ t.rbit rMeminitCtl 1 = true ∧
      (∀ x, x ≠ rMeminitCtl → t.reg x = s.reg x) ∧
      ∀ x, lstAt t x = if a ≤ x ∧ x < a + 4096 * s.fld rMeminitSize 23 0 then 0 else lstAt s x := by
  intro a t
  have hregs : t.regs = (s.setRBit rMeminitCtl 1 true).regs := rfl
  refine ⟨?_, ?_, fun x hx => ?_, fun x => ?_⟩
  · rfl
  · rw [rbit_congr hregs, rbit_setRBit_same _ _ (by decide)]
  · rw [reg_congr hregs, reg_setRBit, if_neg hx]
  refine (lstAt_invalidateRange s _ _ x).trans (if_congr ?_ rfl rfl)
  omega

theorem anyEnabling_iff : anyEnabling s = true ↔ ∃ p, p < 16 ∧ partState s p = 1 := by simp [anyEnabling]

/-- The end of HUB_MEMINIT: DONE, and BUSY while a partition's ranges are being invalidated. -/
def meminitEnded (s : State) : State :=
  let t := (s.setRBit rMeminitCtl 1 (anyEnabling s)).setRBit rMeminitCtl 2 true
  { t with fabr := { t.fabr with init := false } }

theorem meminitEnded_spec (s : State) :
    let t := meminitEnded s
    t = { s with regs := t.regs, fabr := { s.fabr with init := false } } ∧ t.rbit rMeminitCtl 2 = true ∧
      (t.rbit rMeminitCtl 1 = true ↔ ∃ p, p < 16 ∧ partState s p = 1) ∧ ∀ x, x ≠ rMeminitCtl → t.reg x = s.reg x := by
  intro t
  have hregs : t.regs = ((s.setRBit rMeminitCtl 1 (anyEnabling s)).setRBit rMeminitCtl 2 true).regs := rfl
  refine ⟨?_, ?_, ?_, fun x hx => ?_⟩
  · rfl
  · rw [rbit_congr hregs, rbit_setRBit_same _ _ (by decide)]
  · rw [rbit_congr hregs, rbit_setRBit_other _ _ (by decide), rbit_setRBit_same _ _ (by decide), anyEnabling_iff]
  · rw [reg_congr hregs, reg_setRBit, if_neg hx, reg_setRBit, if_neg hx]

/-! ### The obligation -/

/-- Settles O27: each command comes down to its one change of the state. -/
theorem memoryUpkeep : Obligations.MemoryUpkeep := by
  unfold Obligations.MemoryUpkeep
  intro k r s
  refine ⟨fun hfixing => ?repair, ?tracker, fun hup => ⟨fun hidle hok => ?begins, fun hbad => ?refused⟩, fun hinit => ?ends⟩
  case repair => exact ⟨_, rfl, doSoftRowRepairDone_reported hfixing⟩
  case tracker =>
    refine ⟨_, rfl, rfl, fun w => (smGet_filter_keys 0 (fun n => decide (n % 16 ≠ k.val)) s.fabr.rows w).trans ?_⟩
    simp only [decide_eq_true_iff, ite_not]
  case begins => exact ⟨_, next_congr (doMeminitGo_begins hup hidle hok), meminitBegun_spec s⟩
  case refused => exact next_congr (doMeminitGo_refused hup hbad)
  case ends => exact ⟨_, next_congr (if_pos hinit), meminitEnded_spec s⟩

end Sys2Proof.Machine
end

section
/-! PROOF. Patrol scrub of a word without error (R313), and changes of the ways of the shared store (R295, R297, R316, R317). -/

namespace Sys2Proof.Machine

variable {s u : State} {a d : Nat}

/-! ### Patrol scrub (R313) -/

theorem all_unpoisoned {n : Entry} (hlines : ∀ j, j < 64 → lineState n j ≠ 2) :
    ((List.range 64).all fun j => decide (lineState n j ≠ 2)) = true := by
  simpa using hlines

/-- A block without a POISONED line whose image matches its entry stays as it is. -/
theorem scrubCheck_match (hlines : ∀ j, j < 64 → lineState (entryOf s a) j ≠ 2) (hcrc : imageCrc s a = (entryOf s a).crc) :
    scrubCheck s a = s := by
  unfold scrubCheck
  exact (if_pos (all_unpoisoned hlines)).trans (if_pos hcrc)

/-- One whose image does not match is counted and poisoned by the memory agent. -/
theorem scrubCheck_mismatch (hlines : ∀ j, j < 64 → lineState (entryOf s a) j ≠ 2) (hcrc : imageCrc s a ≠ (entryOf s a).crc) :
    scrubCheck s a =
      poisonMismatch (cntInc s (0x1048 + homeDie a) 0 1) a ⟨memTag, none, 0xFFFFFFFF, 0⟩ 0x0904 3 := by
  unfold scrubCheck
  exact (if_pos (all_unpoisoned hlines)).trans (if_neg hcrc)

/-- What a counted mismatch leaves: the VALID lines POISONED under the tag given, and the reports. -/
theorem poisonMismatch_counted (s : State) (a idx : Nat) (r : Reader) (code cause : Nat) :
    let t := poisonMismatch (cntInc s idx 0 1) a r code cause
    t = { s with ent := t.ent, regs := t.regs, hub := t.hub, out := t.out } ∧ (entryOf t a).tag = r.tag ∧
      ∀ x, lstAt t x = if x / 4096 = a / 4096 ∧ lstAt s x = 1 then 2 else lstAt s x := by
  intro t
  have hcount := cntInc_hub s idx 0 1
  have hpoison := poisonMismatch_hubOnly (cntInc s idx 0 1) a r code cause
  unfold HubOnly at hcount hpoison
  refine ⟨?_, tag_poisonMismatch _ _ _ _ _, fun x => ?_⟩
  · simp only [t]
    rw [hpoison, poisonValid, setEntry, hcount]
  · have hent : (cntInc s idx 0 1).ent = s.ent := by rw [hcount]
    simp only [t]
    rw [lstAt_poisonMismatch, lstAt_congr hent]

/-- A word without error leads to the check of its block. -/
theorem doPatrolScrub_clean {e : Ecc} (hword : e.secded = .clean) (hdie : e.onDie = .none) (hup : s.up = true)
    (hnack : addrNack s a = 0) (hon : s.rbit (rScrubCtl (homeDie a)) 8 = true) (hstore : inStore s a = true) (r : DramRow) :
    doPatrolScrub a e r s = scrubCheck s a := by
  have hpop : populated s a = true := by simp [populated, hnack]
  unfold doPatrolScrub
  rw [if_pos ⟨hup, hpop, hon⟩, eccRead_clean hword hdie]
  exact if_pos hstore

/-! ### Lines in changed ways (R297) -/

theorem smGet_default_or_mem {α : Type} (v : α) (m : SMap α) (k : Nat) : smGet v m k = v ∨ (k, smGet v m k) ∈ m := by
  induction m with
  | nil => exact .inl rfl
  | cons q m ih =>
    obtain ⟨j, x⟩ := q
    by_cases hj : j = k
    · subst hj
      simp [smGet]
    · simp only [smGet, if_neg hj]
      exact ih.imp id fun hm => List.mem_cons_of_mem _ hm

/-- The ways that leave their partition hold no cached line. -/
theorem way_of_mem_dropWays {ws : List Nat} {k : Nat} {c : CLine} (hc : c ∈ smGet [] (dropWays s d ws).cache k) :
    ¬ (k / 64 = d ∧ c.way ∈ ws) := by
  rintro ⟨rfl, hway⟩
  rcases smGet_default_or_mem [] (dropWays s (k / 64) ws).cache k with hnone | hmem
  · rw [hnone] at hc
    exact List.not_mem_nil hc
  · obtain ⟨q, -, hq⟩ := List.mem_map.mp (List.mem_filter.mp hmem).1
    injection hq with hkey hlines
    rw [← hlines, if_pos (by rw [hkey])] at hc
    simpa [hway] using (List.mem_filter.mp hc).2

/-! ### Ways that become scratchpad (R295) -/

/-- The ways of a list that are scratchpad become INVALID. -/
def clearWays (s : State) (d : Nat) (ws : List Nat) : State :=
  ws.foldl (fun t w => if wayScratch t d w then invalidateRange t (wayBlocks d w).1 (wayBlocks d w).2 else t) s

theorem clearWays_cons (s : State) (d w : Nat) (ws : List Nat) : clearWays s d (w :: ws) =
    clearWays (if wayScratch s d w = true then invalidateRange s (wayBlocks d w).1 (wayBlocks d w).2 else s) d ws := rfl

theorem clearWays_rest (d : Nat) (ws : List Nat) : ∀ s : State, clearWays s d ws = { s with ent := (clearWays s d ws).ent } := by
  induction ws with
  | nil => exact fun _ => rfl
  | cons w ws ih =>
    intro s
    by_cases hs : wayScratch s d w = true
    · rw [clearWays_cons, if_pos hs, ih]
      rfl
    · rw [clearWays_cons, if_neg hs, ih]

/-- The blocks of way `w` of die `d` (Table 7.8). -/
theorem inWay_iff {w : Nat} (hd : d < 8) (hw : w < 12) (x : Nat) :
    (wayBlocks d w).1 ≤ x / 4096 ∧ x / 4096 < (wayBlocks d w).2 ↔ isSs x = true ∧ ssDie x = d ∧ ssWay x = w := by
  simp only [wayBlocks, isSs, ssDie, ssWay, ssOff, Bool.and_eq_true, decide_eq_true_eq]
  unfold ssBase
  omega

/-- The lines of the ways that are scratchpad are INVALID, every other line is as before. -/
theorem lstAt_clearWays (hd : d < 8) (ws : List Nat) (hws : ∀ w, w ∈ ws → w < 12) (x : Nat) : ∀ s : State,
    lstAt (clearWays s d ws) x =
      if isSs x = true ∧ ssDie x = d ∧ ssWay x ∈ ws ∧ wayScratch s d (ssWay x) = true then 0 else lstAt s x := by
  induction ws with
  | nil => exact fun s => (if_neg fun h => List.not_mem_nil h.2.2.1).symm
  | cons w ws ih =>
    intro s
    obtain ⟨hw, hws⟩ := List.forall_mem_cons.mp hws
    have hin := inWay_iff hd hw x
    by_cases hs : wayScratch s d w = true
    · have hmode : wayScratch (invalidateRange s (wayBlocks d w).1 (wayBlocks d w).2) d (ssWay x) = wayScratch s d (ssWay x) := rfl
      rw [clearWays_cons, if_pos hs, ih hws, hmode, lstAt_invalidateRange, if_congr hin rfl rfl]
      by_cases hx : ssWay x = w
      · subst hx
        rw [← ite_or]
        refine if_congr ?_ rfl rfl
        simp only [hs, List.mem_cons, true_or, and_true]
        exact or_iff_right_of_imp fun ⟨hss, hdie, _⟩ => ⟨hss, hdie⟩
      · simp only [List.mem_cons, hx, and_false, if_false, false_or]
    · rw [clearWays_cons, if_neg hs, ih hws]
      by_cases hx : ssWay x = w
      · subst hx
        simp [hs]
      · simp only [List.mem_cons, hx, false_or]

/-! ### A write of DIE_SS_OWNER or DIE_SS_MODE (R316, R317) -/

/-- The register that SS_WAY_WRITE writes. -/
def ssWayReg (d : Nat) (mode : Bool) : Nat := if mode then rSsMode d else rSsOwner d

/-- The ways of a die that a write changes. -/
def waysChanged (s u : State) (d : Nat) : List Nat := (List.range 12).filter (wayChanges s u d)

theorem mem_waysChanged {n : Nat} : n ∈ waysChanged s u d ↔ n < 12 ∧ wayChanges s u d n = true := by simp [waysChanged]

/-- The old or the new owner of way `n` has started streams. -/
def WayInUse (s u : State) (d n : Nat) : Prop :=
  ((wayIs s d n).2.1 = true ∧ anyStarted s (wayIs s d n).1 = true) ∨
    ((wayIs u d n).2.1 = true ∧ anyStarted s (wayIs u d n).1 = true)

/-- A change that is accepted: the changed ways hold no cached line, those that are scratchpad are INVALID, and BUSY is set. -/
def waysSwitched (s u : State) (d : Nat) : State :=
  (clearWays (dropWays u d (waysChanged s u d)) d (waysChanged s u d)).setRBit (rSsMode d) 62 true

theorem softWrite_rest (s : State) (r : Nat) (v : Word) : s.softWrite r v = { s with regs := (s.softWrite r v).regs } := by
  unfold State.softWrite
  split <;> rfl

/-- Only the registers of the write, the invalid lines and the dropped lines differ. -/
theorem waysSwitched_spec (hd : d < 8) (r : Nat) (v : Word) :
    let u := s.softWrite r v
    let t := waysSwitched s u d
    t = { s with regs := (u.setRBit (rSsMode d) 62 true).regs, ent := t.ent, cache := t.cache } ∧
      (∀ k c, c ∈ smGet [] t.cache k → ¬ (k / 64 = d ∧ c.way < 12 ∧ wayChanges s u d c.way = true)) ∧
      ∀ x, lstAt t x = if isSs x = true ∧ ssDie x = d ∧ (ssWay x < 12 ∧ wayChanges s u d (ssWay x) = true) ∧
        wayScratch u d (ssWay x) = true then 0 else lstAt s x := by
  intro u t
  have hclear := clearWays_rest d (waysChanged s u d) (dropWays u d (waysChanged s u d))
  have hsoft : u = { s with regs := u.regs } := softWrite_rest s r v
  refine ⟨?rest, fun k c hc => ?lines, fun x => ?states⟩
  case rest =>
    simp only [t, waysSwitched]
    rw [hclear, dropWays, hsoft]
    rfl
  case lines =>
    have hcache : t.cache = (dropWays u d (waysChanged s u d)).cache := by
      simp only [t, waysSwitched, State.setRBit, setReg_cache]
      rw [hclear]
    rw [hcache] at hc
    rw [← mem_waysChanged]
    exact way_of_mem_dropWays hc
  case states =>
    have hmem : lstAt (dropWays u d (waysChanged s u d)) x = lstAt s x := by
      rw [dropWays, hsoft]
      rfl
    refine (lstAt_clearWays hd _ (fun w hw => (mem_waysChanged.mp hw).1) x _).trans ?_
    rw [hmem]
    refine if_congr ?_ rfl rfl
    rw [mem_waysChanged]
    rfl

/-- The check that a way of the list is in use. -/
theorem any_inUse_iff (s u : State) (d : Nat) :
    ((waysChanged s u d).any fun w =>
      ((wayIs s d w).2.1 && anyStarted s (wayIs s d w).1) || ((wayIs u d w).2.1 && anyStarted s (wayIs u d w).1)) = true ↔
    ∃ n, (n < 12 ∧ wayChanges s u d n = true) ∧ WayInUse s u d n := by
  simp only [List.any_eq_true, mem_waysChanged, Bool.or_eq_true, Bool.and_eq_true, WayInUse]

section Write

variable {mode : Bool} {v : Word} (hup : s.up = true) (hdie : diePresent s d = true)

include hup hdie

theorem doSsWayWrite_refused (h : s.rbit (rSsMode d) 62 = true ∨ ∃ n, (n < 12 ∧ wayChanges s (s.softWrite (ssWayReg d mode) v) d n = true) ∧
      WayInUse s (s.softWrite (ssWayReg d mode) v) d n) :
    doSsWayWrite d mode v s = s.setRBit (ssWayReg d mode) 63 true := by
  have hon : ¬ ((!s.up) = true ∨ diePresent s d = false) := by simp [hup, hdie]
  rw [← any_inUse_iff] at h
  unfold doSsWayWrite
  exact (if_neg hon).trans (if_pos h)

theorem doSsWayWrite_taken (hidle : s.rbit (rSsMode d) 62 = false)
    (hfree : ¬ ∃ n, (n < 12 ∧ wayChanges s (s.softWrite (ssWayReg d mode) v) d n = true) ∧
      WayInUse s (s.softWrite (ssWayReg d mode) v) d n) :
    doSsWayWrite d mode v s =
      if (waysChanged s (s.softWrite (ssWayReg d mode) v) d).isEmpty then s.softWrite (ssWayReg d mode) v
      else waysSwitched s (s.softWrite (ssWayReg d mode) v) d := by
  have hon : ¬ ((!s.up) = true ∨ diePresent s d = false) := by simp [hup, hdie]
  have hgo : ¬ (s.rbit (rSsMode d) 62 = true ∨ _) := not_or.mpr ⟨by simp [hidle], (any_inUse_iff _ _ d).not.mpr hfree⟩
  unfold doSsWayWrite
  exact (if_neg hon).trans (if_neg hgo)

end Write

/-! ### The obligation -/

/-- Settles O28: a scrub comes down to `scrubCheck`, an accepted change of ways to `waysSwitched`. -/
theorem scrubAndWays : Obligations.ScrubAndWays := by
  unfold Obligations.ScrubAndWays
  intro a e r d mode v s hup
  refine ⟨fun hword hdie hnack hon hstore hlines => ?scrub, ?ways, rfl⟩
  case scrub =>
    have hcheck := doPatrolScrub_clean hword hdie hup hnack hon hstore r
    refine ⟨fun hcrc => next_congr (hcheck.trans (scrubCheck_match hlines hcrc)), fun hcrc => ?_⟩
    exact ⟨_, next_congr (hcheck.trans (scrubCheck_mismatch hlines hcrc)), poisonMismatch_counted s a.toNat _ _ _ _⟩
  case ways =>
    intro w u changes busy hdie
    refine ⟨fun hbusy => next_congr (doSsWayWrite_refused hup hdie hbusy), fun hidle hfree hnone => ?_, fun hidle hfree hsome => ?_⟩
    · have hempty : (waysChanged s u d).isEmpty = true := by
        rw [List.isEmpty_iff, List.eq_nil_iff_forall_not_mem]
        exact fun n hn => hnone n (mem_waysChanged.mp hn)
      exact next_congr ((doSsWayWrite_taken hup hdie hidle hfree).trans (if_pos hempty))
    · obtain ⟨n, hn⟩ := hsome
      have hchanged : ¬ (waysChanged s u d).isEmpty = true := by
        rw [List.isEmpty_iff]
        exact List.ne_nil_of_mem (mem_waysChanged.mpr hn)
      exact ⟨_, next_congr ((doSsWayWrite_taken hup hdie hidle hfree).trans (if_neg hchanged)), waysSwitched_spec d.isLt _ v⟩

end Sys2Proof.Machine
end

section
/-! PROOF. Hardware queues (R310 to R312): what passes on in a queue, and the commands that push, pop and release. -/

namespace Sys2Proof.Machine

variable {s t u : State} {q : Nat}

/-! ### What a passage leaves alone -/

/-- Only queue `q`, its middle in memory and cached lines differ. -/
structure OnlyQueue (s t : State) (q : Nat) : Prop where
  rest : t = { s with queues := t.queues, mem := t.mem, ent := t.ent, cache := t.cache }
  others : ∀ j, j ≠ q → getQueue t j = getQueue s j

theorem OnlyQueue.refl (s : State) (q : Nat) : OnlyQueue s s q := ⟨rfl, fun _ _ => rfl⟩

theorem OnlyQueue.trans (h : OnlyQueue s t q) (g : OnlyQueue t u q) : OnlyQueue s u q :=
  ⟨by rw [g.rest, h.rest], fun j hj => (g.others j hj).trans (h.others j hj)⟩

theorem getQueue_setQueue (s : State) (q j : Nat) (v : Queue) :
    getQueue (setQueue s q v) j = if j = q then v else getQueue s j := smGet_smSet _ _ _ _ _

@[simp] theorem getQueue_setQueue_same (s : State) (q : Nat) (v : Queue) : getQueue (setQueue s q v) q = v :=
  (getQueue_setQueue s q q v).trans (if_pos rfl)

theorem setQueue_only (s : State) (q : Nat) (v : Queue) : OnlyQueue s (setQueue s q v) q :=
  ⟨rfl, fun j hj => (getQueue_setQueue s q j v).trans (if_neg hj)⟩

theorem OnlyMemory.foldl {α : Type} (f : State → α → State) (hf : ∀ s x, OnlyMemory s (f s x)) :
    ∀ (l : List α) (s : State), OnlyMemory s (l.foldl f s)
  | [], s => .refl s
  | x :: l, s => (hf s x).trans (OnlyMemory.foldl f hf l (f s x))

theorem OnlyMemory.onlyQueue (h : OnlyMemory s t) (q : Nat) : OnlyQueue s t q := by
  unfold OnlyMemory at h
  refine ⟨by rw [h], fun j _ => ?_⟩
  rw [h]
  rfl

/-! ### Entries pass on (R311) -/

/-- From queue `v` to `w` entries pass on: none is lost or made, the head only grows, and an empty tail stays empty. -/
structure PassesOn (v w : Queue) : Prop where
  len : w.len = v.len
  seq : w.seq = v.seq
  mid : w.mrd ≤ w.mwr
  head : ∃ ys, w.head = v.head ++ ys
  tail : v.tail = [] → w.tail = []

theorem PassesOn.refl {v : Queue} (hmid : v.mrd ≤ v.mwr) : PassesOn v v := ⟨rfl, rfl, hmid, ⟨[], (List.append_nil _).symm⟩, id⟩

theorem PassesOn.trans {v w x : Queue} (h : PassesOn v w) (g : PassesOn w x) : PassesOn v x := by
  obtain ⟨ys, hys⟩ := h.head
  obtain ⟨zs, hzs⟩ := g.head
  exact ⟨g.len.trans h.len, g.seq.trans h.seq, g.mid, ⟨ys ++ zs, by rw [hzs, hys, List.append_assoc]⟩, fun ht => g.tail (h.tail ht)⟩

/-- The queue after the first `n` entries of its tail have gone to the middle. -/
def Queue.spilled (v : Queue) (n : Nat) : Queue := { v with tail := v.tail.drop n, mwr := v.mwr + n }

theorem Queue.spilled_passesOn {v : Queue} (hmid : v.mrd ≤ v.mwr) {n : Nat} (hn : n ≤ v.tail.length) :
    PassesOn v (v.spilled n) := by
  refine ⟨?_, rfl, Nat.le_add_right_of_le hmid, ⟨[], (List.append_nil _).symm⟩, fun ht => ?_⟩
  · simp only [Queue.len, Queue.midLen, Queue.spilled, List.length_drop]
    omega
  · simp [Queue.spilled, ht]

theorem spillTail_only (s : State) (q n : Nat) : OnlyQueue s (spillTail s q n) q :=
  ((OnlyMemory.foldl _ (fun _ _ => writeBytes_only _ _ _ _) _ s).onlyQueue q).trans (setQueue_only _ _ _)

theorem getQueue_spillTail (s : State) (q : Nat) {n : Nat} (hn : n ≤ (getQueue s q).tail.length) :
    getQueue (spillTail s q n) q = (getQueue s q).spilled n := by
  refine (getQueue_setQueue_same _ _ _).trans ?_
  rw [Nat.min_eq_left hn, Queue.spilled]

/-- A passage from the middle or from the tail to the head, or of a group from the tail to the middle. -/
theorem queueMove_passesOn (hmid : (getQueue s q).mrd ≤ (getQueue s q).mwr) (h : queueMove s q = some t) :
    OnlyQueue s t q ∧ PassesOn (getQueue s q) (getQueue t q) := by
  unfold queueMove at h
  extract_lets v group at h
  change v.mrd ≤ v.mwr at hmid
  change OnlyQueue s t q ∧ PassesOn v (getQueue t q)
  split at h
  · next hpass =>
    obtain rfl := Option.some.inj h
    obtain ⟨-, hfull⟩ := hpass
    refine ⟨setQueue_only _ _ _, ?_⟩
    rw [getQueue_setQueue_same]
    refine ⟨?_, rfl, ?_, ⟨_, rfl⟩, id⟩
    · simp only [Queue.len, Queue.midLen, List.length_append, List.length_singleton] at hfull ⊢
      omega
    · simp only [Queue.midLen] at hfull ⊢
      omega
  · split at h
    · next hpass =>
      obtain rfl := Option.some.inj h
      obtain ⟨-, hsome⟩ := hpass
      have hlen : 0 < v.tail.length := List.length_pos_iff.mpr hsome
      refine ⟨setQueue_only _ _ _, ?_⟩
      rw [getQueue_setQueue_same]
      refine ⟨?_, rfl, hmid, ⟨_, rfl⟩, fun ht => absurd ht hsome⟩
      simp only [Queue.len, Queue.midLen, List.length_append, List.length_take, List.length_drop]
      omega
    · split at h
      · next hgroup =>
        obtain rfl := Option.some.inj h
        exact ⟨spillTail_only _ _ _, getQueue_spillTail s q hgroup.1 ▸ Queue.spilled_passesOn hmid hgroup.1⟩
      · cases h

theorem queueFlow_passesOn (n : Nat) : ∀ s : State, (getQueue s q).mrd ≤ (getQueue s q).mwr →
    OnlyQueue s (queueFlow n q s) q ∧ PassesOn (getQueue s q) (getQueue (queueFlow n q s) q) := by
  induction n with
  | zero => exact fun s hmid => ⟨.refl s q, .refl hmid⟩
  | succ n ih =>
    intro s hmid
    unfold queueFlow
    split
    · next u hmove =>
      obtain ⟨honly, hpass⟩ := queueMove_passesOn hmid hmove
      obtain ⟨honly', hpass'⟩ := ih u hpass.mid
      exact ⟨honly.trans honly', hpass.trans hpass'⟩
    · exact ⟨.refl s q, .refl hmid⟩

theorem flow_passesOn (hmid : (getQueue s q).mrd ≤ (getQueue s q).mwr) :
    OnlyQueue s (flow s q) q ∧ PassesOn (getQueue s q) (getQueue (flow s q) q) := queueFlow_passesOn 100 s hmid

/-- A queue whose tail and middle are empty has nothing to pass on. -/
theorem queueMove_still (htail : (getQueue s q).tail = []) (hmid : (getQueue s q).mrd = (getQueue s q).mwr) :
    queueMove s q = none := by
  have hempty : (getQueue s q).midLen = 0 := by rw [Queue.midLen, hmid, Nat.sub_self]
  have hgroup : ¬ (if (getQueue s q).cls = 3 then 1 else 16) ≤ 0 := by split <;> decide
  unfold queueMove
  simp only [htail, hempty, ne_eq, not_true_eq_false, and_false, if_false, List.length_nil, hgroup, false_and]

theorem queueFlow_of_still (h : queueMove s q = none) : ∀ n, queueFlow n q s = s
  | 0 => rfl
  | n + 1 => by rw [queueFlow, h]

/-! ### An entry enters (R310, R311) -/

/-- The queue with an entry more in its tail. -/
def Queue.pushed (v : Queue) (words : List Word) (pois : Nat) : Queue :=
  { v with tail := v.tail ++ [⟨words, pois, v.seq⟩], seq := v.seq + 1 }

theorem queueStalls_of_headOnly {v : Queue} (htail : v.tail = []) (hmid : v.mrd = v.mwr) (hroom : v.head.length < 16) :
    queueStalls v = false := by
  simp only [queueStalls, Queue.len, Queue.midLen, htail, hmid, List.length_nil, Bool.or_eq_false_iff, decide_eq_false_iff_not]
  omega

theorem queuePut_stalls (h : queueStalls (getQueue s q) = true) (words : List Word) (pois : Nat) : queuePut s q words pois = s :=
  if_pos h

theorem queuePut_eq (h : queueStalls (getQueue s q) = false) (words : List Word) (pois : Nat) :
    queuePut s q words pois = flow (setQueue s q ((getQueue s q).pushed words pois)) q := by
  unfold queuePut
  dsimp only
  rw [h]
  rfl

/-- What a change of a queue that takes an entry leaves: the next SEQ, and one entry more. -/
structure TookEntry (s t : State) (q : Nat) : Prop where
  only : OnlyQueue s t q
  len : (getQueue t q).len = (getQueue s q).len + 1
  seq : (getQueue t q).seq = (getQueue s q).seq + 1
  mid : (getQueue t q).mrd ≤ (getQueue t q).mwr

theorem queuePut_takes (hmid : (getQueue s q).mrd ≤ (getQueue s q).mwr) (h : queueStalls (getQueue s q) = false)
    (words : List Word) (pois : Nat) : TookEntry s (queuePut s q words pois) q := by
  have hflow := flow_passesOn (s := setQueue s q ((getQueue s q).pushed words pois)) (q := q)
    (by rw [getQueue_setQueue_same]; exact hmid)
  rw [getQueue_setQueue_same] at hflow
  obtain ⟨honly, hpass⟩ := hflow
  rw [queuePut_eq h]
  refine ⟨(setQueue_only _ _ _).trans honly, hpass.len.trans ?_, hpass.seq, hpass.mid⟩
  simp only [Queue.len, Queue.midLen, Queue.pushed, List.length_append, List.length_singleton]
  omega

/-- An entry that finds tail and middle empty, and room in the head, is at once in the head. -/
theorem queuePut_head (htail : (getQueue s q).tail = []) (hmid : (getQueue s q).mrd = (getQueue s q).mwr)
    (hroom : (getQueue s q).head.length < 16) (words : List Word) (pois : Nat) :
    ∃ m, queuePut s q words pois = { s with queues := m } ∧ (∀ j, j ≠ q → getQueue (queuePut s q words pois) j = getQueue s j) ∧
      getQueue (queuePut s q words pois) q = { getQueue s q with
        head := (getQueue s q).head ++ [⟨words, pois, (getQueue s q).seq⟩], seq := (getQueue s q).seq + 1 } := by
  generalize hv : getQueue s q = v at *
  have hempty : v.midLen = 0 := by rw [Queue.midLen, hmid, Nat.sub_self]
  have hgo : queueStalls v = false := queueStalls_of_headOnly htail hmid hroom
  let w : Queue := { v with tail := [], head := v.head ++ [⟨words, pois, v.seq⟩], seq := v.seq + 1 }
  have hpushed : (v.pushed words pois).tail = [⟨words, pois, v.seq⟩] := by rw [Queue.pushed, htail]; rfl
  have hmove : queueMove (setQueue s q (v.pushed words pois)) q = some (setQueue (setQueue s q (v.pushed words pois)) q w) := by
    have hmid' : (v.pushed words pois).midLen = 0 := hempty
    have hroom' : (v.pushed words pois).head.length < 16 := hroom
    unfold queueMove
    simp only [getQueue_setQueue_same, hmid', hpushed, hroom', ne_eq, not_true_eq_false, and_false, if_false, List.cons_ne_nil,
      not_false_eq_true, and_true, if_true]
    refine congrArg (fun z => some (setQueue (setQueue s q (v.pushed words pois)) q z)) ?_
    rfl
  have hstill : queueMove (setQueue (setQueue s q (v.pushed words pois)) q w) q = none :=
    queueMove_still (by rw [getQueue_setQueue_same]) (by rw [getQueue_setQueue_same]; exact hmid)
  have hput : queuePut s q words pois = setQueue (setQueue s q (v.pushed words pois)) q w := by
    rw [queuePut_eq (by rw [hv]; exact hgo), hv, flow, queueFlow, hmove]
    exact queueFlow_of_still hstill 99
  rw [hput]
  exact ⟨_, rfl, ((setQueue_only _ _ _).trans (setQueue_only _ _ _)).others, (getQueue_setQueue_same _ _ _).trans <|
    congrArg (fun l => ({ v with tail := l, head := v.head ++ [(⟨words, pois, v.seq⟩ : QEntry)], seq := v.seq + 1 } : Queue)) htail.symm⟩

/-! ### An entry leaves, a stranded group passes on (R311, R312) -/

theorem queueTake_eq {x : QEntry} {xs : List QEntry} (h : (getQueue s q).head = x :: xs) (bad : Nat) :
    queueTake s q bad =
      some ({ x with pois := x.pois ||| bad }, flow (setQueue s q { getQueue s q with head := xs }) q) := by
  unfold queueTake
  dsimp only
  rw [h]

/-- The entries left follow the one taken in the order they entered. -/
theorem flow_taken {x : QEntry} {xs : List QEntry} (h : (getQueue s q).head = x :: xs)
    (hmid : (getQueue s q).mrd ≤ (getQueue s q).mwr) :
    let t := flow (setQueue s q { getQueue s q with head := xs }) q
    OnlyQueue s t q ∧ ∃ ys, (getQueue t q).head = xs ++ ys ∧ (getQueue t q).len + 1 = (getQueue s q).len := by
  intro t
  have hflow := flow_passesOn (s := setQueue s q { getQueue s q with head := xs }) (q := q)
    (by rw [getQueue_setQueue_same]; exact hmid)
  rw [getQueue_setQueue_same] at hflow
  obtain ⟨honly, hpass⟩ := hflow
  obtain ⟨ys, hys⟩ := hpass.head
  refine ⟨(setQueue_only _ _ _).trans honly, ys, hys, ?_⟩
  rw [hpass.len]
  simp only [Queue.len, Queue.midLen, h, List.length_cons]
  omega

/-- A stranded group that the middle has room for passes to it; else nothing changes. -/
theorem queueRelease_passesOn (hmid : (getQueue s q).mrd ≤ (getQueue s q).mwr) :
    OnlyQueue s (queueRelease s q) q ∧ PassesOn (getQueue s q) (getQueue (queueRelease s q) q) := by
  unfold queueRelease
  dsimp only
  split
  · have hspilled := Queue.spilled_passesOn hmid (Nat.le_refl (getQueue s q).tail.length)
    rw [← getQueue_spillTail s q (Nat.le_refl _)] at hspilled
    obtain ⟨honly, hpass⟩ := flow_passesOn hspilled.mid
    exact ⟨(spillTail_only _ _ _).trans honly, hspilled.trans hpass⟩
  · exact ⟨.refl s q, .refl hmid⟩

theorem queueRelease_tail (hmid : (getQueue s q).mrd ≤ (getQueue s q).mwr) (hfew : (getQueue s q).tail.length < 16)
    (hroom : (getQueue s q).midLen + (getQueue s q).tail.length ≤ (getQueue s q).depth) :
    (getQueue (queueRelease s q) q).tail = [] := by
  have hget := getQueue_spillTail s q (Nat.le_refl (getQueue s q).tail.length)
  have hspilled := Queue.spilled_passesOn hmid (Nat.le_refl (getQueue s q).tail.length)
  rw [← hget] at hspilled
  unfold queueRelease
  dsimp only
  rw [if_pos ⟨hfew, hroom⟩]
  refine (flow_passesOn hspilled.mid).2.tail ?_
  rw [hget]
  exact List.drop_length

/-! ### The commands of a control queue -/

theorem qRing_control (h : isControl q = true) : qRing q = none := by
  simp only [isControl, Bool.or_eq_true, Bool.and_eq_true, decide_eq_true_eq] at h
  exact if_neg (by omega)

section Control

variable (hup : s.up = true) (h : isControl q = true)

include hup h

/-- A push of sound pointers and parity puts the payload's 7 words into the queue. -/
theorem doQueuePush_control (payload : List Word) :
    doQueuePush q payload 0 false s = queuePut s q ((payload ++ List.replicate 7 0).take 7) 0 := by
  unfold doQueuePush
  simp [hup, qRing_control h, h, badControl]

theorem doQueuePop_control {x : QEntry} {xs : List QEntry} (hhead : (getQueue s q).head = x :: xs) :
    doQueuePop q 0 false s = flow (setQueue s q { getQueue s q with head := xs }) q := by
  unfold doQueuePop
  simp [hup, qRing_control h, h, badControl, queueTake_eq hhead]

end Control

/-- A pop shows of a step queue what its parity check finds, here nothing. -/
theorem doQueuePop_step (hstep : isStepQ q = true) : doQueuePop q 0 false s = s := by
  have hrange : 0x100 ≤ q ∧ q < 0x180 := by simpa [isStepQ] using hstep
  have hring : qRing q = none := if_neg (by omega)
  have hcontrol : isControl q = false := by
    simp only [isControl, Bool.or_eq_false_iff, Bool.and_eq_false_iff, decide_eq_false_iff_not]
    omega
  have hparity : stepParity s q 0 = s := by
    unfold stepParity
    dsimp only
    split
    · exact if_pos rfl
    · rfl
  unfold doQueuePop
  simp [hring, hcontrol, hstep, hparity]

/-! ### The commands of an intake queue (R310) -/

/-- Only queue `q`, its middle and pipeline `n` of site `m` differ. -/
structure OnlyIntake (s t : State) (m n q : Nat) : Prop where
  rest : t = { s with queues := t.queues, pipes := t.pipes, mem := t.mem, ent := t.ent, cache := t.cache }
  others : ∀ j, j ≠ q → getQueue t j = getQueue s j
  pipes : ∀ i j, pipeKey i j ≠ pipeKey m n → getPipe t i j = getPipe s i j

theorem OnlyQueue.pipes_eq (h : OnlyQueue s t q) : t.pipes = s.pipes := by rw [h.rest]

theorem OnlyQueue.thenPipe {m n : Nat} (h : OnlyQueue s t q) (f : Pipe → Pipe) : OnlyIntake s (modPipe t m n f) m n q := by
  refine ⟨?_, h.others, fun i j hij => ?_⟩
  · rw [h.rest]
    rfl
  · rw [getPipe_modPipe, if_neg hij, getPipe_congr h.pipes_eq]

theorem OnlyIntake.thenQueue {m n : Nat} (h : OnlyIntake s t m n q) (g : OnlyQueue t u q) : OnlyIntake s u m n q :=
  ⟨by rw [g.rest, h.rest], fun j hj => (g.others j hj).trans (h.others j hj),
    fun i j hij => (getPipe_congr g.pipes_eq i j).trans (h.pipes i j hij)⟩

theorem qRing_intake {m n : Nat} (hm : m < 2) (hn : n < 16) : qRing (qIntake m n) = some (m, n) := by
  have hrange : 0x40 ≤ qIntake m n ∧ qIntake m n < 0x60 := by
    unfold qIntake
    omega
  have hm' : (qIntake m n - 0x40) / 16 = m := by
    unfold qIntake
    omega
  have hn' : qIntake m n % 16 = n := by
    unfold qIntake
    omega
  rw [qRing, if_pos hrange, hm', hn']

/-- Address of the submission entry that a pipeline takes next (R310). -/
def subAddr (p : Pipe) : Nat := pSub p + 64 * (p.pushed % 2 ^ pSubLog p)

/-- Words 0 to 6 of the submission entry at an address: zero where its line is INVALID. -/
def subWords (s : State) (a : Nat) : List Word :=
  (List.range 7).map fun i => if lstAt s a = 0 then 0 else dW (BitVec.ofNat 512 (leNat (rawBytes s a 64))) i

def subPois (s : State) (a bad : Nat) : Nat := if lstAt s a = 2 then 127 else bad

section Intake

variable {m n : Nat}

/-- The next entry of the submission list has entered the intake queue. -/
def subPushed (s : State) (m n bad : Nat) : State :=
  modPipe (queuePut s (qIntake m n) (subWords s (subAddr (getPipe s m n))) (subPois s (subAddr (getPipe s m n)) bad)) m n
    fun p => { p with pushed := p.pushed + 1 }

variable (hrun : running s m n = true) (hmore : (getPipe s m n).pushed % 2 ^ 32 ≠ s.fld (rRingTail m n) 31 0)
  (hgo : queueStalls (getQueue s (qIntake m n)) = false)

include hrun hmore hgo

/-- The next entry enters; an EOD marker of stored data releases the group (R330). -/
theorem pushSubmission_eq (bad : Nat) : pushSubmission m n bad s =
    if (!pLive (getPipe s m n) && bit ((subWords s (subAddr (getPipe s m n))).getD 2 0) 33) = true then
      queueRelease (subPushed s m n bad) (qIntake m n)
    else subPushed s m n bad := by
  have hgo' : ¬ (running s m n = false ∨ (getPipe s m n).pushed % 2 ^ 32 = s.fld (rRingTail m n) 31 0 ∨
      queueStalls (getQueue s (qIntake m n)) = true) := by
    rintro (h | h | h)
    · exact Bool.noConfusion (hrun.symm.trans h)
    · exact hmore h
    · exact Bool.noConfusion (hgo.symm.trans h)
  unfold pushSubmission
  exact if_neg hgo'

/-- The queue takes the entry with the next SEQ, and the pipeline has pushed one entry more. -/
theorem pushSubmission_takes (hmid : (getQueue s (qIntake m n)).mrd ≤ (getQueue s (qIntake m n)).mwr) (bad : Nat) :
    let t := pushSubmission m n bad s
    OnlyIntake s t m n (qIntake m n) ∧ (getQueue t (qIntake m n)).len = (getQueue s (qIntake m n)).len + 1 ∧
      (getQueue t (qIntake m n)).seq = (getQueue s (qIntake m n)).seq + 1 ∧
      getPipe t m n = { getPipe s m n with pushed := (getPipe s m n).pushed + 1 } := by
  intro t
  let a := subAddr (getPipe s m n)
  have htook := queuePut_takes hmid hgo (subWords s a) (subPois s a bad)
  have honly : OnlyIntake s (subPushed s m n bad) m n (qIntake m n) := htook.only.thenPipe fun p => { p with pushed := p.pushed + 1 }
  have hpipe : getPipe (subPushed s m n bad) m n = { getPipe s m n with pushed := (getPipe s m n).pushed + 1 } := by
    refine (getPipe_modPipe _ _ _ _ _ _).trans ((if_pos rfl).trans ?_)
    rw [getPipe_congr htook.only.pipes_eq]
  have hrelease := queueRelease_passesOn (s := subPushed s m n bad) htook.mid
  obtain ⟨honly', hpass⟩ := hrelease
  have ht : t = _ := pushSubmission_eq hrun hmore hgo bad
  rw [ht]
  split
  · exact ⟨honly.thenQueue honly', hpass.len.trans htook.len, hpass.seq.trans htook.seq,
      (getPipe_congr honly'.pipes_eq m n).trans hpipe⟩
  · exact ⟨honly, htook.len, htook.seq, hpipe⟩

end Intake

theorem doQueuePush_intake {m n : Nat} (hup : s.up = true) (hm : m < 2) (hn : n < 16) (payload : List Word) (bad : Nat) :
    doQueuePush (qIntake m n) payload bad false s = pushSubmission m n bad s := by
  unfold doQueuePush
  rw [hup, qRing_intake hm hn]
  rfl

theorem dW_eq_extractLsb' (w : DescWord) (i : Nat) : dW w i = w.extractLsb' (64 * i) 64 := by
  ext j
  simp [dW]

/-- A valid line gives its words as stored. -/
theorem subWords_of_valid {a : Nat} (h : lstAt s a = 1) :
    subWords s a = (List.range 7).map fun i => (BitVec.ofNat 512 (leNat (rawBytes s a 64))).extractLsb' (64 * i) 64 := by
  refine List.map_congr_left fun i _ => ?_
  rw [if_neg (by rw [h]; decide), dW_eq_extractLsb']

/-- An entry of stored data that finds tail and middle empty is at once in the head, and no group is released. -/
theorem pushSubmission_head {m n : Nat} (hrun : running s m n = true)
    (hmore : (getPipe s m n).pushed % 2 ^ 32 ≠ s.fld (rRingTail m n) 31 0) (htail : (getQueue s (qIntake m n)).tail = [])
    (hmid : (getQueue s (qIntake m n)).mrd = (getQueue s (qIntake m n)).mwr) (hroom : (getQueue s (qIntake m n)).head.length < 16)
    (hdata : bit ((subWords s (subAddr (getPipe s m n))).getD 2 0) 33 = false) (bad : Nat) :
    let t := pushSubmission m n bad s
    let a := subAddr (getPipe s m n)
    let v := getQueue s (qIntake m n)
    t = { s with queues := t.queues, pipes := t.pipes } ∧
      getQueue t (qIntake m n) = { v with head := v.head ++ [⟨subWords s a, subPois s a bad, v.seq⟩], seq := v.seq + 1 } ∧
      getPipe t m n = { getPipe s m n with pushed := (getPipe s m n).pushed + 1 } := by
  intro t a v
  obtain ⟨qs, hput, -, hget⟩ := queuePut_head htail hmid hroom (subWords s a) (subPois s a bad)
  have hpushed : subPushed s m n bad = modPipe { s with queues := qs } m n fun p => { p with pushed := p.pushed + 1 } := by
    rw [subPushed, hput]
  have ht : t = subPushed s m n bad := by
    refine (pushSubmission_eq hrun hmore (queueStalls_of_headOnly htail hmid hroom) bad).trans (if_neg ?_)
    rw [hdata, Bool.and_false]
    decide
  rw [ht]
  refine ⟨by rw [hpushed]; rfl, hget, ?_⟩
  rw [hpushed, getPipe_modPipe, if_pos rfl]
  rfl

/-- The pipeline of a running ring holds the entry at the head of its intake queue. -/
theorem doQueuePop_intake {m n : Nat} (hup : s.up = true) (hm : m < 2) (hn : n < 16) (hrun : running s m n = true)
    (htaken : (getPipe s m n).taken = none) {x : QEntry} {xs : List QEntry} (hhead : (getQueue s (qIntake m n)).head = x :: xs)
    (bad : Nat) :
    doQueuePop (qIntake m n) bad false s =
      modPipe (flow (setQueue s (qIntake m n) { getQueue s (qIntake m n) with head := xs }) (qIntake m n)) m n
        fun p => { p with taken := some { x with pois := x.pois ||| bad } } := by
  unfold doQueuePop
  rw [hup, qRing_intake hm hn]
  refine (if_neg (by decide)).trans ?_
  dsimp only
  rw [if_pos ⟨hrun, htaken⟩, queueTake_eq hhead]

theorem doQueueTailTimeout_eq (hcls : (getQueue s q).cls = 1 ∨ (getQueue s q).cls = 2) (htmo : (getQueue s q).tmo ≠ 0)
    (htail : (getQueue s q).tail ≠ []) : doQueueTailTimeout q s = queueRelease s q := if_pos ⟨hcls, htmo, htail⟩

/-! ### The obligation -/

/-- Settles O29: every passage keeps the entries and their order (`queueMove_passesOn`), by induction on the passages
(`queueFlow_passesOn`). -/
theorem queuesMove : Obligations.QueuesMove := by
  unfold Obligations.QueuesMove
  intro q s hup
  refine ⟨fun hcontrol => ⟨?push, ?pushEmpty, ?pushStalls, ?pop, ?popEmpty⟩,
    fun m n hq hrun => ⟨?subPush, ?subPushEmpty, ?subPop⟩, fun hstep => ?stepPop, ?timeout⟩
  case push =>
    intro payload _ hmid hgo
    obtain ⟨honly, hlen, hseq, -⟩ := queuePut_takes hmid hgo ((payload ++ List.replicate 7 0).take 7) 0
    exact ⟨_, next_congr (doQueuePush_control hup hcontrol payload), ⟨honly.rest, honly.others⟩, hlen, hseq⟩
  case pushEmpty =>
    intro payload hseven htail hmid hroom
    have hwords : (payload ++ List.replicate 7 0).take 7 = payload := List.take_left' hseven
    obtain ⟨ws, hrest, hothers, hq⟩ := queuePut_head htail hmid hroom payload 0
    refine ⟨_, next_congr ((doQueuePush_control hup hcontrol payload).trans (by rw [hwords])), ?_, hothers, hq⟩
    rw [hrest]
  case pushStalls =>
    intro payload hstalls
    exact next_congr ((doQueuePush_control hup hcontrol payload).trans (queuePut_stalls hstalls _ _))
  case pop =>
    intro x xs hhead hmid
    obtain ⟨honly, ys, hys, hlen⟩ := flow_taken hhead hmid
    exact ⟨_, ys, next_congr (doQueuePop_control hup hcontrol hhead), ⟨honly.rest, honly.others⟩, hys, hlen⟩
  case popEmpty =>
    intro x xs hhead htail hmid
    have hstill : queueMove (setQueue s q { getQueue s q with head := xs }) q = none :=
      queueMove_still (by rw [getQueue_setQueue_same]; exact htail) (by rw [getQueue_setQueue_same]; exact hmid)
    exact ⟨_, next_congr ((doQueuePop_control hup hcontrol hhead).trans (queueFlow_of_still hstill 100)), rfl,
      (setQueue_only _ _ _).others, getQueue_setQueue_same _ _ _⟩
  case subPush =>
    subst hq
    intro payload bad hmore hmid hgo
    obtain ⟨honly, hlen, hseq, hpipe⟩ := pushSubmission_takes hrun hmore hgo hmid bad.toNat
    exact ⟨_, next_congr (doQueuePush_intake hup m.isLt n.isLt payload bad.toNat),
      ⟨honly.rest, honly.others, honly.pipes⟩, hlen, hseq, hpipe⟩
  case subPushEmpty =>
    subst hq
    intro htail hmid hroom hmore hvalid hdata payload
    have hwords := subWords_of_valid hvalid
    have hflag : bit ((subWords s (subAddr (getPipe s m n))).getD 2 0) 33 = false := by
      rw [subAddr, hwords]
      exact hdata
    have hpois : subPois s (subAddr (getPipe s m n)) 0 = 0 := if_neg (by rw [subAddr, hvalid]; decide)
    obtain ⟨hrest, hget, hpipe⟩ := pushSubmission_head hrun hmore htail hmid hroom hflag 0
    refine ⟨_, next_congr (doQueuePush_intake hup m.isLt n.isLt payload 0), hrest, hget.trans ?_, hpipe⟩
    rw [hpois, subAddr, hwords]
  case subPop =>
    subst hq
    intro x xs bad hhead htaken hmid
    obtain ⟨honly, ys, hys, hlen⟩ := flow_taken hhead hmid
    have hfed := honly.thenPipe (m := m) (n := n) fun p => { p with taken := some { x with pois := x.pois ||| bad.toNat } }
    refine ⟨_, ys, next_congr (doQueuePop_intake hup m.isLt n.isLt hrun htaken hhead bad.toNat),
      ⟨hfed.rest, hfed.others, hfed.pipes⟩, hys, hlen, ?_⟩
    rw [getPipe_modPipe, if_pos rfl, getPipe_congr honly.pipes_eq]
  case stepPop => exact next_congr (doQueuePop_step hstep)
  case timeout =>
    intro hcls htmo htail hfew hmid hroom
    obtain ⟨honly, hpass⟩ := queueRelease_passesOn hmid
    obtain ⟨ys, hys⟩ := hpass.head
    exact ⟨_, ys, next_congr (doQueueTailTimeout_eq hcls htmo htail), ⟨honly.rest, honly.others⟩,
      queueRelease_tail hmid hfew hroom, hys, hpass.len⟩

end Sys2Proof.Machine
end

section
/-! PROOF. Long operations of the job engine (R314, R476, R477, R480, R513, R532, R601). -/

namespace Sys2Proof.Machine

variable {s t u : State} {i : Nat} {j : Job}

/-! ### The job that a row takes -/

theorem jType_of_longRunning {ty : Nat} (h : longRunning s ty = some j) : jType j = ty := by
  have hj := List.find?_some h
  simp only [Bool.and_eq_true, decide_eq_true_eq] at hj
  exact hj.1

theorem jType_of_longQueued {ty : Nat} (h : longQueued s ty = some j) : jType j = ty := by
  obtain ⟨hfind, -⟩ := Option.filter_eq_some_iff.mp h
  have hj := List.find?_some hfind
  simp only [Bool.and_eq_true, decide_eq_true_eq] at hj
  exact hj.1

/-! ### Checks of the records (Table 11.8) -/

theorem doJobBist_of_wellFormed (h : unchecked s i 2 = some j) (hhead : longHead j false = true) (hhi : bits (jw j 2) 63 32 = 0)
    (hzero : zeroFrom j 3 = true) :
    doJobBist i s = if bistFree s j = true then setJob s { j with checked := true } else jobEnd s j 5 0 0x43 := by
  unfold doJobBist
  rw [h]
  simp only [hhead, hhi, hzero]
  cases bistFree s j <;> rfl

theorem doJobExport_of_passed (h : unchecked s i 3 = some j) (hcheck : exportCheck s j = (u, 0)) :
    doJobExport i s = setJob u { j with checked := true } := by
  unfold doJobExport
  rw [h]
  dsimp only
  rw [hcheck]
  rfl

theorem doJobScrub_of_wellFormed (h : unchecked s i 6 = some j) (hhead : longHead j true = true) (hhi : bits (jw j 2) 63 48 = 0)
    (hbase : sBase j % 4096 = 0) (hlen : bits (jw j 3) 63 32 = 0) (hzero : zeroFrom j 4 = true) :
    doJobScrub i s = if partState s (jPart j) ≠ 2 then jobEnd s j 5 0 0x41
      else if sMib j ≠ 0 ∧ hbmSpan s (jPart j) (sBase j) (sMib j * 0x100000) = false then jobEnd s j 5 0 0x42
      else setJob s { j with checked := true } := by
  have hbad : ¬ (!longHead j true || decide (bits (jw j 2) 63 48 ≠ 0) || decide (sBase j % 4096 ≠ 0) ||
      decide (bits (jw j 3) 63 32 ≠ 0) || !zeroFrom j 4) = true := by simp [hhead, hhi, hbase, hlen, hzero]
  unfold doJobScrub
  rw [h]
  dsimp only
  rw [if_neg hbad]
  split
  · rfl
  · change longChecked s j (if sMib j ≠ 0 ∧ hbmSpan s (jPart j) (sBase j) (sMib j * 0x100000) = false then 0x42 else 0) = _
    split <;> rfl

/-- A REPLAY without a reference waits. -/
theorem doJobReplay_of_passed (h : unchecked s i 5 = some j) (hhead : longHead j true = true) (hsrc : (jw j 2).toNat < 2 ^ 48)
    (halign : (jw j 2).toNat % 64 = 0) (hn : bits (jw j 3) 63 32 = 0) (hspan : rFrom j ≤ rTo j) (href : jw j 6 = 0)
    (hrefn : bits (jw j 7) 63 32 = 0) (hmode : bits (jw j 8) 63 9 = 0) (hzero : zeroFrom j 9 = true)
    (hpart : partState s (jPart j) = 2) (harray : arrayOk s (jw j 2).toNat (jw j 3).toNat = true) :
    doJobReplay i s = setJob s { j with checked := true } := by
  have hbad : ¬ (!longHead j true || decide (2 ^ 48 ≤ (jw j 2).toNat) || decide ((jw j 2).toNat % 64 ≠ 0) ||
      decide (bits (jw j 3) 63 32 ≠ 0) || decide (rTo j < rFrom j) || decide (2 ^ 48 ≤ (jw j 6).toNat) ||
      decide ((jw j 6).toNat % 64 ≠ 0) || decide (bits (jw j 7) 63 32 ≠ 0) || decide (bits (jw j 8) 63 9 ≠ 0) ||
      !zeroFrom j 9) = true := by
    simpa [hhead, halign, hn, Nat.not_lt.mpr hspan, href, hrefn, hmode, hzero] using hsrc
  have hout : ¬ (arrayOk s (jw j 2).toNat (jw j 3).toNat = false ∨
      ((jw j 6).toNat ≠ 0 ∧ arrayOk s (jw j 6).toNat (jw j 7).toNat = false)) := by simp [harray, href]
  unfold doJobReplay
  rw [h]
  dsimp only
  rw [if_neg hbad, if_neg (not_not_intro hpart), if_neg hout]
  rfl

/-! ### FLASH reads its object through the hub's cache (R465, R532) -/

/-- Only the hub's own state and the messages sent differ. -/
def HubAndOut (s t : State) : Prop := t = { s with hub := t.hub, out := t.out }

theorem HubAndOut.refl (s : State) : HubAndOut s s := rfl

theorem HubAndOut.trans (h : HubAndOut s t) (g : HubAndOut t u) : HubAndOut s u := by
  unfold HubAndOut at *
  rw [g, h]

theorem HubAndOut.ite {p : Prop} [Decidable p] (h : HubAndOut s t) (g : HubAndOut s u) : HubAndOut s (if p then t else u) := by
  split <;> assumption

theorem HubAndOut.foldl {α : Type} (f : State → α → State) (hf : ∀ s x, HubAndOut s (f s x)) :
    ∀ (l : List α) (s : State), HubAndOut s (l.foldl f s)
  | [], s => .refl s
  | x :: l, s => (hf s x).trans (HubAndOut.foldl f hf l (f s x))

theorem sendReq_hubAndOut (s : State) (r : HostReq) : HubAndOut s (sendReq s r) := by
  unfold sendReq
  dsimp only
  split
  · exact .refl s
  · rfl

theorem hostRequest_hubAndOut (s : State) (ty line : Nat) (data : List Byte) : HubAndOut s (hostRequest s ty line data) := by
  refine .ite (.refl s) (HubAndOut.trans ?_ (.ite (.foldl _ sendReq_hubAndOut _ _) (.refl _)))
  rfl

theorem useLine_hubAndOut (s : State) (line : Nat) : HubAndOut s (useLine s line) := by
  unfold useLine
  split <;> rfl

theorem giveUp_hubAndOut (s : State) (h : HostLine) : HubAndOut s (giveUp s h) :=
  .ite (hostRequest_hubAndOut _ _ _ _) (hostRequest_hubAndOut _ _ _ _)

theorem cacheFill_hubAndOut (s : State) (h : HostLine) : HubAndOut s (cacheFill s h) := by
  unfold cacheFill
  split
  · next v _ =>
    have hdrop : HubAndOut s (dropLine s v.line) := rfl
    refine (hdrop.trans (giveUp_hubAndOut _ v)).trans ?_
    rfl
  · rfl

theorem fillThrough_hubAndOut (s : State) (a : Nat) (b : List Byte) : HubAndOut s (fillThrough s a b) :=
  .foldl _ (fun _ _ => .ite (cacheFill_hubAndOut _ _) (useLine_hubAndOut _ _)) _ _

/-- With no line in the cache the hub reads what host memory gives. -/
theorem readThrough_of_noLines (h : ∀ l, findLine s l = none) (a : Nat) (b : List Byte) : readThrough s a b = b := by
  refine List.ext_getElem (by simp [readThrough]) fun k hk hkb => ?_
  simp [readThrough, h, List.getElem?_eq_getElem hkb]

/-- The object's checks read the security state alone. -/
theorem objCheck_congr (h : t.sec = s.sec) (want : List Nat) (b : List Byte) : objCheck t want b = objCheck s want b := by
  unfold objCheck keyHash svnOf
  rw [h]

theorem d2Open_congr (h : t.sec = s.sec) : d2Open t = d2Open s := by
  unfold d2Open
  rw [h]

theorem doJobFlash_of_wellFormed (obj : List Byte) (h : unchecked s i 7 = some j)
    (hfirst : ∀ k, k ∈ s.hub.jobs → jType k = 7 → k.checked = false ∧ k.st = .queued)
    (hhead : longHead j false = true) (hhi : bits (jw j 2) 63 47 = 0) (hlenhi : bits (jw j 3) 63 32 = 0)
    (hzero : zeroFrom j 4 = true) (hlen : bits (jw j 3) 31 0 = obj.length) :
    let img := readThrough s (bits (jw j 2) 46 0) obj
    let u := fillThrough s (bits (jw j 2) 46 0) obj
    let v := setJob u { j with checked := true }
    let st := if d2Open s = true then 10 else objCheck s [1, 2, 3, 4] img
    doJobFlash i obj s = if st = 0 then { v with hub := { v.hub with obj := img } } else flashReject u j (oType img) st := by
  intro img u v st
  have hsec : u.sec = s.sec := by
    rw [show u = _ from fillThrough_hubAndOut s _ obj]
  have hnone : ¬ (s.hub.jobs.any fun k => decide (jType k = 7) && (k.checked || k.st != .queued)) = true := by
    intro hany
    obtain ⟨k, hk, hbusy⟩ := List.any_eq_true.mp hany
    simp only [Bool.and_eq_true, decide_eq_true_eq] at hbusy
    obtain ⟨hchecked, hqueued⟩ := hfirst k hk hbusy.1
    rw [hchecked, hqueued] at hbusy
    exact absurd hbusy.2 (by decide)
  have hbad : ¬ (!longHead j false || decide (bits (jw j 2) 63 47 ≠ 0) || decide (bits (jw j 3) 63 32 ≠ 0) || !zeroFrom j 4) = true := by
    simp [hhead, hhi, hlenhi, hzero]
  have hst : (if d2Open u then 10 else objCheck u [1, 2, 3, 4] img) = st := by rw [d2Open_congr hsec, objCheck_congr hsec]
  unfold doJobFlash
  rw [h]
  dsimp only
  rw [if_neg hnone, if_neg hbad, if_neg (not_not_intro hlen)]
  change (if (if d2Open u then 10 else objCheck u [1, 2, 3, 4] img) ≠ 0 then _ else _) = _
  rw [hst, ite_not]
  rfl

/-! ### Start, units, end (R476, R480) -/

/-- The first that waits starts; a FLASH empties the slot of its object's type first. -/
theorem doLongOperationStart_of_free {op : LongOp} (hfree : longRunning s (longType op) = none)
    (hwaits : longQueued s (longType op) = some j) (hop : op ≠ .replay) (hbist : op = .bist → bistFree s j = true)
    (hflash : op = .flash → d2Open s = false) :
    let u := jobMove s { j with st := .running } .running 0
    doLongOperationStart op s = if op = .flash then setSlot u (oType s.hub.obj) none else u := by
  have hty := jType_of_longQueued hwaits
  unfold doLongOperationStart
  rw [hfree, hwaits]
  dsimp only
  unfold longBegin
  rw [hty]
  cases op with
  | replay => exact absurd rfl hop
  | bist => exact if_pos (hbist rfl)
  | exportOp => rfl
  | scrub => rfl
  | flash => exact if_neg (by rw [hflash rfl]; decide)

/-- More units are complete, and PARTIAL is written. -/
theorem doLongOperationUnitDone_of_done {op : LongOp} {n : Nat} (hrun : longRunning s (longType op) = some j) (hn : 0 < n)
    (hunits : j.progress + n ≤ longUnits s j) (hwork : longWork s j (j.progress + n) = (u, 0)) :
    doLongOperationUnitDone op n s = jobMove u { j with st := .partial_ } .partial_ (j.progress + n) := by
  unfold doLongOperationUnitDone
  rw [hrun]
  dsimp only
  rw [if_neg (by omega), hwork]
  rfl

theorem scrub_longWork (hty : jType j = 6) (n : Nat) : longWork s j (j.progress + n) =
    ((List.range (n * 256)).foldl (fun u k => scrubCheck u (sBase j + j.progress * 0x100000 + k * 4096)) s, 0) := by
  unfold longWork
  rw [hty]
  refine congrArg (·, 0) ?_
  rw [scrubMib, Nat.add_sub_cancel_left]
  rfl

theorem scrub_longUnits (hty : jType j = 6) : longUnits s j = sMib j := by
  unfold longUnits
  rw [hty]
  rfl

theorem doLongOperationEnd_eq {op : LongOp} (h : longRunning s (longType op) = some j) (how : LongEnd) :
    doLongOperationEnd op how s = longFinish s j how := by
  unfold doLongOperationEnd
  rw [h]

theorem longFinish_scrub (hty : jType j = 6) (hall : j.progress = sMib j) : longFinish s j .done = jobEnd s j 4 j.progress 0 := by
  unfold longFinish
  rw [hty]
  exact if_pos hall

theorem longFinish_bist (hty : jType j = 2) (hall : j.progress = (bistMask j).length) :
    longFinish s j .done = jobEnd s j (if j.failed then 5 else 4) j.progress (if j.failed then 0x48 else 0) := by
  unfold longFinish
  rw [hty]
  refine (if_neg (not_not_intro hall)).trans ?_
  split <;> rfl

theorem longFinish_export_poisoned (hty : jType j = 3) : longFinish s j .poisoned = exportEnd s j 5 0x4B := by
  unfold longFinish
  rw [hty]
  rfl

theorem longFinish_export_hostLost (hty : jType j = 3) : longFinish s j .hostLost = exportEnd s j 5 0x4A := by
  unfold longFinish
  rw [hty]
  rfl

theorem longFinish_flash (hty : jType j = 7) (hall : j.progress = objKib s.hub.obj) : longFinish s j .done =
    flashOver (jobEnd (setSlot s (oType s.hub.obj) (some s.hub.obj)) j 4 j.progress 0) := by
  unfold longFinish
  rw [hty]
  exact if_pos hall

/-- A cluster without a failed core is reported, and PROGRESS counts it (R601). -/
theorem doBistClusterDone_sound {c : Nat} (hrun : longRunning s 2 = some j) (hnext : (bistMask j)[j.progress]? = some c) :
    doBistClusterDone c 0 s = jobMove (errRecord s { code := 0x0930, cls := 0, die := c / 4, unit := 1, index := c, cause := 0, d0 := 0 })
      { j with st := .partial_ } .partial_ (j.progress + 1) := by
  have hcores : ((List.range 33).filter fun i => bit (0 : BitVec 34) i) = [] := by decide
  have hfailed : ({ j with failed := j.failed || false } : Job) = j := by rw [Bool.or_false]
  unfold doBistClusterDone
  rw [hrun]
  dsimp only
  rw [if_neg (not_not_intro hnext), hcores, List.foldl_nil]
  change longProgress _ { j with failed := j.failed || false } _ = _
  rw [hfailed]
  rfl

/-! ### The obligation -/

/-- Settles O50: each row by the equation of its function where the record's checks pass and the job is the one in progress. -/
theorem longOperations : Obligations.LongOperations := by
  unfold Obligations.LongOperations
  intro i s
  refine ⟨fun j hj hhead hhi hzero => next_congr (doJobBist_of_wellFormed hj hhead hhi hzero),
    fun j u hj hcheck => next_congr (doJobExport_of_passed hj hcheck),
    fun j hj hhead hhi hbase hlen hzero => next_congr (doJobScrub_of_wellFormed hj hhead hhi hbase hlen hzero),
    fun j obj hj hfirst hhead hhi hlenhi hzero hlen => ⟨⟨_, _, fillThrough_hubAndOut s _ obj⟩,
      fun hnone => readThrough_of_noLines hnone _ obj, next_congr (doJobFlash_of_wellFormed obj hj hfirst hhead hhi hlenhi hzero hlen)⟩,
    fun j hj hhead hsrc halign hn hspan href hrefn hmode hzero hpart harray =>
      next_congr (doJobReplay_of_passed hj hhead hsrc halign hn hspan href hrefn hmode hzero hpart harray),
    fun op j hfree hwaits hop hbist hflash => next_congr (doLongOperationStart_of_free hfree hwaits hop hbist hflash),
    fun op j n u hrun hn hunits hwork => next_congr (doLongOperationUnitDone_of_done hrun hn hunits hwork),
    fun j n hrun hn hunits => ?scrubUnits, fun j hrun hall => ?scrubEnd, fun j hrun hall => ?bistEnd, fun j hrun => ?exportEnds,
    fun j hrun hall => ?flashEnd, fun c j hrun hnext => ?bistCluster⟩
  case scrubUnits =>
    have hty := jType_of_longRunning hrun
    have hunits' : j.progress + n ≤ longUnits s j := by rw [scrub_longUnits hty]; exact hunits
    exact ⟨_, next_congr (doLongOperationUnitDone_of_done (op := .scrub) hrun hn hunits' (scrub_longWork hty n)), rfl⟩
  case scrubEnd =>
    exact next_congr ((doLongOperationEnd_eq (op := .scrub) hrun .done).trans (longFinish_scrub (jType_of_longRunning hrun) hall))
  case bistEnd =>
    exact next_congr ((doLongOperationEnd_eq (op := .bist) hrun .done).trans (longFinish_bist (jType_of_longRunning hrun) hall))
  case exportEnds =>
    have hty := jType_of_longRunning hrun
    exact ⟨next_congr ((doLongOperationEnd_eq (op := .exportOp) hrun .poisoned).trans (longFinish_export_poisoned hty)),
      next_congr ((doLongOperationEnd_eq (op := .exportOp) hrun .hostLost).trans (longFinish_export_hostLost hty))⟩
  case flashEnd =>
    exact next_congr ((doLongOperationEnd_eq (op := .flash) hrun .done).trans (longFinish_flash (jType_of_longRunning hrun) hall))
  case bistCluster => exact ⟨_, errRecord_reported s _, next_congr (doBistClusterDone_sound hrun hnext)⟩

end Sys2Proof.Machine
end

section
/-! PROOF. Partitions enable, disable and reset (R309, R484, R489, R579); the host's scalars (R278 to R282) and the Sillage ring's
control (R508, R512). -/

namespace Sys2Proof.Machine

variable {s t u : State} {p : Nat}

/-! ### Registers read back after a write -/

theorem fld_of_reg {a : Nat} (h : t.reg a = s.reg a) (hi lo : Nat) : t.fld a hi lo = s.fld a hi lo := by
  rw [State.fld, h, State.fld]

theorem rbit_of_reg {a : Nat} (h : t.reg a = s.reg a) (i : Nat) : t.rbit a i = s.rbit a i := by rw [State.rbit, h, State.rbit]

theorem reg_setReg_other (s : State) {a b : Nat} (h : b ≠ a) (v : Word) : (s.setReg a v).reg b = s.reg b := by
  rw [reg_setReg, if_neg h]

theorem reg_setFld_other (s : State) {a b : Nat} (h : b ≠ a) (hi lo v : Nat) : (s.setFld a hi lo v).reg b = s.reg b :=
  reg_setReg_other s h _

theorem reg_setRBit_other (s : State) {a b : Nat} (h : b ≠ a) (i : Nat) (v : Bool) : (s.setRBit a i v).reg b = s.reg b :=
  reg_setReg_other s h _

theorem fld_setFld_same (s : State) (a : Nat) {hi lo : Nat} (h : lo + (hi - lo + 1) ≤ 64) (v : Nat) :
    (s.setFld a hi lo v).fld a hi lo = v % 2 ^ (hi - lo + 1) := by
  rw [State.fld, reg_setFld, if_pos rfl, bits_setBits_same _ _ _ _ h]

theorem fld_setFld_field (s : State) (a : Nat) {hi lo h2 l2 : Nat} (h : l2 + (h2 - l2 + 1) ≤ lo ∨ lo + (hi - lo + 1) ≤ l2)
    (v : Nat) : (s.setFld a hi lo v).fld a h2 l2 = s.fld a h2 l2 := by
  rw [State.fld, reg_setFld, if_pos rfl, bits_setBits_other _ _ _ _ _ _ h, State.fld]

theorem setRBit_rest (s : State) (a i : Nat) (b : Bool) : s.setRBit a i b = { s with regs := (s.setRBit a i b).regs } := rfl

theorem reg_softWrite_other (s : State) {a b : Nat} (h : b ≠ a) (v : Word) : (s.softWrite a v).reg b = s.reg b := by
  unfold State.softWrite
  split
  · exact reg_setReg_other s h _
  · rfl

theorem bits_mergeWrite {rw' : Word} (w1c old v : Word) {hi lo : Nat} (h : ∀ i, i < hi - lo + 1 → bit rw' (lo + i) = true) :
    bits (mergeWrite rw' w1c old v) hi lo = bits v hi lo := by
  refine Nat.eq_of_testBit_eq fun i => ?_
  rw [testBit_bits, testBit_bits]
  by_cases hi' : i < hi - lo + 1
  · have hbit := bit_mergeWrite rw' w1c old v (lo + i)
    rw [if_pos (h i hi')] at hbit
    exact congrArg (decide (i < hi - lo + 1) && ·) hbit
  · rw [decide_eq_false hi', Bool.false_and, Bool.false_and]

theorem bits_setWidth (v : BitVec 32) (hi lo : Nat) : bits (v.setWidth 64) hi lo = bits v hi lo := by
  have hv : (v.setWidth 64).toNat = v.toNat := by
    rw [BitVec.toNat_setWidth]
    exact Nat.mod_eq_of_lt (Nat.lt_of_lt_of_le v.isLt (by decide))
  rw [bits, hv, bits]

theorem bit_setWidth (v : BitVec 32) {i : Nat} (hi : i < 64) : bit (v.setWidth 64) i = bit v i := by
  simp [bit, hi]

theorem partState_setPartState (s : State) (p : Nat) {v : Nat} (hv : v < 4) : partState (setPartState s p v) p = v :=
  (fld_setFld_same s (rPartCtl p) (by decide) v).trans (Nat.mod_eq_of_lt hv)

theorem meminitCtl_ne_partCtl (p : Nat) : rMeminitCtl ≠ rPartCtl p := by
  unfold rMeminitCtl rPartCtl hubR
  omega

theorem partState_setRBit_meminit (s : State) (p i : Nat) (b : Bool) : partState (s.setRBit rMeminitCtl i b) p = partState s p :=
  fld_of_reg (reg_setRBit_other s (meminitCtl_ne_partCtl p).symm i b) 3 2

/-! ### ENABLE (R484) -/

/-- An accepted ENABLE: ENABLING, the invalidation under way, the partition's counters cleared. -/
def enabling (s : State) (p : Nat) : State := clearPartCnts ((setPartState s p 1).setRBit rMeminitCtl 1 true) p

section Enable

variable (hup : s.up = true)

include hup

theorem doPartitionEnable_taken (hstate : partState s p = 0) (hcause : enableCause s p = 0) :
    doPartitionEnable p s = enabling s p := by
  unfold doPartitionEnable
  rw [hup, if_neg (by decide), if_neg (not_not_intro hstate), if_neg (not_not_intro hcause)]
  rfl

theorem doPartitionEnable_refused (hstate : partState s p = 0) (hcause : enableCause s p ≠ 0) :
    doPartitionEnable p s = (s.setFld (rPartCtl p) 10 7 (enableCause s p)).setRBit (rPartCtl p) 11 true := by
  unfold doPartitionEnable
  rw [hup, if_neg (by decide), if_neg (not_not_intro hstate), if_pos hcause]

theorem doPartitionEnable_notDisabled (hstate : partState s p ≠ 0) :
    doPartitionEnable p s = s.setRBit (rPartCtl p) 11 true := by
  unfold doPartitionEnable
  rw [hup, if_neg (by decide), if_pos hstate]

end Enable

theorem cntGet_clearPartCnts (s : State) (p i q : Nat) : cntGet (clearPartCnts s p) i q =
    if cntKey i q / 0x10000 = p ∧ cntKey i q % 0x10000 < 0x1000 then ⟨0, false⟩ else cntGet s i q := by
  refine (smGet_filter_keys (⟨0, false⟩ : Cnt) (fun k => !decide (k / 0x10000 = p ∧ k % 0x10000 < 0x1000)) s.hub.cnts
    (cntKey i q)).trans ?_
  by_cases h : cntKey i q / 0x10000 = p ∧ cntKey i q % 0x10000 < 0x1000
  · rw [if_pos h, decide_eq_true h]
    rfl
  · rw [if_neg h, decide_eq_false h]
    rfl

theorem enabling_spec (s : State) (p : Nat) :
    let t := enabling s p
    partState t p = 1 ∧ t.rbit rMeminitCtl 1 = true ∧ (∀ i, i < 0x1000 → cntGet t i p = ⟨0, false⟩) ∧
      (∀ i q, (0x1000 ≤ i ∧ i < 0x10000 ∨ i < 0x1000 ∧ q ≠ p) → cntGet t i q = cntGet s i q) ∧
      ∀ r, r ≠ rPartCtl p → r ≠ rMeminitCtl → t.reg r = s.reg r := by
  intro t
  have hregs : t.regs = ((setPartState s p 1).setRBit rMeminitCtl 1 true).regs := rfl
  have hcnts : ∀ i q, cntGet t i q = _ := cntGet_clearPartCnts ((setPartState s p 1).setRBit rMeminitCtl 1 true) p
  refine ⟨?_, ?_, fun i hi => ?_, fun i q hiq => ?_, fun r hpart hmem => ?_⟩
  · refine (fld_of_reg (reg_congr hregs _) 3 2).trans ?_
    exact (partState_setRBit_meminit _ p 1 true).trans (partState_setPartState s p (by decide))
  · rw [rbit_congr hregs, rbit_setRBit_same _ _ (by decide)]
  · have hkey : cntKey i p = i + 0x10000 * p := if_pos hi
    rw [hcnts, if_pos (by rw [hkey]; omega)]
  · refine (hcnts i q).trans ((if_neg ?_).trans rfl)
    unfold cntKey
    split <;> omega
  · rw [reg_congr hregs, reg_setRBit_other _ hmem, setPartState, reg_setFld_other _ hpart]

/-! ### Folds over queues, contexts and ranges -/

theorem foldl_congr_of_invariant {α β : Type} {f g : α → β → α} {I : α → Prop} (hI : ∀ a x, I a → I (g a x))
    (hfg : ∀ a x, I a → f a x = g a x) : ∀ (l : List β) (a : α), I a → l.foldl f a = l.foldl g a
  | [], _, _ => rfl
  | x :: l, a, ha => by
    rw [List.foldl_cons, List.foldl_cons, hfg a x ha]
    exact foldl_congr_of_invariant hI hfg l (g a x) (hI a x ha)

theorem smGet_foldl_smSet_other {α : Type} [DecidableEq α] (d : α) (k : Nat → Nat) (v : Nat → α) {j : Nat} :
    ∀ (l : List Nat) (m : SMap α), (∀ x, x ∈ l → j ≠ k x) → smGet d (l.foldl (fun m x => smSet d m (k x) (v x)) m) j = smGet d m j
  | [], _, _ => rfl
  | x :: l, m, h => by
    rw [List.foldl_cons, smGet_foldl_smSet_other d k v l _ fun y hy => h y (List.mem_cons_of_mem _ hy),
      smGet_smSet_other d m (v x) (h x List.mem_cons_self)]

/-- Where every write to a key writes `w`, the key reads `w` once one has written it. -/
theorem smGet_foldl_smSet_written {α : Type} [DecidableEq α] (d : α) (k : Nat → Nat) (v : Nat → α) {j : Nat} {w : α} :
    ∀ (l : List Nat) (m : SMap α), (∀ x, x ∈ l → k x = j → v x = w) → (smGet d m j = w ∨ ∃ x, x ∈ l ∧ k x = j) →
      smGet d (l.foldl (fun m x => smSet d m (k x) (v x)) m) j = w
  | [], _, _, hw => hw.elim id fun ⟨_, hx, _⟩ => absurd hx List.not_mem_nil
  | x :: l, m, hv, hw => by
    refine smGet_foldl_smSet_written d k v l _ (fun y hy => hv y (List.mem_cons_of_mem _ hy)) ?_
    by_cases hkey : k x = j
    · exact .inl (by rw [smGet_smSet, if_pos hkey.symm]; exact hv x List.mem_cons_self hkey)
    · refine hw.imp (fun hm => ?_) fun ⟨y, hy, hyk⟩ => ?_
      · rw [smGet_smSet_other d m (v x) (Ne.symm hkey), hm]
      · exact ⟨y, (List.mem_cons.mp hy).resolve_left fun e => hkey (e ▸ hyk), hyk⟩

theorem foldl_setQueue (k : Nat → Nat) (v : Nat → Queue) : ∀ (l : List Nat) (s : State),
    l.foldl (fun s x => setQueue s (k x) (v x)) s =
      { s with queues := l.foldl (fun m x => smSet emptyQueue m (k x) (v x)) s.queues }
  | [], _ => rfl
  | x :: l, s => (foldl_setQueue k v l (setQueue s (k x) (v x))).trans rfl

theorem foldl_setCtx (p : Nat) (c : Ctx) : ∀ (l : List Nat) (s : State),
    l.foldl (fun s x => setCtx s p x c) s = { s with ctxs := l.foldl (fun m x => smSet emptyCtx m (ctxKey p x) c) s.ctxs }
  | [], _ => rfl
  | x :: l, s => (foldl_setCtx p c l (setCtx s p x c)).trans rfl

/-- The queues of a partition's contexts after each has been written. -/
theorem getQueue_foldl_qStep (v : Nat → Queue) (s : State) (p : Nat) :
    let t := (List.range 8).foldl (fun s x => setQueue s (qStep p x) (v x)) s
    (∀ x, x < 8 → getQueue t (qStep p x) = v x) ∧ ∀ q, (∀ x, x < 8 → q ≠ qStep p x) → getQueue t q = getQueue s q := by
  intro t
  have ht : t = _ := foldl_setQueue (qStep p) v (List.range 8) s
  refine ⟨fun x hx => ?_, fun q hq => ?_⟩
  · rw [ht]
    refine smGet_foldl_smSet_written emptyQueue (qStep p) v _ _ (fun y _ hy => ?_) (.inr ⟨x, List.mem_range.mpr hx, rfl⟩)
    have hxy : y = x := by
      unfold qStep at hy
      omega
    rw [hxy]
  · rw [ht]
    exact smGet_foldl_smSet_other emptyQueue (qStep p) v _ _ fun x hx => hq x (List.mem_range.mp hx)

/-! ### The invalidation ends (R309, R484) -/

/-- Range `r` of pages holds the block of address `b`. -/
def pagesHold (r : Bool × Nat × Nat) (b : Nat) : Prop := r.1 = true ∧ r.2.1 * 0x200000 ≤ b ∧ b < (r.2.1 + r.2.2) * 0x200000

/-- A 2 MiB page has 512 blocks of 4 KiB. -/
theorem block_in_pages (lo n b : Nat) : (lo * 512 ≤ b / 4096 ∧ b / 4096 < (lo + n) * 512) ↔
    (lo * 0x200000 ≤ b ∧ b < (lo + n) * 0x200000) := by omega

/-- The blocks of a valid range become invalid. -/
def invalidatePages (s : State) (r : Bool × Nat × Nat) : State :=
  if r.1 then invalidateRange s (r.2.1 * 512) ((r.2.1 + r.2.2) * 512) else s

theorem invalidatePages_rest (s : State) (r : Bool × Nat × Nat) : invalidatePages s r = { s with ent := (invalidatePages s r).ent } := by
  unfold invalidatePages
  split <;> rfl

theorem entryOf_invalidatePages_held {r : Bool × Nat × Nat} {b : Nat} (h : pagesHold r b) (s : State) :
    entryOf (invalidatePages s r) b = emptyEntry := by
  obtain ⟨hvalid, hheld⟩ := h
  unfold invalidatePages
  rw [if_pos hvalid, entryOf_invalidateRange, if_pos ((block_in_pages _ _ b).mpr hheld)]

theorem entryOf_invalidatePages_other {r : Bool × Nat × Nat} {b : Nat} (h : ¬ pagesHold r b) (s : State) :
    entryOf (invalidatePages s r) b = entryOf s b := by
  unfold invalidatePages
  split
  · next hvalid =>
    have hblock : ¬ (r.2.1 * 512 ≤ b / 4096 ∧ b / 4096 < (r.2.1 + r.2.2) * 512) := fun hb =>
      h ⟨hvalid, (block_in_pages _ _ b).mp hb⟩
    rw [entryOf_invalidateRange, if_neg hblock]
  · rfl

theorem invalidateParts_eq (s : State) (p : Nat) :
    invalidateParts s p = (List.range 8).foldl (fun u k => invalidatePages u (hbmPages s p k)) s := by
  refine foldl_congr_of_invariant (I := fun u => u.regs = s.regs) (fun u k hu => ?_) (fun u k hu => ?_) _ _ rfl
  · rw [invalidatePages_rest]
    exact hu
  · have hpages : hbmPages u p k = hbmPages s p k := by
      unfold hbmPages
      rw [rbit_congr hu, fld_of_reg (reg_congr hu _), fld_of_reg (reg_congr hu _)]
    dsimp only
    rw [hpages]
    rfl

theorem foldl_invalidatePages_rest (r : Nat → Bool × Nat × Nat) : ∀ (l : List Nat) (s : State),
    l.foldl (fun u k => invalidatePages u (r k)) s = { s with ent := (l.foldl (fun u k => invalidatePages u (r k)) s).ent }
  | [], _ => rfl
  | k :: l, s => by
    rw [List.foldl_cons, foldl_invalidatePages_rest r l (invalidatePages s (r k)), invalidatePages_rest s (r k)]

theorem entryOf_foldl_other (r : Nat → Bool × Nat × Nat) {b : Nat} : ∀ (l : List Nat) (s : State),
    (∀ k, k ∈ l → ¬ pagesHold (r k) b) → entryOf (l.foldl (fun u k => invalidatePages u (r k)) s) b = entryOf s b
  | [], _, _ => rfl
  | k :: l, s, h => by
    rw [List.foldl_cons, entryOf_foldl_other r l _ fun j hj => h j (List.mem_cons_of_mem _ hj),
      entryOf_invalidatePages_other (h k List.mem_cons_self)]

theorem entryOf_foldl_held (r : Nat → Bool × Nat × Nat) {b : Nat} : ∀ (l : List Nat) (s : State),
    (entryOf s b = emptyEntry ∨ ∃ k, k ∈ l ∧ pagesHold (r k) b) →
      entryOf (l.foldl (fun u k => invalidatePages u (r k)) s) b = emptyEntry
  | [], _, h => h.elim id fun ⟨_, hk, _⟩ => absurd hk List.not_mem_nil
  | k :: l, s, h => by
    refine entryOf_foldl_held r l (invalidatePages s (r k)) ?_
    by_cases hk : pagesHold (r k) b
    · exact .inl (entryOf_invalidatePages_held hk s)
    · refine h.imp (fun hs => (entryOf_invalidatePages_other hk s).trans hs) fun ⟨j, hj, hjb⟩ => ?_
      exact ⟨j, (List.mem_cons.mp hj).resolve_left fun e => hk (e ▸ hjb), hjb⟩

/-- The step queue of a context as ENABLE leaves it (Table 11.13). -/
def stepQueue (s : State) (p x : Nat) : Queue :=
  freshQueue 2 (s.fld (rPartSave p) 47 20 * 0x100000 + x * 0x20000 + 0x10000) 1024 (max 1 (s.fld (rPartCtl p) 31 16))

/-- With no STEP that waits the step queues are empty and configured. -/
theorem configSteps_of_none (h : ∀ j x, j ∈ s.hub.jobs → stepWaits p x j = false) :
    configSteps s p = (List.range 8).foldl (fun u x => setQueue u (qStep p x) (stepQueue s p x)) s := by
  unfold configSteps
  refine foldl_congr_of_invariant (I := fun u => u.regs = s.regs ∧ u.hub = s.hub) (fun u x hu => ?_) (fun u x hu => ?_)
    (List.range 8) s ⟨rfl, rfl⟩
  · exact hu
  obtain ⟨hregs, hhub⟩ := hu
  have hqueue : freshQueue 2 (u.fld (rPartSave p) 47 20 * 0x100000 + x * 0x20000 + 0x10000) 1024
      (max 1 (u.fld (rPartCtl p) 31 16)) = stepQueue s p x := by
    rw [fld_of_reg (reg_congr hregs _), fld_of_reg (reg_congr hregs _), stepQueue]
  have hnone : (setQueue u (qStep p x) (stepQueue s p x)).hub.jobs.filter (stepWaits p x) = [] := by
    refine List.filter_eq_nil_iff.mpr fun j hj => ?_
    rw [h j x (by rw [← hhub]; exact hj)]
    exact Bool.false_ne_true
  dsimp only
  rw [hqueue, hnone, List.foldl_nil]

/-- The partition is ENABLED, its ranges invalid and its step queues configured; BUSY of HUB_MEMINIT is yet to follow. -/
def enabledPart (s : State) (p : Nat) : State := configSteps (setPartState (invalidateParts s p) p 2) p

theorem doPartitionEnabled_eq (hstate : partState s p = 1) (hscrub : scrubbing s = false) : doPartitionEnabled p s =
    (enabledPart s p).setRBit rMeminitCtl 1 (anyEnabling (enabledPart s p) || (enabledPart s p).fabr.init) := by
  have hgo : ¬ (partState s p ≠ 1 ∨ scrubbing s = true) := by simp [hstate, hscrub]
  unfold doPartitionEnabled enabledPart
  dsimp only
  exact if_neg hgo

theorem enabledPart_eq (hnone : ∀ j x, j ∈ s.hub.jobs → stepWaits p x j = false) :
    enabledPart s p = (List.range 8).foldl (fun u x => setQueue u (qStep p x) (stepQueue s p x))
      (setPartState ((List.range 8).foldl (fun u k => invalidatePages u (hbmPages s p k)) s) p 2) := by
  have hrest := foldl_invalidatePages_rest (hbmPages s p) (List.range 8) s
  have hparts := invalidateParts_eq s p
  have hregs : (invalidateParts s p).regs = s.regs := by rw [hparts, hrest]
  have hhub : (invalidateParts s p).hub = s.hub := by rw [hparts, hrest]
  have hqueue : ∀ x, stepQueue (setPartState (invalidateParts s p) p 2) p x = stepQueue s p x := fun x => by
    have hsave : rPartSave p ≠ rPartCtl p := by
      unfold rPartSave rPartCtl hubR
      omega
    unfold stepQueue setPartState
    rw [fld_of_reg (reg_setFld_other _ hsave 3 2 2), fld_setFld_field _ _ (by decide), fld_of_reg (reg_congr hregs _),
      fld_of_reg (reg_congr hregs _)]
  have hnone' : ∀ j x, j ∈ (setPartState (invalidateParts s p) p 2).hub.jobs → stepWaits p x j = false := fun j x hj =>
    hnone j x (hhub ▸ hj)
  rw [enabledPart, configSteps_of_none hnone']
  simp only [hqueue]
  rw [hparts]

/-- What the end of the invalidation leaves: ENABLED, fresh step queues, and every block of the ranges invalid. -/
theorem enabledPart_spec (hnone : ∀ j x, j ∈ s.hub.jobs → stepWaits p x j = false) :
    let t := enabledPart s p
    t = { s with regs := t.regs, ent := t.ent, queues := t.queues } ∧ partState t p = 2 ∧
      (∀ x, x < 8 → getQueue t (qStep p x) = stepQueue s p x) ∧
      (∀ q, (∀ x, x < 8 → q ≠ qStep p x) → getQueue t q = getQueue s q) ∧
      (∀ k b, k < 8 → pagesHold (hbmPages s p k) b → entryOf t b = emptyEntry) ∧
      ∀ b, (∀ k, k < 8 → ¬ pagesHold (hbmPages s p k) b) → entryOf t b = entryOf s b := by
  intro t
  let v := (List.range 8).foldl (fun u k => invalidatePages u (hbmPages s p k)) s
  have hv : v = { s with ent := v.ent } := foldl_invalidatePages_rest (hbmPages s p) (List.range 8) s
  have heq : t = (List.range 8).foldl (fun u x => setQueue u (qStep p x) (stepQueue s p x)) (setPartState v p 2) :=
    enabledPart_eq hnone
  have hqueues := getQueue_foldl_qStep (stepQueue s p) (setPartState v p 2) p
  rw [← heq] at hqueues
  obtain ⟨hmine, hothers⟩ := hqueues
  rw [foldl_setQueue] at heq
  have hent : t.ent = v.ent := by rw [heq]; rfl
  have hentry : ∀ b, entryOf t b = entryOf v b := fun b => by rw [entryOf, hent, entryOf]
  refine ⟨?_, ?_, hmine, fun q hq => (hothers q hq).trans ?_, fun k b hk hb => ?_, fun b hb => ?_⟩
  · rw [heq, hv]
    rfl
  · rw [heq]
    exact partState_setPartState v p (by decide)
  · have hvq : v.queues = s.queues := by rw [hv]
    rw [getQueue, show (setPartState v p 2).queues = v.queues from rfl, hvq, getQueue]
  · exact (hentry b).trans (entryOf_foldl_held _ _ _ (.inr ⟨k, List.mem_range.mpr hk, hb⟩))
  · exact (hentry b).trans (entryOf_foldl_other _ _ _ fun k hk => hb k (List.mem_range.mp hk))

/-! ### DISABLE and the partition's reset (R489, R579) -/

theorem fld_disabling_cause (s : State) (p err : Nat) (leave : Bool) : (disabling s p 1 err leave).fld (rPartCtl p) 6 4 = 1 :=
  fld_setFld_same (setPartState s p 3) (rPartCtl p) (by decide) 1

theorem getPart_disabling (s : State) (p cause err : Nat) (leave : Bool) :
    getPart (disabling s p cause err leave) p = { getPart s p with draining := true, cause := err, leave := leave } :=
  (getPart_setPart _ _ _ _).trans (if_pos rfl)

/-- DISABLING with cause 1, as the first steps of Table 11.15 leave it. -/
theorem disableBegin_states (s : State) (hp : p < 16) (err : Nat) (leave : Bool) :
    partState (disableBegin s p 1 err leave) p = 3 ∧ (disableBegin s p 1 err leave).fld (rPartCtl p) 6 4 = 1 := by
  have hsteady := disableBegin_steady s p 1 err leave
  exact ⟨(hsteady.partState hp).trans (partState_disabling s p 1 err leave),
    (fld_of_reg (hsteady.regs _ (standing_partCtl hp)) 6 4).trans (fld_disabling_cause s p err leave)⟩

/-- Where no group, pipeline or guest window of the partition ends, the first steps change its registers and its own state. -/
theorem disableBegin_alone (h : StreamsOnly s p) (hp : p < 16) (err : Nat) (leave : Bool) :
    disableBegin s p 1 err leave = disabling s p 1 err leave := by
  obtain ⟨hdata, hmasks, habove, hguests⟩ := sameEnds_disabling (Reported.refl s) hp 1 err leave
  have hends : SameEnds s (disabling s p 1 err leave) := ⟨hdata, hmasks, habove, hguests⟩
  exact disableBegin_streamsOnly 1 err leave (h.congr hp hends)

/-- BUSY of HUB_MEMINIT follows the partitions that are still ENABLING. -/
def meminitFollows (t : State) : State := t.setRBit rMeminitCtl 1 (anyEnabling t || t.fabr.init)

theorem doPartitionDisable_taken (hup : s.up = true) (hstate : partState s p = 1 ∨ partState s p = 2) :
    doPartitionDisable p s = meminitFollows (disableBegin s p 1 0x46 false) := by
  unfold doPartitionDisable
  rw [hup, if_neg (by decide), if_pos hstate]
  rfl

theorem meminitFollows_rest (t : State) : meminitFollows t = { t with regs := (meminitFollows t).regs } := rfl

theorem disabling_alone_rest (s : State) (p cause err : Nat) (leave : Bool) :
    let t := disabling s p cause err leave
    t = { s with regs := t.regs, parts := t.parts } := rfl

theorem partCtl_meminitFollows (t : State) (p : Nat) : (meminitFollows t).reg (rPartCtl p) = t.reg (rPartCtl p) :=
  reg_setRBit_other t (meminitCtl_ne_partCtl p).symm 1 _

/-- PWR_RST_CTL names the partition, and the command is in progress. -/
def partResetNamed (s : State) (p : Nat) : State :=
  let t := s.setFld rRstCtl 10 7 p
  { t with mod := { t.mod with cmd := (2, p) } }

def partResetNoted (s : State) (p : Nat) : State := resetNoted (partResetNamed s p) p

theorem partitionReset_begins (h : partState s p ≠ 3) :
    partitionReset s p = disableBegin (resetNoted s p) p 1 0x46 false := if_neg h

theorem rstCtl_ne_partCtl (p : Nat) : rRstCtl ≠ rPartCtl p := by
  unfold rRstCtl pwrR rPartCtl hubR
  omega

theorem reg_partResetNoted (s : State) (p : Nat) {a : Nat} (ha : a ≠ rRstCtl) : (partResetNoted s p).reg a = s.reg a :=
  reg_setFld_other s ha 10 7 p

/-- The reset is in progress while the partition is noted as under reset. -/
theorem rstBusy_of_noted {k : Nat} (hcmd : t.mod.cmd = (2, p)) (hprst : t.mod.prst = s.mod.prst ++ [k]) (hk : k = p) :
    rstBusy t = true := by
  unfold rstBusy
  rw [hcmd]
  simp [hprst, hk]

theorem doPartitionReset_taken {src : CmdSrc} (hup : s.up = true) (hstate : partState s p = 1 ∨ partState s p = 2)
    (hopen : rstClosed s src = false) (hno : s.mod.prst.contains p = false) :
    doPartitionReset src p s = (disableBegin (partResetNoted s p) p 1 0x46 false).setRBit rRstCtl 11 true := by
  have hgo : ¬ (rstClosed s src = true ∨ partState s p = 0 ∨ s.mod.prst.contains p = true) := by
    rw [hopen, hno]
    rcases hstate with h | h <;> simp [h]
  have hnot3 : partState (partResetNamed s p) p ≠ 3 := by
    have hreg : (partResetNamed s p).reg (rPartCtl p) = s.reg (rPartCtl p) :=
      reg_setFld_other s (rstCtl_ne_partCtl p).symm 10 7 p
    rw [partState, fld_of_reg hreg, ← partState]
    omega
  have hmod := (disableBegin_steady (partResetNoted s p) p 1 0x46 false).mod
  have hbusy : rstBusy (disableBegin (partResetNoted s p) p 1 0x46 false) = true :=
    rstBusy_of_noted (s := s) (by rw [hmod]; rfl) (by rw [hmod]; rfl) rfl
  unfold doPartitionReset
  rw [hup, if_neg (by decide), if_neg hgo]
  exact (congrArg showBusy (partitionReset_begins hnot3)).trans (showBusy_busy hbusy)

theorem mem_partResetNoted (s : State) (p : Nat) : (partResetNoted s p).mem = s.mem := rfl
theorem ent_partResetNoted (s : State) (p : Nat) : (partResetNoted s p).ent = s.ent := rfl
theorem pipes_partResetNoted (s : State) (p : Nat) : (partResetNoted s p).pipes = s.pipes := rfl

/-- What `StreamsOnly` says of a partition does not rest on PWR_RST_CTL. -/
theorem StreamsOnly.partResetNoted (h : StreamsOnly s p) : StreamsOnly (partResetNoted s p) p := by
  have hclu : rPartClu p ≠ rRstCtl := by
    unfold rPartClu rRstCtl hubR pwrR
    omega
  have hlead : leadDie (Machine.partResetNoted s p) p = leadDie s p := by
    unfold leadDie leadCluster partClusters State.rbit
    rw [reg_partResetNoted s p hclu]
  have hgtab : (Machine.partResetNoted s p).reg (rGtab (leadDie (Machine.partResetNoted s p) p) p) = s.reg (rGtab (leadDie s p) p) := by
    rw [hlead]
    refine reg_partResetNoted s p ?_
    unfold rGtab rRstCtl accR pwrR
    omega
  refine ⟨fun g hg => ?_, fun m n hm hn hrun => ?_, fun m n hm hn hin hvalid => ?_⟩
  · have hcount : gtabCount (Machine.partResetNoted s p) p = gtabCount s p := by
      unfold gtabCount State.fld
      rw [hgtab]
    have hrec : grpRec (Machine.partResetNoted s p) p g = grpRec s p g := by
      unfold grpRec grpAddr State.fld readNat readBytes
      rw [hgtab, readByte_congr (mem_partResetNoted s p) (ent_partResetNoted s p)]
    rw [hrec]
    exact h.groups g (hcount ▸ hg)
  · have hring : rRingCtl m n ≠ rRstCtl := by
      unfold rRingCtl rRstCtl atzR pwrR
      omega
    have hsame : running (Machine.partResetNoted s p) m n = running s m n := by
      rw [running, ringState, fld_of_reg (reg_partResetNoted s p hring), running, ringState]
    rw [getPipe_congr (pipes_partResetNoted s p)]
    exact h.pipes m n hm hn (hsame ▸ hrun)
  · have hctl : rFwCtl m ≠ rRstCtl := by
      unfold rFwCtl rRstCtl hubR pwrR
      omega
    have hbase : rFwBase m n ≠ rRstCtl := by
      unfold rFwBase rRstCtl hubR pwrR
      omega
    have hsize : rFwSize m n ≠ rRstCtl := by
      unfold rFwSize rRstCtl hubR pwrR
      omega
    have hin' : guestIn (Machine.partResetNoted s p) m = guestIn s m := rbit_of_reg (reg_partResetNoted s p hctl) 0
    have hvalid' : winValid (Machine.partResetNoted s p) m n = winValid s m n := rbit_of_reg (reg_partResetNoted s p hbase) 63
    have hpart' : winPart (Machine.partResetNoted s p) m n = winPart s m n := fld_of_reg (reg_partResetNoted s p hsize) 35 32
    rw [hpart']
    exact h.windows m n hm hn (hin' ▸ hin) (hvalid' ▸ hvalid)

/-- A DISABLE that begins, or a reset that begins: what the partition shows of it (Table 11.15). -/
structure Ending (s t : State) (p : Nat) : Prop where
  state : partState t p = 3
  cause : t.fld (rPartCtl p) 6 4 = 1
  part : getPart t p = { getPart s p with draining := true, cause := 0x46, leave := false }

theorem disabling_ending (s : State) (p : Nat) : Ending s (disabling s p 1 0x46 false) p :=
  ⟨partState_disabling s p 1 0x46 false, fld_disabling_cause s p 0x46 false, getPart_disabling s p 1 0x46 false⟩

/-- The partition's own register and state alone decide whether it is ending. -/
theorem Ending.congr (h : Ending s t p) (hreg : u.reg (rPartCtl p) = t.reg (rPartCtl p)) (hparts : u.parts = t.parts) : Ending s u p := by
  obtain ⟨hstate, hcause, hpart⟩ := h
  exact ⟨(fld_of_reg hreg 3 2).trans hstate, (fld_of_reg hreg 6 4).trans hcause, by rw [getPart, hparts, ← getPart, hpart]⟩

theorem doPartitionDisable_alone (hup : s.up = true) (hp : p < 16) (hstate : partState s p = 1 ∨ partState s p = 2)
    (h : StreamsOnly s p) :
    let t := doPartitionDisable p s
    t = { s with regs := t.regs, parts := t.parts } ∧ Ending s t p := by
  intro t
  have ht : t = meminitFollows (disabling s p 1 0x46 false) := by
    rw [← disableBegin_alone h hp]
    exact doPartitionDisable_taken hup hstate
  rw [ht]
  refine ⟨?_, (disabling_ending s p).congr (partCtl_meminitFollows _ p) rfl⟩
  rw [meminitFollows_rest, disabling_alone_rest]

theorem doPartitionDisable_begins (hup : s.up = true) (hp : p < 16) (hstate : partState s p = 1 ∨ partState s p = 2) :
    partState (doPartitionDisable p s) p = 3 ∧ (doPartitionDisable p s).fld (rPartCtl p) 6 4 = 1 := by
  obtain ⟨hdisabling, hcause⟩ := disableBegin_states s hp 0x46 false
  have hreg := partCtl_meminitFollows (disableBegin s p 1 0x46 false) p
  rw [doPartitionDisable_taken hup hstate]
  exact ⟨(fld_of_reg hreg 3 2).trans hdisabling, (fld_of_reg hreg 6 4).trans hcause⟩

section Reset

variable {src : CmdSrc} (hup : s.up = true) (hp : p < 16) (hstate : partState s p = 1 ∨ partState s p = 2)
  (hopen : rstClosed s src = false) (hno : s.mod.prst.contains p = false)

include hup hp hstate hopen hno

theorem doPartitionReset_begins :
    let t := doPartitionReset src p s
    partState t p = 3 ∧ t.fld (rPartCtl p) 6 4 = 1 ∧ t.mod.prst = s.mod.prst ++ [p] := by
  intro t
  have ht : t = _ := doPartitionReset_taken hup hstate hopen hno
  obtain ⟨hdisabling, hcause⟩ := disableBegin_states (partResetNoted s p) hp 0x46 false
  have hmod := (disableBegin_steady (partResetNoted s p) p 1 0x46 false).mod
  have hreg := reg_setRBit_other (disableBegin (partResetNoted s p) p 1 0x46 false) (rstCtl_ne_partCtl p).symm 11 true
  rw [ht]
  refine ⟨(fld_of_reg hreg 3 2).trans hdisabling, (fld_of_reg hreg 6 4).trans hcause, ?_⟩
  exact congrArg Mod.prst hmod

theorem doPartitionReset_alone (h : StreamsOnly s p) :
    let t := doPartitionReset src p s
    t = { s with regs := t.regs, parts := t.parts, mod := { s.mod with prst := s.mod.prst ++ [p], cmd := (2, p) } } ∧
      Ending s t p ∧ t.rbit rRstCtl 11 = true ∧ t.fld rRstCtl 10 7 = p := by
  intro t
  have ht : t = (disabling (partResetNoted s p) p 1 0x46 false).setRBit rRstCtl 11 true := by
    rw [← disableBegin_alone h.partResetNoted hp]
    exact doPartitionReset_taken hup hstate hopen hno
  obtain ⟨hdisabling, hcause, hpart⟩ := (disabling_ending (partResetNoted s p) p).congr (u := t)
    (by rw [ht]; exact reg_setRBit_other _ (rstCtl_ne_partCtl p).symm 11 true) (by rw [ht]; rfl)
  have hbusy : t.rbit rRstCtl 11 = true := by
    rw [ht]
    exact rbit_setRBit_same _ _ (by decide) true
  refine ⟨by rw [ht, setRBit_rest, disabling_alone_rest]; rfl, ⟨hdisabling, hcause, hpart⟩, hbusy, ?_⟩
  rw [ht]
  have hnamed : (disabling (partResetNoted s p) p 1 0x46 false).fld rRstCtl 10 7 = p :=
    (fld_of_reg (reg_disabling _ _ _ _ _ (rstCtl_ne_partCtl p)) 10 7).trans
      ((fld_setFld_same s rRstCtl (by decide) p).trans (Nat.mod_eq_of_lt hp))
  exact (fld_setFld_field _ rRstCtl (by decide) _).trans hnamed

end Reset

/-! ### The end of the disable sequence (R489) -/

theorem foldl_dropColl_rest : ∀ (l : List Coll) (s : State),
    l.foldl dropColl s = { s with acc := { s.acc with colls := (l.foldl dropColl s).acc.colls } }
  | [], _ => rfl
  | c :: l, s => by
    rw [List.foldl_cons, foldl_dropColl_rest l (dropColl s c)]
    rfl

/-- A collective that is left was there, and none of those dropped names its instruction. -/
theorem mem_foldl_dropColl {d : Coll} : ∀ (l : List Coll) (s : State), d ∈ (l.foldl dropColl s).acc.colls →
    d ∈ s.acc.colls ∧ ∀ c, c ∈ l → ¬ (d.part = c.part ∧ d.ctx = c.ctx ∧ d.strm = c.strm ∧ d.iseq = c.iseq)
  | [], _, hd => ⟨hd, fun _ hc => absurd hc List.not_mem_nil⟩
  | c :: l, s, hd => by
    obtain ⟨hmem, hothers⟩ := mem_foldl_dropColl l (dropColl s c) hd
    obtain ⟨hkept, hc⟩ := List.mem_filter.mp hmem
    refine ⟨hkept, fun e he => ?_⟩
    rcases List.mem_cons.mp he with rfl | he
    · simpa only [Bool.not_eq_true', decide_eq_false_iff_not] using hc
    · exact hothers e he

/-- The collectives of a partition are lost. -/
def collsLost (s : State) (p : Nat) : State := (s.acc.colls.filter fun c => c.part = p).foldl dropColl s

theorem part_of_mem_collsLost {d : Coll} (hd : d ∈ (collsLost s p).acc.colls) : d.part ≠ p := by
  intro hpart
  obtain ⟨hmem, hothers⟩ := mem_foldl_dropColl _ _ hd
  exact hothers d (List.mem_filter.mpr ⟨hmem, decide_eq_true hpart⟩) ⟨rfl, rfl, rfl, rfl⟩

/-- Nothing of the partition is scheduled, and no halt of a debug session stands. -/
def partLeft (s : State) (p : Nat) : State :=
  let t := setPart s p { getPart s p with sched := none, last := none, draining := false, cause := 0, leave := false }
  { t with sec := { t.sec with halted := t.sec.halted.filter fun k => k / 8 ≠ p } }

/-- Contexts after the loss of a partition's. -/
def emptiedCtxs (s : State) (p : Nat) : SMap Ctx :=
  (List.range 8).foldl (fun m x => smSet emptyCtx m (ctxKey p x) emptyCtx) s.ctxs

theorem loseContexts_eq (s : State) (p : Nat) : loseContexts s p =
    { s with
      acc := { s.acc with colls := (collsLost s p).acc.colls }
      ctxs := emptiedCtxs s p
      queues := (List.range 8).foldl (fun m x => smSet emptyQueue m (qStep p x) emptyQueue) s.queues
      parts := smSet emptyPart s.parts p
        { getPart s p with sched := none, last := none, draining := false, cause := 0, leave := false }
      sec := { s.sec with halted := s.sec.halted.filter fun k => k / 8 ≠ p } } := by
  have hcolls : collsLost s p = { s with acc := { s.acc with colls := (collsLost s p).acc.colls } } := foldl_dropColl_rest _ s
  change partLeft ((List.range 8).foldl (fun s x => setQueue s (qStep p x) emptyQueue)
    ((List.range 8).foldl (fun s x => setCtx s p x emptyCtx) (collsLost s p))) p = _
  rw [foldl_setCtx, foldl_setQueue, hcolls]
  rfl

theorem getCtx_loseContexts_mine (s : State) (p : Nat) {x : Nat} (hx : x < 8) : getCtx (loseContexts s p) p x = emptyCtx := by
  rw [loseContexts_eq]
  exact smGet_foldl_smSet_written emptyCtx (ctxKey p) (fun _ => emptyCtx) _ _ (fun _ _ _ => rfl)
    (.inr ⟨x, List.mem_range.mpr hx, rfl⟩)

theorem getCtx_loseContexts_other (s : State) {p q x : Nat} (hq : q ≠ p) (hx : x < 8) :
    getCtx (loseContexts s p) q x = getCtx s q x := by
  rw [loseContexts_eq]
  refine smGet_foldl_smSet_other emptyCtx (ctxKey p) (fun _ => emptyCtx) _ _ fun y hy => ?_
  have hy := List.mem_range.mp hy
  unfold ctxKey
  omega

theorem getQueue_loseContexts (s : State) (p : Nat) :
    (∀ x, x < 8 → getQueue (loseContexts s p) (qStep p x) = emptyQueue) ∧
      ∀ q, (∀ x, x < 8 → q ≠ qStep p x) → getQueue (loseContexts s p) q = getQueue s q := by
  have hqueues := getQueue_foldl_qStep (fun _ => emptyQueue) s p
  rw [foldl_setQueue] at hqueues
  rw [loseContexts_eq]
  exact hqueues

theorem getPart_loseContexts (s : State) (p : Nat) : getPart (loseContexts s p) p =
    { getPart s p with sched := none, last := none, draining := false, cause := 0, leave := false } := by
  rw [loseContexts_eq]
  exact smGet_smSet_same _ _ _ _

/-- The jobs of the partition have ended, and event 0x0502 reports it. -/
def jobsEnded (s : State) (p : Nat) : State :=
  let n := ((jobsOf s p).filter fun j => !j.replay).length
  let t := abortJobs s p (getPart s p).cause
  event0 t 0x0502 8 (some p) [put p 0 ||| put (t.fld (rPartCtl p) 6 4) 4, put n 0]

theorem disableEnd_eq (s : State) (p : Nat) : disableEnd s p = setPartState (loseContexts (jobsEnded s p) p) p 0 := rfl

theorem abortJobs_none (hjobs : jobsOf s p = []) (hrep : s.hub.rep = none) (err : Nat) : abortJobs s p err = s := by
  unfold abortJobs
  rw [hjobs, List.foldl_nil]
  unfold dropRep
  rw [hrep]

theorem jobsEnded_hub (hjobs : jobsOf s p = []) (hrep : s.hub.rep = none) : HubOnly s (jobsEnded s p) := by
  unfold jobsEnded
  rw [abortJobs_none hjobs hrep]
  exact event0_hub _ _ _ _ _

theorem mod_setPartState (s : State) (p v : Nat) : (setPartState s p v).mod = s.mod := rfl

theorem mod_disableEnd (s : State) (p : Nat) : (disableEnd s p).mod = s.mod := by
  have hsteady : Steady s (loseContexts (jobsEnded s p) p) :=
    ((steady_abortJobs s p _).trans (event0_reported _ _ _ _ _).steady).trans (steady_loseContexts _ p)
  rw [disableEnd_eq, mod_setPartState, hsteady.mod]

theorem doPartitionDisableDone_eq (hstate : partState s p = 3) (hno : s.mod.prst.contains p = false) :
    doPartitionDisableDone p s = disableEnd s p := by
  have hno' : ¬ (disableEnd s p).mod.prst.contains p = true := by
    rw [mod_disableEnd, hno]
    exact Bool.false_ne_true
  unfold doPartitionDisableDone
  rw [if_neg (not_not_intro hstate)]
  dsimp only
  rw [if_neg hno']

theorem partState_disableEnd (s : State) (p : Nat) : partState (disableEnd s p) p = 0 :=
  partState_setPartState _ p (by decide)

theorem getCtx_setPartState (s : State) (p v q x : Nat) : getCtx (setPartState s p v) q x = getCtx s q x := rfl

theorem getCtx_partDisabled (s : State) (p : Nat) {x : Nat} (hx : x < 8) :
    getCtx (setPartState (loseContexts s p) p 0) p x = emptyCtx :=
  (getCtx_setPartState _ p 0 p x).trans (getCtx_loseContexts_mine s p hx)

theorem getCtx_disableEnd_mine (s : State) (p : Nat) {x : Nat} (hx : x < 8) : getCtx (disableEnd s p) p x = emptyCtx := by
  rw [disableEnd_eq, getCtx_partDisabled _ _ hx]

/-- The partition holds no work: queues, contexts, collectives and halts of it are gone, the others' stand. -/
structure WorkGone (s t : State) (p : Nat) : Prop where
  queues : ∀ x, x < 8 → getQueue t (qStep p x) = emptyQueue
  otherQueues : ∀ q, (∀ x, x < 8 → q ≠ qStep p x) → getQueue t q = getQueue s q
  part : getPart t p = { getPart s p with sched := none, last := none, draining := false, cause := 0, leave := false }
  otherCtxs : ∀ q x, q ≠ p → x < 8 → getCtx t q x = getCtx s q x
  colls : ∀ c, c ∈ t.acc.colls → c.part ≠ p
  halted : ∀ k, k ∈ t.sec.halted → k / 8 ≠ p

theorem loseContexts_gone (s : State) (p : Nat) : WorkGone s (loseContexts s p) p := by
  obtain ⟨hmine, hothers⟩ := getQueue_loseContexts s p
  refine ⟨hmine, hothers, getPart_loseContexts s p, fun q x hq hx => getCtx_loseContexts_other s hq hx, fun c hc => ?_,
    fun k hk => ?_⟩
  · rw [loseContexts_eq] at hc
    exact part_of_mem_collsLost hc
  · rw [loseContexts_eq] at hk
    exact of_decide_eq_true (List.mem_filter.mp hk).2

theorem WorkGone.setPartState (h : WorkGone s t p) (v : Nat) : WorkGone s (setPartState t p v) p := by
  obtain ⟨hmine, hothers, hpart, hctxs, hcolls, hhalted⟩ := h
  exact ⟨hmine, hothers, hpart, hctxs, hcolls, hhalted⟩

/-- What the event of the end touches is none of the partition's work. -/
theorem WorkGone.of_hub (hhub : HubOnly s u) (h : WorkGone u t p) : WorkGone s t p := by
  unfold HubOnly at hhub
  obtain ⟨hmine, hothers, hpart, hctxs, hcolls, hhalted⟩ := h
  rw [hhub] at hothers hpart hctxs
  exact ⟨hmine, hothers, hpart, hctxs, hcolls, hhalted⟩

theorem disableEnd_gone (hjobs : jobsOf s p = []) (hrep : s.hub.rep = none) : WorkGone s (disableEnd s p) p := by
  rw [disableEnd_eq]
  exact .of_hub (jobsEnded_hub hjobs hrep) ((loseContexts_gone _ p).setPartState 0)

/-- With no job of the partition and no replay, the end changes the partition's own state and what the event touches. -/
theorem disableEnd_rest (hjobs : jobsOf s p = []) (hrep : s.hub.rep = none) :
    let t := disableEnd s p
    t = { s with regs := t.regs, hub := t.hub, out := t.out, acc := { s.acc with colls := t.acc.colls }, ctxs := t.ctxs,
                 parts := t.parts, queues := t.queues, sec := { s.sec with halted := t.sec.halted } } := by
  intro t
  have hhub := jobsEnded_hub hjobs hrep
  have ht : t = setPartState (loseContexts (jobsEnded s p) p) p 0 := rfl
  rw [ht, loseContexts_eq]
  unfold HubOnly at hhub
  rw [hhub]
  rfl

/-! ### Scalars of the host (R278 to R282) -/

theorem slgOn_congr (h : t.reg (rSlgCtl p) = s.reg (rSlgCtl p)) : slgOn t p = slgOn s p := rbit_of_reg h 0

/-- A record of a scalar write of a partition whose ring is off leaves no trace. -/
theorem slgWrite_off {r : SlgRec} (hoff : slgOn s p = false) (hkind : r.ty ≤ 6) :
    slgWrite s p r = s := by
  have hsee : replaySee s p r = s := by
    unfold replaySee
    split
    · exact if_neg fun ⟨_, hty⟩ => by omega
    · rfl
  unfold slgWrite
  rw [hsee]
  exact if_pos hoff

theorem slgCtl_ne_cluR (p c o : Nat) (hp : p < 16) : rSlgCtl p ≠ cluR c o := by
  unfold rSlgCtl hubR cluR
  omega

section Scalars

variable {c : Nat} (hup : s.up = true)

include hup

theorem leadWrite_led (hled : ledBy s c = some p) (f : Nat → State) : leadWrite s c f = f p := by
  unfold leadWrite
  rw [if_pos hup, hled]

theorem leadWrite_unled (hled : ledBy s c = none) (f : Nat → State) : leadWrite s c f = s := by
  unfold leadWrite
  rw [if_pos hup, hled]

theorem scalarWrites_led (hp : p < 16) (hled : ledBy s c = some p) (hoff : slgOn s p = false) (v : Word) :
    doCluStepWrite c v s = s.setReg (rStep c) v ∧ doCluSeedWrite c v s = s.setReg (rSeed c) v ∧
      doCluClipWrite c v s = if clipBad v then s.setRBit (rClip c) 63 true else s.softWrite (rClip c) v := by
  have hstep : rSlgCtl p ≠ rStep c := slgCtl_ne_cluR p c 0x708 hp
  have hseed : rSlgCtl p ≠ rSeed c := slgCtl_ne_cluR p c 0x710 hp
  have hclip : rSlgCtl p ≠ rClip c := slgCtl_ne_cluR p c 0x720 hp
  have hty : ∀ n, n < 3 → n ≤ 6 := fun n hn => by omega
  refine ⟨(leadWrite_led hup hled _).trans (slgWrite_off ?_ (hty 1 (by decide))),
    (leadWrite_led hup hled _).trans (slgWrite_off ?_ (hty 2 (by decide))), (leadWrite_led hup hled _).trans ?_⟩
  · rw [slgOn_congr (reg_setReg_other s hstep v), hoff]
  · rw [slgOn_congr (reg_setReg_other s hseed v), hoff]
  · refine congrArg (fun t => if clipBad v = true then s.setRBit (rClip c) 63 true else t) (slgWrite_off ?_ (hty 2 (by decide)))
    rw [slgOn_congr (reg_softWrite_other s hclip v), hoff]

theorem scalarWrites_unled (hled : ledBy s c = none) (v : Word) :
    doCluStepWrite c v s = s ∧ doCluSeedWrite c v s = s ∧ doCluClipWrite c v s = s :=
  ⟨leadWrite_unled hup hled _, leadWrite_unled hup hled _, leadWrite_unled hup hled _⟩

end Scalars

/-! ### The Sillage ring's control (R508, R512) -/

theorem hubSpec_slgHead (hp : p < 16) : hubSpec (0x3010 + 0x80 * p) = spec32 (mk 31 0) 0 0 := by
  have hreg : (0x3010 + 0x80 * p) % 0x80 = 0x10 := by omega
  unfold hubSpec
  simp (disch := omega) only [if_neg, if_pos, hreg]
  rfl

theorem slgCtl_written (s : State) (hp : p < 16) (v : BitVec 32) :
    let t := s.softWrite (rSlgCtl p) (v.setWidth 64)
    slgOn t p = bit v 0 ∧ t.rbit (rSlgCtl p) 1 = bit v 1 ∧ t.fld (rSlgCtl p) 12 3 = bits v 12 3 := by
  intro t
  have hspec : regSpec (rSlgCtl p) = spec32 (mk 20 0) 0 0x2200 := (regSpec_hubR (by omega)).trans (hubSpec_slgCtl hp)
  have hreg : t.reg (rSlgCtl p) = mergeWrite (mk 20 0) 0 (s.reg (rSlgCtl p)) (v.setWidth 64) := by
    rw [show t = _ from softWrite_of_spec hspec _, reg_setReg, if_pos rfl]
  have hlow : ∀ i, i < 13 → bit (mk 20 0) i = true := by decide
  have hbit : ∀ i, i < 13 → t.rbit (rSlgCtl p) i = bit v i := fun i hi => by
    rw [State.rbit, hreg, bit_mergeWrite, if_pos (hlow i hi), bit_setWidth v (by omega)]
  refine ⟨hbit 0 (by decide), hbit 1 (by decide), ?_⟩
  rw [State.fld, hreg, bits_mergeWrite _ _ _ fun i hi => hlow (3 + i) (by omega), bits_setWidth]

theorem slgHead_written (s : State) (hp : p < 16) (v : BitVec 32) :
    (s.softWrite (rSlgHead p) (v.setWidth 64)).fld (rSlgHead p) 31 0 = v.toNat := by
  have hspec : regSpec (rSlgHead p) = spec32 (mk 31 0) 0 0 := (regSpec_hubR (by omega)).trans (hubSpec_slgHead hp)
  have hlow : ∀ i, i < 32 → bit (mk 31 0) i = true := by decide
  rw [softWrite_of_spec hspec, State.fld, reg_setReg, if_pos rfl,
    bits_mergeWrite _ _ _ fun i hi => hlow (0 + i) (by omega), bits_setWidth]
  exact Nat.mod_eq_of_lt v.isLt

/-- EN starts the ring at slot 0. -/
def sillageStarted (t : State) (p : Nat) : State :=
  slgHoldUpdate (setPart ((t.setReg (rSlgTail p) 0).setReg (rSlgOldest p) 0) p
    { getPart t p with slgSteps := [], slgLost := 0, slgEvt := none }) p

/-- Register `i` of a ring's eight (Table 12.12). -/
theorem slgR_inj (p : Nat) {i j : Nat} (h : i ≠ j) : hubR (i + 0x80 * p) ≠ hubR (j + 0x80 * p) := by
  unfold hubR
  omega

theorem reg_sillageStarted (t : State) (p : Nat) {a : Nat} (ha : a ≠ rSlgStat p) :
    (sillageStarted t p).reg a = ((t.setReg (rSlgTail p) 0).setReg (rSlgOldest p) 0).reg a := by
  unfold sillageStarted slgHoldUpdate
  rw [reg_setRBit_other _ ha]
  rfl

theorem getPart_setRBit (s : State) (a i : Nat) (b : Bool) (p : Nat) : getPart (s.setRBit a i b) p = getPart s p := rfl

theorem setPart_setReg_rest (t : State) (p a b i : Nat) (q : Part) (v w : Word) (e : Bool) :
    let u := (setPart ((t.setReg a v).setReg b w) p q).setRBit i 33 e
    u = { t with regs := u.regs, parts := u.parts } := rfl

theorem sillageStarted_rest (t : State) (p : Nat) :
    sillageStarted t p = { t with regs := (sillageStarted t p).regs, parts := (sillageStarted t p).parts } :=
  setPart_setReg_rest t p _ _ _ _ _ _ _

theorem getPart_sillageStarted (t : State) (p : Nat) :
    getPart (sillageStarted t p) p = { getPart t p with slgSteps := [], slgLost := 0, slgEvt := none } := by
  unfold sillageStarted slgHoldUpdate
  rw [getPart_setRBit, getPart_setPart, if_pos rfl]

theorem sillageStarted_spec (t : State) (p : Nat) :
    let u := sillageStarted t p
    u = { t with regs := u.regs, parts := u.parts } ∧ u.reg (rSlgCtl p) = t.reg (rSlgCtl p) ∧ u.reg (rSlgTail p) = 0 ∧
      u.reg (rSlgOldest p) = 0 ∧ (getPart u p).slgSteps = [] ∧ (getPart u p).slgLost = 0 := by
  intro u
  have hpart : getPart u p = _ := getPart_sillageStarted t p
  have hstat : ∀ a, a ≠ rSlgStat p → u.reg a = _ := fun a ha => reg_sillageStarted t p ha
  have hctl : rSlgCtl p ≠ rSlgStat p ∧ rSlgCtl p ≠ rSlgOldest p ∧ rSlgCtl p ≠ rSlgTail p :=
    ⟨slgR_inj p (by decide), slgR_inj p (by decide), slgR_inj p (by decide)⟩
  have htail : rSlgTail p ≠ rSlgStat p ∧ rSlgTail p ≠ rSlgOldest p := ⟨slgR_inj p (by decide), slgR_inj p (by decide)⟩
  have holdest : rSlgOldest p ≠ rSlgStat p := slgR_inj p (by decide)
  refine ⟨sillageStarted_rest t p, ?_, ?_, ?_, by rw [hpart], by rw [hpart]⟩
  · rw [hstat _ hctl.1, reg_setReg_other _ hctl.2.1, reg_setReg_other _ hctl.2.2]
  · rw [hstat _ htail.1, reg_setReg_other _ htail.2, reg_setReg, if_pos rfl]
  · rw [hstat _ holdest, reg_setReg, if_pos rfl]

theorem doSillageEnable_starts (hup : s.up = true) (hp : p < 16) {v : BitVec 32} (hoff : slgOn s p = false) (hon : bit v 0 = true) :
    doSillageEnable p v s = sillageStarted (s.softWrite (rSlgCtl p) (v.setWidth 64)) p := by
  obtain ⟨hen, -, -⟩ := slgCtl_written s hp v
  have hsame : ¬ (slgOn s p = true ∧ s.fld (rSlgCtl p) 12 3 ≠ (s.softWrite (rSlgCtl p) (v.setWidth 64)).fld (rSlgCtl p) 12 3) := by
    rw [hoff]
    simp
  unfold doSillageEnable
  rw [hup]
  exact (if_neg (by decide)).trans ((if_neg hsame).trans (if_pos ⟨hoff, hen.trans hon⟩))

theorem doSillageEnable_refused (hup : s.up = true) (hp : p < 16) {v : BitVec 32} (hon : slgOn s p = true)
    (hsize : s.fld (rSlgCtl p) 12 3 ≠ bits v 12 3) : doSillageEnable p v s = s.setRBit (rSlgBase p) 63 true := by
  obtain ⟨-, -, hfld⟩ := slgCtl_written s hp v
  unfold doSillageEnable
  rw [hup]
  exact (if_neg (by decide)).trans (if_pos ⟨hon, by rw [hfld]; exact hsize⟩)

/-- HEAD takes what the host wrote, and HOLDING follows. -/
def headWritten (s : State) (p : Nat) (v : BitVec 32) : State := slgHoldUpdate (s.softWrite (rSlgHead p) (v.setWidth 64)) p

/-- With a context scheduled and no record lost, HEAD frees slots and nothing else follows. -/
theorem doSillageHeadWrite_frees (hup : s.up = true) (hsched : (getPart s p).sched ≠ none) (hlost : (getPart s p).slgLost = 0)
    (v : BitVec 32) : doSillageHeadWrite p v s = headWritten s p v := by
  have hpart : getPart (headWritten s p v) p = getPart s p := by
    rw [headWritten, softWrite_rest]
    rfl
  have hflush : slgLostFlush (headWritten s p v) p = headWritten s p v := by
    unfold slgLostFlush
    rw [hpart]
    exact if_neg fun h => h.1 hlost
  have hdecide : decideIf (headWritten s p v) p = headWritten s p v := by
    unfold decideIf
    rw [hpart]
    exact if_neg hsched
  unfold doSillageHeadWrite
  rw [if_pos hup]
  change decideIf (slgLostFlush (headWritten s p v) p) p = _
  rw [hflush, hdecide]

theorem headWritten_spec (s : State) (hp : p < 16) (v : BitVec 32) :
    let t := headWritten s p v
    t = { s with regs := t.regs } ∧ t.fld (rSlgHead p) 31 0 = v.toNat ∧
      (t.rbit (rSlgStat p) 33 = true ↔ slgOn s p = true ∧ s.rbit (rSlgCtl p) 1 = true ∧ slgSlots s p - slgUsed t p < 65536) ∧
      ∀ r, r ≠ rSlgHead p → r ≠ rSlgStat p → t.reg r = s.reg r := by
  intro t
  let u := s.softWrite (rSlgHead p) (v.setWidth 64)
  have hstat : ∀ a, a ≠ rSlgStat p → t.reg a = u.reg a := fun a ha => reg_setRBit_other u ha 33 _
  have hhead : rSlgHead p ≠ rSlgStat p := slgR_inj p (by decide)
  have htail : rSlgTail p ≠ rSlgStat p := slgR_inj p (by decide)
  have hne : rSlgCtl p ≠ rSlgHead p := slgR_inj p (by decide)
  have hctl : u.reg (rSlgCtl p) = s.reg (rSlgCtl p) := reg_softWrite_other s hne _
  have hslots : slgSlots u p = slgSlots s p := by rw [slgSlots, fld_of_reg hctl, slgSlots]
  have hused : slgUsed t p = slgUsed u p := by
    rw [slgUsed, hstat _ htail, fld_of_reg (hstat _ hhead), slgUsed]
  refine ⟨?_, ?_, ?_, fun r hr hrstat => ?_⟩
  · rw [show t = slgHoldUpdate u p from rfl, show u = _ from softWrite_rest s _ _]
    rfl
  · exact (fld_of_reg (hstat _ hhead) 31 0).trans (slgHead_written s hp v)
  · have hbit : t.rbit (rSlgStat p) 33 = (slgOn u p && u.rbit (rSlgCtl p) 1 && decide (slgSlots u p - slgUsed u p < 65536)) :=
      rbit_setRBit_same u (rSlgStat p) (by decide) _
    rw [hbit, slgOn_congr hctl, rbit_of_reg hctl, hslots, hused]
    simp only [Bool.and_eq_true, decide_eq_true_eq, and_assoc]
  · exact (hstat r hrstat).trans (reg_softWrite_other s hr _)

/-! ### The obligation -/

/-- The end of the invalidation, BUSY of HUB_MEMINIT included. -/
theorem doPartitionEnabled_spec (hstate : partState s p = 1) (hscrub : scrubbing s = false)
    (hnone : ∀ j x, j ∈ s.hub.jobs → stepWaits p x j = false) :
    let t := doPartitionEnabled p s
    t = { s with regs := t.regs, ent := t.ent, queues := t.queues } ∧ partState t p = 2 ∧
      (∀ x, x < 8 → getQueue t (qStep p x) = stepQueue s p x) ∧
      (∀ q, (∀ x, x < 8 → q ≠ qStep p x) → getQueue t q = getQueue s q) ∧
      (∀ k b, k < 8 → pagesHold (hbmPages s p k) b → entryOf t b = emptyEntry) ∧
      ∀ b, (∀ k, k < 8 → ¬ pagesHold (hbmPages s p k) b) → entryOf t b = entryOf s b := by
  intro t
  have ht : t = meminitFollows (enabledPart s p) := doPartitionEnabled_eq hstate hscrub
  obtain ⟨hrest, hon, hmine, hothers, hheld, hfree⟩ := enabledPart_spec hnone
  rw [ht]
  generalize enabledPart s p = u at *
  refine ⟨?_, (partState_setRBit_meminit u p 1 _).trans hon, hmine, hothers, hheld, hfree⟩
  rw [hrest]
  rfl

/-- Settles O53: the first steps of a disable keep what `Steady` names, the contexts and queues of a partition are folds over its
eight contexts, and a ring that is off takes no record. -/
theorem partitionsRun : Obligations.PartitionsRun := by
  unfold Obligations.PartitionsRun
  intro p s hup
  refine ⟨fun hstate hcause => ?enable, fun hstate hcause => next_congr (doPartitionEnable_refused hup hstate hcause),
    fun hstate => next_congr (doPartitionEnable_notDisabled hup hstate), fun hstate hscrub hnone => ?enabled,
    fun hstate hquiet => ?quiet, fun hstate => ?begins, fun hstate hno => ?done, fun hstate hjobs hrep hno => ?doneQuiet,
    fun c v hled hoff => ?scalars, fun c v hled => ?unled, fun v => ⟨fun hoff hon => ?ringOn, fun hon hsize => ?ringSize,
    fun hsched hlost => ?ringHead⟩⟩
  case enable =>
    obtain ⟨henabling, hbusy, hmine, hothers, hregs⟩ := enabling_spec s p
    refine ⟨_, next_congr (doPartitionEnable_taken hup hstate hcause), rfl, henabling, hbusy, hmine, fun i q hiq => ?_, hregs⟩
    exact hothers i q (hiq.imp_right fun ⟨hi, hq⟩ => ⟨hi, fun e => hq (Fin.ext e)⟩)
  case enabled =>
    obtain ⟨hrest, hon, hmine, hothers, hheld, hfree⟩ := doPartitionEnabled_spec hstate hscrub hnone
    refine ⟨_, rfl, hrest, hon, hmine, hothers, fun k b hk hvalid hlo hhi => hheld k b hk ⟨hvalid, hlo, hhi⟩, fun b hout => ?_⟩
    refine hfree b fun k hk ⟨hvalid, hlo, hhi⟩ => ?_
    rcases hout k hk hvalid with h | h <;> omega
  case quiet =>
    obtain ⟨hgroups, hpipes, hwindows⟩ := hquiet
    have halone : StreamsOnly s p := ⟨hgroups, hpipes, hwindows⟩
    refine ⟨?_, fun src hopen hno => ?_⟩
    · obtain ⟨hrest, hdisabling, hcause, hpart⟩ := doPartitionDisable_alone hup p.isLt hstate halone
      exact ⟨_, rfl, hrest, hdisabling, hcause, hpart⟩
    · obtain ⟨hrest, ⟨hdisabling, hcause, hpart⟩, hbusy, hnamed⟩ := doPartitionReset_alone hup p.isLt hstate hopen hno halone
      exact ⟨_, rfl, hrest, ⟨hdisabling, hcause, hpart⟩, hbusy, hnamed⟩
  case begins =>
    exact ⟨⟨_, rfl, doPartitionDisable_begins hup p.isLt hstate⟩,
      fun src hopen hno => ⟨_, rfl, doPartitionReset_begins hup p.isLt hstate hopen hno⟩⟩
  case done =>
    exact ⟨_, next_congr (doPartitionDisableDone_eq hstate hno), partState_disableEnd s p,
      fun x hx => getCtx_disableEnd_mine s p hx⟩
  case doneQuiet =>
    obtain ⟨hmine, hothers, hpart, hctxs, hcolls, hhalted⟩ := disableEnd_gone hjobs hrep
    exact ⟨_, next_congr (doPartitionDisableDone_eq hstate hno), disableEnd_rest hjobs hrep, hmine, hothers,
      partState_disableEnd s p, hpart, fun x hx => getCtx_disableEnd_mine s p hx, hctxs, hcolls, hhalted⟩
  case scalars =>
    obtain ⟨hstep, hseed, hclip⟩ := scalarWrites_led hup p.isLt hled hoff v
    exact ⟨next_congr hstep, next_congr hseed, next_congr hclip⟩
  case unled =>
    obtain ⟨hstep, hseed, hclip⟩ := scalarWrites_unled hup hled v
    exact ⟨next_congr hstep, next_congr hseed, next_congr hclip⟩
  case ringOn =>
    obtain ⟨hen, hhold, hsize⟩ := slgCtl_written s p.isLt v
    obtain ⟨hrest, hctl, htail, holdest, hsteps, hlost⟩ := sillageStarted_spec (s.softWrite (rSlgCtl p) (v.setWidth 64)) p
    refine ⟨_, next_congr (doSillageEnable_starts hup p.isLt hoff hon), ?_, (slgOn_congr hctl).trans (hen.trans hon),
      (rbit_of_reg hctl 1).trans hhold, (fld_of_reg hctl 12 3).trans hsize, htail, holdest, hsteps, hlost⟩
    rw [hrest, softWrite_rest]
  case ringSize => exact next_congr (doSillageEnable_refused hup p.isLt hon hsize)
  case ringHead =>
    exact ⟨_, next_congr (doSillageHeadWrite_frees hup hsched hlost v), headWritten_spec s p.isLt v⟩

end Sys2Proof.Machine
end

section
/-! PROOF. The rings of the intake pipelines: their registers and pipelines, START, STOP and the end of a STOP (R324, R325, R367,
R368), and the faults of a media die (R326, R598). -/

namespace Sys2Proof.Machine

variable {s t u : State} {m n : Nat}

/-! ### Registers of the rings -/

/-- The eight registers of each ring (R365). -/
def RingReg (a : Nat) : Prop := ∃ m n k, m < 2 ∧ n < 16 ∧ k < 8 ∧ a = atzR m (0x1000 + 0x100 * n + 8 * k)

theorem ringReg_ctl (hm : m < 2) (hn : n < 16) : RingReg (rRingCtl m n) :=
  ⟨m, n, 1, hm, hn, by decide, by unfold rRingCtl atzR; omega⟩

theorem ringReg_pos (hm : m < 2) (hn : n < 16) : RingReg (rRingPos m n) :=
  ⟨m, n, 5, hm, hn, by decide, by unfold rRingPos atzR; omega⟩

theorem ringReg_emit (hm : m < 2) (hn : n < 16) : RingReg (rRingEmit m n) :=
  ⟨m, n, 4, hm, hn, by decide, by unfold rRingEmit atzR; omega⟩

/-- Where these registers lie. -/
theorem RingReg.place {a : Nat} (h : RingReg a) : 0x200000600000 ≤ a ∧ 0x1000 ≤ a % 0x10000 := by
  obtain ⟨m, n, k, hm, hn, hk, rfl⟩ := h
  unfold atzR
  omega

/-- Records and counters leave the rings' registers alone. -/
theorem Reported.ringReg (h : Reported s t) {a : Nat} (ha : RingReg a) : t.reg a = s.reg a := by
  have hplace := ha.place
  refine h.regs a (fun e => ?_) (fun e => ?_) fun k hk e => ?_
  · unfold rEvtCtl hubR at e
    omega
  · unfold rEvtStat hubR at e
    omega
  · unfold rThrSel hubR at e
    omega

theorem Reported.dead (h : Reported s t) : t.hub.dead = s.hub.dead := by rw [h.hub]

theorem rbit_setFld_other (s : State) (a : Nat) {hi lo i : Nat} (h : i < lo ∨ hi < i) (hlo : lo ≤ hi) (v : Nat) :
    (s.setFld a hi lo v).rbit a i = s.rbit a i := by
  rw [State.rbit, reg_setFld, if_pos rfl, bit, getLsbD_setBits, if_neg (by omega), State.rbit, bit]

theorem ringState_setFld_other (s : State) (m n v : Nat) {hi lo : Nat} (h : 4 ≤ lo) :
    ringState (s.setFld (rRingCtl m n) hi lo v) m n = ringState s m n := fld_setFld_field s _ (.inl h) v

theorem ringState_setRing (s : State) (m n : Nat) {st : Nat} (h : st < 4) : ringState (setRing s m n st) m n = st :=
  (fld_setFld_same s (rRingCtl m n) (by decide) st).trans (Nat.mod_eq_of_lt h)

/-! ### Only registers differ -/

/-- Only registers differ. -/
def OnlyRegs (s t : State) : Prop := t = { s with regs := t.regs }

theorem OnlyRegs.refl (s : State) : OnlyRegs s s := rfl

theorem OnlyRegs.trans (h : OnlyRegs s t) (g : OnlyRegs t u) : OnlyRegs s u := by
  unfold OnlyRegs at *
  rw [g, h]

theorem setReg_only (s : State) (a : Nat) (v : Word) : OnlyRegs s (s.setReg a v) := rfl
theorem setFld_only (s : State) (a hi lo v : Nat) : OnlyRegs s (s.setFld a hi lo v) := setReg_only _ _ _
theorem setRBit_only (s : State) (a i : Nat) (b : Bool) : OnlyRegs s (s.setRBit a i b) := setReg_only _ _ _
theorem setRing_only (s : State) (m n st : Nat) : OnlyRegs s (setRing s m n st) := setFld_only _ _ _ _ _
theorem setVocabFree_only (s : State) (m : Nat) : OnlyRegs s (setVocabFree s m) := setFld_only _ _ _ _ _

theorem OnlyRegs.ctxs (h : OnlyRegs s t) : t.ctxs = s.ctxs := by rw [h]
theorem OnlyRegs.hub (h : OnlyRegs s t) : t.hub = s.hub := by rw [h]
theorem OnlyRegs.pipes (h : OnlyRegs s t) : t.pipes = s.pipes := by rw [h]
theorem OnlyRegs.queues (h : OnlyRegs s t) : t.queues = s.queues := by rw [h]

/-! ### Pipelines, queues and counters of the state -/

theorem getQueue_congr (h : t.queues = s.queues) (q : Nat) : getQueue t q = getQueue s q := by rw [getQueue, h, getQueue]

theorem cntGet_congr (h : t.hub = s.hub) (i p : Nat) : cntGet t i p = cntGet s i p := by rw [cntGet, h, cntGet]

theorem getPipe_setPipe (s : State) (m n i j : Nat) (p : Pipe) :
    getPipe (setPipe s m n p) i j = if pipeKey i j = pipeKey m n then p else getPipe s i j := smGet_smSet _ _ _ _ _

@[simp] theorem getPipe_setPipe_same (s : State) (m n : Nat) (p : Pipe) : getPipe (setPipe s m n p) m n = p :=
  (getPipe_setPipe s m n m n p).trans (if_pos rfl)

@[simp] theorem getPipe_modPipe_same (s : State) (m n : Nat) (f : Pipe → Pipe) :
    getPipe (modPipe s m n f) m n = f (getPipe s m n) := getPipe_setPipe_same _ _ _ _

/-- A fold that changes every listed pipeline of a site by a change that a second time changes nothing. -/
theorem getPipe_foldl_modPipe {f : Pipe → Pipe} (hf : ∀ p, f (f p) = f p) (m j : Nat) : ∀ (l : List Nat) (s : State),
    getPipe (l.foldl (fun s n => modPipe s m n f) s) m j = if j ∈ l then f (getPipe s m j) else getPipe s m j
  | [], s => (if_neg List.not_mem_nil).symm
  | n :: l, s => by
    rw [List.foldl_cons, getPipe_foldl_modPipe hf m j l, getPipe_modPipe]
    by_cases hj : j = n
    · subst hj
      simp [hf]
    · have hkey : ¬ pipeKey m j = pipeKey m n := fun e => hj (Nat.add_left_cancel e)
      simp [hj, hkey]

theorem foldl_modPipe_rest (f : Pipe → Pipe) (m : Nat) : ∀ (l : List Nat) (s : State),
    l.foldl (fun s n => modPipe s m n f) s = { s with pipes := (l.foldl (fun s n => modPipe s m n f) s).pipes }
  | [], _ => rfl
  | n :: l, s => (foldl_modPipe_rest f m l (modPipe s m n f)).trans rfl

/-! ### START (R324, R602) -/

theorem foldl_cntPut (i : Nat → Nat) (c : Cnt) : ∀ (l : List Nat) (s : State),
    l.foldl (fun s k => cntPut s (i k) 0 c) s = { s with hub := { s.hub with
      cnts := l.foldl (fun m k => smSet ⟨0, false⟩ m (cntKey (i k) 0) c) s.hub.cnts } }
  | [], _ => rfl
  | k :: l, s => (foldl_cntPut i c l (cntPut s (i k) 0 c)).trans rfl

theorem foldl_cntPut_rest (i : Nat → Nat) (c : Cnt) (l : List Nat) (s : State) :
    l.foldl (fun s k => cntPut s (i k) 0 c) s = { s with hub := (l.foldl (fun s k => cntPut s (i k) 0 c) s).hub } := by
  rw [foldl_cntPut]

theorem clearRingCnts_rest (s : State) (m n : Nat) : clearRingCnts s m n = { s with hub := (clearRingCnts s m n).hub } :=
  foldl_cntPut_rest _ _ _ _

theorem cntGet_foldl_cntPut (i : Nat → Nat) (c : Cnt) {l : List Nat} {k : Nat} (hk : k ∈ l) (s : State) :
    cntGet (l.foldl (fun s k => cntPut s (i k) 0 c) s) (i k) 0 = c := by
  rw [foldl_cntPut]
  exact smGet_foldl_smSet_written _ (fun k => cntKey (i k) 0) (fun _ => c) l _ (fun _ _ _ => rfl) (.inr ⟨k, hk, rfl⟩)

theorem clearRingCnts_regs (s : State) (m n : Nat) : (clearRingCnts s m n).regs = s.regs := by rw [clearRingCnts_rest]

theorem cntGet_clearRingCnts (s : State) (m n : Nat) {k : Nat} (hk : k < 15) :
    cntGet (clearRingCnts s m n) (ringCnt m n k) 0 = ⟨0, false⟩ :=
  cntGet_foldl_cntPut (ringCnt m n) ⟨0, false⟩ (List.mem_range.mpr hk) s

/-- The state with the listed registers zero. -/
def zeroRegs (s : State) (l : List Nat) : State := l.foldl (fun s r => s.setReg r 0) s

theorem zeroRegs_only (l : List Nat) : ∀ s : State, OnlyRegs s (zeroRegs s l) := by
  induction l with
  | nil => exact OnlyRegs.refl
  | cons r l ih => exact fun s => (setReg_only s r 0).trans (ih (s.setReg r 0))

theorem reg_zeroRegs (l : List Nat) (a : Nat) : ∀ s : State, (zeroRegs s l).reg a = if a ∈ l then 0 else s.reg a := by
  induction l with
  | nil => exact fun _ => (if_neg List.not_mem_nil).symm
  | cons r l ih =>
    intro s
    refine (ih (s.setReg r 0)).trans ?_
    rw [reg_setReg]
    by_cases hr : a = r <;> simp [hr]

/-- The registers that START sets to 0: tail, head and counts of the ring. -/
def ringCounts (m n : Nat) : List Nat := [rRingTail m n, rRingHead m n, rRingEmit m n, rRingPos m n, rRingRes m n]

theorem ringCounts_ne {m n a : Nat} (h : a ∈ ringCounts m n) : a ≠ rAtzStat m ∧ a ≠ rRingCtl m n := by
  simp only [ringCounts, List.mem_cons, List.not_mem_nil, or_false] at h
  unfold rRingTail rRingHead rRingEmit rRingPos rRingRes atzR at h
  unfold rAtzStat rRingCtl atzR
  omega

/-- The pipeline, its empty queue and its owner as START leaves them. -/
def ringLoaded (s : State) (m n : Nat) (p : Pipe) : State :=
  let s1 := setQueue (setPipe s m n p) (qIntake m n)
    (freshQueue (if pLive p then 1 else 0) (pSpill p) (pQdepth p) (pTmo p))
  { s1 with ringOwn := smSet none s1.ringOwn (pipeKey m n) (some (pPart p)) }

/-- The loaded ring with its control word. -/
def startedRing (s : State) (m n : Nat) (p : Pipe) : State :=
  ((setRing (ringLoaded s m n p) m n 1).setFld (rRingCtl m n) 23 16 0).setFld (rRingCtl m n) 9 4 0

theorem startedRing_only (s : State) (m n : Nat) (p : Pipe) : OnlyRegs (ringLoaded s m n p) (startedRing s m n p) :=
  ((setRing_only _ _ _ _).trans (setFld_only _ _ _ _ _)).trans (setFld_only _ _ _ _ _)

theorem acceptStart_eq (s : State) (m n : Nat) (p : Pipe) : acceptStart s m n p =
    setVocabFree (clearRingCnts (zeroRegs (startedRing s m n p) (ringCounts m n)) m n) m := rfl

theorem reg_setVocabFree_other (s : State) {m a : Nat} (h : a ≠ rAtzStat m) : (setVocabFree s m).reg a = s.reg a :=
  reg_setFld_other _ h _ _ _

theorem rRingCtl_ne_rAtzStat (m n : Nat) : rRingCtl m n ≠ rAtzStat m := by
  unfold rRingCtl rAtzStat atzR
  omega

theorem acceptStart_rest (s : State) (m n : Nat) (p : Pipe) :
    acceptStart s m n p = { ringLoaded s m n p with regs := (acceptStart s m n p).regs, hub := (acceptStart s m n p).hub } := by
  have hzero := (startedRing_only s m n p).trans (zeroRegs_only (ringCounts m n) _)
  have hvocab := setVocabFree_only (clearRingCnts (zeroRegs (startedRing s m n p) (ringCounts m n)) m n) m
  unfold OnlyRegs at hzero hvocab
  rw [acceptStart_eq, hvocab, clearRingCnts_rest, hzero]

theorem reg_acceptStart (s : State) {m n a : Nat} (p : Pipe) (h : a ≠ rAtzStat m) :
    (acceptStart s m n p).reg a = if a ∈ ringCounts m n then 0 else (startedRing s m n p).reg a := by
  rw [acceptStart_eq, reg_setVocabFree_other _ h, reg_congr (clearRingCnts_regs _ m n), reg_zeroRegs]

theorem cntGet_acceptStart (s : State) (m n : Nat) (p : Pipe) {k : Nat} (hk : k < 15) :
    cntGet (acceptStart s m n p) (ringCnt m n k) 0 = ⟨0, false⟩ := by
  rw [acceptStart_eq, cntGet_congr (setVocabFree_only _ m).hub, cntGet_clearRingCnts _ m n hk]

/-- The ring runs with its positions and counters 0, its pipeline is the one that START has read, and its queue is empty. -/
theorem acceptStart_spec (s : State) (m n : Nat) (p : Pipe) :
    let t := acceptStart s m n p
    t = { s with regs := t.regs, pipes := t.pipes, queues := t.queues, ringOwn := t.ringOwn, hub := t.hub } ∧
      ringState t m n = 1 ∧ t.fld (rRingCtl m n) 23 16 = 0 ∧ t.pipes = (setPipe s m n p).pipes ∧
      getQueue t (qIntake m n) = freshQueue (if pLive p then 1 else 0) (pSpill p) (pQdepth p) (pTmo p) ∧
      (∀ r, r ∈ ringCounts m n → t.reg r = 0) ∧ ∀ k, k < 15 → cntGet t (ringCnt m n k) 0 = ⟨0, false⟩ := by
  intro t
  have hrest : t = { ringLoaded s m n p with regs := t.regs, hub := t.hub } := acceptStart_rest s m n p
  have hreg : ∀ a, a ≠ rAtzStat m → t.reg a = if a ∈ ringCounts m n then 0 else (startedRing s m n p).reg a :=
    fun _ => reg_acceptStart s p
  have hcnt : ∀ k, k < 15 → cntGet t (ringCnt m n k) 0 = ⟨0, false⟩ := fun _ => cntGet_acceptStart s m n p
  clear_value t
  have hctl : t.reg (rRingCtl m n) = (startedRing s m n p).reg (rRingCtl m n) :=
    (hreg _ (rRingCtl_ne_rAtzStat m n)).trans (if_neg fun h => (ringCounts_ne h).2 rfl)
  have hstate : ringState (startedRing s m n p) m n = 1 := by
    refine (ringState_setFld_other _ m n 0 (by decide)).trans ((ringState_setFld_other _ m n 0 (by decide)).trans ?_)
    exact ringState_setRing _ m n (by decide)
  have hcause : (startedRing s m n p).fld (rRingCtl m n) 23 16 = 0 :=
    (fld_setFld_field _ _ (by decide) 0).trans (fld_setFld_same _ _ (by decide) 0)
  refine ⟨?_, (fld_of_reg hctl 3 2).trans hstate, (fld_of_reg hctl 23 16).trans hcause, ?_, ?_, fun r hr => ?_, hcnt⟩
  · rw [hrest]
    rfl
  · rw [hrest]
    rfl
  · have hqueues : t.queues = (setQueue s (qIntake m n)
        (freshQueue (if pLive p then 1 else 0) (pSpill p) (pQdepth p) (pTmo p))).queues := by
      rw [hrest]
      rfl
    rw [getQueue_congr hqueues, getQueue_setQueue_same]
  · rw [hreg r (ringCounts_ne hr).1, if_pos hr]

theorem startCheck_cause_lt {cause : Nat} (h : startCheck s m n = .inl cause) : cause < 6 := by
  unfold startCheck at h
  split at h
  · cases h; decide
  · split at h
    · cases h; decide
    · split at h
      · cases h; decide
      · split at h
        · cases h; decide
        · split at h
          · split at h
            · cases h; decide
            · split at h
              · cases h; decide
              · cases h
          · cases h

section Start

variable (hmedia : mediaOk s m = true)

include hmedia

theorem doAtzStart_checked (hready : s.rbit (rAtzStat m) 0 = true) (hstate : ringState s m n = 0 ∨ ringState s m n = 3) :
    (∀ p, startCheck s m n = .inr p → doAtzStart m n s = acceptStart s m n p) ∧
      ∀ cause, startCheck s m n = .inl cause → doAtzStart m n s = (setRing s m n 3).setFld (rRingCtl m n) 23 16 cause := by
  have hgo : ¬ (s.rbit (rAtzStat m) 0 = false ∨ (ringState s m n ≠ 0 ∧ ringState s m n ≠ 3)) := by
    rw [hready]
    rcases hstate with h | h <;> simp [h]
  unfold doAtzStart
  rw [hmedia, if_neg (by decide), if_neg hgo]
  exact ⟨fun p hp => by rw [hp], fun cause hcause => by rw [hcause]⟩

theorem doAtzStart_discarded (h : s.rbit (rAtzStat m) 0 = false ∨ ringState s m n = 1 ∨ ringState s m n = 2) :
    doAtzStart m n s = s.setRBit (rRingCtl m n) 10 true := by
  unfold doAtzStart
  rw [hmedia, if_neg (by decide), if_pos (h.imp_right (by rintro (h | h) <;> simp [h]))]
  rfl

theorem doAtzStop_halts (hstate : ringState s m n = 1 ∨ ringState s m n = 3) : doAtzStop m n s = haltPipe s m n 2 := by
  unfold doAtzStop
  rw [hmedia, if_neg (by decide), if_pos hstate]

theorem doSubTailWrite_stored (v : BitVec 32) : doSubTailWrite m n v s = s.setReg (rRingTail m n) (v.setWidth 64) := if_pos hmedia

end Start

/-! ### A pipeline stops (R325, R346) -/

/-- What a pipeline that stops keeps: its descriptor, its vocabulary and its counts. -/
def Pipe.halted (p : Pipe) : Pipe :=
  { p with subs := [], samples := [], eods := [], members := [], closed := [], ready := [], taken := none, live := [] }

/-- The state with a pipeline stopped; no PULL has been looked for. -/
def haltedRing (s : State) (m n st : Nat) : State :=
  (setRing (setQueue (modPipe s m n Pipe.halted) (qIntake m n) emptyQueue) m n st).setFld (rRingCtl m n) 9 4 0

theorem haltPipe_eq (s : State) (m n st : Nat) : haltPipe s m n st = faultPulls (haltedRing s m n st) m n := rfl

theorem faultPulls_none (h : ∀ a, (strmAt s a).wait ≠ .intake m n) : faultPulls s m n = s := by
  unfold faultPulls
  generalize List.range 128 = ks
  refine List.foldl_fixed' (fun k => ?_) ks
  exact List.foldl_fixed' (fun st => if_neg fun hpull => h _ hpull.1) _

theorem haltedRing_only (s : State) (m n st : Nat) :
    OnlyRegs (setQueue (modPipe s m n Pipe.halted) (qIntake m n) emptyQueue) (haltedRing s m n st) :=
  (setRing_only _ _ _ _).trans (setFld_only _ _ _ _ _)

theorem haltedRing_ctxs (s : State) (m n st : Nat) : (haltedRing s m n st).ctxs = s.ctxs := (haltedRing_only s m n st).ctxs
theorem haltedRing_hub (s : State) (m n st : Nat) : (haltedRing s m n st).hub = s.hub := (haltedRing_only s m n st).hub

theorem haltedRing_rest (s : State) (m n st : Nat) : haltedRing s m n st =
    { s with regs := (haltedRing s m n st).regs, pipes := (haltedRing s m n st).pipes, queues := (haltedRing s m n st).queues } := by
  rw [show haltedRing s m n st = _ from haltedRing_only s m n st]
  rfl

theorem haltPipe_noPull (h : ∀ a, (strmAt s a).wait ≠ .intake m n) (st : Nat) : haltPipe s m n st = haltedRing s m n st := by
  refine (haltPipe_eq s m n st).trans (faultPulls_none fun a => ?_)
  rw [strmAt_congr (haltedRing_ctxs s m n st)]
  exact h a

theorem ringState_haltedRing (s : State) (m n : Nat) {st : Nat} (h : st < 4) : ringState (haltedRing s m n st) m n = st :=
  (ringState_setFld_other _ m n 0 (by decide)).trans (ringState_setRing _ m n h)

theorem getQueue_haltedRing (s : State) (m n st : Nat) : getQueue (haltedRing s m n st) (qIntake m n) = emptyQueue :=
  (getQueue_congr (haltedRing_only s m n st).queues _).trans (getQueue_setQueue_same _ _ _)

theorem getPipe_haltedRing (s : State) (m n st : Nat) : getPipe (haltedRing s m n st) m n = (getPipe s m n).halted :=
  (getPipe_congr (t := haltedRing s m n st) (s := modPipe s m n Pipe.halted) (haltedRing_only s m n st).pipes m n).trans
    (getPipe_modPipe_same s m n Pipe.halted)

theorem reg_haltedRing_other (s : State) {m n a : Nat} (h : a ≠ rRingCtl m n) (st : Nat) : (haltedRing s m n st).reg a = s.reg a :=
  (reg_setFld_other _ h _ _ _).trans (reg_setFld_other _ h _ _ _)

theorem rbit_haltedRing_bound (s : State) (m n st : Nat) : (haltedRing s m n st).rbit (rRingCtl m n) 4 = false := by
  rw [haltedRing, State.rbit, reg_setFld, if_pos rfl, bit, getLsbD_setBits, if_pos (by decide)]
  simp

/-! ### The end of a STOP (R325) -/

theorem doPipelineIdle_stopping (h : ringState s m n = 2) :
    doPipelineIdle m n s = setVocabFree (setRing (modPipe s m n fun p => { p with vocab := [] }) m n 0) m := if_pos h

/-- Settles O30: START is `acceptStart` of the pipeline that its checks find or the cause alone, STOP is `haltedRing` where no PULL
waits. -/
theorem pipelineControl : Obligations.PipelineControl := by
  unfold Obligations.PipelineControl
  intro m n s hmedia
  refine ⟨fun hready hstate => ⟨fun p hp => ?start, fun cause hcause => ?fails⟩,
    fun h => next_congr (doAtzStart_discarded hmedia h), fun hstate hpulls => ?stop, fun hstate => ?idle,
    fun v => next_congr (doSubTailWrite_stored hmedia v)⟩
  case start =>
    have hrun := (doAtzStart_checked hmedia hready hstate).1 p hp
    obtain ⟨hrest, hrunning, hcause, hpipes, hqueue, hzero, hcnts⟩ := acceptStart_spec s m n p
    have hpipe : ∀ i j, getPipe (acceptStart s m n p) i j = _ := fun i j =>
      (getPipe_congr hpipes i j).trans (getPipe_setPipe s m n i j p)
    exact ⟨_, next_congr hrun, hrest, hrunning, hcause, (hpipe m n).trans (if_pos rfl),
      fun i j hij => (hpipe i j).trans (if_neg hij), hqueue, hzero, hcnts⟩
  case fails =>
    have hrun := (doAtzStart_checked hmedia hready hstate).2 cause hcause
    refine ⟨_, next_congr hrun, (setRing_only s m n 3).trans (setFld_only _ _ _ _ _), ?_, ?_, fun r hr => ?_⟩
    · exact (ringState_setFld_other _ m n cause (by decide)).trans (ringState_setRing s m n (by decide))
    · refine (fld_setFld_same _ _ (by decide) cause).trans (Nat.mod_eq_of_lt ?_)
      exact Nat.lt_trans (startCheck_cause_lt hcause) (by decide)
    · exact (reg_setFld_other _ hr _ _ _).trans (reg_setFld_other _ hr _ _ _)
  case stop =>
    refine ⟨_, next_congr ((doAtzStop_halts hmedia hstate).trans (haltPipe_noPull hpulls 2)), haltedRing_rest s m n 2,
      ringState_haltedRing s m n (by decide), rbit_haltedRing_bound s m n 2, getQueue_haltedRing s m n 2,
      getPipe_haltedRing s m n 2⟩
  case idle =>
    have honly : OnlyRegs (modPipe s m n fun p => { p with vocab := [] })
        (setVocabFree (setRing (modPipe s m n fun p => { p with vocab := [] }) m n 0) m) :=
      (setRing_only _ _ _ _).trans (setVocabFree_only _ _)
    refine ⟨_, next_congr (doPipelineIdle_stopping hstate), ?_, ?_, (getPipe_congr honly.pipes m n).trans ?_⟩
    · rw [honly]
      rfl
    · exact (fld_of_reg (reg_setVocabFree_other _ (rRingCtl_ne_rAtzStat m n)) 3 2).trans (ringState_setRing _ m n (by decide))
    · exact getPipe_modPipe_same s m n _

end Sys2Proof.Machine
end

section
/-! PROOF. The faults of a media die and the end of its reset (R326, R598). -/

namespace Sys2Proof.Machine

variable {s t u : State} {m n : Nat}

/-! ### Pipelines fail (R326) -/

/-- The running rings among `l` of site `m` have failed; other rings' states, contexts and dead dies are as before. -/
structure RingsFailed (s t : State) (m : Nat) (l : List Nat) : Prop where
  ctxs : t.ctxs = s.ctxs
  dead : t.hub.dead = s.hub.dead
  rings : ∀ n, n < 16 → ringState t m n = if n ∈ l ∧ ringState s m n = 1 then 3 else ringState s m n

theorem RingsFailed.of_reported (hm : m < 2) (h : Reported s t) : RingsFailed s t m [] := by
  refine ⟨by rw [h.rest], h.dead, fun n hn => ?_⟩
  rw [if_neg (fun hl => absurd hl.1 List.not_mem_nil)]
  exact fld_of_reg (h.ringReg (ringReg_ctl hm hn)) 3 2

theorem RingsFailed.trans {l k : List Nat} (h : RingsFailed s t m l) (g : RingsFailed t u m k) : RingsFailed s u m (l ++ k) := by
  refine ⟨g.ctxs.trans h.ctxs, g.dead.trans h.dead, fun n hn => ?_⟩
  rw [g.rings n hn, h.rings n hn]
  by_cases hl : n ∈ l <;> by_cases hk : n ∈ k <;> by_cases hrun : ringState s m n = 1 <;> simp [hl, hk, hrun]

theorem ringEvent_reported (s : State) (m n code v w : Nat) : Reported s (ringEvent s m n code v w) := event0_reported _ _ _ _ _

theorem failPipe_running (h : running s m n = true) (hpulls : ∀ a, (strmAt s a).wait ≠ .intake m n) (cause : Nat) :
    failPipe s m n cause =
      ringEvent (haltedRing (s.setFld (rRingCtl m n) 23 16 cause) m n 3) m n 0x0305 cause (s.reg (rRingPos m n)).toNat := by
  have hhalt : haltPipe (s.setFld (rRingCtl m n) 23 16 cause) m n 3 = haltedRing (s.setFld (rRingCtl m n) 23 16 cause) m n 3 :=
    haltPipe_noPull (fun a => by rw [strmAt_congr (setFld_only s _ _ _ _).ctxs]; exact hpulls a) 3
  unfold failPipe
  rw [if_pos h, hhalt]

theorem failPipe_stopped (h : running s m n = false) (cause : Nat) : failPipe s m n cause = s :=
  if_neg (by rw [h]; decide)

theorem rRingCtl_inj {i : Nat} (h : rRingCtl m i = rRingCtl m n) : i = n := by
  unfold rRingCtl atzR at h
  omega

/-- A pipeline of which no stream waits for a batch fails where it runs. -/
theorem failPipe_failed (hm : m < 2) (hpulls : ∀ a, (strmAt s a).wait ≠ .intake m n) (cause : Nat) :
    RingsFailed s (failPipe s m n cause) m [n] := by
  by_cases hrun : ringState s m n = 1
  · rw [failPipe_running (decide_eq_true hrun) hpulls]
    have hset : OnlyRegs s (s.setFld (rRingCtl m n) 23 16 cause) := setFld_only _ _ _ _ _
    have hreg : ∀ r, r ≠ rRingCtl m n → (s.setFld (rRingCtl m n) 23 16 cause).reg r = s.reg r :=
      fun r hr => reg_setFld_other s hr _ _ _
    generalize s.setFld (rRingCtl m n) 23 16 cause = v at *
    have hevent : RingsFailed (haltedRing v m n 3) _ m [] :=
      .of_reported hm (ringEvent_reported _ m n 0x0305 cause (s.reg (rRingPos m n)).toNat)
    refine RingsFailed.trans (l := [n]) (k := []) ⟨?_, ?_, fun i _ => ?_⟩ hevent
    · exact (haltedRing_ctxs v m n 3).trans hset.ctxs
    · exact congrArg Hub.dead ((haltedRing_hub v m n 3).trans hset.hub)
    · by_cases hi : i = n
      · rw [hi, ringState_haltedRing v m n (by decide), if_pos ⟨List.mem_singleton.mpr rfl, hrun⟩]
      · have hne : rRingCtl m i ≠ rRingCtl m n := fun e => hi (rRingCtl_inj e)
        rw [if_neg fun h => hi (List.mem_singleton.mp h.1)]
        exact fld_of_reg ((reg_haltedRing_other v hne 3).trans (hreg _ hne)) 3 2
  · rw [failPipe_stopped (decide_eq_false hrun)]
    refine ⟨rfl, rfl, fun i _ => ?_⟩
    rw [if_neg]
    rintro ⟨hi, hi1⟩
    exact hrun (List.mem_singleton.mp hi ▸ hi1)

/-- Rings of which no stream waits for a batch fail one after the other. -/
theorem failPipes_failed (hm : m < 2) (cause : Nat) : ∀ (l : List Nat) (s : State),
    (∀ a i, (strmAt s a).wait ≠ .intake m i) → RingsFailed s (l.foldl (fun s n => failPipe s m n cause) s) m l
  | [], s, _ => .of_reported hm (.refl s)
  | n :: l, s, hpulls => by
    have hfirst := failPipe_failed hm (fun a => hpulls a n) cause
    have hrest := failPipes_failed hm cause l (failPipe s m n cause) fun a i => by
      rw [strmAt_congr hfirst.ctxs]
      exact hpulls a i
    exact hfirst.trans hrest

/-! ### A media die fails (R326, R598) -/

/-- The record of a media die's fault. -/
def mediaFault (m : Nat) (unit : BitVec 8) : ErrRec :=
  { code := 0x090D, cls := 3, die := 9 + m, unit := 7, index := 9 + m, cause := unit.toNat }

/-- READY 0, and the die in reset. -/
def mediaUnready (s : State) (m : Nat) : State := (s.setRBit (rAtzStat m) 0 false).setRBit (rAtzStat m) 1 true

theorem mediaUnready_only (s : State) (m : Nat) : OnlyRegs s (mediaUnready s m) :=
  (setRBit_only _ _ _ _).trans (setRBit_only _ _ _ _)

theorem reg_mediaUnready_other (s : State) {m a : Nat} (h : a ≠ rAtzStat m) : (mediaUnready s m).reg a = s.reg a :=
  (reg_setRBit_other _ h _ _).trans (reg_setRBit_other s h _ _)

theorem mediaUnready_bits (s : State) (m : Nat) :
    (mediaUnready s m).rbit (rAtzStat m) 0 = false ∧ (mediaUnready s m).rbit (rAtzStat m) 1 = true := by
  unfold mediaUnready
  rw [rbit_setRBit_other _ _ (by decide), rbit_setRBit_same _ _ (by decide), rbit_setRBit_same _ _ (by decide)]
  exact ⟨rfl, rfl⟩

/-- The site's pipelines after the fault is recorded: each that ran has failed. -/
def mediaPipesFailed (s : State) (m : Nat) (unit : BitVec 8) : State :=
  (List.range 16).foldl (fun s n => failPipe s m n 0x09) (errRecord s (mediaFault m unit))

theorem mediaPipesFailed_failed (hm : m < 2) (hpulls : ∀ a i, (strmAt s a).wait ≠ .intake m i) (unit : BitVec 8) :
    RingsFailed s (mediaPipesFailed s m unit) m (List.range 16) := by
  have hrecord := RingsFailed.of_reported hm (errRecord_reported s (mediaFault m unit))
  refine hrecord.trans (failPipes_failed hm 0x09 (List.range 16) _ fun a i => ?_)
  rw [strmAt_congr hrecord.ctxs]
  exact hpulls a i

/-- The die stays without READY until the next warm or cold reset. -/
def dieHeld (s : State) (m : Nat) : State := { s with hub := { s.hub with dead := m :: s.hub.dead.filter fun k => k ≠ m } }

theorem dieHeld_regs (s : State) (m : Nat) : (dieHeld s m).regs = s.regs := rfl

theorem mem_dieHeld_dead (s : State) (m : Nat) : m ∈ (dieHeld s m).hub.dead := List.mem_cons_self

theorem doAtomizerDieFault_once (hmedia : mediaOk s m = true) (unit : BitVec 8) :
    doAtomizerDieFault m unit false s = mediaUnready (mediaPipesFailed s m unit) m := by
  unfold doAtomizerDieFault mediaUnready mediaPipesFailed mediaFault
  rw [hmedia]
  exact if_neg (by decide)

theorem doAtomizerDieFault_third (hmedia : mediaOk s m = true) (unit : BitVec 8) :
    doAtomizerDieFault m unit true s = dieHeld (mediaUnready (mediaPipesFailed s m unit) m) m := by
  unfold doAtomizerDieFault mediaUnready mediaPipesFailed mediaFault dieHeld
  rw [hmedia]
  exact if_neg (by decide)

/-! ### The end of a media die's reset (R598) -/

/-- The state with the vocabularies of a site's rings gone. -/
def vocabsCleared (s : State) (m : Nat) : State :=
  (List.range 16).foldl (fun s n => modPipe s m n fun p => { p with vocab := [] }) s

/-- READY 1, the die out of reset, the free vocabulary memory counted. -/
def mediaReady (s : State) (m : Nat) : State := setVocabFree ((s.setRBit (rAtzStat m) 0 true).setRBit (rAtzStat m) 1 false) m

theorem doAtomizerDieResetDone_ready (hmedia : mediaOk s m = true) (hdead : m ∉ s.hub.dead) : doAtomizerDieResetDone m s =
    mediaReady (vocabsCleared s m) m := by
  unfold doAtomizerDieResetDone
  refine if_neg ?_
  rw [hmedia, List.contains_iff_mem]
  simp [hdead]

theorem doAtomizerDieResetDone_dead (hdead : m ∈ s.hub.dead) : doAtomizerDieResetDone m s = s :=
  if_pos (.inr (List.contains_iff_mem.mpr hdead))

theorem mediaReady_only (s : State) (m : Nat) : OnlyRegs s (mediaReady s m) :=
  ((setRBit_only _ _ _ _).trans (setRBit_only _ _ _ _)).trans (setVocabFree_only _ _)

theorem reg_mediaReady_other (s : State) {m a : Nat} (h : a ≠ rAtzStat m) : (mediaReady s m).reg a = s.reg a :=
  (reg_setVocabFree_other _ h).trans ((reg_setRBit_other _ h _ _).trans (reg_setRBit_other s h _ _))

theorem rbit_setVocabFree_low (s : State) (m : Nat) {i : Nat} (h : i < 2) :
    (setVocabFree s m).rbit (rAtzStat m) i = s.rbit (rAtzStat m) i := rbit_setFld_other s (rAtzStat m) (.inl h) (by decide) _

theorem mediaReady_bits (s : State) (m : Nat) :
    (mediaReady s m).rbit (rAtzStat m) 0 = true ∧ (mediaReady s m).rbit (rAtzStat m) 1 = false := by
  unfold mediaReady
  rw [rbit_setVocabFree_low _ _ (by decide), rbit_setVocabFree_low _ _ (by decide), rbit_setRBit_other _ _ (by decide),
    rbit_setRBit_same _ _ (by decide), rbit_setRBit_same _ _ (by decide)]
  exact ⟨rfl, rfl⟩

theorem vocabsCleared_rest (s : State) (m : Nat) : vocabsCleared s m = { s with pipes := (vocabsCleared s m).pipes } :=
  foldl_modPipe_rest _ m _ s

theorem getPipe_vocabsCleared (s : State) (m : Nat) {n : Nat} (hn : n < 16) :
    getPipe (vocabsCleared s m) m n = { getPipe s m n with vocab := [] } :=
  (getPipe_foldl_modPipe (f := fun p => { p with vocab := [] }) (fun _ => rfl) m n _ s).trans (if_pos (List.mem_range.mpr hn))

/-- Settles O33: the running rings fail one after the other (`failPipes_failed`), and the reset's end sets READY where no third fault
holds the die. -/
theorem mediaDieFaults : Obligations.MediaDieFaults := by
  unfold Obligations.MediaDieFaults
  intro m unit third s hmedia
  refine ⟨fun hpulls => ?fault, fun hdead => ?done, fun hdead => next_congr (doAtomizerDieResetDone_dead hdead)⟩
  case fault =>
    have hfailed := mediaPipesFailed_failed m.isLt hpulls unit
    have honce := doAtomizerDieFault_once hmedia unit
    have hthird := doAtomizerDieFault_third hmedia unit
    generalize mediaPipesFailed s m unit = u at *
    obtain ⟨hready, hreset⟩ := mediaUnready_bits u m
    have hdead : (mediaUnready u m).hub.dead = s.hub.dead := (congrArg Hub.dead (mediaUnready_only u m).hub).trans hfailed.dead
    have hrings (n : Fin 16) : ringState (mediaUnready u m) m n = if ringState s m n = 1 then 3 else ringState s m n := by
      refine (fld_of_reg (reg_mediaUnready_other u (rRingCtl_ne_rAtzStat m n)) 3 2).trans ?_
      exact (hfailed.rings n n.isLt).trans (if_congr (and_iff_right (List.mem_range.mpr n.isLt)) rfl rfl)
    generalize mediaUnready u m = v at *
    cases third with
    | true =>
      refine ⟨dieHeld v m, next_congr hthird, (rbit_congr (dieHeld_regs v m) _ _).trans hready,
        (rbit_congr (dieHeld_regs v m) _ _).trans hreset, fun _ => mem_dieHeld_dead v m, nofun, fun n => ?_⟩
      exact (fld_of_reg (reg_congr (dieHeld_regs v m) _) 3 2).trans (hrings n)
    | false => exact ⟨v, next_congr honce, hready, hreset, nofun, fun _ => hdead, fun n => hrings n⟩
  case done =>
    have hcleared := vocabsCleared_rest s m
    have hpipes : ∀ n : Fin 16, getPipe (vocabsCleared s m) m n = { getPipe s m n with vocab := [] } :=
      fun n => getPipe_vocabsCleared s m n.isLt
    have hrun := doAtomizerDieResetDone_ready hmedia hdead
    generalize vocabsCleared s m = v at *
    have honly := mediaReady_only v m
    obtain ⟨hready, hreset⟩ := mediaReady_bits v m
    have hregs : v.regs = s.regs := by rw [hcleared]
    refine ⟨_, next_congr hrun, ?_, hready, hreset, fun r hr => (reg_mediaReady_other v hr).trans (reg_congr hregs r),
      fun n => (getPipe_congr honly.pipes m n).trans (hpipes n)⟩
    rw [honly, hcleared]

end Sys2Proof.Machine
end

section
/-! PROOF. Submissions and samples of stored data (R330 to R334, R348): what a verifying read leaves alone, what a failure of a
sample changes, and how positions leave the ring. -/

namespace Sys2Proof.Machine

variable {s t u v : State} {m n : Nat}

theorem HubOnly.pipes_eq (h : HubOnly s t) : t.pipes = s.pipes := by
  unfold HubOnly at h
  rw [h]

/-! ### Verifying reads (R303, R304) -/

/-- Only what a verifying read changes differs: cached lines, checksum entries and what the record of a poisoning touches. The
registers of the rings stand. -/
structure Verified (s t : State) : Prop where
  rest : t = { s with ent := t.ent, cache := t.cache, regs := t.regs, hub := t.hub, out := t.out }
  rings : ∀ a, RingReg a → t.reg a = s.reg a

theorem Verified.refl (s : State) : Verified s s := ⟨rfl, fun _ _ => rfl⟩

theorem Verified.trans (h : Verified s t) (g : Verified t u) : Verified s u :=
  ⟨by rw [g.rest, h.rest], fun a ha => (g.rings a ha).trans (h.rings a ha)⟩

theorem Verified.ite {c : Prop} [Decidable c] (h : Verified s t) (g : Verified s u) : Verified s (if c then t else u) := by
  split <;> assumption

theorem Verified.pipes_eq (h : Verified s t) : t.pipes = s.pipes := by rw [h.rest]

theorem Reported.verified (h : Reported s t) : Verified s t := ⟨by rw [h.rest], fun _ ha => h.ringReg ha⟩

theorem setEntry_verified (s : State) (a : Nat) (e : Entry) : Verified s (setEntry s a e) :=
  ⟨rfl, fun b _ => reg_congr (setEntry_regs s a e) b⟩

theorem setReg_verified (s : State) {a : Nat} (h : ¬ RingReg a) (w : Word) : Verified s (s.setReg a w) :=
  ⟨rfl, fun b hb => reg_setReg_other s (show b ≠ a from fun e => h (e ▸ hb)) w⟩

theorem not_ringReg_poisAddr (d : Nat) : ¬ RingReg (rPoisAddr d) := fun h => by
  have := h.place
  unfold rPoisAddr dieR at this
  omega

theorem not_ringReg_poisInfo (d : Nat) : ¬ RingReg (rPoisInfo d) := fun h => by
  have := h.place
  unfold rPoisInfo dieR at this
  omega

theorem cacheUse_verified (s : State) (alloc wr : Bool) (as : List Nat) : Verified s (cacheUse s alloc wr as) := by
  have hrest := cacheUse_eq s alloc wr as
  exact ⟨by rw [hrest], fun b _ => reg_congr (congrArg State.regs hrest) b⟩

theorem captPoison_verified (s : State) (a : Nat) (r : Tag) (cause tid blk : Nat) :
    Verified s (captPoison s a r cause tid blk) :=
  .ite (.refl s) ((setReg_verified s (not_ringReg_poisAddr _) _).trans (setReg_verified _ (not_ringReg_poisInfo _) _))

theorem poisonMismatch_verified (s : State) (a : Nat) (r : Reader) (code cause : Nat) :
    Verified s (poisonMismatch s a r code cause) := by
  have hpoison : Verified s (poisonValid s a r.tag) := setEntry_verified s a _
  exact .ite ((hpoison.trans (errRecord_reported _ _).verified).trans (captPoison_verified _ _ _ _ _ _)) hpoison

theorem verifyBlock_verified (s : State) (as : List Nat) (blk : Nat) (r : Reader) (own : Bool) :
    Verified s (verifyBlock s as blk r own).1 := by
  unfold verifyBlock
  extract_lets mine bad ownHit
  split
  · exact .refl s
  · split
    · exact .refl s
    · split
      · exact .refl s
      · split
        · exact .refl s
        · exact poisonMismatch_verified _ _ _ _ _

theorem foldl_verifyBlock_verified (as : List Nat) (r : Reader) (own : Bool) : ∀ (l : List Nat) (acc : State × Bool),
    Verified s acc.1 → Verified s (l.foldl (fun acc blk => ((verifyBlock acc.1 as blk r own).1,
      acc.2 || (verifyBlock acc.1 as blk r own).2)) acc).1
  | [], _, h => h
  | blk :: l, acc, h => foldl_verifyBlock_verified as r own l _ (h.trans (verifyBlock_verified acc.1 as blk r own))

theorem verifyRead_verified (s : State) (as : List Nat) (r : Reader) (own : Bool) : Verified s (verifyRead s as r own).1 :=
  foldl_verifyBlock_verified as r own _ _ (cacheUse_verified _ _ _ _)

theorem vread_verified (s : State) (a k : Nat) (r : Reader) : Verified s (vread s a k r).1 := verifyRead_verified _ _ _ _

/-- The bytes of a sample are read, verifying, before it resolves. -/
theorem resolution_verified (s : State) (p : Pipe) (x : Sample) : Verified s (resolution s p x).1 := by
  have hread := vread_verified s x.addr x.size (mediaReader p)
  unfold resolution
  split
  · next heq => rw [heq] at hread; exact hread
  · next heq => rw [heq] at hread; exact hread

theorem shardHeader_verified (s : State) (p : Pipe) (w : Word) : Verified s (shardHeader s p w).1 := by
  unfold shardHeader
  extract_lets base
  have hread := vread_verified s base 64 (mediaReader p)
  split
  · exact .refl s
  · split
    · next heq => rw [heq] at hread; exact hread
    · next heq => rw [heq] at hread; exact hread

theorem reserveEntry_verified (s : State) (p : Pipe) (a : Nat) : Verified s (reserveEntry s p a).1 := by
  unfold reserveEntry
  split
  · exact .refl s
  · next b _ =>
    have hread := shardHeader_verified s p (put (bF b 0 8) 0)
    split
    · exact .refl s
    · split
      · next heq => rw [heq] at hread; exact hread
      · next heq => rw [heq] at hread; exact hread

/-! ### Samples of a pipeline -/

theorem findSample_pos {p : Pipe} {pos : Nat} {x : Sample} (h : findSample p pos = some x) : x.pos = pos := by
  simpa using List.find?_some h

/-- A sample put at its position is found there, and the others as before. -/
theorem findSample_putSample (p : Pipe) (x : Sample) (pos : Nat) :
    findSample (putSample p x) pos = if x.pos = pos then some x else findSample p pos := by
  unfold findSample putSample
  rw [List.find?_append]
  by_cases hx : x.pos = pos
  · have hnone : (p.samples.filter fun y => decide (y.pos ≠ x.pos)).find? (fun y => decide (y.pos = pos)) = none := by
      refine List.find?_eq_none.mpr fun y hy => ?_
      have hne : y.pos ≠ x.pos := by simpa using (List.mem_filter.mp hy).2
      simpa [hx] using hne
    rw [hnone, if_pos hx, List.find?_singleton, decide_eq_true hx]
    rfl
  · have hsame : (p.samples.filter fun y => decide (y.pos ≠ x.pos)).find? (fun y => decide (y.pos = pos)) =
        p.samples.find? (fun y => decide (y.pos = pos)) := by
      rw [List.find?_filter]
      congr 1
      funext y
      by_cases hy : y.pos = pos <;> simp [hy, Ne.symm hx]
    rw [hsame, if_neg hx, List.find?_singleton, decide_eq_false hx]
    exact Option.or_none

/-- The sample that has failed once more (R348). -/
def Sample.failedFor (x : Sample) (cause : Nat) : Sample :=
  { x with stage := .failed, fails := x.fails + 1, cause := cause, first := if x.fails = 0 then cause else x.first }

theorem captFail_hub (s : State) (m n pos cause : Nat) : HubOnly s (captFail s m n pos cause) :=
  capture_hub _ _ _ _ (setReg_hubOnly _ _ _)

/-- A sample of stored data fails: it waits for its reserve entry, and the failure is captured and counted. -/
theorem failSample_stored (hlive : pLive (getPipe s m n) = false) (x : Sample) (cause : Nat) : failSample s m n x cause =
    cntInc (captFail (setPipe s m n (putSample (getPipe s m n) (x.failedFor cause))) m n x.pos cause) (ringCnt m n cause) 0 1 := by
  unfold failSample
  simp only [hlive]
  rfl

theorem failSample_stored_spec (hlive : pLive (getPipe s m n) = false) (x : Sample) (cause : Nat) :
    let t := failSample s m n x cause
    t = { s with pipes := t.pipes, regs := t.regs, hub := t.hub, out := t.out } ∧
      getPipe t m n = putSample (getPipe s m n) (x.failedFor cause) := by
  rw [failSample_stored hlive]
  intro t
  have hhub : HubOnly (setPipe s m n (putSample (getPipe s m n) (x.failedFor cause))) t :=
    (captFail_hub _ _ _ _ _).trans (cntInc_hub _ _ _ _)
  refine ⟨?_, (getPipe_congr hhub.pipes_eq m n).trans (getPipe_setPipe_same _ _ _ _)⟩
  clear_value t
  unfold HubOnly at hhub
  rw [hhub]
  rfl

/-! ### Positions leave the ring (R353, R354) -/

/-- Nothing leaves a ring whose next position holds an end marker, or no sample that has begun. -/
theorem drainRing_still (h : (getPipe s m n).eods.head? = some (s.reg (rRingPos m n)).toNat ∨
    findSample (getPipe s m n) (s.reg (rRingPos m n)).toNat = none) : drainRing s m n = s := by
  unfold drainRing drainPos
  dsimp only
  split
  · rfl
  · next hno => rw [h.resolve_left hno]

/-! ### SUBMISSION_TAKE (R330, R331) -/

/-- A field that is 0 has no bit set. -/
theorem bit_of_bits_zero {w : Word} {hi lo i : Nat} (h : bits w hi lo = 0) (hlo : lo ≤ i) (hhi : i ≤ hi) : bit w i = false := by
  have hbit := testBit_bits w hi lo (i - lo)
  rw [h, Nat.zero_testBit, Nat.add_sub_cancel' hlo, decide_eq_true (by omega), Bool.true_and] at hbit
  exact hbit.symm

theorem bits_of_bits_zero {w : Word} {hi lo l2 : Nat} (h : bits w hi lo = 0) (hlo : lo ≤ l2) (hhi : l2 ≤ hi) :
    bits w hi l2 = 0 := by
  refine Nat.eq_of_testBit_eq fun i => ?_
  rw [testBit_bits, Nat.zero_testBit]
  by_cases hin : i < hi - l2 + 1
  · rw [show w.getLsbD (l2 + i) = false from bit_of_bits_zero h (by omega) (by omega), Bool.and_false]
  · rw [decide_eq_false hin, Bool.false_and]

theorem wordsZero {e : QEntry} (h : ∀ i, 3 ≤ i → i < 7 → e.words.getD i 0 = 0) :
    ([3, 4, 5, 6].any fun i => decide (e.words.getD i 0 ≠ 0)) = false := by
  refine List.any_eq_false.mpr fun i hi => ?_
  have hrange : 3 ≤ i ∧ i < 7 := by
    simp only [List.mem_cons, List.not_mem_nil, or_false] at hi
    omega
  simp only [h i hrange.1 hrange.2, ne_eq, not_true_eq_false, decide_false, Bool.false_eq_true, not_false_eq_true]

section Take

variable {e : QEntry} {s1 : State} (hrun : running s m n = true) (hlive : pLive (getPipe s m n) = false)
  (htake : takeEntry s m n = some (e, s1)) (hpois : e.pois = 0) (hrest : ∀ i, 3 ≤ i → i < 7 → e.words.getD i 0 = 0)

include hrun hlive htake hpois hrest

/-- An EOD entry sets the end marker at the next position. -/
theorem doSubmissionTake_eod (h0 : e.words.getD 0 0 = 0) (h1 : e.words.getD 1 0 = 0) (h2 : e.words.getD 2 0 = 1#64 <<< 33) :
    doSubmissionTake m n s = modPipe s1 m n fun p => { p with eods := p.eods ++ [p.nextPos] } := by
  have hzero := wordsZero hrest
  unfold doSubmissionTake
  simp only [hrun, hlive, htake, hpois, hzero, h0, h1, h2]
  rfl

/-- The samples of an entry that passes its checks get the next positions. -/
theorem doSubmissionTake_samples {s2 : State} {h : List Byte} (h0 : bits (e.words.getD 0 0) 63 48 = 0)
    (h2 : bits (e.words.getD 2 0) 63 33 = 0) (hshard : shardHeader s1 (getPipe s m n) (e.words.getD 0 0) = (s2, some h)) :
    doSubmissionTake m n s = assignPositions s2 m n e.words h := by
  have hzero := wordsZero hrest
  have heod : bit (e.words.getD 2 0) 33 = false := bit_of_bits_zero h2 (by decide) (by decide)
  have hhigh : bits (e.words.getD 2 0) 63 34 = 0 := bits_of_bits_zero h2 (by decide) (by decide)
  unfold doSubmissionTake
  simp only [hrun, hlive, htake, hpois, hzero, h0, heod, hhigh, hshard]
  rfl

end Take

/-! ### SAMPLE_START (R332 to R334) -/

section Admit

variable {x : Sample}

theorem admitSample_refused (h : codecCause (getPipe s m n) x ≠ 0) :
    admitSample s m n x = failSample s m n x (codecCause (getPipe s m n) x) := if_pos h

theorem admitSample_read {bs : List Byte} (h : codecCause (getPipe s m n) x = 0)
    (hread : vread s x.addr x.size (mediaReader (getPipe s m n)) = (v, some bs)) :
    (∀ c, workBudget (getPipe s m n) x (headersOf x.codec bs) = .inl c → admitSample s m n x = failSample v m n x c) ∧
      ∀ b, workBudget (getPipe s m n) x (headersOf x.codec bs) = .inr b →
        admitSample s m n x = modPipe v m n fun p => putSample p { x with stage := .decoding, units := b } := by
  unfold admitSample
  dsimp only
  rw [if_neg (not_not_intro h), hread]
  exact ⟨fun c hc => by simp only [hc], fun b hb => by simp only [hb]⟩

end Admit

/-- The sample `x` of a position has not begun: it waits with its replacement, or is fresh, at or after the ring's position. -/
def Startable (s : State) (m n pos : Nat) (x : Sample) : Prop :=
  (findSample (getPipe s m n) pos = some x ∧ x.stage = .assigned) ∨
    (findSample (getPipe s m n) pos = none ∧ (s.reg (rRingPos m n)).toNat ≤ pos ∧ freshSample (getPipe s m n) pos = some x)

section Start

variable {pos : Nat} {x : Sample} (hrun : running s m n = true) (hstart : Startable s m n pos x)

include hrun hstart

/-- A live frame is admitted as it stands. -/
theorem doSampleStart_live (hlive : pLive (getPipe s m n) = true) : doSampleStart m n pos s = admitSample s m n x := by
  unfold doSampleStart
  rcases hstart with ⟨hfind, hstage⟩ | ⟨hnone, hpos, hfresh⟩
  · simp only [hrun, hfind, hstage, hlive, if_true]
  · simp only [hrun, hnone, hpos, hfresh, hlive, if_true]

/-- A sample of stored data is admitted as its index entry describes it, or fails where the entry is wrong. -/
theorem doSampleStart_stored (hlive : pLive (getPipe s m n) = false) {e : List Byte}
    (hread : vread s (indexAddr s x.shard x.idx) 32 (mediaReader (getPipe s m n)) = (u, some e)) :
    doSampleStart m n pos s = if (indexSample x e (readNat u (x.shard + 24) 8)).2 then
      admitSample u m n (indexSample x e (readNat u (x.shard + 24) 8)).1
      else failSample u m n (indexSample x e (readNat u (x.shard + 24) 8)).1 8 := by
  unfold doSampleStart
  rcases hstart with ⟨hfind, hstage⟩ | ⟨hnone, hpos, hfresh⟩
  · simp only [hrun, hfind, hstage, hlive, if_true, hread]
    rfl
  · simp only [hrun, hnone, hpos, hfresh, hlive, if_true, hread]
    rfl

end Start

/-! ### Samples resolve (R333, R348) -/

section Resolve

variable {pos : Nat} {x : Sample} (hdecoding : decoding s m n pos = some x)

include hdecoding

theorem doWorkBudgetExceeded_fails (h : resolution s (getPipe s m n) x = (u, .inl 5)) :
    doWorkBudgetExceeded m n pos s = failSample u m n x 5 := by
  unfold doWorkBudgetExceeded
  simp only [hdecoding, h, if_true]

/-- Where no record of a replay drops the sample, its bytes decide. -/
theorem doSampleResolved_resolves (h : pReplay (getPipe s m n) = false ∨ dropNamed (getPipe s m n) x.sid = none) :
    doSampleResolved m n pos s = resolveSample s m n x := by
  have hno : (if pReplay (getPipe s m n) = true then dropNamed (getPipe s m n) x.sid else none) = none := by
    split
    · next hreplay => exact h.resolve_left (by rw [hreplay]; decide)
    · rfl
  unfold doSampleResolved
  simp only [hdecoding, hno]

end Resolve

theorem resolveSample_fails {x : Sample} {c : Nat} (h : resolution s (getPipe s m n) x = (u, .inl c)) :
    resolveSample s m n x = failSample u m n x c := by
  unfold resolveSample
  simp only [h]

theorem resolveSample_ready {x y : Sample} (h : resolution s (getPipe s m n) x = (u, .inr y)) :
    resolveSample s m n x = drainRing (modPipe u m n fun p => putSample p { y with stage := .ready }) m n := by
  unfold resolveSample
  simp only [h]

/-- The ring stays where it is while the sample at its next position has not begun. -/
theorem drainRing_ready_still (hm : m < 2) (hn : n < 16) (hverified : Verified s u) {y : Sample}
    (hpos : (s.reg (rRingPos m n)).toNat ≠ y.pos) (hnone : findSample (getPipe s m n) (s.reg (rRingPos m n)).toNat = none) :
    drainRing (modPipe u m n fun p => putSample p { y with stage := .ready }) m n =
      modPipe u m n fun p => putSample p { y with stage := .ready } := by
  have hreg : (modPipe u m n fun p => putSample p { y with stage := .ready }).reg (rRingPos m n) = s.reg (rRingPos m n) :=
    (reg_congr (setPipe_regs u m n _) _).trans (hverified.rings _ (ringReg_pos hm hn))
  refine drainRing_still (.inr ?_)
  rw [hreg, getPipe_modPipe_same, getPipe_congr hverified.pipes_eq, findSample_putSample, if_neg (Ne.symm hpos), hnone]

/-- Settles O31: each row by the equation of its function for the case; a reading leaves the pipelines and the rings' registers alone
(`resolution_verified`). -/
theorem samplesProceed : Obligations.SamplesProceed := by
  unfold Obligations.SamplesProceed
  intro m n s hrun p
  refine ⟨fun e s1 hlive htake hpois hrest => ⟨fun h0 h1 h2 => ?eod, fun s2 h h0 h2 hshard hfits => ?samples⟩, ?start,
    fun pos x u hdec hres => ⟨next_congr (doWorkBudgetExceeded_fails hdec hres), fun hlive => ?budget⟩,
    fun pos x u hdec hno => ⟨fun c hres => ?fails, fun y hres => ⟨?ready, fun hpos hnone => ?still⟩⟩⟩
  case eod => exact next_congr (doSubmissionTake_eod hrun hlive htake hpois hrest h0 h1 h2)
  case samples =>
    refine next_congr ((doSubmissionTake_samples hrun hlive htake hpois hrest h0 h2 hshard).trans ?_)
    exact if_neg (Nat.not_lt.mpr hfits)
  case start =>
    intro admitted waits
    have hadmit : ∀ pos v x, exec (.sampleStart m n pos) s = .next (admitSample v m n x) → admitted pos v x := fun pos v x h =>
      ⟨fun hc => h.trans (next_congr (admitSample_refused hc)), fun hc w bs hread =>
        ⟨fun c hb => h.trans (next_congr ((admitSample_read hc hread).1 c hb)),
          fun b hb => h.trans (next_congr ((admitSample_read hc hread).2 b hb))⟩⟩
    refine ⟨fun pos x hlive hw => hadmit pos s x (next_congr (doSampleStart_live hrun hw hlive)),
      fun pos x hlive hw u e hread => ?_⟩
    have hstart := doSampleStart_stored hrun hw hlive hread
    exact ⟨fun hok => hadmit pos u _ (next_congr (hstart.trans (if_pos hok))),
      fun hbad => next_congr (hstart.trans (if_neg (by rw [hbad]; decide)))⟩
  case budget =>
    have hverified := resolution_verified s p x
    rw [hres] at hverified
    have hpipe : getPipe u m n = p := getPipe_congr hverified.pipes_eq m n
    obtain ⟨hrest, hget⟩ := failSample_stored_spec (s := u) (m := m) (n := n) (by rw [hpipe]; exact hlive) x 5
    exact ⟨_, next_congr (doWorkBudgetExceeded_fails hdec hres), hrest, by rw [hget, hpipe]; rfl⟩
  case fails => exact next_congr ((doSampleResolved_resolves hdec hno).trans (resolveSample_fails hres))
  case ready => exact next_congr ((doSampleResolved_resolves hdec hno).trans (resolveSample_ready hres))
  case still =>
    have hverified := resolution_verified s p x
    rw [hres] at hverified
    exact next_congr ((doSampleResolved_resolves hdec hno).trans
      ((resolveSample_ready hres).trans (drainRing_ready_still m.isLt n.isLt hverified hpos hnone)))

end Sys2Proof.Machine
end

section
/-! PROOF. Reserve entries, batches, end markers, live frames and live flushes (R349, R353 to R356, R360 to R362, R368). -/

namespace Sys2Proof.Machine

variable {s t u : State} {m n : Nat}

theorem Recorded.pipes_eq (h : Recorded s t) : t.pipes = s.pipes := by rw [h.rest]

/-! ### RESERVE_ASSIGN (R349, R351) -/

/-- The warning that reserve entries run low changes of the pipeline no more than that it has been given. -/
theorem getPipe_reserveWarn (s : State) (m n pos : Nat) :
    ∃ w, getPipe (reserveWarn s m n pos) m n = { getPipe s m n with warned := w } := by
  unfold reserveWarn
  dsimp only
  split
  · refine ⟨true, (getPipe_congr ?_ m n).trans (getPipe_modPipe_same s m n fun p => { p with warned := true })⟩
    exact (event0_hub _ _ _ _ _).pipes_eq
  · exact ⟨_, rfl⟩

/-- The INTAKE_FAIL record of a sample joins those of its pipeline. -/
theorem getPipe_intakeFail (s : State) (m n : Nat) (p : Pipe) (x : Sample) (drop : Bool) (sid : Nat) :
    ∃ ws, getPipe (intakeFail s m n p x drop sid) m n = { getPipe s m n with fails := (getPipe s m n).fails ++ [ws] } :=
  ⟨_, (getPipe_congr (slgWrite_recorded _ _ _).pipes_eq m n).trans (getPipe_modPipe_same s m n _)⟩

/-- The state of the reserve cursor past the entry that a position takes, and the warning given. -/
def reserveTaken (s : State) (m n pos : Nat) : State :=
  reserveWarn (s.setFld (rRingRes m n) 31 0 (s.fld (rRingRes m n) 31 0 + 1)) m n pos

section Reserve

variable {pos shard i : Nat} {x : Sample} (hrun : running s m n = true) (hpos : (s.reg (rRingPos m n)).toNat = pos)
  (hfind : findSample (getPipe s m n) pos = some x) (hfailed : x.stage = .failed) (hno : (getPipe s m n).eods.head? ≠ some pos)
  (hleft : s.fld (rRingRes m n) 31 0 < pResCount (getPipe s m n))
  (hentry : reserveEntry (reserveTaken s m n pos) (getPipe s m n) (pRes (getPipe s m n) + 16 * s.fld (rRingRes m n) 31 0) =
    (u, some (shard, i)))

include hrun hpos hfind hfailed hno hleft hentry

theorem doReserveAssign_assigns : doReserveAssign m n pos s =
    modPipe (intakeFail u m n (getPipe s m n) x false (readNat u (indexAddr u shard i) 8)) m n
      fun p => putSample p { x with stage := .assigned, shard := shard, idx := i } := by
  have hgo : ¬ (x.stage ≠ .failed ∨ (s.reg (rRingPos m n)).toNat ≠ pos ∨ (getPipe s m n).eods.head? = some pos) := by
    simp [hfailed, hpos, hno]
  unfold reserveTaken at hentry
  unfold doReserveAssign
  simp only [hrun, hfind]
  rw [if_neg hgo, if_neg (Nat.not_le.mpr hleft), hentry]

/-- The position takes the reserve entry, and the failure is recorded. -/
theorem doReserveAssign_spec :
    let t := doReserveAssign m n pos s
    findSample (getPipe t m n) pos = some { x with stage := .assigned, shard := shard, idx := i } ∧
      ∃ ws, (getPipe t m n).fails = (getPipe s m n).fails ++ [ws] := by
  have hverified := reserveEntry_verified (reserveTaken s m n pos) (getPipe s m n)
    (pRes (getPipe s m n) + 16 * s.fld (rRingRes m n) 31 0)
  rw [hentry] at hverified
  obtain ⟨w, hwarned⟩ := getPipe_reserveWarn (s.setFld (rRingRes m n) 31 0 (s.fld (rRingRes m n) 31 0 + 1)) m n pos
  rw [getPipe_congr (setFld_only s _ _ _ _).pipes] at hwarned
  obtain ⟨ws, hfails⟩ := getPipe_intakeFail u m n (getPipe s m n) x false (readNat u (indexAddr u shard i) 8)
  rw [getPipe_congr hverified.pipes_eq, reserveTaken, hwarned] at hfails
  intro t
  have ht : getPipe t m n = putSample _ { x with stage := .assigned, shard := shard, idx := i } :=
    (congrArg (getPipe · m n) (doReserveAssign_assigns hrun hpos hfind hfailed hno hleft hentry)).trans
      (getPipe_modPipe_same _ m n _)
  rw [ht, hfails]
  exact ⟨(findSample_putSample _ _ pos).trans (if_pos (findSample_pos hfind)), ws, rfl⟩

end Reserve

/-! ### BATCH_PUBLISH (R355, R356, R368) -/

/-- The pipeline with its next closed batch published. -/
def Pipe.published (p : Pipe) (b : Batch) (rest : List Batch) : Pipe :=
  { p with closed := rest, ready := p.ready ++ [b]
           armed := p.armed || (decide (pLow p ≠ 0) && decide (pLow p ≤ (p.ready ++ [b]).length)) }

/-- The batch in its slot, and EMIT one up. -/
def batchEmitted (s : State) (m n : Nat) (b : Batch) (rest : List Batch) : State :=
  let p := getPipe s m n
  let seq := (s.reg (rRingEmit m n)).toNat
  (setPipe (writeBytes s (slotAddr p seq) (slotBytes p b seq) none) m n (p.published b rest)).setReg (rRingEmit m n)
    (BitVec.ofNat 64 (seq + 1))

/-- Publishing counts the batch, and an end marker is an event. -/
theorem doBatchPublish_reported {b : Batch} {rest : List Batch} (hrun : running s m n = true)
    (hclosed : (getPipe s m n).closed = b :: rest)
    (hroom : (s.reg (rRingEmit m n)).toNat < (getPipe s m n).freed + pDepth (getPipe s m n)) :
    Reported (batchEmitted s m n b rest) (doBatchPublish m n s) := by
  have hgo : ¬ (running s m n = false ∨
      (getPipe s m n).freed + pDepth (getPipe s m n) ≤ (s.reg (rRingEmit m n)).toNat) := by
    rw [hrun]
    rintro (h | h)
    · cases h
    · omega
  unfold doBatchPublish
  dsimp only
  rw [hclosed]
  dsimp only
  rw [if_neg hgo]
  have hcount : Reported (batchEmitted s m n b rest) (cntInc (batchEmitted s m n b rest) (ringCnt m n 14) 0 1) :=
    cntInc_reported _ _ _ _
  exact .ite (hcount.trans (ringEvent_reported _ _ _ _ _ _)) hcount

/-! ### EOD_FLUSH (R354) -/

theorem closeBatch_empty {p : Pipe} (h : p.members = []) (b : Nat) (part : Bool) : closeBatch p b part = p := by
  unfold closeBatch
  rw [h]
  rfl

theorem doEodFlush_flushes {pos : Nat} (hrun : running s m n = true) (hpos : (s.reg (rRingPos m n)).toNat = pos)
    (heod : (getPipe s m n).eods.head? = some pos) :
    let q := (List.range (pBuckets (getPipe s m n))).foldl (fun q b => closeBatch q b true) (getPipe s m n)
    doEodFlush m n s = drainRing (setPipe s m n
      { q with eods := q.eods.drop 1, closed := q.closed ++ [⟨0, [], true, false, 0, pos, pos⟩] }) m n := by
  subst hpos
  have hgo : ¬ (running s m n = false ∨ (getPipe s m n).eods.head? ≠ some (s.reg (rRingPos m n)).toNat) := by
    simp [hrun, heod]
  exact if_neg hgo

/-! ### Live frames (R360, R362) -/

theorem getPipe_keepFrame (s : State) (m n : Nat) (x : Sample) :
    getPipe (keepFrame s m n x) m n = { putSample (getPipe s m n) { x with pos := (getPipe s m n).nextPos } with
      nextPos := (getPipe s m n).nextPos + 1 } :=
  (getPipe_congr (slgWrite_recorded _ _ _).pipes_eq m n).trans (getPipe_setPipe_same s m n _)

theorem getPipe_dropFrame (s : State) (m n : Nat) (x : Sample) : getPipe (dropFrame s m n x) m n = getPipe s m n :=
  (getPipe_congr (cntInc_hub _ _ _ _).pipes_eq m n).trans (getPipe_congr (slgWrite_recorded _ _ _).pipes_eq m n)

/-- A live entry that passes its checks. -/
structure FrameOk (s1 : State) (p : Pipe) (e : QEntry) : Prop where
  pois : e.pois = 0
  w0 : bits (e.words.getD 0 0) 63 48 = 0
  w1 : bits (e.words.getD 1 0) 63 48 = 0
  w4 : e.words.getD 4 0 = 0
  w5 : e.words.getD 5 0 = 0
  w6 : e.words.getD 6 0 = 0
  span : hbmSpan s1 (pPart p) (frameOf s1 e).addr (max 1 (frameOf s1 e).size) = true

theorem FrameOk.checks {s1 : State} {p : Pipe} {e : QEntry} (h : FrameOk s1 p e) :
    ¬ (bits (e.words.getD 0 0) 63 48 ≠ 0 ∨ bits (e.words.getD 1 0) 63 48 ≠ 0 ∨ e.words.getD 4 0 ≠ 0 ∨ e.words.getD 5 0 ≠ 0 ∨
      e.words.getD 6 0 ≠ 0 ∨ hbmSpan s1 (pPart p) (frameOf s1 e).addr (max 1 (frameOf s1 e).size) = false) := by
  obtain ⟨-, h0, h1, h4, h5, h6, hspan⟩ := h
  simp only [h0, h1, h4, h5, h6, hspan, ne_eq, not_true_eq_false, false_or, Bool.true_eq_false, not_false_eq_true]

section Frame

variable {e : QEntry} {s1 : State} (hrun : running s m n = true) (hlive : pLive (getPipe s m n) = true)
  (htake : takeEntry s m n = some (e, s1)) (hok : FrameOk s1 (getPipe s m n) e)

include hrun hlive htake hok

/-- Outside a replay the age of the frame decides. -/
theorem doLiveFrameTake_live (hreplay : pReplay (getPipe s m n) = false) : doLiveFrameTake m n s =
    if stale s1 (getPipe s m n) (frameOf s1 e) then dropFrame s1 m n (frameOf s1 e) else keepFrame s1 m n (frameOf s1 e) := by
  have hgo : ¬ (running s m n = false ∨ pLive (getPipe s m n) = false ∨
      (pReplay (getPipe s m n) = true ∧ nextDecision (getPipe s m n) = none)) := by
    simp [hrun, hlive, hreplay]
  unfold doLiveFrameTake
  dsimp only
  rw [if_neg hgo, htake]
  dsimp only
  rw [if_neg (not_not_intro hok.pois), if_neg hok.checks, if_neg (by rw [hreplay]; decide)]

/-- In a replay the record decides. -/
theorem doLiveFrameTake_replay (hreplay : pReplay (getPipe s m n) = true) {r : List Word}
    (hnext : nextDecision (getPipe s m n) = some r) : doLiveFrameTake m n s =
    if (if bits (r.getD 0 0) 7 0 = 0x12 then r.getD 4 0 else r.getD 3 0).toNat ≠ (frameOf s1 e).sid then failPipe s1 m n 0x0A
    else if bits (r.getD 0 0) 7 0 = 0x12 then
      keepFrame (modPipe s1 m n fun p => { p with live := dropFirst (fun q => q = r) p.live }) m n (frameOf s1 e)
    else dropFrame (modPipe s1 m n fun p => { p with live := dropFirst (fun q => q = r) p.live }) m n (frameOf s1 e) := by
  have hgo : ¬ (running s m n = false ∨ pLive (getPipe s m n) = false ∨
      (pReplay (getPipe s m n) = true ∧ nextDecision (getPipe s m n) = none)) := by
    simp [hrun, hlive, hnext]
  unfold doLiveFrameTake
  dsimp only
  rw [if_neg hgo, htake]
  dsimp only
  rw [if_neg (not_not_intro hok.pois), if_neg hok.checks, if_pos hreplay, hnext]

end Frame

/-! ### Live flushes (R361) -/

theorem doLiveFlushTimeout_closes {b : Nat} {x : Sample} (hrun : running s m n = true)
    (hlast : (smGet [] (getPipe s m n).members b).getLast? = some x) (hlive : pLive (getPipe s m n) = true)
    (hreplay : pReplay (getPipe s m n) = false) (hflush : pFlush (getPipe s m n) ≠ 0) : doLiveFlushTimeout m n b s =
    liveFlush (setPipe s m n (closeBatch (getPipe s m n) b true)) m n (getPipe s m n) b x.pos := by
  unfold doLiveFlushTimeout
  dsimp only
  rw [hlast]
  exact if_neg (by simp [hrun, hlive, hreplay, hflush])

theorem getPipe_liveFlush (s : State) (m n : Nat) (p : Pipe) (b pos : Nat) :
    getPipe (liveFlush s m n p b pos) m n = getPipe s m n :=
  getPipe_congr (slgWrite_recorded _ _ _).pipes_eq m n

/-- Settles O32: each row by the equation of its function for the case; records, counters and events leave the pipelines alone. -/
theorem batchesProceed : Obligations.BatchesProceed := by
  unfold Obligations.BatchesProceed
  intro m n s hrun p pos
  refine ⟨fun x hfind hfailed hno => ?reserve, fun b rest hclosed hroom => ?publish, fun heod => ?flush,
    fun e s1 hlive htake hpois => ?frame, fun b x hlast hlive hreplay hflush => ?timeout⟩
  case reserve =>
    intro cur w hleft s2 shard i hentry
    obtain ⟨hsample, hfails⟩ := doReserveAssign_spec hrun rfl hfind hfailed hno hleft hentry
    exact ⟨_, rfl, hsample, hfails⟩
  case publish =>
    intro seq u
    have hmem : OnlyMemory s u := writeBytes_only _ _ _ _
    have honly : OnlyRegs (setPipe u m n (p.published b rest)) (batchEmitted s m n b rest) := setReg_only _ _ _
    have hemit : (batchEmitted s m n b rest).reg (rRingEmit m n) = BitVec.ofNat 64 (seq + 1) :=
      (reg_setReg _ _ _ _).trans (if_pos rfl)
    have hreported := doBatchPublish_reported hrun hclosed hroom
    generalize batchEmitted s m n b rest = v at *
    refine ⟨_, rfl, ?_, ⟨(p.published b rest).armed, ?_⟩, (hreported.ringReg (ringReg_emit m.isLt n.isLt)).trans hemit⟩
    · clear_value u
      unfold OnlyMemory at hmem
      unfold OnlyRegs at honly
      rw [hreported.rest, honly, hmem]
      rfl
    · exact (getPipe_congr (by rw [hreported.rest]) m n).trans
        ((getPipe_congr honly.pipes m n).trans (getPipe_setPipe_same u m n (p.published b rest)))
  case flush =>
    have hflush := doEodFlush_flushes hrun rfl heod
    refine ⟨next_congr hflush, fun hempty hnone => next_congr (hflush.trans ?_)⟩
    have hfold : (List.range (pBuckets p)).foldl (fun q b => closeBatch q b true) p = p :=
      List.foldl_fixed' (fun b => closeBatch_empty hempty b true) _
    rw [hfold]
    refine drainRing_still (.inr ?_)
    rw [getPipe_setPipe_same, reg_congr (setPipe_regs s m n _)]
    exact hnone
  case frame =>
    intro w x h0 h1 h4 h5 h6 hspan
    have hok : FrameOk s1 p e := ⟨hpois, h0, h1, h4, h5, h6, hspan⟩
    refine ⟨fun hreplay hfresh => ?kept, fun hreplay hstale => ?dropped, fun r hreplay hnext => ?replayed⟩
    case kept =>
      have hdo := (doLiveFrameTake_live hrun hlive htake hok hreplay).trans (if_neg (by rw [hfresh]; decide))
      exact ⟨_, next_congr hdo, getPipe_keepFrame s1 m n x⟩
    case dropped =>
      have hdo := (doLiveFrameTake_live hrun hlive htake hok hreplay).trans (if_pos hstale)
      exact ⟨_, next_congr hdo, getPipe_dropFrame s1 m n x⟩
    case replayed =>
      intro keeps sid u
      have hdo := doLiveFrameTake_replay hrun hlive htake hok hreplay hnext
      exact ⟨fun hother => next_congr (hdo.trans (if_pos hother)),
        fun hsame => next_congr (hdo.trans (if_neg (not_not_intro hsame)))⟩
  case timeout =>
    exact ⟨_, next_congr (doLiveFlushTimeout_closes hrun hlast hlive hreplay hflush),
      (getPipe_liveFlush _ m n p b x.pos).trans (getPipe_setPipe_same s m n _)⟩

end Sys2Proof.Machine
end

section
/-! PROOF. A guest's message at the firewall (R375, R390 to R396): what the guards make of it, the tokens that it takes, its
access to HBM, and a violation below the limit. -/

namespace Sys2Proof.Machine

variable {s : State} {m k : Nat} {g : GuestMsg}

/-! ### The message is taken, refused or discarded -/

/-- A guest is at the site, the module is up and the site is not fenced. -/
structure GuestOpen (s : State) (m : Nat) : Prop where
  up : s.up = true
  present : guestIn s m = true
  unfenced : fenced s m = false

theorem GuestOpen.not_ignored (h : GuestOpen s m) : ¬ (s.up = false ∨ guestIn s m = false ∨ fenced s m = true) := by
  simp [h.up, h.present, h.unfenced]

theorem doGuestMessage_sideband (ho : GuestOpen s m) (ty : Nat) (h : DieHdr) (mask : BitVec 64) (data : BitVec 512) (lim : Bool) :
    doGuestMessage m ty h mask data true lim s = violation s m 4 ty 0 := by
  unfold doGuestMessage
  exact (if_neg ho.not_ignored).trans (if_pos rfl)

theorem doGuestMessage_wrongVc (ho : GuestOpen s m) {ty : Nat} {h : DieHdr} (hvc : h.vc.toNat ≠ typeVc ty) (mask : BitVec 64)
    (data : BitVec 512) (lim : Bool) :
    doGuestMessage m ty h mask data false lim s = discardRecord s ty { h with dst := 8 } := by
  unfold doGuestMessage
  exact (if_neg ho.not_ignored).trans ((if_neg Bool.false_ne_true).trans (if_pos hvc))

/-- A read or a write on its VC goes by its window and the messages that are already held. -/
theorem doGuestMessage_access (ho : GuestOpen s m) (hvc : g.h.vc = 0) (hty : 1 ≤ g.ty ∧ g.ty ≤ 3) (lim : Bool) :
    doGuestMessage m g.ty g.h g.mask g.data false lim s = match winFor s m g with
      | .inl kind => guestViolates s m kind g.ty g.h
      | .inr _ =>
        if max 1 (s.fld (rFwRate m) 42 32) ≤ (getSite s m).waits.length + (getSite s m).outs.length then
          guestViolates s m 5 g.ty g.h
        else guestEnter s m g := by
  have hright : ¬ g.h.vc.toNat ≠ typeVc g.ty := by
    have hlow : g.ty < 0x20 := by omega
    simp [hvc, typeVc, hlow]
  have hevt : g.ty ≠ 8 := by omega
  have hkind : ¬ (g.ty = 0 ∨ 3 < g.ty) := by omega
  unfold doGuestMessage
  exact (if_neg ho.not_ignored).trans ((if_neg Bool.false_ne_true).trans ((if_neg hright).trans
    ((if_neg hevt).trans (if_neg hkind))))

theorem doGuestMessage_refused (ho : GuestOpen s m) (hvc : g.h.vc = 0) (hty : 1 ≤ g.ty ∧ g.ty ≤ 3) (lim : Bool) {kind : Nat}
    (hwin : winFor s m g = .inl kind) :
    doGuestMessage m g.ty g.h g.mask g.data false lim s = violation (sendNack s g.h 2) m kind g.ty g.h.addr.toNat := by
  have hreq : 1 ≤ g.ty ∧ g.ty ≤ 8 := by omega
  rw [doGuestMessage_access ho hvc hty, hwin]
  exact congrArg (violation · m kind g.ty g.h.addr.toNat) (if_pos hreq)

/-! ### Tokens (R394) -/

/-- The site after a message has taken its tokens. -/
def charged (x : GSite) (g : GuestMsg) : GSite :=
  if g.ty = 1 then { x with rdUse := x.rdUse + guestCost g } else { x with wrUse := x.wrUse + guestCost g }

theorem takeTokens_eq (s : State) (m : Nat) (g : GuestMsg) : takeTokens s m g = setSite s m (charged (getSite s m) g) := rfl

theorem getSite_setSite (s : State) (m : Nat) (x : GSite) : getSite (setSite s m x) m = x := smGet_smSet_same _ _ _ _

/-- No message of its direction waits, and the bucket of the direction holds its tokens. -/
structure TokensReady (s : State) (m : Nat) (g : GuestMsg) : Prop where
  first : ∀ w, w ∈ (getSite s m).waits → (w.ty = 1 ↔ ¬ g.ty = 1)
  enough : bucketUse (getSite s m) g + guestCost g ≤ bucketSize s m

theorem guestEnter_ready (ht : TokensReady s m g) : guestEnter s m g = guestForward (takeTokens s m g) m g := by
  have hnone : ((getSite s m).waits.any fun w => (w.ty = 1) == (g.ty = 1)) = false := by
    refine List.any_eq_false.mpr fun w hw => ?_
    simp [ht.first w hw]
  have htokens : tokensFor s m g = true := decide_eq_true ht.enough
  unfold guestEnter
  refine if_neg ?_
  rw [hnone, htokens]
  exact Bool.false_ne_true

/-- The window that admits a message does not depend on the site's tokens. -/
theorem winFor_setSite (s : State) (m : Nat) (x : GSite) (g : GuestMsg) : winFor (setSite s m x) m g = winFor s m g := rfl

/-- An admitted access to HBM that finds room and its tokens reaches memory. -/
theorem doGuestMessage_hbm (ho : GuestOpen s m) (hvc : g.h.vc = 0) (hty : 1 ≤ g.ty ∧ g.ty ≤ 3) (lim : Bool)
    (hwin : winFor s m g = .inr k) (hhbm : winHost s m k = false)
    (hfree : (getSite s m).waits.length + (getSite s m).outs.length < max 1 (s.fld (rFwRate m) 42 32)) (ht : TokensReady s m g) :
    doGuestMessage m g.ty g.h g.mask g.data false lim s = guestMem (setSite s m (charged (getSite s m) g)) k m g := by
  have hafter : winFor (takeTokens s m g) m g = .inr k := (winFor_setSite s m _ g).trans hwin
  have hhbm' : ¬ winHost (takeTokens s m g) m k = true := Bool.eq_false_iff.mp hhbm
  rw [doGuestMessage_access ho hvc hty, hwin]
  refine (if_neg (Nat.not_le.mpr hfree)).trans ((guestEnter_ready ht).trans ?_)
  unfold guestForward
  rw [hafter, ← takeTokens_eq]
  exact if_neg hhbm'

/-! ### HBM (R393) -/

theorem lineData_congr {t : State} (hmem : t.mem = s.mem) (hent : t.ent = s.ent) : lineData t = lineData s := by
  have hraw : rawByte t = rawByte s := funext fun x => rawByte_congr hmem x
  have hentry : entryOf t = entryOf s := funext (entryOf_congr hent)
  unfold lineData storeByte
  rw [hraw, hentry, readByte_congr hmem hent]

/-- A guest's read of bytes that read clean is answered with its line. -/
theorem guestMem_read (hty : g.ty = 1)
    (hclean : ReadsClean s (span (guestLine g) 64) ⟨⟨0, 0, 3, 3⟩, some (winPart s m k), 0xFFFFFFFF, 0⟩) :
    guestMem s k m g = (cacheUse s false false (span (guestLine g) 64)).send
      (.die 0x21 (respHdr g.h 1 0 (decide (lstAt s (guestLine g) = 2))) [lineData s (guestLine g)]) := by
  have hlines : lineData (cacheUse s false false (span (guestLine g) 64)) = lineData s :=
    lineData_congr (cacheUse_mem _ _ _ _) (cacheUse_ent _ _ _ _)
  have hstates : lstAt (cacheUse s false false (span (guestLine g) 64)) = lstAt s := lstAt_congr (cacheUse_ent _ _ _ _)
  have hread : verifyRead s (span (guestLine g) 64) ⟨⟨0, 0, 3, 3⟩, some (winPart s m k), 0xFFFFFFFF, 0⟩ false =
    (cacheUse s false false (span (guestLine g) 64), false) := hclean
  unfold guestMem
  refine (if_pos hty).trans ?_
  rw [hread]
  dsimp only
  rw [hlines, hstates]

theorem guestMem_write (hty : g.ty ≠ 1) :
    guestMem s k m g = sendAck (writeLine s (guestLine g) (maskOf (guestMask g) g.data) none) g.h := by
  unfold guestMem
  exact if_neg hty

theorem bit_guestMask {i : Nat} (hi : i < 64) : bit (guestMask g) i = true ↔ g.ty = 2 ∨ bit g.mask i = true := by
  unfold guestMask
  split
  · next hty => simp only [hty, bit, BitVec.getLsbD_allOnes, hi, decide_true, true_or]
  · next hty => simp [hty]

/-- The bytes of the mask, all where the message is WR, read as written, every other byte as before. -/
theorem readByte_guestWrite (s : State) (g : GuestMsg) (x : Nat) :
    readByte (writeLine s (guestLine g) (maskOf (guestMask g) g.data) none) x =
      if x / 64 = guestLine g / 64 ∧ (g.ty = 2 ∨ bit g.mask (x % 64) = true) then g.data.extractLsb' (8 * (x % 64)) 8
      else readByte s x := by
  rw [readByte_writeLine, maskOf_getD, ite_and]
  simp only [bit_guestMask (Nat.mod_lt x (by decide : 0 < 64))]

/-! ### Violations (R395) -/

/-- The state with a violation counted and captured. -/
def violationNoted (s : State) (m kind ty addr : Nat) : State :=
  (s.setFld (rFwCtl m) 17 10 (min 255 (s.fld (rFwCtl m) 17 10 + 1))).capture (rFwViol m) 63 fun s =>
    s.setReg (rFwViol m) (put (addr % 2 ^ 48) 0 ||| put kind 48 ||| put (ty % 64) 52 ||| put 1 63)

/-- Below VIOL_LIMIT a violation is counted and captured, and the site is not fenced. -/
theorem violation_below (hlimit : s.fld (rFwCtl m) 17 10 + 1 < max 1 (s.fld (rFwCtl m) 9 2)) (kind ty addr : Nat) :
    violation s m kind ty addr = violationNoted s m kind ty addr := by
  have hno : ¬ max 1 (s.fld (rFwCtl m) 9 2) ≤ min 255 (s.fld (rFwCtl m) 17 10 + 1) := by omega
  unfold violation
  exact if_neg fun h => hno h.1

theorem violationNoted_only (s : State) (m kind ty addr : Nat) : OnlyRegs s (violationNoted s m kind ty addr) := by
  unfold violationNoted State.capture
  split <;> rfl

theorem rFwViol_ne_rFwCtl (m : Nat) : rFwViol m ≠ rFwCtl m := by
  unfold rFwViol rFwCtl hubR
  omega

theorem reg_violationNoted (s : State) (m kind ty addr : Nat) {r : Nat} (hr : r ≠ rFwViol m) :
    (violationNoted s m kind ty addr).reg r =
      (s.setFld (rFwCtl m) 17 10 (min 255 (s.fld (rFwCtl m) 17 10 + 1))).reg r := by
  unfold violationNoted State.capture
  split
  · rfl
  · exact reg_setReg_other _ hr _

end Sys2Proof.Machine
end

section
/-! PROOF. The obligation on a guest's accesses: reads and writes that reach HBM, and those that no window admits. -/

namespace Sys2Proof.Machine

variable {s : State} {m k : Nat} {g : GuestMsg}

/-- What a guest's write to HBM leaves: its bytes, its tokens and the acknowledgement. -/
theorem guestMem_write_acked (s : State) (x : GSite) (hty : g.ty ≠ 1) :
    let t := guestMem (setSite s m x) k m g
    t = { s with fabr := t.fabr, mem := t.mem, ent := t.ent, cache := t.cache,
                 out := s.out ++ [.die 0x23 (respHdr g.h 1 0 false) []] } ∧
      getSite t m = x ∧
      ∀ y, readByte t y = if y / 64 = guestLine g / 64 ∧ (g.ty = 2 ∨ bit g.mask (y % 64) = true)
        then g.data.extractLsb' (8 * (y % 64)) 8 else readByte s y := by
  intro t
  have ht : t = sendAck (writeLine (setSite s m x) (guestLine g) (maskOf (guestMask g) g.data) none) g.h := guestMem_write hty
  have honly : OnlyMemory (setSite s m x) (writeLine (setSite s m x) (guestLine g) (maskOf (guestMask g) g.data) none) :=
    writeLine_only _ _ _ _
  unfold OnlyMemory at honly
  refine ⟨?rest, ?site, fun y => ?bytes⟩
  case rest =>
    rw [ht, sendAck, honly]
    rfl
  case site =>
    rw [ht, sendAck, honly]
    exact getSite_setSite s m x
  case bytes =>
    rw [ht, readByte_sendAck, readByte_guestWrite]
    rfl

/-- What a guest's read of HBM leaves: its tokens, the lines that the caches hold and the answer. -/
theorem guestMem_read_answered (s : State) (x : GSite) (hty : g.ty = 1)
    (hclean : ReadsClean (setSite s m x) (span (guestLine g) 64) ⟨⟨0, 0, 3, 3⟩, some (winPart s m k), 0xFFFFFFFF, 0⟩) :
    let t := guestMem (setSite s m x) k m g
    t = { s with fabr := t.fabr, out := t.out, cache := t.cache } ∧
      t.out = s.out ++ [.die 0x21 (respHdr g.h 1 0 (decide (lstAt s (guestLine g) = 2))) [lineData s (guestLine g)]] ∧
      getSite t m = x := by
  intro t
  have ht : t = _ := guestMem_read hty hclean
  rw [ht, cacheUse_eq]
  exact ⟨rfl, rfl, getSite_setSite s m x⟩

/-- A refused access below the limit: its NACK goes out, and of the registers only HUB_FW's count and capture differ. -/
theorem refused_below (hlimit : s.fld (rFwCtl m) 17 10 + 1 < max 1 (s.fld (rFwCtl m) 9 2)) (h : DieHdr) (kind ty addr : Nat) :
    let t := violation (sendNack s h 2) m kind ty addr
    t = { s with regs := t.regs, out := s.out ++ [.die 0x24 (respHdr h 1 2 false) []] } ∧
      t.fld (rFwCtl m) 17 10 = s.fld (rFwCtl m) 17 10 + 1 ∧ ∀ r, r ≠ rFwCtl m → r ≠ rFwViol m → t.reg r = s.reg r := by
  intro t
  have ht : t = violationNoted (sendNack s h 2) m kind ty addr := violation_below (s := sendNack s h 2) hlimit kind ty addr
  have hbound : s.fld (rFwCtl m) 9 2 < 2 ^ 8 := Nat.mod_lt _ (by decide)
  refine ⟨?rest, ?count, fun r hctl hviol => ?others⟩
  case rest =>
    rw [ht]
    exact violationNoted_only _ _ _ _ _
  case count =>
    rw [ht, fld_of_reg (reg_violationNoted _ _ _ _ _ (rFwViol_ne_rFwCtl m).symm), fld_setFld_same _ _ (by decide)]
    have hsame : (sendNack s h 2).fld (rFwCtl m) 17 10 = s.fld (rFwCtl m) 17 10 := rfl
    omega
  case others =>
    rw [ht, reg_violationNoted _ _ _ _ _ hviol]
    exact reg_setFld_other _ hctl _ _ _

/-- Settles O42: each message comes down to the equation of `doGuestMessage` for its case, and then to what memory or the
violation registers show. -/
theorem guestAccesses : Obligations.GuestAccesses := by
  unfold Obligations.GuestAccesses
  intro m h mask data lim s hup hin hfence
  have ho : GuestOpen s m := ⟨hup, hin, hfence⟩
  refine ⟨fun ty => ?_, fun ty hvc => ?_, ?_⟩
  · exact next_congr (doGuestMessage_sideband ho _ _ _ _ _)
  · exact next_congr (doGuestMessage_wrongVc ho hvc _ _ _)
  intro hvc line free
  refine ⟨?read, ?write, ?refused⟩
  case read =>
    intro k hwin hhbm hfree hfirst henough hclean
    have htokens : TokensReady s m ⟨1, h, mask, data⟩ := ⟨fun w hw => by simp [hfirst w hw], henough⟩
    have hdo := doGuestMessage_hbm ho hvc ⟨le_rfl, Nat.le_of_ble_eq_true rfl⟩ lim hwin hhbm hfree htokens
    exact ⟨_, next_congr hdo, guestMem_read_answered s _ rfl (hclean _)⟩
  case write =>
    intro wrp k g hwin hhbm hfree hfirst henough
    have hwr : g.ty ≠ 1 := by cases wrp <;> simp [g]
    have hrange : 1 ≤ g.ty ∧ g.ty ≤ 3 := by cases wrp <;> simp [g]
    have hwhole : g.ty = 2 ↔ wrp = false := by cases wrp <;> simp [g]
    have hcode : (if wrp then 3 else 2 : BitVec 6).toNat = g.ty := by cases wrp <;> rfl
    have huse : bucketUse (getSite s m) g = (getSite s m).wrUse := if_neg hwr
    have htokens : TokensReady s m g := ⟨fun w hw => by simp [hfirst w hw, hwr], by rw [huse]; exact henough⟩
    have hcharge : charged (getSite s m) g = { getSite s m with wrUse := (getSite s m).wrUse + guestCost g } := if_neg hwr
    have hdo := doGuestMessage_hbm ho hvc hrange lim hwin hhbm hfree htokens
    obtain ⟨hrest, hsite, hbytes⟩ := guestMem_write_acked (m := m) (k := k) s (charged (getSite s m) g) hwr
    refine ⟨_, next_congr ((congrArg (doGuestMessage m · h mask data false lim s) hcode).trans hdo), hrest, hsite.trans hcharge,
      fun x => (hbytes x).trans ?_⟩
    simp only [hwhole]
    rfl
  case refused =>
    intro kind hwin hlimit
    have hdo := doGuestMessage_refused ho hvc ⟨le_rfl, Nat.le_of_ble_eq_true rfl⟩ lim hwin
    exact ⟨_, next_congr hdo, refused_below hlimit h _ _ _⟩

end Sys2Proof.Machine
end

section
/-! PROOF. A guest site's upkeep (R391, R394, R397, R403): the refill of its buckets and the writes of its window registers. -/

namespace Sys2Proof.Machine

variable {s : State} {m k : Nat}

/-! ### Tokens (R394, R397) -/

/-- With no message waiting the release is the refill. -/
theorem doGuestTokenRelease_idle (hup : s.up = true) (hin : guestIn s m = true) (us : Nat) (hidle : (getSite s m).waits = []) :
    doGuestTokenRelease m us s = refill s m us := by
  have hwaits : (getSite (refill s m us) m).waits = (getSite s m).waits := by rw [refill, getSite_setSite]
  have hnone : (getSite (refill s m us) m).waits.length = 0 := by rw [hwaits, hidle, List.length_nil]
  unfold doGuestTokenRelease
  simp only [hup, hin, Bool.and_self, if_true, hnone]
  rfl

theorem refill_sites (s : State) (m us : Nat) :
    refill s m us = { s with fabr := { s.fabr with sites := (refill s m us).fabr.sites } } := rfl

/-! ### Windows (R391, R403) -/

theorem guestOn_not_ignored (hup : s.up = true) (hin : guestIn s m = true) : ¬ (s.up = false ∨ guestIn s m = false) := by
  simp [hup, hin]

/-- VALID = 0 is always taken. -/
theorem doGuestWindowWrite_off (hup : s.up = true) (hin : guestIn s m = true) {v : Word} (hv : bit v 63 = false) :
    doGuestWindowWrite m k false v s = s.softWrite (rFwBase m k) v := by
  unfold doGuestWindowWrite
  refine (if_neg (guestOn_not_ignored hup hin)).trans (if_pos ?_)
  rw [hv]
  rfl

/-- Any other write goes by whether the window is valid, and VALID = 1 by what the window would cover. -/
theorem doGuestWindowWrite_checked (hup : s.up = true) (hin : guestIn s m = true) {size : Bool} {v : Word}
    (hv : size = true ∨ bit v 63 = true) :
    let t := s.softWrite (if size then rFwSize m k else rFwBase m k) v
    doGuestWindowWrite m k size v s =
      if winValid s m k = true ∨ (size = false ∧ winLegal t m k = false) then s.setRBit (rFwCtl m) 18 true else t := by
  have hon : ¬ (!size && !bit v 63) = true := by rcases hv with h | h <;> simp [h]
  unfold doGuestWindowWrite
  exact (if_neg (guestOn_not_ignored hup hin)).trans (if_neg hon)

theorem doGuestWindowWrite_valid (hup : s.up = true) (hin : guestIn s m = true) {size : Bool} {v : Word}
    (hv : size = true ∨ bit v 63 = true) (hvalid : winValid s m k = true) :
    doGuestWindowWrite m k size v s = s.setRBit (rFwCtl m) 18 true :=
  (doGuestWindowWrite_checked hup hin hv).trans (if_pos (.inl hvalid))

theorem doGuestWindowWrite_size (hup : s.up = true) (hin : guestIn s m = true) (v : Word) (hvalid : winValid s m k = false) :
    doGuestWindowWrite m k true v s = s.softWrite (rFwSize m k) v :=
  (doGuestWindowWrite_checked hup hin (.inl rfl)).trans (if_neg (by simp [hvalid]))

/-- VALID = 1 of an invalid window needs what R391 permits. -/
theorem doGuestWindowWrite_on (hup : s.up = true) (hin : guestIn s m = true) {v : Word} (hv : bit v 63 = true)
    (hvalid : winValid s m k = false) :
    let t := s.softWrite (rFwBase m k) v
    doGuestWindowWrite m k false v s = if winLegal t m k = true then t else s.setRBit (rFwCtl m) 18 true := by
  intro t
  refine (doGuestWindowWrite_checked hup hin (.inr hv)).trans ?_
  by_cases hlegal : winLegal t m k = true
  · exact (if_neg (by simp [hvalid, t, hlegal])).trans (if_pos hlegal).symm
  · exact (if_pos (.inr ⟨rfl, Bool.eq_false_iff.mpr hlegal⟩)).trans (if_neg hlegal).symm

/-- Settles O43: the refill with no message waiting, and each write of a window register by the equation for its case. -/
theorem guestUpkeep : Obligations.GuestUpkeep := by
  unfold Obligations.GuestUpkeep
  intro m s hup hin
  refine ⟨fun us hidle => ?refill, fun k v => ⟨fun hv => ?off, fun hvalid => ⟨?kept, fun hv => ?keptBase⟩,
    fun hvalid => ⟨?size, fun hv => ?on⟩⟩⟩
  case refill => exact ⟨_, next_congr (doGuestTokenRelease_idle hup hin us hidle), refill_sites s m us, getSite_setSite s m _⟩
  case off => exact next_congr (doGuestWindowWrite_off hup hin hv)
  case kept => exact next_congr (doGuestWindowWrite_valid hup hin (.inl rfl) hvalid)
  case keptBase => exact next_congr (doGuestWindowWrite_valid hup hin (.inr hv) hvalid)
  case size => exact next_congr (doGuestWindowWrite_size hup hin v hvalid)
  case on => exact next_congr (doGuestWindowWrite_on hup hin hv hvalid)

end Sys2Proof.Machine
end

section
/-! PROOF. Bridge modules (R373, R379, R387, R597): a retraining and its repair, a replay, and the end of a retraining. -/

namespace Sys2Proof.Machine

variable {s t u : State} {e m lane : Nat}

/-! ### The repair record and the lane maps of firmware -/

/-- The repair record aside, a write of it leaves the fabric as it was. -/
theorem repairWrite_fabr (s : State) (f : Repair → Repair) : (repairWrite s f).fabr =
    { s.fabr with repA := (repairWrite s f).fabr.repA, repB := (repairWrite s f).fabr.repB } := by
  unfold repairWrite
  dsimp only
  split <;> rfl

theorem repairOf_congr (ha : t.fabr.repA = s.fabr.repA) (hb : t.fabr.repB = s.fabr.repB) : repairOf t = repairOf s := by
  unfold repairOf
  rw [ha, hb]

/-- A map of lanes changes one register and takes one free value. -/
theorem firmwareMaps_only (l : List Nat) : ∀ s : State, l.foldl firmwareMap s =
    { s with regs := (l.foldl firmwareMap s).regs, fresh := (l.foldl firmwareMap s).fresh } := by
  induction l with
  | nil => exact fun s => rfl
  | cons r l ih =>
    intro s
    rw [List.foldl_cons, ih]
    rfl

/-! ### A retraining (R379, R387, R597) -/

/-- The module is in retraining on redundant lane `used`, and no replay of it is remembered. -/
def laneTaken (s : State) (e m used : Nat) : State :=
  let k := e * 8 + m
  setMod { s with fabr := { s.fabr with
    lanes := smSet 0 s.fabr.lanes k (used + 1), replays := smSet [] s.fabr.replays k [] } } e m 1

/-- The retraining is counted, the lane taken, and the maps of the edge hold what firmware makes of it. -/
def laneMapped (s : State) (e m used : Nat) : State :=
  (laneMaps e).foldl firmwareMap (laneTaken (cntInc s (0x2010 + e) 0 1) e m used)

/-- The word of the repair stands in the record too. -/
def laneRepaired (s : State) (e m lane used : Nat) : State :=
  repairWrite (laneMapped s e m used) fun r => { r with lanes := r.lanes ++ [laneWord e m lane (64 + used)] }

theorem modRetrain_free (hfree : smGet 0 s.fabr.lanes (e * 8 + m) < 4) (lane : Nat) :
    modRetrain s e m lane = errRecord (laneRepaired s e m lane (smGet 0 s.fabr.lanes (e * 8 + m)))
      { code := 0x0911, cls := 2, unit := 4, index := e * 8 + m, cause := lane } := by
  unfold modRetrain
  exact if_pos hfree

theorem laneMapped_fabr (s : State) (e m used : Nat) : (laneMapped s e m used).fabr = (laneTaken s e m used).fabr := by
  have hmaps := firmwareMaps_only (laneMaps e) (laneTaken (cntInc s (0x2010 + e) 0 1) e m used)
  have hcount := (cntInc_reported s (0x2010 + e) 0 1).rest
  rw [laneMapped, hmaps, hcount]
  rfl

theorem laneMapped_rest (s : State) (e m used : Nat) :
    let t := laneMapped s e m used
    t = { s with fabr := t.fabr, regs := t.regs, hub := t.hub, out := t.out, fresh := t.fresh } := by
  have hmaps := firmwareMaps_only (laneMaps e) (laneTaken (cntInc s (0x2010 + e) 0 1) e m used)
  have hcount := (cntInc_reported s (0x2010 + e) 0 1).rest
  intro t
  unfold t laneMapped
  rw [hmaps, hcount]
  rfl

theorem repairOf_laneRepaired (s : State) (e m lane used : Nat) : repairOf (laneRepaired s e m lane used) =
    { repairOf s with gen := (repairOf s).gen + 1, lanes := (repairOf s).lanes ++ [laneWord e m lane (64 + used)] } := by
  have hfabr := laneMapped_fabr s e m used
  have hsame : repairOf (laneMapped s e m used) = repairOf s := repairOf_congr (by rw [hfabr]; rfl) (by rw [hfabr]; rfl)
  rw [laneRepaired, repairOf_repairWrite, hsame]

theorem laneRepaired_fabr (s : State) (e m lane used : Nat) : (laneRepaired s e m lane used).fabr =
    { (laneTaken s e m used).fabr with
      repA := (laneRepaired s e m lane used).fabr.repA, repB := (laneRepaired s e m lane used).fabr.repB } := by
  rw [← laneMapped_fabr]
  exact repairWrite_fabr _ _

theorem laneRepaired_rest (s : State) (e m lane used : Nat) :
    let t := laneRepaired s e m lane used
    t = { s with fabr := t.fabr, regs := t.regs, hub := t.hub, out := t.out, fresh := t.fresh } := by
  intro t
  have hwrite : t = { laneMapped s e m used with fabr := t.fabr } := repairWrite_rest _ _
  rw [hwrite, laneMapped_rest]

/-- From `s` to `t` the module has gone into retraining on its next redundant lane in place of `lane`, and the record has the
repair: beside the fabric's state only registers, the hub's own state, messages sent and free values differ. -/
structure LaneRepaired (s t : State) (e m lane : Nat) : Prop where
  rest : t = { s with fabr := t.fabr, regs := t.regs, hub := t.hub, out := t.out, fresh := t.fresh }
  state : modState t e m = 1
  used : smGet 0 t.fabr.lanes (e * 8 + m) = smGet 0 s.fabr.lanes (e * 8 + m) + 1
  record : repairOf t = { repairOf s with
    gen := (repairOf s).gen + 1
    lanes := (repairOf s).lanes ++ [laneWord e m lane (64 + smGet 0 s.fabr.lanes (e * 8 + m))] }

/-- With a redundant lane left, a retraining is a repair. -/
theorem modRetrain_repaired (hfree : smGet 0 s.fabr.lanes (e * 8 + m) < 4) (lane : Nat) :
    LaneRepaired s (modRetrain s e m lane) e m lane := by
  rw [modRetrain_free hfree]
  have hrest := fun u r => (errRecord_reported u r).rest
  have hfabr : ∀ u r, (errRecord u r).fabr = u.fabr := fun u r => by rw [hrest]
  refine ⟨?rest, ?state, ?used, ?record⟩
  case rest => rw [hrest, laneRepaired_rest]
  case state =>
    rw [modState, hfabr, laneRepaired_fabr]
    exact smGet_smSet_same 0 s.fabr.mods _ 1
  case used =>
    rw [hfabr, laneRepaired_fabr]
    exact smGet_smSet_same 0 s.fabr.lanes (e * 8 + m) (smGet 0 s.fabr.lanes (e * 8 + m) + 1)
  case record =>
    rw [← repairOf_laneRepaired]
    exact repairOf_congr (by rw [hfabr]) (by rw [hfabr])

/-! ### A replay (R379) -/

/-- The replay is counted, and its time noted. -/
def replayNoted (s : State) (e m : Nat) : State :=
  let u := cntInc s (0x2000 + e) 0 1
  { u with fabr := { u.fabr with replays := smSet [] u.fabr.replays (e * 8 + m) (replayTimes s (e * 8 + m)) } }

theorem doBridgeFlitReplay_live (hlive : modLive s e m = true) (lane : Nat) : doBridgeFlitReplay e m lane s =
    if 16 < (replayTimes s (e * 8 + m)).length then modRetrain (replayNoted s e m) e m lane else replayNoted s e m := by
  unfold doBridgeFlitReplay
  exact if_pos hlive

theorem replayNoted_rest (s : State) (e m : Nat) :
    let u := replayNoted s e m
    u = { s with fabr := { s.fabr with replays := u.fabr.replays }, regs := u.regs, hub := u.hub, out := u.out } := by
  have hcount := (cntInc_reported s (0x2000 + e) 0 1).rest
  unfold replayNoted
  dsimp only
  rw [hcount]

theorem lanes_replayNoted (s : State) (e m : Nat) : (replayNoted s e m).fabr.lanes = s.fabr.lanes := by
  rw [replayNoted_rest]

/-- A repair after the replay is a repair. -/
theorem LaneRepaired.of_replay (h : LaneRepaired (replayNoted s e m) t e m lane) : LaneRepaired s t e m lane := by
  have hnoted := replayNoted_rest s e m
  obtain ⟨hrest, hstate, hused, hrecord⟩ := h
  have hsame : repairOf (replayNoted s e m) = repairOf s := repairOf_congr (by rw [hnoted]) (by rw [hnoted])
  rw [lanes_replayNoted] at hused
  rw [lanes_replayNoted, hsame] at hrecord
  exact ⟨by rw [hrest, hnoted], hstate, hused, hrecord⟩

/-! ### The obligation -/

theorem doBridgeModuleRetrain_live (hlive : modLive s e m = true) (lane : Nat) :
    doBridgeModuleRetrain e m lane s = modRetrain s e m lane := by
  unfold doBridgeModuleRetrain
  exact if_pos hlive

/-- Without a redundant lane the module leaves service (R387). -/
theorem modRetrain_exhausted (hused : 4 ≤ smGet 0 s.fabr.lanes (e * 8 + m)) (lane : Nat) :
    modRetrain s e m lane = modOut (cntInc s (0x2010 + e) 0 1) e m := by
  unfold modRetrain
  exact if_neg (Nat.not_lt.mpr hused)

theorem doModuleRetrainDone_training (htraining : modState s e m = 1) (ok : Bool) :
    doModuleRetrainDone e m ok s = if ok then setMod s e m 0 else modOut s e m := by
  unfold doModuleRetrainDone
  exact if_pos htraining

/-- Settles O41: a retraining with a redundant lane left is a `LaneRepaired`, also after the seventeenth replay; the other
cases are the equations of their functions. -/
theorem bridgeModules : Obligations.BridgeModules := by
  unfold Obligations.BridgeModules
  intro e m lane s key used repaired late
  have asRecorded : ∀ {t}, LaneRepaired s t e m lane.toNat → repaired t := fun h =>
    ⟨h.rest, h.state, h.used, congrArg Repair.gen h.record, congrArg Repair.lanes h.record⟩
  refine ⟨fun hlive hfree => ⟨?retrain, fun hmany => ?seventeenth⟩, fun hlive hused => ?exhausted, fun hlive hfew => ?replay,
    fun htraining => ⟨?done, ?failed⟩⟩
  case retrain =>
    exact ⟨_, next_congr (doBridgeModuleRetrain_live hlive _), asRecorded (modRetrain_repaired hfree _)⟩
  case seventeenth =>
    have hfree' : smGet 0 (replayNoted s e m).fabr.lanes (e * 8 + m) < 4 := by rwa [lanes_replayNoted]
    exact ⟨_, next_congr ((doBridgeFlitReplay_live hlive _).trans (if_pos hmany)),
      asRecorded (modRetrain_repaired hfree' _).of_replay⟩
  case exhausted =>
    exact ⟨_, cntInc_reported _ _ _ _, next_congr ((doBridgeModuleRetrain_live hlive _).trans (modRetrain_exhausted hused _))⟩
  case replay =>
    exact ⟨_, cntInc_reported _ _ _ _,
      next_congr ((doBridgeFlitReplay_live hlive _).trans (if_neg (Nat.not_lt.mpr hfew)))⟩
  case done =>
    exact ⟨_, next_congr (doModuleRetrainDone_training htraining true), rfl, smGet_smSet_same 0 s.fabr.mods _ 0,
      fun k hk => smGet_smSet_other 0 s.fabr.mods 0 hk⟩
  case failed => exact next_congr (doModuleRetrainDone_training htraining false)

end Sys2Proof.Machine
end

section
/-! SUPPORT. Words that are put together from fields (R18): each field is read back. -/

namespace Sys2Proof.Machine

theorem getLsbD_put (v lo i : Nat) : (put v lo).getLsbD i = (decide (i < 64) && (decide (lo ≤ i) && v.testBit (i - lo))) := by
  rw [put, BitVec.getLsbD_ofNat, Nat.testBit_shiftLeft]

theorem bits_or {n : Nat} (x y : BitVec n) (hi lo : Nat) : bits (x ||| y) hi lo = bits x hi lo ||| bits y hi lo := by
  refine Nat.eq_of_testBit_eq fun i => ?_
  rw [Nat.testBit_or, testBit_bits, testBit_bits, testBit_bits, BitVec.getLsbD_or, Bool.and_or_distrib_left]

theorem bit_or {n : Nat} (x y : BitVec n) (i : Nat) : bit (x ||| y) i = (bit x i || bit y i) := BitVec.getLsbD_or

/-- The field that a value is put in. -/
theorem bits_put_same (v : Nat) {hi lo : Nat} (h : lo + (hi - lo + 1) ≤ 64) : bits (put v lo) hi lo = v % 2 ^ (hi - lo + 1) := by
  refine Nat.eq_of_testBit_eq fun i => ?_
  rw [testBit_bits, getLsbD_put, Nat.testBit_mod_two_pow]
  by_cases hin : i < hi - lo + 1
  · have hword : lo + i < 64 := by omega
    simp [hin, hword]
  · simp [hin]

/-- A field above a value that is small enough. -/
theorem bits_put_above {v lo l2 : Nat} (hv : v < 2 ^ (l2 - lo)) (h2 : Nat) : bits (put v lo) h2 l2 = 0 := by
  refine Nat.eq_of_testBit_eq fun i => ?_
  rw [testBit_bits, getLsbD_put, Nat.zero_testBit]
  have hhigh : v.testBit (l2 + i - lo) = false :=
    Nat.testBit_lt_two_pow (lt_of_lt_of_le hv (Nat.pow_le_pow_right (by decide) (by omega)))
  rw [hhigh, Bool.and_false, Bool.and_false, Bool.and_false]

/-- A field below a value. -/
theorem bits_put_below (v : Nat) {lo h2 l2 : Nat} (h : l2 + (h2 - l2 + 1) ≤ lo) : bits (put v lo) h2 l2 = 0 := by
  refine Nat.eq_of_testBit_eq fun i => ?_
  rw [testBit_bits, getLsbD_put, Nat.zero_testBit]
  by_cases hin : i < h2 - l2 + 1
  · have hlow : ¬ lo ≤ l2 + i := by omega
    simp [hlow]
  · simp [hin]

end Sys2Proof.Machine
end

section
/-! PROOF. The Accord messages of a collective (R421, R428, R430, R434, R437, R440). -/

namespace Sys2Proof.Machine

variable {s : State} {m : AccMsg} {c d : Coll} {f : InFlight} {p k : Nat}

/-- A message for a rank that is none of ours goes on (R421). -/
theorem accMessage_elsewhere (hgroup : groupFor s m.h.gid.toNat m.h.dstRank.toNat = none) :
    accMessage s m = accForward s none m.ty m.h m.data := by
  unfold accMessage
  rw [hgroup]

/-- A message that no collective takes yet waits (R434). -/
theorem accMessage_waits (hgroup : groupFor s m.h.gid.toNat m.h.dstRank.toNat = some (p, k)) (hnone : collFor s p k m = none) :
    accMessage s m = { s with acc := { s.acc with early := s.acc.early ++ [m] } } := by
  unfold accMessage
  rw [hgroup]
  dsimp only
  rw [hnone]

/-- A message that a collective takes is delivered to it; an HDR lets in what waited behind it (R430). -/
theorem accMessage_taken (hgroup : groupFor s m.h.gid.toNat m.h.dstRank.toNat = some (p, k)) (htakes : collFor s p k m = some c) :
    accMessage s m = if m.ty = 8 then
      replayEarly (collAt c) c.iseq (collDeliver s c m).acc.early.length (collDeliver s c m) else collDeliver s c m := by
  unfold accMessage
  rw [hgroup]
  dsimp only
  rw [htakes]

/-- A message that changes its collective lets it go on. -/
theorem collDeliver_ok (hflight : findFlight (strmAt s (collAt c)) c.iseq = some f) (hmsg : collMsg c f m = .ok d) :
    collDeliver s c m = collGo (setColl s d) (collAt c) c.iseq := by
  unfold collDeliver
  dsimp only
  rw [hflight]
  dsimp only
  rw [hmsg]

/-- A message that fails its collective. -/
theorem collDeliver_error {cause : Nat} (hflight : findFlight (strmAt s (collAt c)) c.iseq = some f)
    (hmsg : collMsg c f m = .error cause) : collDeliver s c m = collFail s c cause m.h.srcRank.toNat 0x3F := by
  unfold collDeliver
  dsimp only
  rw [hflight]
  dsimp only
  rw [hmsg]

/-- A message that changes the collective that takes it, and is no HDR. -/
theorem accMessage_reaches (hgroup : groupFor s m.h.gid.toNat m.h.dstRank.toNat = some (p, k)) (hty : m.ty ≠ 8)
    (htakes : collFor s p k m = some c) (hflight : findFlight (strmAt s (collAt c)) c.iseq = some f)
    (hmsg : collMsg c f m = .ok d) : accMessage s m = collGo (setColl s d) (collAt c) c.iseq := by
  rw [accMessage_taken hgroup htakes, if_neg hty, collDeliver_ok hflight hmsg]

/-! ### Granules of a norm record -/

/-- Three digits of a number spell it. -/
theorem three_digits {b n : Nat} (h : n < b ^ 3) : n % b + n / b % b * b + n / b ^ 2 % b * b ^ 2 = n := by
  have hhigh : n / b ^ 2 < b := Nat.div_lt_of_lt_mul (by rwa [← pow_succ])
  calc n % b + n / b % b * b + n / b ^ 2 % b * b ^ 2 = n % b + b * (n / b % b + b * (n / b / b)) := by
        rw [Nat.mod_eq_of_lt hhigh, Nat.div_div_eq_div_mul, ← pow_two]
        ring
    _ = n := by rw [Nat.mod_add_div, Nat.mod_add_div]

/-- Granule `i` of a word is its digit of 128 bits. -/
theorem bits_granule {n : Nat} (r : BitVec n) (i : Nat) : bits r (128 * i + 127) (128 * i) = r.toNat / (2 ^ 128) ^ i % 2 ^ 128 := by
  have hwidth : 128 * i + 127 - 128 * i + 1 = 128 := by omega
  rw [bits, Nat.shiftRight_eq_div_pow, hwidth, pow_mul]

theorem toNat_lt_pow_pow {n m i : Nat} (r : BitVec n) (hn : n = m * i) : r.toNat < (2 ^ m) ^ i := by
  rw [← pow_mul, ← hn]
  exact r.isLt

/-- The number that granules spell, as `collMsg` puts them together. -/
theorem spell_three (b x y z : Nat) (hx : x < b) (hy : y < b) (hz : z < b)  (e : Nat → Nat) (he : ∀ i, e i = b ^ i) :
    (([x, y, z].zip (List.range 3)).foldl (fun n q => n + q.1 % b * e q.2) 0) = x + y * b + z * b ^ 2 := by
  have hrange : List.range 3 = [0, 1, 2] := rfl
  simp only [hrange, List.zip_cons_cons, List.zip_nil_right, List.foldl_cons, List.foldl_nil, he, Nat.mod_eq_of_lt, hx, hy, hz,
    Nat.zero_add, pow_zero, pow_one, Nat.mul_one]

/-- The three granules of a norm record spell it again (R440). -/
theorem granules_spell (rec : BitVec 384) :
    (([bits rec 127 0, bits rec 255 128, bits rec 383 256].zip (List.range 3)).foldl
      (fun n q => n + q.1 % 2 ^ 128 * 2 ^ (128 * q.2)) 0) = rec.toNat := by
  have hrec : rec.toNat < (2 ^ 128) ^ 3 := toNat_lt_pow_pow rec rfl
  have hlt : ∀ i, bits rec (128 * i + 127) (128 * i) < 2 ^ 128 := fun i => bits_granule rec i ▸ Nat.mod_lt _ (Nat.two_pow_pos _)
  have h0 := bits_granule rec 0
  have h1 := bits_granule rec 1
  have h2 := bits_granule rec 2
  refine (spell_three (2 ^ 128) _ _ _ (hlt 0) (hlt 1) (hlt 2) (fun i => 2 ^ (128 * i)) fun i => pow_mul _ _ _).trans ?_
  rw [h0, h1, h2, pow_zero, pow_one, Nat.div_one]
  exact three_digits hrec
/-! ### The obligation -/

/-- Settles O39: each message is an `accMessage` of its type, and `collMsg` says what that type does to its collective. -/
theorem collectiveMessages : Obligations.CollectiveMessages := by
  unfold Obligations.CollectiveMessages
  intro h s group src
  refine ⟨fun hnone => ?elsewhere, fun p k hsome => ?ours⟩
  case elsewhere =>
    have forwards : ∀ m : AccMsg, m.h = h → accMessage s m = accForward s none m.ty h m.data := fun m hm => by
      rw [accMessage_elsewhere (hm ▸ hnone), hm]
    exact ⟨fun data => next_congr (forwards ⟨1, h, _, none⟩ rfl), next_congr (forwards ⟨2, h, [], none⟩ rfl),
      next_congr (forwards ⟨9, h, [], none⟩ rfl), fun d => next_congr (forwards ⟨8, h, _, some d⟩ rfl),
      fun rec => next_congr (forwards ⟨5, h, _, none⟩ rfl)⟩
  case ours =>
    intro waits goes reaches
    have waiting : ∀ {i : Instr} (m : AccMsg), exec i s = .next (accMessage s m) → m.h = h → waits i m := fun m hi hm hwait => by
      rw [hi, accMessage_waits (hm ▸ hsome) hwait]
    have reaching : ∀ {i : Instr} {d : Coll → Coll} (m : AccMsg), exec i s = .next (accMessage s m) → m.h = h → m.ty ≠ 8 →
        (∀ c f, collMsg c f m = .ok (d c)) → reaches i m d := fun m hi hm hty hmsg c f htakes hflight => by
      rw [hi, accMessage_reaches (hm ▸ hsome) hty htakes hflight (hmsg c f)]
    refine ⟨fun data => ?data, ?done, ?grant, fun rec => ?nrec, fun d => ?hdr⟩
    case data =>
      intro m
      exact ⟨waiting m rfl rfl, reaching m rfl rfl (show 1 ≠ 8 by decide) fun _ _ => rfl⟩
    case done =>
      intro m
      exact ⟨waiting m rfl rfl, reaching m rfl rfl (show 2 ≠ 8 by decide) fun _ _ => rfl⟩
    case grant =>
      intro m
      exact ⟨waiting m rfl rfl, reaching m rfl rfl (show 9 ≠ 8 by decide) fun _ _ => rfl⟩
    case nrec =>
      intro m
      refine ⟨waiting m rfl rfl, reaching m rfl rfl (show 5 ≠ 8 by decide) fun c f => ?_⟩
      rw [← granules_spell rec]
      rfl
    case hdr =>
      intro m
      refine ⟨waiting m rfl rfl, fun c f htakes hflight => ?_⟩
      have hdeliver : collDeliver s c m = if d = collDigest c f then goes c { c with hdrs := c.hdrs ++ [src] }
          else collFail s c 3 src 0x3F := by
        by_cases hsame : d = collDigest c f
        · rw [if_pos hsame]
          exact collDeliver_ok hflight (if_pos (congrArg some hsame))
        · rw [if_neg hsame]
          exact collDeliver_error hflight (if_neg fun hd => hsame (Option.some.inj hd))
      rw [← hdeliver]
      exact next_congr ((accMessage_taken (m := m) hsome htakes).trans (if_pos rfl))

end Sys2Proof.Machine
end

section
/-! PROOF. Replica fingerprints and block CRCs (R442, R443, R457). -/

namespace Sys2Proof.Machine

variable {s : State} {p k : Nat} {x y : FpRec}

/-! ### Fingerprints (R442) -/

/-- A fingerprint is held while the rank has room for it. -/
theorem fpHold_room (hroom : (s.acc.held.filter fun y => decide (y.part = x.part)).length < 4096) :
    fpHold s x = { s with acc := { s.acc with held := s.acc.held ++ [x] } } := by
  unfold fpHold
  rw [if_pos hroom]

/-- A fingerprint without its pair is held. -/
theorem fpMeet_alone (hnone : s.acc.held.find? (fpSame x) = none) : fpMeet s k x = fpHold s x := by
  unfold fpMeet
  rw [hnone]

/-- The check that a pair of fingerprints makes: the held one goes, and counter 0x1B counts. -/
def pairChecked (s : State) (x : FpRec) : State :=
  cntInc { s with acc := { s.acc with held := dropFirst (fpSame x) s.acc.held } } 0x001B x.part 1

/-- An equal pair is a check that passes. -/
theorem fpMeet_equal (hpair : s.acc.held.find? (fpSame x) = some y) (hfp : x.fp = y.fp) : fpMeet s k x = pairChecked s x := by
  unfold fpMeet
  rw [hpair]
  exact if_pos hfp

/-- The predecessor's fingerprint differs from ours: the block CRCs go to the predecessor (R443). -/
theorem fpMeet_differs (hpair : s.acc.held.find? (fpSame x) = some y) (hfp : x.fp ≠ y.fp) (hown : x.own = false) :
    fpMeet s k x = sendBlkx { pairChecked s x with acc := { (pairChecked s x).acc with
      wrong := (pairChecked s x).acc.wrong ++ [({ y with rank := x.rank }, [])] } } x.part k x.rank y := by
  unfold fpMeet
  rw [hpair]
  dsimp only
  rw [if_neg hfp, hown]
  rfl

/-- FPX is the predecessor's fingerprint at the group that it names. -/
theorem doFpx_ours {h : AccHdr} (hgroup : groupFor s h.gid.toNat h.dstRank.toNat = some (p, k)) (tid : BitVec 32)
    (gstep fp : BitVec 64) :
    doFpx h tid gstep fp s = fpMeet s k ⟨p, false, h.srcRank.toNat, tid.toNat, gstep.toNat, fp, []⟩ := by
  unfold doFpx
  rw [hgroup]

/-- FPX for another rank goes on (R421). -/
theorem doFpx_elsewhere {h : AccHdr} (hgroup : groupFor s h.gid.toNat h.dstRank.toNat = none) (tid : BitVec 32)
    (gstep fp : BitVec 64) :
    doFpx h tid gstep fp s = accForward s none 6 h [fpxNat tid.toNat gstep.toNat fp.toNat] := by
  unfold doFpx
  rw [hgroup]

/-! ### Block CRCs (R443) -/

/-- The fingerprint is that of a tensor and a step of which BLKX carries the low 32 bits. -/
def blkxOf (p : Nat) (tid : BitVec 32) (gstep : BitVec 64) (y : FpRec) : Bool :=
  decide (y.part = p) && decide (y.tid = tid.toNat) && decide (y.gstep % 2 ^ 32 = gstep.toNat % 2 ^ 32)

theorem modWhere_self {α : Type} [DecidableEq α] (a : α) (f : α → α) (l : List α) :
    modWhere (fun b => b = a) f l = l.map fun b => if b = a then f a else b := by
  refine List.map_congr_left fun b _ => ?_
  by_cases h : b = a
  · simp [h]
  · simp [h]

/-- The mismatch that the CRCs of rank `rank` belong to. -/
def openMismatch (s : State) (p : Nat) (tid : BitVec 32) (gstep : BitVec 64) (rank : Nat) : Option (FpRec × List Half) :=
  s.acc.wrong.find? fun z => blkxOf p tid gstep z.1 && decide (z.1.rank = rank)

/-- The comparison of mismatch `z` has ended. -/
def mismatchClosed (s : State) (z : FpRec × List Half) : State :=
  { s with acc := { s.acc with wrong := dropFirst (fun y => y = z) s.acc.wrong } }

section Blkx

variable {h : AccHdr} {tid : BitVec 32} {gstep : BitVec 64} {z : FpRec × List Half} (crcs : List Half)

/-- BLKX for another rank goes on (R421). -/
theorem doBlkx_elsewhere (hgroup : groupFor s h.gid.toNat h.dstRank.toNat = none) :
    doBlkx h tid gstep crcs s = accForward s none 7 h (blkxGrans tid.toNat gstep.toNat crcs) := by
  unfold doBlkx
  rw [hgroup]

/-- The successor's first CRCs are answered with our own. -/
theorem doBlkx_answered (hgroup : groupFor s h.gid.toNat h.dstRank.toNat = some (p, k))
    (hnone : openMismatch s p tid gstep h.srcRank.toNat = none) (hlast : s.acc.last.find? (blkxOf p tid gstep) = some y) :
    doBlkx h tid gstep crcs s = if h.offset = 0 then sendBlkx s p k h.srcRank.toNat y else s := by
  unfold openMismatch blkxOf at hnone
  unfold blkxOf at hlast
  unfold doBlkx
  rw [hgroup]
  dsimp only
  rw [hnone]
  dsimp only
  rw [hlast]

/-- The predecessor's CRCs join those that have come, or end the comparison. -/
theorem doBlkx_compared (hgroup : groupFor s h.gid.toNat h.dstRank.toNat = some (p, k))
    (hopen : openMismatch s p tid gstep h.srcRank.toNat = some z) :
    doBlkx h tid gstep crcs s = if (z.2 ++ crcs).length < z.1.crcs.length then
      { s with acc := { s.acc with wrong := modWhere (fun y => y = z) (fun y => (y.1, z.2 ++ crcs)) s.acc.wrong } }
    else fpMismatch (mismatchClosed s z) p k z.1
      (firstDiff z.1.crcs ((z.2 ++ crcs).take z.1.crcs.length)) := by
  unfold openMismatch blkxOf at hopen
  unfold doBlkx
  rw [hgroup]
  dsimp only
  rw [hopen]
  rfl

/-- The tensor of an open mismatch is that of the message, whose number has 32 bits. -/
theorem openMismatch_tid {rank : Nat} (hopen : openMismatch s p tid gstep rank = some z) : z.1.tid = tid.toNat := by
  have hz := List.find?_some hopen
  simp only [blkxOf, Bool.and_eq_true, decide_eq_true_eq] at hz
  exact hz.1.1.2

end Blkx

/-! ### The end of a comparison (R443, R457) -/

/-- The mismatch of a tensor that no captured one precedes (Table 10.23). -/
theorem fpMismatch_free (hfree : s.rbit (rFpmisRanks (leadDie s p)) 63 = false) (blk : Nat) :
    ∃ u, Reported s u ∧ fpMismatch s p k x blk =
      ((u.setReg (rFpmisId (leadDie s p)) (put x.tid 0 ||| put blk 32)).setReg (rFpmisRanks (leadDie s p))
        (put (gMy (grpRec u p k)) 0 ||| put x.rank 12 ||| put p 24 ||| put 1 63)).setReg (rFpmisStep (leadDie s p))
          (put x.gstep 0) := by
  unfold fpMismatch
  extract_lets d u
  have hreport : Reported s u := event0_reported _ _ _ _ _
  have habove : 0x200000006000 ≤ rFpmisRanks d := by unfold rFpmisRanks accR; omega
  have hfree' : ¬ u.rbit (rFpmisRanks d) 63 = true := by rw [rbit_of_reg (hreport.reg_above habove), hfree]; decide
  exact ⟨u, hreport, if_neg hfree'⟩

theorem rFpmisId_ne_ranks (d : Nat) : rFpmisId d ≠ rFpmisRanks d := by unfold rFpmisId rFpmisRanks accR; omega
theorem rFpmisId_ne_step (d : Nat) : rFpmisId d ≠ rFpmisStep d := by unfold rFpmisId rFpmisStep accR; omega
theorem rFpmisRanks_ne_step (d : Nat) : rFpmisRanks d ≠ rFpmisStep d := by unfold rFpmisRanks rFpmisStep accR; omega

/-- A mismatch reported while no earlier one is captured: VALID is set, and the block stands beside the tensor. -/
theorem fpMismatch_captured (hfree : s.rbit (rFpmisRanks (leadDie s p)) 63 = false) (htid : x.tid < 2 ^ 32) (blk : Nat) :
    let t := fpMismatch s p k x blk
    t = { s with regs := t.regs, hub := t.hub, out := t.out } ∧ t.rbit (rFpmisRanks (leadDie s p)) 63 = true ∧
      t.fld (rFpmisId (leadDie s p)) 63 32 = blk % 2 ^ 32 := by
  intro t
  obtain ⟨u, hreport, ht⟩ : ∃ u, Reported s u ∧ t = _ := fpMismatch_free hfree blk
  rw [ht]
  refine ⟨?rest, ?valid, ?block⟩
  case rest =>
    have hu : HubOnly s u := hreport.rest
    exact ((hu.trans (setReg_hubOnly _ _ _)).trans (setReg_hubOnly _ _ _)).trans (setReg_hubOnly _ _ _)
  case valid =>
    rw [State.rbit, reg_setReg_other _ (rFpmisRanks_ne_step _), reg_setReg, if_pos rfl]
    simp only [bit_or, Bool.or_eq_true]
    exact .inr (by decide)
  case block =>
    rw [State.fld, reg_setReg_other _ (rFpmisId_ne_step _), reg_setReg_other _ (rFpmisId_ne_ranks _), reg_setReg, if_pos rfl,
      bits_or, bits_put_above htid, bits_put_same _ (by decide), Nat.zero_or]

/-! ### The obligation -/

/-- Settles O40: FPX is `fpMeet` at the group that it names, BLKX a comparison with the mismatch or the last check of its tensor. -/
theorem fingerprintMessages : Obligations.FingerprintMessages := by
  unfold Obligations.FingerprintMessages
  intro h tid gstep fp crcs s
  refine ⟨fun hnone => ⟨next_congr (doFpx_elsewhere hnone _ _ _), next_congr (doBlkx_elsewhere _ hnone)⟩, fun p k hgroup => ?ours⟩
  case ours =>
    intro x
    have hfpx := doFpx_ours hgroup tid gstep fp
    refine ⟨fun hnone hroom => ?held, fun y hpair => ?paired, ?blkx⟩
    case held => exact next_congr (hfpx.trans ((fpMeet_alone hnone).trans (fpHold_room hroom)))
    case paired =>
      exact ⟨pairChecked s x, cntInc_reported _ _ _ _,
        fun heq => next_congr (hfpx.trans (fpMeet_equal hpair heq.symm)),
        fun hne => next_congr (hfpx.trans (fpMeet_differs hpair (Ne.symm hne) rfl))⟩
    case blkx =>
      intro mine open_
      refine ⟨fun y hnone hlast => next_congr (doBlkx_answered _ hgroup hnone hlast), fun z hopen => ?_⟩
      intro got
      have hblkx := doBlkx_compared crcs hgroup hopen
      refine ⟨fun hfew => ?more, fun hall hfree => ?ended⟩
      case more =>
        rw [if_pos hfew] at hblkx
        rw [modWhere_self] at hblkx
        exact next_congr hblkx
      case ended =>
        rw [if_neg (Nat.not_lt.mpr hall)] at hblkx
        have htid : z.1.tid < 2 ^ 32 := openMismatch_tid hopen ▸ tid.isLt
        obtain ⟨hrest, hvalid, hblk⟩ := fpMismatch_captured (s := mismatchClosed s z) (k := k) hfree htid
          (firstDiff z.1.crcs (got.take z.1.crcs.length))
        have hwrong := congrArg (fun t : State => t.acc.wrong) hrest
        refine ⟨_, next_congr hblkx, hwrong, ?_, hvalid, hblk⟩
        rw [hwrong]
        exact hrest

end Sys2Proof.Machine
end

section
/-! SUPPORT. Records of collective groups (Table 10.8): where they lie, what writing a field of word 7 leaves, and what reporting
leaves of them. -/

namespace Sys2Proof.Machine

variable {s t u : State} {p k hi lo v : Nat}

/-! ### Where group tables lie -/

/-- The registers that say where the groups of every partition lie: its clusters, and the group table of its lead die. -/
structure SameTables (s t : State) : Prop where
  masks : ∀ p, p < 16 → t.reg (rPartClu p) = s.reg (rPartClu p)
  tables : ∀ d p, d < 8 → p < 16 → t.reg (rGtab d p) = s.reg (rGtab d p)

theorem SameTables.refl (s : State) : SameTables s s := ⟨fun _ _ => rfl, fun _ _ _ _ => rfl⟩

theorem SameTables.trans (h : SameTables s t) (g : SameTables t u) : SameTables s u :=
  ⟨fun p hp => (g.masks p hp).trans (h.masks p hp), fun d p hd hp => (g.tables d p hd hp).trans (h.tables d p hd hp)⟩

theorem SameTables.of_regs (h : t.regs = s.regs) : SameTables s t :=
  ⟨fun p _ => reg_congr h (rPartClu p), fun d p _ _ => reg_congr h (rGtab d p)⟩

theorem SameTables.setReg (s : State) {a : Nat} (hmask : ∀ p, p < 16 → a ≠ rPartClu p) (htable : ∀ d p, d < 8 → p < 16 → a ≠ rGtab d p)
    (w : Word) : SameTables s (s.setReg a w) :=
  ⟨fun p hp => reg_setReg_other s (hmask p hp).symm w, fun d p hd hp => reg_setReg_other s (htable d p hd hp).symm w⟩

theorem Reported.sameTables (h : Reported s t) : SameTables s t := by
  refine ⟨fun p hp => h.steady.regs _ (standing_partClu hp), fun d p _ _ => h.reg_above ?_⟩
  unfold rGtab accR
  omega

theorem OnlyMemory.sameTables (h : OnlyMemory s t) : SameTables s t := .of_regs (by rw [h])

/-- Eight dies hold the clusters. -/
theorem leadDie_lt (s : State) (p : Nat) : leadDie s p < 8 := by
  have hlead : leadCluster s p < 32 := by
    unfold leadCluster
    cases hc : partClusters s p with
    | nil => decide
    | cons c cs =>
      have hmem : c ∈ partClusters s p := hc ▸ List.mem_cons_self
      exact List.mem_range.mp (List.mem_filter.mp hmem).1
  unfold leadDie
  omega

theorem SameTables.leadDie (h : SameTables s t) (hp : p < 16) : leadDie t p = leadDie s p := by
  unfold Machine.leadDie leadCluster partClusters State.rbit
  rw [h.masks p hp]

theorem SameTables.gtab (h : SameTables s t) (hp : p < 16) :
    t.reg (rGtab (Machine.leadDie t p) p) = s.reg (rGtab (Machine.leadDie s p) p) := by
  rw [h.leadDie hp, h.tables _ p (leadDie_lt s p) hp]

theorem SameTables.gtabCount (h : SameTables s t) (hp : p < 16) : gtabCount t p = gtabCount s p := by
  unfold Machine.gtabCount State.fld
  rw [h.gtab hp]

theorem SameTables.grpAddr (h : SameTables s t) (hp : p < 16) (k : Nat) : grpAddr t p k = grpAddr s p k := by
  unfold Machine.grpAddr State.fld
  rw [h.gtab hp]

/-- With the same bytes beside, every record is the same. -/
theorem SameTables.grpRec (h : SameTables s t) (hbytes : readByte t = readByte s) (hp : p < 16) (k : Nat) :
    grpRec t p k = grpRec s p k := by
  unfold Machine.grpRec readNat readBytes
  rw [h.grpAddr hp, hbytes]

theorem SameTables.allGroups (h : SameTables s t) : allGroups t = allGroups s := by
  unfold Machine.allGroups
  exact List.flatMap_congr fun p hp => by rw [h.gtabCount (List.mem_range.mp hp)]

theorem mem_allGroups {q : Nat × Nat} (h : q ∈ allGroups s) : q.1 < 16 := by
  simp only [allGroups, List.mem_flatMap, List.mem_map, List.mem_range] at h
  obtain ⟨p, hp, k, -, rfl⟩ := h
  exact hp

/-! ### Numbers read from memory -/

theorem testBit_readNat (s : State) (a : Nat) {n i : Nat} (h : i < 8 * n) :
    (readNat s a n).testBit i = (readByte s (a + i / 8)).getLsbD (i % 8) := by
  rw [readNat, leNat_testBit, readBytes_getD s a (by omega)]

/-- Word 7 of a group's record. -/
def grpW7 (s : State) (p k : Nat) : Word := BitVec.ofNat 64 (readNat s (grpAddr s p k + 56) 8)

theorem getLsbD_grpRec (s : State) (p k : Nat) {i : Nat} (h : i < 512) :
    (grpRec s p k).getLsbD i = (readByte s (grpAddr s p k + i / 8)).getLsbD (i % 8) := by
  rw [grpRec, BitVec.getLsbD_ofNat, testBit_readNat s _ h, decide_eq_true h, Bool.true_and]

theorem getLsbD_grpW7 (s : State) (p k : Nat) {i : Nat} (h : i < 64) :
    (grpW7 s p k).getLsbD i = (readByte s (grpAddr s p k + 56 + i / 8)).getLsbD (i % 8) := by
  rw [grpW7, BitVec.getLsbD_ofNat, testBit_readNat s _ h, decide_eq_true h, Bool.true_and]

/-- A field of word 7 is one of the record. -/
theorem pgF_grpRec_word7 (s : State) (p k : Nat) (hlo : lo ≤ hi) (hhi : hi < 64) :
    pgF (grpRec s p k) 7 hi lo = bits (grpW7 s p k) hi lo := by
  refine Nat.eq_of_testBit_eq fun i => ?_
  have hwidth : 64 * 7 + hi - (64 * 7 + lo) = hi - lo := by omega
  rw [pgF, testBit_bits, testBit_bits, hwidth]
  by_cases hin : i < hi - lo + 1
  · have hbyte : (64 * 7 + lo + i) / 8 = 56 + (lo + i) / 8 := by omega
    have hbit : (64 * 7 + lo + i) % 8 = (lo + i) % 8 := by omega
    rw [getLsbD_grpRec s p k (by omega), getLsbD_grpW7 s p k (by omega), hbyte, hbit, Nat.add_assoc]
  · simp [hin]

/-- Fields of word 0 follow from the bytes below word 7. -/
theorem pgF_grpRec_word0 (hat : grpAddr t p k = grpAddr s p k)
    (hbytes : ∀ x, x < grpAddr s p k + 56 → readByte t x = readByte s x) (hlo : lo ≤ hi) (hhi : hi < 64) :
    pgF (grpRec t p k) 0 hi lo = pgF (grpRec s p k) 0 hi lo := by
  refine Nat.eq_of_testBit_eq fun i => ?_
  rw [pgF, pgF, testBit_bits, testBit_bits]
  by_cases hin : i < 64 * 0 + hi - (64 * 0 + lo) + 1
  · rw [getLsbD_grpRec t p k (by omega), getLsbD_grpRec s p k (by omega), hat, hbytes _ (by omega)]
  · rw [decide_eq_false hin, Bool.false_and, Bool.false_and]

/-! ### Word 7 written -/

/-- Beside the bytes of word 7 of a group's record, which then holds `w`, no byte reads differently and nothing but memory
has changed. -/
structure WordSet (s t : State) (p k : Nat) (w : Word) : Prop where
  only : OnlyMemory s t
  rest : ∀ x, (x < grpAddr s p k + 56 ∨ grpAddr s p k + 56 + 8 ≤ x) → readByte t x = readByte s x
  word : ∀ j, j < 8 → readByte t (grpAddr s p k + 56 + j) = w.extractLsb' (8 * j) 8

theorem OnlyMemory.grpAddr (h : OnlyMemory s t) (p k : Nat) : grpAddr t p k = grpAddr s p k := by
  rw [h]
  rfl

theorem setW7_wordSet (s : State) (p k hi lo v : Nat) :
    WordSet s (setW7 s p k hi lo v) p k (setBits (grpW7 s p k) hi lo v) := by
  refine ⟨writeBytes_only _ _ _ _, fun x hx => ?_, fun j hj => ?_⟩
  · rw [setW7, readByte_writeBytes, leBytes_length, if_neg (by omega)]
  · rw [setW7, readByte_writeBytes, leBytes_length, if_pos (by omega), Nat.add_sub_cancel_left, leBytes_word _ hj]
    rfl

theorem WordSet.grpW7 {w : Word} (h : WordSet s t p k w) : grpW7 t p k = w := by
  refine BitVec.eq_of_getLsbD_eq fun i hi => ?_
  have hbyte : i / 8 < 8 := by omega
  have hbit : 8 * (i / 8) + i % 8 = i := by omega
  rw [getLsbD_grpW7 t p k hi, h.only.grpAddr, h.word _ hbyte, BitVec.getLsbD_extractLsb', hbit,
    decide_eq_true (Nat.mod_lt i (by decide)), Bool.true_and]

/-- A second field of the word written. -/
theorem WordSet.setW7 {w : Word} (h : WordSet s t p k w) (hi lo v : Nat) :
    WordSet s (setW7 t p k hi lo v) p k (setBits w hi lo v) := by
  obtain ⟨only, rest, word⟩ := setW7_wordSet t p k hi lo v
  rw [h.only.grpAddr] at rest word
  rw [h.grpW7] at word
  exact ⟨h.only.trans only, fun x hx => (rest x hx).trans (h.rest x hx), word⟩

theorem WordSet.field7 {w : Word} (h : WordSet s t p k w) (hlo : lo ≤ hi) (hhi : hi < 64) :
    pgF (grpRec t p k) 7 hi lo = bits w hi lo := by rw [pgF_grpRec_word7 t p k hlo hhi, h.grpW7]

theorem WordSet.field0 {w : Word} (h : WordSet s t p k w) (hlo : lo ≤ hi) (hhi : hi < 64) :
    pgF (grpRec t p k) 0 hi lo = pgF (grpRec s p k) 0 hi lo :=
  pgF_grpRec_word0 (h.only.grpAddr p k) (fun x hx => h.rest x (.inl hx)) hlo hhi

/-! ### Records of groups reported -/

/-- While the recorder is off a MEMBER record leaves no trace: a replay keeps none (R508, R514). -/
theorem slgMember_off (hoff : slgOn s p = false) (k : Nat) : slgMember s p k = s := by
  have hsee : ∀ r : SlgRec, r.ty = 0x20 → replaySee s p r = s := fun r hr => by
    unfold replaySee
    split
    · exact if_neg fun ⟨_, hty⟩ => by omega
    · rfl
  unfold slgMember slgWrite
  rw [hsee _ rfl]
  exact if_pos hoff

theorem HubOnly.readByte (h : HubOnly s t) : readByte t = readByte s := by
  unfold HubOnly at h
  exact readByte_congr (by rw [h]) (by rw [h])

theorem Reported.slgOn (h : Reported s t) (hp : p < 16) : slgOn t p = slgOn s p := by
  refine rbit_of_reg (h.regs _ ?_ ?_ fun k hk => ?_) 0
  · unfold rSlgCtl rEvtCtl hubR
    omega
  · unfold rSlgCtl rEvtStat hubR
    omega
  · unfold rSlgCtl rThrSel hubR
    omega

/-- A change of a group of a partition whose recorder is off: word 7 of its record holds `w`, and beside memory nothing but
registers, the hub and what is sent has changed, none of which says where groups lie. -/
structure GroupSet (s t : State) (p k : Nat) (w : Word) : Prop where
  state : t = { s with mem := t.mem, ent := t.ent, cache := t.cache, regs := t.regs, hub := t.hub, out := t.out }
  rest : ∀ x, (x < grpAddr s p k + 56 ∨ grpAddr s p k + 56 + 8 ≤ x) → readByte t x = readByte s x
  field7 : ∀ hi lo, lo ≤ hi → hi < 64 → pgF (grpRec t p k) 7 hi lo = bits w hi lo

/-- An event and a MEMBER record after the word is written. -/
theorem WordSet.reported {w : Word} (h : WordSet s t p k w) (hp : p < 16) (hoff : slgOn s p = false) (code die : Nat)
    (part : Option Nat) (pay : List Word) : GroupSet s (slgMember (event0 t code die part pay) p k) p k w := by
  have hreport : Reported t (event0 t code die part pay) := event0_reported _ _ _ _ _
  have hoff' : slgOn (event0 t code die part pay) p = false := by
    rw [hreport.slgOn hp, h.only]
    exact hoff
  rw [slgMember_off hoff']
  have hhub : HubOnly t (event0 t code die part pay) := hreport.rest
  refine ⟨?_, fun x hx => ?_, fun hi lo hlo hhi => ?_⟩
  · have hmem := h.only
    unfold HubOnly at hhub
    unfold OnlyMemory at hmem
    rw [hhub, hmem]
  · rw [hhub.readByte, h.rest x hx]
  · rw [hreport.sameTables.grpRec hhub.readByte hp, h.field7 hlo hhi]

/-- A group that becomes FAILED with its cause (R423). -/
theorem groupDown_groupSet (hp : p < 16) (hoff : slgOn s p = false) (cause rank : Nat) :
    GroupSet s (groupDown s p k cause rank) p k (setBits (setBits (grpW7 s p k) 1 0 3) 15 8 cause) :=
  ((setW7_wordSet s p k 1 0 3).setW7 15 8 cause).reported hp hoff _ _ _ _

theorem groupDown_failed (hp : p < 16) (hoff : slgOn s p = false) {cause : Nat} (hcause : cause < 256) (rank : Nat) :
    gState (grpRec (groupDown s p k cause rank) p k) = 3 ∧ pgF (grpRec (groupDown s p k cause rank) p k) 7 15 8 = cause := by
  have hset := groupDown_groupSet (k := k) hp hoff cause rank
  refine ⟨?_, ?_⟩
  · rw [gState, hset.field7 _ _ (by decide) (by decide), bits_setBits_other _ _ _ _ _ _ (by decide),
      bits_setBits_same _ _ _ _ (by decide)]
    rfl
  · rw [hset.field7 _ _ (by decide) (by decide), bits_setBits_same _ _ _ _ (by decide)]
    exact Nat.mod_eq_of_lt hcause

end Sys2Proof.Machine
end

section
/-! PROOF. Activation and deactivation of a group by its lead die (R422, R423, R452, R454). -/

namespace Sys2Proof.Machine

variable {s t : State} {d p k : Nat}

/-! ### Commands of ACC_GCMD (R452, R454) -/

/-- A command on another die than the lead, or on one that is absent, sets ERR. -/
theorem gcmd_refused (h : leadDie s p ≠ d ∨ diePresent s d = false) (k : Nat) (ok : State → Bool) (f : State → State) :
    gcmd s d p k ok f = s.setRBit (rGcmd d) 15 true := by
  unfold gcmd
  exact if_pos h

/-- PART and GROUP of the command are taken. -/
def gcmdTaken (s : State) (d p k : Nat) : State := (s.setFld (rGcmd d) 5 2 p).setFld (rGcmd d) 13 6 k

/-- A command that the die and the record accept acts. -/
theorem gcmd_accepted (hlead : leadDie s p = d) (hdie : diePresent s d = true) (hcount : k < gtabCount s p)
    (hvalid : gValid (grpRec s p k) = true) {ok : State → Bool} (hok : ok s = true) (f : State → State) :
    gcmd s d p k ok f = f (gcmdTaken s d p k) := by
  have hdie' : ¬ (leadDie s p ≠ d ∨ diePresent s d = false) := by simp [hlead, hdie]
  unfold gcmd
  rw [if_neg hdie']
  exact if_pos ⟨hcount, hvalid, hok⟩

theorem gcmdTaken_reg (s : State) (d p k : Nat) {x : Nat} (hx : x ≠ rGcmd d) : (gcmdTaken s d p k).reg x = s.reg x := by
  rw [gcmdTaken, reg_setFld_other _ hx, reg_setFld_other _ hx]

theorem gcmdTaken_rest (s : State) (d p k : Nat) : gcmdTaken s d p k = { s with regs := (gcmdTaken s d p k).regs } := rfl

theorem gcmdTaken_readByte (s : State) (d p k : Nat) : readByte (gcmdTaken s d p k) = readByte s := rfl

theorem gcmdTaken_sameTables (s : State) (d p k : Nat) : SameTables s (gcmdTaken s d p k) := by
  refine ⟨fun q hq => gcmdTaken_reg s d p k ?_, fun e q he hq => gcmdTaken_reg s d p k ?_⟩
  · unfold rPartClu rGcmd hubR accR
    omega
  · unfold rGtab rGcmd accR
    omega

theorem grpRec_gcmdTaken (hp : p < 16) : grpRec (gcmdTaken s d p k) p k = grpRec s p k :=
  (gcmdTaken_sameTables s d p k).grpRec (gcmdTaken_readByte s d p k) hp k

theorem grpAddr_gcmdTaken (hp : p < 16) : grpAddr (gcmdTaken s d p k) p k = grpAddr s p k :=
  (gcmdTaken_sameTables s d p k).grpAddr hp k

/-! ### ACTIVATE (R422) -/

/-- The group has become ACTIVATING with OPSEQ 0. -/
def activatingSet (s : State) (p k : Nat) : State := setW7 (setW7 (setW7 s p k 1 0 1) p k 15 8 0) p k 63 32 0

/-- The group is ACTIVATING, and no message of an earlier activation waits for its rank. -/
def activated (s : State) (d p k : Nat) : State :=
  dropEarly (activatingSet (gcmdTaken s d p k) p k) (gGid (grpRec s p k)) (gMy (grpRec s p k))

theorem activatingSet_wordSet (s : State) (p k : Nat) :
    WordSet s (activatingSet s p k) p k (setBits (setBits (setBits (grpW7 s p k) 1 0 1) 15 8 0) 63 32 0) :=
  ((setW7_wordSet s p k 1 0 1).setW7 15 8 0).setW7 63 32 0

/-- What the activation of a group leaves: nothing but its command, its word 7 and the messages that waited for it. -/
structure Activating (s u : State) (d p k : Nat) : Prop where
  state : u = { s with regs := u.regs, mem := u.mem, ent := u.ent, cache := u.cache, acc := { s.acc with early := u.acc.early } }
  regs : ∀ x, x ≠ rGcmd d → u.reg x = s.reg x
  rest : ∀ x, (x < grpAddr s p k + 56 ∨ grpAddr s p k + 56 + 8 ≤ x) → readByte u x = readByte s x
  fields : gState (grpRec u p k) = 1 ∧ gOpseq (grpRec u p k) = 0 ∧ pgF (grpRec u p k) 7 15 8 = 0
  early : u.acc.early = s.acc.early.filter fun m =>
    !(decide (m.h.gid.toNat = gGid (grpRec s p k)) && decide (m.h.dstRank.toNat = gMy (grpRec s p k)))

theorem activated_activating (hp : p < 16) : Activating s (activated s d p k) d p k := by
  have hset := activatingSet_wordSet (gcmdTaken s d p k) p k
  have hmem : activatingSet (gcmdTaken s d p k) p k = _ := hset.only
  have hrec : grpRec (activated s d p k) p k = grpRec (activatingSet (gcmdTaken s d p k) p k) p k := rfl
  refine ⟨?state, fun x hx => ?regs, fun x hx => ?rest, ?fields, ?early⟩
  case state =>
    unfold activated dropEarly
    rw [hmem, gcmdTaken_rest]
  case regs =>
    rw [← gcmdTaken_reg s d p k hx]
    exact reg_congr (congrArg State.regs hmem) x
  case rest =>
    rw [← grpAddr_gcmdTaken hp] at hx
    exact hset.rest x hx
  case fields =>
    rw [hrec, gState, gOpseq, hset.field7 (by decide) (by decide), hset.field7 (by decide) (by decide),
      hset.field7 (by decide) (by decide)]
    refine ⟨?_, ?_, ?_⟩
    · rw [bits_setBits_other _ _ _ _ _ _ (by decide), bits_setBits_other _ _ _ _ _ _ (by decide),
        bits_setBits_same _ _ _ _ (by decide)]
      rfl
    · rw [bits_setBits_same _ _ _ _ (by decide)]
      rfl
    · rw [bits_setBits_other _ _ _ _ _ _ (by decide), bits_setBits_same _ _ _ _ (by decide)]
      rfl
  case early =>
    change (activatingSet (gcmdTaken s d p k) p k).acc.early.filter _ = _
    rw [hmem]
    rfl

/-- Word 0 of the record stands: the group's rank, its ranks and its profile. -/
theorem activated_field0 (hp : p < 16) {hi lo : Nat} (hlo : lo ≤ hi) (hhi : hi < 64) :
    pgF (grpRec (activated s d p k) p k) 0 hi lo = pgF (grpRec s p k) 0 hi lo := by
  have hset := activatingSet_wordSet (gcmdTaken s d p k) p k
  have hrec : grpRec (activated s d p k) p k = grpRec (activatingSet (gcmdTaken s d p k) p k) p k := rfl
  rw [hrec, hset.field0 hlo hhi, grpRec_gcmdTaken hp]

/-- ACTIVATE and DEACTIVATE at another die than the lead, or at one that is absent (R454). -/
theorem groupCommands_refused {die : Fin 8} {part : Fin 16} (g : BitVec 8) (h : leadDie s part ≠ die ∨ diePresent s die = false) :
    doGroupActivate die part g s = s.setRBit (rGcmd die) 15 true ∧
      doGroupDeactivate die part g s = s.setRBit (rGcmd die) 15 true := by
  unfold doGroupActivate doGroupDeactivate
  exact ⟨gcmd_refused h _ _ _, gcmd_refused h _ _ _⟩

section Activate

variable {die : Fin 8} {part : Fin 16} {g : BitVec 8} (hlead : leadDie s part = die) (hdie : diePresent s die = true)
  (hcount : g.toNat < gtabCount s part) (hvalid : gValid (grpRec s part g.toNat) = true)
include hlead hdie hcount hvalid

/-- ACTIVATE of a group that is INACTIVE or FAILED: rank 0 starts lap 1, another rank goes on with the lap that it holds. -/
theorem doGroupActivate_accepted (hstate : gState (grpRec s part g.toNat) = 0 ∨ gState (grpRec s part g.toNat) = 3) :
    doGroupActivate die part g s = if gMy (grpRec s part g.toNat) = 0 then
        sendMember (activated s die part g.toNat) part g.toNat false (bits ownCap 19 12) 4
      else match s.acc.laps.find? fun l => l.1 = part * 256 + g.toNat with
        | some l => lapOne { activated s die part g.toNat with acc := { (activated s die part g.toNat).acc with
            laps := (activated s die part g.toNat).acc.laps.filter fun x => x.1 ≠ l.1 } } part g.toNat l.2.2
        | none => activated s die part g.toNat := by
  have hlaps : (activated s die part g.toNat).acc.laps = s.acc.laps := by
    rw [(activated_activating part.isLt).state]
  have hok : (gState (grpRec s part g.toNat) = 0 || gState (grpRec s part g.toNat) = 3) = true := by simpa using hstate
  unfold doGroupActivate
  dsimp only
  rw [gcmd_accepted hlead hdie hcount hvalid hok, grpRec_gcmdTaken part.isLt, ← hlaps]
  rfl

/-- DEACTIVATE of a group that is ACTIVE or FAILED and has no collective in flight (R423). -/
theorem doGroupDeactivate_accepted (hstate : gState (grpRec s part g.toNat) = 2 ∨ gState (grpRec s part g.toNat) = 3)
    (hidle : ∀ c, c ∈ s.acc.colls → c.part = part.val → c.grp ≠ g.toNat) :
    doGroupDeactivate die part g s = setW7 (gcmdTaken s die part g.toNat) part g.toNat 1 0 0 := by
  have hnone : (s.acc.colls.any fun c => c.part = part.val && c.grp = g.toNat) = false := by
    rw [List.any_eq_false]
    intro c hc
    simpa using hidle c hc
  have hok : ((gState (grpRec s part g.toNat) = 2 || gState (grpRec s part g.toNat) = 3) &&
      !(s.acc.colls.any fun c => c.part = part.val && c.grp = g.toNat)) = true := by
    rw [hnone]
    simpa using hstate
  unfold doGroupDeactivate
  dsimp only
  rw [gcmd_accepted hlead hdie hcount hvalid hok]

end Activate

/-- Rank 0 sends MEMBER of lap 1 to rank 1 with the capability word of this module (R422). -/
theorem sendMember_activated (hp : p < 16) (hmy : gMy (grpRec s p k) = 0) :
    sendMember (activated s d p k) p k false (bits ownCap 19 12) 4 = leadSend (activated s d p k) p k
      (1 % gRanks (grpRec s p k)) 4 0
      [memberNat ⟨ownCap, 0, BitVec.ofNat 13 (gRanks (grpRec s p k)), gCanon (grpRec s p k), false, 0xFF, 4⟩] := by
  have hmy' : gMy (grpRec (activated s d p k) p k) = 0 := (activated_field0 hp (by decide) (by decide)).trans hmy
  have hranks : gRanks (grpRec (activated s d p k) p k) = gRanks (grpRec s p k) := activated_field0 hp (by decide) (by decide)
  have hcanon : gCanon (grpRec (activated s d p k) p k) = gCanon (grpRec s p k) := by
    unfold gCanon
    rw [activated_field0 hp (by decide) (by decide)]
  unfold sendMember
  dsimp only
  rw [hmy', hranks, hcanon]
  rfl

/-- Settles O37: ACTIVATE and DEACTIVATE are `gcmd`, a time-out is `groupDown`. -/
theorem groupsForm : Obligations.GroupsForm := by
  unfold Obligations.GroupsForm
  intro d p g s k r a word
  refine ⟨fun h => (groupCommands_refused g h).imp next_congr next_congr, fun hlead hdie hcount hvalid => ⟨?activate,
    fun hstate hidle => ?deactivate⟩, fun hoff hcount hstate => ?timeout⟩
  case activate =>
    intro begun hstate
    have hbegun : begun (activated s d p k) := by
      obtain ⟨hs, hregs, hrest, ⟨h1, h2, h3⟩, hearly⟩ := activated_activating (s := s) (d := d) (p := p) (k := k) p.isLt
      exact ⟨hs, hregs, hrest, h1, h2, h3, hearly⟩
    have hdo := doGroupActivate_accepted hlead hdie hcount hvalid hstate
    refine ⟨fun hmy => ⟨_, hbegun, next_congr ?lead⟩, fun hmy hnone => ⟨_, hbegun, next_congr ?waits⟩,
      fun hmy l hlap => ⟨_, hbegun, next_congr ?goes⟩⟩
    case lead => rw [hdo, if_pos hmy, sendMember_activated p.isLt hmy]
    case waits =>
      have hfind : (s.acc.laps.find? fun l => decide (l.1 = p.val * 256 + g.toNat)) = none := by
        simpa [List.find?_eq_none] using hnone
      rw [hdo, if_neg hmy, hfind]
    case goes => rw [hdo, if_neg hmy, hlap]
  case deactivate =>
    have hset := setW7_wordSet (gcmdTaken s d p k) p k 1 0 0
    refine ⟨_, next_congr (doGroupDeactivate_accepted hlead hdie hcount hvalid hstate hidle), ?state, fun x hx => ?regs, fun x hx => ?rest,
      ?inactive⟩
    case state =>
      have hmem : setW7 (gcmdTaken s d p k) p k 1 0 0 = _ := hset.only
      rw [hmem, gcmdTaken_rest]
    case regs =>
      rw [← gcmdTaken_reg s d p k hx]
      exact reg_congr (congrArg State.regs hset.only) x
    case rest => exact hset.rest x (by rwa [grpAddr_gcmdTaken p.isLt])
    case inactive =>
      rw [gState, hset.field7 (by decide) (by decide), bits_setBits_same _ _ _ _ (by decide)]
      rfl
  case timeout =>
    have hset := groupDown_groupSet (k := k) p.isLt hoff 5 0xFFF
    exact ⟨_, next_congr (if_pos ⟨hcount, hstate⟩), hset.state, hset.rest, groupDown_failed p.isLt hoff (by decide) _⟩

end Sys2Proof.Machine
end

section
/-! PROOF. MEMBER laps and ABORT in the activation of a group (R422, R423). -/

namespace Sys2Proof.Machine

variable {s : State} {p k : Nat} {h : AccHdr} {m : MemberMsg}

/-! ### MEMBER (R422) -/

section Named

variable (hnamed : groupNamed s h.gid.toNat h.dstRank.toNat = some (p, k))
include hnamed

/-- Lap 1 at a member that is not ACTIVATING is held. -/
theorem doAccordMember_held (hstate : gState (grpRec s p k) ≠ 1) (hlap : m.lap2 = false) :
    doAccordMember h m s = { s with acc := { s.acc with
      laps := (s.acc.laps.filter fun l => l.1 ≠ p * 256 + k) ++ [(p * 256 + k, h, m)] } } := by
  unfold doAccordMember
  rw [hnamed]
  dsimp only
  rw [if_neg hstate, if_neg (Bool.eq_false_iff.mp hlap)]

/-- Lap 1 at an ACTIVATING member is checked. -/
theorem doAccordMember_lapOne (hstate : gState (grpRec s p k) = 1) (hlap : m.lap2 = false) :
    doAccordMember h m s = lapOne s p k m := by
  unfold doAccordMember
  rw [hnamed]
  dsimp only
  rw [if_pos hstate, if_neg (Bool.eq_false_iff.mp hlap)]

/-- Lap 2 makes an ACTIVATING member ACTIVE and goes on but for rank 0. -/
theorem doAccordMember_lapTwo (hstate : gState (grpRec s p k) = 1) (hlap : m.lap2 = true) :
    doAccordMember h m s = if gMy (grpRec s p k) = 0 then groupActive s p k m.fmt.toNat m.genMask.toNat
      else sendMember (groupActive s p k m.fmt.toNat m.genMask.toNat) p k true m.fmt.toNat m.genMask.toNat := by
  unfold doAccordMember
  rw [hnamed]
  dsimp only
  rw [if_pos hstate, if_pos hlap]

end Named

/-- MEMBER for another rank goes on (R421). -/
theorem doAccordMember_elsewhere (hnone : groupNamed s h.gid.toNat h.dstRank.toNat = none) :
    doAccordMember h m s = accForward s none 4 h [memberNat m] := by
  unfold doAccordMember
  rw [hnone]

/-- A group becomes ACTIVE with its format and generation masks, and is then held against its routes. -/
theorem groupActive_groupSet (hp : p < 16) (hoff : slgOn s p = false) (fmt gens : Nat) :
    ∃ u, GroupSet s u p k (setBits (setBits (setBits (setBits (grpW7 s p k) 1 0 2) 15 8 0) 23 16 fmt) 26 24 gens) ∧
      groupActive s p k fmt gens = checkRoute u p k 0x3F :=
  ⟨_, ((((setW7_wordSet s p k 1 0 2).setW7 15 8 0).setW7 23 16 fmt).setW7 26 24 gens).reported hp hoff _ _ _ _, rfl⟩

/-- The fields of the record of a group that has become ACTIVE. -/
theorem GroupSet.active {u : State} {w : Word} {fmt gens : Nat}
    (hset : GroupSet s u p k (setBits (setBits (setBits (setBits w 1 0 2) 15 8 0) 23 16 fmt) 26 24 gens))
    (hfmt : fmt < 256) (hgens : gens < 8) :
    gState (grpRec u p k) = 2 ∧ gFmt (grpRec u p k) = fmt ∧ gGens (grpRec u p k) = gens := by
  rw [gState, gFmt, gGens, hset.field7 _ _ (by decide) (by decide), hset.field7 _ _ (by decide) (by decide),
    hset.field7 _ _ (by decide) (by decide)]
  refine ⟨?_, ?_, ?_⟩
  · rw [bits_setBits_other _ _ _ _ _ _ (by decide), bits_setBits_other _ _ _ _ _ _ (by decide),
      bits_setBits_other _ _ _ _ _ _ (by decide), bits_setBits_same _ _ _ _ (by decide)]
    rfl
  · rw [bits_setBits_other _ _ _ _ _ _ (by decide), bits_setBits_same _ _ _ _ (by decide)]
    exact Nat.mod_eq_of_lt hfmt
  · rw [bits_setBits_same _ _ _ _ (by decide)]
    exact Nat.mod_eq_of_lt hgens

/-! ### ABORT (R423) -/

section Ours

variable (hours : groupFor s h.gid.toNat h.dstRank.toNat = some (p, k))
include hours

/-- ABORT that finds the activation under way fails it and goes on to the successor. -/
theorem doAccordAbort_activating (hstate : gState (grpRec s p k) = 1) :
    doAccordAbort h s = leadSend (groupDown s p k 8 h.srcRank.toNat) p k
      ((gMy (grpRec s p k) + 1) % gRanks (grpRec s p k)) 3 0 [] := by
  unfold doAccordAbort
  rw [hours]
  exact if_pos hstate

/-- ABORT at an ACTIVE group: a number that has completed is left alone, any other fails the group. -/
theorem doAccordAbort_active (hstate : gState (grpRec s p k) = 2) :
    doAccordAbort h s = if (s.acc.colls.any fun c => collNamed c p k h) = false ∧ h.aux = 0 ∧
        1 ≤ (gOpseq (grpRec s p k) % 256 + 256 - h.opseq.toNat) % 256 ∧
        (gOpseq (grpRec s p k) % 256 + 256 - h.opseq.toNat) % 256 ≤ 128 then s
      else groupFail s p k 2 h.srcRank.toNat 0x3F := by
  unfold doAccordAbort
  rw [hours]
  exact if_neg (by rw [hstate]; decide)

end Ours

/-- ABORT for another rank goes on (R421). -/
theorem doAccordAbort_elsewhere (hnone : groupFor s h.gid.toNat h.dstRank.toNat = none) :
    doAccordAbort h s = accForward s none 3 h [] := by
  unfold doAccordAbort
  rw [hnone]

/-- Settles O38: each lap and each ABORT is the equation of its case; what a change of the group leaves is its `GroupSet`. -/
theorem membersAnswer : Obligations.MembersAnswer := by
  unfold Obligations.MembersAnswer
  intro h m p k s hp hoff r a changed
  refine ⟨fun hnamed => ⟨fun hstate hlap => ?held, fun hstate hlap => ?checked, fun hstate hlap => ?active⟩,
    fun hours => ⟨fun hstate => ?aborted, fun hstate => ?numbered⟩, fun hnone => ?passed, fun hnone => ?abortPassed⟩
  case held => exact next_congr (doAccordMember_held hnamed hstate hlap)
  case checked => exact next_congr (doAccordMember_lapOne hnamed hstate hlap)
  case active =>
    obtain ⟨u, hset, hactive⟩ := groupActive_groupSet (k := k) hp hoff m.fmt.toNat m.genMask.toNat
    obtain ⟨h1, h2, h3⟩ := hset.active m.fmt.isLt m.genMask.isLt
    refine ⟨u, ⟨hset.state, hset.rest⟩, h1, h2, h3, next_congr ?_⟩
    rw [doAccordMember_lapTwo hnamed hstate hlap, hactive]
  case aborted =>
    have hset := groupDown_groupSet (k := k) hp hoff 8 h.srcRank.toNat
    obtain ⟨h1, h2⟩ := groupDown_failed (k := k) hp hoff (show 8 < 256 by decide) h.srcRank.toNat
    exact ⟨_, ⟨hset.state, hset.rest⟩, h1, h2, next_congr (doAccordAbort_activating hours hstate)⟩
  case numbered =>
    intro d finished
    have hnamed : (s.acc.colls.any fun c => collNamed c p k h) = false ↔ ∀ c, c ∈ s.acc.colls → collNamed c p k h = false := by
      simp [List.any_eq_false]
    have habort := doAccordAbort_active hours hstate
    exact ⟨fun hfin => next_congr (habort.trans (if_pos (hfin.imp_left hnamed.mpr))),
      fun hfin => next_congr (habort.trans (if_neg fun hdone => hfin (hdone.imp_left hnamed.mp)))⟩
  case passed => exact next_congr (doAccordMember_elsewhere hnone)
  case abortPassed => exact next_congr (doAccordAbort_elsewhere hnone)

end Sys2Proof.Machine
end

section
/-! PROOF. The issue of the collectives, the transfers and the fused products (R425, R428, R431, R433). -/

namespace Sys2Proof.Machine

variable {s t u v : State} {a : StreamId} {w : InstrWord} {tds : List DescWord} {aux : List Nat} {n : Nat} {o : TOp}

/-! ### In flight whatever memory and Accord hold -/

/-- An instruction in flight stays so whatever is beside the contexts. -/
theorem Issued.of_ctxs (hctxs : v.ctxs = t.ctxs) (h : Issued s t a w tds aux n) : Issued s v a w tds aux n := by
  obtain ⟨ctxs, strms, ctx, fences, strm, infl⟩ := h
  have hctx := ctxAt_congr hctxs a
  have hstrm := strmAt_congr hctxs a
  rw [← hctx] at ctx
  rw [← hstrm] at strm infl
  exact ⟨fun k hk => hctxs ▸ ctxs k hk, fun k hk => hctx ▸ strms k hk, ctx, fun g => hctx ▸ fences g, strm, infl⟩

/-- The contexts that issuing leaves, with the next PC inside the window. -/
theorem issueFlight_ctxs (hn : (strmAt s a).pc + 1 < (strmAt s a).plen) (w : InstrWord) (tds : List DescWord) (aux : List Nat)
    (n : Nat) :
    let u := modStrmAt s a fun t => { t with infl := t.infl ++ [newInFlight s t w tds aux n] }
    (issueFlight s a w tds aux n).ctxs = (modCtx u a.part a.ctx (afterIssue u a w ((strmAt s a).pc + 1))).ctxs := by
  intro u
  have hu : (strmAt s a).pc + 1 < (strmAt u a).plen := by
    rw [strmAt_modStrmAt]
    exact hn
  rw [issueFlight, advance_eq u a w _ hu]
  rfl

/-- Issuing does the same to the contexts whatever memory and Accord hold. -/
theorem issueFlight_ctxs_congr (ht : t = { u with mem := t.mem, ent := t.ent, cache := t.cache, acc := t.acc })
    (hn : (strmAt u a).pc + 1 < (strmAt u a).plen) (w : InstrWord) (tds : List DescWord) (aux : List Nat) (n : Nat) :
    (issueFlight t a w tds aux n).ctxs = (issueFlight u a w tds aux n).ctxs := by
  have hstrm : strmAt t a = strmAt u a := strmAt_congr (by rw [ht]) a
  rw [issueFlight_ctxs hn, issueFlight_ctxs (by rwa [hstrm])]
  rw [ht]
  rfl

theorem OnlyFences.onlyIssue (h : OnlyFences s u a) : OnlyIssue s u := by
  unfold OnlyIssue
  rw [h.rest]

/-- An instruction that issues behind the fence unit, from a state that memory and Accord have changed in since. -/
theorem issueFlight_issued (hfences : OnlyFences s u a)
    (hcount : ∀ g, fenceOf (ctxAt u a) g = (fenceSeen s a tds w g).map fun f =>
      if countsIn a tds w g f then { f with rc := f.rc + 1 } else f)
    (hn : (strmAt s a).pc + 1 < (strmAt s a).plen)
    (ht : t = { u with mem := t.mem, ent := t.ent, cache := t.cache, acc := t.acc }) (aux : List Nat) (n : Nat) :
    Issued s (issueFlight t a w tds aux n) a w tds aux n ∧ OnlyCtxs t (issueFlight t a w tds aux n) := by
  have hu : (strmAt u a).pc + 1 < (strmAt u a).plen := by rwa [strmAt_of_fences hfences]
  have hstrm : strmAt t a = strmAt u a := strmAt_congr (by rw [ht]) a
  obtain ⟨issued, -⟩ := issued_of_fences aux n hfences hcount hn
  obtain ⟨-, only, -⟩ := issueFlight_spec t a w tds aux n (by rwa [hstrm])
  exact ⟨issued.of_ctxs (issueFlight_ctxs_congr ht hu w tds aux n), only⟩

/-! ### The split area of a fused product (R180, R190) -/

/-- The state once the split area of a fused product is cleared; a collective alone has none. -/
def splitCleared (g : Option Geo) (s : State) (a : StreamId) (i : BitVec 32) : State :=
  match g with
  | some g => g.clearSplit s a i
  | none => s

theorem splitCleared_only (g : Option Geo) (s : State) (a : StreamId) (i : BitVec 32) : OnlyMemory s (splitCleared g s a i) := by
  cases g with
  | some g => exact clearSplit_only g s a i
  | none => exact .refl s

/-- Fence fields and caches do not show in the bytes that clearing leaves. -/
theorem readByte_splitCleared (h : OnlyIssue s u) (g : Option Geo) (i : BitVec 32) :
    readByte (splitCleared g u a i) = readByte (splitCleared g s a i) := by
  funext x
  cases g with
  | some g => rw [splitCleared, splitCleared, readByte_clearSplit, readByte_clearSplit, h.splitAddr, h.readByte]
  | none => exact h.readByte x

/-! ### The collective opens (R428) -/

/-- The collective that instruction `w` of opcode `op` opens on the group as its record stands. -/
def openedColl (s : State) (a : StreamId) (w : InstrWord) (op : Nat) (i : BitVec 32) : Coll :=
  let r := grpRec s a.part (collGroup w)
  let p2p := op = 0xA3 ∨ op = 0xA4
  ⟨a.part, a.ctx, strmNo a.strm, i, op, collGroup w, gGid r, gRanks r, gMy r, gCanon r, if p2p then 0 else gOpseq r,
    if p2p then colPeer w else 0, if p2p then colTag w else 0, colNorm w, [], [], [], [], [], [], [], []⟩

/-- OPSEQ of the group's record after a numbered collective. -/
def opseqCounted (s : State) (p k : Nat) : State := setW7 s p k 63 32 ((gOpseq (grpRec s p k) + 1) % 2 ^ 32)

theorem startColl_eq (s : State) (a : StreamId) (f : InFlight) :
    let s1 := if iOp f.w = 0xA3 ∨ iOp f.w = 0xA4 then s else opseqCounted s a.part (collGroup f.w)
    startColl s a f = { s1 with acc := { s1.acc with colls := s1.acc.colls ++ [openedColl s a f.w (iOp f.w) f.iseq] } } := by
  unfold startColl openedColl opseqCounted
  by_cases hp2p : iOp f.w = 0xA3 ∨ iOp f.w = 0xA4
  · have hbool : (decide (iOp f.w = 0xA3) || decide (iOp f.w = 0xA4)) = true := by simpa using hp2p
    simp only [hbool, if_pos hp2p, if_true]
  · have hbool : (decide (iOp f.w = 0xA3) || decide (iOp f.w = 0xA4)) = false := by simpa using hp2p
    simp only [hbool, if_neg hp2p, Bool.false_eq_true, if_false]

/-- What the issue of a collective leaves in `v`, before anything of it goes on: the instruction in flight, the collective open
with the group's number for it, and of the bytes in `s0` OPSEQ of a numbered one counted. -/
structure CollIssued (s s0 v : State) (a : StreamId) (w : InstrWord) (o : TOp) : Prop where
  state : v = { s0 with ctxs := v.ctxs, trace := v.trace, acc := v.acc, mem := v.mem, ent := v.ent, cache := v.cache }
  issued : Issued s v a w (o.capture s a w) (o.plan s (o.capture s a w)).1 (o.plan s (o.capture s a w)).2
  opened : v.acc = { s.acc with colls := s.acc.colls ++ [openedColl s0 a w o.op (strmAt s a).iseq] }
  rest : ∀ x, ((o.op = 0xA3 ∨ o.op = 0xA4) ∨ x < grpAddr s0 a.part (collGroup w) + 56 ∨
    grpAddr s0 a.part (collGroup w) + 56 + 8 ≤ x) → readByte v x = readByte s0 x
  opseq : ¬ (o.op = 0xA3 ∨ o.op = 0xA4) → ∀ j, j < 8 → readByte v (grpAddr s0 a.part (collGroup w) + 56 + j) =
    (setBits (grpW7 s0 a.part (collGroup w)) 63 32 ((gOpseq (grpRec s0 a.part (collGroup w)) + 1) % 2 ^ 32)).extractLsb' (8 * j) 8

/-- The numbers and fields of the group are those of the record wherever its bytes and tables are the same. -/
theorem openedColl_congr (hrec : grpRec t a.part (collGroup w) = grpRec s a.part (collGroup w)) (op : Nat) (i : BitVec 32) :
    openedColl t a w op i = openedColl s a w op i := by
  unfold openedColl
  rw [hrec]

theorem opseqCounted_wordSet (s : State) (p k : Nat) :
    WordSet s (opseqCounted s p k) p k (setBits (grpW7 s p k) 63 32 ((gOpseq (grpRec s p k) + 1) % 2 ^ 32)) :=
  setW7_wordSet _ _ _ _ _ _

/-- The collective is open behind the fence unit and its instruction in flight. -/
def collOpened (g : Option Geo) (tds : List DescWord) (aux : List Nat) (n : Nat) (a : StreamId) (w : InstrWord) (u : State) : State :=
  let f := newInFlight u (strmAt u a) w tds aux n
  issueFlight (startColl (splitCleared g u a f.iseq) a f) a w tds aux n

/-- A collective that can issue goes on behind the fence unit (R425, R271). -/
theorem issueColl_eq {clear : List DescWord → Option Geo} (h : CanIssue s a w o)
    (hfree : hazard s a [] (normRange w (if colNormAt s a.part w (o.capture s a w) = 0 then none
      else some (colNormAt s a.part w (o.capture s a w) - 1)) false) = false) :
    let tds := o.capture s a w
    let opened := collOpened (clear tds) tds (o.plan s tds).1 (o.plan s tds).2 a w
    issueColl o clear a w s = withFence s a w tds o.op fun u =>
      collGo (replayEarly a (strmAt u a).iseq (opened u).acc.early.length (opened u)) a (strmAt u a).iseq := by
  intro tds opened
  unfold issueColl
  extract_lets n nw
  have hready : (tensorWait s a w tds || nw) = false := by
    rw [h.free]
    exact hfree
  refine (withWordAfter_free hready h.ready _).trans ?_
  rw [h.checks]
  rfl

/-- Beside memory, the state in which the collective stands open is that behind the fence unit; of its bytes OPSEQ of a
numbered one alone has changed. -/
theorem startColl_opens {f : InFlight} {op : Nat} (hw : f.w = w) (hop : iOp w = op) :
    ∃ s1, OnlyMemory s s1 ∧
      startColl s a f = { s1 with acc := { s1.acc with colls := s1.acc.colls ++ [openedColl s a w op f.iseq] } } ∧
      ((op = 0xA3 ∨ op = 0xA4) → s1 = s) ∧
      (¬ (op = 0xA3 ∨ op = 0xA4) →
        WordSet s s1 a.part (collGroup w) (setBits (grpW7 s a.part (collGroup w)) 63 32 ((gOpseq (grpRec s a.part (collGroup w)) + 1) % 2 ^ 32))) := by
  have hstart := startColl_eq s a f
  rw [hw, hop] at hstart
  by_cases hp2p : op = 0xA3 ∨ op = 0xA4
  · rw [if_pos hp2p] at hstart
    exact ⟨s, .refl s, hstart, fun _ => rfl, fun hnum => absurd hp2p hnum⟩
  · rw [if_neg hp2p] at hstart
    have hset := opseqCounted_wordSet s a.part (collGroup w)
    exact ⟨_, hset.only, hstart, fun h => absurd h hp2p, fun _ => hset⟩

/-- A collective opened and its instruction issued behind the fence unit, whose state reads as `s0` does once the split area is
cleared. -/
theorem collOpened_issued {g : Option Geo} (h : CanIssue s a w o) (hfences : OnlyFences s u a)
    (hcount : ∀ k, fenceOf (ctxAt u a) k = (fenceSeen s a (o.capture s a w) w k).map fun f =>
      if countsIn a (o.capture s a w) w k f then { f with rc := f.rc + 1 } else f) :
    CollIssued s (splitCleared g s a (strmAt s a).iseq) (collOpened g (o.capture s a w) (o.plan s (o.capture s a w)).1
      (o.plan s (o.capture s a w)).2 a w u) a w o := by
  have hi : (strmAt u a).iseq = (strmAt s a).iseq := by rw [strmAt_of_fences hfences]
  unfold collOpened
  extract_lets f
  have hf : f.iseq = (strmAt s a).iseq := hi
  have hs0 := splitCleared_only g s a (strmAt s a).iseq
  have ht := splitCleared_only g u a (strmAt s a).iseq
  have hbytes := readByte_splitCleared (a := a) hfences.onlyIssue g (strmAt s a).iseq
  obtain ⟨s1, honly, hstart, hp2p, hnum⟩ := startColl_opens (s := splitCleared g u a f.iseq) (a := a) (w := w) (f := f) rfl h.ready.opcode
  rw [hf] at hstart hp2p hnum honly ⊢
  generalize splitCleared g s a (strmAt s a).iseq = s0 at hs0 hbytes ⊢
  generalize splitCleared g u a (strmAt s a).iseq = t at ht hbytes hstart hp2p hnum honly ⊢
  have htables : SameTables s0 t := .of_regs (by rw [ht, hfences.rest, hs0])
  have hrec := htables.grpRec hbytes a.part.isLt (collGroup w)
  have haddr := htables.grpAddr a.part.isLt (collGroup w)
  have hword : grpW7 t a.part (collGroup w) = grpW7 s0 a.part (collGroup w) := by
    unfold grpW7 readNat readBytes
    rw [haddr, hbytes]
  rw [hword, hrec] at hnum
  rw [openedColl_congr hrec] at hstart
  have hmem := ht.trans honly
  have hv := issueFlight_issued (t := startColl t a f) hfences hcount h.window (by rw [hstart, hmem]) (o.plan s (o.capture s a w)).1
    (o.plan s (o.capture s a w)).2
  generalize startColl t a f = t' at hstart hv ⊢
  obtain ⟨issued, only⟩ := hv
  have hread : ∀ v, OnlyCtxs t' v → readByte v = readByte s1 := fun v hv => by
    rw [hv.readByte_eq, hstart]
    rfl
  refine ⟨?state, issued, ?opened, fun x hx => ?rest, fun hno j hj => ?opseq⟩
  case state =>
    unfold OnlyCtxs at only
    rw [only, hstart, hmem, hfences.rest, hs0]
  case opened =>
    unfold OnlyCtxs at only
    rw [only, hstart, hmem, hfences.rest]
  case rest =>
    rw [hread _ only, ← hbytes]
    by_cases hop : o.op = 0xA3 ∨ o.op = 0xA4
    · rw [hp2p hop]
    · exact (hnum hop).rest x (by rw [haddr]; exact hx.resolve_left hop)
  case opseq =>
    rw [hread _ only, ← haddr]
    exact (hnum hno).word j hj

/-- A collective that can issue opens, and then the early messages and all that can be done at once follow (R433). -/
theorem issueColl_issued {clear : List DescWord → Option Geo} (h : CanIssue s a w o)
    (hfree : hazard s a [] (normRange w (if colNormAt s a.part w (o.capture s a w) = 0 then none
      else some (colNormAt s a.part w (o.capture s a w) - 1)) false) = false) :
    ∃ v, issueColl o clear a w s = collGo (replayEarly a (strmAt s a).iseq v.acc.early.length v) a (strmAt s a).iseq ∧
      CollIssued s (splitCleared (clear (o.capture s a w)) s a (strmAt s a).iseq) v a w o := by
  obtain ⟨u, hu, hfences, hcount⟩ := withFence_spec s a w (o.capture s a w) o.op _ h.fence
  rw [issueColl_eq h hfree, hu, strmAt_of_fences hfences]
  exact ⟨_, rfl, collOpened_issued h hfences hcount⟩

/-- Settles O17: every one of the seven issues as `issueColl` does, the fused products over the geometry whose split area they
clear. -/
theorem collectivesIssue : Obligations.CollectivesIssue := by
  unfold Obligations.CollectivesIssue
  intro a w s n issues fused
  have opens : ∀ (i : Instr) (o : TOp) (clear : List DescWord → Option Geo), exec i s = .next (issueColl o clear a w s) →
      issues i o (splitCleared (clear (o.capture s a w)) s a n) := by
    intro i o clear hi hfree hissue
    obtain ⟨v, hv, hopened⟩ := issueColl_issued (clear := clear) hissue hfree
    exact ⟨v, hi.trans (next_congr hv), hopened.state, hopened.issued, hopened.opened, hopened.rest, hopened.opseq⟩
  exact ⟨opens _ (colOp 0xA0 (xm 8 0) a w) (fun _ => none) rfl, opens _ (colOp 0xA1 (xm 7 0) a w) (fun _ => none) rfl,
    opens _ (colOp 0xA2 (xm 7 0) a w) (fun _ => none) rfl, opens _ (colOp 0xA3 (xm 35 0) a w) (fun _ => none) rfl,
    opens _ (colOp 0xA4 (xm 35 0) a w) (fun _ => none) rfl,
    opens _ (fusedOp 0x32 a w) (fun tds => some (fusedGeo w tds)) rfl,
    opens _ (fusedOp 0x33 a w) (fun tds => some (fusedGeo w tds)) rfl⟩

end Sys2Proof.Machine
end

section
/-! SUPPORT. Links (R405 to R418, R446 to R451): reads of a link's state and registers after a write, and all that electrical idle,
training and the sending of flits touch. -/

namespace Sys2Proof.Machine

variable {s t : State} {l st : Nat}

/-! ### The registers of a link -/

@[simp] theorem lnkR_inj {o q : Nat} : lnkR l o = lnkR l q ↔ o = q := by
  unfold lnkR
  omega

/-- A register of a link lies above those of the hub. -/
theorem lnkR_above (l o : Nat) : 0x200000006000 ≤ lnkR l o := by
  unfold lnkR
  omega

/-- No register of a link says where groups lie. -/
theorem lnkR_sameTables (s : State) (l o : Nat) (w : Word) : SameTables s (s.setReg (lnkR l o) w) := by
  refine .setReg s (fun p hp => ?_) (fun d p hd hp => ?_) w
  · unfold lnkR rPartClu hubR
    omega
  · unfold lnkR rGtab accR
    omega

/-! ### The state of a link -/

@[simp] theorem getLnk_setLnk (s : State) (l : Nat) (k : Lnk) : getLnk (setLnk s l k) l = k := smGet_smSet_same _ _ _ _

theorem getLnk_setLnk_other (s : State) {j l : Nat} (h : j ≠ l) (k : Lnk) : getLnk (setLnk s l k) j = getLnk s j :=
  smGet_smSet_other _ _ _ h

theorem getLnk_congr (h : t.lnks = s.lnks) (l : Nat) : getLnk t l = getLnk s l := by rw [getLnk, h, getLnk]

@[simp] theorem getLnk_setReg (s : State) (a : Nat) (w : Word) (l : Nat) : getLnk (s.setReg a w) l = getLnk s l := rfl
@[simp] theorem getLnk_setFld (s : State) (a hi lo v l : Nat) : getLnk (s.setFld a hi lo v) l = getLnk s l := rfl
@[simp] theorem getLnk_setRBit (s : State) (a i : Nat) (b : Bool) (l : Nat) : getLnk (s.setRBit a i b) l = getLnk s l := rfl
@[simp] theorem getLnk_setLnkState (s : State) (j v l : Nat) : getLnk (setLnkState s j v) l = getLnk s l := rfl
@[simp] theorem getLnk_send (s : State) (m : OutMsg) (l : Nat) : getLnk (s.send m) l = getLnk s l := rfl

@[simp] theorem reg_setLnk (s : State) (l : Nat) (k : Lnk) (a : Nat) : (setLnk s l k).reg a = s.reg a := rfl
@[simp] theorem reg_send (s : State) (m : OutMsg) (a : Nat) : (s.send m).reg a = s.reg a := rfl

theorem lnkState_congr (h : t.reg (rLnkStat l) = s.reg (rLnkStat l)) : lnkState t l = lnkState s l := fld_of_reg h 2 0

theorem lnkState_setLnkState (s : State) (l : Nat) {v : Nat} (h : v < 8) : lnkState (setLnkState s l v) l = v :=
  (fld_setFld_same s (rLnkStat l) (by decide) v).trans (Nat.mod_eq_of_lt h)

theorem reg_setLnkState_other (s : State) (l v : Nat) {a : Nat} (h : a ≠ rLnkStat l) : (setLnkState s l v).reg a = s.reg a :=
  reg_setFld_other s h 2 0 v

/-- Reporting touches neither a link nor its registers. -/
theorem Reported.lnkReg (h : Reported s t) (l o : Nat) : t.reg (lnkR l o) = s.reg (lnkR l o) := h.reg_above (lnkR_above l o)

theorem Reported.getLnk (h : Reported s t) (l : Nat) : getLnk t l = getLnk s l := getLnk_congr (by rw [h.rest]) l

theorem Reported.lnkState (h : Reported s t) (l : Nat) : lnkState t l = lnkState s l := lnkState_congr (h.lnkReg l 8)

/-! ### Electrical idle (R417, R418) -/

/-- A link without its partner, in electrical idle. -/
def idled (k : Lnk) : Lnk :=
  { k with step := 0, pages := 0, page := 0, lanes := 0, nak := false, gap := false, miss := 0, sent := [] }

/-- The registers of a link in electrical idle. -/
def idleRegs (s : State) (l st : Nat) : State :=
  setLnkState (((s.setFld (rLnkStat l) 19 8 0).setReg (rLnkPartner l) 0).setReg (rLnkPid l) 0) l st

theorem lnkIdle_eq (s : State) (l st : Nat) :
    lnkIdle s l st = (setLnk (idleRegs s l st) l (idled (getLnk s l))).send (.link l 1 []) := rfl

@[simp] theorem getLnk_lnkIdle (s : State) (l st : Nat) : getLnk (lnkIdle s l st) l = idled (getLnk s l) := getLnk_setLnk _ _ _

theorem reg_lnkIdle_other (s : State) {l a : Nat} (st : Nat) (hstat : a ≠ rLnkStat l) (hpartner : a ≠ rLnkPartner l)
    (hpid : a ≠ rLnkPid l) : (lnkIdle s l st).reg a = s.reg a := by
  unfold lnkIdle
  rw [reg_send, reg_setLnk, reg_setLnkState_other _ _ _ hstat, reg_setReg_other _ hpid, reg_setReg_other _ hpartner,
    reg_setFld_other _ hstat]

theorem lnkState_lnkIdle (s : State) (l : Nat) (hst : st < 8) : lnkState (lnkIdle s l st) l = st :=
  lnkState_setLnkState _ l hst

theorem lnkIdle_partner (s : State) (l st : Nat) :
    (lnkIdle s l st).reg (rLnkPartner l) = 0 ∧ (lnkIdle s l st).reg (rLnkPid l) = 0 := by
  unfold lnkIdle setLnkState
  simp [rLnkStat, rLnkPartner, rLnkPid]

/-- Registers changed, then the link's state and a message. -/
theorem OnlyRegs.setLnk_send (h : OnlyRegs s t) (l : Nat) (k : Lnk) (m : OutMsg) :
    let u := (setLnk t l k).send m
    u = { s with regs := u.regs, lnks := u.lnks, out := s.out ++ [m] } := by
  unfold OnlyRegs at h
  rw [h]
  rfl

theorem lnkIdle_rest (s : State) (l st : Nat) :
    lnkIdle s l st = { s with regs := (lnkIdle s l st).regs, lnks := (lnkIdle s l st).lnks, out := s.out ++ [.link l 1 []] } :=
  OnlyRegs.setLnk_send (((setFld_only s _ _ _ _).trans (setReg_only _ _ _)).trans
    ((setReg_only _ _ _).trans (setFld_only _ _ _ _ _))) l _ _

/-- Electrical idle leaves nothing of the partner and no step of training (R417). -/
theorem lnkIdle_idle (s : State) (l : Nat) (hst : st < 8) : LinkIdle s (lnkIdle s l st) l st := by
  refine ⟨lnkIdle_rest s l st, lnkState_lnkIdle s l hst, ?_, lnkIdle_partner s l st⟩
  rw [getLnk_lnkIdle]
  unfold idled
  rfl

end Sys2Proof.Machine
end

section
/-! PROOF. Training of links: enabling, disabling and retraining, base pages and failures (R412, R414, R415, R418). -/

namespace Sys2Proof.Machine

variable {s t : State} {l st : Nat}

/-! ### What the selection depends on -/

theorem offered_congr (hlocal : t.reg (rLnkLocal l) = s.reg (rLnkLocal l)) (hgone : (getLnk t l).gone = (getLnk s l).gone)
    (ctl : Word) : offered t l ctl = offered s l ctl := by rw [offered, fld_of_reg hlocal, hgone, offered]

theorem sentCap_congr (hlocal : t.reg (rLnkLocal l) = s.reg (rLnkLocal l)) (hgone : (getLnk t l).gone = (getLnk s l).gone)
    (hctl : (getLnk t l).ctl = (getLnk s l).ctl) : sentCap t l = sentCap s l := by
  unfold sentCap ownRates
  rw [offered_congr hlocal hgone, fld_of_reg hlocal, hlocal, hctl]

theorem bothCap_congr (hlocal : t.reg (rLnkLocal l) = s.reg (rLnkLocal l))
    (hpartner : t.reg (rLnkPartner l) = s.reg (rLnkPartner l))
    (hgone : (getLnk t l).gone = (getLnk s l).gone) (hctl : (getLnk t l).ctl = (getLnk s l).ctl) : bothCap t l = bothCap s l := by
  rw [bothCap, sentCap_congr hlocal hgone hctl, hpartner, bothCap]

theorem selOk_of_bothCap (h : bothCap t l = bothCap s l) : selOk t l = selOk s l := by rw [selOk, selRate, h, selOk, selRate]

/-- Without a partner's word nothing is selected. -/
theorem selOk_noPartner (h : s.reg (rLnkPartner l) = 0) : selOk s l = false := by
  have hrate : selRate s l = 0 := by
    have hword : bothCap s l = 0 := by
      rw [bothCap, h]
      exact BitVec.and_zero
    rw [selRate, hword]
    rfl
  rw [selOk, hrate]
  rfl

/-! ### Training begins, fails and ends -/

theorem trainStart_trains (s : State) (l : Nat) : LinkTrains s (trainStart s l) l := by
  refine ⟨?rest, ?state, ?step, ?sent⟩
  case rest =>
    unfold trainStart setLnkState
    rfl
  case state => exact lnkState_setLnkState _ l (by decide)
  case step =>
    rw [trainStart, getLnk_send, getLnk_setLnkState, getLnk_setLnk]
    exact ⟨rfl, rfl⟩
  case sent =>
    unfold trainStart
    rw [sentCap_congr (s := setLnkState _ l 1) (reg_send _ _ _) rfl rfl]
    rfl

theorem reg_trainStart_other (s : State) {a : Nat} (h : a ≠ rLnkStat l) : (trainStart s l).reg a = s.reg a :=
  reg_setLnkState_other _ l 1 h

/-- The link after a failure that counts against the rate tried (R415). -/
def failCounted (s : State) (l : Nat) : Lnk :=
  let k := getLnk s l
  let r := tryRate s l
  let n := if k.rate = r then k.fails + 1 else 1
  { k with
    rate := r, fails := if 3 ≤ n then 0 else n
    gone := if 3 ≤ n ∧ r ≠ 0 then (BitVec.ofNat 3 k.gone ||| BitVec.ofNat 3 (2 ^ (r - 1))).toNat else k.gone }

/-- A port that has lost its last rate, before the event (R415). -/
def rateless (s : State) (l : Nat) : State :=
  (lnkIdle (setLnk (setLnk s l (failCounted s l)) l { failCounted s l with dead := true }) l 6).setRBit (rLnkEvent l) 2 true

theorem trainFail_eq (s : State) (l step : Nat) :
    trainFail s l step =
      if offered (setLnk s l (failCounted s l)) l (s.reg (rLnkCtl l)) = 0 then
        event0 (rateless s l) 0x0404 (l / 6) none [put l 0 ||| put step 16, 0]
      else lnkIdle (setLnk s l (failCounted s l)) l 1 := by
  have hu : getLnk (setLnk s l (failCounted s l)) l = failCounted s l := getLnk_setLnk s l _
  calc trainFail s l step
      = if offered (setLnk s l (failCounted s l)) l (s.reg (rLnkCtl l)) = 0 then
          event0 ((lnkIdle (setLnk (setLnk s l (failCounted s l)) l { getLnk (setLnk s l (failCounted s l)) l with dead := true }) l
            6).setRBit (rLnkEvent l) 2 true) 0x0404 (l / 6) none [put l 0 ||| put step 16, 0]
        else lnkIdle (setLnk s l (failCounted s l)) l 1 := rfl
    _ = _ := by rw [hu, rateless]

/-- What a failed step of training leaves (R415): the failure counted, nothing of the partner, and the port idle, or FAILED
without a rate left. -/
structure TrainingFailed (s t : State) (l : Nat) : Prop where
  counted : (getLnk t l).rate = (failCounted s l).rate ∧ (getLnk t l).fails = (failCounted s l).fails ∧
    (getLnk t l).gone = (failCounted s l).gone
  word : t.reg (rLnkLocal l) = s.reg (rLnkLocal l)
  partner : t.reg (rLnkPartner l) = 0
  port : if offered (setLnk s l (failCounted s l)) l (s.reg (rLnkCtl l)) = 0 then
      lnkState t l = 6 ∧ (getLnk t l).dead = true ∧ t.rbit (rLnkEvent l) 2 = true
    else LinkIdle s t l 1

theorem reg_lnkIdle_local (s : State) (l st : Nat) : (lnkIdle s l st).reg (rLnkLocal l) = s.reg (rLnkLocal l) :=
  reg_lnkIdle_other s st (by simp [rLnkLocal, rLnkStat]) (by simp [rLnkLocal, rLnkPartner]) (by simp [rLnkLocal, rLnkPid])

theorem getLnk_rateless (s : State) (l : Nat) : getLnk (rateless s l) l = idled { failCounted s l with dead := true } := by
  rw [rateless, getLnk_setRBit, getLnk_lnkIdle, getLnk_setLnk]

theorem rateless_failed (s : State) (l : Nat) (hnone : offered (setLnk s l (failCounted s l)) l (s.reg (rLnkCtl l)) = 0) :
    TrainingFailed s (rateless s l) l := by
  have hreg : ∀ a, a ≠ rLnkEvent l → (rateless s l).reg a =
      (lnkIdle (setLnk (setLnk s l (failCounted s l)) l { failCounted s l with dead := true }) l 6).reg a :=
    fun a ha => reg_setRBit_other _ ha 2 true
  refine ⟨?counted, ?word, ?partner, ?port⟩
  case counted =>
    rw [getLnk_rateless]
    exact ⟨rfl, rfl, rfl⟩
  case word =>
    rw [hreg _ (by simp [rLnkLocal, rLnkEvent]), reg_lnkIdle_local, reg_setLnk, reg_setLnk]
  case partner => rw [hreg _ (by simp [rLnkPartner, rLnkEvent]), (lnkIdle_partner _ _ _).1]
  case port =>
    rw [if_pos hnone, getLnk_rateless]
    refine ⟨?_, rfl, rbit_setRBit_same _ _ (by decide) true⟩
    rw [lnkState_congr (hreg _ (by simp [rLnkStat, rLnkEvent])), lnkState_lnkIdle _ _ (by decide)]

/-- The event does not touch the link. -/
theorem TrainingFailed.reported (h : TrainingFailed s t l)
    (hnone : offered (setLnk s l (failCounted s l)) l (s.reg (rLnkCtl l)) = 0) (hu : Reported t u) : TrainingFailed s u l := by
  obtain ⟨counted, word, partner, port⟩ := h
  rw [if_pos hnone] at port
  refine ⟨by rwa [hu.getLnk], (hu.lnkReg l _).trans word, (hu.lnkReg l _).trans partner, ?port⟩
  case port =>
    rw [if_pos hnone, hu.lnkState, hu.getLnk, rLnkEvent, rbit_of_reg (hu.lnkReg l _)]
    exact port

theorem idle_failed (s : State) (l : Nat) (hsome : offered (setLnk s l (failCounted s l)) l (s.reg (rLnkCtl l)) ≠ 0) :
    TrainingFailed s (lnkIdle (setLnk s l (failCounted s l)) l 1) l := by
  obtain ⟨rest, state, step, partner⟩ := lnkIdle_idle (setLnk s l (failCounted s l)) l (st := 1) (by decide)
  refine ⟨?counted, reg_lnkIdle_local _ l 1, partner.1, ?port⟩
  case counted =>
    rw [getLnk_lnkIdle, getLnk_setLnk]
    exact ⟨rfl, rfl, rfl⟩
  case port =>
    rw [if_neg hsome]
    exact ⟨rest, state, step, partner⟩

theorem trainFail_failed (s : State) (l step : Nat) : TrainingFailed s (trainFail s l step) l := by
  rw [trainFail_eq]
  split
  · next hnone => exact (rateless_failed s l hnone).reported hnone (event0_reported _ _ _ _ _)
  · next hsome => exact idle_failed s l hsome

/-- The rates offered after the failure. -/
theorem TrainingFailed.offered (h : TrainingFailed s t l) (ctl : Word) :
    offered t l ctl = offered (setLnk s l (failCounted s l)) l ctl :=
  offered_congr (s := setLnk s l (failCounted s l)) h.word (h.counted.2.2.trans (by rw [getLnk_setLnk])) ctl

/-! ### Electrical idle of a link that carries no traffic (R418) -/

theorem lnkDown_noTraffic (h : lnkLive s l = false) (cause st : Nat) : lnkDown s l cause st = lnkIdle s l st := by
  rw [lnkDown, h]
  rfl

theorem lnkLive_setCtl (s : State) (l i : Nat) (b : Bool) : lnkLive (s.setRBit (rLnkCtl l) i b) l = lnkLive s l := by
  have hstate : lnkState (s.setRBit (rLnkCtl l) i b) l = lnkState s l :=
    lnkState_congr (reg_setRBit_other _ (by simp [rLnkStat, rLnkCtl]) i b)
  rw [lnkLive, hstate, lnkLive]

theorem LinkIdle.restoreRates (h : LinkIdle s t l st) : LinkIdle s (restoreRates t l) l st := by
  obtain ⟨rest, state, step, partner⟩ := h
  refine ⟨?rest, state, ?step, partner⟩
  case rest =>
    unfold Machine.restoreRates setLnk
    rw [rest]
  case step => rw [Machine.restoreRates, getLnk_setLnk]; exact step

/-! ### Base pages (R412, R414) -/

/-- The link after a base page, the exchange at step `st`. -/
def pageTaken (k : Lnk) (page lanes : Nat) (ack : Bool) (st : Nat) : Lnk :=
  { k with step := st, page := page, pages := if k.page = page then k.pages + 1 else 1, lanes := lanes, acked := k.acked || ack }

/-- The base exchange is over: three identical pages, and the own ones acknowledged. -/
def exchangeEnds (k : Lnk) (page : Nat) (ack : Bool) : Prop :=
  3 ≤ (if k.page = page then k.pages + 1 else 1) ∧ (k.acked || ack) = true

/-- The state in which the selection is taken: the partner's word is kept. -/
def wordKept (s : State) (l page lanes : Nat) (ack : Bool) (cap : BitVec 64) : State :=
  (setLnkState (setLnk s l (pageTaken (getLnk s l) page lanes ack 2)) l 2).setReg (rLnkPartner l) (put cap.toNat 0)

theorem put_toNat_zero (w : Word) : put w.toNat 0 = w := by
  rw [put, Nat.shiftLeft_zero, BitVec.ofNat_toNat, BitVec.setWidth_eq]

@[simp] theorem getLnk_wordKept (s : State) (l page lanes : Nat) (ack : Bool) (cap : BitVec 64) :
    getLnk (wordKept s l page lanes ack cap) l = pageTaken (getLnk s l) page lanes ack 2 := by
  rw [wordKept, getLnk_setReg, getLnk_setLnkState, getLnk_setLnk]

section
variable {cap : BitVec 64} {serial : BitVec 48} {port : BitVec 6} {ack : Bool} {lanes : BitVec 4}

/-- The 119 bits of a base page (Table 10.6). -/
def basePageBits (cap : BitVec 64) (serial : BitVec 48) (port : BitVec 6) : Nat :=
  cap.toNat + serial.toNat * 2 ^ 64 + port.toNat * 2 ^ 112 + 2 ^ 118

theorem exchange_open (hen : lnkEn s l = true) (hpresent : lnkPresent s l = true)
    (hstep : (getLnk s l).step = 1 ∨ (getLnk s l).step = 2) :
    (lnkPresent s l && lnkEn s l && (decide ((getLnk s l).step = 1) || decide ((getLnk s l).step = 2))) = true := by
  simpa [hen, hpresent] using hstep

theorem doBasePage_goesOn (hen : lnkEn s l = true) (hpresent : lnkPresent s l = true)
    (hstep : (getLnk s l).step = 1 ∨ (getLnk s l).step = 2)
    (hends : ¬ exchangeEnds (getLnk s l) (basePageBits cap serial port) ack) :
    doBasePage l cap.toNat serial.toNat port.toNat ack lanes.toNat s =
      setLnkState (setLnk s l (pageTaken (getLnk s l) (basePageBits cap serial port) lanes.toNat ack 2)) l 2 := by
  rw [doBasePage, if_pos (exchange_open hen hpresent hstep)]
  refine if_pos ?_
  by_contra hgo
  obtain ⟨hpages, hacked⟩ := not_or.mp hgo
  exact hends ⟨Nat.not_lt.mp hpages, Bool.of_not_eq_false hacked⟩

theorem doBasePage_ends (hen : lnkEn s l = true) (hpresent : lnkPresent s l = true)
    (hstep : (getLnk s l).step = 1 ∨ (getLnk s l).step = 2)
    (hends : exchangeEnds (getLnk s l) (basePageBits cap serial port) ack) :
    let u := wordKept s l (basePageBits cap serial port) lanes.toNat ack cap
    doBasePage l cap.toNat serial.toNat port.toNat ack lanes.toNat s =
      if selOk u l = true then setLnkState (setLnk u l { getLnk u l with step := 3 }) l 3 else trainFail u l 3 := by
  obtain ⟨hpages, hacked⟩ := hends
  intro u
  rw [doBasePage, if_pos (exchange_open hen hpresent hstep)]
  exact if_neg (not_or.mpr ⟨Nat.not_lt.mpr hpages, ne_of_eq_of_ne hacked (by decide)⟩)

/-- The selection stands: the port goes on at step 3 with the partner's word. -/
theorem selected_spec (s : State) (l page lanes : Nat) (ack : Bool) (cap : BitVec 64) :
    let u := wordKept s l page lanes ack cap
    let t := setLnkState (setLnk u l { getLnk u l with step := 3 }) l 3
    t = { s with regs := t.regs, lnks := t.lnks } ∧ getLnk t l = pageTaken (getLnk s l) page lanes ack 3 ∧ lnkState t l = 3 ∧
      t.reg (rLnkPartner l) = cap ∧ selOk t l = selOk u l := by
  intro u t
  have hu : t.reg (rLnkPartner l) = u.reg (rLnkPartner l) := reg_setLnkState_other _ l 3 (by simp [rLnkPartner, rLnkStat])
  have hlocal : t.reg (rLnkLocal l) = u.reg (rLnkLocal l) := reg_setLnkState_other _ l 3 (by simp [rLnkLocal, rLnkStat])
  have hlink : getLnk t l = { getLnk u l with step := 3 } :=
    (getLnk_setLnkState _ l 3 l).trans (getLnk_setLnk u l _)
  refine ⟨?rest, ?link, lnkState_setLnkState _ l (by decide), ?partner, ?sel⟩
  case rest =>
    unfold t u wordKept setLnkState setLnk
    rfl
  case link =>
    rw [hlink, getLnk_wordKept]
    rfl
  case partner =>
    rw [hu]
    exact (smGet_smSet_same _ _ _ _).trans (put_toNat_zero cap)
  case sel => exact selOk_of_bothCap (bothCap_congr hlocal hu (by rw [hlink]) (by rw [hlink]))

/-- A page that does not end the exchange: it is counted, and the port is at step 2. -/
theorem counted_spec (s : State) (l page lanes : Nat) (ack : Bool) :
    let t := setLnkState (setLnk s l (pageTaken (getLnk s l) page lanes ack 2)) l 2
    t = { s with regs := t.regs, lnks := t.lnks } ∧ getLnk t l = pageTaken (getLnk s l) page lanes ack 2 ∧ lnkState t l = 2 ∧
      t.reg (rLnkPartner l) = s.reg (rLnkPartner l) := by
  intro t
  refine ⟨?rest, ?link, lnkState_setLnkState _ l (by decide), reg_setLnkState_other _ l 2 (by simp [rLnkPartner, rLnkStat])⟩
  case rest =>
    unfold t setLnkState setLnk
    rfl
  case link => exact (getLnk_setLnkState _ l 2 l).trans (getLnk_setLnk s l _)

/-- A failed training leaves no selection, in a port that is idle or FAILED. -/
theorem TrainingFailed.noSelection (h : TrainingFailed s t l) : selOk t l = false ∧ (lnkState t l = 1 ∨ lnkState t l = 6) := by
  obtain ⟨-, -, partner, port⟩ := h
  refine ⟨selOk_noPartner partner, ?_⟩
  split at port
  · exact .inr port.1
  · exact .inl port.state

end

/-- Settles O34: every command is an equation of this file; a failed step of training is `TrainingFailed`. -/
theorem linksTrain : Obligations.LinksTrain := by
  unfold Obligations.LinksTrain
  intro l s hup k
  have hlive : ∀ b, lnkLive (s.setRBit (rLnkCtl l) 0 b) l = lnkLive s l := lnkLive_setCtl s l 0
  refine ⟨fun hen hpresent hdead => ?trains, fun hen hpresent hdead => next_congr ?dead, fun h => next_congr ?refused,
    fun hen hpresent hquiet => ⟨?disable, ?retrain⟩, fun hen hpresent hstep hstate => ?restart,
    fun cap serial port ack lanes hen hpresent hstep => ?page, fun step hstep hnone hstate => ?timeout⟩
  case trains =>
    have hdo : doLnkEnable l s = trainStart (s.setRBit (rLnkCtl l) 0 true) l := by
      have hdead' : (getLnk s l).dead = false := hdead
      simp [doLnkEnable, hup, hen, hpresent, hdead']
    refine ⟨_, next_congr hdo, trainStart_trains _ l, ?_⟩
    rw [lnkEn, rbit_of_reg (reg_trainStart_other _ (by simp [rLnkCtl, rLnkStat])), rbit_setRBit_same _ _ (by decide)]
  case dead =>
    have hdead' : (getLnk s l).dead = true := hdead
    simp [doLnkEnable, hup, hen, hpresent, hdead']
  case refused =>
    rcases h with h | h <;> simp [doLnkEnable, hup, h]
  case disable =>
    have hdo : doLnkDisable l s = lnkIdle (s.setRBit (rLnkCtl l) 0 false) l 0 := by
      rw [← lnkDown_noTraffic ((hlive false).trans hquiet) 5 0]
      simp [doLnkDisable, hup, hen, hpresent]
    exact ⟨_, next_congr hdo, lnkIdle_idle _ l (by decide)⟩
  case retrain =>
    have hdo : doLnkRetrain l s = restoreRates (lnkIdle s l 1) l := by
      rw [← lnkDown_noTraffic hquiet 5 1]
      simp [doLnkRetrain, hup, hen, hpresent]
    refine ⟨_, next_congr hdo, (lnkIdle_idle s l (by decide)).restoreRates, ?_⟩
    rw [restoreRates, getLnk_setLnk]
    exact ⟨rfl, rfl, rfl⟩
  case restart =>
    have hstep' : (getLnk s l).step = 0 := hstep
    have hdo : doTrainingRestart l s = trainStart s l := by
      simp [doTrainingRestart, hen, hpresent, hstep', hstate]
    exact ⟨_, next_congr hdo, trainStart_trains s l⟩
  case page =>
    intro page n ends
    by_cases hends : ends
    · have hdo := doBasePage_ends (cap := cap) (lanes := lanes) hen hpresent hstep hends
      by_cases hsel : selOk (wordKept s l page lanes.toNat ack cap) l = true
      · obtain ⟨rest, link, state, partner, sel⟩ := selected_spec s l page lanes.toNat ack cap
        exact ⟨_, next_congr (hdo.trans (if_pos hsel)),
          fun _ => ⟨rest, congrArg Lnk.page link, congrArg Lnk.pages link, congrArg Lnk.lanes link, congrArg Lnk.acked link,
            fun hno => absurd hends hno, fun _ => ⟨state, congrArg Lnk.step link, partner⟩⟩,
          fun _ hno => absurd (sel.trans hsel) (ne_of_eq_of_ne hno (by decide))⟩
      · obtain ⟨hnosel, hport⟩ := (trainFail_failed (wordKept s l page lanes.toNat ack cap) l 3).noSelection
        exact ⟨_, next_congr (hdo.trans (if_neg hsel)),
          fun h => absurd (h.resolve_left (not_not_intro hends)) (ne_of_eq_of_ne hnosel (by decide)), fun _ _ => hport⟩
    · have hdo := doBasePage_goesOn (cap := cap) (lanes := lanes) hen hpresent hstep hends
      obtain ⟨rest, link, state, partner⟩ := counted_spec s l page lanes.toNat ack
      exact ⟨_, next_congr hdo,
        fun _ => ⟨rest, congrArg Lnk.page link, congrArg Lnk.pages link, congrArg Lnk.lanes link, congrArg Lnk.acked link,
          fun _ => ⟨state, congrArg Lnk.step link, partner⟩, fun h => absurd h hends⟩,
        fun h => absurd h hends⟩
  case timeout =>
    intro r n
    have hdo : doTrainingStepTimeout l step.toNat s = trainFail s l step.toNat := by
      refine if_pos ⟨hnone, hstate, ?_⟩
      exact hstep.imp Eq.symm id
    have hfailed := trainFail_failed s l step.toNat
    have hoffered := hfailed.offered (s.reg (rLnkCtl l))
    obtain ⟨⟨hrate, hfails, hgone⟩, -, -, hport⟩ := hfailed
    refine ⟨_, next_congr hdo, hrate, hfails, hgone, fun h => ?_, fun h => ?_⟩
    all_goals rw [hoffered] at h
    · rwa [if_neg h] at hport
    · rwa [if_pos h] at hport

end Sys2Proof.Machine
end

section
/-! PROOF. Keepalives, idle and data flits, and the end of training (R407, R408, R410, R414). -/

namespace Sys2Proof.Machine

variable {s t u : State} {l w : Nat} {f : Flit}

/-! ### What goes out -/

theorem sendFlit_rest (s : State) (l ty seq : Nat) (pay : List Nat) :
    sendFlit s l ty seq pay = { s with
      fresh := s.fresh + 1, out := s.out ++ [.flit l ty (ownFlit s l ty seq pay)], lnks := (sendFlit s l ty seq pay).lnks } := rfl

@[simp] theorem getLnk_sendFlit (s : State) (l ty seq : Nat) (pay : List Nat) :
    getLnk (sendFlit s l ty seq pay) l = { getLnk s l with nak := false } := getLnk_setLnk _ _ _

theorem getLnk_sendFlit_other (s : State) {j l : Nat} (h : j ≠ l) (ty seq : Nat) (pay : List Nat) :
    getLnk (sendFlit s l ty seq pay) j = getLnk s j := getLnk_setLnk_other s.nextFresh h _

/-- The last data flit received in order is acknowledged once the link is UP (R408). -/
theorem ownFlit_ack (hstate : lnkState s l = 4 ∨ lnkState s l = 3) (ty seq : Nat) (pay : List Nat) :
    (ownFlit s l ty seq pay).ack = if lnkState s l = 4 then BitVec.ofNat 12 (getLnk s l).rxSeq else 0xFFF := by
  rcases hstate with h | h
  all_goals
    unfold ownFlit lnkLive
    rw [h]
    rfl

/-! ### Step 6 of training (R414) -/

theorem topBit3_lt (n : Nat) : topBit3 n < 4 := by
  unfold topBit3
  split
  · decide
  · split <;> omega

theorem selRate_lt (s : State) (l : Nat) : selRate s l < 4 := topBit3_lt _

theorem selRate_of_bothCap (h : bothCap t l = bothCap s l) : selRate t l = selRate s l := by rw [selRate, h, selRate]

theorem widthFor_of_bothCap (h : bothCap t l = bothCap s l) (n : Nat) : widthFor t l n = widthFor s l n := by
  rw [widthFor, h, widthFor]

/-- LNK_STAT of a link that is UP (Table 10.20). -/
def upWord (r w lanes gen n : Nat) : Word :=
  put 4 0 ||| put r 8 ||| put r 10 ||| put w 12 ||| put lanes 14 ||| put gen 18 ||| put n 20

theorem upWord_state (r w lanes gen n : Nat) : bits (upWord r w lanes gen n) 2 0 = 4 := by
  simp only [upWord, bits_or]
  rw [bits_put_same 4 (by decide), bits_put_below r (by decide), bits_put_below r (by decide), bits_put_below w (by decide),
    bits_put_below lanes (by decide), bits_put_below gen (by decide), bits_put_below n (by decide)]
  rfl

theorem upWord_rate {r : Nat} (hr : r < 4) (w lanes gen n : Nat) : bits (upWord r w lanes gen n) 9 8 = r := by
  simp only [upWord, bits_or]
  rw [bits_put_above (by decide), bits_put_same r (by decide), bits_put_below r (by decide), bits_put_below w (by decide),
    bits_put_below lanes (by decide), bits_put_below gen (by decide), bits_put_below n (by decide)]
  simpa using hr

theorem upWord_width {r : Nat} (hr : r < 4) (w lanes gen n : Nat) : bits (upWord r w lanes gen n) 13 12 = w % 4 := by
  simp only [upWord, bits_or]
  rw [bits_put_above (by decide), bits_put_above (lt_of_lt_of_le hr (by decide)), bits_put_above (lt_of_lt_of_le hr (by decide)),
    bits_put_same w (by decide), bits_put_below lanes (by decide), bits_put_below gen (by decide), bits_put_below n (by decide)]
  simp

/-- A link that is UP as step 6 of training leaves it: at the selection, no data flit received or acknowledged. -/
structure LinkIsUp (s t : State) (l w : Nat) : Prop where
  rest : t = { s with regs := t.regs, lnks := t.lnks, hub := t.hub, out := t.out, fresh := t.fresh }
  state : lnkState t l = 4
  rate : t.fld (rLnkStat l) 9 8 = selRate s l
  width : t.fld (rLnkStat l) 13 12 = w % 4
  flits : (getLnk t l).rxSeq = 0xFFF ∧ (getLnk t l).ackRx = 0xFFF
  fails : (getLnk t l).fails = 0

/-- The link that step 6 leaves, before its event. -/
def upLink (s : State) (l w : Nat) : State :=
  let k := getLnk s l
  let r := selRate s l
  let s1 := s.setReg (rLnkStat l) (upWord r w (useLanes k.lanes w) (bits (s.reg (rLnkPartner l)) 10 9)
    ((s.fld (rLnkStat l) 35 20 + 1) % 65536))
  setLnk ((s1.setReg (rLnkPid l) (put (k.page / 2 ^ 64 % 2 ^ 54) 0)).setFld (rLnkEvent l) 11 8 0) l { k with
    rxSeq := 0xFFF, ackRx := 0xFFF, nak := false, gap := false, miss := 0, fails := 0, crdD := 0, crdC := 0, txSeq := 0,
    sent := [] }

theorem reg_upLink_stat (s : State) (l w : Nat) : (upLink s l w).reg (rLnkStat l) =
    upWord (selRate s l) w (useLanes (getLnk s l).lanes w) (bits (s.reg (rLnkPartner l)) 10 9)
      ((s.fld (rLnkStat l) 35 20 + 1) % 65536) := by
  rw [upLink, reg_setLnk, reg_setFld_other _ (by simp [rLnkStat, rLnkEvent]), reg_setReg_other _ (by simp [rLnkStat, rLnkPid])]
  exact smGet_smSet_same _ _ _ _

theorem linkUp_reported (s : State) (l w : Nat) : Reported (upLink s l w) (linkUp s l w) := event0_reported _ _ _ _ _

theorem linkUp_isUp (s : State) (l w : Nat) : LinkIsUp s (linkUp s l w) l w := by
  have hevent := linkUp_reported s l w
  have hstat : (linkUp s l w).reg (rLnkStat l) = _ := (hevent.lnkReg l 8).trans (reg_upLink_stat s l w)
  have hlink : getLnk (linkUp s l w) l = _ := (hevent.getLnk l).trans (getLnk_setLnk _ _ _)
  refine ⟨?rest, ?state, ?rate, ?width, ?flits, ?fails⟩
  case rest =>
    rw [hevent.rest]
    rfl
  case state => rw [lnkState, State.fld, hstat, upWord_state]
  case rate => rw [State.fld, hstat, upWord_rate (selRate_lt s l)]
  case width => rw [State.fld, hstat, upWord_width (selRate_lt s l)]
  case flits =>
    rw [hlink]
    exact ⟨rfl, rfl⟩
  case fails => rw [hlink]

/-- The end of training from a state that differs in what is sent and in the marks of the two keepalives. -/
theorem stepSix_isUp (hu : u = { s with lnks := u.lnks, out := u.out, fresh := u.fresh })
    (hlink : (getLnk u l).gone = (getLnk s l).gone ∧ (getLnk u l).ctl = (getLnk s l).ctl ∧
      (getLnk u l).lanes = (getLnk s l).lanes)
    (hout : (getLnk u l).kaOut = true) (hin : (getLnk u l).kaIn = true) :
    LinkIsUp s (stepSix u l) l (widthFor s l (laneCount (getLnk s l).lanes)) := by
  obtain ⟨hgone, hctl, hlanes⟩ := hlink
  have hregs : u.regs = s.regs := by rw [hu]
  have hboth : bothCap u l = bothCap s l := bothCap_congr (reg_congr hregs _) (reg_congr hregs _) hgone hctl
  have hdo : stepSix u l = linkUp u l (widthFor s l (laneCount (getLnk s l).lanes)) := by
    rw [← widthFor_of_bothCap hboth, ← hlanes]
    exact if_pos (by rw [hout, hin]; rfl)
  rw [hdo]
  have hup := linkUp_isUp u l (widthFor s l (laneCount (getLnk s l).lanes))
  generalize linkUp u l (widthFor s l (laneCount (getLnk s l).lanes)) = t at hup ⊢
  obtain ⟨rest, state, rate, width, flits, fails⟩ := hup
  refine ⟨?rest, state, rate.trans (selRate_of_bothCap hboth), width, flits, fails⟩
  rw [hu] at rest
  exact rest

/-! ### Keepalives -/

theorem pastSwitch_iff : pastSwitch s l = true ↔ lnkState s l = 3 ∧ (getLnk s l).step = 3 := by simp [pastSwitch]

/-- In training the port's own keepalive is marked as sent. -/
def keepaliveOut (s : State) (l : Nat) : State :=
  setLnk (sendFlit s l 2 0 []) l { getLnk (sendFlit s l 2 0 []) l with kaOut := true }

theorem getLnk_keepaliveOut (s : State) (l : Nat) :
    getLnk (keepaliveOut s l) l = { getLnk s l with nak := false, kaOut := true } := by
  rw [keepaliveOut, getLnk_setLnk, getLnk_sendFlit]

theorem keepaliveOut_rest (s : State) (l : Nat) :
    keepaliveOut s l = { s with
      fresh := s.fresh + 1, out := s.out ++ [.flit l 2 (ownFlit s l 2 0 [])], lnks := (keepaliveOut s l).lnks } := rfl

theorem getLnk_keepaliveOut_other (s : State) {j l : Nat} (h : j ≠ l) : getLnk (keepaliveOut s l) j = getLnk s j :=
  (getLnk_setLnk_other _ h _).trans (getLnk_sendFlit_other s h 2 0 [])

theorem doKeepaliveSend_up (h : lnkState s l = 4) : doKeepaliveSend l s = sendFlit s l 2 0 [] := if_pos h

theorem doKeepaliveSend_training (h : pastSwitch s l = true) : doKeepaliveSend l s = stepSix (keepaliveOut s l) l := by
  have hstate : ¬ lnkState s l = 4 := by
    rw [(pastSwitch_iff.mp h).1]
    decide
  exact (if_neg hstate).trans (if_pos h)

theorem stepSix_waits (h : (getLnk s l).kaOut = false ∨ (getLnk s l).kaIn = false) : stepSix s l = s := by
  refine if_neg ?_
  rcases h with h | h <;> simp [h]

theorem doKeepaliveFlit_training (h : pastSwitch s l = true) (hack : f.ack = 0xFFF) (hok : flitOk s l 2 f = true)
    (hwidth : widthOk s l (widthFor s l (laneCount (getLnk s l).lanes)) = true) :
    doKeepaliveFlit l f s = stepSix (setLnk s l { getLnk s l with kaIn := true }) l := by
  have hstate : ¬ lnkState s l = 4 := by
    rw [(pastSwitch_iff.mp h).1]
    decide
  rw [doKeepaliveFlit, if_neg (by rw [hok]; decide), if_neg hstate, if_pos ⟨h, hack⟩, if_pos hwidth]

/-! ### Flits of a link that is UP -/

theorem doKeepaliveFlit_up (h : lnkState s l = 4) (hok : flitOk s l 2 f = true) : doKeepaliveFlit l f s = takeHeader s l f := by
  rw [doKeepaliveFlit, if_neg (by rw [hok]; decide), if_pos h]

theorem doIdleFlit_up (h : lnkState s l = 4) (hok : flitOk s l 0 f = true) : doIdleFlit l f s = takeHeader s l f :=
  if_pos ⟨h, hok⟩

/-- A data flit in order is taken (R410). -/
theorem doDataFlit_inOrder (h : lnkState s l = 4) (hok : flitOk s l 1 f = true)
    (hgap : (f.seq.toNat + 8192 - (getLnk s l).rxSeq - 1) % 4096 = 0) :
    doDataFlit l f s = setLnk (takeHeader s l f) l { getLnk (takeHeader s l f) l with
      rxSeq := f.seq.toNat, nak := false, gap := false } := by
  rw [doDataFlit, if_neg (not_not_intro h), if_neg (by rw [hok]; decide)]
  exact if_pos hgap

/-- A data flit that is bad, or leaves the first gap, is discarded with NAK owed (R410). -/
theorem doDataFlit_discarded (h : lnkState s l = 4)
    (hbad : flitOk s l 1 f = false ∨ ((getLnk s l).gap = false ∧ 0 < (f.seq.toNat + 8192 - (getLnk s l).rxSeq - 1) % 4096 ∧
      (f.seq.toNat + 8192 - (getLnk s l).rxSeq - 1) % 4096 < 1024)) :
    doDataFlit l f s = setLnk s l { getLnk s l with nak := true, gap := true } := by
  rw [doDataFlit, if_neg (not_not_intro h)]
  by_cases hok : flitOk s l 1 f = false
  · exact if_pos hok
  · obtain ⟨hgap, hpos, hnear⟩ := hbad.resolve_left hok
    rw [if_neg hok]
    exact (if_neg hpos.ne').trans (if_pos ⟨hnear, hgap⟩)

/-- Settles O35: a header is `takeHeader`; step 6 of training is `stepSix_isUp`. -/
theorem flitsPass : Obligations.FlitsPass := by
  unfold Obligations.FlitsPass
  intro l f s k heard w isUp
  have hup : ∀ t, LinkIsUp s t l w → isUp t := fun t h => ⟨h.rest, h.state, h.rate, h.width, h.flits.1, h.flits.2, h.fails⟩
  refine ⟨fun h => ?sends, fun h hin => ?ends, fun h => ⟨fun hok => next_congr ?keepalive, fun hok => next_congr ?idle,
    fun hok hseq hrx => next_congr ?inOrder, fun hbad => next_congr (doDataFlit_discarded h hbad)⟩,
    fun h hack hok hwidth => ⟨fun hout => next_congr ?waits, fun hout => ?up⟩⟩
  case sends =>
    rcases h with h | ⟨h, hin⟩
    · refine ⟨_, ownFlit s l 2 0 [], next_congr (doKeepaliveSend_up h), sendFlit_rest s l 2 0 [],
        fun j hj => getLnk_sendFlit_other s hj 2 0 [], ?link, rfl, rfl, rfl, ownFlit_ack (.inl h) 2 0 [], rfl⟩
      rw [getLnk_sendFlit, h]
      simp [k]
    · have hstate := (pastSwitch_iff.mp h).1
      have hdo : doKeepaliveSend l s = keepaliveOut s l := by
        rw [doKeepaliveSend_training h, stepSix_waits (.inr ?_)]
        rw [getLnk_keepaliveOut]
        exact hin
      refine ⟨_, ownFlit s l 2 0 [], next_congr hdo, keepaliveOut_rest s l,
        fun j hj => getLnk_keepaliveOut_other s hj, ?marked, rfl, rfl, rfl, ownFlit_ack (.inr hstate) 2 0 [], rfl⟩
      rw [getLnk_keepaliveOut, hstate]
      simp [k]
  case ends =>
    refine ⟨_, next_congr (doKeepaliveSend_training h), hup _ (stepSix_isUp (keepaliveOut_rest s l) ?_ ?_ ?_)⟩
    all_goals rw [getLnk_keepaliveOut]
    · exact ⟨rfl, rfl, rfl⟩
    · exact hin
  case keepalive => exact doKeepaliveFlit_up h hok
  case idle => exact doIdleFlit_up h hok
  case inOrder =>
    refine doDataFlit_inOrder h hok ?_
    have hnext : f.seq.toNat = ((getLnk s l).rxSeq + 1) % 4096 := hseq
    have hbound : (getLnk s l).rxSeq < 4096 := hrx
    omega
  case waits =>
    rw [doKeepaliveFlit_training h hack hok hwidth]
    exact stepSix_waits (.inl (by rw [getLnk_setLnk]; exact hout))
  case up =>
    refine ⟨_, next_congr (doKeepaliveFlit_training h hack hok hwidth), hup _ (stepSix_isUp rfl ?_ ?_ ?_)⟩
    all_goals rw [getLnk_setLnk]
    · exact ⟨rfl, rfl, rfl⟩
    · exact hout

end Sys2Proof.Machine
end

section
/-! PROOF. The loss of a link, and recovery (R416 to R418, R448). -/

namespace Sys2Proof.Machine

variable {s t u : State} {l st cause w : Nat}

theorem Reported.lnks (h : Reported s t) : t.lnks = s.lnks := by rw [h.rest]

/-! ### What a link leaves of groups and collectives -/

/-- Groups, their records and the collectives in flight are as before. -/
structure GroupsKept (s t : State) : Prop where
  tables : SameTables s t
  bytes : t.mem = s.mem ∧ t.ent = s.ent
  acc : t.acc = s.acc

theorem GroupsKept.trans (h : GroupsKept s t) (g : GroupsKept t u) : GroupsKept s u :=
  ⟨h.tables.trans g.tables, ⟨g.bytes.1.trans h.bytes.1, g.bytes.2.trans h.bytes.2⟩, g.acc.trans h.acc⟩

theorem GroupsKept.beside (hregs : t.regs = s.regs) (hmem : t.mem = s.mem) (hent : t.ent = s.ent) (hacc : t.acc = s.acc) :
    GroupsKept s t := ⟨.of_regs hregs, ⟨hmem, hent⟩, hacc⟩

theorem setReg_groupsKept (s : State) (l o : Nat) (v : Word) : GroupsKept s (s.setReg (lnkR l o) v) :=
  ⟨lnkR_sameTables s l o v, ⟨rfl, rfl⟩, rfl⟩

theorem Reported.groupsKept (h : Reported s t) : GroupsKept s t := by
  refine ⟨h.sameTables, ⟨?_, ?_⟩, ?_⟩
  all_goals rw [h.rest]

theorem idleRegs_groupsKept (s : State) (l st : Nat) : GroupsKept s (idleRegs s l st) := by
  unfold idleRegs setLnkState State.setFld
  exact (((setReg_groupsKept s l 0x008 _).trans (setReg_groupsKept _ l 0x018 0)).trans (setReg_groupsKept _ l 0x020 0)).trans
    (setReg_groupsKept _ l 0x008 _)

theorem lnkIdle_groupsKept (s : State) (l st : Nat) : GroupsKept s (lnkIdle s l st) := by
  rw [lnkIdle_eq]
  exact (idleRegs_groupsKept s l st).trans (.beside rfl rfl rfl rfl)

theorem sendDown_groupsKept (s : State) (l : Nat) : GroupsKept s (sendDown s l) :=
  List.foldlRecOn _ _ (.beside rfl rfl rfl rfl) fun _ ht _ _ => ht.trans (.beside rfl rfl rfl rfl)

/-- A link without collectives and ACTIVE groups beside it stays so. -/
theorem LinkAlone.of_kept (h : LinkAlone s l) (hkept : GroupsKept s t) : LinkAlone t l := by
  obtain ⟨hcolls, hgroups⟩ := h
  obtain ⟨htables, ⟨hmem, hent⟩, hacc⟩ := hkept
  refine ⟨?colls, fun q hq => ?groups⟩
  case colls =>
    rw [collsOver, List.map_eq_nil_iff] at hcolls ⊢
    rw [hacc, hcolls]
  case groups =>
    rw [htables.grpRec (readByte_congr hmem hent) (mem_allGroups hq)]
    rw [htables.allGroups] at hq
    exact hgroups q hq

/-- No group is ACTIVE, so none loses a route (R423). -/
theorem LinkAlone.checkRoutes (h : LinkAlone s l) (link : Nat) : checkRoutes s link = s :=
  foldl_unchanged fun q hq => if_pos (h.2 q hq)

/-! ### The loss of a link (R417) -/

/-- The registers of a lost link, before its event. -/
def lossNoted (s : State) (l cause st : Nat) : State :=
  ((lnkIdle s l st).setRBit (rLnkEvent l) 0 true).setFld (rLnkEvent l) 7 4 cause

theorem lossNoted_groupsKept (s : State) (l cause st : Nat) : GroupsKept s (lossNoted s l cause st) :=
  (lnkIdle_groupsKept s l st).trans ((setReg_groupsKept _ l 0x028 _).trans (setReg_groupsKept _ l 0x028 _))

theorem linkLost_alone (h : LinkAlone s l) (cause st : Nat) : Reported (lossNoted s l cause st) (linkLost s l cause st) := by
  have hreport := (cntInc_reported (lossNoted s l cause st) (0x30C0 + l) 0 1).trans
    (event0_reported _ 0x0402 (l / 6) none [put l 0 ||| put cause 16, put (getLnk s l).lanes 0])
  have halone := h.of_kept ((lossNoted_groupsKept s l cause st).trans hreport.groupsKept)
  have hdo : linkLost s l cause st = event0 (cntInc (lossNoted s l cause st) (0x30C0 + l) 0 1) 0x0402 (l / 6) none
      [put l 0 ||| put cause 16, put (getLnk s l).lanes 0] := by
    rw [linkLost, h.1, List.foldl_nil]
    exact halone.checkRoutes l
  rwa [hdo]

theorem lossNoted_lost (s : State) (l : Nat) (hcause : cause < 16) (hst : st < 8) :
    LinkLost s (lossNoted s l cause st) l cause st := by
  have hreg : ∀ a, a ≠ rLnkEvent l → (lossNoted s l cause st).reg a = (lnkIdle s l st).reg a := fun a ha => by
    rw [lossNoted, reg_setFld_other _ ha, reg_setRBit_other _ ha]
  refine ⟨?rest, ?state, ⟨?down, ?reason⟩, ?partner⟩
  case rest =>
    have hidle := lnkIdle_rest s l st
    have hregs : OnlyRegs (lnkIdle s l st) (lossNoted s l cause st) := (setRBit_only _ _ _ _).trans (setFld_only _ _ _ _ _)
    unfold OnlyRegs at hregs
    generalize lnkIdle s l st = u at hidle hregs
    rw [hregs, hidle]
  case state => rw [lnkState_congr (hreg _ (by simp [rLnkStat, rLnkEvent])), lnkState_lnkIdle s l hst]
  case down => rw [lossNoted, rbit_setFld_other _ _ (.inl (by decide)) (by decide), rbit_setRBit_same _ _ (by decide)]
  case reason =>
    rw [lossNoted, fld_setFld_same _ _ (by decide)]
    exact Nat.mod_eq_of_lt hcause
  case partner =>
    rw [hreg _ (by simp [rLnkPartner, rLnkEvent]), hreg _ (by simp [rLnkPid, rLnkEvent])]
    exact lnkIdle_partner s l st

theorem LinkLost.reported (h : LinkLost s t l cause st) (hu : Reported t u) : LinkLost s u l cause st := by
  obtain ⟨rest, state, event, partner⟩ := h
  refine ⟨?rest, (hu.lnkState l).trans state, ?event, ?partner⟩
  case rest =>
    have hrest := hu.rest
    rw [rest] at hrest
    rw [hu.lnks]
    exact hrest
  case event =>
    have hevent : u.reg (rLnkEvent l) = t.reg (rLnkEvent l) := hu.lnkReg l 0x028
    rw [rbit_of_reg hevent, fld_of_reg hevent]
    exact event
  case partner => exact ⟨(hu.lnkReg l 0x018).trans partner.1, (hu.lnkReg l 0x020).trans partner.2⟩

theorem linkLost_lost (h : LinkAlone s l) (hcause : cause < 16) (hst : st < 8) : LinkLost s (linkLost s l cause st) l cause st :=
  (lossNoted_lost s l hcause hst).reported (linkLost_alone h cause st)

/-- What is lost from a state that differs in the link and its registers is lost from the first one. -/
theorem LinkLost.of_beside (hu : u = { s with regs := u.regs, lnks := u.lnks, hub := u.hub, out := u.out })
    (h : LinkLost u t l cause st) : LinkLost s t l cause st := by
  obtain ⟨rest, state, event, partner⟩ := h
  refine ⟨?_, state, event, partner⟩
  rw [hu] at rest
  exact rest

theorem LinkLost.restoreRates (h : LinkLost s t l cause st) : LinkLost s (restoreRates t l) l cause st := by
  obtain ⟨rest, state, event, partner⟩ := h
  refine ⟨?_, state, event, partner⟩
  unfold Machine.restoreRates setLnk
  rw [rest]

/-- EN = 0 or RETRAIN of a link that carries traffic: three DOWN flits, then the loss (R418). -/
theorem lnkDown_lost (halone : LinkAlone s l) (hlive : lnkLive s l = true) (hcause : cause < 16) (hst : st < 8) :
    LinkLost (sendDown s l) (lnkDown s l cause st) l cause st := by
  rw [lnkDown, if_pos hlive]
  exact linkLost_lost (halone.of_kept (sendDown_groupsKept s l)) hcause hst

/-! ### The receive window (R417) -/

theorem doKeepaliveWindowEnd_seen (h : lnkState s l = 4) :
    doKeepaliveWindowEnd l true s = setLnk s l { getLnk s l with miss := 0 } := by
  rw [doKeepaliveWindowEnd, if_neg (not_not_intro h), if_pos rfl]

theorem doKeepaliveWindowEnd_missed (h : lnkState s l = 4) (hmiss : (getLnk s l).miss < 3) :
    doKeepaliveWindowEnd l false s = setLnk s l { getLnk s l with miss := (getLnk s l).miss + 1 } := by
  rw [doKeepaliveWindowEnd, if_neg (not_not_intro h), if_neg (by decide)]
  exact if_pos (Nat.succ_lt_succ hmiss)

theorem doKeepaliveWindowEnd_fourth (h : lnkState s l = 4) (hmiss : 3 ≤ (getLnk s l).miss) :
    doKeepaliveWindowEnd l false s = linkLost s l 1 1 := by
  rw [doKeepaliveWindowEnd, if_neg (not_not_intro h), if_neg (by decide)]
  exact if_neg (by omega)

/-! ### Recovery (R416, R448) -/

/-- The registers of a link in recovery: PARTNER_GEN reads 0. -/
def recoverRegs (s : State) (l : Nat) : State := (setLnkState s l 5).setFld (rLnkStat l) 19 18 0

theorem lnkRecover_up (h : lnkState s l ≠ 5) : lnkRecover s l = (recoverRegs s l).send (.link l 5 []) := if_neg h

theorem recoverRegs_only (s : State) (l : Nat) : OnlyRegs s (recoverRegs s l) :=
  (setFld_only _ _ _ _ _).trans (setFld_only _ _ _ _ _)

theorem reg_recoverRegs_other (s : State) {a : Nat} (ha : a ≠ rLnkStat l) : (recoverRegs s l).reg a = s.reg a := by
  rw [recoverRegs, reg_setFld_other _ ha, reg_setLnkState_other _ _ _ ha]

theorem lnkState_recoverRegs (s : State) (l : Nat) : lnkState (recoverRegs s l) l = 5 := by
  rw [recoverRegs, lnkState, fld_setFld_field _ _ (.inl (by decide)), ← lnkState, lnkState_setLnkState _ _ (by decide)]

theorem gen_recoverRegs (s : State) (l : Nat) : (recoverRegs s l).fld (rLnkStat l) 19 18 = 0 := by
  rw [recoverRegs, fld_setFld_same _ _ (by decide), Nat.zero_mod]

theorem lnkRecover_rest (h : lnkState s l ≠ 5) :
    lnkRecover s l = { s with regs := (lnkRecover s l).regs, out := s.out ++ [.link l 5 []] } := by
  have hregs := recoverRegs_only s l
  unfold OnlyRegs at hregs
  rw [lnkRecover_up h]
  generalize recoverRegs s l = u at hregs
  rw [hregs]
  rfl

theorem lnkRecover_regs (h : lnkState s l ≠ 5) (a : Nat) : (lnkRecover s l).reg a = (recoverRegs s l).reg a := by
  rw [lnkRecover_up h, reg_send]

theorem reg_lnkRecover_other (s : State) {a : Nat} (ha : a ≠ rLnkStat l) : (lnkRecover s l).reg a = s.reg a := by
  by_cases h : lnkState s l = 5
  · rw [lnkRecover, if_pos h]
  · rw [lnkRecover_regs h, reg_recoverRegs_other s ha]

theorem lnkRecover_state (s : State) (l : Nat) : lnkState (lnkRecover s l) l = 5 := by
  by_cases h : lnkState s l = 5
  · rw [lnkRecover, if_pos h, h]
  · rw [lnkState_congr (lnkRecover_regs h _), lnkState_recoverRegs]

theorem lnkRecover_gen (h : lnkState s l ≠ 5) : (lnkRecover s l).fld (rLnkStat l) 19 18 = 0 := by
  rw [fld_of_reg (lnkRecover_regs h _), gen_recoverRegs]

theorem lnkRecover_beside (s : State) (l : Nat) :
    let t := lnkRecover s l
    t = { s with regs := t.regs, out := t.out } := by
  by_cases h : lnkState s l = 5
  · rw [lnkRecover, if_pos h]
  · intro t
    have hout : t.out = s.out ++ [.link l 5 []] := congrArg State.out (lnkRecover_rest h)
    rw [hout]
    exact lnkRecover_rest h

theorem getLnk_lnkRecover (s : State) (l j : Nat) : getLnk (lnkRecover s l) j = getLnk s j := by
  unfold lnkRecover
  split <;> rfl

/-! ### A lane leaves service (R416) -/

/-- BAD_LANES of LNK_EVENT with one lane more. -/
def badLanes (s : State) (l lane : Nat) : Nat := (BitVec.ofNat 4 (s.fld (rLnkEvent l) 11 8) ||| BitVec.ofNat 4 (2 ^ lane)).toNat

/-- The link without a lane. -/
def laneOut (s : State) (l lane : Nat) : State :=
  (setLnk s l { getLnk s l with lanes := (getLnk s l).lanes - 2 ^ lane }).setFld (rLnkEvent l) 11 8 (badLanes s l lane)

/-- The link without a lane, which is counted. -/
def laneCounted (s : State) (l lane : Nat) : State := cntInc (laneOut s l lane) (0x3080 + l) 0 1

theorem badLanes_lane (s : State) (l : Nat) {lane : Nat} (h : lane < 4) : (badLanes s l lane).testBit lane = true := by
  rw [badLanes, BitVec.testBit_toNat, BitVec.getLsbD_or, BitVec.getLsbD_ofNat, BitVec.getLsbD_ofNat, Nat.testBit_two_pow_self,
    decide_eq_true h, Bool.and_true, Bool.or_true]

theorem laneOut_event (s : State) (l : Nat) {lane : Nat} (h : lane < 4) :
    (laneOut s l lane).rbit (rLnkEvent l) (8 + lane) = true := by
  rw [laneOut, State.rbit, reg_setFld, if_pos rfl, bit, getLsbD_setBits, if_pos (by omega), Nat.add_sub_cancel_left,
    badLanes_lane s l h, Bool.and_true]
  exact decide_eq_true (by omega)

theorem laneCounted_reported (s : State) (l lane : Nat) : Reported (laneOut s l lane) (laneCounted s l lane) :=
  cntInc_reported _ _ _ _

theorem getLnk_laneCounted (s : State) (l lane : Nat) :
    getLnk (laneCounted s l lane) l = { getLnk s l with lanes := (getLnk s l).lanes - 2 ^ lane } := by
  rw [(laneCounted_reported s l lane).getLnk, laneOut, getLnk_setFld, getLnk_setLnk]

theorem laneCounted_rest (s : State) (l lane : Nat) :
    let t := laneCounted s l lane
    t = { s with regs := t.regs, lnks := t.lnks, hub := t.hub, out := t.out } := by
  intro t
  have hlnks : t.lnks = (laneOut s l lane).lnks := (laneCounted_reported s l lane).lnks
  rw [hlnks]
  exact (laneCounted_reported s l lane).rest

theorem laneCounted_groupsKept (s : State) (l lane : Nat) : GroupsKept s (laneCounted s l lane) := by
  have hkept : GroupsKept s (laneOut s l lane) :=
    GroupsKept.trans (t := setLnk s l { getLnk s l with lanes := (getLnk s l).lanes - 2 ^ lane }) (.beside rfl rfl rfl rfl)
      (setReg_groupsKept _ l 0x028 _)
  exact hkept.trans (laneCounted_reported s l lane).groupsKept

/-- A lane has left service of a link that goes on in recovery (R416). -/
structure LaneSpared (s t : State) (l lane : Nat) : Prop where
  rest : t = { s with regs := t.regs, lnks := t.lnks, hub := t.hub, out := t.out }
  state : lnkState t l = 5
  link : getLnk t l = { getLnk s l with lanes := (getLnk s l).lanes - 2 ^ lane }
  event : t.rbit (rLnkEvent l) (8 + lane) = true

theorem laneCounted_spared (s : State) (l : Nat) {lane : Nat} (h : lane < 4) :
    LaneSpared s (lnkRecover (laneCounted s l lane) l) l lane := by
  refine ⟨?rest, lnkRecover_state _ l, ?link, ?event⟩
  case rest =>
    have hcounted := laneCounted_rest s l lane
    have hrecover := lnkRecover_beside (laneCounted s l lane) l
    generalize laneCounted s l lane = u at hcounted hrecover
    generalize lnkRecover u l = t at hrecover
    rw [hrecover, hcounted]
  case link => rw [getLnk_lnkRecover, getLnk_laneCounted]
  case event =>
    have hreg : (lnkRecover (laneCounted s l lane) l).reg (rLnkEvent l) = (laneOut s l lane).reg (rLnkEvent l) :=
      (reg_lnkRecover_other _ (by simp [rLnkStat, rLnkEvent])).trans ((laneCounted_reported s l lane).lnkReg l 0x028)
    rw [rbit_of_reg hreg, laneOut_event s l h]

theorem widthOk_congr (h : (getLnk t l).ctl = (getLnk s l).ctl) (w : Nat) : widthOk t l w = widthOk s l w := by
  rw [widthOk, h, widthOk]

theorem doLaneFailure_live {lane : Nat} (hlane : (getLnk s l).lanes / 2 ^ lane % 2 = 1) (hlive : lnkLive s l = true) :
    doLaneFailure l lane s =
      if widthOk s l (widthFor s l (laneCount ((getLnk s l).lanes - 2 ^ lane))) = true then lnkRecover (laneCounted s l lane) l
      else linkLost (laneCounted s l lane) l 3 1 := by
  have hboth : bothCap (setLnk s l { getLnk s l with lanes := (getLnk s l).lanes - 2 ^ lane }) l = bothCap s l :=
    bothCap_congr rfl rfl (by rw [getLnk_setLnk]) (by rw [getLnk_setLnk])
  have hok : ∀ w, widthOk (laneCounted s l lane) l w = widthOk s l w := widthOk_congr (by rw [getLnk_laneCounted])
  rw [← widthFor_of_bothCap hboth, ← hok, doLaneFailure, if_neg (by omega)]
  exact if_pos hlive

/-! ### Recovery ends (R416) -/

/-- The link `l` has sent flits: beside them, what is owed of its NAK and counters, nothing has changed. -/
structure Resent (s t : State) (l : Nat) : Prop where
  rest : t = { s with regs := t.regs, lnks := t.lnks, hub := t.hub, out := t.out, fresh := t.fresh }
  regs : ∀ o, t.reg (lnkR l o) = s.reg (lnkR l o)
  link : getLnk t l = { getLnk s l with nak := (getLnk t l).nak }

theorem Resent.trans (h : Resent s t l) (g : Resent t u l) : Resent s u l := by
  refine ⟨?rest, fun o => (g.regs o).trans (h.regs o), ?link⟩
  case rest =>
    have hrest := g.rest
    rw [h.rest] at hrest
    exact hrest
  case link =>
    have hlink := g.link
    rw [h.link] at hlink
    exact hlink

theorem Reported.resent (h : Reported s t) (l : Nat) : Resent s t l := by
  refine ⟨?rest, h.lnkReg l, ?link⟩
  case rest =>
    have hfresh : t.fresh = s.fresh := by rw [h.rest]
    rw [h.lnks, hfresh]
    exact h.rest
  case link => rw [h.getLnk]

theorem sendFlit_resent (s : State) (l ty seq : Nat) (pay : List Nat) : Resent s (sendFlit s l ty seq pay) l :=
  ⟨rfl, fun _ => rfl, by rw [getLnk_sendFlit]⟩

theorem replayFrom_resent (s : State) (l ack : Nat) : Resent s (replayFrom s l ack) l := by
  have hall : Resent s ((afterSeq (getLnk s l) ack).foldl (fun s t => sendFlit s l 1 t.seq t.pay) s) l :=
    List.foldlRecOn (motive := fun t => Resent s t l) _ _ ((Reported.refl s).resent l) fun _ ht _ _ =>
      ht.trans (sendFlit_resent _ _ _ _ _)
  exact hall.trans ((cntInc_reported _ _ _ _).resent l)

/-- The registers of a link that resumes at width `w` with lanes `lanes` and the partner's generation `gen`. -/
def resumedRegs (s : State) (l w lanes gen : Nat) : State :=
  (((setLnkState s l 4).setFld (rLnkStat l) 13 12 w).setFld (rLnkStat l) 17 14 lanes).setFld (rLnkStat l) 19 18 gen

theorem resumedRegs_only (s : State) (l w lanes gen : Nat) : OnlyRegs s (resumedRegs s l w lanes gen) :=
  ((setFld_only _ _ _ _ _).trans (setFld_only _ _ _ _ _)).trans ((setFld_only _ _ _ _ _).trans (setFld_only _ _ _ _ _))

theorem resumedRegs_state (s : State) (l w lanes gen : Nat) : lnkState (resumedRegs s l w lanes gen) l = 4 := by
  rw [resumedRegs, lnkState, fld_setFld_field _ _ (.inl (by decide)), fld_setFld_field _ _ (.inl (by decide)),
    fld_setFld_field _ _ (.inl (by decide)), ← lnkState, lnkState_setLnkState _ _ (by decide)]

theorem resumedRegs_width (s : State) (l w lanes gen : Nat) : (resumedRegs s l w lanes gen).fld (rLnkStat l) 13 12 = w % 4 := by
  rw [resumedRegs, fld_setFld_field _ _ (.inl (by decide)), fld_setFld_field _ _ (.inl (by decide)),
    fld_setFld_same _ _ (by decide)]
  rfl

theorem resumedRegs_gen (s : State) (l w lanes gen : Nat) : (resumedRegs s l w lanes gen).fld (rLnkStat l) 19 18 = gen % 4 := by
  rw [resumedRegs, fld_setFld_same _ _ (by decide)]
  rfl

/-- The link in service again, before the replay. -/
def resumed (s : State) (l w : Nat) : State :=
  setLnk (resumedRegs s l w (useLanes (getLnk s l).lanes w) (bits (s.reg (rLnkPartner l)) 10 9)) l { getLnk s l with miss := 0 }

theorem reg_resumed (s : State) (l w a : Nat) : (resumed s l w).reg a =
    (resumedRegs s l w (useLanes (getLnk s l).lanes w) (bits (s.reg (rLnkPartner l)) 10 9)).reg a := by rw [resumed, reg_setLnk]

theorem resumed_state (s : State) (l w : Nat) : lnkState (resumed s l w) l = 4 := by
  rw [lnkState_congr (reg_resumed s l w _), resumedRegs_state]

theorem resumed_width (s : State) (l w : Nat) : (resumed s l w).fld (rLnkStat l) 13 12 = w % 4 := by
  rw [fld_of_reg (reg_resumed s l w _), resumedRegs_width]

theorem resumed_gen (s : State) (l w : Nat) : (resumed s l w).fld (rLnkStat l) 19 18 = bits (s.reg (rLnkPartner l)) 10 9 := by
  rw [fld_of_reg (reg_resumed s l w _), resumedRegs_gen]
  exact Nat.mod_mod _ 4

theorem resumed_rest (s : State) (l w : Nat) :
    resumed s l w = { s with regs := (resumed s l w).regs, lnks := (resumed s l w).lnks } := by
  have hregs := resumedRegs_only s l w (useLanes (getLnk s l).lanes w) (bits (s.reg (rLnkPartner l)) 10 9)
  unfold OnlyRegs at hregs
  unfold resumed
  rw [hregs]
  rfl

/-- A narrower width is noted in LNK_EVENT (R416). -/
def widthNoted (s : State) (l w old : Nat) : State := if w < old then s.setRBit (rLnkEvent l) 1 true else s

theorem reg_widthNoted_stat (s : State) (l w old : Nat) : (widthNoted s l w old).reg (rLnkStat l) = s.reg (rLnkStat l) := by
  unfold widthNoted
  split
  · exact reg_setRBit_other s (by simp [rLnkStat, rLnkEvent]) 1 true
  · rfl

theorem getLnk_widthNoted (s : State) (l w old j : Nat) : getLnk (widthNoted s l w old) j = getLnk s j := by
  unfold widthNoted
  split <;> rfl

theorem widthNoted_only (s : State) (l w old : Nat) : OnlyRegs s (widthNoted s l w old) := by
  unfold widthNoted
  split
  · exact setRBit_only _ _ _ _
  · exact .refl s

/-- Recovery has ended with the link in service at width `w`. -/
structure RecoveryEnded (s t : State) (l w : Nat) : Prop where
  rest : t = { s with regs := t.regs, lnks := t.lnks, hub := t.hub, out := t.out, fresh := t.fresh }
  stat : t.reg (rLnkStat l) = (resumed s l w).reg (rLnkStat l)
  link : getLnk t l = { getLnk s l with miss := 0, nak := (getLnk t l).nak }
  narrower : w < s.fld (rLnkStat l) 13 12 → t.rbit (rLnkEvent l) 1 = true

theorem replayed_ended (s : State) (l w : Nat) :
    RecoveryEnded s (widthNoted (replayFrom (resumed s l w) l (getLnk s l).ackRx) l w (s.fld (rLnkStat l) 13 12)) l w := by
  have hreplay := replayFrom_resent (resumed s l w) l (getLnk s l).ackRx
  have hlink : getLnk (resumed s l w) l = { getLnk s l with miss := 0 } := getLnk_setLnk _ _ _
  have hbefore := resumed_rest s l w
  have hwidth := widthNoted_only (replayFrom (resumed s l w) l (getLnk s l).ackRx) l w (s.fld (rLnkStat l) 13 12)
  obtain ⟨rest, regs, link⟩ := hreplay
  refine ⟨?rest, ?stat, ?link, ?narrower⟩
  case rest =>
    generalize replayFrom (resumed s l w) l (getLnk s l).ackRx = u at rest hwidth
    generalize resumed s l w = v at hbefore rest
    unfold OnlyRegs at hwidth
    rw [hwidth, rest, hbefore]
  case stat => rw [reg_widthNoted_stat, rLnkStat, regs]
  case link =>
    rw [getLnk_widthNoted, link, hlink]
  case narrower =>
    intro hless
    rw [widthNoted, if_pos hless, rbit_setRBit_same _ _ (by decide)]

theorem RecoveryEnded.reported (h : RecoveryEnded s t l w) (hu : Reported t u) : RecoveryEnded s u l w := by
  obtain ⟨rest, stat, link, narrower⟩ := h
  have hevent : u.reg (rLnkEvent l) = t.reg (rLnkEvent l) := hu.lnkReg l 0x028
  refine ⟨?rest, (hu.lnkReg l 0x008).trans stat, by rwa [hu.getLnk], fun hless => (rbit_of_reg hevent 1).trans (narrower hless)⟩
  have hrest := (hu.resent l).rest
  rw [rest] at hrest
  exact hrest

theorem doLinkRecoveryDone_ends (h : lnkState s l = 5) (hwidth : widthOk s l (widthFor s l (laneCount (getLnk s l).lanes)) = true) :
    RecoveryEnded s (doLinkRecoveryDone l s) l (widthFor s l (laneCount (getLnk s l).lanes)) := by
  rw [doLinkRecoveryDone, if_neg (not_not_intro h), if_neg (by rw [hwidth]; decide)]
  exact (replayed_ended s l _).reported (event0_reported _ _ _ _ _)

theorem doLinkRecoveryDone_lost (h : lnkState s l = 5)
    (hwidth : widthOk s l (widthFor s l (laneCount (getLnk s l).lanes)) = false) :
    doLinkRecoveryDone l s = linkLost s l 3 1 := by
  rw [doLinkRecoveryDone, if_neg (not_not_intro h)]
  exact if_pos hwidth

/-- Settles O36: what loses a link is `linkLost_lost`, what sends it to recovery `lnkRecover`, whose end is `RecoveryEnded`. -/
theorem linksFail : Obligations.LinksFail := by
  unfold Obligations.LinksFail
  intro l s halone k
  refine ⟨fun f hlive hok => ?down, fun hup hen hpresent hlive => ⟨?disable, ?retrain⟩, fun hstate => ?timeout,
    fun hstate => ⟨next_congr (doKeepaliveWindowEnd_seen hstate),
      fun hmiss => next_congr (doKeepaliveWindowEnd_missed hstate hmiss),
      fun hmiss => ?window, ?pattern⟩, fun lane hlane hlive => ?lane, fun hstate => ?done⟩
  case down =>
    have hdo : doDownFlit l f s = linkLost s l 4 1 := if_pos ⟨hlive, hok⟩
    exact ⟨_, next_congr hdo, linkLost_lost halone (by decide) (by decide)⟩
  case disable =>
    have hdo : doLnkDisable l s = lnkDown (s.setRBit (rLnkCtl l) 0 false) l 5 0 := by simp [doLnkDisable, hup, hen, hpresent]
    exact ⟨_, next_congr hdo, lnkDown_lost (halone.of_kept (setReg_groupsKept s l 0 _)) ((lnkLive_setCtl s l 0 false).trans hlive)
      (by decide) (by decide)⟩
  case retrain =>
    have hdo : doLnkRetrain l s = restoreRates (lnkDown s l 5 1) l := by simp [doLnkRetrain, hup, hen, hpresent]
    refine ⟨_, next_congr hdo, (lnkDown_lost halone hlive (by decide) (by decide)).restoreRates, ?_⟩
    rw [restoreRates, getLnk_setLnk]
  case timeout =>
    have hdo : doLinkRecoveryTimeout l s = linkLost s l 2 1 := if_pos hstate
    exact ⟨_, next_congr hdo, linkLost_lost halone (by decide) (by decide)⟩
  case window => exact ⟨_, next_congr (doKeepaliveWindowEnd_fourth hstate hmiss), linkLost_lost halone (by decide) (by decide)⟩
  case pattern =>
    have hdo : doRecoveryPattern l s = lnkRecover s l := if_pos hstate
    have hnot : lnkState s l ≠ 5 := by
      rw [hstate]
      decide
    exact ⟨_, next_congr hdo, lnkRecover_rest hnot, lnkRecover_state s l, lnkRecover_gen hnot,
      fun r hr => reg_lnkRecover_other s hr⟩
  case lane =>
    intro left w
    have hdo := doLaneFailure_live hlane hlive
    refine ⟨fun hwidth => ?spared, fun hwidth => ?tooFew⟩
    case spared =>
      obtain ⟨rest, state, link, event⟩ := laneCounted_spared s l lane.isLt
      exact ⟨_, next_congr (hdo.trans (if_pos hwidth)), rest, state, link, event⟩
    case tooFew =>
      exact ⟨_, next_congr (hdo.trans (if_neg (ne_of_eq_of_ne hwidth (by decide)))),
        (linkLost_lost (halone.of_kept (laneCounted_groupsKept s l lane)) (by decide) (by decide)).of_beside
          (laneCounted_rest s l lane)⟩
  case done =>
    intro w
    refine ⟨fun hwidth => ?resumed, fun hwidth => ?lost⟩
    case resumed =>
      obtain ⟨rest, stat, link, narrower⟩ := doLinkRecoveryDone_ends hstate hwidth
      refine ⟨_, rfl, rest, (lnkState_congr stat).trans (resumed_state s l w),
        (fld_of_reg stat 13 12).trans (resumed_width s l w),
        (fld_of_reg stat 19 18).trans (resumed_gen s l w), link, narrower⟩
    case lost => exact ⟨_, next_congr (doLinkRecoveryDone_lost hstate hwidth), linkLost_lost halone (by decide) (by decide)⟩

end Sys2Proof.Machine
end

section
/-! PROOF. The hub's traffic with the host (R460 to R465): requests, waiting writes and held lines, and all else that they leave
alone. -/

namespace Sys2Proof.Machine

variable {s t u : State}

/-! ### Requests -/

/-- Only the hub's requests to the host and the messages sent differ. -/
def OnlyRequests (s t : State) : Prop := t = { s with hub := { s.hub with hreqs := t.hub.hreqs }, out := t.out }

theorem OnlyRequests.refl (s : State) : OnlyRequests s s := rfl

theorem OnlyRequests.trans (h : OnlyRequests s t) (g : OnlyRequests t u) : OnlyRequests s u := by
  unfold OnlyRequests at *
  rw [g, h]

theorem OnlyRequests.ite {c : Prop} [Decidable c] (h : OnlyRequests s t) (g : OnlyRequests s u) :
    OnlyRequests s (if c then t else u) := by
  split <;> assumption

theorem OnlyRequests.foldl {α : Type} (f : State → α → State) (hf : ∀ s x, OnlyRequests s (f s x)) :
    ∀ (l : List α) (s : State), OnlyRequests s (l.foldl f s)
  | [], s => .refl s
  | x :: l, s => (hf s x).trans (OnlyRequests.foldl f hf l (f s x))

theorem OnlyRequests.regs (h : OnlyRequests s t) : t.regs = s.regs := by rw [h]

theorem OnlyRequests.reg (h : OnlyRequests s t) (a : Nat) : t.reg a = s.reg a := by rw [State.reg, h.regs, State.reg]

theorem OnlyRequests.fabr (h : OnlyRequests s t) : t.fabr = s.fabr := by rw [h]

theorem OnlyRequests.hwrites (h : OnlyRequests s t) : t.hub.hwrites = s.hub.hwrites := by rw [h]

theorem OnlyRequests.hlines (h : OnlyRequests s t) : t.hub.hlines = s.hub.hlines := by rw [h]

theorem OnlyRequests.findLine (h : OnlyRequests s t) (l : Nat) : findLine t l = findLine s l := by
  rw [Machine.findLine, h.hlines, Machine.findLine]

theorem sendReq_requests (s : State) (r : HostReq) : OnlyRequests s (sendReq s r) := by
  unfold sendReq
  dsimp only
  split
  · exact .refl s
  · rfl

theorem sendHeld_requests (s : State) : OnlyRequests s (sendHeld s) := .ite (.foldl _ sendReq_requests _ _) (.refl s)

theorem hostRequest_requests (s : State) (ty line : Nat) (data : List Byte) : OnlyRequests s (hostRequest s ty line data) := by
  refine .ite (.refl s) (OnlyRequests.trans ?_ (sendHeld_requests _))
  rfl

theorem wantLine_requests (s : State) (l : Nat) : OnlyRequests s (wantLine s l) := .ite (.refl s) (hostRequest_requests _ _ _ _)

theorem wantRecord_requests (s : State) (i : Nat) : OnlyRequests s (wantRecord s i) := by
  unfold wantRecord
  extract_lets v
  have hlines : OnlyRequests s v := (wantLine_requests _ _).trans (wantLine_requests _ _)
  split
  · exact hlines.trans (wantLine_requests _ _)
  · exact hlines

theorem scanTable_requests (s : State) : OnlyRequests s (scanTable s) := .foldl _ wantRecord_requests _ _

theorem OnlyRequests.hubOnly (h : OnlyRequests s t) : HubOnly s t := by
  unfold OnlyRequests at h
  unfold HubOnly
  rw [h]

/-! ### Writes -/

/-- Only lines, requests and waiting writes of host memory and the messages sent differ. -/
def OnlyTraffic (s t : State) : Prop :=
  t = { s with
    hub := { s.hub with hlines := t.hub.hlines, hreqs := t.hub.hreqs, hwrites := t.hub.hwrites }
    out := t.out }

theorem OnlyTraffic.refl (s : State) : OnlyTraffic s s := rfl

theorem OnlyTraffic.trans (h : OnlyTraffic s t) (g : OnlyTraffic t u) : OnlyTraffic s u := by
  unfold OnlyTraffic at *
  rw [g, h]

theorem OnlyTraffic.ite {c : Prop} [Decidable c] (h : OnlyTraffic s t) (g : OnlyTraffic s u) :
    OnlyTraffic s (if c then t else u) := by
  split <;> assumption

theorem OnlyTraffic.regs (h : OnlyTraffic s t) : t.regs = s.regs := by rw [h]

theorem OnlyTraffic.reg (h : OnlyTraffic s t) (a : Nat) : t.reg a = s.reg a := by rw [State.reg, h.regs, State.reg]

theorem OnlyTraffic.jobs (h : OnlyTraffic s t) : t.hub.jobs = s.hub.jobs := by rw [h]

theorem OnlyTraffic.cnts (h : OnlyTraffic s t) : t.hub.cnts = s.hub.cnts := by rw [h]

theorem OnlyRequests.traffic (h : OnlyRequests s t) : OnlyTraffic s t := by
  unfold OnlyRequests at h
  unfold OnlyTraffic
  rw [h]

theorem useLine_traffic (s : State) (line : Nat) : OnlyTraffic s (useLine s line) := by
  unfold useLine
  split <;> rfl

theorem hostPump_traffic (n : Nat) : ∀ s : State, OnlyTraffic s (hostPump n s) := by
  induction n with
  | zero => exact fun s => .refl s
  | succ n ih =>
    intro s
    unfold hostPump
    split
    · exact .refl s
    · split
      · refine .ite (hostRequest_requests _ _ _ _).traffic (OnlyTraffic.trans ?_ (ih _))
        dsimp only
        split <;> rfl
      · exact (hostRequest_requests _ _ _ _).traffic

theorem hostWriteFor_traffic (s : State) (a : Nat) (bs : List Byte) (r : Option Nat) (q : Option DieHdr) :
    OnlyTraffic s (hostWriteFor s a bs r q) := by
  unfold hostWriteFor
  extract_lets src v
  have hqueued : OnlyTraffic s v := rfl
  exact .ite hqueued (hqueued.trans (hostPump_traffic _ _))

/-- A write to a line that the hub does not hold waits. -/
theorem hostWriteFor_waits {a : Nat} (hline : findLine s (a / 64) = none) (hnone : s.hub.hwrites = []) (bs : List Byte)
    (r : Option Nat) (q : Option DieHdr) : (hostWriteFor s a bs r q).hub.hwrites = [⟨a, bs, r, q⟩] := by
  unfold hostWriteFor
  extract_lets src v
  have hqueued : v.hub.hwrites = [⟨a, bs, r, q⟩] := congrArg (· ++ [⟨a, bs, r, q⟩]) hnone
  have hpump : hostPump 1 v = hostRequest v 0x12 (a / 64) [] := by
    have hmiss : findLine v (a / 64) = none := hline
    rw [hostPump, hqueued]
    simp only [hmiss]
  split
  · exact hqueued
  · rw [hqueued, List.length_singleton, hpump, (hostRequest_requests _ _ _ _).hwrites, hqueued]

end Sys2Proof.Machine
end

section
/-! PROOF. Event records and statistics counters (R481, R602): the place that a record goes to, and the counters that stand. -/

namespace Sys2Proof.Machine

variable {s t : State} {e : EvRec}

/-! ### Records (R481) -/

/-- Slots of the loss counter have nothing to judge where the counters stand. -/
theorem lossJudge_sameCounters (h : t.hub.cnts = s.hub.cnts) : lossJudge s t = t := by
  have hloss : cntGet t 0x5003 0 = cntGet s 0x5003 0 := by rw [cntGet, h, cntGet]
  exact if_pos hloss

/-- With nothing held and a slot free the record goes to the ring. -/
theorem emit_stored (hheld : s.hub.held = []) (hspace : evtSpace s = true) : emit s e = evtStore s e := by
  have hraw : emitRaw s e = evtStore s e := if_pos (by rw [hheld, hspace]; rfl)
  have hcnts : (evtStore s e).hub.cnts = s.hub.cnts := (hostWriteFor_traffic _ _ _ _ _).cnts
  rw [emit, hraw, lossJudge_sameCounters hcnts]

/-- The record stands at the end of the hold buffer, and HELD counts it. -/
def heldRecord (s : State) (e : EvRec) : State :=
  setHeldCount { s with hub := { s.hub with held := s.hub.held ++ [e] } }

theorem fld_heldRecord_held (s : State) (e : EvRec) :
    (heldRecord s e).fld rEvtStat 40 32 = (s.hub.held ++ [e]).length % 512 := fld_setFld_same _ _ (by decide) _

theorem fld_heldRecord_next (s : State) (e : EvRec) : (heldRecord s e).fld rEvtStat 31 0 = s.fld rEvtStat 31 0 :=
  fld_setFld_field _ _ (.inl (by decide)) _

/-- Otherwise it goes to the hold buffer, while that has room. -/
theorem emit_held (hwait : s.hub.held ≠ [] ∨ evtSpace s = false) (hroom : s.hub.held.length < 256) :
    emit s e = heldRecord s e := by
  have hnotNow : ¬ (s.hub.held.isEmpty && evtSpace s) = true := by
    rw [Bool.and_eq_true, List.isEmpty_iff]
    rintro ⟨hnone, hspace⟩
    exact hwait.elim (fun h => h hnone) fun h => Bool.false_ne_true (h.symm.trans hspace)
  have hraw : emitRaw s e = evtHold s e := if_neg hnotNow
  have hhold : evtHold s e = heldRecord s e := if_pos hroom
  have hcnts : (heldRecord s e).hub.cnts = s.hub.cnts := rfl
  rw [emit, hraw, hhold, lossJudge_sameCounters hcnts]

/-! ### Counters (R602) -/

/-- Slots without EN judge nothing. -/
theorem thrJudge_off (h : ∀ k, k < 64 → s.rbit (rThrSel k) 20 = false) (idx part : Nat) (old new : Cnt) :
    thrJudge s idx part old new = s := by
  refine foldl_unchanged fun k hk => ?_
  have hoff : bit (s.reg (rThrSel k)) 20 = false := h k (List.mem_range.mp hk)
  unfold thrSlot
  simp only [hoff, Bool.false_and, Bool.false_eq_true, if_false]

/-- No increment leaves a counter as it was. -/
theorem cntBump_zero (c : Cnt) : cntBump c 0 = c := by
  have hfits : c.val.toNat + 0 < 2 ^ 64 := c.val.isLt
  rw [cntBump, if_pos hfits, Nat.add_zero, BitVec.ofNat_toNat, BitVec.setWidth_eq]

theorem cntGet_cntPut (s : State) (i p j q : Nat) (c : Cnt) :
    cntGet (cntPut s i p c) j q = if cntKey j q = cntKey i p then c else cntGet s j q := smGet_smSet _ _ _ _ _

/-- One counter goes up, saturating; every other one stands. -/
theorem cntGet_cntInc (h : ∀ k, k < 64 → s.rbit (rThrSel k) 20 = false) (i p n j q : Nat) :
    cntGet (cntInc s i p n) j q = if cntKey j q = cntKey i p then cntBump (cntGet s i p) n else cntGet s j q := by
  unfold cntInc
  by_cases hn : n = 0
  · subst hn
    rw [if_pos rfl, cntBump_zero]
    split
    · next hkey => rw [cntGet, hkey, cntGet]
    · rfl
  · rw [if_neg hn, thrJudge_off (s := cntPut s i p _) h, cntGet_cntPut]

/-! ### The obligation -/

/-- Settles O18: a record goes through `evtStore` or to the hold buffer, a counter by `cntBump`. -/
theorem recordsAndCounters : Obligations.RecordsAndCounters := by
  unfold Obligations.RecordsAndCounters
  refine ⟨emit_reported, errRecord_reported, cntInc_reported, fun s e hheld hspace => emit_stored hheld hspace,
    fun s e hwait hroom => ?held, fun s i p n j q hoff => cntGet_cntInc hoff i p n j q⟩
  case held =>
    rw [emit_held hwait hroom]
    refine ⟨rfl, fld_heldRecord_next s e, (fld_heldRecord_held s e).trans ?_⟩
    rw [List.length_append, List.length_singleton]
    exact Nat.mod_eq_of_lt (by omega)

end Sys2Proof.Machine
end

section
/-! PROOF. The job table and the event ring (R471, R481, R496, R499): what a write of their registers sets, and what follows it. -/

namespace Sys2Proof.Machine

variable {s t : State} {v : Word}

/-! ### Writes of the control registers (R19) -/

theorem regSpec_jobtabCtl : regSpec rJobtabCtl = spec32 (mk 13 0) (m1 15) 0 := regSpec_hubR (by decide)

theorem regSpec_evtCtl : regSpec rEvtCtl = spec32 (mk 5 0) (mk 7 6) 0x0C := regSpec_hubR (by decide)

/-- A bit that software may write reads as written. -/
theorem rbit_softWrite {a i : Nat} {r : RegSpec} (h : regSpec a = some r) (hrw : bit r.rw i = true) (s : State) (v : Word) :
    (s.softWrite a v).rbit a i = bit v i := by
  rw [softWrite_of_spec h, State.rbit, reg_setReg, if_pos rfl, bit_mergeWrite, if_pos hrw]

/-- A field that software may write reads as written. -/
theorem fld_softWrite {a hi lo : Nat} {r : RegSpec} (h : regSpec a = some r)
    (hrw : ∀ i, i < hi - lo + 1 → bit r.rw (lo + i) = true) (s : State) (v : Word) :
    (s.softWrite a v).fld a hi lo = bits v hi lo := by
  rw [softWrite_of_spec h, State.fld, reg_setReg, if_pos rfl, bits_mergeWrite _ _ _ hrw]

theorem jobtabEn_written (s : State) (v : Word) : jobtabEn (s.softWrite rJobtabCtl v) = bit v 13 :=
  rbit_softWrite regSpec_jobtabCtl (by decide) s v

theorem jobtabCount_written (s : State) (v : Word) : jobtabCount (s.softWrite rJobtabCtl v) = bits v 12 0 :=
  fld_softWrite regSpec_jobtabCtl (by decide) s v

theorem evtEn_written (s : State) (v : Word) : (s.softWrite rEvtCtl v).rbit rEvtCtl 5 = bit v 5 :=
  rbit_softWrite regSpec_evtCtl (by decide) s v

theorem evtSize_written (s : State) (v : Word) : (s.softWrite rEvtCtl v).fld rEvtCtl 4 0 = bits v 4 0 :=
  fld_softWrite regSpec_evtCtl (by decide) s v

theorem hub_softWrite (s : State) (a : Nat) (v : Word) : (s.softWrite a v).hub = s.hub := by rw [softWrite_rest]

/-- The value that a command writes: EN, in bit `i`, as the command has it, the field below from its operand. -/
theorem bits_setBit_below (x : BitVec 32) {i hi : Nat} (h : hi < i) (b : Bool) :
    bits (setBit (x.setWidth 64) i b) hi 0 = bits x hi 0 :=
  (bits_setBits_other _ _ _ _ _ _ (.inl (by omega))).trans (bits_setWidth x hi 0)

theorem bit_setBit_same (x : Word) {i : Nat} (h : i < 64) (b : Bool) : bit (setBit x i b) i = b := by
  rw [bit_setBit, if_pos rfl, decide_eq_true h, Bool.true_and]

/-! ### The job table (R471, R499) -/

/-- A COUNT of 0 or above 4,096 refuses EN. -/
theorem jobtabWrite_refused (hen : bit v 13 = true) (hcount : bits v 12 0 = 0 ∨ 4096 < bits v 12 0) :
    jobtabWrite v s = s.setRBit rJobtabCtl 15 true := by
  have hbad : (jobtabEn (s.softWrite rJobtabCtl v) && (decide (jobtabCount (s.softWrite rJobtabCtl v) = 0) ||
      decide (4096 < jobtabCount (s.softWrite rJobtabCtl v)))) = true := by
    rw [jobtabEn_written, jobtabCount_written, hen, Bool.true_and, Bool.or_eq_true, decide_eq_true_eq, decide_eq_true_eq]
    exact hcount
  exact if_pos hbad

/-- EN that is cleared ends the scan, and no line of the table is pinned any more. -/
theorem jobtabWrite_disables (hoff : bit v 13 = false) :
    jobtabWrite v s = (repin (s.softWrite rJobtabCtl v)).setRBit rJobtabCtl 14 false := by
  have hen : (s.softWrite rJobtabCtl v).rbit rJobtabCtl 13 = false := (jobtabEn_written s v).trans hoff
  unfold jobtabWrite
  extract_lets t n t1
  have hent : t.rbit rJobtabCtl 13 = false := hen
  rw [hent]
  rfl

/-- EN that is set starts a scan, which asks for lines of the table. -/
theorem jobtabWrite_enables (hon : bit v 13 = true) (hlo : 1 ≤ bits v 12 0) (hhi : bits v 12 0 ≤ 4096) (hoff : jobtabEn s = false) :
    ∃ u, OnlyRequests (repin (s.softWrite rJobtabCtl v)) u ∧ jobtabWrite v s = u.setRBit rJobtabCtl 14 true := by
  unfold jobtabWrite
  extract_lets t n t1
  have hen : t.rbit rJobtabCtl 13 = true := (jobtabEn_written s v).trans hon
  have hen1 : jobtabEn t1 = true := hen
  have hn : n = bits v 12 0 := jobtabCount_written s v
  have hok : ¬ (t.rbit rJobtabCtl 13 && (decide (n = 0) || decide (4096 < n))) = true := by
    rw [hen, hn, Bool.true_and, Bool.or_eq_true, decide_eq_true_eq, decide_eq_true_eq]
    omega
  have hwas : ¬ s.rbit rJobtabCtl 13 = true := ne_true_of_eq_false hoff
  rw [if_neg hok, if_neg (by rw [hen]; decide), if_neg hwas]
  by_cases hpaused : intakePaused t1 = true
  · exact ⟨t1, .refl t1, if_pos hpaused⟩
  · exact ⟨scanTable t1, scanTable_requests t1, (if_neg hpaused).trans (if_pos hen1)⟩

/-- SCANNING set or cleared in bit 14 leaves EN and COUNT as the write has them. -/
theorem jobtabCtl_scanned (h : t.reg rJobtabCtl = (s.softWrite rJobtabCtl v).reg rJobtabCtl) (b : Bool) :
    (t.setRBit rJobtabCtl 14 b).rbit rJobtabCtl 13 = bit v 13 ∧ (t.setRBit rJobtabCtl 14 b).fld rJobtabCtl 12 0 = bits v 12 0 :=
  ⟨(rbit_setRBit_other t _ (by decide) b).trans ((rbit_of_reg h 13).trans (jobtabEn_written s v)),
    (fld_setFld_field t _ (.inl (by decide)) _).trans ((fld_of_reg h 12 0).trans (jobtabCount_written s v))⟩

/-- Without EN no line is watched. -/
theorem repin_disabled (hoff : jobtabEn t = false) :
    repin t = { t with hub := { t.hub with hlines := t.hub.hlines.map fun h => { h with pinned := false } } } := by
  have hwatch : ∀ l, watched t l = false := fun l => by rw [watched, hoff, Bool.false_and, Bool.false_and]
  simp only [repin, hwatch]

/-! ### The event ring (R481) -/

/-- With nothing held and nothing dropped the ring takes nothing. -/
theorem evtDrain_nothing (hheld : s.hub.held = []) (hlost : s.fld rEvtStat 63 41 = 0) : ∀ n, evtDrain n s = s
  | 0 => rfl
  | n + 1 => by
    rw [evtDrain, hheld]
    exact if_neg fun ⟨hsome, _⟩ => hsome hlost

/-- A new LOG2_SIZE while EN is set. -/
theorem evtCtlWrite_refused (hon : s.rbit rEvtCtl 5 = true) (hsize : bits v 4 0 ≠ s.fld rEvtCtl 4 0) :
    evtCtlWrite v s = s.setRBit rEvtCtl 7 true := by
  have hchanged : (s.rbit rEvtCtl 5 && decide (bits v 4 0 ≠ s.fld rEvtCtl 4 0)) = true := by
    rw [hon, Bool.true_and, decide_eq_true_eq]
    exact hsize
  exact if_pos hchanged

/-- EN that is set starts the ring at 0. -/
theorem evtCtlWrite_starts (hoff : s.rbit rEvtCtl 5 = false) (hon : bit v 5 = true) (hlo : 6 ≤ bits v 4 0) (hhi : bits v 4 0 ≤ 20)
    (hheld : s.hub.held = []) (hlost : s.fld rEvtStat 63 41 = 0) :
    evtCtlWrite v s = (s.softWrite rEvtCtl v).setFld rEvtStat 31 0 0 := by
  unfold evtCtlWrite
  extract_lets old n w t t1
  have hw : w = v := if_pos ⟨hlo, hhi⟩
  have hen : t.rbit rEvtCtl 5 = true := by rw [show t = s.softWrite rEvtCtl w from rfl, hw, evtEn_written, hon]
  have hheld1 : t1.hub.held = [] := by
    rw [show t1.hub = s.hub from hub_softWrite s rEvtCtl w, hheld]
  have hlost1 : t1.fld rEvtStat 63 41 = 0 := by
    rw [show t1.fld rEvtStat 63 41 = t.fld rEvtStat 63 41 from fld_setFld_field _ _ (.inr (by decide)) _,
      fld_of_reg (reg_softWrite_other s (by decide) _), hlost]
  rw [if_neg (by rw [hoff]; exact Bool.false_ne_true), if_pos (by rw [hoff, hen]; rfl), evtDrain_nothing hheld1 hlost1]
  exact congrArg (fun x => (s.softWrite rEvtCtl x).setFld rEvtStat 31 0 0) hw

/-! ### The obligation -/

/-- Settles O51: every command is a write of its register, by `jobtabWrite` or `evtCtlWrite`, and HEAD of itself. -/
theorem tableAndRing : Obligations.TableAndRing := by
  unfold Obligations.TableAndRing
  intro v s hup hrun
  have hserved : (s.up && !hubRestarting s) = true := by rw [hup, hrun]; rfl
  have hcount : ∀ b, bits (setBit (v.setWidth 64) 13 b) 12 0 = bits v 12 0 := bits_setBit_below v (by decide)
  have hen : ∀ b, bit (setBit (v.setWidth 64) 13 b) 13 = b := bit_setBit_same _ (by decide)
  have hsize : bits (setBit (v.setWidth 64) 5 true) 4 0 = bits v 4 0 := bits_setBit_below v (by decide) _
  have hring : exec (.evtRingEnable v) s = .next (evtCtlWrite (setBit (v.setWidth 64) 5 true) s) := next_congr (if_pos hserved)
  refine ⟨fun hlo hhi hoff => ?enable, fun hbad => ?refused, ?disable, fun hoff hlo hhi hheld hlost => ?starts, fun hon hnew => ?size,
    fun hheld hlost => ?head⟩
  case enable =>
    rw [← hcount true] at hlo hhi ⊢
    obtain ⟨u, hu, hwrite⟩ := jobtabWrite_enables (hen true) hlo hhi hoff
    obtain ⟨hon, hsame⟩ := jobtabCtl_scanned (hu.reg rJobtabCtl) true
    have hrest : HubOnly s (u.setRBit rJobtabCtl 14 true) :=
      ((softWrite_hub s _ _).trans (hubSet_hub _ _)).trans (hu.hubOnly.trans (setRBit_hub u _ _ _))
    refine ⟨_, next_congr ((if_pos hserved).trans hwrite), hrest, hon.trans (hen true), rbit_setRBit_same _ _ (by decide) _, hsame,
      fun r hr => ?_⟩
    rw [reg_setRBit_other u hr, hu.reg]
    exact reg_softWrite_other s hr _
  case refused =>
    rw [← hcount true] at hbad
    exact next_congr ((if_pos hserved).trans (jobtabWrite_refused (hen true) hbad))
  case disable =>
    have hoff := hen false
    have hpins := repin_disabled (t := s.softWrite rJobtabCtl (setBit (v.setWidth 64) 13 false)) ((jobtabEn_written s _).trans hoff)
    obtain ⟨hclear, -⟩ := jobtabCtl_scanned (s := s) (t := repin (s.softWrite rJobtabCtl (setBit (v.setWidth 64) 13 false))) rfl false
    refine ⟨_, next_congr ((if_pos hserved).trans (jobtabWrite_disables hoff)), ?_, hclear.trans hoff,
      rbit_setRBit_same _ _ (by decide) _, ?_⟩
    · rw [hpins, softWrite_rest]
      rfl
    · rw [hpins, softWrite_rest]
      rfl
  case starts =>
    rw [← hsize] at hlo hhi ⊢
    have hon := bit_setBit_same (v.setWidth 64) (i := 5) (by decide) true
    have hctl := reg_setFld_other (s.softWrite rEvtCtl (setBit (v.setWidth 64) 5 true)) (a := rEvtStat) (b := rEvtCtl) (by decide) 31 0 0
    refine ⟨_, hring.trans (next_congr (evtCtlWrite_starts hoff hon hlo hhi hheld hlost)), ?_,
      (rbit_of_reg hctl 5).trans ((evtEn_written s _).trans hon), (fld_of_reg hctl 4 0).trans (evtSize_written s _),
      fld_setFld_same _ _ (by decide) _⟩
    rw [softWrite_rest]
    rfl
  case size => exact hring.trans (next_congr (evtCtlWrite_refused hon (by rw [hsize]; exact hnew)))
  case head =>
    have hwrite : doEvtHeadWrite v s = evtDrain (s.hub.held.length + 1) (s.setReg rEvtHead (v.setWidth 64)) := if_pos hserved
    have hlost1 : (s.setReg rEvtHead (v.setWidth 64)).fld rEvtStat 63 41 = 0 :=
      (fld_of_reg (reg_setReg_other s (by decide) _) _ _).trans hlost
    exact next_congr (hwrite.trans (evtDrain_nothing (s := s.setReg rEvtHead (v.setWidth 64)) hheld hlost1 _))

end Sys2Proof.Machine
end

section
/-! PROOF. The host ports (R459 to R461, R497, R498): a port that comes up, one that leaves UP, the enables and the windows. -/

namespace Sys2Proof.Machine

variable {s t : State} {n : Fin 2}

/-! ### The ports' registers -/

theorem shlR_above (o : Nat) : 0x200000006000 ≤ shlR o := by
  unfold shlR
  omega

theorem portUp_congr {k : Nat} (h : t.reg (rShlStat k) = s.reg (rShlStat k)) : portUp t k = portUp s k := by
  rw [portUp, fld_of_reg h, portUp]

theorem Reported.portUp (h : Reported s t) (k : Nat) : portUp t k = portUp s k := portUp_congr (h.reg_above (shlR_above _))

theorem rShlStat_inj {i j : Nat} (h : i ≠ j) : rShlStat i ≠ rShlStat j := by
  unfold rShlStat shlR
  omega

theorem rShlCtl_ne_stat {k : Nat} (h : k < 2) : rShlCtl ≠ rShlStat k := by
  unfold rShlCtl rShlStat shlR
  omega

/-- While one port is down the other alone decides. -/
theorem anyPortUp_of_down (h : portUp s n = false) : anyPortUp s = portUp s (1 - n.val) := by
  obtain rfl | rfl : n = 0 ∨ n = 1 := by omega
  · rw [anyPortUp, show portUp s 0 = false from h, Bool.false_or]
    rfl
  · rw [anyPortUp, show portUp s 1 = false from h, Bool.or_false]
    rfl

theorem other_ne (n : Fin 2) : 1 - n.val ≠ n.val := by omega

/-! ### A port comes up (R459, R460) -/

theorem b2n_lt_two (b : Bool) : b2n b < 2 := by cases b <;> decide

/-- SHL_STAT of a port that is UP (Table 11.20), trained `k` times. -/
def portWord (r64 x16 rev : Bool) (k : Nat) : Word :=
  put 2 0 ||| put (1 + b2n r64) 3 ||| put (1 + b2n x16) 5 ||| put (b2n rev) 7 ||| put (k % 65536) 8

theorem portWord_state (r64 x16 rev : Bool) (k : Nat) : bits (portWord r64 x16 rev k) 2 0 = 2 := by
  simp only [portWord, bits_or]
  rw [bits_put_same 2 (by decide), bits_put_below _ (by decide), bits_put_below _ (by decide), bits_put_below _ (by decide),
    bits_put_below _ (by decide)]
  rfl

theorem portWord_rate (r64 x16 rev : Bool) (k : Nat) : bits (portWord r64 x16 rev k) 4 3 = 1 + b2n r64 := by
  have hrate := b2n_lt_two r64
  simp only [portWord, bits_or]
  rw [bits_put_above (by decide), bits_put_same _ (by decide), bits_put_below _ (by decide), bits_put_below _ (by decide),
    bits_put_below _ (by decide), Nat.mod_eq_of_lt (by omega)]
  simp

theorem portWord_width (r64 x16 rev : Bool) (k : Nat) : bits (portWord r64 x16 rev k) 6 5 = 1 + b2n x16 := by
  have hrate := b2n_lt_two r64
  have hwidth := b2n_lt_two x16
  simp only [portWord, bits_or]
  rw [bits_put_above (by decide), bits_put_above (by omega), bits_put_same _ (by decide), bits_put_below _ (by decide),
    bits_put_below _ (by decide), Nat.mod_eq_of_lt (by omega)]
  simp

theorem portWord_reversed (r64 x16 rev : Bool) (k : Nat) : bit (portWord r64 x16 rev k) 7 = rev := by
  have hup : Nat.testBit 2 7 = false := by decide
  have hrate : (1 + b2n r64).testBit 4 = false := by cases r64 <;> decide
  have hwidth : (1 + b2n x16).testBit 2 = false := by cases x16 <;> decide
  have hrev : (b2n rev).testBit 0 = rev := by cases rev <;> decide
  simp only [portWord, bit_or]
  simp only [bit, getLsbD_put, Nat.sub_zero, Nat.reduceSub, hup, hrate, hwidth, hrev]
  simp

theorem portWord_trainings (r64 x16 rev : Bool) (k : Nat) : bits (portWord r64 x16 rev k) 23 8 = k % 65536 := by
  have hrate := b2n_lt_two r64
  have hwidth := b2n_lt_two x16
  have hrev := b2n_lt_two rev
  simp only [portWord, bits_or]
  rw [bits_put_above (by decide), bits_put_above (by omega), bits_put_above (by omega), bits_put_above (by omega),
    bits_put_same _ (by decide)]
  simp

/-- The port stands UP. -/
def portRaised (s : State) (n : Nat) (r64 x16 rev : Bool) : State :=
  s.setReg (rShlStat n) (portWord r64 x16 rev (s.fld (rShlStat n) 23 8 + 1))

/-- The requests that waited have gone on it, and event 0x0504 is written. -/
def portTold (s : State) (n : Nat) (r64 x16 rev : Bool) : State :=
  event0 (sendHeld (portRaised s n r64 x16 rev)) 0x0504 8 none [put n 0 ||| put (1 + b2n r64) 1 ||| put (1 + b2n x16) 3]

theorem reg_portRaised (s : State) (n : Nat) (r64 x16 rev : Bool) :
    (portRaised s n r64 x16 rev).reg (rShlStat n) = portWord r64 x16 rev (s.fld (rShlStat n) 23 8 + 1) :=
  (reg_setReg _ _ _ _).trans (if_pos rfl)

theorem doShlPortUp_accepted {r64 x16 : Bool} {failed : Nat} (hup : s.up = true) (hdown : portUp s n = false)
    (hen : s.rbit rShlCtl n = true) (hrate : r64 = true ∨ (s.rbit rShlCtl 3 = true ∧ 3 ≤ failed))
    (hwidth : x16 = true ∨ s.rbit rShlCtl 2 = true) (rev : Bool) :
    doShlPortUp n r64 x16 rev failed s =
      if portUp s (1 - n.val) = true then portTold s n r64 x16 rev else linkBack (portTold s n r64 x16 rev) n := by
  have hserved : linkServed s = true := by rw [linkServed, hup, Bool.true_or]
  have hok : ¬ (linkServed s = false ∨ portUp s n = true ∨ s.rbit rShlCtl n = false ∨
      (r64 = false ∧ (s.rbit rShlCtl 3 = false ∨ failed < 3)) ∨ (x16 = false ∧ s.rbit rShlCtl 2 = false)) := by
    rw [hserved, hdown, hen]
    rintro (h | h | h | ⟨h, hno | hfew⟩ | ⟨h, hno⟩)
    · cases h
    · cases h
    · cases h
    · simp [h, hno] at hrate
    · simp [h] at hrate
      omega
    · simp [h, hno] at hwidth
  unfold doShlPortUp
  rw [if_neg hok]
  extract_lets first v s1 s2
  have hfirst : first = !portUp s (1 - n.val) := congrArg not (anyPortUp_of_down hdown)
  rw [hfirst]
  cases portUp s (1 - n.val)
  · exact (if_pos rfl).trans (if_neg Bool.false_ne_true).symm
  · exact (if_neg Bool.false_ne_true).trans (if_pos rfl).symm

/-! ### A port leaves UP (R460, R461) -/

/-- SHL_STAT of a port that has left UP: in training or, disabled, idle, with its trainings and the cause. -/
def portLeft (s : State) (n cause : Nat) : State :=
  s.setReg (rShlStat n) (put (if s.rbit rShlCtl n then 1 else 0) 0 ||| put (s.fld (rShlStat n) 23 8) 8 ||| put cause 24)

/-- Event 0x0505 is written. -/
def portLossTold (s : State) (n cause : Nat) : State := event0 (portLeft s n cause) 0x0505 8 none [put n 0 ||| put cause 4]

theorem portUp_portLeft (s : State) (n cause : Nat) : portUp (portLeft s n cause) n = false := by
  have hstate : (portLeft s n cause).fld (rShlStat n) 2 0 = (if s.rbit rShlCtl n then 1 else 0) % 8 := by
    rw [State.fld, portLeft, reg_setReg, if_pos rfl, bits_or, bits_or, bits_put_same _ (by decide), bits_put_below _ (by decide),
      bits_put_below _ (by decide), Nat.or_zero, Nat.or_zero]
    rfl
  rw [portUp, hstate]
  cases s.rbit rShlCtl n <;> rfl

/-- Whether a port is left once the loss is told. -/
theorem anyPortUp_told (s : State) (n : Fin 2) (cause : Nat) :
    anyPortUp (unsend (portLossTold s n cause) n) = portUp s (1 - n.val) := by
  have htold : Reported (portLeft s n cause) (portLossTold s n cause) := event0_reported _ _ _ _ _
  have hself : portUp (unsend (portLossTold s n cause) n) n = false := (htold.portUp n).trans (portUp_portLeft s n cause)
  have hother : portUp (unsend (portLossTold s n cause) n) (1 - n.val) = portUp s (1 - n.val) :=
    (htold.portUp _).trans (portUp_congr (reg_setReg_other s (rShlStat_inj (other_ne n)) _))
  exact (anyPortUp_of_down hself).trans hother

theorem doShlPortDown_taken {cause : Nat} (hup : s.up = true) (hport : portUp s n = true) (hlo : 1 ≤ cause) (hhi : cause ≤ 3) :
    doShlPortDown n cause s = portLeave s n cause := by
  have hserved : linkServed s = true := by rw [linkServed, hup, Bool.true_or]
  exact if_pos ⟨hserved, hport, hlo, hhi⟩

/-- With the other port UP the requests go on it. -/
theorem portLeave_other (cause : Nat) (h : portUp s (1 - n.val) = true) :
    portLeave s n cause = sendHeld (unsend (portLossTold s n cause) n) := if_pos ((anyPortUp_told s n cause).trans h)

/-- With no port left the link counts as lost, the intake of jobs is paused, and event 0x0506 is written. -/
theorem portLeave_last (cause : Nat) (h : portUp s (1 - n.val) = false) :
    let q := unsend (portLossTold s n cause) n
    portLeave s n cause = event0 ({ q with hub := { q.hub with lost := true } }.setRBit rJobStat 13 true) 0x0506 8 none [] :=
  if_neg (ne_true_of_eq_false ((anyPortUp_told s n cause).trans h))

/-! ### Enables (R497) -/

/-- A port that is not UP follows its enable: to training or to idle. -/
structure Follows (s t : State) (k : Nat) : Prop where
  rest : OnlyRegs s t
  others : ∀ a, a ≠ rShlStat k → t.reg a = s.reg a
  state : t.fld (rShlStat k) 2 0 = if s.rbit rShlCtl k = true then
    (if s.fld (rShlStat k) 2 0 = 0 then 1 else s.fld (rShlStat k) 2 0) else 0

theorem portEnable_follows {k : Nat} (h : portUp s k = false) : Follows s (portEnable s k) k := by
  have hset : ∀ v, v < 8 → (s.setFld (rShlStat k) 2 0 v).fld (rShlStat k) 2 0 = v := fun v hv =>
    (fld_setFld_same s _ (by decide) v).trans (Nat.mod_eq_of_lt hv)
  unfold portEnable
  by_cases hen : s.rbit rShlCtl k = true
  · rw [if_pos hen]
    by_cases hidle : s.fld (rShlStat k) 2 0 = 0
    · rw [if_pos hidle]
      exact ⟨setFld_only _ _ _ _ _, fun a ha => reg_setFld_other s ha _ _ _, by rw [hset 1 (by decide), if_pos hen, if_pos hidle]⟩
    · rw [if_neg hidle]
      exact ⟨.refl s, fun _ _ => rfl, by rw [if_pos hen, if_neg hidle]⟩
  · rw [if_neg hen, if_neg (ne_true_of_eq_false h)]
    exact ⟨setFld_only _ _ _ _ _, fun a ha => reg_setFld_other s ha _ _ _, by rw [hset 0 (by decide), if_neg hen]⟩

/-- Both ports down: each follows its enable, and the write of SHL_CTL stands. -/
theorem portsEnabled_spec (hdown : ∀ k, k < 2 → portUp s k = false) :
    let t := portEnable (portEnable s 0) 1
    OnlyRegs s t ∧ t.reg rShlCtl = s.reg rShlCtl ∧ ∀ k, k < 2 → t.fld (rShlStat k) 2 0 =
      if t.rbit rShlCtl k = true then (if s.fld (rShlStat k) 2 0 = 0 then 1 else s.fld (rShlStat k) 2 0) else 0 := by
  intro t
  have hfirst := portEnable_follows (hdown 0 (by decide))
  have hkept : (portEnable s 0).reg (rShlStat 1) = s.reg (rShlStat 1) := hfirst.others _ (rShlStat_inj (by decide))
  have hsecond : Follows (portEnable s 0) t 1 := portEnable_follows ((portUp_congr hkept).trans (hdown 1 (by decide)))
  have hctl0 : (portEnable s 0).reg rShlCtl = s.reg rShlCtl := hfirst.others _ (rShlCtl_ne_stat (by decide))
  have hctl : t.reg rShlCtl = s.reg rShlCtl := (hsecond.others _ (rShlCtl_ne_stat (by decide))).trans hctl0
  refine ⟨hfirst.rest.trans hsecond.rest, hctl, fun k hk => ?_⟩
  obtain rfl | rfl : k = 0 ∨ k = 1 := by omega
  · rw [fld_of_reg (hsecond.others _ (rShlStat_inj (by decide))), hfirst.state, rbit_of_reg hctl]
  · rw [hsecond.state, fld_of_reg hkept, rbit_of_reg hctl0, rbit_of_reg hctl]

/-! ### Windows (R498) -/

theorem doShlHwinWrite_ctlLocked {k : Nat} (hup : s.up = true) (hvalid : s.rbit (rHwinBase k) 63 = true) (v : Word) :
    doShlHwinWrite k true v s = s.setRBit (rHwinCtl k) 63 true := by
  simp [doShlHwinWrite, hup, hvalid]

theorem doShlHwinWrite_baseLocked {k : Nat} (hup : s.up = true) (hvalid : s.rbit (rHwinBase k) 63 = true) (v : Word) :
    doShlHwinWrite k false v s = if bit v 63 = true then s.setRBit (rHwinCtl k) 63 true else s.softWrite (rHwinBase k) v := by
  simp [doShlHwinWrite, hup, hvalid]

theorem doShlHwinWrite_open {k : Nat} (hup : s.up = true) (hfree : s.rbit (rHwinBase k) 63 = false) (ctl : Bool) (v : Word) :
    doShlHwinWrite k ctl v s = s.softWrite (if ctl then rHwinCtl k else rHwinBase k) v := by
  simp [doShlHwinWrite, hup, hfree]

/-! ### The obligation -/

/-- Settles O44: a port's rise is `portTold`, its loss `portLossTold`; the enables are followed port by port, and a write of a
window register is made or refused by VALID. -/
theorem hostPorts : Obligations.HostPorts := by
  unfold Obligations.HostPorts
  intro n s hup
  refine ⟨fun r64 x16 rev failed hdown hen hrate hwidth => ?rises, fun cause hport hlo hhi => ?falls,
    fun v => next_congr (if_pos hup), fun v hdown => ?enables, fun k v => ⟨fun hvalid => ⟨?_, ?_⟩, fun hfree => ⟨?_, ?_⟩⟩⟩
  case rises =>
    have hstat := reg_portRaised s n r64 x16 rev
    refine ⟨portRaised s n r64 x16 rev, portTold s n r64 x16 rev, event0_reported _ _ _ _ _, ?_,
      (next_congr (doShlPortUp_accepted hup hdown hen hrate hwidth rev)), ?_, ?_, ?_, ?_, ?_⟩
    · rw [hstat]
      rfl
    · rw [portUp, State.fld, hstat, portWord_state]
      rfl
    · rw [State.fld, hstat, portWord_rate]
    · rw [State.fld, hstat, portWord_width]
    · rw [State.rbit, hstat, portWord_reversed]
    · rw [State.fld, hstat, portWord_trainings]
  case falls =>
    intro u
    have hdo := doShlPortDown_taken hup hport hlo hhi
    refine ⟨portLossTold s n cause.toNat, event0_reported _ _ _ _ _, fun hother => ?_, fun hlast => ?_⟩
    · exact next_congr (hdo.trans (portLeave_other _ hother))
    · exact ⟨_, next_congr (hdo.trans (portLeave_last _ hlast)), event0_reported _ _ _ _ _⟩
  case enables =>
    have hkept : ∀ k, k < 2 → (s.softWrite rShlCtl (v.setWidth 64)).reg (rShlStat k) = s.reg (rShlStat k) := fun k hk =>
      reg_softWrite_other s (rShlCtl_ne_stat hk).symm _
    obtain ⟨hrest, hctl, hstate⟩ := portsEnabled_spec (s := s.softWrite rShlCtl (v.setWidth 64)) fun k hk =>
      (portUp_congr (hkept k hk)).trans (hdown k hk)
    refine ⟨_, next_congr (if_pos hup), OnlyRegs.trans (softWrite_rest s _ _) hrest, hctl, fun k hk => ?_⟩
    rw [hstate k hk, fld_of_reg (hkept k hk)]
  · exact next_congr (doShlHwinWrite_ctlLocked hup hvalid v)
  · exact next_congr (doShlHwinWrite_baseLocked hup hvalid v)
  · exact next_congr (doShlHwinWrite_open hup hfree true v)
  · exact next_congr (doShlHwinWrite_open hup hfree false v)

end Sys2Proof.Machine
end

section
/-! PROOF. Accesses of the host to device memory (R467, R468, R498, R511): whole lines that it reads and writes, and those that are
refused. -/

namespace Sys2Proof.Machine

variable {s : State} {h : ShlHdr}

/-! ### Lines of storage (Tables 7.3, 7.8) -/

/-- Storage with a checksum entry lies in the data range of a stack or in the scratchpad ways of a die. -/
theorem place_of_inStore {a : Nat} (hstore : inStore s a = true) : (a < 0x10000000000 ∧ a % 0x1000000000 < 0x8EE000000) ∨
    (0x100000000000 ≤ a ∧ a < 0x100800000000 ∧ (a - 0x100000000000) % 0x100000000 < 0x30000000) := by
  simp only [inStore, inHbmData, inScratch, isHbm, isSs, Bool.or_eq_true, Bool.and_eq_true, decide_eq_true_eq] at hstore
  obtain ⟨⟨hhbm, hoff⟩, -⟩ | ⟨⟨⟨⟨hlo, hhi⟩, hoff⟩, -⟩, -⟩ := hstore
  · exact .inl ⟨hhbm, hoff⟩
  · exact .inr ⟨hlo, hhi, hoff⟩

/-- A line that has storage lies outside the shadow regions and the check arrays. -/
theorem line_of_inStore {a x : Nat} (hstore : inStore s a = true) (hline : x / 64 = a / 64) :
    inEntries x = false ∧ inShadow x = false := by
  have hplace := place_of_inStore hstore
  have hbase : ssBase = 0x100000000000 := rfl
  constructor <;> refine Bool.eq_false_iff.mpr fun hin => ?_
  · simp only [inEntries, isHbm, isSs, Bool.or_eq_true, Bool.and_eq_true, decide_eq_true_eq] at hin
    simp only [hbmOff, ssOff, hbmDataBytes] at hin
    omega
  · simp only [inShadow, isHbm, isSs, Bool.or_eq_true, Bool.and_eq_true, decide_eq_true_eq] at hin
    simp only [hbmOff, ssOff, hbmDataBytes] at hin
    omega

/-- The bytes of a line that has storage, as a read gives them. -/
theorem lineBytes_of_inStore {a : Nat} (hstore : inStore s a = true) : lineBytes s a = readBytes s (a / 64 * 64) 64 := by
  refine List.map_congr_left fun i hi => ?_
  have hi := List.mem_range.mp hi
  obtain ⟨hentry, hshadow⟩ := line_of_inStore hstore (x := a / 64 * 64 + i) (by omega)
  rw [storeByte, hentry, hshadow]
  rfl

theorem inStore_of_memReason {a : Nat} (h0 : memReason s a = 0) : inStore s a = true := by
  unfold memReason at h0
  split at h0
  · cases h0
  · split at h0
    · cases h0
    · split at h0
      · assumption
      · cases h0

/-! ### Messages on the port (R463) -/

/-- A message on its own CH of a port that is UP is taken. -/
theorem shlMsg_taken {ty ch : Nat} (hup : s.up = true) (hport : portUp s h.port = true) (hch : h.ch.toNat = ch) (k : State → State) :
    shlMsg ty ch h s k = k s := by
  have hserved : linkServed s = true := by rw [linkServed, hup, Bool.true_or]
  have hok : ¬ (linkServed s = false ∨ portUp s h.port.val = false) := by simp [hserved, hport]
  exact (if_neg hok).trans (if_neg (not_not.mpr hch))

/-! ### MRD, MWR and MWRP of memory (R467, R511) -/

section Taken

variable (hup : s.up = true) (hport : portUp s h.port = true) (hch : h.ch = 0) (hmem : isReg h.addr.toNat = false)

include hup hport hch hmem

theorem doMrd_clean (n : Nat) (h0 : memReason s h.addr.toNat = 0)
    (hclean : ReadsClean s (span (h.addr.toNat / 64 * 64) 64) hostReader) :
    let u := cacheUse s (hostReader.tag.agent = 1) false (span (h.addr.toNat / 64 * 64) 64)
    doMrd h n s = hostData u h false false (readBytes s (h.addr.toNat / 64 * 64) 64) := by
  intro u
  have hline : lineBytes u h.addr.toNat = readBytes s (h.addr.toNat / 64 * 64) 64 := by
    rw [lineBytes_of_inStore ((inStore_cacheUse s _ _ _ _).trans (inStore_of_memReason h0)), readBytes_cacheUse]
  unfold doMrd
  rw [shlMsg_taken hup hport (ch := 0) (congrArg BitVec.toNat hch)]
  simp only [hmem, h0, ne_eq, not_true_eq_false, Bool.false_eq_true, if_false]
  rw [show verifyRead s _ hostReader false = (u, false) from hclean]
  exact congrArg (hostData u h false false) hline

theorem doMrd_refused (n : Nat) (h0 : memReason s h.addr.toNat ≠ 0) :
    doMrd h n s = hostData (hostRefuse s h.addr.toNat 1 h.port.val (memReason s h.addr.toNat)) h false true (List.replicate 64 0xFF) := by
  unfold doMrd
  rw [shlMsg_taken hup hport (ch := 0) (congrArg BitVec.toNat hch)]
  simp only [hmem, Bool.false_eq_true, if_false]
  exact if_pos h0

theorem hostWriteMsg_memory (ty : Nat) (mask : BitVec 64) (data : BitVec 512) (h0 : memReason s h.addr.toNat = 0) :
    hostWriteMsg ty h mask data s = hostCmp (applyHostLine s h.addr.toNat mask data) h false := by
  unfold hostWriteMsg
  rw [shlMsg_taken hup hport (ch := 0) (congrArg BitVec.toNat hch)]
  simp only [hmem, h0, ne_eq, not_true_eq_false, Bool.false_eq_true, if_false]

theorem hostWriteMsg_refused (ty : Nat) (mask : BitVec 64) (data : BitVec 512) (h0 : memReason s h.addr.toNat ≠ 0) :
    hostWriteMsg ty h mask data s =
      hostCmp (hostRefuse s h.addr.toNat ty h.port.val (memReason s h.addr.toNat)) h true := by
  unfold hostWriteMsg
  rw [shlMsg_taken hup hport (ch := 0) (congrArg BitVec.toNat hch)]
  simp only [hmem, Bool.false_eq_true, if_false]
  exact if_pos h0

end Taken

/-- With every Sillage ring off the write leaves no record (R511). -/
theorem applyHostLine_unrecorded (hoff : ∀ p, p < 16 → slgOn s p = false) (a : Nat) (mask : BitVec 64) (data : BitVec 512) :
    applyHostLine s a mask data = writeLine s a (maskOf mask data) none := by
  have honly := writeLine_only s a (maskOf mask data) none
  refine foldl_unchanged fun p hp => ?_
  have hoff1 : slgOn (writeLine s a (maskOf mask data) none) p = false := by
    rw [honly]
    exact hoff p (List.mem_range.mp hp)
  dsimp only
  split
  · rw [slgWrite_off hoff1 (Nat.le_of_ble_eq_true rfl), slgWrite_off hoff1 (Nat.le_of_ble_eq_true rfl)]
  · rfl

/-- The selected bytes of the line read as written; beside memory only the completion differs. -/
theorem hostLineWritten_spec (s : State) (h : ShlHdr) (mask : BitVec 64) (data : BitVec 512) :
    let t := hostCmp (writeLine s h.addr.toNat (maskOf mask data) none) h false
    t = { s with mem := t.mem, ent := t.ent, cache := t.cache, out := s.out ++ [.shl h.port 0x22 1 h.tag.toNat h.addr.toNat false false []] } ∧
      ∀ x, readByte t x = if x / 64 = h.addr.toNat / 64 ∧ bit mask (x % 64) = true then data.extractLsb' (8 * (x % 64)) 8
        else readByte s x := by
  intro t
  have honly := writeLine_only s h.addr.toNat (maskOf mask data) none
  unfold OnlyMemory at honly
  refine ⟨?_, fun x => ?_⟩
  · simp only [t, hostCmp]
    rw [honly]
    rfl
  · have hread : readByte t x = readByte (writeLine s h.addr.toNat (maskOf mask data) none) x := rfl
    rw [hread, readByte_writeLine, maskOf_getD, ite_and]

/-! ### The obligation -/

/-- Settles O46: a read comes down to the bytes of its line, a write to `writeLine`, and a refusal to `hostRefuse`. -/
theorem hostMemoryAccesses : Obligations.HostMemoryAccesses := by
  unfold Obligations.HostMemoryAccesses
  intro h n mask data s hup hport hch a read done hmem
  refine ⟨fun h0 hclean => ?reads, fun h0 hoff => ⟨?line, ?selected⟩, fun h0 => ⟨?_, ?_⟩⟩
  case reads => exact ⟨_, cacheUse_eq _ _ _ _, next_congr (doMrd_clean hup hport hch hmem n h0 hclean)⟩
  case line =>
    have hdo := (hostWriteMsg_memory hup hport hch hmem 2 (BitVec.allOnes 64) data h0).trans
      (congrArg (hostCmp · h false) (applyHostLine_unrecorded hoff a _ data))
    obtain ⟨hrest, hbytes⟩ := hostLineWritten_spec s h (BitVec.allOnes 64) data
    refine ⟨_, next_congr hdo, hrest, fun x => ?_⟩
    have hall : bit (BitVec.allOnes 64) (x % 64) = true := by
      have hin : x % 64 < 64 := Nat.mod_lt _ (by decide)
      rw [bit, BitVec.getLsbD_allOnes, decide_eq_true hin]
    rw [hbytes x, hall]
    simp only [and_true]
    rfl
  case selected =>
    have hdo := (hostWriteMsg_memory hup hport hch hmem 3 mask data h0).trans
      (congrArg (hostCmp · h false) (applyHostLine_unrecorded hoff a _ data))
    obtain ⟨hrest, hbytes⟩ := hostLineWritten_spec s h mask data
    exact ⟨_, next_congr hdo, hrest, hbytes⟩
  · exact ⟨_, cntInc_reported s 0x5000 0 1, next_congr (doMrd_refused hup hport hch hmem n h0)⟩
  · exact ⟨_, cntInc_reported s 0x5000 0 1, next_congr (hostWriteMsg_refused hup hport hch hmem 2 _ data h0)⟩

end Sys2Proof.Machine
end

section
/-! PROOF. The hub's cache of host lines (R461 to R466, R469): lines that arrive, write-backs that end, snoops, and requests that
time out. -/

namespace Sys2Proof.Machine

variable {s t u : State} {h : ShlHdr} {r : HostReq}

/-! ### Lines held (R465) -/

theorem line_of_findLine {l : Nat} {g : HostLine} (hfind : findLine s l = some g) : g.line = l := by
  simpa using List.find?_some hfind

/-- The lines without line `l` hold every other line as before. -/
theorem find_without (gs : List HostLine) (l k : Nat) :
    (gs.filter fun g => g.line ≠ l).find? (fun g => g.line = k) = if k = l then none else gs.find? fun g => g.line = k := by
  rw [List.find?_filter]
  split
  · next hkl =>
    rw [List.find?_eq_none]
    intro g _
    simp [hkl]
  · next hkl =>
    refine congrArg (fun p => gs.find? p) (funext fun g => ?_)
    by_cases hg : g.line = k
    · simp [hg, hkl]
    · simp [hg]

theorem find_touchLine (gs : List HostLine) (g : HostLine) (k : Nat) :
    (touchLine gs g).find? (fun x => x.line = k) = if k = g.line then some g else gs.find? fun x => x.line = k := by
  rw [touchLine, List.find?_cons, find_without]
  by_cases hk : g.line = k
  · simp [hk]
  · simp [hk, Ne.symm hk]

theorem findLine_dropLine (s : State) (l k : Nat) : findLine (dropLine s l) k = if k = l then none else findLine s k :=
  find_without s.hub.hlines l k

theorem findLine_shareLine (s : State) (l k : Nat) : findLine (shareLine s l) k =
    (findLine s k).map fun g => if g.line = l then { g with st := .shared } else g := by
  have hkeep : ((fun g : HostLine => decide (g.line = k)) ∘ fun g : HostLine => if g.line = l then { g with st := LineSt.shared } else g) =
      fun g => decide (g.line = k) := funext fun g => by
    dsimp only [Function.comp]
    split <;> rfl
  rw [findLine, shareLine, List.find?_map, hkeep, findLine]

theorem victim_congr (h : t.hub.hlines = s.hub.hlines) (l : Nat) : victim t l = victim s l := by rw [victim, h, victim]

/-- The line stands in the cache, most recently used. -/
def lineFilled (s : State) (g : HostLine) : State := { s with hub := { s.hub with hlines := touchLine s.hub.hlines g } }

theorem findLine_shareLine_other {l k : Nat} (h : k ≠ l) : findLine (shareLine s l) k = findLine s k := by
  rw [findLine_shareLine]
  rcases hfind : findLine s k with _ | g
  · rfl
  · rw [Option.map_some, if_neg (ne_of_eq_of_ne (line_of_findLine hfind) h)]

/-- A line that finds its set not full enters it, most recently used. -/
theorem cacheFill_room {g : HostLine} (hroom : victim s g.line = none) :
    cacheFill s g = lineFilled s g := by
  unfold cacheFill lineFilled
  rw [hroom]

/-! ### What waits for a line (R463) -/

/-- Only the fabric's own state differs. -/
def OnlyFabric (s t : State) : Prop := t = { s with fabr := t.fabr }

theorem OnlyFabric.trans (h : OnlyFabric s t) (g : OnlyFabric t u) : OnlyFabric s u := by
  unfold OnlyFabric at *
  rw [g, h]

theorem OnlyFabric.hub (h : OnlyFabric s t) : t.hub = s.hub := by rw [h]

theorem OnlyFabric.regs (h : OnlyFabric s t) : t.regs = s.regs := by rw [h]

theorem setSite_fabric (s : State) (m : Nat) (g : GSite) : OnlyFabric s (setSite s m g) := rfl

/-- The waiting accesses of dies to a line have gone to `f`, and wait no more. -/
def diesAnswered (s : State) (line : Nat) (f : State → DieHdr → State) : State :=
  let here := fun (q : DieReq) => decide ((q.h.addr.toNat - hostAperture) / 64 = line)
  (s.fabr.hostq.filter here).foldl (fun s q => f s q.h)
    { s with fabr := { s.fabr with hostq := s.fabr.hostq.filter fun q => !here q } }

/-- The same of the guest of site `m`. -/
def guestAnswered (line : Nat) (f : State → DieHdr → State) (s : State) (m : Nat) : State :=
  let here := fun (g : GuestMsg) => decide ((g.h.addr.toNat - hostAperture) / 64 = line)
  let x := getSite s m
  (x.outs.filter here).foldl (fun s g => f s g.h) (setSite s m { x with outs := x.outs.filter fun g => !here g })

theorem answerWaiting_eq (s : State) (line : Nat) (f : State → DieHdr → State) :
    answerWaiting s line f = guestAnswered line f (guestAnswered line f (diesAnswered s line f) 0) 1 := rfl

theorem guestAnswered_none {m : Nat} (hnone : (getSite s m).outs = []) (line : Nat) (f : State → DieHdr → State) :
    guestAnswered line f s m = setSite s m { getSite s m with outs := [] } := by
  unfold guestAnswered
  dsimp only
  rw [hnone]
  rfl

/-- Where no guest waits, only the fabric's own state differs from what the dies' answers leave, its waiting list as they leave it. -/
theorem answerWaiting_noGuests {line : Nat} {f : State → DieHdr → State}
    (hnone : ∀ k, k < 2 → (getSite (diesAnswered s line f) k).outs = []) :
    OnlyFabric (diesAnswered s line f) (answerWaiting s line f) ∧
      (answerWaiting s line f).fabr.hostq = (diesAnswered s line f).fabr.hostq := by
  have hfirst := guestAnswered_none (hnone 0 (by decide)) line f
  have hother : getSite (guestAnswered line f (diesAnswered s line f) 0) 1 = getSite (diesAnswered s line f) 1 := by
    rw [hfirst]
    exact smGet_smSet_other _ _ _ (by decide)
  rw [answerWaiting_eq, guestAnswered_none (hother ▸ hnone 1 (by decide)), hfirst]
  exact ⟨(setSite_fabric _ _ _).trans (setSite_fabric _ _ _), rfl⟩

/-- No die waits. -/
theorem diesAnswered_none (hnone : s.fabr.hostq = []) (line : Nat) (f : State → DieHdr → State) :
    OnlyFabric s (diesAnswered s line f) := by
  unfold diesAnswered
  dsimp only
  rw [hnone]
  rfl

theorem getSite_diesAnswered_none (hnone : s.fabr.hostq = []) (line : Nat) (f : State → DieHdr → State) (k : Nat) :
    getSite (diesAnswered s line f) k = getSite s k := by
  unfold diesAnswered
  dsimp only
  rw [hnone]
  rfl

/-- Nothing waits for the line. -/
theorem answerWaiting_none (hnone : s.fabr.hostq = []) (hguests : ∀ k, k < 2 → (getSite s k).outs = []) (line : Nat)
    (f : State → DieHdr → State) : OnlyFabric s (answerWaiting s line f) :=
  (diesAnswered_none hnone line f).trans
    (answerWaiting_noGuests fun k hk => (getSite_diesAnswered_none hnone line f k) ▸ hguests k hk).1

/-! ### Read data (R463, R469) -/

/-- The request has its response; what waited for a tag has gone. -/
def requestEnded (s : State) (r : HostReq) : State :=
  sendHeld { s with hub := { s.hub with hreqs := s.hub.hreqs.filter fun q => decide (q ≠ r) } }

theorem requestEnded_requests (s : State) (r : HostReq) : OnlyRequests s (requestEnded s r) :=
  OnlyRequests.trans (t := { s with hub := { s.hub with hreqs := s.hub.hreqs.filter fun q => decide (q ≠ r) } }) rfl
    (sendHeld_requests _)

/-- The waiting writes to the line have failed, and those to other lines go on. -/
def writesFailed (s : State) (line : Nat) : State :=
  let t := failWrites s line fun _ => true
  if hubRestarting t = true then t else hostPump t.hub.hwrites.length t

/-- The request that read data of `h` answers. -/
def dataFor (s : State) (h : ShlHdr) : Option HostReq :=
  s.hub.hreqs.find? fun r => decide (r.port = h.port.val ∧ r.tag = h.tag.toNat ∧ (r.ty = 0x11 ∨ r.ty = 0x12))

/-- The write-back or give-up that a completion of `h` ends. -/
def completionFor (s : State) (h : ShlHdr) : Option HostReq :=
  s.hub.hreqs.find? fun r => decide (r.port = h.port.val ∧ r.tag = h.tag.toNat ∧ (r.ty = 0x13 ∨ r.ty = 0x14))

section Taken

variable (hup : s.up = true) (hport : portUp s h.port = true)

include hup hport

theorem doShlData_answers (hch : h.ch = 1) (hfind : dataFor s h = some r) (pois refused : Bool) (data : BitVec 512) :
    doShlData h pois refused data s =
      if refused then writesFailed (answerWaiting (requestEnded s r) r.line fun s h => sendNack s h 2) r.line
      else if pois then writesFailed (hostRequest (answerWaiting (requestEnded s r) r.line (rdataTo data.toNat true)) 0x14 r.line [])
        r.line
      else lineArrives (requestEnded s r) r data := by
  unfold doShlData
  rw [shlMsg_taken hup hport (ch := 1) (congrArg BitVec.toNat hch)]
  rw [show s.hub.hreqs.find? _ = some r from hfind]
  dsimp only [requestEnded, writesFailed]

theorem doCmp_ends (hch : h.ch = 1) (hfind : completionFor s h = some r) (refused : Bool) :
    doCmp h refused s = if refused = true ∧ r.ty = 0x13 then lostStatus (requestEnded s r) r.line else requestEnded s r := by
  unfold doCmp
  rw [shlMsg_taken hup hport (ch := 1) (congrArg BitVec.toNat hch)]
  rw [show s.hub.hreqs.find? _ = some r from hfind]
  rfl

/-- A completion on the wrong CH (R463). -/
theorem doCmp_wrongCh (hch : h.ch ≠ 1) (refused : Bool) : Reported s (doCmp h refused s) := by
  have hserved : linkServed s = true := by rw [linkServed, hup, Bool.true_or]
  have hok : ¬ (linkServed s = false ∨ portUp s h.port.val = false) := by simp [hserved, hport]
  have hwrong : h.ch.toNat ≠ 1 := fun hone => hch (BitVec.eq_of_toNat_eq hone)
  have hdo : doCmp h refused s = errRecord s _ := (if_neg hok).trans (if_pos hwrong)
  rw [hdo]
  exact errRecord_reported _ _

end Taken

/-- The line as it is held when it has come. -/
def lineCome (r : HostReq) (data : BitVec 512) : HostLine :=
  ⟨r.line, if r.ty = 0x12 then .exclusive else .shared, leBytes 64 data.toNat, false⟩

theorem watched_congr (h : t.regs = s.regs) (l : Nat) : watched t l = watched s l := by
  have hreg : ∀ a, t.reg a = s.reg a := fun a => by rw [State.reg, h, State.reg]
  have hen : jobtabEn t = jobtabEn s := rbit_of_reg (hreg _) 13
  have hcount : jobtabCount t = jobtabCount s := fld_of_reg (hreg _) 12 0
  have hbase : recAddr t 0 = recAddr s 0 := by rw [recAddr, fld_of_reg (hreg _), recAddr]
  rw [watched, hen, hcount, hbase, watched]

/-- A line that nothing waits for, not watched, enters a set that has room; nothing else follows. -/
theorem lineArrives_fills (hq : s.fabr.hostq = []) (hguests : ∀ k, k < 2 → (getSite s k).outs = []) (hwrites : s.hub.hwrites = [])
    (hwatch : watched s r.line = false) (hmiss : findLine s r.line = none) (hroom : victim s r.line = none) (data : BitVec 512) :
    OnlyFabric (lineFilled s (lineCome r data)) (lineArrives s r data) := by
  unfold lineArrives
  extract_lets keep bytes s1 s2 s3
  have hs1 : s1 = lineFilled s (lineCome r data) := by
    have hkeep : ¬ keep = true := by
      rw [show keep = (findLine s r.line).any _ from rfl, hmiss]
      exact Bool.false_ne_true
    refine (if_neg hkeep).trans ?_
    rw [hwatch]
    exact cacheFill_room (g := lineCome r data) hroom
  have hs2 : OnlyFabric (lineFilled s (lineCome r data)) s2 := by
    rw [← hs1]
    exact answerWaiting_none (hs1 ▸ hq) (hs1 ▸ hguests) _ _
  have hs3 : s3 = s2 := by
    have hnothing : s2.hub.hwrites = [] := by
      rw [hs2.hub]
      exact hwrites
    have hpump : hostPump s2.hub.hwrites.length s2 = s2 := by
      rw [hnothing]
      rfl
    exact (congrArg (fun x => if hubRestarting s2 = true then s2 else x) hpump).trans (ite_self s2)
  have hidle : ¬ (watched s3 r.line && !intakePaused s3) = true := by
    rw [hs3, watched_congr hs2.regs, show watched (lineFilled s _) r.line = false from hwatch]
    exact Bool.false_ne_true
  rw [if_neg hidle, hs3]
  exact hs2

/-! ### Snoops (R466) -/

section Snooped

variable (hup : s.up = true) (hport : portUp s h.port = true) (hch : h.ch = 2)

include hup hport hch

theorem snoop_missing (hmiss : findLine s (h.addr.toNat / 64) = none) (ty : Nat) (share bad : Bool) :
    snoop ty share bad h s = snoopDone s h [] := by
  unfold snoop
  rw [shlMsg_taken hup hport (ch := 2) (congrArg BitVec.toNat hch)]
  dsimp only
  rw [hmiss]

/-- An uncorrectable word in a modified line. -/
theorem snoop_badModified {l : HostLine} (hfind : findLine s (h.addr.toNat / 64) = some l) (hmod : l.st = .modified) (ty : Nat)
    (share : Bool) : snoop ty share true h s =
      fatal s { code := 0x09F2, cls := 4, unit := 8, addr := h.addr.toNat / 64 * 64 } := by
  unfold snoop
  rw [shlMsg_taken hup hport (ch := 2) (congrArg BitVec.toNat hch)]
  dsimp only
  rw [hfind]
  exact if_pos (by rw [hmod]; rfl)

/-- A snoop that finds the line without an error shares it or gives it up, and is answered with the data of a modified one. -/
theorem snoop_found {l : HostLine} (hfind : findLine s (h.addr.toNat / 64) = some l)
    (hwatch : watched s (h.addr.toNat / 64) = false) (ty : Nat) (share : Bool) : snoop ty share false h s =
      let t := snoopDone s h (if l.st = .modified then l.data else [])
      if share then shareLine t (h.addr.toNat / 64) else dropLine t (h.addr.toNat / 64) := by
  have hidle : ∀ t : State, t.regs = s.regs → wakeEngine t (h.addr.toNat / 64) = t := fun t ht => by
    have hnot : ¬ (watched t (h.addr.toNat / 64) && !intakePaused t) = true := by
      rw [watched_congr ht, hwatch]
      exact Bool.false_ne_true
    exact if_neg hnot
  unfold snoop
  rw [shlMsg_taken hup hport (ch := 2) (congrArg BitVec.toNat hch)]
  dsimp only
  rw [hfind]
  dsimp only
  rw [Bool.false_and, if_neg Bool.false_ne_true, Bool.not_false, Bool.and_true, hidle]
  rfl

end Snooped

/-! ### Time-outs (R461) -/

/-- The request that waits under a tag. -/
def waitingFor (s : State) (tag : Nat) : Option HostReq :=
  s.hub.hreqs.find? fun r => decide (r.tag = tag ∧ (r.ty = 0x11 ∨ r.ty = 0x12))

theorem failWrites_none (hnone : s.hub.hwrites = []) (line : Nat) (p : HostWr → Bool) : failWrites s line p = s := by
  have hsame : ({ s with hub := { s.hub with hwrites := [] } } : State) = s := by rw [← hnone]
  unfold failWrites
  dsimp only
  rw [hnone]
  exact hsame

/-- The one die that waits for the line gets its NACK. -/
theorem diesAnswered_one {q : DieReq} {line : Nat} (hq : s.fabr.hostq = [q]) (hline : (q.h.addr.toNat - hostAperture) / 64 = line)
    (f : State → DieHdr → State) : diesAnswered s line f = f { s with fabr := { s.fabr with hostq := [] } } q.h := by
  unfold diesAnswered
  simp only [hq, hline, List.filter_cons, List.filter_nil, decide_true, if_true, Bool.not_true, Bool.false_eq_true, if_false]
  rfl

/-- Beside the waiting list only the NACK is new. -/
theorem doHostAccessTimeout_fails {tag : Nat} {q : DieReq} (hup : s.up = true) (hfind : waitingFor s tag = some r)
    (hq : s.fabr.hostq = [q]) (hline : (q.h.addr.toNat - hostAperture) / 64 = r.line)
    (hguests : ∀ k, k < 2 → (getSite s k).outs = []) (hwrites : s.hub.hwrites = []) (hexport : longRunning s 3 = none) :
    OnlyFabric (sendNack s q.h 3) (doHostAccessTimeout tag s) ∧ (doHostAccessTimeout tag s).fabr.hostq = [] := by
  have hdies := diesAnswered_one hq hline fun s h => sendNack s h 3
  have hkept : OnlyFabric (sendNack s q.h 3) (diesAnswered s r.line fun s h => sendNack s h 3) := by
    rw [hdies]
    rfl
  obtain ⟨hanswer, hhostq⟩ := answerWaiting_noGuests (s := s) (line := r.line) (f := fun s h => sendNack s h 3) fun k hk => by
    rw [hdies]
    exact hguests k hk
  have hall := hkept.trans hanswer
  rw [hdies] at hhostq
  have hdo : doHostAccessTimeout tag s = answerWaiting s r.line fun s h => sendNack s h 3 := by
    unfold doHostAccessTimeout
    rw [show s.hub.hreqs.find? _ = some r from hfind]
    dsimp only
    rw [if_neg (ne_false_of_eq_true hup)]
    generalize (answerWaiting s r.line fun s h => sendNack s h 3) = v at hall ⊢
    rw [failWrites_none (by rw [hall.hub]; exact hwrites)]
    rw [show longRunning v 3 = none from by rw [longRunning, hall.hub]; exact hexport]
  rw [hdo]
  exact ⟨hall, hhostq⟩

/-! ### The obligation -/

/-- Settles O45: read data is `doShlData_answers`, a completion `doCmp_ends`, a snoop `snoop_found`, and a time-out one NACK. -/
theorem hostCache : Obligations.HostCache := by
  unfold Obligations.HostCache
  intro h bad data s hup hport less
  refine ⟨fun hch => ⟨fun r hfind => ?data, fun r hfind refused => next_congr (doCmp_ends hup hport hch hfind refused)⟩,
    fun hch => ?snoops, fun hch => ⟨_, rfl, doCmp_wrongCh hup hport hch false⟩,
    fun tag r q hfind hq hline hguests hwrites hexport => ?timeout⟩
  case data =>
    intro u failed
    have hdo := doShlData_answers hup hport hch hfind
    have hfailed : failed = fun v => writesFailed v r.line := by
      unfold writesFailed
      rfl
    have hended : u = requestEnded s r := rfl
    rw [hfailed, hended]
    refine ⟨fun pois => ?_, ?_, fun hq hguests hwrites hwatch hmiss hroom => ?_⟩
    · exact next_congr ((hdo pois true data).trans (if_pos rfl))
    · exact next_congr ((hdo true false data).trans ((if_neg Bool.false_ne_true).trans (if_pos rfl)))
    · have hu := requestEnded_requests s r
      have hfill := lineArrives_fills (s := requestEnded s r) (r := r) (hu.fabr ▸ hq)
        (fun k hk => (by rw [getSite, hu.fabr]; exact hguests k hk)) (hu.hwrites.trans hwrites) ((watched_congr hu.regs _).trans hwatch)
        ((hu.findLine _).trans hmiss) ((victim_congr hu.hlines _).trans hroom) data
      have hfind : ∀ l, findLine (lineArrives (requestEnded s r) r data) l =
          if l = r.line then some (lineCome r data) else findLine s l := fun l => by
        rw [← hu.findLine l, findLine, hfill.hub]
        exact find_touchLine _ _ _
      have hgood : doShlData h false false data s = lineArrives (requestEnded s r) r data := hdo false false data
      refine ⟨_, next_congr hgood, ?_, ?_, (hfind r.line).trans (if_pos rfl),
        fun l hl => (hfind l).trans (if_neg hl)⟩
      · rw [hfill.hub]
        rfl
      · rw [hfill]
        rfl
  case snoops =>
    intro line answer
    refine ⟨fun hmiss => ⟨next_congr (snoop_missing hup hport hch hmiss _ _ _), next_congr (snoop_missing hup hport hch hmiss _ _ _)⟩,
      fun l hfind hwatch => ?_⟩
    intro held
    have hfound := snoop_found hup hport hch hfind hwatch
    refine ⟨fun hmod => ⟨?_, ?_⟩, ?gone, ?shared⟩
    · exact next_congr (snoop_badModified hup hport hch hfind hmod _ _)
    · exact next_congr (snoop_badModified hup hport hch hfind hmod _ _)
    case gone =>
      have hgone : doSnpi h false s = dropLine (snoopDone s h held) line := hfound _ false
      have hdrop := findLine_dropLine (snoopDone s h held) line
      exact ⟨_, next_congr hgone, rfl, (hdrop line).trans (if_pos rfl), fun k hk => (hdrop k).trans (if_neg hk)⟩
    case shared =>
      have hshared : doSnps h false s = shareLine (snoopDone s h held) line := hfound _ true
      have hkept : findLine (snoopDone s h held) line = some l := hfind
      refine ⟨_, next_congr hshared, rfl, ?_, fun k hk => ?_⟩
      · rw [findLine_shareLine, hkept, Option.map_some, if_pos (line_of_findLine hfind)]
      · exact findLine_shareLine_other hk
  case timeout =>
    obtain ⟨hrest, hhostq⟩ := doHostAccessTimeout_fails hup hfind hq hline hguests hwrites hexport
    refine ⟨_, rfl, ?_, hhostq⟩
    exact hrest

end Sys2Proof.Machine
end

section
/-! PROOF. The job engine (R465, R471, R475, R478, R479, R491): records taken, the checks of a STEP, and ABORT. -/

namespace Sys2Proof.Machine

variable {s t u : State} {j : Job}

/-! ### Final states (R479) -/

theorem writeStatus_traffic (s : State) (j : Job) (st progress err : Nat) : OnlyTraffic s (writeStatus s j st progress err) :=
  .ite (.refl s) (hostWriteFor_traffic _ _ _ _ _)

/-- The status word of a record whose status line the hub does not hold waits. -/
theorem writeStatus_waits (hown : j.replay = false) (hline : findLine s (jStatus j / 64) = none) (hnone : s.hub.hwrites = [])
    (st progress err : Nat) : (writeStatus s j st progress err).hub.hwrites =
      [⟨jStatus j, leBytes 8 (statusWord st progress err (jSubmit j)).toNat, some j.idx, none⟩] := by
  have hwrite : writeStatus s j st progress err =
      hostWriteFor s (jStatus j) (leBytes 8 (statusWord st progress err (jSubmit j)).toNat) (some j.idx) :=
    if_neg (ne_true_of_eq_false hown)
  rw [hwrite]
  exact hostWriteFor_waits hline hnone _ _ _

/-- INFLIGHT counts the jobs that the table has started. -/
def Counted (t : State) : Prop := t.fld rJobStat 12 0 = (t.hub.jobs.filter fun k => !k.replay).length % 8192

theorem countJobs_counted (s : State) : Counted (countJobs s) := fld_setFld_same _ _ (by decide) _

/-- Job `j` has ended in state `st` with `err`: it is on the list no more, INFLIGHT counts anew, and its status word waits where
the hub does not hold its line. -/
structure JobEnded (s t : State) (j : Job) (st err : Nat) : Prop where
  rest : HubOnly s t
  jobs : t.hub.jobs = s.hub.jobs.filter fun k => decide (k.idx ≠ j.idx)
  counted : Counted t
  status : j.replay = false → findLine s (jStatus j / 64) = none → s.hub.hwrites = [] → t.hub.hwrites =
    [⟨jStatus j, leBytes 8 (statusWord st 0 err (jSubmit j)).toNat, some j.idx, none⟩]

theorem OnlyTraffic.hubOnly (h : OnlyTraffic s t) : HubOnly s t := by
  unfold OnlyTraffic at h
  unfold HubOnly
  rw [h]

theorem jobEnd_ended (s : State) (j : Job) (st err : Nat) : JobEnded s (jobEnd s j st 0 err) j st err := by
  have hwrite := writeStatus_traffic s j st 0 err
  unfold jobEnd
  dsimp only
  refine ⟨hwrite.hubOnly.trans ((hubSet_hub _ _).trans (setFld_hub _ _ _ _ _)), ?_, countJobs_counted _,
    fun hown hline hnone => writeStatus_waits hown hline hnone st 0 err⟩
  exact congrArg (List.filter _) hwrite.jobs

/-- A record that the recorder only shows to a replay changes nothing that the end of a job looks at. -/
theorem replaySee_eq (s : State) (p : Nat) (r : SlgRec) : ∃ x, replaySee s p r = { s with hub := { s.hub with rep := x } } := by
  unfold replaySee
  split
  · split <;> exact ⟨_, rfl⟩
  · exact ⟨_, rfl⟩

/-- The end of a STEP of a partition whose ring is off. -/
theorem jobFinal_ended (hty : jType j = 1) (hoff : slgOn s (jPart j) = false) (st err : Nat) :
    JobEnded s (jobFinal s j st 0 err) j st err := by
  have hwrite : ∀ r, slgWrite s (jPart j) r = replaySee s (jPart j) r := fun r => by
    obtain ⟨x, hx⟩ := replaySee_eq s (jPart j) r
    have hoff1 : slgOn (replaySee s (jPart j) r) (jPart j) = false := by
      rw [hx]
      exact hoff
    exact if_pos hoff1
  unfold jobFinal
  dsimp only
  rw [if_pos (.inl hty), hwrite]
  obtain ⟨x, hx⟩ := replaySee_eq s (jPart j) ⟨0x07, 1, if jType j = 1 then some (jCtx j) else none, 0,
    [statusWord st 0 err (jSubmit j), put (j.idx % 4096) 0]⟩
  rw [hx]
  obtain ⟨hrest, hjobs, hcount, hstatus⟩ := jobEnd_ended { s with hub := { s.hub with rep := x } } j st err
  exact ⟨(hubSet_hub s _).trans hrest, hjobs, hcount, hstatus⟩

/-! ### Entries of a step queue (R311, R475) -/

theorem queueMove_only {q : Nat} (h : queueMove s q = some t) : OnlyQueue s t q := by
  unfold queueMove at h
  extract_lets v group at h
  split at h
  · obtain rfl := Option.some.inj h
    exact setQueue_only _ _ _
  · split at h
    · obtain rfl := Option.some.inj h
      exact setQueue_only _ _ _
    · split at h
      · obtain rfl := Option.some.inj h
        exact spillTail_only _ _ _
      · cases h

theorem queueFlow_only {q : Nat} (n : Nat) : ∀ s : State, OnlyQueue s (queueFlow n q s) q := by
  induction n with
  | zero => exact fun s => .refl s q
  | succ n ih =>
    intro s
    unfold queueFlow
    split
    · next v hmove => exact (queueMove_only hmove).trans (ih v)
    · exact .refl s q

/-- An entry changes no other queue, whatever the middle of its own. -/
theorem queuePut_only (s : State) (q : Nat) (words : List Word) (pois : Nat) : OnlyQueue s (queuePut s q words pois) q := by
  unfold queuePut
  dsimp only
  split
  · exact .refl s q
  · exact (setQueue_only _ _ _).trans (queueFlow_only 100 _)

/-! ### JOB_TAKE (R471, R479) -/

/-- The job as it is taken. -/
def takenJob (i : Nat) (ws : List Word) : Job := ⟨i, ws, .queued, 0, false, false, false⟩

/-- The record is taken: its job is on the list, INFLIGHT counts it, and QUEUED is written. -/
def recordTaken (s : State) (j : Job) : State := writeStatus (useLine (addJob s j) (jStatus j / 64)) j 1 0 0

/-- With nothing that holds it up a pending record is taken: an unknown TYPE then fails, and a STEP enters its queue. -/
theorem doJobTake_takes {i : Nat} {ws : List Word} {st : Word} (hen : jobtabEn s = true) (hidx : i < jobtabCount s)
    (hrun : intakePaused s = false) (hread : readRecord s i = some (ws, st)) (hpend : recPending s i ws st = true)
    (hroom : jType (takenJob i ws) = 1 → stepQueueFull s (jPart (takenJob i ws)) (jCtx (takenJob i ws)) = false)
    (hpart : partTarget (jType (takenJob i ws)) = true → partState s (jPart (takenJob i ws)) ≠ 3) :
    doJobTake i s = if jobTypes.contains (jType (takenJob i ws)) = true then pushStep (recordTaken s (takenJob i ws)) (takenJob i ws)
      else jobEnd (recordTaken s (takenJob i ws)) (takenJob i ws) 5 0 0x40 := by
  have hopen : ¬ (jobtabEn s = false ∨ jobtabCount s ≤ i ∨ intakePaused s = true) := by
    simp only [hen, hrun, Bool.true_eq_false, Bool.false_eq_true, false_or, or_false]
    omega
  have hfree : ¬ (recPending s i ws st = false ∨
      (jType (takenJob i ws) = 1 ∧ stepQueueFull s (jPart (takenJob i ws)) (jCtx (takenJob i ws)) = true)) := by
    rintro (hnot | ⟨hty, hfull⟩)
    · exact Bool.false_ne_true (hnot.symm.trans hpend)
    · exact Bool.false_ne_true ((hroom hty).symm.trans hfull)
  have hstays : ¬ (partTarget (jType (takenJob i ws)) && decide (jType (takenJob i ws) ≠ 15) &&
      decide (partState s (jPart (takenJob i ws)) = 3)) = true := by
    simp only [Bool.and_eq_true, decide_eq_true_eq]
    exact fun ⟨⟨htarget, _⟩, hends⟩ => hpart htarget hends
  unfold doJobTake
  rw [if_neg hopen, hread]
  refine (if_neg hfree).trans ?_
  cases hknown : jobTypes.contains (jType (takenJob i ws))
  · exact (if_pos (congrArg not hknown)).trans (if_neg Bool.false_ne_true).symm
  · exact (if_neg (ne_true_of_eq_false (congrArg not hknown))).trans ((if_neg hstays).trans (if_pos rfl).symm)

/-- What taking a record leaves. -/
structure Took (s t : State) (j : Job) : Prop where
  rest : HubOnly s t
  jobs : t.hub.jobs = s.hub.jobs ++ [j]
  counted : Counted t

theorem addJob_took (s : State) (j : Job) : Took s (addJob s j) j :=
  ⟨(hubSet_hub s _).trans (setFld_hub _ _ _ _ _), rfl, countJobs_counted _⟩

theorem Took.traffic (h : Took s t j) (g : OnlyTraffic t u) : Took s u j := by
  refine ⟨h.rest.trans g.hubOnly, g.jobs.trans h.jobs, ?_⟩
  rw [Counted, fld_of_reg (g.reg _), g.jobs]
  exact h.counted

theorem recordTaken_took (s : State) (j : Job) : Took s (recordTaken s j) j :=
  (addJob_took s j).traffic ((useLine_traffic _ _).trans (writeStatus_traffic _ _ _ _ _))

theorem HubOnly.queues (h : HubOnly s t) : t.queues = s.queues := by rw [h]

/-- A STEP that is taken is the last entry of its context's step queue. -/
theorem pushStep_step (hty : jType j = 1) (s : State) :
    pushStep s j = queuePut s (qStep (jPart j) (jCtx j)) (stepWords j) 0 := if_pos hty

theorem pushStep_other (hty : jType j ≠ 1) (s : State) : pushStep s j = s := if_neg hty

/-- What the entry leaves: the list and the count as they were taken, the other queues, and one entry more. -/
theorem pushStep_took (htook : Took s t j) (hroom : jType j = 1 → stepQueueFull s (jPart j) (jCtx j) = false) :
    let v := pushStep t j
    let q := qStep (jPart j) (jCtx j)
    v = { s with regs := v.regs, hub := v.hub, out := v.out, queues := v.queues, mem := v.mem, ent := v.ent, cache := v.cache } ∧
      v.hub.jobs = s.hub.jobs ++ [j] ∧ Counted v ∧
      (jType j = 1 → (∀ k, k ≠ q → getQueue v k = getQueue s k) ∧
        ((getQueue s q).mrd ≤ (getQueue s q).mwr → (getQueue v q).len = (getQueue s q).len + 1)) ∧
      (jType j ≠ 1 → v = { s with regs := v.regs, hub := v.hub, out := v.out }) := by
  intro v q
  obtain ⟨hrest, hjobs, hcount⟩ := htook
  have hsame : ∀ k, getQueue t k = getQueue s k := getQueue_congr hrest.queues
  by_cases hty : jType j = 1
  · have hv : v = queuePut t q (stepWords j) 0 := pushStep_step hty t
    have honly : OnlyQueue t v q := hv ▸ queuePut_only t q _ _
    have hregs : v.regs = t.regs := by rw [honly.rest]
    have hhub : v.hub = t.hub := by rw [honly.rest]
    refine ⟨by rw [honly.rest, hrest], by rw [hhub, hjobs], ?_, fun _ => ⟨fun k hk => (honly.others k hk).trans (hsame k), fun hmid => ?_⟩,
      fun hno => absurd hty hno⟩
    · have hstat : v.reg rJobStat = t.reg rJobStat := by rw [State.reg, hregs, State.reg]
      rw [Counted, fld_of_reg hstat, hhub]
      exact hcount
    · have hopen : queueStalls (getQueue t q) = false := by
        rw [hsame q]
        exact hroom hty
      rw [hv, (queuePut_takes (by rw [hsame q]; exact hmid) hopen _ _).len, hsame q]
  · have hv : v = t := pushStep_other hty t
    rw [hv]
    refine ⟨?_, hjobs, hcount, fun h1 => absurd h1 hty, fun _ => hrest⟩
    rw [hrest]

/-- A job that fails as it is taken is on the list no more. -/
theorem jobs_of_took (htook : Took s t j) : (t.hub.jobs.filter fun k => decide (k.idx ≠ j.idx)) =
    s.hub.jobs.filter fun k => decide (k.idx ≠ j.idx) := by
  rw [htook.jobs, List.filter_append]
  simp

/-- A bad word in a line that the hub holds (R465). -/
theorem doTakeRecord_bad {i k line : Nat} (hline : recLine s i k = some line) (hheld : findLine s line ≠ none) :
    doTakeRecord i (some k) s =
      if ((lineBad s line).up && !intakePaused (lineBad s line)) = true then wantRecord (lineBad s line) i else lineBad s line := by
  have hsome : ¬ (findLine s line).isNone = true := by
    rw [Option.isNone_iff_eq_none]
    exact hheld
  unfold doTakeRecord
  rw [Option.bind_some, hline]
  exact if_neg hsome

/-! ### JOB_STEP (R475, R491) -/

theorem jType_of_unchecked {i ty : Nat} (h : unchecked s i ty = some j) : jType j = ty := by
  obtain ⟨_, hj⟩ := Option.filter_eq_some_iff.mp h
  simp only [Bool.and_eq_true, decide_eq_true_eq] at hj
  exact hj.1.1

theorem doJobStep_checked {i : Nat} (h : unchecked s i 1 = some j) {err : Nat} (hcheck : stepCheck s j = (u, err)) :
    doJobStep i s = if err ≠ 0 then trimQueue (jobFinal u j 5 0 err) (jPart j) (jCtx j)
      else decideFor (setJob u { j with checked := true }) (jPart j) (jCtx j) := by
  unfold doJobStep
  rw [h]
  dsimp only
  rw [hcheck]

/-- A context that comes in no higher than the scheduled one, which runs, waits. -/
theorem decideFor_waits {p x y : Nat} (hsched : (getPart s p).sched = some y) (hruns : allWait (getCtx s p y) = false)
    (hprio : (runnablePrio s p x).getD 0 ≤ (runnablePrio s p y).getD 0) (hsome : (runnablePrio s p y).isSome = true) :
    decideFor s p x = s := by
  have hstay : ¬ ((runnablePrio s p y).getD 0 < (runnablePrio s p x).getD 0 ∨ runnablePrio s p y = none ∨
      (allWait (getCtx s p y) = true ∧ (runnablePrio s p x).isSome = true)) := by
    rintro (hhigher | hnone | ⟨hwait, _⟩)
    · omega
    · rw [hnone] at hsome
      cases hsome
    · exact Bool.false_ne_true (hruns.symm.trans hwait)
  unfold decideFor
  rw [hsched]
  exact if_neg hstay

/-! ### ABORT (R478) -/

/-- Words 2 to 15 of an ABORT record hold 0. -/
theorem abortWords_iff : ((List.range 14).any fun k => decide (jw j (k + 2) ≠ 0)) = true ↔ ∃ k, 2 ≤ k ∧ k < 16 ∧ jw j k ≠ 0 := by
  simp only [List.any_eq_true, List.mem_range, decide_eq_true_eq]
  constructor
  · rintro ⟨k, hk, hword⟩
    exact ⟨k + 2, by omega, by omega, hword⟩
  · rintro ⟨k, hlo, hhi, hword⟩
    exact ⟨k - 2, by omega, by rwa [Nat.sub_add_cancel hlo]⟩

theorem doJobAbort_refused {i : Nat} (h : unchecked s i 15 = some j)
    (hbad : headOk j false = false ∨ ∃ k, 2 ≤ k ∧ k < 16 ∧ jw j k ≠ 0) : doJobAbort i s = jobEnd s j 5 0 0x40 := by
  have hwrong : (!headOk j false) = true ∨ ((List.range 14).any fun k => decide (jw j (k + 2) ≠ 0)) = true :=
    hbad.imp (fun hhead => by rw [hhead]; rfl) abortWords_iff.mpr
  unfold doJobAbort
  rw [h]
  exact if_pos hwrong

/-- The STEP of the context as an ABORT that is accepted leaves it: stopped where it runs, gone from the queue where it waits. -/
def stepAborted (s : State) (p x : Nat) : State :=
  match runningStep s p x with
  | some k =>
    let u := stopCtx (abortStep s k 0x45) p x
    decide_ (if (getPart u p).sched = some x then setPart u p { getPart u p with sched := none, draining := false } else u) p
  | none => match s.hub.jobs.find? fun k => decide (jType k = 1) && decide (jPart k = p) && decide (jCtx k = x) with
    | some k => trimQueue (abortStep s k 0x45) p x
    | none => s

theorem stepAborted_running {s : State} {p x : Nat} {k : Job} (h : runningStep s p x = some k) : stepAborted s p x =
    decide_ (if (getPart (stopCtx (abortStep s k 0x45) p x) p).sched = some x then
      setPart (stopCtx (abortStep s k 0x45) p x) p
        { getPart (stopCtx (abortStep s k 0x45) p x) p with sched := none, draining := false }
      else stopCtx (abortStep s k 0x45) p x) p := by
  unfold stepAborted
  rw [h]

theorem stepAborted_queued {s : State} {p x : Nat} {k : Job} (hrun : runningStep s p x = none)
    (hqueued : (s.hub.jobs.find? fun k => decide (jType k = 1) && decide (jPart k = p) && decide (jCtx k = x)) = some k) :
    stepAborted s p x = trimQueue (abortStep s k 0x45) p x := by
  unfold stepAborted
  rw [hrun, hqueued]

theorem stepAborted_none {s : State} {p x : Nat} (hrun : runningStep s p x = none)
    (hqueued : (s.hub.jobs.find? fun k => decide (jType k = 1) && decide (jPart k = p) && decide (jCtx k = x)) = none) :
    stepAborted s p x = s := by
  unfold stepAborted
  rw [hrun, hqueued]

theorem doJobAbort_taken {i : Nat} (h : unchecked s i 15 = some j) (hhead : headOk j false = true)
    (hwords : ∀ k, 2 ≤ k → k < 16 → jw j k = 0) : doJobAbort i s = jobEnd (stepAborted s (jPart j) (jCtx j)) j 4 0 0 := by
  have hgood : ¬ ((!headOk j false) = true ∨ ((List.range 14).any fun k => decide (jw j (k + 2) ≠ 0)) = true) := by
    rw [hhead, abortWords_iff]
    rintro (hno | ⟨k, hlo, hhi, hword⟩)
    · cases hno
    · exact hword (hwords k hlo hhi)
  unfold doJobAbort
  rw [h]
  exact if_neg hgood

/-! ### The obligation -/

/-- Settles O48: a record is taken by `doJobTake_takes`, a STEP checked by `doJobStep_checked`, and an ABORT ends what
`stepAborted` names. -/
theorem jobsTaken : Obligations.JobsTaken := by
  unfold Obligations.JobsTaken
  intro i s ends
  have hends : ∀ {u t : State} {j : Job} {st err : Nat}, JobEnded u t j st err → ends u t j st err :=
    fun ⟨hrest, hjobs, hcount, hstatus⟩ => ⟨hrest, hjobs, hcount, hstatus⟩
  refine ⟨fun ws st hen hidx hrun hread hpend => ?take, fun k line hline hheld => next_congr (doTakeRecord_bad hline hheld),
    fun j hj => ⟨fun u hcheck => ?checked, fun u hcheck hsched => ?waits, fun u err hcheck herr hoff => ?fails⟩, fun j hj => ?abort⟩
  case take =>
    intro j hroom hpart
    have hdo := doJobTake_takes hen hidx hrun hread hpend hroom hpart
    have htook := recordTaken_took s j
    refine ⟨fun hknown => ?_, fun hunknown => ?_⟩
    · obtain ⟨hrest, hjobs, hcount, hstep, hother⟩ := pushStep_took htook hroom
      exact ⟨_, next_congr (hdo.trans (if_pos hknown)), hrest, hjobs, hcount, hstep, hother⟩
    · obtain ⟨hrest, hjobs, -, -⟩ := jobEnd_ended (recordTaken s j) j 5 0x40
      exact ⟨_, next_congr (hdo.trans (if_neg (ne_true_of_eq_false hunknown))), htook.rest.trans hrest,
        hjobs.trans (jobs_of_took htook)⟩
  case checked => exact next_congr ((doJobStep_checked hj hcheck).trans (if_neg (by decide)))
  case waits =>
    obtain ⟨y, hsched, hruns, hprio, hsome⟩ := hsched
    exact next_congr ((doJobStep_checked hj hcheck).trans ((if_neg (by decide)).trans (decideFor_waits hsched hruns hprio hsome)))
  case fails =>
    exact ⟨_, next_congr ((doJobStep_checked hj hcheck).trans (if_pos herr)), hends (jobFinal_ended (jType_of_unchecked hj) hoff 5 err)⟩
  case abort =>
    intro p x queued
    refine ⟨fun hbad => ⟨_, next_congr (doJobAbort_refused hj hbad), hends (jobEnd_ended s j 5 0x40)⟩, fun hhead hwords => ?_⟩
    have hdo := doJobAbort_taken hj hhead hwords
    refine ⟨fun k hrun => ?_, fun k hrun hqueued => ?_, fun hrun hqueued => ⟨_, next_congr hdo, ?_⟩⟩
    · rw [stepAborted_running hrun] at hdo
      exact next_congr hdo
    · rw [stepAborted_queued hrun hqueued] at hdo
      exact next_congr hdo
    · rw [stepAborted_none hrun hqueued]
      exact hends (jobEnd_ended s j 4 0)

end Sys2Proof.Machine
end

section
/-! PROOF. Every command is answered by a next state, and every step keeps memory in its canonical form
(spec/07_memory_store.md). -/

namespace Sys2Proof.Machine

/-- Each arm of `exec` answers with the effect of its command, and the law `wf_do…` of that effect keeps the form. -/
theorem exec_next_keeping_wf (c : Instr) (s : State) :
    ∃ t, exec c s = .next t ∧ (Memory.wf s = true → Memory.wf t = true) := by
  cases c <;> exact ⟨_, rfl, fun h => by simp [h]⟩

/-- A command keeps the form. -/
theorem wf_exec {c : Instr} {s t : State} (hs : Memory.wf s = true) (h : exec c s = .next t) : Memory.wf t = true := by
  obtain ⟨u, hu, hwf⟩ := exec_next_keeping_wf c s
  have htu : t = u := next_inj (h.symm.trans hu)
  rw [htu]
  exact hwf hs

/-- Taking a command from the queue touches no memory. -/
theorem wf_withPending {s : State} {cs : List Instr} (hs : Memory.wf s = true) : Memory.wf (s.withPending cs) = true :=
  wf_same hs rfl rfl rfl rfl

/-- Settles O60, by the two forms of a step: an idle cycle, or the command at the front of the queue. -/
theorem stepKeepsMemory : Obligations.StepKeepsMemory := by
  intro s t hs hstep
  unfold step at hstep
  split at hstep
  · rw [← next_inj hstep]
    exact wf_idle s hs
  · exact wf_exec (wf_withPending hs) hstep

/-- Settles O1: both equations are `step` read off, and every arm of `exec` answers a next state. -/
theorem stepRunsFront : Obligations.StepRunsFront := by
  refine ⟨fun c cs s => rfl, fun c s => ?_, fun s hempty => ?_⟩
  · obtain ⟨t, ht, -⟩ := exec_next_keeping_wf c s
    exact ⟨t, ht⟩
  · simp only [step, hempty, idle]

end Sys2Proof.Machine
end

section
/-! PROOF. The TAP, the I3C common commands, MCTP control and PLDM (R624 to R631). -/

namespace Sys2Proof.Machine

variable {s : State}

/-! ### The TAP (R631) -/

/-- While the module is powered, the TAP takes its instruction and shifts out what was captured. -/
theorem tapInstr_on (hon : s.mod.phase ≠ .off) (ir : Nat) (v : Word) :
    tapInstr s ir v = { s with sec := { s.sec with ir := ir }, out := s.out ++ [.jtag v] } := if_neg hon

/-- An instruction that also takes the boundary register. -/
theorem tapInstr_setPins (hon : s.mod.phase ≠ .off) (ir : Nat) (pins v : Word) : tapInstr (setPins s pins) ir v =
    { s with sec := { s.sec with ir := ir, pins := pins }, out := s.out ++ [.jtag v] } := by
  have hpins : setPins s pins = { s with sec := { s.sec with pins := pins } } := if_neg hon
  rw [hpins]
  exact if_neg hon

/-- EXTEST drives the contacts in a D3 session only. -/
theorem doExtest_session {q : Session} (hup : s.up = true) (hs : s.sec.sess = some q) (v : Word) :
    doExtest v s = if q.level = 3 then tapInstr (setPins s v) 3 s.sec.pins else tapInstr s 0xFF 0 := by
  unfold doExtest
  rw [hup, hs]
  by_cases hl : q.level = 3 <;> simp [hl]

/-- DBG_DATA exchanges a word at the pointer and moves the pointer on. -/
theorem doDbgData_on (hon : s.mod.phase ≠ .off) (v : Word) :
    doDbgData v s = ({ s with
      sec := { s.sec with ir := 0x11, ptr := (s.sec.ptr % 4096 + 8) % 4096 }
      out := s.out ++ [.jtag (s.reg (secR (0x2000 + s.sec.ptr % 4096)))] } : State).setReg (secR (0x1000 + s.sec.ptr % 4096)) v := by
  unfold doDbgData
  simp only [if_neg hon, tapInstr_on hon]

/-- A mailbox write without a command is a software write of SEC_MBX_CTL. -/
theorem mbxWrite_noCommand {v : Word} (hv : bits v 1 0 = 0) (port : DbgPort) (u : State) :
    mbxWrite port v u = u.softWrite rMbxCtl v := by
  unfold mbxWrite
  rw [hv]
  rfl

theorem doDbgMbx_on (hon : s.mod.phase ≠ .off) {v : Word} (hv : bits v 1 0 = 0) :
    doDbgMbx v false s = ({ s with sec := { s.sec with ir := 0x10, ptr := 0 }
                                   out := s.out ++ [.jtag (s.reg rMbxCtl)] } : State).softWrite rMbxCtl v := by
  unfold doDbgMbx
  simp only [if_neg hon, tapInstr_on hon, mbxWrite_noCommand hv]
  rfl

/-! ### I3C (R624, R625) -/

theorem busOn_on (hon : s.mod.phase ≠ .off) : busOn s = true := by simp [busOn, hon]

theorem dynOf_setDyn (u : State) (t r : I3cTarget) (a : Nat) : dynOf (setDyn u t a) r = if r = t then a else dynOf u r := by
  unfold dynOf setDyn
  rw [smGet_smSet]
  cases t <;> cases r <;> rfl

/-- A target with a dynamic address answers a directed read. -/
theorem cccRead_addressed (hon : s.mod.phase ≠ .off) {t : I3cTarget} (hdyn : dynOf s t ≠ 0) (kind v : Nat) :
    cccRead s t kind v = { s with out := s.out ++ [.mgmt kind [targetNo t, v]] } := if_pos ⟨busOn_on hon, hdyn⟩

/-- Without a dynamic address SETDASA and ENTDAA give one. -/
theorem takesAddress (hon : s.mod.phase ≠ .off) {t : I3cTarget} (hdyn : dynOf s t = 0) (a : BitVec 7) :
    exec (.setdasa t a) s = .next (setDyn s t a.toNat) ∧ exec (.entdaa t a) s = .next (setDyn s t a.toNat) :=
  ⟨next_congr (if_pos ⟨busOn_on hon, hdyn⟩), next_congr (if_pos ⟨busOn_on hon, hdyn⟩)⟩

theorem execGetstatus_addressed (hon : s.mod.phase ≠ .off) {t : I3cTarget} (hdyn : dynOf s t ≠ 0) :
    exec (.getstatus t) s = .next { s with
      fresh := s.fresh + 1, out := s.out ++ [.mgmt 0x90 [targetNo t, (Config.freeValue s.fresh).toNat % 65536]] } :=
  next_congr (cccRead_addressed (s := s.nextFresh) hon hdyn 0x90 _)

/-! ### PLDM (R628, R629) -/

/-- With an endpoint ID a PLDM request is answered. -/
theorem pldm_endpoint (hon : s.mod.phase ≠ .off) (heid : s.mgmt.eid ≠ 0) (kind : Nat) (data : List Nat) :
    pldm s kind data = { s with out := s.out ++ [.mgmt (0x10000 + kind) data] } := if_pos ⟨busOn_on hon, heid⟩

/-- A byte is a small number exactly where its value is. -/
theorem byte_eq_iff (b : Byte) {n : Nat} (hn : n < 256) : b = BitVec.ofNat 8 n ↔ b.toNat = n := by
  rw [← BitVec.toNat_inj, BitVec.toNat_ofNat, Nat.mod_eq_of_lt hn]

theorem doGetPldmVersion_eq (n : Nat) (u : State) : doGetPldmVersion n u =
    pldm u 0x0003 (if n = 0 then [0, 1, 1] else if n = 2 then [0, 1, 2] else if n = 4 then [0, 1, 0] else [0x83]) := by
  match n with
  | 0 | 1 | 2 | 3 | 4 => rfl
  | _ + 5 => rfl

theorem doGetPldmCommands_eq (n : Nat) (u : State) : doGetPldmCommands n u =
    pldm u 0x0005 (if n = 0 then [0, 2, 3, 4, 5] else if n = 2 then [0, 0x11, 0x50, 0x51] else if n = 4 then [0, 1, 2]
      else [0x83]) := by
  match n with
  | 0 | 1 | 2 | 3 | 4 => rfl
  | _ + 5 => rfl

/-- The three PLDM types, as bytes and as numbers. -/
theorem ite_pldmType {α : Type} (ty : Byte) (x y z w : α) :
    (if ty = 0 then x else if ty = 2 then y else if ty = 4 then z else w) =
      if ty.toNat = 0 then x else if ty.toNat = 2 then y else if ty.toNat = 4 then z else w := by
  have h0 : ty = 0 ↔ ty.toNat = 0 := byte_eq_iff ty (by decide)
  have h2 : ty = 2 ↔ ty.toNat = 2 := byte_eq_iff ty (by decide)
  have h4 : ty = 4 ↔ ty.toNat = 4 := byte_eq_iff ty (by decide)
  simp only [h0, h2, h4]

/-- A record handle from 1 on names its own record. -/
theorem doGetPdr_handle {n : Nat} (hn : 1 ≤ n) (u : State) :
    doGetPdr n u = pldm u 0x0251 (if 73 < n then [0x82] else [0, if n = 73 then 0 else n + 1] ++ pdrOf n) := by
  unfold doGetPdr
  rw [Nat.max_eq_right hn]

/-- The temperature sensors are those up to 69. -/
theorem doGetSensorReading_temperature {n : Nat} (hlo : 1 ≤ n) (hhi : n ≤ 69) (u : State) :
    doGetSensorReading n u = pldm u 0x0211
      (let v := smGet 0 u.mod.sensors (n - 1); if 4096 ≤ v then [0, 0, v % 4096] else [0, 2, 0]) := by
  unfold doGetSensorReading
  rw [if_neg (by omega), sensorReading, if_pos hhi]
  dsimp only
  split <;> rfl

/-! ### The statement -/

/-- Settles O56: every command is a read-off of the rule of its interface, the module being powered. -/
theorem tapAndManagement : Obligations.TapAndManagement := by
  intro s hon
  refine ⟨⟨?_, ?_, ?_, ?_, ?_, ?_, ?_⟩, ?_, ?_, ?_, ?_, ?_, ?_, ?_⟩
  · exact next_congr (tapInstr_on hon _ _)
  · exact next_congr (tapInstr_on hon _ _)
  · exact next_congr (if_neg hon)
  · exact fun v => next_congr (tapInstr_setPins hon _ _ _)
  · intro v x hs hup
    refine (next_congr (doExtest_session hup hs v)).trans ?_
    split
    · exact next_congr (tapInstr_setPins hon _ _ _)
    · exact next_congr (tapInstr_on hon _ _)
  · intro v
    refine ⟨_, next_congr (doDbgData_on hon v), rfl, rfl, rfl, fun r => ?_⟩
    rw [reg_setReg]
    rfl
  · intro v hv
    refine ⟨_, next_congr (doDbgMbx_on hon hv), softWrite_rest _ _ _, fun r hr => ?_⟩
    rw [reg_softWrite_other _ hr]
    rfl
  · intro t a
    refine ⟨fun hdyn => takesAddress hon hdyn a, fun hdyn => ⟨?_, ?_, ?_, ?_, ?_, ?_⟩⟩
    · exact next_congr (if_neg fun h => hdyn h.2)
    · exact next_congr (if_pos ⟨busOn_on hon, hdyn⟩)
    · exact next_congr (cccRead_addressed hon hdyn _ _)
    · exact next_congr (cccRead_addressed hon hdyn _ _)
    · exact next_congr (cccRead_addressed hon hdyn _ _)
    · exact ⟨_, Nat.mod_lt _ (by decide), execGetstatus_addressed hon hdyn⟩
  · refine ⟨_, next_congr (if_pos (busOn_on hon)), rfl, ?_, ?_, ?_⟩ <;> simp [dynOf_setDyn]
  · exact next_congr (if_pos (busOn_on hon))
  · exact fun e => next_congr (if_pos ⟨busOn_on hon, rfl⟩)
  · intro e
    refine (next_congr (if_neg (by simp [busOn_on hon]))).trans ?_
    split <;> rfl
  · exact fun heid => next_congr (if_neg fun h => h.2 heid)
  · intro heid
    refine ⟨?_, ?_, fun ty => ?_, fun ty => ?_, ?_, fun h hh => ?_, fun i hlo hhi => ?_, ?_, ?_⟩
    · exact next_congr (pldm_endpoint hon heid _ _)
    · exact next_congr (pldm_endpoint hon heid _ _)
    · rw [ite_pldmType]
      exact next_congr ((doGetPldmVersion_eq _ _).trans (pldm_endpoint hon heid _ _))
    · rw [ite_pldmType]
      exact next_congr ((doGetPldmCommands_eq _ _).trans (pldm_endpoint hon heid _ _))
    · exact next_congr (pldm_endpoint hon heid _ _)
    · exact next_congr ((doGetPdr_handle hh _).trans (pldm_endpoint hon heid _ _))
    · exact next_congr ((doGetSensorReading_temperature hlo hhi _).trans (pldm_endpoint hon heid _ _))
    · exact next_congr (pldm_endpoint hon heid _ _)
    · exact next_congr (pldm_endpoint hon heid _ _)

end Sys2Proof.Machine
end

section
/-! PROOF. A bit or a field of a register, read through a write of another register or of other bits. -/

namespace Sys2Proof.Machine

variable (s : State) {a b : Nat}

theorem rbit_setFld_at (h : b ≠ a) (hi lo v i : Nat) : (s.setFld a hi lo v).rbit b i = s.rbit b i :=
  rbit_of_reg (reg_setFld_other s h hi lo v) i

theorem rbit_setRBit_at (h : b ≠ a) (j : Nat) (v : Bool) (i : Nat) : (s.setRBit a j v).rbit b i = s.rbit b i :=
  rbit_of_reg (reg_setRBit_other s h j v) i

theorem fld_setFld_at (h : b ≠ a) (hi lo v h2 l2 : Nat) : (s.setFld a hi lo v).fld b h2 l2 = s.fld b h2 l2 :=
  fld_of_reg (reg_setFld_other s h hi lo v) h2 l2

theorem fld_setRBit_at (h : b ≠ a) (i : Nat) (v : Bool) (hi lo : Nat) : (s.setRBit a i v).fld b hi lo = s.fld b hi lo :=
  fld_of_reg (reg_setRBit_other s h i v) hi lo

/-- A field that does not hold the written bit. -/
theorem fld_setRBit_outside (a : Nat) {i hi lo : Nat} (h : i < lo ∨ lo + (hi - lo) < i) (v : Bool) :
    (s.setRBit a i v).fld a hi lo = s.fld a hi lo := by
  have hbit : (s.setRBit a i v).reg a = setBits (s.reg a) i i (if v then 1 else 0) := by rw [reg_setRBit, if_pos rfl, setBit]
  unfold State.fld
  rw [hbit]
  exact bits_setBits_other _ _ _ _ _ _ (by omega)

/-- A field that is wide enough holds what was written. -/
theorem fld_setFld_fits (a : Nat) {hi lo v : Nat} (h : lo + (hi - lo + 1) ≤ 64) (hv : v < 2 ^ (hi - lo + 1)) :
    (s.setFld a hi lo v).fld a hi lo = v := by
  rw [fld_setFld_same s a h, Nat.mod_eq_of_lt hv]

end Sys2Proof.Machine
end

section
/-! PROOF. SPDM over both transports (R539 to R541): a request that is taken acts on one state, and what the answer
reads of it is as before. -/

namespace Sys2Proof.Machine

variable {s u : State} {q : SpdmPort}

/-- A request of transport `q` in state `s` is taken and acts on `u`, which differs in the mailbox's control at most. -/
structure SpdmTaken (q : SpdmPort) (s u : State) : Prop where
  request : ∀ f, spdmRequest q s f = spdmReply q (f u)
  sec : u.sec = s.sec
  fresh : u.fresh = s.fresh
  identity : identityOk u = s.rbit rSecState 9

/-- A request over MCTP is taken by an endpoint with its ID. -/
theorem spdmTaken_mctp (hup : s.up = true) (heid : s.mgmt.eid ≠ 0) : SpdmTaken .mctp s s where
  request f := by
    have hphase : s.mod.phase = .up := by simpa [State.up] using hup
    have hdrop : ¬ (s.mod.phase = .off ∨ s.mgmt.eid = 0) := by simp [hphase, heid]
    exact (if_neg hdrop).trans (if_pos hup)
  sec := rfl
  fresh := rfl
  identity := rfl

/-- A request through the mailbox is taken where no command is busy. -/
theorem spdmTaken_mailbox (hup : s.up = true) (hbusy : s.rbit rMbxCtl 19 = false) :
    SpdmTaken .mailbox s ((s.setFld rMbxCtl 3 2 0).setRBit rMbxCtl 20 false) where
  request f := by
    have hkept : (s.setFld rMbxCtl 3 2 0).rbit rMbxCtl 19 = false :=
      (rbit_setFld_other s _ (by decide) (by decide) 0).trans hbusy
    have hup' : (s.setFld rMbxCtl 3 2 0).up = true := hup
    simp only [spdmRequest, secCommand, hbusy, hkept, hup', if_true, if_false, Bool.false_eq_true]
  sec := rfl
  fresh := rfl
  identity := by
    unfold identityOk
    rw [rbit_setRBit_at _ (by decide), rbit_setFld_at _ (by decide)]

/-! ### The answers -/

/-- Four fresh values, as bytes. -/
theorem freshBytes_four (v : State) : freshBytes v 4 =
    leBytes 8 (Config.freeValue v.fresh).toNat ++ leBytes 8 (Config.freeValue (v.fresh + 1)).toNat ++
      leBytes 8 (Config.freeValue (v.fresh + 2)).toNat ++ leBytes 8 (Config.freeValue (v.fresh + 3)).toNat := by
  simp [freshBytes, List.range_succ]

theorem SpdmTaken.spdmSt (h : SpdmTaken q s u) : Machine.spdmSt u q = Machine.spdmSt s q := by
  unfold Machine.spdmSt
  rw [h.sec]

theorem SpdmTaken.measBlock (h : SpdmTaken q s u) (i : Nat) : Machine.measBlock u i = Machine.measBlock s i := by
  unfold Machine.measBlock
  rw [h.sec]

theorem SpdmTaken.allBlocks (h : SpdmTaken q s u) : Machine.allBlocks u = Machine.allBlocks s :=
  List.flatMap_congr fun i _ => h.measBlock i

/-- With the connection agreed, the request is answered as the agreed connection answers it. -/
theorem SpdmTaken.agreed (h : SpdmTaken q s u) (hst : Machine.spdmSt s q = 3) (f : State → State × List Byte) :
    spdmRequest q s (fun s => spdmAgreed q s f) = spdmReply q (f u) := by
  rw [h.request, spdmAgreed, if_pos (h.spdmSt.trans hst)]

/-- Without an agreed connection it is answered with an error. -/
theorem SpdmTaken.notAgreed (h : SpdmTaken q s u) (hst : Machine.spdmSt s q ≠ 3) (f : State → State × List Byte) :
    spdmRequest q s (fun s => spdmAgreed q s f) = spdmReply q (u, [0x12, 0x7F, 4, 0]) := by
  rw [h.request, spdmAgreed, if_neg (h.spdmSt ▸ hst)]
  rfl

theorem SpdmTaken.getCapabilities (h : SpdmTaken q s u) (hst : Machine.spdmSt s q = 1 ∨ Machine.spdmSt s q = 2) :
    doGetCapabilities q s = spdmReply q (setSpdm u q 2,
      [0x12, 0x61, 0, 0, 0, 17, 0, 0] ++ [0x16, 0, 0, 0] ++ [0, 0x10, 0, 0] ++ [0, 0x10, 0, 0]) := by
  rw [doGetCapabilities, h.request, if_pos (h.spdmSt ▸ hst)]
  rfl

theorem SpdmTaken.negotiateAlgorithms (h : SpdmTaken q s u) (hst : Machine.spdmSt s q = 2 ∨ Machine.spdmSt s q = 3)
    (asym hash meas : Bool) : doNegotiateAlgorithms q asym hash meas s = spdmReply q (setSpdm u q (if asym && hash then 3 else 2),
      [0x12, 0x63, 0, 0, 36, 0, BitVec.ofNat 8 (b2n meas), 0] ++ [if meas then 2 else 0, 0, 0, 0] ++
        [if asym then 8 else 0, 0, 0, 0] ++ [BitVec.ofNat 8 (b2n hash), 0, 0, 0] ++ List.replicate 16 0) := by
  rw [doNegotiateAlgorithms, h.request, if_pos (h.spdmSt ▸ hst)]
  cases asym <;> cases hash <;> cases meas <;> rfl

theorem SpdmTaken.getDigests (h : SpdmTaken q s u) (hst : Machine.spdmSt s q = 3) (hkill : s.sec.fuses.kill = false) :
    doGetDigests q s = spdmReply q (u, [0x12, 1, 0, 1] ++ sha256 certChain) := by
  have hkill' : u.sec.fuses.kill = false := by rw [h.sec, hkill]
  rw [doGetDigests, h.agreed hst, hkill']
  rfl

/-- A portion of the chain from an offset in it. -/
theorem SpdmTaken.getCertificate (h : SpdmTaken q s u) (hst : Machine.spdmSt s q = 3) (hid : s.rbit rSecState 9 = true)
    {o : Nat} (ho : o < certChain.length) (l : Nat) :
    doGetCertificate q 0 o l s = spdmReply q (u, [0x12, 2, 0, 0] ++ leBytes 2 (min (min l 4088) (certChain.length - o)) ++
      leBytes 2 (certChain.length - o - min (min l 4088) (certChain.length - o)) ++
      (certChain.drop o).take (min (min l 4088) (certChain.length - o))) := by
  have htake : (certChain.drop o).take (min l 4088) = (certChain.drop o).take (min (min l 4088) (certChain.length - o)) := by
    rw [← List.length_drop, List.take_eq_take_min]
  have hlen : ((certChain.drop o).take (min l 4088)).length = min (min l 4088) (certChain.length - o) := by
    rw [List.length_take, List.length_drop]
  have hin : ¬ ((0 : Nat) ≠ 0 ∨ certChain.length ≤ o) := by omega
  rw [doGetCertificate, h.agreed hst, h.identity.trans hid, if_neg hin]
  simp only [hlen, ← htake]
  rfl

/-- A challenge for slot 0 uses five fresh values: four for the nonce, one for the signature. -/
theorem SpdmTaken.challenge (h : SpdmTaken q s u) (hst : Machine.spdmSt s q = 3) (hid : s.rbit rSecState 9 = true) (all : Bool) :
    doChallenge q 0 all s = spdmReply q ({ u with fresh := u.fresh + 5 }, [0x12, 3, 0, 1] ++ sha256 certChain ++
      freshBytes u 4 ++ (if all then sha256 (Machine.allBlocks s) else []) ++ [0, 0] ++
      signature { u with fresh := u.fresh + 4 }) := by
  rw [doChallenge, h.agreed hst, h.identity.trans hid, h.allBlocks]
  rfl

theorem SpdmTaken.getAllMeasurements (h : SpdmTaken q s u) (hst : Machine.spdmSt s q = 3) (hid : s.rbit rSecState 9 = true) :
    doGetMeasurements q 255 true s = spdmReply q ({ u with fresh := u.fresh + 5 }, [0x12, 0x60, 0, 0, 8] ++
      leBytes 3 (Machine.allBlocks s).length ++ Machine.allBlocks s ++ freshBytes u 4 ++ [0, 0] ++
      signature { u with fresh := u.fresh + 4 }) := by
  rw [doGetMeasurements, h.agreed hst, h.identity.trans hid, h.allBlocks]
  rfl

/-- One register, unsigned: four fresh values for the nonce. -/
theorem SpdmTaken.getMeasurement (h : SpdmTaken q s u) (hst : Machine.spdmSt s q = 3) {i : BitVec 8} (hlo : 1 ≤ i.toNat)
    (hhi : i.toNat ≤ 8) : doGetMeasurements q i false s = spdmReply q ({ u with fresh := u.fresh + 4 },
      [0x12, 0x60, 0, 0, 1] ++ leBytes 3 (Machine.measBlock s (i.toNat - 1)).length ++ Machine.measBlock s (i.toNat - 1) ++
        freshBytes u 4 ++ [0, 0]) := by
  have h0 : i.toNat ≠ 0 := by omega
  have h255 : i.toNat ≠ 255 := by omega
  have hin : ¬ (8 < i.toNat ∧ i.toNat ≠ 255) := by omega
  rw [doGetMeasurements, h.agreed hst]
  simp only [h0, h255, hin, if_false, Bool.false_and, Bool.false_eq_true, h.measBlock]
  rfl

/-! ### The statement -/

/-- Settles O55, by the answers above: the transports differ only in the state that a taken request acts on. -/
theorem spdmAnswers : Obligations.SpdmAnswers := by
  intro q s hup heid hbusy u st b8 chain nonce after answers
  have h : SpdmTaken q s u := by
    cases q with
    | mctp => exact spdmTaken_mctp hup (heid rfl)
    | mailbox => exact spdmTaken_mailbox hup (hbusy rfl)
  have hnonce : freshBytes u 4 = nonce := by rw [freshBytes_four, h.fresh]
  have hafter : ∀ n, ({ u with fresh := u.fresh + n } : State) = after n := fun n => by rw [h.fresh]
  refine ⟨next_congr (h.request _), fun hst => next_congr (h.getCapabilities hst),
    fun a h' m hst => next_congr (h.negotiateAlgorithms hst a h' m), fun hst n d sg => ⟨?_, ?_, ?_, ?_⟩,
    fun hst hkill => next_congr (h.getDigests hst hkill), fun hst hid => ⟨fun o l ho => ?_, fun n all => ?_, fun n => ?_⟩,
    fun hst i n hlo hhi => ?_⟩
  · exact next_congr (h.notAgreed hst _)
  · exact next_congr (h.notAgreed hst _)
  · exact next_congr (h.notAgreed hst _)
  · exact next_congr (h.notAgreed hst _)
  · exact next_congr (h.getCertificate hst hid ho l)
  · have hanswer := h.challenge hst hid all
    rw [hnonce, hafter, hafter] at hanswer
    exact next_congr hanswer
  · have hanswer := h.getAllMeasurements hst hid
    rw [hnonce, hafter, hafter] at hanswer
    exact next_congr hanswer
  · have hanswer := h.getMeasurement hst hlo hhi
    rw [hnonce, hafter] at hanswer
    exact next_congr hanswer

end Sys2Proof.Machine
end

section
/-! PROOF. A replay and its records (R514, R515). -/

namespace Sys2Proof.Machine

variable {s t u : State} {q : Replay}

/-! ### What a Sillage record leaves: the job list, and every register above the hub's -/

/-- The jobs, and the registers of clusters, dies and links, are as before. -/
structure JobsStand (s t : State) : Prop where
  jobs : t.hub.jobs = s.hub.jobs
  regs : ∀ a, 0x200000006000 ≤ a → t.reg a = s.reg a

theorem JobsStand.refl (s : State) : JobsStand s s := ⟨rfl, fun _ _ => rfl⟩

theorem JobsStand.trans (h : JobsStand s t) (g : JobsStand t u) : JobsStand s u :=
  ⟨g.jobs.trans h.jobs, fun a ha => (g.regs a ha).trans (h.regs a ha)⟩

theorem JobsStand.ite {c : Prop} [Decidable c] (h : JobsStand s t) (g : JobsStand s u) :
    JobsStand s (if c then t else u) := by split <;> assumption

theorem Reported.jobsStand (h : Reported s t) : JobsStand s t := ⟨by rw [h.hub], fun _ ha => h.reg_above ha⟩

theorem OnlyMemory.jobsStand (h : OnlyMemory s t) : JobsStand s t := by
  unfold OnlyMemory at h
  rw [h]
  exact ⟨rfl, fun _ _ => rfl⟩

theorem jobsStand_setReg (s : State) {a : Nat} (ha : a < 0x200000006000) (v : Word) : JobsStand s (s.setReg a v) :=
  ⟨rfl, fun b hb => reg_setReg_other s (by omega) v⟩

theorem jobsStand_setPart (s : State) (p : Nat) (x : Part) : JobsStand s (setPart s p x) := ⟨rfl, fun _ _ => rfl⟩

/-- The registers of a partition's ring are the hub's. -/
theorem slgReg_below {p o : Nat} (hp : p < 16) (ho : o < 0x80) : hubR (0x3000 + o + 0x80 * p) < 0x200000006000 := by
  unfold hubR
  omega

section
variable {p : Nat} (hp : p < 16)
include hp

theorem rSlgStat_below : rSlgStat p < 0x200000006000 := slgReg_below (o := 0x28) hp (by decide)

theorem slgHoldUpdate_jobsStand (s : State) : JobsStand s (slgHoldUpdate s p) := jobsStand_setReg s (rSlgStat_below hp) _

theorem slgStore_jobsStand (s : State) (r : SlgRec) : JobsStand s (slgStore s p r) := by
  have htail : rSlgTail p < 0x200000006000 := slgReg_below (o := 0x18) hp (by decide)
  have holdest : rSlgOldest p < 0x200000006000 := slgReg_below (o := 0x20) hp (by decide)
  unfold slgStore
  refine JobsStand.trans ?_ (slgHoldUpdate_jobsStand hp _)
  refine JobsStand.trans ?_ (jobsStand_setReg _ holdest _)
  refine JobsStand.trans ?_ (jobsStand_setPart _ _ _)
  exact (writeBytes_only _ _ _ _).jobsStand.trans (jobsStand_setReg _ htail _)

theorem slgLostFlush_jobsStand (s : State) : JobsStand s (slgLostFlush s p) :=
  .ite ((jobsStand_setPart _ _ _).trans (slgStore_jobsStand hp _ _)) (.refl s)

theorem slgLose_jobsStand (s : State) : JobsStand s (slgLose s p) := by
  unfold slgLose
  extract_lets n s1 x st s2
  have hlost : JobsStand s s1 :=
    (jobsStand_setReg s (rSlgStat_below hp) _).trans (jobsStand_setReg _ (rSlgStat_below hp) _)
  have hpart : JobsStand s s2 := hlost.trans (jobsStand_setPart _ _ _)
  exact .ite hpart (hpart.trans (event0_reported _ _ _ _ _).jobsStand)

theorem slgWrite_jobsStand (s : State) (r : SlgRec) : JobsStand s (slgWrite s p r) := by
  unfold slgWrite
  extract_lets seen flushed
  have hseen : JobsStand s seen := by
    obtain ⟨x, hx⟩ := replaySee_eq s p r
    have hseen : JobsStand s (replaySee s p r) := by
      rw [hx]
      exact ⟨rfl, fun _ _ => rfl⟩
    exact hseen
  have hflushed : JobsStand s flushed := hseen.trans (slgLostFlush_jobsStand hp _)
  refine .ite hseen (.ite ?_ (hflushed.trans (slgStore_jobsStand hp _ _)))
  exact (hflushed.trans (slgLose_jobsStand hp _)).trans (slgHoldUpdate_jobsStand hp _)

end

/-! ### STEP_WRITE -/

/-- A partition that leads a cluster is one of the sixteen. -/
theorem ledBy_lt {c p : Nat} (h : ledBy s c = some p) : p < 16 := by
  have hnamed : partNamed s c = some p := (Option.filter_eq_some_iff.mp h).1
  unfold partNamed at hnamed
  rcases Option.or_eq_some_iff.mp hnamed with hof | ⟨-, hof⟩
  · exact List.mem_range.mp (List.mem_of_find?_eq_some hof)
  · exact List.mem_range.mp (List.mem_of_find?_eq_some hof)

/-- A write of CLU_STEP at a lead cluster lands, and no job moves. -/
theorem doCluStepWrite_led {c p : Nat} (hup : s.up = true) (hled : ledBy s c = some p) (v : Word) :
    (doCluStepWrite c v s).reg (rStep c) = v ∧ (doCluStepWrite c v s).hub.jobs = s.hub.jobs := by
  have habove : 0x200000006000 ≤ rStep c := by
    unfold rStep cluR
    omega
  have hstand := slgWrite_jobsStand (ledBy_lt hled) (s.setReg (rStep c) v) ⟨0x01, 0, none, 0, [s.reg (rStep c), v]⟩
  rw [doCluStepWrite, leadWrite_led hup hled]
  refine ⟨?_, hstand.jobs⟩
  rw [hstand.regs _ habove, reg_setReg, if_pos rfl]

/-- With the replay's own job gone, no progress is written. -/
theorem replayStep_noJob (hup : s.up = true) (hled : ledBy s (leadCluster s q.part) = some q.part)
    (hjob : findJob s q.idx = none) (r : Option (List Word)) :
    replayStep s q r = doCluStepWrite (leadCluster s q.part) (recW r 3) s := by
  have hnone : findJob (doCluStepWrite (leadCluster s q.part) (recW r 3) s) q.idx = none := by
    unfold findJob
    rw [(doCluStepWrite_led hup hled _).2]
    exact hjob
  unfold replayStep
  simp only [hnone]

/-! ### Jobs -/

/-- A decision point changes contexts and partitions alone. -/
theorem decideFor_hub (s : State) (p x : Nat) : (decideFor s p x).hub = s.hub := by
  unfold decideFor
  split
  · rw [decide_rest]
  · split
    · rw [decide_rest]
    · rfl

/-! ### The statement -/

section
variable (hrep : s.hub.rep = some q) (hspan : q.next < q.stop)
include hrep hspan

/-- EXPORT and CMP records are passed over. -/
theorem doReplayRecord_passes (hty : recTy (arrayRec s q.src q.next) = 0x08 ∨ recTy (arrayRec s q.src q.next) = 0x30) :
    doReplayRecord s = replayAt s q (q.next + 1) := by
  unfold doReplayRecord
  rw [hrep]
  simp only [if_neg (Nat.not_le.mpr hspan)]
  rcases hty with hty | hty <;> simp only [hty]

/-- STEP_WRITE, with no job of the replay running. -/
theorem doReplayRecord_stepWrite (hty : recTy (arrayRec s q.src q.next) = 0x01) (hidle : replayJobs s q.part = []) :
    doReplayRecord s = replayAt (replayStep s q (arrayRec s q.src q.next)) q (q.next + 1) := by
  unfold doReplayRecord
  rw [hrep]
  simp only [if_neg (Nat.not_le.mpr hspan), hty, hidle]
  rfl

/-- JOB_A and JOB_B, with no job of the replay in that context. -/
theorem doReplayRecord_job (hty : recTy (arrayRec s q.src q.next) = 0x05) (hnext : q.next + 1 < q.stop)
    (hty2 : recTy (arrayRec s q.src (q.next + 1)) = 6) {j : Job}
    (hj : j = replayJob q.next (arrayRec s q.src q.next) (arrayRec s q.src (q.next + 1)))
    (hfree : ∀ k, k ∈ replayJobs s q.part → jCtx k ≠ jCtx j) :
    doReplayRecord s = decideFor (addJob (replayAt s q (q.next + 2)) j) q.part (jCtx j) := by
  have hnone : ¬ ((replayJobs s q.part).any fun k => decide (jCtx k = jCtx j)) = true := by
    simpa using hfree
  unfold doReplayRecord
  rw [hrep]
  simp only [if_neg (Nat.not_le.mpr hspan), hty, if_pos hnext, hty2, ← hj]
  exact (if_neg (by decide)).trans (if_neg hnone)

end

/-- Settles O52, one record type at a time. -/
theorem replaySteps : Obligations.ReplaySteps := by
  intro q s hrep hspan r at_
  refine ⟨fun hty => next_congr (doReplayRecord_passes hrep hspan hty), fun hty hidle hjob hup hled => ?_,
    fun hty hnext hty2 hfree => ?_⟩
  · refine ⟨_, next_congr (doReplayRecord_stepWrite hrep hspan hty hidle), ?_, rfl⟩
    rw [replayStep_noJob hup hled hjob]
    exact (doCluStepWrite_led hup hled _).1
  · refine ⟨_, next_congr (doReplayRecord_job hrep hspan hty hnext hty2 rfl hfree), ?_, rfl, rfl, ?_⟩
    · rw [decideFor_hub]
      rfl
    · rw [decideFor_hub]
      rfl

end Sys2Proof.Machine
end

section
/-! PROOF. Bringing the module up (R575, R577): the boot ends with MOD_READY or in recovery, and writes no device memory. -/

namespace Sys2Proof.Machine

variable {s t : State}

/-- What every step of a fold keeps, the fold keeps. -/
theorem foldl_kept {α β : Type} {g : State → β} {f : State → α → State} (hf : ∀ s x, g (f s x) = g s) :
    ∀ (l : List α) (s : State), g (l.foldl f s) = g s
  | [], _ => rfl
  | x :: l, s => (foldl_kept hf l (f s x)).trans (hf s x)

theorem Reported.mem (h : Reported s t) : t.mem = s.mem := by rw [h.rest]
theorem Reported.mod (h : Reported s t) : t.mod = s.mod := by rw [h.rest]

@[simp] theorem event0_mem (s : State) (code die : Nat) (part : Option Nat) (pay : List Word) :
    (event0 s code die part pay).mem = s.mem := (event0_reported _ _ _ _ _).mem
@[simp] theorem event0_mod (s : State) (code die : Nat) (part : Option Nat) (pay : List Word) :
    (event0 s code die part pay).mod = s.mod := (event0_reported _ _ _ _ _).mod
@[simp] theorem errRecord_mem (s : State) (r : ErrRec) : (errRecord s r).mem = s.mem := (errRecord_reported _ _).mem
@[simp] theorem errRecord_mod (s : State) (r : ErrRec) : (errRecord s r).mod = s.mod := (errRecord_reported _ _).mod

/-! ### Images and measurements -/

@[simp] theorem extend_mem (s : State) (i kind : Nat) (d rec : List Byte) : (extend s i kind d rec).mem = s.mem := rfl

@[simp] theorem extendRec_mem (s : State) (i kind : Nat) (rec : List Byte) : (extendRec s i kind rec).mem = s.mem :=
  extend_mem _ _ _ _ _

@[simp] theorem extendImage_mem (s : State) (i : Nat) (b : Option (List Byte)) : (extendImage s i b).mem = s.mem := by
  unfold extendImage
  split <;> exact extend_mem _ _ _ _ _

@[simp] theorem extendDebug_mem (s : State) (level port ev flags : Nat) (tok : List Byte) :
    (extendDebug s level port ev flags tok).mem = s.mem := extendRec_mem _ _ _ _

@[simp] theorem extendConfig_mem (s : State) : (extendConfig s).mem = s.mem := extendRec_mem _ _ _ _

@[simp] theorem rejectEvent_mem (s : State) (ty st src : Nat) : (rejectEvent s ty st src).mem = s.mem := event0_mem _ _ _ _ _

@[simp] theorem bootOptional_mem (s : State) (ty i : Nat) : (bootOptional s ty i).mem = s.mem := by
  unfold bootOptional
  dsimp only
  split <;> simp

@[simp] theorem shortEdges_mem (f : BoardFacts) (s : State) : (shortEdges f s).mem = s.mem := by
  unfold shortEdges
  refine foldl_kept (g := State.mem) (fun s e => ?_) _ _
  dsimp only
  split
  · exact errRecord_mem _ _
  · rfl

@[simp] theorem extendGuests_mem (f : BoardFacts) (s : State) : (extendGuests f s).mem = s.mem := by
  unfold extendGuests
  refine foldl_kept (g := State.mem) (fun s m => ?_) _ _
  split
  · split
    · exact extendRec_mem _ _ _ _
    · rfl
  · rfl

/-! ### Discovery -/

@[simp] theorem repairWrite_mem (s : State) (f : Repair → Repair) : (repairWrite s f).mem = s.mem := by rw [repairWrite_rest]

@[simp] theorem repairAtReset_mem (s : State) : (repairAtReset s).1.mem = s.mem := by
  unfold repairAtReset
  dsimp only
  split
  · rfl
  · exact repairWrite_mem _ _

@[simp] theorem fieldRepairs_mem (f : BoardFacts) (s : State) : (fieldRepairs f s).mem = s.mem := by
  unfold fieldRepairs
  dsimp only
  split
  · rfl
  · exact repairWrite_mem _ _

@[simp] theorem firmwareMap_mem (s : State) (r : Nat) : (firmwareMap s r).mem = s.mem := rfl

@[simp] theorem assignDie_mem (s : State) (d : Nat) : (assignDie s d).mem = s.mem := by
  unfold assignDie
  dsimp only
  rw [sends_mem, setReg_mem]

@[simp] theorem assignSite_mem (s : State) (m : Nat) : (assignSite s m).mem = s.mem := by
  unfold assignSite
  dsimp only
  rw [sends_mem]

@[simp] theorem dieRegs_mem (f : BoardFacts) (r : Repair) (allow : Option (List Byte)) (s : State) (d : Nat) :
    (dieRegs f r allow s d).mem = s.mem := by
  unfold dieRegs
  extract_lets up dn t
  exact (foldl_kept (g := State.mem) firmwareMap_mem _ t).trans (setReg_mem _ _ _)

@[simp] theorem hubRegs_mem (f : BoardFacts) (r : Repair) (out : List Nat) (atzOk : Bool) (allow : Option (List Byte)) (s : State) :
    (hubRegs f r out atzOk allow s).mem = s.mem := by
  unfold hubRegs
  extract_lets ds clus media s1 s2 s3 s4 s5
  have h2 : s2.mem = s.mem := (setReg_mem _ _ _).trans (setReg_mem _ _ _)
  have h3 : s3.mem = s2.mem := (setReg_mem _ _ _).trans (setReg_mem _ _ _)
  have h4 : s4.mem = s3.mem := foldl_kept (g := State.mem) (fun s m => setReg_mem s _ _) (List.range 2) s3
  have h5 : s5.mem = s4.mem := setReg_mem _ _ _
  rw [firmwareMap_mem, setReg_mem, h5, h4, h3, h2]

@[simp] theorem admitGuest_mem (f : BoardFacts) (r : Repair) (atzOk : Bool) (allow : Option (List Byte)) (s : State) (m : Nat) :
    (admitGuest f r atzOk allow s m).mem = s.mem := by
  unfold admitGuest
  split
  · split <;> rfl
  · split <;> rfl

@[simp] theorem discover_mem (f : BoardFacts) (out : List Nat) (atzOk : Bool) (allow : Option (List Byte)) (s : State) :
    (discover f out atzOk allow s).mem = s.mem := by
  unfold discover
  extract_lets s1 s2 r s3 s4 s5
  have h1 : s1.mem = s.mem := foldl_kept (g := State.mem) assignDie_mem _ _
  have h2 : s2.mem = s1.mem := foldl_kept (g := State.mem) assignSite_mem _ _
  have h3 : s3.mem = s2.mem := fieldRepairs_mem f s2
  have h4 : s4.mem = s3.mem := foldl_kept (g := State.mem) (admitGuest_mem f r atzOk allow) _ _
  have h5 : s5.mem = s4.mem := foldl_kept (g := State.mem) (dieRegs_mem f r allow) _ _
  rw [hubRegs_mem, h5, h4, h3, h2, h1]

/-! ### MOD_READY -/

@[simp] theorem trainLinks_mem (s : State) : (trainLinks s).mem = s.mem := by
  unfold trainLinks
  refine foldl_kept (g := State.mem) (fun s l => ?_) _ _
  split <;> rfl

@[simp] theorem trainLinks_mod (s : State) : (trainLinks s).mod = s.mod := by
  unfold trainLinks
  refine foldl_kept (g := State.mod) (fun s l => ?_) _ _
  split <;> rfl

@[simp] theorem commitImage_mem (s : State) (b : List Byte) : (commitImage s b).mem = s.mem := by
  unfold commitImage
  dsimp only
  split
  · exact event0_mem _ _ _ _ _
  · rfl

@[simp] theorem commitImage_mod (s : State) (b : List Byte) : (commitImage s b).mod = s.mod := by
  unfold commitImage
  dsimp only
  split
  · exact event0_mod _ _ _ _ _
  · rfl

@[simp] theorem pageRecord_mem (s : State) (page : Nat) : (pageRecord s page).mem = s.mem := errRecord_mem _ _

@[simp] theorem pageRecord_mod (s : State) (page : Nat) : (pageRecord s page).mod = s.mod := errRecord_mod _ _

theorem moduleReady_mem (s : State) (imgs : List (List Byte)) : (moduleReady s imgs).mem = s.mem := by
  unfold moduleReady
  extract_lets m s1 s2
  have h2 : s2.mem = s.mem := (foldl_kept (g := State.mem) commitImage_mem _ _).trans (trainLinks_mem s1)
  exact (foldl_kept (g := State.mem) (fun s w => pageRecord_mem s (pageOf w)) _ s2).trans h2

/-- MOD_READY is asserted. -/
theorem moduleReady_phase (s : State) (imgs : List (List Byte)) : (moduleReady s imgs).mod.phase = .up := by
  unfold moduleReady
  extract_lets m s1 s2
  have h2 : s2.mod = s1.mod := (foldl_kept (g := State.mod) commitImage_mod _ _).trans (trainLinks_mod s1)
  rw [foldl_kept (g := State.mod) (fun s w => pageRecord_mod s (pageOf w)) _ s2, h2]

/-! ### The end of a boot -/

/-- A boot ends with MOD_READY or in recovery. -/
def Booted (t : State) : Prop := t.mod.phase = .up ∨ t.mod.phase = .recovery ∧ t.rbit rSecState 8 = true

theorem enterRecovery_booted (s : State) (ty st : Nat) : Booted (enterRecovery s ty st) := by
  unfold enterRecovery
  extract_lets s1
  have hcode : s1.rbit rSecState 8 = true := rbit_setRBit_same _ _ (by decide) _
  exact .inr ⟨rfl, hcode⟩

theorem enterRecovery_mem (s : State) (ty st : Nat) : (enterRecovery s ty st).mem = s.mem := by
  unfold enterRecovery
  extract_lets s1
  have h1 : s1.mem = s.mem := (setReg_mem _ _ _).trans (rejectEvent_mem _ _ _ _)
  exact h1

/-- The ROM's digest in M0. -/
def bootRom (s : State) : State := extend s 0 1 (digestBytes Config.romDigest) []

/-- The stage of the first image: its register, the identity key, configuration and debug state. -/
def bootFirst (f : BoardFacts) (s0 : State) : State :=
  let s1 := extendImage s0 1 (imageSlot s0 1)
  let idOk := f.identityOk && !s1.sec.fuses.kill && !s1.sec.erased
  let s2 := s1.setRBit rSecState 9 idOk
  let s3 := if idOk then s2 else event0 s2 0x0705 8 none [0, 0]
  extendDebug (extendConfig s3) 0 0 0 0 []

/-- The images that are left are measured, and the repair record has a valid copy. -/
def bootImages (f : BoardFacts) (s4 : State) : State :=
  let s5 := bootOptional (bootOptional (extendImage s4 2 (imageSlot s4 2)) 4 4) 3 3
  if s5.fabr.repA = none ∧ s5.fabr.repB = none then
    shortEdges f { s5 with fabr := { s5.fabr with repA := some .fresh } }
  else s5

/-- The images that are left, discovery and MOD_READY. -/
def bootLast (f : BoardFacts) (s4 : State) : State :=
  let s5 := bootOptional (bootOptional (extendImage s4 2 (imageSlot s4 2)) 4 4) 3 3
  let r := repairAtReset (bootImages f s4)
  moduleReady (extendGuests f (discover f r.2 (accepted s5 3).isSome (accepted s5 4) r.1))
    ([1, 2, 3, 4].filterMap fun ty => accepted s5 ty)

theorem bringUp_eq (f : BoardFacts) (s : State) : bringUp f s =
    if imageCheck (bootRom s) 1 ≠ 0 then enterRecovery (bootRom s) 1 (imageCheck (bootRom s) 1)
    else if imageCheck (bootFirst f (bootRom s)) 2 ≠ 0 then
      enterRecovery (bootFirst f (bootRom s)) 2 (imageCheck (bootFirst f (bootRom s)) 2)
    else bootLast f (bootFirst f (bootRom s)) := rfl

theorem bootFirst_mem (f : BoardFacts) (s : State) : (bootFirst f s).mem = s.mem := by
  unfold bootFirst
  extract_lets s1 idOk s2 s3
  have h2 : s2.mem = s.mem := (setReg_mem _ _ _).trans (extendImage_mem _ _ _)
  have h3 : s3.mem = s2.mem := by
    unfold s3
    split
    · rfl
    · exact event0_mem _ _ _ _ _
  rw [extendDebug_mem, extendConfig_mem, h3, h2]

theorem bootImages_mem (f : BoardFacts) (s : State) : (bootImages f s).mem = s.mem := by
  unfold bootImages
  extract_lets s5 fabr
  have h5 : s5.mem = s.mem := (bootOptional_mem _ _ _).trans ((bootOptional_mem _ _ _).trans (extendImage_mem _ _ _))
  split
  · exact (shortEdges_mem _ _).trans h5
  · exact h5

theorem bootLast_mem (f : BoardFacts) (s : State) : (bootLast f s).mem = s.mem := by
  unfold bootLast
  extract_lets s5 r
  rw [moduleReady_mem, extendGuests_mem, discover_mem, repairAtReset_mem, bootImages_mem]

theorem bootLast_phase (f : BoardFacts) (s : State) : (bootLast f s).mod.phase = .up := by
  unfold bootLast
  exact moduleReady_phase _ _

/-- Every boot ends so. -/
theorem bringUp_booted (f : BoardFacts) (s : State) : Booted (bringUp f s) := by
  rw [bringUp_eq]
  split
  · exact enterRecovery_booted _ _ _
  · split
    · exact enterRecovery_booted _ _ _
    · exact .inl (bootLast_phase _ _)

/-- No boot writes device memory. -/
theorem bringUp_mem (f : BoardFacts) (s : State) : (bringUp f s).mem = s.mem := by
  have hrom : (bootRom s).mem = s.mem := extend_mem _ _ _ _ _
  rw [bringUp_eq]
  split
  · rw [enterRecovery_mem, hrom]
  · split
    · rw [enterRecovery_mem, bootFirst_mem, hrom]
    · rw [bootLast_mem, bootFirst_mem, hrom]

end Sys2Proof.Machine
end

section
/-! PROOF. Power down, warm reset and trips (R564, R565, R576, R578). -/

namespace Sys2Proof.Machine

variable {s t u : State}

/-! ### DOWN on the links -/

/-- Only links, the messages sent and the free values taken differ. -/
def LinksOnly (s t : State) : Prop := t = { s with lnks := t.lnks, out := t.out, fresh := t.fresh }

theorem LinksOnly.refl (s : State) : LinksOnly s s := rfl

theorem LinksOnly.trans (h : LinksOnly s t) (g : LinksOnly t u) : LinksOnly s u := by
  unfold LinksOnly at *
  rw [g, h]

theorem LinksOnly.foldl {α : Type} {f : State → α → State} (hf : ∀ s x, LinksOnly s (f s x)) :
    ∀ (l : List α) (s : State), LinksOnly s (l.foldl f s)
  | [], s => .refl s
  | x :: l, s => (hf s x).trans (LinksOnly.foldl hf l (f s x))

theorem sendFlit_linksOnly (s : State) (l ty seq : Nat) (pay : List Nat) : LinksOnly s (sendFlit s l ty seq pay) :=
  sendFlit_rest s l ty seq pay

theorem sendDown_linksOnly (s : State) (l : Nat) : LinksOnly s (sendDown s l) := by
  unfold sendDown
  exact .foldl (fun s _ => sendFlit_linksOnly s l 4 0 []) _ s

theorem sendDowns_linksOnly (s : State) : LinksOnly s (sendDowns s) := by
  unfold sendDowns
  refine .foldl (fun s l => ?_) _ s
  split
  · exact sendDown_linksOnly s l
  · exact .refl s

theorem LinksOnly.sec (h : LinksOnly s t) : t.sec = s.sec := by rw [h]
theorem LinksOnly.mgmt (h : LinksOnly s t) : t.mgmt = s.mgmt := by rw [h]
theorem LinksOnly.ptp (h : LinksOnly s t) : t.ptp = s.ptp := by rw [h]
theorem LinksOnly.mem (h : LinksOnly s t) : t.mem = s.mem := by rw [h]

theorem OnlyRegs.mgmt (h : OnlyRegs s t) : t.mgmt = s.mgmt := by rw [h]
theorem OnlyRegs.ptp (h : OnlyRegs s t) : t.ptp = s.ptp := by rw [h]

/-! ### What a reset keeps -/

/-- A warm reset keeps HUB_CAP_EPOCH. -/
theorem warmRegs_capEpoch (s : State) : smGet (regDefault rCapEpoch) (warmRegs s) rCapEpoch = s.reg rCapEpoch := by
  have hlnk : ∀ l, l ∈ List.range 48 → rLnkStat l ≠ rCapEpoch := fun l _ => by
    unfold rLnkStat lnkR rCapEpoch hubR
    omega
  have hshl : ∀ n, n ∈ List.range 2 → rShlStat n ≠ rCapEpoch := fun n _ => by
    unfold rShlStat shlR rCapEpoch hubR
    omega
  have hsec : rCapEpoch ≠ rSecState := by decide
  unfold warmRegs
  dsimp only
  rw [smGet_foldl_smSet (key := rLnkStat) _ _ _ hlnk, smGet_foldl_smSet (key := rShlStat) _ _ _ hshl,
    smGet_smSet_ne _ _ _ _ hsec, smGet_filter_key _ _ fun v => decide_eq_true (.inr rfl)]
  rfl

theorem wipe_warm_capEpoch (s : State) : (wipe false s).reg rCapEpoch = s.reg rCapEpoch := warmRegs_capEpoch s

theorem wipe_cold_trip (s : State) : (wipe true s).reg rTrip = s.reg rTrip :=
  smGet_filter_key _ _ (fun _ => decide_eq_true rfl) _

theorem wipe_fuses (cold : Bool) (s : State) : (wipe cold s).sec.fuses = s.sec.fuses := rfl
theorem wipe_warm_mgmt (s : State) : (wipe false s).mgmt = s.mgmt := rfl
theorem wipe_warm_ptp (s : State) : (wipe false s).ptp = s.ptp := rfl

/-- Power down leaves nothing but the fuses. -/
theorem doPowerDown_off (hon : s.mod.phase ≠ .off) :
    (doPowerDown s).mod.phase = .off ∧ (doPowerDown s).mem = [] ∧ (doPowerDown s).sec.fuses = s.sec.fuses := by
  have hdown : doPowerDown s = setPhase (wipe true (sendDowns s)) .off := if_neg hon
  have hfuses : (wipe true (sendDowns s)).sec.fuses = s.sec.fuses := by rw [wipe_fuses, (sendDowns_linksOnly s).sec]
  rw [hdown]
  exact ⟨rfl, rfl, hfuses⟩

theorem fld_withMod (s : State) (m : Mod) (a hi lo : Nat) : ({ s with mod := m } : State).fld a hi lo = s.fld a hi lo := rfl

/-- The registers of a warm reset, wiped and counted. -/
def warmCounted (s : State) : State :=
  let s1 := wipe false (sendDowns s)
  ((s1.setFld rCapEpoch 31 0 ((s1.fld rCapEpoch 31 0 + 1) % 2 ^ 32)).setFld rPwrStat 5 4 1).setRBit rPwrStat 3 false

theorem warmBegin_eq (auto : Bool) (s : State) : warmBegin auto s =
    { warmCounted s with mod := { (warmCounted s).mod with phase := .reset, auto := auto } } := rfl

theorem warmCounted_only (s : State) : OnlyRegs (wipe false (sendDowns s)) (warmCounted s) :=
  ((setFld_only _ _ _ _ _).trans (setFld_only _ _ _ _ _)).trans (setRBit_only _ _ _ _)

theorem warmCounted_mgmt (s : State) : (warmCounted s).mgmt = s.mgmt := by
  rw [(warmCounted_only s).mgmt, wipe_warm_mgmt, (sendDowns_linksOnly s).mgmt]

theorem warmCounted_ptp (s : State) : (warmCounted s).ptp = s.ptp := by
  rw [(warmCounted_only s).ptp, wipe_warm_ptp, (sendDowns_linksOnly s).ptp]

theorem warmCounted_epoch (s : State) : (warmCounted s).fld rCapEpoch 31 0 = (s.fld rCapEpoch 31 0 + 1) % 2 ^ 32 := by
  have hepoch : (wipe false (sendDowns s)).fld rCapEpoch 31 0 = s.fld rCapEpoch 31 0 :=
    fld_of_reg ((wipe_warm_capEpoch _).trans (reg_congr (sendDowns_regs s) _)) 31 0
  unfold warmCounted
  dsimp only
  rw [fld_setRBit_at _ (by decide), fld_setFld_at _ (by decide), hepoch]
  exact fld_setFld_fits _ _ (by decide) (Nat.mod_lt _ (by decide))

theorem warmCounted_cause (s : State) : (warmCounted s).fld rPwrStat 5 4 = 1 := by
  unfold warmCounted
  dsimp only
  rw [fld_setRBit_outside _ _ (by decide)]
  exact fld_setFld_fits _ _ (by decide) (by decide)

/-- A warm reset: what it clears, what it keeps, and its count (R578). -/
theorem warmBegin_spec (auto : Bool) (s : State) :
    (warmBegin auto s).mod.phase = .reset ∧ (warmBegin auto s).mem = [] ∧ (warmBegin auto s).ctxs = [] ∧
      (warmBegin auto s).mgmt = s.mgmt ∧ (warmBegin auto s).ptp = s.ptp ∧
      (warmBegin auto s).fld rCapEpoch 31 0 = (s.fld rCapEpoch 31 0 + 1) % 2 ^ 32 ∧ (warmBegin auto s).fld rPwrStat 5 4 = 1 := by
  rw [warmBegin_eq, fld_withMod _ _ rCapEpoch, fld_withMod _ _ rPwrStat]
  dsimp only
  exact ⟨rfl, rfl, rfl, warmCounted_mgmt s, warmCounted_ptp s, warmCounted_epoch s, warmCounted_cause s⟩

/-! ### Trips -/

/-- PWR_TRIP of a trip that is recorded. -/
theorem tripWord_fields {cause sensor : Nat} (hc : cause < 16) (hs : sensor < 128) :
    bits (put cause 0 ||| put sensor 4 ||| put 1 11) 3 0 = cause ∧
      bits (put cause 0 ||| put sensor 4 ||| put 1 11) 10 4 = sensor ∧
      bit (put cause 0 ||| put sensor 4 ||| put 1 11) 11 = true := by
  refine ⟨?_, ?_, ?_⟩
  · rw [bits_or, bits_or, bits_put_same _ (by decide), bits_put_below _ (by decide), bits_put_below _ (by decide),
      Nat.or_zero, Nat.or_zero]
    exact Nat.mod_eq_of_lt hc
  · rw [bits_or, bits_or, bits_put_same _ (by decide), bits_put_above hc, bits_put_below _ (by decide),
      Nat.or_zero, Nat.zero_or]
    exact Nat.mod_eq_of_lt hs
  · have hone : bit (put 1 11) 11 = true := by decide
    rw [bit_or, hone, Bool.or_true]

/-- The machine is off with its trip latched; the record keeps the first cause. -/
def Tripped (s t : State) (cause sensor : Nat) : Prop :=
  t.mod.phase = .off ∧ t.mod.latch = cause ∧ t.mem = [] ∧ t.ctxs = [] ∧
    t.sec.fuses = s.sec.fuses ∧ (s.rbit rTrip 11 = false →
      t.fld rTrip 3 0 = cause ∧ t.fld rTrip 10 4 = sensor ∧ t.rbit rTrip 11 = true) ∧
    (s.rbit rTrip 11 = true → t.reg rTrip = s.reg rTrip)

theorem trip_tripped (hon : s.mod.phase ≠ .off) {cause sensor : Nat} (hc : cause < 16) (hs : sensor < 128) :
    Tripped s (trip s cause sensor) cause sensor := by
  have hkept : (setPhase (wipe true s) .off).reg rTrip = s.reg rTrip := wipe_cold_trip s
  have hvalid := rbit_of_reg hkept 11
  obtain ⟨hcause, hsensor, hset⟩ := tripWord_fields hc hs
  unfold trip
  rw [if_neg hon]
  unfold State.capture
  dsimp only
  rw [hvalid]
  cases hv : s.rbit rTrip 11
  · have hreg : ((setPhase (wipe true s) .off).setReg rTrip (put cause 0 ||| put sensor 4 ||| put 1 11)).reg rTrip =
        put cause 0 ||| put sensor 4 ||| put 1 11 := (reg_setReg _ _ _ _).trans (if_pos rfl)
    refine ⟨rfl, rfl, rfl, rfl, rfl, fun _ => ⟨?_, ?_, ?_⟩, fun h => absurd (hv.symm.trans h) (by decide)⟩
    · exact (congrArg (bits · 3 0) hreg).trans hcause
    · exact (congrArg (bits · 10 4) hreg).trans hsensor
    · exact (congrArg (bit · 11) hreg).trans hset
  · exact ⟨rfl, rfl, rfl, rfl, rfl, fun h => absurd (hv.symm.trans h) (by decide), fun _ => hkept⟩

end Sys2Proof.Machine
end

section
/-! PROOF. Power-up, sensors, the PTP time base and the counters (R567, R575, R577, R583, R602, R604, R632 to R635). -/

namespace Sys2Proof.Machine

variable {s t u : State}

/-! ### Power-up -/

theorem doPowerUp_latched (hoff : s.mod.phase = .off) (hlatch : s.mod.latch = 0) (f : BoardFacts) :
    Booted (doPowerUp f s) ∧ (doPowerUp f s).mem = [] := by
  have hup : doPowerUp f s = bringUp f ((wipe true s).setReg rStrap (put f.addrSel.toNat 0 ||| put 1 3)) := if_pos ⟨hoff, hlatch⟩
  have hwiped : (wipe true s).mem = [] := rfl
  rw [hup, bringUp_mem, setReg_mem, hwiped]
  exact ⟨bringUp_booted _ _, rfl⟩

/-! ### Sensors -/

/-- A reading below a point is below every higher one. -/
theorem atPoint_mono {c p q : Nat} (hpq : p ≤ q) (h : atPoint c p = false) : atPoint c q = false := by
  simp only [atPoint, decide_eq_false_iff_not] at h ⊢
  omega

/-- A sensor's trip point is not below its warning point. -/
theorem warnPoint_le_tripPoint {k p : Nat} (h : tripPoint k = some p) : warnPoint k ≤ p := by
  unfold tripPoint at h
  unfold warnPoint
  split_ifs at h ⊢ <;> simp_all <;> omega

/-- The reading of a sensor is kept. -/
def keepReading (s : State) (k v : Nat) : State := { s with mod := { s.mod with sensors := smSet 0 s.mod.sensors k v } }

theorem doSensorRead_absent (hon : s.mod.phase ≠ .off) (k c : Nat) : doSensorRead k c false s = keepReading s k 0 := if_neg hon

/-- A reading, and the alert where it is at its warning point. -/
def warned (s : State) (k c : Nat) : State :=
  if atPoint c (warnPoint k) then (keepReading s k (c + 4096)).setRBit rAlert 0 true else keepReading s k (c + 4096)

theorem doSensorRead_noTrip (hon : s.mod.phase ≠ .off) {k c : Nat} (h : ∀ p, tripPoint k = some p → atPoint c p = false) :
    doSensorRead k c true s = warned s k c := by
  unfold doSensorRead
  rw [if_neg hon]
  cases hp : tripPoint k with
  | none => rfl
  | some p => exact if_neg (ne_true_of_eq_false (h p hp))

theorem doSensorRead_trip (hon : s.mod.phase ≠ .off) {k c p : Nat} (hp : tripPoint k = some p) (h : atPoint c p = true) :
    doSensorRead k c true s = trip (warned s k c) 4 k := by
  unfold doSensorRead
  rw [if_neg hon, hp]
  exact if_pos h

/-- A reading below its warning point is kept, and that is all. -/
theorem doSensorRead_below (hon : s.mod.phase ≠ .off) {k c : Nat} (h : atPoint c (warnPoint k) = false) :
    doSensorRead k c true s = keepReading s k (c + 4096) := by
  rw [doSensorRead_noTrip hon fun p hp => atPoint_mono (warnPoint_le_tripPoint hp) h, warned, h]
  rfl

theorem warned_rest (s : State) (k c : Nat) : (warned s k c).mod.phase = s.mod.phase ∧
    (warned s k c).sec = s.sec ∧ (warned s k c).reg rTrip = s.reg rTrip := by
  unfold warned
  split
  · exact ⟨rfl, rfl, reg_setRBit_other _ (by decide) _ _⟩
  · exact ⟨rfl, rfl, rfl⟩

/-- The trip record is judged by the register as it stood before the reading. -/
theorem Tripped.of_same {cause sensor : Nat} (h : Tripped u t cause sensor) (hsec : u.sec = s.sec)
    (hreg : u.reg rTrip = s.reg rTrip) : Tripped s t cause sensor := by
  obtain ⟨hphase, hlatch, hmem, hctxs, hfuses, hfirst, hlater⟩ := h
  have hvalid := rbit_of_reg hreg 11
  rw [hsec] at hfuses
  rw [hvalid] at hfirst hlater
  exact ⟨hphase, hlatch, hmem, hctxs, hfuses, hfirst, fun h => (hlater h).trans hreg⟩

/-- A reading at its trip point trips the module with cause 4. -/
theorem doSensorRead_tripped (hon : s.mod.phase ≠ .off) {k c p : Nat} (hk : k < 128) (hp : tripPoint k = some p)
    (h : atPoint c p = true) : Tripped s (doSensorRead k c true s) 4 k := by
  obtain ⟨hphase, hsec, hreg⟩ := warned_rest s k c
  rw [doSensorRead_trip hon hp h]
  exact (trip_tripped (hphase ▸ hon) (by decide) hk).of_same hsec hreg

/-! ### PTP (R632 to R635) -/

/-- The registers at an accepted edge: PTP_NEXT counts, and the base is locked by a second edge in time. -/
def edgeCounted (s : State) : State :=
  let d := s.clk - s.ptp.at_
  let u := (s.setFld rPtpNext 47 0 ((s.fld rPtpNext 47 0 + 1) % 2 ^ 48)).setRBit rPtpCtl 2 false
  if s.ptp.edges ≠ 0 ∧ cycles09 ≤ d ∧ d ≤ cycles11 then u.setRBit rPtpCtl 1 true else u

theorem edgeCounted_spec (s : State) : OnlyRegs s (edgeCounted s) ∧
    (edgeCounted s).fld rPtpNext 47 0 = (s.fld rPtpNext 47 0 + 1) % 2 ^ 48 := by
  unfold edgeCounted
  extract_lets d u
  have hu : OnlyRegs s u := (setFld_only _ _ _ _ _).trans (setRBit_only _ _ _ _)
  have hcount : u.fld rPtpNext 47 0 = (s.fld rPtpNext 47 0 + 1) % 2 ^ 48 := by
    rw [fld_setRBit_at _ (by decide)]
    exact fld_setFld_fits _ _ (by decide) (Nat.mod_lt _ (by decide))
  split
  · exact ⟨hu.trans (setRBit_only _ _ _ _), (fld_setRBit_at _ (by decide) _ _ _ _).trans hcount⟩
  · exact ⟨hu, hcount⟩

/-- The first edge since EN was set is accepted and takes PTP_NEXT. -/
theorem doPpsEdge_first (hon : s.mod.phase ≠ .off) (hen : s.rbit rPtpCtl 0 = true) (hfirst : s.ptp.first = true) :
    doPpsEdge s = { edgeCounted s with
      ptp := ⟨s.fld rPtpNext 47 0 * 1000000000, ptpNow s, s.clk, 1000000000, 1, false⟩ } := by
  unfold doPpsEdge
  dsimp only
  rw [if_neg hon, hen, hfirst, if_pos rfl]
  rfl

theorem OnlyRegs.withPtp (h : OnlyRegs s u) (p : Ptp) : ({ u with ptp := p } : State) = { s with regs := u.regs, ptp := p } := by
  rw [h]

/-- An edge within 0.9 s of the last sets EARLY. -/
theorem doPpsEdge_early (hon : s.mod.phase ≠ .off) (hfirst : s.ptp.first = false) (hsoon : s.clk - s.ptp.at_ < 22500000) :
    doPpsEdge s = s.setRBit rPtpCtl 3 true := by
  have hearly : decide (cycles09 ≤ s.clk - s.ptp.at_) = false := decide_eq_false (Nat.not_le.mpr hsoon)
  unfold doPpsEdge
  dsimp only
  rw [if_neg hon, hfirst, hearly, Bool.or_false, Bool.and_false, if_neg Bool.false_ne_true]

theorem regSpec_pwrR {o : Nat} (ho : o < 0x10000) : regSpec (pwrR o) = pwrSpec o := by
  have hoff : pwrR o - 0x200000000000 = 0x30000 + o := by unfold pwrR; omega
  have hbase : ¬ pwrR o < 0x200000000000 := by unfold pwrR; omega
  have hin : 0x30000 + o - 0x30000 = o := Nat.add_sub_cancel_left _ _
  unfold regSpec
  simp only [hoff, hin, if_neg hbase]
  simp (disch := omega) only [if_neg, if_pos]

theorem regSpec_ptpCtl : regSpec rPtpCtl = spec32 (m1 0) (m1 3) 0 := regSpec_pwrR (by decide)

/-- A write that sets EN starts the time base over. -/
theorem doPtpEnable_starts (hon : s.mod.phase ≠ .off) (hoff : s.rbit rPtpCtl 0 = false) {v : BitVec 32} (hv : bit v 0 = true) :
    doPtpEnable v s = { s.softWrite rPtpCtl (v.setWidth 64) with ptp := { s.ptp with first := true } } ∧
      (s.softWrite rPtpCtl (v.setWidth 64)).rbit rPtpCtl 0 = true := by
  have hset : (s.softWrite rPtpCtl (v.setWidth 64)).rbit rPtpCtl 0 = true := by
    rw [rbit_softWrite (i := 0) regSpec_ptpCtl (by decide), bit_setWidth v (by decide), hv]
  have hptp : (s.softWrite rPtpCtl (v.setWidth 64)).ptp = s.ptp := by rw [softWrite_rest]
  refine ⟨?_, hset⟩
  unfold doPtpEnable
  dsimp only
  rw [if_neg hon, hoff, hset, hptp]
  rfl

/-! ### Counters (R602, R604) -/

/-- The re-armed slots of a rearm command. -/
theorem doThresholdRearm_fired (hup : s.up = true) {k : Nat} (hf : s.rbit (rThrSel k) 21 = true) :
    ∃ t, doThresholdRearm k s = t ∧ t = { s with regs := t.regs, hub := { s.hub with rearm := t.hub.rearm } } ∧
      t.rbit (rThrSel k) 21 = false ∧
      t.hub.rearm = if thrReached s k then s.hub.rearm ++ [k] else s.hub.rearm := by
  have hclear : (s.setRBit (rThrSel k) 21 false).rbit (rThrSel k) 21 = false := rbit_setRBit_same _ _ (by decide) _
  refine ⟨_, rfl, ?_⟩
  unfold doThresholdRearm
  rw [if_pos ⟨hup, hf⟩]
  dsimp only
  split
  · exact ⟨rfl, hclear, rfl⟩
  · exact ⟨rfl, hclear, rfl⟩

end Sys2Proof.Machine
end

section
/-! PROOF. Hub restarts (R385, R580): what stands while the control processors restart. -/

namespace Sys2Proof.Machine

variable {s t u : State}

/-- A register that a warm reset keeps: the power block, and HUB_CAP_EPOCH. -/
def KeptReg (a : Nat) : Prop := (0x200000030000 ≤ a ∧ a < 0x200000040000) ∨ a = rCapEpoch

theorem keptReg_pwrStat : KeptReg rPwrStat := .inl (by decide)
theorem keptReg_ddCtl : KeptReg rDdCtl := .inl (by decide)
theorem keptReg_capEpoch : KeptReg rCapEpoch := .inr rfl

/-- Device memory, contexts, what the module keeps of itself, and the registers above are as before. -/
structure Stands (s t : State) : Prop where
  mem : t.mem = s.mem
  ctxs : t.ctxs = s.ctxs
  mod : t.mod = s.mod
  regs : ∀ a, KeptReg a → t.reg a = s.reg a

theorem Stands.refl (s : State) : Stands s s := ⟨rfl, rfl, rfl, fun _ _ => rfl⟩

theorem Stands.trans (h : Stands s t) (g : Stands t u) : Stands s u :=
  ⟨g.mem.trans h.mem, g.ctxs.trans h.ctxs, g.mod.trans h.mod, fun a ha => (g.regs a ha).trans (h.regs a ha)⟩

theorem Stands.ite {c : Prop} [Decidable c] (h : Stands s t) (g : Stands s u) : Stands s (if c then t else u) := by
  split <;> assumption

theorem Stands.fld (h : Stands s t) {a : Nat} (ha : KeptReg a) (hi lo : Nat) : t.fld a hi lo = s.fld a hi lo :=
  fld_of_reg (h.regs a ha) hi lo

theorem Stands.rbit (h : Stands s t) {a : Nat} (ha : KeptReg a) (i : Nat) : t.rbit a i = s.rbit a i :=
  rbit_of_reg (h.regs a ha) i

theorem Reported.stands (h : Reported s t) : Stands s t := by
  refine ⟨by rw [h.rest], by rw [h.rest], by rw [h.rest], fun a ha => ?_⟩
  rcases ha with ⟨hlo, -⟩ | rfl
  · exact h.reg_above (by omega)
  · exact h.reg_below (by decide)

theorem OnlyTraffic.stands (h : OnlyTraffic s t) : Stands s t :=
  ⟨by rw [h], by rw [h], by rw [h], fun a _ => h.reg a⟩

theorem HubAndOut.stands (h : HubAndOut s t) : Stands s t := by
  have hregs : t.regs = s.regs := by rw [h]
  exact ⟨by rw [h], by rw [h], by rw [h], fun a _ => reg_congr hregs a⟩

theorem LinksOnly.stands (h : LinksOnly s t) : Stands s t := by
  have hregs : t.regs = s.regs := by rw [h]
  exact ⟨by rw [h], by rw [h], by rw [h], fun a _ => reg_congr hregs a⟩

theorem stands_setReg (s : State) {a : Nat} (ha : ¬ KeptReg a) (v : Word) : Stands s (s.setReg a v) :=
  ⟨rfl, rfl, rfl, fun b hb => reg_setReg_other s (fun e : b = a => ha (e ▸ hb)) v⟩

/-! ### The security controller's part -/

theorem not_keptReg_secState : ¬ KeptReg rSecState := by
  unfold KeptReg
  decide

theorem not_keptReg_mbxCtl : ¬ KeptReg rMbxCtl := by
  unfold KeptReg
  decide

/-- Only what the security controller keeps differs. -/
theorem stands_sec (s : State) (x : Sec) : Stands s { s with sec := x } := ⟨rfl, rfl, rfl, fun _ _ => rfl⟩

theorem extend_stands (s : State) (i kind : Nat) (d rec : List Byte) : Stands s (extend s i kind d rec) := stands_sec s _

theorem extendDebug_stands (s : State) (level port ev flags : Nat) (tok : List Byte) :
    Stands s (extendDebug s level port ev flags tok) := extend_stands _ _ _ _ _

theorem closeSess_stands (s : State) (cause : Nat) : Stands s (closeSess s cause) := by
  unfold closeSess
  split
  · exact .refl s
  · extract_lets sec s1 s2
    have h1 : Stands s s1 := ⟨rfl, rfl, rfl, fun _ _ => rfl⟩
    have h2 : Stands s1 s2 := (extendDebug_stands _ _ _ _ _ _).trans (stands_setReg _ not_keptReg_secState _)
    exact (h1.trans h2).trans (event0_reported _ _ _ _ _).stands

theorem closeSess_sess (s : State) (cause : Nat) : (closeSess s cause).sec.sess = none := by
  unfold closeSess
  split
  · assumption
  · extract_lets sec s1 s2
    have hsec : ∀ v code die part pay, (event0 v code die part pay).sec = v.sec := fun v code die part pay => by
      rw [(event0_reported v code die part pay).rest]
    rw [hsec]
    rfl

theorem mbxDone_stands (s : State) (st : Nat) : Stands s (mbxDone s st) :=
  ((stands_setReg s not_keptReg_mbxCtl _).trans (stands_setReg _ not_keptReg_mbxCtl _)).trans (stands_setReg _ not_keptReg_mbxCtl _)

theorem dropNonce_stands (s : State) : Stands s (dropNonce s) := (stands_sec s _).trans (stands_setReg _ not_keptReg_secState _)

theorem restartSess_stands (s : State) : Stands s (restartSess s) := by
  unfold restartSess
  extract_lets s1
  have h1 : Stands s s1 := closeSess_stands s 4
  split
  · refine (h1.trans ?_).trans (mbxDone_stands _ _)
    exact ⟨rfl, rfl, rfl, fun _ _ => rfl⟩
  · exact h1

theorem restartSess_sess (s : State) : (restartSess s).sec.sess = none := by
  unfold restartSess
  extract_lets s1
  have h1 : s1.sec.sess = none := closeSess_sess s 4
  split
  · exact h1
  · exact h1

/-! ### The hub's lines -/

theorem writeBack_hubAndOut (s : State) : HubAndOut s (writeBack s) := by
  have hlines : HubAndOut s { s with hub := { s.hub with hlines := s.hub.hlines.filter fun h => h.st ≠ .modified } } := rfl
  unfold writeBack
  exact hlines.trans (.foldl _ giveUp_hubAndOut _ _)

theorem dropLines_hubAndOut (s : State) : HubAndOut s (dropLines s) := by
  have hlines : HubAndOut s { s with hub := { s.hub with hlines := [] } } := rfl
  unfold dropLines
  exact hlines.trans (.foldl _ giveUp_hubAndOut _ _)

/-! ### What a restart held back -/

theorem not_keptReg_evtStat : ¬ KeptReg rEvtStat := by
  unfold KeptReg
  decide

theorem evtDrain_stands : ∀ (n : Nat) (s : State), Stands s (evtDrain n s)
  | 0, s => .refl s
  | n + 1, s => by
    unfold evtDrain
    split
    · next e es _ =>
      refine .ite ?_ (.refl s)
      have hheld : Stands s { s with hub := { s.hub with held := es } } := ⟨rfl, rfl, rfl, fun _ _ => rfl⟩
      have hstore : Stands s (evtStore { s with hub := { s.hub with held := es } } e) :=
        hheld.trans (evtStore_reported _ _).stands
      exact (hstore.trans (stands_setReg _ not_keptReg_evtStat _)).trans (evtDrain_stands n _)
    · exact .ite ((evtStore_reported _ _).stands.trans (stands_setReg _ not_keptReg_evtStat _)) (.refl s)

theorem startScan_stands (s : State) : Stands s (startScan s) := by
  have hctl : ¬ KeptReg rJobtabCtl := by
    unfold KeptReg
    decide
  exact .ite ((scanTable_requests s).traffic.stands.trans (stands_setReg _ hctl _)) (.refl s)

theorem hubGoOn_stands (s : State) : Stands s (hubGoOn s) :=
  ((evtDrain_stands _ s).trans (hostPump_traffic _ _).stands).trans (startScan_stands _)

/-! ### The restart -/

/-- A restart that is the first within its hour. -/
def restartMarked (s : State) (cause : Nat) : State :=
  let s1 : State := { s with mod := { s.mod with hubFor := cause, hubAt := [s.fab] } }
  ((s1.setRBit rPwrStat 3 true).setFld rPwrStat 5 4 2).setRBit rJobStat 13 true

theorem restartBegin_first (hat : s.mod.hubAt = []) (cause : Nat) :
    restartBegin s cause = writeBack (restartSess (restartMarked s cause)) := by
  unfold restartBegin
  rw [hat]
  rfl

/-- What the restart leaves: it runs, its cause is kept, sessions are closed, memory stands. -/
structure Restarting (s t : State) (cause : Nat) : Prop where
  runs : hubRestarting t = true
  shown : t.fld rPwrStat 5 4 = 2
  cause : t.mod.hubFor = cause
  mem : t.mem = s.mem
  sess : t.sec.sess = none

theorem restartBegin_restarting (hat : s.mod.hubAt = []) (cause : Nat) : Restarting s (restartBegin s cause) cause := by
  have hback := writeBack_hubAndOut (restartSess (restartMarked s cause))
  have hstands : Stands (restartMarked s cause) (restartBegin s cause) := by
    rw [restartBegin_first hat]
    exact (restartSess_stands _).trans hback.stands
  have hjob : rPwrStat ≠ rJobStat := by decide
  refine ⟨?_, ?_, ?_, hstands.mem, ?_⟩
  · refine (hstands.rbit keptReg_pwrStat 3).trans ?_
    unfold restartMarked
    dsimp only
    rw [rbit_setRBit_at _ hjob, rbit_setFld_other _ _ (by decide) (by decide)]
    exact rbit_setRBit_same _ _ (by decide) _
  · refine (hstands.fld keptReg_pwrStat 5 4).trans ?_
    unfold restartMarked
    dsimp only
    rw [fld_setRBit_at _ hjob]
    exact fld_setFld_fits _ _ (by decide) (by decide)
  · rw [hstands.mod]
    rfl
  · have hsec : (writeBack (restartSess (restartMarked s cause))).sec = (restartSess (restartMarked s cause)).sec := by
      rw [hback]
    rw [restartBegin_first hat, hsec]
    exact restartSess_sess _

theorem restartBegin_cmd (hat : s.mod.hubAt = []) (cause : Nat) : (restartBegin s cause).mod.cmd = s.mod.cmd := by
  have hback := (writeBack_hubAndOut (restartSess (restartMarked s cause))).stands
  rw [restartBegin_first hat, hback.mod, (restartSess_stands _).mod]
  rfl

theorem doControlProcessorWatchdog_first (hup : s.up = true) (hrun : hubRestarting s = false) :
    doControlProcessorWatchdog s = restartBegin s 1 := by
  unfold doControlProcessorWatchdog
  rw [hup, hrun]
  rfl

/-- The state with the hub restart as the command that BUSY follows. -/
def hubCommanded (s : State) : State := { s with mod := { s.mod with cmd := (3, 0) } }

/-- HUB_RESTART from a source that finds no other command. -/
theorem doHubRestart_first (hup : s.up = true) (hrun : hubRestarting s = false) (hfree : s.rbit rRstCtl 11 = false) (src : CmdSrc) :
    doHubRestart src s = showBusy (restartBegin (hubCommanded s) (if src = .host then 2 else 3)) := by
  unfold doHubRestart rstClosed
  rw [hup, hrun, hfree]
  simp only [Bool.not_true, Bool.and_false, Bool.or_false, Bool.false_eq_true, if_false]
  rfl

/-- BUSY is shown while the restart that the last command named runs. -/
theorem showBusy_restarting {cause : Nat} (h : Restarting s t cause) (hcmd : t.mod.cmd = (3, 0)) :
    Restarting s (showBusy t) cause ∧ (showBusy t).rbit rRstCtl 11 = true := by
  have hbusy : rstBusy t = true := by
    unfold rstBusy
    rw [hcmd]
    exact h.runs
  rw [showBusy_busy hbusy]
  refine ⟨⟨?_, ?_, h.cause, h.mem, h.sess⟩, rbit_setRBit_same _ _ (by decide) _⟩
  · exact (rbit_setRBit_at t (by decide) _ _ _).trans h.runs
  · exact (fld_setRBit_at t (by decide) _ _ _ _).trans h.shown

/-! ### The end of a restart -/

/-- The registers at the end: HUB_CAP_EPOCH counts, the restart no longer shows, intake goes on where a port is UP. -/
def restartCounted (s : State) : State :=
  let s2 := s.setFld rCapEpoch 31 0 ((s.fld rCapEpoch 31 0 + 1) % 2 ^ 32)
  (s2.setRBit rPwrStat 3 false).setRBit rJobStat 13 (!anyPortUp s2)

/-- Record 0x090F with the restart's cause, and what was held back. -/
def restartReported (s : State) : State :=
  hubGoOn (errRecord (restartCounted s) { code := 0x090F, cls := 3, unit := 8, cause := (restartCounted s).mod.hubFor })

theorem restartReported_stands (s : State) : Stands (restartCounted s) (restartReported s) :=
  (errRecord_reported _ _).stands.trans (hubGoOn_stands _)

/-- Every die that is present answers as itself: none is lost. -/
theorem doHubRestartDone_all {l : List (Option (BitVec 32))} (hup : s.up = true) (hrun : hubRestarting s = true)
    (hall : ∀ d, d < 8 → diePresent s d = true → (l.getD d none).map (fun v => bits v 3 0) = some d) :
    doHubRestartDone l s = showBusy { restartReported s with mod := { (restartReported s).mod with hubFor := 0 } } := by
  have hnone : (List.range 8).filter (fun d => diePresent s d && decide ((l.getD d none).map (fun v => bits v 3 0) ≠ some d)) = [] := by
    refine List.filter_eq_nil_iff.mpr fun d hd => ?_
    rw [Bool.and_eq_true, decide_eq_true_eq]
    exact fun ⟨hin, hne⟩ => hne (hall d (List.mem_range.mp hd) hin)
  unfold doHubRestartDone
  rw [hup, hrun]
  simp only [hnone]
  rfl

theorem restartCounted_only (s : State) : OnlyRegs s (restartCounted s) :=
  ((setFld_only _ _ _ _ _).trans (setRBit_only _ _ _ _)).trans (setRBit_only _ _ _ _)

theorem restartCounted_epoch (s : State) : (restartCounted s).fld rCapEpoch 31 0 = (s.fld rCapEpoch 31 0 + 1) % 2 ^ 32 := by
  unfold restartCounted
  dsimp only
  rw [fld_setRBit_at _ (by decide), fld_setRBit_at _ (by decide)]
  exact fld_setFld_fits _ _ (by decide) (Nat.mod_lt _ (by decide))

theorem restartCounted_over (s : State) : (restartCounted s).rbit rPwrStat 3 = false := by
  unfold restartCounted
  dsimp only
  rw [rbit_setRBit_at _ (by decide)]
  exact rbit_setRBit_same _ _ (by decide) _

/-- What BUSY's own update leaves. -/
theorem showBusy_kept (s : State) : (showBusy s).mem = s.mem ∧ (showBusy s).ctxs = s.ctxs ∧ (showBusy s).mod.hubFor = s.mod.hubFor := by
  rw [showBusy_rest]
  exact ⟨rfl, rfl, rfl⟩

theorem doHubRestartDone_over {l : List (Option (BitVec 32))} (hup : s.up = true) (hrun : hubRestarting s = true)
    (hall : ∀ d, d < 8 → diePresent s d = true → (l.getD d none).map (fun v => bits v 3 0) = some d) :
    ∃ t, doHubRestartDone l s = t ∧ hubRestarting t = false ∧
      t.fld rCapEpoch 31 0 = (s.fld rCapEpoch 31 0 + 1) % 2 ^ 32 ∧ t.mod.hubFor = 0 ∧ t.mem = s.mem ∧ t.ctxs = s.ctxs := by
  have hstands := restartReported_stands s
  have honly := restartCounted_only s
  have hmem : (restartCounted s).mem = s.mem := by rw [honly]
  have hctxs : (restartCounted s).ctxs = s.ctxs := by rw [honly]
  refine ⟨_, doHubRestartDone_all hup hrun hall, ?_⟩
  obtain ⟨hbmem, hbctxs, hbfor⟩ := showBusy_kept { restartReported s with mod := { (restartReported s).mod with hubFor := 0 } }
  refine ⟨?_, ?_, hbfor, hbmem.trans (hstands.mem.trans hmem), hbctxs.trans (hstands.ctxs.trans hctxs)⟩
  · refine (rbit_of_reg (reg_showBusy _ (by decide)) 3).trans ?_
    exact (hstands.rbit keptReg_pwrStat 3).trans (restartCounted_over s)
  · refine (fld_of_reg (reg_showBusy _ (by decide)) 31 0).trans ?_
    exact (hstands.fld keptReg_capEpoch 31 0).trans (restartCounted_epoch s)

end Sys2Proof.Machine
end

section
/-! PROOF. Drydown, entered and left (R569 to R573), and the obligation on power. -/

namespace Sys2Proof.Machine

variable {s t u : State}

/-! ### Entering -/

theorem not_keptReg_shlStat {n : Nat} (hn : n < 2) : ¬ KeptReg (rShlStat n) := by
  unfold KeptReg rShlStat shlR rCapEpoch hubR
  omega

theorem portIdle_stands (s : State) {n : Nat} (hn : n < 2) : Stands s (portIdle s n) :=
  stands_setReg s (not_keptReg_shlStat hn) _

/-- What comes before the loss of power: the session and the nonce go, the event is written, lines and links are given up. -/
def ddPrepared (s0 : State) (src t : Nat) : State :=
  let s1 := dropNonce (closeSess s0 3)
  let s2 := event0 s1 0x0801 8 none [put src 0 ||| put (b2n s0.sec.sess.isSome) 8, put t 0]
  portIdle (portIdle (sendDowns (dropLines s2)) 0) 1

theorem ddPrepared_stands (s0 : State) (src t : Nat) : Stands s0 (ddPrepared s0 src t) := by
  unfold ddPrepared
  extract_lets s1 s2
  have h1 : Stands s0 s1 := (closeSess_stands s0 3).trans (dropNonce_stands _)
  have h2 : Stands s1 s2 := (event0_reported _ _ _ _ _).stands
  have h3 : Stands s2 (sendDowns (dropLines s2)) := (dropLines_hubAndOut s2).stands.trans (sendDowns_linksOnly _).stands
  exact (h1.trans (h2.trans h3)).trans ((portIdle_stands _ (by decide)).trans (portIdle_stands _ (by decide)))

/-- DDWN_CTL as an accepted ENTER of `src` writes it. -/
def ddEntered (s : State) (src : Nat) : State := (s.setFld rDdCtl 3 2 src).setFld rDdCtl 7 4 0

theorem setFld_mem_kept (s : State) (a hi lo v : Nat) : (s.setFld a hi lo v).mem = s.mem := setReg_mem _ _ _

theorem ddLose_mem (s : State) : (ddLose s).mem = s.mem.filter fun p => isHbm p.1 := rfl

theorem ddEntered_mem (s : State) (src : Nat) : (ddEntered s src).mem = s.mem := rfl

theorem drydown_eq (s : State) (src : Nat) : drydown s src =
    { (ddLose (ddPrepared (ddEntered s src) src (ptpStamp s))).setFld rPwrStat 1 0 3 with
      mod := { (ddLose (ddPrepared (ddEntered s src) src (ptpStamp s))).mod with phase := .drydown, slow := [] } } := by
  simp only [drydown, ddPrepared, ddEntered]

/-- The always-on domain keeps its power. -/
theorem ddLose_ddCtl (s : State) : (ddLose s).reg rDdCtl = s.reg rDdCtl := by
  have hlnk : ∀ l, l ∈ List.range 48 → rLnkStat l ≠ rDdCtl := fun l _ => by
    unfold rLnkStat lnkR rDdCtl pwrR
    omega
  unfold ddLose
  extract_lets keep m m1
  have hlost : smGet (regDefault rDdCtl) m1 rDdCtl = smGet (regDefault rDdCtl) m rDdCtl :=
    smGet_foldl_smSet (key := rLnkStat) _ _ _ hlnk m
  exact hlost.trans (smGet_filter_key _ _ (fun _ => rfl) _)

/-- What Drydown keeps and what it loses. -/
theorem drydown_fades (s : State) {src : Nat} (hsrc : src < 4) :
    (∀ x, isHbm x → smGet 0 (drydown s src).mem x = smGet 0 s.mem x) ∧
      (∀ x, isHbm x = false → smGet 0 (drydown s src).mem x = 0) ∧
      (drydown s src).fld rPwrStat 1 0 = 3 ∧ (drydown s src).fld rDdCtl 3 2 = src := by
  have hstands := ddPrepared_stands (ddEntered s src) src (ptpStamp s)
  have hmem : (drydown s src).mem = s.mem.filter fun p => isHbm p.1 := by
    rw [drydown_eq]
    dsimp only
    rw [setFld_mem_kept, ddLose_mem, hstands.mem, ddEntered_mem]
  have hget : ∀ x, smGet 0 (drydown s src).mem x = if isHbm x = true then smGet 0 s.mem x else 0 := fun x => by
    rw [hmem, smGet_filter_keys]
  have hctl : (ddEntered s src).fld rDdCtl 3 2 = src := by
    unfold ddEntered
    rw [fld_setFld_field _ _ (by decide)]
    exact fld_setFld_fits _ _ (by decide) hsrc
  refine ⟨fun x hx => (hget x).trans (if_pos hx), fun x hx => (hget x).trans (if_neg (ne_true_of_eq_false hx)), ?_, ?_⟩
  · rw [drydown_eq, fld_withMod _ _ rPwrStat]
    exact fld_setFld_fits _ _ (by decide) (by decide)
  · rw [drydown_eq, fld_withMod _ _ rDdCtl, fld_setFld_at _ (by decide), fld_of_reg (ddLose_ddCtl _) 3 2,
      hstands.fld keptReg_ddCtl, hctl]

theorem doDrydownEnter_accepted (hup : s.up = true) (hrefuse : ddRefuse s = 0) (hscrub : scrubbing s = false) (src : CmdSrc) :
    doDrydownEnter src s = drydown s (srcNo src) := by
  have hphase : s.mod.phase = .up := of_decide_eq_true hup
  have hdone : doDebugScrubDone s = s := if_neg (ne_true_of_eq_false hscrub)
  unfold doDrydownEnter
  rw [hphase, hup, hrefuse, hdone]
  rfl

theorem doDrydownEnter_refused (hup : s.up = true) (hrefuse : ddRefuse s ≠ 0) (src : CmdSrc) :
    doDrydownEnter src s = (s.setFld rDdCtl 7 4 (ddRefuse s)).setRBit rDdCtl 8 true := by
  have hphase : s.mod.phase = .up := of_decide_eq_true hup
  unfold doDrydownEnter
  rw [hphase, hup, if_pos hrefuse]
  rfl

theorem srcNo_lt (src : CmdSrc) : srcNo src < 4 := by cases src <;> decide

/-! ### Leaving -/

/-- Links and what shows them: registers of links, the links and the messages alone differ. -/
structure LinksTrain (s t : State) : Prop where
  rest : t = { s with regs := t.regs, lnks := t.lnks, out := t.out }
  regs : ∀ a, KeptReg a → t.reg a = s.reg a

theorem LinksTrain.refl (s : State) : LinksTrain s s := ⟨rfl, fun _ _ => rfl⟩

theorem LinksTrain.trans (h : LinksTrain s t) (g : LinksTrain t u) : LinksTrain s u :=
  ⟨by rw [g.rest, h.rest], fun a ha => (g.regs a ha).trans (h.regs a ha)⟩

theorem LinksTrain.foldl {α : Type} {f : State → α → State} (hf : ∀ s x, LinksTrain s (f s x)) :
    ∀ (l : List α) (s : State), LinksTrain s (l.foldl f s)
  | [], s => .refl s
  | x :: l, s => (hf s x).trans (LinksTrain.foldl hf l (f s x))

theorem trainStart_linksTrain (s : State) (l : Nat) : LinksTrain s (trainStart s l) := by
  refine ⟨(trainStart_trains s l).rest, fun a ha => reg_trainStart_other s fun e => ?_⟩
  rw [e] at ha
  unfold KeptReg rLnkStat lnkR rCapEpoch hubR at ha
  omega

theorem trainLinks_linksTrain (s : State) : LinksTrain s (trainLinks s) := by
  unfold trainLinks
  refine .foldl (fun s l => ?_) _ s
  split
  · exact trainStart_linksTrain s l
  · exact .refl s

theorem startScan_hubOnly (s : State) : HubOnly s (startScan s) :=
  .ite ((scanTable_requests s).hubOnly.trans (setRBit_hub _ _ _ _)) (.refl s)

/-- The module back at Idle, before its links train. -/
def ddReturned (s : State) (src port : Nat) : State :=
  let s1 := (s.setFld rDdCtl 3 2 src).setFld rPwrStat 1 0 2
  { s1 with mod := { s1.mod with phase := .up, wake := some [put src 0 ||| put port 4, put (ptpStamp s) 0] } }

theorem drydownLeave_eq (s : State) (src port : Nat) : drydownLeave s src port = trainLinks (startScan (ddReturned s src port)) := rfl

/-- An exit or a wake: registers, links, messages, the hub and the phase alone differ, and DDWN_CTL names the source. -/
theorem drydownLeave_wakes (s : State) {src : Nat} (hsrc : src < 4) (port : Nat) :
    ∃ t, drydownLeave s src port = t ∧
      t = { s with regs := t.regs, lnks := t.lnks, out := t.out, hub := t.hub, mod := t.mod } ∧
      t.mod.phase = .up ∧ t.fld rPwrStat 1 0 = 2 ∧ t.fld rDdCtl 3 2 = src := by
  have hscan := startScan_hubOnly (ddReturned s src port)
  have hscanned := startScan_stands (ddReturned s src port)
  have htrain := trainLinks_linksTrain (startScan (ddReturned s src port))
  have hmod : (trainLinks (startScan (ddReturned s src port))).mod = (ddReturned s src port).mod := by
    rw [htrain.rest]
    exact hscanned.mod
  have hreg : ∀ a, KeptReg a → (trainLinks (startScan (ddReturned s src port))).reg a = (ddReturned s src port).reg a :=
    fun a ha => (htrain.regs a ha).trans (hscanned.regs a ha)
  refine ⟨_, drydownLeave_eq s src port, ?_, ?_, ?_, ?_⟩
  · rw [htrain.rest, hscan]
    rfl
  · rw [hmod]
    rfl
  · refine (fld_of_reg (hreg _ keptReg_pwrStat) 1 0).trans ?_
    exact fld_setFld_fits (s.setFld rDdCtl 3 2 src) _ (by decide) (by decide)
  · refine (fld_of_reg (hreg _ keptReg_ddCtl) 3 2).trans ?_
    refine (fld_setFld_at (s.setFld rDdCtl 3 2 src) (by decide) 1 0 2 3 2).trans ?_
    exact fld_setFld_fits _ _ (by decide) hsrc

theorem doDrydownExit_on (hup : s.up = true) (src : CmdSrc) : doDrydownExit src s = s.setRBit rDdCtl 8 true := by
  have hphase : s.mod.phase = .up := of_decide_eq_true hup
  unfold doDrydownExit
  rw [hphase, hup]
  rfl

/-! ### The statement -/

/-- Settles O57: each command by the rule of its sequence, in the phase that the clause names. -/
theorem powerSequences : Obligations.PowerSequences := by
  intro s ready tripped fades wakes
  refine ⟨fun f hoff hlatch => ?_, fun f hoff hlatch => ?_, fun f hreset => ?_, fun hoff hlo hhi => ?_, fun hon => ?_,
    fun hup => ?_, fun hdd => ⟨?_, fun n hwake => ?_⟩⟩
  · exact ⟨_, rfl, doPowerUp_latched hoff hlatch f⟩
  · refine ⟨_, next_congr (if_pos ⟨hoff, hlatch⟩), ?_⟩
    exact (doPowerUp_latched (s := { s with mod := { s.mod with latch := 0 } }) hoff rfl f).1
  · exact ⟨_, next_congr (if_pos hreset), bringUp_booted f s⟩
  · exact next_congr (if_pos ⟨hoff, hlo, hhi⟩)
  · have htrip : ∀ cause sensor, cause < 16 → sensor < 128 → tripped (trip s cause sensor) cause sensor :=
      fun _ _ hc hs => trip_tripped hon hc hs
    refine ⟨⟨_, rfl, doPowerDown_off hon⟩, ⟨_, next_congr (if_neg hon), warmBegin_spec false s⟩,
      ⟨_, rfl, htrip 1 0 (by decide) (by decide)⟩, ⟨_, rfl, htrip 2 0 (by decide) (by decide)⟩,
      fun n => ⟨_, rfl, htrip 3 n.val (by decide) (by omega)⟩, ⟨_, rfl, htrip 5 0 (by decide) (by decide)⟩,
      ⟨_, rfl, htrip 6 0 (by decide) (by decide)⟩, fun k c hbelow => next_congr (doSensorRead_below hon hbelow),
      fun k c => next_congr (doSensorRead_absent hon k c.toNat),
      fun k c p hp hat => ⟨_, rfl, doSensorRead_tripped hon (by omega) hp hat⟩, fun hen hfirst => ?_,
      fun _ hfirst hsoon => next_congr (doPpsEdge_early hon hfirst hsoon),
      fun hedges => next_congr (if_neg fun h => h.elim hon hedges), fun v hoff hv => ?_⟩
    · obtain ⟨honly, hnext⟩ := edgeCounted_spec s
      exact ⟨_, next_congr (doPpsEdge_first hon hen hfirst), honly.withPtp _, rfl, rfl, rfl, hnext⟩
    · obtain ⟨hstarts, hset⟩ := doPtpEnable_starts hon hoff hv
      exact ⟨_, next_congr hstarts, OnlyRegs.withPtp (softWrite_rest _ _ _) _, hset⟩
  · refine ⟨fun src hrefuse hscrub => ?_, fun src hrefuse => next_congr (doDrydownEnter_refused hup hrefuse src),
      fun src => next_congr (doDrydownExit_on hup src), fun hrun hat => ⟨?_, fun src hfree => ?_⟩, fun hrun => ?_,
      fun l hrun hall => ?_, fun hvalid => ?_, next_congr (if_pos hup), fun k hfired => ?_⟩
    · obtain ⟨hkept, hlost, hstat, hctl⟩ := drydown_fades s (srcNo_lt src)
      exact ⟨_, next_congr (doDrydownEnter_accepted hup hrefuse hscrub src),
        ⟨rfl, hstat, hkept, hlost, rfl, rfl, rfl, rfl⟩, hctl⟩
    · have h := restartBegin_restarting hat 1
      exact ⟨_, next_congr (doControlProcessorWatchdog_first hup hrun), h.runs, h.shown, h.cause, h.mem, h.sess⟩
    · have h := restartBegin_restarting (s := hubCommanded s) hat (if src = .host then 2 else 3)
      obtain ⟨hshown, hbusy⟩ := showBusy_restarting h (restartBegin_cmd (s := hubCommanded s) hat _)
      exact ⟨_, next_congr (doHubRestart_first hup hrun hfree src), hshown.runs, hbusy, hshown.cause, hshown.mem, hshown.sess⟩
    · have hbeat : doHeartbeatTick s = s.setFld rHb 31 0 ((s.fld rHb 31 0 + 1) % 2 ^ 32) := if_pos (by rw [hup, hrun]; rfl)
      refine ⟨_, next_congr hbeat, rfl, ?_, fun r hr => reg_setFld_other s hr _ _ _⟩
      exact fld_setFld_fits _ _ (by decide) (Nat.mod_lt _ (by decide))
    · obtain ⟨t, ht, hover⟩ := doHubRestartDone_over hup hrun hall
      exact ⟨t, next_congr ht, hover⟩
    · exact ⟨_, next_congr (if_pos ⟨hup, hvalid⟩), rfl, fun i q => cntGet_cntPut _ _ _ _ _ _⟩
    · obtain ⟨t, ht, hrearmed⟩ := doThresholdRearm_fired hup hfired
      exact ⟨t, next_congr ht, hrearmed⟩
  · obtain ⟨t, ht, hwakes⟩ := drydownLeave_wakes s (src := 1) (by decide) 0
    exact ⟨t, next_congr ((if_pos hdd).trans ht), hwakes⟩
  · obtain ⟨t, ht, hwakes⟩ := drydownLeave_wakes s (src := 2) (by decide) n
    exact ⟨t, next_congr ((if_pos ⟨hdd, hwake⟩).trans ht), hwakes⟩

end Sys2Proof.Machine
end

section
/-! PROOF. The mailbox (R558): what a command's STATUS and its checks read, and what taking a command changes. -/

namespace Sys2Proof.Machine

variable {s t u : State}

/-! ### Only the mailbox's control differs -/

/-- No register but SEC_MBX_CTL differs, nor anything else. -/
structure MbxOnly (s t : State) : Prop where
  rest : OnlyRegs s t
  regs : ∀ a, a ≠ rMbxCtl → t.reg a = s.reg a

theorem MbxOnly.trans (h : MbxOnly s t) (g : MbxOnly t u) : MbxOnly s u :=
  ⟨h.rest.trans g.rest, fun a ha => (g.regs a ha).trans (h.regs a ha)⟩

theorem setFld_mbxOnly (s : State) (hi lo v : Nat) : MbxOnly s (s.setFld rMbxCtl hi lo v) :=
  ⟨setFld_only _ _ _ _ _, fun _ ha => reg_setFld_other s ha hi lo v⟩

theorem setRBit_mbxOnly (s : State) (i : Nat) (b : Bool) : MbxOnly s (s.setRBit rMbxCtl i b) :=
  ⟨setRBit_only _ _ _ _, fun _ ha => reg_setRBit_other s ha i b⟩

theorem mbxDone_mbxOnly (s : State) (st : Nat) : MbxOnly s (mbxDone s st) :=
  (setFld_mbxOnly _ _ _ _).trans ((setRBit_mbxOnly _ _ _).trans (setRBit_mbxOnly _ _ _))

theorem setSubmit_mbxOnly (s : State) (kind len : Nat) : MbxOnly s (setSubmit s kind len) :=
  (setFld_mbxOnly _ _ _ _).trans (setFld_mbxOnly _ _ _ _)

theorem OnlyRegs.sec (h : OnlyRegs s t) : t.sec = s.sec := by rw [h]
theorem OnlyRegs.jobs (h : OnlyRegs s t) : t.hub.jobs = s.hub.jobs := by rw [h]
theorem OnlyRegs.up (h : OnlyRegs s t) : t.up = s.up := by
  unfold State.up
  rw [h]

theorem MbxOnly.sec (h : MbxOnly s t) : t.sec = s.sec := h.rest.sec

/-- A register that holds the request, the partitions or the security state. -/
theorem MbxOnly.rbit (h : MbxOnly s t) {a : Nat} (ha : a ≠ rMbxCtl) (i : Nat) : t.rbit a i = s.rbit a i :=
  rbit_of_reg (h.regs a ha) i

theorem MbxOnly.fld (h : MbxOnly s t) {a : Nat} (ha : a ≠ rMbxCtl) (hi lo : Nat) : t.fld a hi lo = s.fld a hi lo :=
  fld_of_reg (h.regs a ha) hi lo

theorem MbxOnly.reqBytes (h : MbxOnly s t) (len : Nat) : Machine.reqBytes t len = Machine.reqBytes s len := by
  have hword : ∀ k, t.reg (secR (0x1000 + 8 * k)) = s.reg (secR (0x1000 + 8 * k)) := fun k =>
    h.regs _ (by unfold rMbxCtl secR; omega)
  unfold Machine.reqBytes
  simp only [hword]

theorem MbxOnly.objCheck (h : MbxOnly s t) (want : List Nat) (b : List Byte) :
    Machine.objCheck t want b = Machine.objCheck s want b := objCheck_congr h.sec want b

theorem MbxOnly.nonceBad (h : MbxOnly s t) (b : List Byte) : Machine.nonceBad t b = Machine.nonceBad s b := by
  unfold Machine.nonceBad
  rw [h.sec]

theorem MbxOnly.allDisabled (h : MbxOnly s t) : Machine.allDisabled t = Machine.allDisabled s := by
  have hstate : ∀ p, partState t p = partState s p := fun p => h.fld (by unfold rPartCtl hubR rMbxCtl secR; omega) 3 2
  unfold Machine.allDisabled
  simp only [hstate]

theorem MbxOnly.lifeAllowed (h : MbxOnly s t) (b : List Byte) : Machine.lifeAllowed t b = Machine.lifeAllowed s b := by
  unfold Machine.lifeAllowed
  rw [h.sec, h.allDisabled]

theorem MbxOnly.entryStatus (h : MbxOnly s t) (level : Nat) (keep : Bool) :
    Machine.entryStatus t level keep = Machine.entryStatus s level keep := by
  unfold Machine.entryStatus
  rw [h.sec, h.allDisabled]

theorem MbxOnly.d1 (h : MbxOnly s t) : t.rbit rSecState 10 = s.rbit rSecState 10 := h.rbit (by decide) 10

/-! ### STATUS -/

/-- The command has ended with STATUS `st`. -/
def Ended (t : State) (st : Nat) : Prop := t.fld rMbxCtl 27 24 = st ∧ t.rbit rMbxCtl 19 = false ∧ t.rbit rMbxCtl 20 = true

theorem mbxDone_ended (s : State) {st : Nat} (hst : st < 16) : Ended (mbxDone s st) st := by
  unfold mbxDone
  refine ⟨?_, ?_, rbit_setRBit_same _ _ (by decide) _⟩
  · rw [fld_setRBit_outside _ _ (by decide), fld_setRBit_outside _ _ (by decide)]
    exact fld_setFld_fits _ _ (by decide) hst
  · rw [rbit_setRBit_other _ _ (by decide)]
    exact rbit_setRBit_same _ _ (by decide) _

theorem secCommand_busy (hup : s.up = true) (hbusy : s.rbit rMbxCtl 19 = true) (q : DbgPort) (f : State → State) :
    secCommand q s f = s.setFld rMbxCtl 27 24 1 := by
  unfold secCommand
  rw [if_pos hup, if_pos hbusy]

theorem secCommand_free (hup : s.up = true) (hfree : s.rbit rMbxCtl 19 = false) (q : DbgPort) (f : State → State) :
    secCommand q s f = f (s.setRBit rMbxCtl 20 false) := by
  unfold secCommand
  rw [if_pos hup, if_neg (ne_true_of_eq_false hfree)]

/-- SUBMIT finds the mailbox free and does not make it busy. -/
theorem rbit_setSubmit_busy (s : State) (kind len : Nat) : (setSubmit s kind len).rbit rMbxCtl 19 = s.rbit rMbxCtl 19 := by
  unfold setSubmit
  rw [rbit_setFld_other _ _ (by decide) (by decide), rbit_setFld_other _ _ (by decide) (by decide)]

/-! ### The checks of a lifecycle command and of a token -/

theorem objCheck_lt (s : State) (want : List Nat) (b : List Byte) : objCheck s want b < 16 := by
  unfold objCheck
  dsimp only
  split_ifs <;> decide

theorem entryStatus_lt (s : State) (level : Nat) (keep : Bool) : entryStatus s level keep < 16 := by
  unfold entryStatus
  split_ifs <;> decide

/-- The first check of a lifecycle command that fails decides; its nonce is used up once it has been compared. -/
theorem lifeCheck_eq (s : State) (b : List Byte) : lifeCheck s b =
    if objCheck s [0x10] b ≠ 0 then (s, objCheck s [0x10] b)
    else if serialBad b then (s, 8)
    else if nonceBad s b then (dropNonce s, 9)
    else (dropNonce s, if !lifeFormat b then 2 else if !lifeAllowed s b then 10 else 0) := rfl

theorem lifeCheck_lt (s : State) (b : List Byte) : (lifeCheck s b).2 < 16 := by
  have hobj := objCheck_lt s [0x10] b
  rw [lifeCheck_eq]
  split_ifs <;> simp [hobj]

/-- A check leaves the state, or its nonce is used up. -/
theorem lifeCheck_state (s : State) (b : List Byte) : (lifeCheck s b).1 = s ∨ (lifeCheck s b).1 = dropNonce s := by
  rw [lifeCheck_eq]
  split_ifs <;> simp

theorem lifeCheck_zero_iff (s : State) (b : List Byte) : (lifeCheck s b).2 = 0 ↔
    objCheck s [0x10] b = 0 ∧ serialBad b = false ∧ nonceBad s b = false ∧ lifeFormat b = true ∧ lifeAllowed s b = true := by
  rw [lifeCheck_eq]
  split_ifs <;> simp_all

theorem lifeCheck_accepted {b : List Byte} (h : (lifeCheck s b).2 = 0) : (lifeCheck s b).1 = dropNonce s := by
  obtain ⟨hobj, hserial, hnonce, -, -⟩ := (lifeCheck_zero_iff s b).mp h
  rw [lifeCheck_eq, if_neg (not_not.mpr hobj), hserial, hnonce]
  rfl

theorem MbxOnly.lifeCheck (h : MbxOnly s t) (b : List Byte) : (Machine.lifeCheck t b).2 = (Machine.lifeCheck s b).2 := by
  rw [lifeCheck_eq, lifeCheck_eq, h.objCheck, h.nonceBad, h.lifeAllowed]
  split_ifs <;> rfl

/-- The first two checks of an accepted object: its format, and its TYPE. -/
theorem objCheck_accepted {want : List Nat} {b : List Byte} (h : objCheck s want b = 0) :
    objFormat b = true ∧ want.contains (oType b) = true := by
  unfold objCheck at h
  dsimp only at h
  split_ifs at h with hformat hwant
  exact ⟨by simpa using hformat, by simpa using hwant⟩

/-- An object of TYPE 0x11 that is accepted holds a whole token. -/
theorem length_of_token {b : List Byte} (h : objCheck s [0x11] b = 0) : 1029 ≤ b.length := by
  obtain ⟨hformat, hwant⟩ := objCheck_accepted h
  have htype : oType b = 0x11 := by simpa using hwant
  unfold objFormat at hformat
  simp only [Bool.and_eq_true, decide_eq_true_eq] at hformat
  obtain ⟨⟨-, hpay⟩, hlen⟩ := hformat
  have hbytes : oBytes b = 64 := by simpa [payloadOk, htype] using hpay
  omega

theorem tokenCheck_eq (s : State) (b : List Byte) : tokenCheck s b =
    if 1029 ≤ b.length ∧ levelOk s.sec.fuses.life (bF b 1028 1) true (s.rbit rSecState 10) = false then (s, 10)
    else if objCheck s [0x11] b ≠ 0 then (s, objCheck s [0x11] b)
    else if serialBad b then (s, 8)
    else if nonceBad s b then (dropNonce s, 9)
    else (dropNonce s, if !tokenFormat b then 2 else entryStatus s (payF b 4 1) (payF b 5 1 = 1)) := rfl

theorem tokenCheck_lt (s : State) (b : List Byte) : (tokenCheck s b).2 < 16 := by
  have hobj := objCheck_lt s [0x11] b
  have hentry := entryStatus_lt s (payF b 4 1) (payF b 5 1 = 1)
  rw [tokenCheck_eq]
  split_ifs <;> simp [hobj, hentry]

theorem tokenCheck_state (s : State) (b : List Byte) : (tokenCheck s b).1 = s ∨ (tokenCheck s b).1 = dropNonce s := by
  rw [tokenCheck_eq]
  split_ifs <;> simp

theorem tokenCheck_zero_iff (s : State) (b : List Byte) : (tokenCheck s b).2 = 0 ↔
    objCheck s [0x11] b = 0 ∧ levelOk s.sec.fuses.life (bF b 1028 1) true (s.rbit rSecState 10) = true ∧
      serialBad b = false ∧ nonceBad s b = false ∧ tokenFormat b = true ∧
      entryStatus s (payF b 4 1) (decide (payF b 5 1 = 1)) = 0 := by
  have hlen := length_of_token (s := s) (b := b)
  rw [tokenCheck_eq]
  split_ifs <;> simp_all

theorem tokenCheck_accepted {b : List Byte} (h : (tokenCheck s b).2 = 0) : (tokenCheck s b).1 = dropNonce s := by
  obtain ⟨hobj, hlevel, hserial, hnonce, -, -⟩ := (tokenCheck_zero_iff s b).mp h
  have hpermits : ¬ (1029 ≤ b.length ∧ levelOk s.sec.fuses.life (bF b 1028 1) true (s.rbit rSecState 10) = false) :=
    fun h => absurd (hlevel.symm.trans h.2) (by decide)
  rw [tokenCheck_eq, if_neg hpermits, if_neg (not_not.mpr hobj), hserial, hnonce]
  rfl

theorem MbxOnly.tokenCheck (h : MbxOnly s t) (b : List Byte) : (Machine.tokenCheck t b).2 = (Machine.tokenCheck s b).2 := by
  rw [tokenCheck_eq, tokenCheck_eq, h.objCheck, h.nonceBad, h.entryStatus, h.sec, h.d1]
  split_ifs <;> rfl

end Sys2Proof.Machine
end

section
/-! PROOF. The nonce and the lifecycle commands (R542, R543, R545). -/

namespace Sys2Proof.Machine

variable {s t u : State}

/-! ### What the security controller's work touches -/

/-- Registers, the hub, messages and the security controller's own state alone differ. -/
def SecWork (s t : State) : Prop := t = { s with regs := t.regs, hub := t.hub, out := t.out, sec := t.sec }

theorem SecWork.trans (h : SecWork s t) (g : SecWork t u) : SecWork s u := by
  unfold SecWork at *
  rw [g, h]

theorem OnlyRegs.secWork (h : OnlyRegs s t) : SecWork s t := by
  unfold SecWork
  rw [h]

theorem Reported.secWork (h : Reported s t) : SecWork s t := by
  unfold SecWork
  rw [h.rest]

theorem HubAndOut.secWork (h : HubAndOut s t) : SecWork s t := by
  unfold SecWork
  rw [h]

theorem secWork_sec (s : State) (x : Sec) : SecWork s { s with sec := x } := rfl

theorem Reported.sec (h : Reported s t) : t.sec = s.sec := by rw [h.rest]

theorem HubAndOut.sec (h : HubAndOut s t) : t.sec = s.sec := by rw [h]

/-! ### The nonce -/

/-- The nonce that NEW_NONCE gives. -/
def nonceGiven (s : State) : State :=
  { s with fresh := s.fresh + 4, sec := { s.sec with nonce := some (freshBytes s 4) } }

theorem doNewNonce_free (hup : s.up = true) (hfree : s.rbit rMbxCtl 19 = false) (q : DbgPort) :
    doNewNonce q s = mbxDone ((nonceGiven (s.setRBit rMbxCtl 20 false)).setRBit rSecState 11 true) 0 := by
  unfold doNewNonce
  rw [secCommand_free hup hfree]
  rfl

theorem freshBytes_length (s : State) (n : Nat) : (freshBytes s n).length = n * 8 := words_length n 8 _

theorem doNewNonce_rest (s : State) : mbxDone ((nonceGiven (s.setRBit rMbxCtl 20 false)).setRBit rSecState 11 true) 0 =
    { s with
      regs := (mbxDone ((nonceGiven (s.setRBit rMbxCtl 20 false)).setRBit rSecState 11 true) 0).regs
      fresh := s.fresh + 4
      sec := { s.sec with nonce := some (freshBytes s 4) } } := rfl

theorem dropNonce_gone (s : State) : (dropNonce s).rbit rSecState 11 = false := rbit_setRBit_same _ _ (by decide) _

theorem dropNonce_secWork (s : State) : SecWork s (dropNonce s) := rfl

theorem dropNonce_sec (s : State) : (dropNonce s).sec = { s.sec with nonce := none } := rfl

/-! ### A submitted lifecycle command -/

/-- A SUBMIT of KIND and LEN that the mailbox takes. -/
def submitted (s : State) (kind len : Nat) : State := (setSubmit s kind len).setRBit rMbxCtl 20 false

theorem submitted_mbxOnly (s : State) (kind len : Nat) : MbxOnly s (submitted s kind len) :=
  (setSubmit_mbxOnly _ _ _).trans (setRBit_mbxOnly _ _ _)

/-- The command's effect on nonce, key and fuses. -/
def lifeApplied (s : State) (b : List Byte) : State :=
  let c := lifeCheck s b
  if c.2 ≠ 0 then c.1
  else
    let z := if decide (payF b 4 1 = 3) then zeroise c.1 else c.1
    { z with sec := { z.sec with fuses := lifeFuses b z.sec.fuses } }

/-- Event 0x0706 follows. -/
def lifeReported (s : State) (b : List Byte) : State :=
  event0 (lifeApplied s b) 0x0706 8 none [put (payF b 4 1) 0 ||| put (lifeCheck s b).2 8, put (payF b 5 1) 0]

theorem lifeSubmit_free (hup : s.up = true) (hfree : s.rbit rMbxCtl 19 = false) (q : DbgPort) (len : Nat) :
    lifeSubmit q len s =
      if (lifeCheck (submitted s 1 len) (reqBytes s len)).2 = 0 ∧ decide (payF (reqBytes s len) 4 1 = 3) = true then
        ((scrubBegin (lifeReported (submitted s 1 len) (reqBytes s len))).setFld rMbxCtl 27 24 0).setRBit rMbxCtl 19 true
      else mbxDone (lifeReported (submitted s 1 len) (reqBytes s len)) (lifeCheck (submitted s 1 len) (reqBytes s len)).2 := by
  have hbusy : (setSubmit s 1 len).rbit rMbxCtl 19 = false := (rbit_setSubmit_busy s 1 len).trans hfree
  have hup' : (setSubmit s 1 len).up = true := hup
  unfold lifeSubmit
  rw [if_neg (ne_true_of_eq_false hfree), secCommand_free hup' hbusy]
  dsimp only
  rw [← (submitted_mbxOnly s 1 len).reqBytes]
  rfl

theorem lifeApplied_secWork (s : State) (b : List Byte) : SecWork s (lifeApplied s b) := by
  have hstate : SecWork s (lifeCheck s b).1 := by
    rcases lifeCheck_state s b with h | h <;> rw [h]
    · rfl
    · exact dropNonce_secWork s
  unfold lifeApplied
  dsimp only
  split
  · exact hstate
  · split
    · exact hstate.trans rfl
    · exact hstate.trans rfl

theorem lifeReported_secWork (s : State) (b : List Byte) : SecWork s (lifeReported s b) :=
  (lifeApplied_secWork s b).trans (event0_reported _ _ _ _ _).secWork

/-- A refused command blows no fuse. -/
theorem lifeReported_refused {b : List Byte} (h : (lifeCheck s b).2 ≠ 0) : (lifeReported s b).sec.fuses = s.sec.fuses := by
  have happlied : lifeApplied s b = (lifeCheck s b).1 := if_pos h
  unfold lifeReported
  rw [(event0_reported _ _ _ _ _).sec, happlied]
  rcases lifeCheck_state s b with h | h <;> rw [h]
  rfl

/-- An accepted DEPLOY or REVOKE. -/
theorem lifeReported_accepted {b : List Byte} (h : (lifeCheck s b).2 = 0) (hcode : payF b 4 1 ≠ 3) :
    (lifeReported s b).sec = { s.sec with nonce := none, fuses := lifeFuses b s.sec.fuses } := by
  have happlied : lifeApplied s b = { dropNonce s with sec := { (dropNonce s).sec with fuses := lifeFuses b (dropNonce s).sec.fuses } } := by
    unfold lifeApplied
    dsimp only
    rw [if_neg (not_not.mpr h), lifeCheck_accepted h, decide_eq_false hcode]
    rfl
  unfold lifeReported
  rw [(event0_reported _ _ _ _ _).sec, happlied]
  rfl

/-- An accepted RETURN, before its scrub. -/
theorem lifeApplied_return {b : List Byte} (h : (lifeCheck s b).2 = 0) (hcode : payF b 4 1 = 3) :
    lifeApplied s b = { zeroise (dropNonce s) with
      sec := { (zeroise (dropNonce s)).sec with fuses := lifeFuses b (zeroise (dropNonce s)).sec.fuses } } := by
  unfold lifeApplied
  dsimp only
  rw [if_neg (not_not.mpr h), lifeCheck_accepted h, decide_eq_true hcode]
  rfl

theorem lifeAllowed_return {b : List Byte} (hcode : payF b 4 1 = 3) (h : lifeAllowed s b = true) : s.sec.fuses.life = 2 := by
  unfold lifeAllowed at h
  simp only [hcode, Bool.and_eq_true, decide_eq_true_eq] at h
  exact h.1

theorem lifeFuses_return {b : List Byte} (hcode : payF b 4 1 = 3) (f : Fuses) : lifeFuses b f = { f with life := 3 } := by
  unfold lifeFuses
  simp only [hcode]

theorem lifeFuses_revoke {b : List Byte} (hcode : payF b 4 1 = 2) (f : Fuses) :
    lifeFuses b f = { f with slot := setBit f.slot (8 * payF b 5 1 + 1) true } := by
  unfold lifeFuses
  simp only [hcode]

/-- UDS_KILL is blown, and only a BLANK module keeps its provisioning block. -/
theorem zeroise_sec (s : State) : (zeroise s).sec = { s.sec with
    fuses := { s.sec.fuses with kill := true }, erased := s.sec.erased || s.sec.fuses.life ≠ 0 } := rfl

/-- The fuses and the key of a module that RETURN has zeroised. -/
theorem lifeReported_return {b : List Byte} (h : (lifeCheck s b).2 = 0) (hcode : payF b 4 1 = 3) :
    (lifeReported s b).sec = { s.sec with nonce := none, fuses := { s.sec.fuses with life := 3, kill := true }, erased := true } ∧
      (lifeReported s b).rbit rSecState 9 = false := by
  obtain ⟨-, -, -, -, hallowed⟩ := (lifeCheck_zero_iff s b).mp h
  have hlife := lifeAllowed_return hcode hallowed
  have hrep := event0_reported (lifeApplied s b) 0x0706 8 none [put (payF b 4 1) 0 ||| put (lifeCheck s b).2 8, put (payF b 5 1) 0]
  refine ⟨?_, ?_⟩
  · unfold lifeReported
    rw [hrep.sec, lifeApplied_return h hcode, lifeFuses_return hcode]
    dsimp only
    rw [zeroise_sec, dropNonce_sec, hlife]
    simp
  · unfold lifeReported
    rw [rbit_of_reg (hrep.reg_above (by decide)) 9, lifeApplied_return h hcode]
    exact rbit_setRBit_same _ _ (by decide) _

/-! ### The slots that DEPLOY programs -/

/-- What was inserted is found under its key. -/
theorem find?_smInsert_same {α : Type} (m : SMap α) (k : Nat) (v : α) :
    (smInsert m k v).find? (fun p => decide (p.1 = k)) = some (k, v) := by
  induction m with
  | nil => simp [smInsert]
  | cons p m ih =>
    unfold smInsert
    split_ifs with hlt heq
    · simp
    · simp
    · rw [List.find?_cons_of_neg (by simpa using heq), ih]

/-- Another key's entry is found as before. -/
theorem find?_smInsert_other {α : Type} {j k : Nat} (h : j ≠ k) (m : SMap α) (v : α) :
    (smInsert m k v).find? (fun p => decide (p.1 = j)) = m.find? fun p => decide (p.1 = j) := by
  have hk : ¬ decide ((k, v).1 = j) = true := by simpa using h.symm
  induction m with
  | nil => exact List.find?_cons_of_neg hk
  | cons p m ih =>
    unfold smInsert
    split_ifs with hlt heq
    · exact List.find?_cons_of_neg hk
    · simp [heq, h.symm]
    · rw [List.find?_cons, List.find?_cons, ih]

/-- The fuses of slot `k`, where ARG of DEPLOY names it. -/
def slotDeployed (b : List Byte) (f : Fuses) (k : Nat) : Fuses :=
  if payF b 5 1 / 2 ^ k % 2 = 1 then
    { f with slot := setBits f.slot (8 * k + 7) (8 * k) 0x81
             hash := smInsert f.hash k (digestOf (((oPayload b).drop (32 * k)).take 32)) }
  else f

theorem lifeFuses_deploy {b : List Byte} (hcode : payF b 4 1 = 1) (f : Fuses) :
    lifeFuses b f = slotDeployed b (slotDeployed b { f with life := 2 } 2) 3 := by
  unfold lifeFuses
  simp only [hcode]
  rfl

theorem slotDeployed_life (b : List Byte) (f : Fuses) (k : Nat) : (slotDeployed b f k).life = f.life := by
  unfold slotDeployed
  split <;> rfl

/-- Slot `k` is programmed with both usage bits, and holds the hash of the payload. -/
def SlotHolds (b : List Byte) (f : Fuses) (k : Nat) : Prop :=
  bits f.slot (8 * k + 7) (8 * k) = 0x81 ∧
    f.hash.find? (fun p => decide (p.1 = k)) = some (k, digestOf (((oPayload b).drop (32 * k)).take 32))

theorem slotDeployed_holds {b : List Byte} {k : Nat} (hk : k < 4) (hnamed : payF b 5 1 / 2 ^ k % 2 = 1) (f : Fuses) :
    SlotHolds b (slotDeployed b f k) k := by
  unfold slotDeployed
  rw [if_pos hnamed]
  refine ⟨?_, find?_smInsert_same _ _ _⟩
  have hwidth : 8 * k + 7 - 8 * k + 1 = 8 := by omega
  rw [bits_setBits_same _ _ _ _ (by omega), hwidth]
  rfl

/-- A slot programmed before stays as it is. -/
theorem SlotHolds.deployed {b : List Byte} {f : Fuses} {j k : Nat} (h : SlotHolds b f j) (hjk : j < k) :
    SlotHolds b (slotDeployed b f k) j := by
  unfold slotDeployed
  split
  · refine ⟨?_, (find?_smInsert_other (by omega) _ _).trans h.2⟩
    rw [bits_setBits_other _ _ _ _ _ _ (by omega)]
    exact h.1
  · exact h

/-- DEPLOY: the module is DEPLOYED, and each slot that ARG names is programmed. -/
theorem lifeFuses_deployed {b : List Byte} (hcode : payF b 4 1 = 1) (f : Fuses) : (lifeFuses b f).life = 2 ∧
    ∀ k, k = 2 ∨ k = 3 → payF b 5 1 / 2 ^ k % 2 = 1 → SlotHolds b (lifeFuses b f) k := by
  rw [lifeFuses_deploy hcode]
  refine ⟨by rw [slotDeployed_life, slotDeployed_life], fun k hk hnamed => ?_⟩
  rcases hk with rfl | rfl
  · exact (slotDeployed_holds (by decide) hnamed _).deployed (by decide)
  · exact slotDeployed_holds (by decide) hnamed _

theorem keyHash_of_holds {b : List Byte} {k : Nat} (h : SlotHolds b t.sec.fuses k) :
    keyHash t k = digestOf (((oPayload b).drop (32 * k)).take 32) := by
  unfold keyHash
  rw [h.2]

/-! ### A scrub begins -/

theorem giveUp_hlines (s : State) (h : HostLine) : (giveUp s h).hub.hlines = s.hub.hlines := by
  unfold giveUp
  split
  · exact (hostRequest_requests _ _ _ _).hlines
  · exact (hostRequest_requests _ _ _ _).hlines

theorem dropLines_hlines (s : State) : (dropLines s).hub.hlines = [] := by
  unfold dropLines
  exact foldl_kept (g := fun s : State => s.hub.hlines) giveUp_hlines _ _

theorem scrubBegin_secWork (s : State) : SecWork s (scrubBegin s) :=
  (dropLines_hubAndOut s).secWork.trans (setRBit_only _ _ _ _).secWork

theorem scrubBegin_sec (s : State) : (scrubBegin s).sec = s.sec :=
  (setRBit_only _ _ _ _).sec.trans (dropLines_hubAndOut s).sec

theorem scrubBegin_scrubs (s : State) : (scrubBegin s).rbit rSecState 7 = true := rbit_setRBit_same _ _ (by decide) _

theorem scrubBegin_identity (s : State) : (scrubBegin s).rbit rSecState 9 = s.rbit rSecState 9 := by
  have hregs : (dropLines s).regs = s.regs := by rw [dropLines_hubAndOut s]
  exact (rbit_setRBit_other _ _ (by decide) _).trans (rbit_congr hregs _ _)

/-! ### The three commands -/

/-- A command that is not an accepted RETURN ends with its status. -/
theorem lifeSubmit_ends (hup : s.up = true) (hfree : s.rbit rMbxCtl 19 = false) (q : DbgPort) (len : Nat)
    (h : (lifeCheck s (reqBytes s len)).2 ≠ 0 ∨ payF (reqBytes s len) 4 1 ≠ 3) :
    lifeSubmit q len s =
      mbxDone (lifeReported (submitted s 1 len) (reqBytes s len)) (lifeCheck s (reqBytes s len)).2 := by
  have hstatus := (submitted_mbxOnly s 1 len).lifeCheck (reqBytes s len)
  rw [lifeSubmit_free hup hfree, hstatus, if_neg fun ⟨hzero, hret⟩ => h.elim (· hzero) (· (of_decide_eq_true hret))]

/-- What every lifecycle command leaves, and a refused one. -/
theorem lifeSubmit_tried (hup : s.up = true) (hfree : s.rbit rMbxCtl 19 = false) (q : DbgPort) (len : Nat) :
    SecWork s (lifeSubmit q len s) ∧ ((lifeCheck s (reqBytes s len)).2 ≠ 0 →
      Ended (lifeSubmit q len s) (lifeCheck s (reqBytes s len)).2 ∧ (lifeSubmit q len s).sec.fuses = s.sec.fuses) := by
  have hsub := submitted_mbxOnly s 1 len
  have hwork : SecWork s (lifeReported (submitted s 1 len) (reqBytes s len)) := hsub.rest.secWork.trans (lifeReported_secWork _ _)
  refine ⟨?_, fun hrefused => ?_⟩
  · rw [lifeSubmit_free hup hfree]
    split
    · exact (hwork.trans (scrubBegin_secWork _)).trans ((setFld_only _ _ _ _ _).trans (setRBit_only _ _ _ _)).secWork
    · exact hwork.trans (mbxDone_mbxOnly _ _).rest.secWork
  · have hrefused' : (lifeCheck (submitted s 1 len) (reqBytes s len)).2 ≠ 0 := by rwa [hsub.lifeCheck]
    rw [lifeSubmit_ends hup hfree q len (.inl hrefused)]
    refine ⟨mbxDone_ended _ (lifeCheck_lt _ _), ?_⟩
    rw [(mbxDone_mbxOnly _ _).sec, lifeReported_refused hrefused', hsub.sec]

/-- An accepted DEPLOY or REVOKE ends with STATUS 0, its fuses blown and the nonce used up. -/
theorem lifeSubmit_accepted (hup : s.up = true) (hfree : s.rbit rMbxCtl 19 = false) (q : DbgPort) (len : Nat)
    (hcode : payF (reqBytes s len) 4 1 ≠ 3) (hlife : (lifeCheck s (reqBytes s len)).2 = 0) :
    Ended (lifeSubmit q len s) 0 ∧ (lifeSubmit q len s).sec =
      { s.sec with nonce := none, fuses := lifeFuses (reqBytes s len) s.sec.fuses } := by
  have hsub := submitted_mbxOnly s 1 len
  have hlife' : (lifeCheck (submitted s 1 len) (reqBytes s len)).2 = 0 := by rwa [hsub.lifeCheck]
  rw [lifeSubmit_ends hup hfree q len (.inr hcode), hlife]
  refine ⟨mbxDone_ended _ (by decide), ?_⟩
  rw [(mbxDone_mbxOnly _ _).sec, lifeReported_accepted hlife' hcode, hsub.sec]

/-- An accepted RETURN zeroises, and stays BUSY until its scrub ends. -/
theorem lifeSubmit_return (hup : s.up = true) (hfree : s.rbit rMbxCtl 19 = false) (q : DbgPort) (len : Nat)
    (hcode : payF (reqBytes s len) 4 1 = 3) (hlife : (lifeCheck s (reqBytes s len)).2 = 0) :
    (lifeSubmit q len s).rbit rMbxCtl 19 = true ∧
      (lifeSubmit q len s).sec =
        { s.sec with nonce := none, fuses := { s.sec.fuses with life := 3, kill := true }, erased := true } ∧
      (lifeSubmit q len s).hub.hlines = [] ∧ (lifeSubmit q len s).rbit rSecState 7 = true ∧
      (lifeSubmit q len s).rbit rSecState 9 = false := by
  have hsub := submitted_mbxOnly s 1 len
  have hlife' : (lifeCheck (submitted s 1 len) (reqBytes s len)).2 = 0 := by rwa [hsub.lifeCheck]
  obtain ⟨hsec, hid⟩ := lifeReported_return hlife' hcode
  rw [hsub.sec] at hsec
  have hctl : MbxOnly (scrubBegin (lifeReported (submitted s 1 len) (reqBytes s len))) (lifeSubmit q len s) := by
    rw [lifeSubmit_free hup hfree, if_pos ⟨hlife', decide_eq_true hcode⟩]
    exact (setFld_mbxOnly _ _ _ _).trans (setRBit_mbxOnly _ _ _)
  refine ⟨?_, ?_, ?_, ?_, ?_⟩
  · rw [lifeSubmit_free hup hfree, if_pos ⟨hlife', decide_eq_true hcode⟩]
    exact rbit_setRBit_same _ _ (by decide) _
  · rw [hctl.sec, scrubBegin_sec, hsec]
  · have hhub : (lifeSubmit q len s).hub = (scrubBegin (lifeReported (submitted s 1 len) (reqBytes s len))).hub := by rw [hctl.rest]
    rw [hhub]
    exact dropLines_hlines _
  · rw [hctl.rbit (by decide), scrubBegin_scrubs]
  · rw [hctl.rbit (by decide), scrubBegin_identity, hid]

end Sys2Proof.Machine
end

section
/-! PROOF. Debug sessions (R544, R547 to R549). -/

namespace Sys2Proof.Machine

variable {s t u : State} {x : Session}

/-! ### A session opens -/

/-- The session is open with one entry of M7: the log has one entry more, SESSION_SEQ has counted, no other register of the
measurements moved, and no fuse. -/
def Opened (s t : State) (x : Session) : Prop :=
  t.sec.sess = some x ∧ t.sec.next = none ∧ t.sec.log.length = s.sec.log.length + 1 ∧
    t.fld rSecState 31 16 = (sessionSeq s + 1) % 65536 ∧
    (∀ i, i ≠ 7 → smGet 0 t.sec.meas i = smGet 0 s.sec.meas i) ∧ t.sec.fuses = s.sec.fuses

/-- What an opening reads of the state before it is the security controller's own state and SESSION_SEQ. -/
theorem Opened.of_same (h : Opened u t x) (hlog : u.sec.log = s.sec.log) (hmeas : u.sec.meas = s.sec.meas)
    (hfuses : u.sec.fuses = s.sec.fuses) (hseq : sessionSeq u = sessionSeq s) : Opened s t x := by
  obtain ⟨hsess, hnext, hlen, hcount, hkept, hblown⟩ := h
  rw [hlog] at hlen
  rw [hseq] at hcount
  rw [hmeas] at hkept
  exact ⟨hsess, hnext, hlen, hcount, hkept, hblown.trans hfuses⟩

/-- The request is off the list of those that wait, and SESSION_SEQ has counted. -/
def sessCounted (s : State) : State :=
  ({ s with sec := { s.sec with next := none } }).setFld rSecState 31 16 ((sessionSeq s + 1) % 65536)

/-- M7 extended and event 0x0701 written. -/
def sessLogged (s : State) (q : Session) : State :=
  event0 (extendDebug (sessCounted s) q.level q.port 1 q.flags q.tok) 0x0701 8 none
    [put q.level 0 ||| put q.port 2 ||| put (b2n q.keep) 4 ||| put (sessionSeq (sessCounted s)) 16,
      put (sessCounted s).sec.fuses.life 0]

/-- SEC_STATE shows the session. -/
def sessShown (s : State) (q : Session) : State :=
  ({ sessLogged s q with sec := { (sessLogged s q).sec with sess := some q } }).setFld rSecState 6 2
    (q.level + 4 * q.port + 16 * b2n q.keep)

theorem openSess_intime (hlate : x.late = false) : openSess s x = mbxDone (sessShown s x) 0 := by
  unfold openSess
  simp only [hlate]
  rfl

/-- One more entry of the log, one register of the measurements. -/
theorem extend_log (s : State) (i kind : Nat) (d rec : List Byte) (h : s.sec.log.length ≤ 63) :
    (extend s i kind d rec).sec.log.length = s.sec.log.length + 1 := by
  unfold extend
  rw [List.length_take, List.length_append]
  exact Nat.min_eq_right (Nat.succ_le_succ h)

theorem extend_meas (s : State) {i j : Nat} (h : j ≠ i) (kind : Nat) (d rec : List Byte) :
    smGet 0 (extend s i kind d rec).sec.meas j = smGet 0 s.sec.meas j := by
  unfold extend
  exact smGet_smSet_ne _ _ _ _ h

/-- Only the measurements and their log differ. -/
def Measured (s t : State) : Prop := t = { s with sec := { s.sec with meas := t.sec.meas, log := t.sec.log } }

theorem extend_measured (s : State) (i kind : Nat) (d rec : List Byte) : Measured s (extend s i kind d rec) := rfl

theorem Measured.secWork (h : Measured s t) : SecWork s t := by
  unfold Measured at h
  unfold SecWork
  rw [h]

theorem Measured.regs (h : Measured s t) : t.regs = s.regs := by rw [h]

theorem Measured.sec (h : Measured s t) : t.sec = { s.sec with meas := t.sec.meas, log := t.sec.log } := congrArg State.sec h

theorem extendDebug_measured (s : State) (level port ev flags : Nat) (tok : List Byte) :
    Measured s (extendDebug s level port ev flags tok) := by
  unfold extendDebug extendRec
  exact extend_measured _ _ _ _ _

theorem extendDebug_log (s : State) (level port ev flags : Nat) (tok : List Byte) (h : s.sec.log.length ≤ 63) :
    (extendDebug s level port ev flags tok).sec.log.length = s.sec.log.length + 1 := by
  unfold extendDebug extendRec
  exact extend_log _ _ _ _ _ h

theorem extendDebug_meas (s : State) {i : Nat} (h : i ≠ 7) (level port ev flags : Nat) (tok : List Byte) :
    smGet 0 (extendDebug s level port ev flags tok).sec.meas i = smGet 0 s.sec.meas i := by
  unfold extendDebug extendRec
  exact extend_meas _ h _ _ _

theorem sessCounted_secWork (s : State) : SecWork s (sessCounted s) :=
  (secWork_sec s { s.sec with next := none }).trans (setFld_only _ _ _ _ _).secWork

theorem sessCounted_sec (s : State) : (sessCounted s).sec = { s.sec with next := none } := rfl

theorem sessLogged_secWork (s : State) (q : Session) : SecWork s (sessLogged s q) :=
  ((sessCounted_secWork s).trans (extendDebug_measured _ _ _ _ _ _).secWork).trans (event0_reported _ _ _ _ _).secWork

theorem sessShown_secWork (s : State) (q : Session) : SecWork s (sessShown s q) :=
  ((sessLogged_secWork s q).trans (secWork_sec _ _)).trans (setFld_only _ _ _ _ _).secWork

/-- What the log entry of a session leaves of the security controller's state. -/
theorem sessLogged_sec (s : State) (q : Session) (h : s.sec.log.length ≤ 63) :
    (sessLogged s q).sec.next = none ∧ (sessLogged s q).sec.log.length = s.sec.log.length + 1 ∧
      (∀ i, i ≠ 7 → smGet 0 (sessLogged s q).sec.meas i = smGet 0 s.sec.meas i) ∧
      (sessLogged s q).sec.fuses = s.sec.fuses ∧ (sessLogged s q).sec.nonce = s.sec.nonce := by
  have hlen : (sessCounted s).sec.log.length ≤ 63 := h
  have hlog := extendDebug_log (sessCounted s) q.level q.port 1 q.flags q.tok hlen
  have hmeas := fun i (hi : i ≠ 7) => extendDebug_meas (sessCounted s) hi q.level q.port 1 q.flags q.tok
  have hrest := (extendDebug_measured (sessCounted s) q.level q.port 1 q.flags q.tok).sec
  unfold sessLogged
  rw [(event0_reported _ _ _ _ _).sec]
  rw [sessCounted_sec] at hrest hlog hmeas
  refine ⟨?_, hlog, hmeas, ?_, ?_⟩
  · rw [hrest]
  · rw [hrest]
  · rw [hrest]

theorem sessLogged_seq (s : State) (q : Session) : (sessLogged s q).fld rSecState 31 16 = (sessionSeq s + 1) % 65536 := by
  have hseq : (sessCounted s).fld rSecState 31 16 = (sessionSeq s + 1) % 65536 :=
    fld_setFld_fits _ _ (by decide) (Nat.mod_lt _ (by decide))
  unfold sessLogged
  rw [fld_of_reg ((event0_reported _ _ _ _ _).reg_above (by decide)) 31 16]
  exact (fld_of_reg (reg_congr (extendDebug_measured _ _ _ _ _ _).regs _) 31 16).trans hseq

/-- The session opens, and its request ends with STATUS 0. -/
theorem openSess_opened (hlate : x.late = false) (hlog : s.sec.log.length ≤ 63) :
    Opened s (openSess s x) x ∧ Ended (openSess s x) 0 ∧ SecWork s (openSess s x) ∧
      (openSess s x).sec.nonce = s.sec.nonce := by
  obtain ⟨hnext, hlen, hmeas, hfuses, hnonce⟩ := sessLogged_sec s x hlog
  have hdone := mbxDone_mbxOnly (sessShown s x) 0
  have hsec : (mbxDone (sessShown s x) 0).sec = { (sessLogged s x).sec with sess := some x } := by rw [hdone.sec]; rfl
  rw [openSess_intime hlate]
  refine ⟨?_, mbxDone_ended _ (by decide), (sessShown_secWork s x).trans hdone.rest.secWork, ?_⟩
  · unfold Opened
    rw [hsec, hdone.fld (by decide)]
    refine ⟨rfl, hnext, hlen, ?_, hmeas, hfuses⟩
    refine (fld_setFld_field _ _ (by decide) _).trans ?_
    exact sessLogged_seq s x
  · rw [hsec]
    exact hnonce

/-! ### A request is accepted -/

/-- The session that an accepted request opens once its entry has ended. -/
def entered (q : Session) (scr : Bool) : Session := { q with keep := q.level = 2 && !scr }

/-- The state in which the request waits for its entry. -/
def sessWaiting (s : State) (q : Session) : State :=
  let scr := entryScrubs s.sec.fuses.life q.level q.keep
  let s1 := if q.level = 3 then zeroise s else s
  let s2 := if scr then scrubBegin s1 else s1
  ({ s2 with sec := { s2.sec with next := some (entered q scr) } }).setRBit rMbxCtl 19 true

theorem enterSess_eq (s : State) (q : Session) : enterSess s q = openNext (sessWaiting s q) := rfl

theorem sessWaiting_next (s : State) (q : Session) :
    (sessWaiting s q).sec.next = some (entered q (entryScrubs s.sec.fuses.life q.level q.keep)) := rfl

theorem sessWaiting_secWork (s : State) (q : Session) : SecWork s (sessWaiting s q) := by
  unfold sessWaiting
  extract_lets scr s1 s2
  have h1 : SecWork s s1 := by
    unfold s1
    split
    · rfl
    · rfl
  have h2 : SecWork s1 s2 := by
    unfold s2
    split
    · exact scrubBegin_secWork s1
    · rfl
  exact ((h1.trans h2).trans (secWork_sec s2 _)).trans (setRBit_only _ _ _ _).secWork

theorem openSess_secWork (hlate : x.late = false) : SecWork s (openSess s x) := by
  rw [openSess_intime hlate]
  exact (sessShown_secWork s x).trans (mbxDone_mbxOnly _ _).rest.secWork

/-- Whether it opens at once or waits, what an accepted request touches. -/
theorem enterSess_secWork (s : State) {q : Session} (hlate : q.late = false) : SecWork s (enterSess s q) := by
  refine (sessWaiting_secWork s q).trans ?_
  rw [enterSess_eq]
  unfold openNext
  rw [sessWaiting_next]
  dsimp only
  split
  · rfl
  · exact openSess_secWork hlate

/-- The request waits, and its entry needs no scrub. -/
def sessPlain (s : State) (q : Session) : State :=
  ({ s with sec := { s.sec with next := some (entered q false) } }).setRBit rMbxCtl 19 true

/-- An entry without a scrub, of a level below 3. -/
theorem sessWaiting_plain {q : Session} (hentry : entryScrubs s.sec.fuses.life q.level q.keep = false) :
    sessWaiting s q = sessPlain s q := by
  have hlevel : q.level ≠ 3 := fun h => by
    unfold entryScrubs at hentry
    simp [h] at hentry
  unfold sessWaiting
  simp only [hentry, if_neg hlevel]
  rfl

/-- The session waits for no FLASH job. -/
theorem sessWaits_none {q : Session} (hflash : 2 ≤ q.level → longRunning s 7 = none) : sessWaits s q = false := by
  unfold sessWaits
  by_cases h2 : 2 ≤ q.level
  · rw [hflash h2]
    exact Bool.and_false _
  · rw [decide_eq_false h2, Bool.false_and]

/-- With no scrub and no FLASH job to wait for, the session opens at once. -/
theorem enterSess_atOnce {q : Session} (hentry : entryScrubs s.sec.fuses.life q.level q.keep = false) (hscrub : scrubbing s = false)
    (hflash : 2 ≤ q.level → longRunning s 7 = none) : enterSess s q = openSess (sessPlain s q) (entered q false) := by
  have hnext : (sessPlain s q).sec.next = some (entered q false) := rfl
  have hquiet : scrubbing (sessPlain s q) = false := (rbit_setRBit_at _ (by decide) _ _ _).trans hscrub
  have hlong : longRunning (sessPlain s q) 7 = longRunning s 7 := rfl
  have hwait : sessWaits (sessPlain s q) (entered q false) = false := sessWaits_none fun h2 => hlong.trans (hflash h2)
  rw [enterSess_eq, sessWaiting_plain hentry]
  unfold openNext
  rw [hnext]
  dsimp only
  rw [hquiet, hwait]
  rfl

theorem enterSess_opened {q : Session} (hentry : entryScrubs s.sec.fuses.life q.level q.keep = false) (hscrub : scrubbing s = false)
    (hflash : 2 ≤ q.level → longRunning s 7 = none) (hlate : q.late = false) (hlog : s.sec.log.length ≤ 63) :
    Opened s (enterSess s q) (entered q false) ∧ Ended (enterSess s q) 0 ∧ (enterSess s q).sec.nonce = s.sec.nonce := by
  obtain ⟨hopened, hended, -, hnonce⟩ := openSess_opened (s := sessPlain s q) (x := entered q false) hlate hlog
  have hseq : sessionSeq (sessPlain s q) = sessionSeq s := fld_setRBit_at _ (by decide) _ _ _ _
  rw [enterSess_atOnce hentry hscrub hflash]
  exact ⟨hopened.of_same rfl rfl rfl hseq, hended, hnonce⟩

/-- Where a request finds nothing against it, the log has room for two entries. -/
theorem log_of_entryStatus {level : Nat} {keep : Bool} (h : entryStatus s level keep = 0) : s.sec.log.length ≤ 62 := by
  unfold entryStatus at h
  split_ifs at h with hsess hscrub hlog
  omega

/-! ### DEBUG_REQUEST -/

/-- The request as the mailbox takes it. -/
def requested (s : State) (l : Nat) : State := ((setSubmit s 2 0).setFld rMbxCtl 18 17 l).setRBit rMbxCtl 20 false

theorem requested_mbxOnly (s : State) (l : Nat) : MbxOnly s (requested s l) :=
  ((setSubmit_mbxOnly _ _ _).trans (setFld_mbxOnly _ _ _ _)).trans (setRBit_mbxOnly _ _ _)

/-- The status of a request of level `l`. -/
def requestStatus (s : State) (l : Nat) : Nat :=
  if levelOk s.sec.fuses.life l false (s.rbit rSecState 10) then entryStatus s l false else 10

theorem MbxOnly.requestStatus (h : MbxOnly s t) (l : Nat) : Machine.requestStatus t l = Machine.requestStatus s l := by
  unfold Machine.requestStatus
  rw [h.sec, h.d1, h.entryStatus]

theorem doDebugRequest_free (hup : s.up = true) (hfree : s.rbit rMbxCtl 19 = false) (q : DbgPort) (l : BitVec 2) :
    doDebugRequest q l s = if requestStatus s l.toNat ≠ 0 then mbxDone (requested s l.toNat) (requestStatus s l.toNat)
      else enterSess (requested s l.toNat) ⟨l.toNat, portNo q, 0, [], 0, false, false⟩ := by
  have hbusy : ((setSubmit s 2 0).setFld rMbxCtl 18 17 l.toNat).rbit rMbxCtl 19 = false := by
    rw [rbit_setFld_other _ _ (by decide) (by decide), rbit_setSubmit_busy, hfree]
  have hup' : ((setSubmit s 2 0).setFld rMbxCtl 18 17 l.toNat).up = true := hup
  rw [← (requested_mbxOnly s l.toNat).requestStatus]
  unfold doDebugRequest
  dsimp only
  rw [if_neg (ne_true_of_eq_false hfree), secCommand_free hup' hbusy]
  rfl

/-! ### DEBUG_TOKEN -/

/-- The session that a token asks for. -/
def tokenSession (q : DbgPort) (b : List Byte) : Session :=
  ⟨payF b 4 1, portNo q, payF b 5 1, (sha256 b).take 20, payF b 48 4, payF b 5 1 = 1, false⟩

theorem doDebugToken_free (hup : s.up = true) (hfree : s.rbit rMbxCtl 19 = false) (q : DbgPort) (len : BitVec 13) :
    doDebugToken q len s =
      if (tokenCheck s (reqBytes s len.toNat)).2 ≠ 0 then
        mbxDone (tokenCheck (submitted s 2 len.toNat) (reqBytes s len.toNat)).1 (tokenCheck s (reqBytes s len.toNat)).2
      else enterSess (tokenCheck (submitted s 2 len.toNat) (reqBytes s len.toNat)).1 (tokenSession q (reqBytes s len.toNat)) := by
  have hbusy : (setSubmit s 2 len.toNat).rbit rMbxCtl 19 = false := (rbit_setSubmit_busy s 2 _).trans hfree
  have hup' : (setSubmit s 2 len.toNat).up = true := hup
  rw [← (submitted_mbxOnly s 2 len.toNat).tokenCheck, ← (submitted_mbxOnly s 2 len.toNat).reqBytes]
  unfold doDebugToken
  rw [if_neg (ne_true_of_eq_false hfree), secCommand_free hup' hbusy]
  rfl

/-- What the check of a token leaves, beside its nonce. -/
theorem tokenCheck_kept (s : State) (b : List Byte) : SecWork s (tokenCheck s b).1 ∧
    (tokenCheck s b).1.sec.sess = s.sec.sess ∧ (tokenCheck s b).1.sec.fuses = s.sec.fuses := by
  rcases tokenCheck_state s b with h | h <;> rw [h]
  · exact ⟨rfl, rfl, rfl⟩
  · exact ⟨rfl, rfl, rfl⟩

theorem doDebugToken_secWork (hup : s.up = true) (hfree : s.rbit rMbxCtl 19 = false) (q : DbgPort) (len : BitVec 13) :
    SecWork s (doDebugToken q len s) := by
  have hwork : SecWork s (tokenCheck (submitted s 2 len.toNat) (reqBytes s len.toNat)).1 :=
    (submitted_mbxOnly s 2 len.toNat).rest.secWork.trans (tokenCheck_kept _ _).1
  rw [doDebugToken_free hup hfree]
  split
  · exact hwork.trans (mbxDone_mbxOnly _ _).rest.secWork
  · exact hwork.trans (enterSess_secWork _ rfl)

/-- A refused token. -/
theorem doDebugToken_refused (hup : s.up = true) (hfree : s.rbit rMbxCtl 19 = false) (q : DbgPort) (len : BitVec 13)
    (h : (tokenCheck s (reqBytes s len.toNat)).2 ≠ 0) :
    Ended (doDebugToken q len s) (tokenCheck s (reqBytes s len.toNat)).2 ∧ (doDebugToken q len s).sec.sess = s.sec.sess ∧
      (doDebugToken q len s).sec.fuses = s.sec.fuses := by
  obtain ⟨-, hsess, hfuses⟩ := tokenCheck_kept (submitted s 2 len.toNat) (reqBytes s len.toNat)
  rw [(submitted_mbxOnly s 2 len.toNat).sec] at hsess hfuses
  rw [doDebugToken_free hup hfree, if_pos h]
  refine ⟨mbxDone_ended _ (tokenCheck_lt _ _), ?_, ?_⟩
  · rw [(mbxDone_mbxOnly _ _).sec, hsess]
  · rw [(mbxDone_mbxOnly _ _).sec, hfuses]

/-- An accepted token uses up its nonce and opens its session. -/
theorem doDebugToken_opened (hup : s.up = true) (hfree : s.rbit rMbxCtl 19 = false) (q : DbgPort) (len : BitVec 13)
    (h : (tokenCheck s (reqBytes s len.toNat)).2 = 0)
    (hentry : entryScrubs s.sec.fuses.life (payF (reqBytes s len.toNat) 4 1) (decide (payF (reqBytes s len.toNat) 5 1 = 1)) = false)
    (hscrub : scrubbing s = false) (hflash : 2 ≤ payF (reqBytes s len.toNat) 4 1 → longRunning s 7 = none) :
    Ended (doDebugToken q len s) 0 ∧ (doDebugToken q len s).sec.nonce = none ∧
      Opened s (doDebugToken q len s) (entered (tokenSession q (reqBytes s len.toNat)) false) := by
  have hsub := submitted_mbxOnly s 2 len.toNat
  have h' : (tokenCheck (submitted s 2 len.toNat) (reqBytes s len.toNat)).2 = 0 := by rwa [hsub.tokenCheck]
  obtain ⟨-, -, -, -, -, hstatus⟩ := (tokenCheck_zero_iff _ _).mp h
  have hopens : doDebugToken q len s = enterSess (dropNonce (submitted s 2 len.toNat)) (tokenSession q (reqBytes s len.toNat)) := by
    rw [doDebugToken_free hup hfree, if_neg (not_not.mpr h), tokenCheck_accepted h']
  have hsec : (dropNonce (submitted s 2 len.toNat)).sec = { s.sec with nonce := none } := by rw [dropNonce_sec, hsub.sec]
  have hlong : longRunning (dropNonce (submitted s 2 len.toNat)) 7 = longRunning s 7 := rfl
  have hfuses : (dropNonce (submitted s 2 len.toNat)).sec.fuses = s.sec.fuses := by rw [hsec]
  have hlog : (dropNonce (submitted s 2 len.toNat)).sec.log = s.sec.log := by rw [hsec]
  have hmeas : (dropNonce (submitted s 2 len.toNat)).sec.meas = s.sec.meas := by rw [hsec]
  have hnot : scrubbing (dropNonce (submitted s 2 len.toNat)) = false :=
    (rbit_setRBit_other _ _ (by decide) _).trans ((hsub.rbit (by decide) 7).trans hscrub)
  have hseq : sessionSeq (dropNonce (submitted s 2 len.toNat)) = sessionSeq s :=
    (fld_setRBit_outside _ _ (by decide) _).trans (hsub.fld (by decide) 31 16)
  obtain ⟨hopened, hended, hnonce⟩ := enterSess_opened (s := dropNonce (submitted s 2 len.toNat))
    (q := tokenSession q (reqBytes s len.toNat)) (by rw [hfuses]; exact hentry) hnot (fun h2 => hlong.trans (hflash h2)) rfl
    (by rw [hlog]; exact (log_of_entryStatus hstatus).trans (by decide))
  rw [hopens]
  refine ⟨hended, hnonce.trans ?_, hopened.of_same hlog hmeas hfuses hseq⟩
  rw [hsec]

/-- A request that its level permits, with nothing against it. -/
theorem doDebugRequest_opened (hup : s.up = true) (hfree : s.rbit rMbxCtl 19 = false) (q : DbgPort) (l : BitVec 2)
    (hlevel : levelOk s.sec.fuses.life l.toNat false (s.rbit rSecState 10) = true) (hstatus : entryStatus s l.toNat false = 0)
    (hentry : entryScrubs s.sec.fuses.life l.toNat false = false) (hscrub : scrubbing s = false)
    (hflash : 2 ≤ l.toNat → longRunning s 7 = none) :
    SecWork s (doDebugRequest q l s) ∧ Ended (doDebugRequest q l s) 0 ∧
      Opened s (doDebugRequest q l s) (entered ⟨l.toNat, portNo q, 0, [], 0, false, false⟩ false) := by
  have hreq := requested_mbxOnly s l.toNat
  have hok : requestStatus s l.toNat = 0 := (if_pos hlevel).trans hstatus
  have hopens : doDebugRequest q l s = enterSess (requested s l.toNat) ⟨l.toNat, portNo q, 0, [], 0, false, false⟩ := by
    rw [doDebugRequest_free hup hfree, if_neg (not_not.mpr hok)]
  have hlong : longRunning (requested s l.toNat) 7 = longRunning s 7 := rfl
  have hlog : (requested s l.toNat).sec.log = s.sec.log := by rw [hreq.sec]
  have hmeas : (requested s l.toNat).sec.meas = s.sec.meas := by rw [hreq.sec]
  have hfuses : (requested s l.toNat).sec.fuses = s.sec.fuses := by rw [hreq.sec]
  obtain ⟨hopened, hended, -⟩ := enterSess_opened (s := requested s l.toNat)
    (q := ⟨l.toNat, portNo q, 0, [], 0, false, false⟩) (by rw [hfuses]; exact hentry) ((hreq.rbit (by decide) 7).trans hscrub)
    (fun h2 => hlong.trans (hflash h2)) rfl (by rw [hlog]; exact (log_of_entryStatus hstatus).trans (by decide))
  rw [hopens]
  exact ⟨hreq.rest.secWork.trans (enterSess_secWork _ rfl), hended,
    hopened.of_same hlog hmeas hfuses (hreq.fld (by decide) 31 16)⟩

/-- A request of a level that the lifecycle does not permit. -/
theorem doDebugRequest_refused (hup : s.up = true) (hfree : s.rbit rMbxCtl 19 = false) (q : DbgPort) (l : BitVec 2)
    (hlevel : levelOk s.sec.fuses.life l.toNat false (s.rbit rSecState 10) = false) :
    OnlyRegs s (doDebugRequest q l s) ∧ Ended (doDebugRequest q l s) 10 := by
  have hno : requestStatus s l.toNat = 10 := if_neg (ne_true_of_eq_false hlevel)
  rw [doDebugRequest_free hup hfree, hno, if_pos (by decide)]
  exact ⟨((requested_mbxOnly s l.toNat).trans (mbxDone_mbxOnly _ _)).rest, mbxDone_ended _ (by decide)⟩

end Sys2Proof.Machine
end

section
/-! PROOF. Sessions that close, scrubs that end, recovery loads and debug writes (R531, R544, R549, R550), and the obligation on
the mailbox. -/

namespace Sys2Proof.Machine

variable {s t u : State} {x : Session}

/-! ### A session closes -/

/-- No session is open, no context is halted by one, and the trace rings are empty. -/
def Closed (s t : State) : Prop :=
  t = { s with regs := t.regs, hub := t.hub, out := t.out, trace := [], sec := t.sec } ∧
    t.sec.sess = none ∧ t.sec.halted = [] ∧ t.fld rSecState 6 2 = 0 ∧ t.sec.fuses = s.sec.fuses

/-- The session is gone before its end is measured. -/
def sessGone (s : State) : State := { s with trace := [], sec := { s.sec with sess := none, halted := [] } }

/-- M7 takes the end of session `x`, and SEC_STATE shows it. -/
def sessMeasured (s : State) (x : Session) : State :=
  (extendDebug (sessGone s) x.level x.port 2 x.flags x.tok).setFld rSecState 6 2 0

theorem closeSess_open (hs : s.sec.sess = some x) (cause : Nat) : closeSess s cause =
    event0 (sessMeasured s x) 0x0702 8 none [put x.level 0 ||| put x.port 2 ||| put cause 4, put (sessionSeq s) 0] := by
  unfold closeSess
  rw [hs]
  rfl

theorem sessMeasured_secWork (s : State) (x : Session) : SecWork (sessGone s) (sessMeasured s x) :=
  (extendDebug_measured _ _ _ _ _ _).secWork.trans (setFld_only _ _ _ _ _).secWork

theorem sessMeasured_sec (s : State) (x : Session) : (sessMeasured s x).sec.sess = none ∧ (sessMeasured s x).sec.halted = [] ∧
    (sessMeasured s x).sec.fuses = s.sec.fuses := by
  have hsec : (sessMeasured s x).sec = (extendDebug (sessGone s) x.level x.port 2 x.flags x.tok).sec := (setFld_only _ _ _ _ _).sec
  have hrest := (extendDebug_measured (sessGone s) x.level x.port 2 x.flags x.tok).sec
  rw [hsec, hrest]
  exact ⟨rfl, rfl, rfl⟩

theorem closeSess_closed (hs : s.sec.sess = some x) (cause : Nat) : Closed s (closeSess s cause) := by
  rw [closeSess_open hs]
  have hrep := event0_reported (sessMeasured s x) 0x0702 8 none
    [put x.level 0 ||| put x.port 2 ||| put cause 4, put (sessionSeq s) 0]
  obtain ⟨hsess, hhalted, hfuses⟩ := sessMeasured_sec s x
  refine ⟨?_, ?_, ?_, ?_, ?_⟩
  · exact (sessMeasured_secWork s x).trans hrep.secWork
  · rw [hrep.sec, hsess]
  · rw [hrep.sec, hhalted]
  · rw [fld_of_reg (hrep.reg_above (by decide)) 6 2]
    exact fld_setFld_fits _ _ (by decide) (by decide)
  · rw [hrep.sec, hfuses]

theorem Closed.mbxDone (h : Closed s t) (st : Nat) : Closed s (Machine.mbxDone t st) := by
  obtain ⟨hrest, hsess, hhalted, hshown, hfuses⟩ := h
  have hdone := mbxDone_mbxOnly t st
  unfold Closed
  rw [hdone.sec, hdone.fld (by decide)]
  refine ⟨?_, hsess, hhalted, hshown, hfuses⟩
  have hwork := hdone.rest
  unfold OnlyRegs at hwork
  rw [hwork, hrest]

/-- The mailbox's own bits do not matter to what closes. -/
theorem Closed.of_mbxOnly (h : Closed u t) (hmbx : MbxOnly s u) : Closed s t := by
  obtain ⟨hrest, hsess, hhalted, hshown, hfuses⟩ := h
  refine ⟨?_, hsess, hhalted, hshown, hfuses.trans (by rw [hmbx.sec])⟩
  have hwork := hmbx.rest
  unfold OnlyRegs at hwork
  rw [hrest, hwork]

/-- CLOSE_SESSION, with the mailbox free. -/
theorem doCloseSession_free (hup : s.up = true) (hfree : s.rbit rMbxCtl 19 = false) (hs : s.sec.sess = some x) (q : DbgPort) :
    doCloseSession q s = if x.port = portNo q then mbxDone (closeSess (s.setRBit rMbxCtl 20 false) 1) 0
      else mbxDone (s.setRBit rMbxCtl 20 false) 10 := by
  have hs' : (s.setRBit rMbxCtl 20 false).sec.sess = some x := hs
  unfold doCloseSession
  rw [secCommand_free hup hfree]
  simp only [hs']

theorem doSessionDurationExpiry_closes (hs : s.sec.sess = some x) (hdur : x.dur ≠ 0) :
    doSessionDurationExpiry s = closeSess s 2 := by
  unfold doSessionDurationExpiry
  rw [hs]
  exact if_neg hdur

/-! ### A scrub ends -/

theorem zeros_all (n : Nat) : ∀ b, b ∈ zeros n → b = 0 := fun _ hb => List.eq_of_mem_replicate hb

/-- No byte, entry, vocabulary or user table is left. -/
theorem scrubEnd_zeros (s : State) : (∀ p, p ∈ (scrubEnd s).pipes → ∀ y, y ∈ p.2.vocab → y = 0) ∧
    ∀ c, c ∈ (scrubEnd s).ctxs → ∀ y, y ∈ c.2.tslot → ∀ z, z ∈ y.2 → z = 0 := by
  refine ⟨fun p hp y hy => ?_, fun c hc y hy z hz => ?_⟩
  · obtain ⟨p0, -, rfl⟩ := List.mem_map.mp hp
    exact zeros_all _ y hy
  · obtain ⟨c0, -, rfl⟩ := List.mem_map.mp hc
    obtain ⟨y0, -, rfl⟩ := List.mem_map.mp hy
    exact zeros_all _ z hz

theorem scrubEnd_quiet (s : State) : (scrubEnd s).rbit rSecState 7 = false := rbit_setRBit_same s _ (by decide) _

theorem scrubEnd_busy (s : State) : (scrubEnd s).rbit rMbxCtl 19 = s.rbit rMbxCtl 19 := rbit_setRBit_at s (by decide) _ _ _

theorem doDebugScrubDone_alone (hscrub : scrubbing s = true) (hnext : s.sec.next = none) :
    doDebugScrubDone s = if s.rbit rMbxCtl 19 then mbxDone (scrubEnd s) 0 else scrubEnd s := by
  have hnone : (scrubEnd s).sec.next.isSome = false := by
    have hsec : (scrubEnd s).sec.next = none := hnext
    rw [hsec]
    rfl
  unfold doDebugScrubDone
  rw [if_pos hscrub, ← scrubEnd_busy]
  dsimp only
  rw [hnone]
  rfl

/-! ### Recovery -/

/-- An object's check reads the fuses alone. -/
theorem objCheck_fuses (h : t.sec.fuses = s.sec.fuses) (want : List Nat) (b : List Byte) : objCheck t want b = objCheck s want b := by
  unfold objCheck keyHash svnOf
  rw [h]

/-- GO, and the lines of the object that follows. -/
def loadGoes (r : State) (obj : List Byte) : State :=
  let t := (r.setRBit rRcvCtl 1 true).setFld rRcvCtl 31 8 0
  { t with sec := { t.sec with load := obj } }

theorem doRecoveryLoad_goes (hphase : s.mod.phase = .recovery) (hport : anyPortUp s = true) (hfree : s.rbit rRcvCtl 1 = false)
    (obj : List Byte) : doRecoveryLoad obj s =
      if objCheck s [1, 2] obj = 0 then setSlot (loadGoes s obj) (oType obj) none else loadGoes s obj := by
  unfold doRecoveryLoad
  rw [if_neg (by simp [hphase, hport, hfree])]
  rfl

/-- What GO leaves of the state: its bit, the object, and the flash's slots. -/
structure LoadGone (r t : State) (obj : List Byte) : Prop where
  rest : t = { r with regs := t.regs, sec := { r.sec with load := obj, flash := t.sec.flash } }
  goes : t.rbit rRcvCtl 1 = true

theorem doRecoveryLoad_gone (hphase : s.mod.phase = .recovery) (hport : anyPortUp s = true) (hfree : s.rbit rRcvCtl 1 = false)
    (obj : List Byte) : LoadGone s (doRecoveryLoad obj s) obj := by
  have hgo : ((s.setRBit rRcvCtl 1 true).setFld rRcvCtl 31 8 0).rbit rRcvCtl 1 = true := by
    rw [rbit_setFld_other _ _ (by decide) (by decide)]
    exact rbit_setRBit_same _ _ (by decide) _
  rw [doRecoveryLoad_goes hphase hport hfree]
  split
  · exact ⟨rfl, hgo⟩
  · exact ⟨rfl, hgo⟩

/-- The object is judged, and one that is accepted and reads back takes its slot. -/
def loadJudged (s : State) (st : Nat) (b : List Byte) (back : Bool) : State :=
  if st ≠ 0 then s.setFld rRcvCtl 7 4 st
  else
    let t := s.setFld rRcvCtl 31 8 (ceilDiv (1024 + oBytes b) 1024)
    if back then (setSlot t (oType b) (some b)).setFld rRcvCtl 7 4 0 else t.setFld rRcvCtl 7 4 12

/-- BUSY falls and DONE rises. -/
def loadMarked (s : State) : State := (s.setRBit rRcvCtl 1 false).setRBit rRcvCtl 2 true

/-- DONE, and the object is gone. -/
def loadDone (s : State) : State := { loadMarked s with sec := { (loadMarked s).sec with load := [] } }

theorem doRecoveryLoadDone_judged (hphase : s.mod.phase = .recovery) (hgo : s.rbit rRcvCtl 1 = true) (back : Bool) :
    doRecoveryLoadDone back s = loadDone (loadJudged s (objCheck s [1, 2] s.sec.load) s.sec.load back) := by
  unfold doRecoveryLoadDone
  rw [if_neg (by simp [hphase, hgo])]
  rfl

theorem loadJudged_status (s : State) {st : Nat} (hst : st < 16) (b : List Byte) (back : Bool) :
    (loadJudged s st b back).fld rRcvCtl 7 4 = if st ≠ 0 then st else if back then 0 else 12 := by
  unfold loadJudged
  dsimp only
  split
  · exact fld_setFld_fits _ _ (by decide) hst
  · split
    · exact fld_setFld_fits _ _ (by decide) (by decide)
    · exact fld_setFld_fits _ _ (by decide) (by decide)

theorem imageSlot_setSlot (s : State) (ty : Nat) (v : Option (List Byte)) : imageSlot (setSlot s ty v) ty = v := by
  unfold imageSlot setSlot
  dsimp only
  rw [find?_smInsert_same]

theorem loadMarked_regs (s : State) : (loadMarked s).rbit rRcvCtl 1 = false ∧ (loadMarked s).rbit rRcvCtl 2 = true ∧
    (loadMarked s).fld rRcvCtl 7 4 = s.fld rRcvCtl 7 4 := by
  unfold loadMarked
  refine ⟨?_, rbit_setRBit_same _ _ (by decide) _, ?_⟩
  · rw [rbit_setRBit_other _ _ (by decide)]
    exact rbit_setRBit_same _ _ (by decide) _
  · rw [fld_setRBit_outside _ _ (by decide), fld_setRBit_outside _ _ (by decide)]

theorem loadDone_regs (s : State) : (loadDone s).regs = (loadMarked s).regs := rfl

theorem loadDone_imageSlot (s : State) (ty : Nat) : imageSlot (loadDone s) ty = imageSlot s ty := rfl

/-! ### Debug writes of stores -/

/-- One byte of a debug write, inside the stores. -/
def storeCell (size a : Nat) (m : SMap Byte) (p : Nat × Byte) : SMap Byte :=
  if a + p.1 < 1024 * size then smSet 0 m (a + p.1) p.2 else m

theorem smGet_storeCell (size a : Nat) (m : SMap Byte) (p : Nat × Byte) (y : Nat) :
    smGet 0 (storeCell size a m p) y = if y = a + p.1 ∧ y < 1024 * size then p.2 else smGet 0 m y := by
  unfold storeCell
  split
  · next hin =>
    rw [smGet_smSet]
    by_cases hy : y = a + p.1
    · rw [if_pos hy, if_pos ⟨hy, hy ▸ hin⟩]
    · rw [if_neg hy, if_neg fun h => hy h.1]
  · next hout =>
    have hnot : ¬ (y = a + p.1 ∧ y < 1024 * size) := fun ⟨hy, hin⟩ => hout (hy ▸ hin)
    rw [if_neg hnot]

/-- The bytes of a run with their places, one byte longer. -/
theorem zip_range_snoc (data : List Byte) (b : Byte) : (List.range (data ++ [b]).length).zip (data ++ [b]) =
    (List.range data.length).zip data ++ [(data.length, b)] := by
  rw [List.length_append, List.length_singleton, List.range_succ, List.zip_append (by simp)]
  rfl

/-- A run that is one byte longer. -/
theorem ite_snoc (a y n : Nat) (data : List Byte) (b v : Byte) :
    (if y = a + data.length ∧ y < n then b else if a ≤ y ∧ y < a + data.length ∧ y < n then data.getD (y - a) 0 else v) =
      if a ≤ y ∧ y < a + (data ++ [b]).length ∧ y < n then (data ++ [b]).getD (y - a) 0 else v := by
  rw [List.length_append, List.length_singleton]
  by_cases hlast : y = a + data.length ∧ y < n
  · have hin : a ≤ y ∧ y < a + (data.length + 1) ∧ y < n := by omega
    have hpos : y - a = data.length := by omega
    rw [if_pos hlast, if_pos hin, hpos, List.getD_append_right _ _ _ _ (le_refl _), Nat.sub_self]
    rfl
  · rw [if_neg hlast]
    by_cases hin : a ≤ y ∧ y < a + data.length ∧ y < n
    · have hin' : a ≤ y ∧ y < a + (data.length + 1) ∧ y < n := by omega
      rw [if_pos hin, if_pos hin', List.getD_append _ _ _ _ (by omega)]
    · have hout : ¬ (a ≤ y ∧ y < a + (data.length + 1) ∧ y < n) := by omega
      rw [if_neg hin, if_neg hout]

/-- Every byte of the run inside the stores reads as written, every other one as before. -/
theorem smGet_debugStore (m : SMap Byte) (size a : Nat) (data : List Byte) (y : Nat) : smGet 0 (debugStore m size a data) y =
    if a ≤ y ∧ y < a + data.length ∧ y < 1024 * size then data.getD (y - a) 0 else smGet 0 m y := by
  have hfold : ∀ d : List Byte, debugStore m size a d = ((List.range d.length).zip d).foldl (storeCell size a) m := fun _ => rfl
  induction data using List.reverseRecOn with
  | nil => exact (if_neg fun ⟨hlo, hhi, _⟩ => absurd hhi (by simpa using hlo)).symm
  | append_singleton data b ih =>
    rw [hfold, zip_range_snoc, List.foldl_append, List.foldl_cons, List.foldl_nil, smGet_storeCell, ← hfold, ih]
    exact ite_snoc a y (1024 * size) data b _

/-! ### The statement -/

/-- A command that finds BUSY. -/
theorem mailbox_busy (hup : s.up = true) (hbusy : s.rbit rMbxCtl 19 = true) (q : DbgPort) (l : BitVec 2) (len : BitVec 13) :
    doNewNonce q s = s.setFld rMbxCtl 27 24 1 ∧ doCloseSession q s = s.setFld rMbxCtl 27 24 1 ∧
      doDebugRequest q l s = s.setFld rMbxCtl 27 24 1 ∧ doDebugToken q len s = s.setFld rMbxCtl 27 24 1 := by
  refine ⟨secCommand_busy hup hbusy _ _, secCommand_busy hup hbusy _ _, ?_, ?_⟩
  · unfold doDebugRequest
    dsimp only
    rw [if_pos hbusy]
    exact secCommand_busy hup hbusy _ _
  · unfold doDebugToken
    rw [if_pos hbusy]
    exact secCommand_busy hup hbusy _ _

/-- The three lifecycle commands reach the mailbox by their CODE. -/
theorem lifecycle_submits {len : BitVec 13} (q : DbgPort) :
    (payF (reqBytes s len.toNat) 4 1 = 1 → doDeploy q len s = lifeSubmit q len.toNat s) ∧
      (payF (reqBytes s len.toNat) 4 1 = 2 → doRevoke q len s = lifeSubmit q len.toNat s) ∧
      (payF (reqBytes s len.toNat) 4 1 = 3 → doReturnLife q len s = lifeSubmit q len.toNat s) :=
  ⟨fun h => if_pos h, fun h => if_pos h, fun h => if_pos h⟩

/-- The slots that an accepted DEPLOY names. -/
theorem deployed_slots {b : List Byte} (hcode : payF b 4 1 = 1) {f : Fuses} (hsec : t.sec.fuses = lifeFuses b f) :
    t.sec.fuses.life = 2 ∧ ∀ k, k = 2 ∨ k = 3 → payF b 5 1 / 2 ^ k % 2 = 1 →
      bits t.sec.fuses.slot (8 * k + 7) (8 * k) = 0x81 ∧ keyHash t k = digestOf (((oPayload b).drop (32 * k)).take 32) := by
  obtain ⟨hlife, hslots⟩ := lifeFuses_deployed hcode f
  refine ⟨by rw [hsec, hlife], fun k hk hnamed => ?_⟩
  have hholds : SlotHolds b t.sec.fuses k := hsec ▸ hslots k hk hnamed
  exact ⟨hholds.1, keyHash_of_holds hholds⟩

/-- The load that follows GO, by what its check answers. -/
theorem recoveryLoadDone_spec {obj : List Byte} (hgone : LoadGone s t obj) (hphase : s.mod.phase = .recovery) (back : Bool) :
    ∃ u, exec (.recoveryLoadDone back) t = .next u ∧ u.rbit rRcvCtl 1 = false ∧ u.rbit rRcvCtl 2 = true ∧ u.sec.load = [] ∧
      u.fld rRcvCtl 7 4 = (if objCheck s [1, 2] obj ≠ 0 then objCheck s [1, 2] obj else if back then 0 else 12) ∧
      (objCheck s [1, 2] obj = 0 → back = true → imageSlot u (oType obj) = some obj) := by
  have hsec : t.sec = { s.sec with load := obj, flash := t.sec.flash } := congrArg State.sec hgone.rest
  have hload : t.sec.load = obj := by rw [hsec]
  have hcheck : objCheck t [1, 2] obj = objCheck s [1, 2] obj := objCheck_fuses (by rw [hsec]) _ _
  have hphase' : t.mod.phase = .recovery := by rw [hgone.rest]; exact hphase
  have hdone := doRecoveryLoadDone_judged hphase' hgone.goes back
  rw [hload, hcheck] at hdone
  obtain ⟨hbusy, hset, hstatus⟩ := loadMarked_regs (loadJudged t (objCheck s [1, 2] obj) obj back)
  have hregs := loadDone_regs (loadJudged t (objCheck s [1, 2] obj) obj back)
  refine ⟨_, next_congr hdone, (rbit_congr hregs _ _).trans hbusy, (rbit_congr hregs _ _).trans hset, rfl, ?_, fun hok hback => ?_⟩
  · refine (fld_of_reg (reg_congr hregs _) 7 4).trans (hstatus.trans ?_)
    exact loadJudged_status t (objCheck_lt _ _ _) obj back
  · rw [loadDone_imageSlot, hok, hback]
    exact imageSlot_setSlot _ _ _

/-- A debug write without a session, and one of the cores' stores with one. -/
theorem doDebugMemoryWrite_closed (hs : s.sec.sess = none) (sp : DebugSpace) (a : Nat) (data : List Byte) :
    doDebugMemoryWrite sp a data s = s := by
  unfold doDebugMemoryWrite
  rw [hs]
  exact if_pos (.inr rfl)

theorem doDebugMemoryWrite_open (hup : s.up = true) (hs : (s.sec.sess.any fun x => decide (2 ≤ x.level)) = true) (a : Nat)
    (data : List Byte) :
    doDebugMemoryWrite .coreStore a data s = { s with cstore := debugStore s.cstore 0x400000 a data } ∧
      doDebugMemoryWrite .accumulator a data s = { s with accm := debugStore s.accm 0x200000 a data } := by
  unfold doDebugMemoryWrite
  rw [hup, hs]
  exact ⟨rfl, rfl⟩

/-- The session that a request asks for is the one that opens. -/
theorem entered_request (l p : Nat) : entered ⟨l, p, 0, [], 0, false, false⟩ false = ⟨l, p, 0, [], 0, l = 2, false⟩ := by
  unfold entered
  simp

theorem entered_token (q : DbgPort) (b : List Byte) : entered (tokenSession q b) false =
    ⟨payF b 4 1, portNo q, payF b 5 1, (sha256 b).take 20, payF b 48 4, payF b 4 1 = 2, false⟩ := by
  unfold entered tokenSession
  simp

/-- Settles O54: each command by the rule of its section, once the mailbox has taken it. -/
theorem mailboxCommands : Obligations.MailboxCommands := by
  intro q len s hup b code arg ended reports life token tried opened closed
  refine ⟨fun hbusy l => ?_, fun hnonce => ?_, fun hfree => ⟨?_, lifeCheck_zero_iff s b, fun hcode => ?_, fun hcode => ?_,
    fun hcode => ?_, fun l hlevel hstatus hentry hscrub hflash => ?_, fun l hlevel => ?_, tokenCheck_zero_iff s b, ?_,
    fun x hs => ⟨fun hport => ?_, fun hport => ?_⟩⟩, fun x hs hdur => ?_, fun hscrub hnext => ?_, fun obj r hphase hport hgo => ?_,
    fun ad data => ⟨fun hs => ⟨?_, ?_⟩, fun hs sp => next_congr (doDebugMemoryWrite_closed hs sp _ data)⟩⟩
  · obtain ⟨hnonce, hclose, hrequest, htoken⟩ := mailbox_busy hup hbusy q l len
    exact ⟨next_congr hnonce, next_congr hclose, next_congr hrequest, next_congr htoken⟩
  · exact ⟨_, next_congr (if_neg hnonce), rfl, dropNonce_gone s⟩
  · refine ⟨_, freshBytes s 4, next_congr (doNewNonce_free hup hfree q), doNewNonce_rest s, freshBytes_length s 4, ?_,
      mbxDone_ended _ (by decide)⟩
    rw [(mbxDone_mbxOnly _ _).rbit (by decide)]
    exact rbit_setRBit_same _ _ (by decide) _
  · refine ⟨_, next_congr ((lifecycle_submits q).1 hcode), lifeSubmit_tried hup hfree q _, fun hlife => ?_⟩
    have hnot : payF b 4 1 ≠ 3 := fun h => absurd (hcode.symm.trans h) (by decide)
    obtain ⟨hended, hsec⟩ := lifeSubmit_accepted hup hfree q _ hnot hlife
    have hfuses : (lifeSubmit q len.toNat s).sec.fuses = lifeFuses b s.sec.fuses := by rw [hsec]
    obtain ⟨hdeployed, hslots⟩ := deployed_slots hcode hfuses
    refine ⟨hended, ?_, hdeployed, hslots⟩
    rw [hfuses]
    exact hsec
  · refine ⟨_, next_congr ((lifecycle_submits q).2.1 hcode), lifeSubmit_tried hup hfree q _, fun hlife => ?_⟩
    have hnot : payF b 4 1 ≠ 3 := fun h => absurd (hcode.symm.trans h) (by decide)
    obtain ⟨hended, hsec⟩ := lifeSubmit_accepted hup hfree q _ hnot hlife
    rw [lifeFuses_revoke hcode] at hsec
    exact ⟨hended, hsec⟩
  · exact ⟨_, next_congr ((lifecycle_submits q).2.2 hcode), lifeSubmit_tried hup hfree q _,
      fun hlife => lifeSubmit_return hup hfree q _ hcode hlife⟩
  · obtain ⟨hwork, hended, hopened⟩ := doDebugRequest_opened hup hfree q l hlevel hstatus hentry hscrub hflash
    rw [entered_request] at hopened
    exact ⟨_, rfl, hwork, hended, hopened⟩
  · exact ⟨_, rfl, doDebugRequest_refused hup hfree q l hlevel⟩
  · refine ⟨_, rfl, doDebugToken_secWork hup hfree q len, fun hrefused => doDebugToken_refused hup hfree q len hrefused,
      fun htoken hentry hscrub hflash => ?_⟩
    obtain ⟨hended, hused, hopened⟩ := doDebugToken_opened hup hfree q len htoken hentry hscrub hflash
    rw [entered_token] at hopened
    exact ⟨hended, hused, hopened⟩
  · have hclosed : Closed (s.setRBit rMbxCtl 20 false) (closeSess (s.setRBit rMbxCtl 20 false) 1) :=
      closeSess_closed (s := s.setRBit rMbxCtl 20 false) hs 1
    refine ⟨_, next_congr ((doCloseSession_free hup hfree hs q).trans (if_pos hport)), ?_, mbxDone_ended _ (by decide)⟩
    exact (hclosed.of_mbxOnly (setRBit_mbxOnly _ _ _)).mbxDone 0
  · exact ⟨_, next_congr ((doCloseSession_free hup hfree hs q).trans (if_neg hport)),
      ((setRBit_mbxOnly s 20 false).trans (mbxDone_mbxOnly _ _)).rest, mbxDone_ended _ (by decide)⟩
  · exact ⟨_, next_congr (doSessionDurationExpiry_closes hs hdur), closeSess_closed hs 2⟩
  · obtain ⟨hvocab, htable⟩ := scrubEnd_zeros s
    have hdone := doDebugScrubDone_alone hscrub hnext
    cases hbusy : s.rbit rMbxCtl 19 with
    | false =>
      rw [hbusy, if_neg Bool.false_ne_true] at hdone
      exact ⟨_, next_congr hdone, rfl, scrubEnd_quiet s, fun h => absurd h Bool.false_ne_true, hvocab, htable⟩
    | true =>
      rw [hbusy, if_pos rfl] at hdone
      refine ⟨_, next_congr hdone, rfl, ?_, fun _ => mbxDone_ended _ (by decide), hvocab, htable⟩
      rw [(mbxDone_mbxOnly _ _).rbit (by decide), scrubEnd_quiet]
  · have hgone := doRecoveryLoad_gone hphase hport hgo obj
    exact ⟨_, rfl, hgone.rest, hgone.goes, fun back => recoveryLoadDone_spec hgone hphase back⟩
  · exact ⟨_, next_congr (doDebugMemoryWrite_open hup hs _ data).1, rfl, fun y => smGet_debugStore _ _ _ _ _⟩
  · exact ⟨_, next_congr (doDebugMemoryWrite_open hup hs _ data).2, rfl, fun y => smGet_debugStore _ _ _ _ _⟩

end Sys2Proof.Machine
end
